-- ==== Sys2Proof/Word.lean ====
section
/-! DEFINITION. The word types of the model, by the widths the spec gives its fields (00, R5 to R8), and the shape of a
space that is mostly zero. -/

namespace Sys2Proof

/-- One byte of a memory. -/
abbrev Byte := BitVec 8

/-- A 16-bit word: register set cells of a cluster, BF16 and FP16 values, status codes. -/
abbrev Word16 := BitVec 16

/-- A 32-bit word: registers, FP32 values, vector lanes. -/
abbrev Word32 := BitVec 32

/-- A 64-bit word: scalar registers, addresses, counters, FP64 values. -/
abbrev Word64 := BitVec 64

/-- A 128-bit word: a Philox block, a DMA descriptor. -/
abbrev Word128 := BitVec 128

/-- A 256-bit word: a digest, a feed or store descriptor. -/
abbrev Word256 := BitVec 256

/-- A 512-bit word: a bundle of a cluster program. -/
abbrev Word512 := BitVec 512

/-- A space of cells, held as (address, value) in ONE canonical form: addresses rising, no value zero; an address that is
not listed reads as zero. -/
abbrev Mem (w : Nat) := List (Nat × BitVec w)

end Sys2Proof
end

