-- ==== Sys2Proof/Syntax.lean ====
section
/-! DEFINITION. The commands of the block: one constructor for each row of spec/opcode_table.json, in the table's order.
A slot command of a partition carries the fields of its bundle slot (06, R203 to R221); p is the partition, 0 to 11. -/

namespace Sys2Proof

/-- Operand fields of a scalar-slot operation on registers (06, scalar slot). -/
structure ScalarArgs where
  /-- Predicate register that suppresses the slot when 0 (R204). -/
  pred : BitVec 3
  /-- Destination register, or predicate in its low three bits. -/
  dst : BitVec 5
  /-- First source. -/
  srcA : BitVec 5
  /-- Second source. -/
  srcB : BitVec 5
  /-- The 40-bit immediate. -/
  imm : BitVec 40
deriving DecidableEq, Repr

/-- Operand fields of an array-slot PASS or load (06, array slot). -/
structure ArrayArgs where
  /-- Predicate. -/
  pred : BitVec 3
  /-- Semiring mode code (R132). -/
  mode : BitVec 3
  /-- Stationary limb of a mode-2 set: hi or lo. -/
  statHi : Bool
  /-- Transposed pass (R150). -/
  transpose : Bool
  /-- Exchange the sets at the first entry (R144). -/
  swap : Bool
  /-- Begin, not continue (R177). -/
  first : Bool
  /-- Accumulator index of the pass. -/
  acc : BitVec 3
  /-- Vectors minus one. -/
  len : BitVec 7
deriving DecidableEq, Repr

/-- Operand fields of the feed slot (06, feed slot). -/
structure FeedArgs where
  /-- Predicate. -/
  pred : BitVec 3
  /-- Feed descriptor of the stream. -/
  sdesc : BitVec 4
  /-- Feed descriptor of the stationary operand. -/
  ldesc : BitVec 4
  /-- Streaming vectors minus one. -/
  slen : BitVec 7
  /-- g register added to the generator's bases. -/
  soff : BitVec 5
  /-- g register added to the descriptor's bases. -/
  loff : BitVec 5
  /-- Hi limb of a mode-2 stream. -/
  strHi : Bool
deriving DecidableEq, Repr

/-- Operand fields of the store slot (06, store slot). -/
structure StoreArgs where
  /-- Predicate. -/
  pred : BitVec 3
  /-- Store descriptor. -/
  desc : BitVec 3
  /-- Source rows minus one. -/
  rows : BitVec 8
  /-- g register added to src. -/
  srcOff : BitVec 5
  /-- g register added to dst. -/
  dstOff : BitVec 5
  /-- g register added to sdst. -/
  sdstOff : BitVec 5
deriving DecidableEq, Repr

/-- Operand fields of the vector slot (06, vector slot). -/
structure VecArgs where
  /-- Predicate. -/
  pred : BitVec 3
  /-- Destination vector register. -/
  vd : BitVec 4
  /-- First source. -/
  va : BitVec 4
  /-- Second source. -/
  vb : BitVec 4
  /-- Third source. -/
  vc : BitVec 4
  /-- g register of an SRAM operand address, or of the word index of VRAND. -/
  vaddr : BitVec 5
  /-- Signed offset in 64-byte units. -/
  vimm : BitVec 16
  /-- 48 bits whose meaning the operation defines. -/
  vext : BitVec 48
deriving DecidableEq, Repr

/-- Operand fields of the DMA slot (06, DMA slot). -/
structure DmaArgs where
  /-- Predicate. -/
  pred : BitVec 3
  /-- DMA descriptor. -/
  desc : BitVec 5
  /-- Buffer index. -/
  buf : BitVec 6
  /-- g register added to the descriptor's addr. -/
  aoff : BitVec 5
  /-- g register added to the descriptor's sram. -/
  soff : BitVec 5
  /-- Bytes; 0 takes the descriptor's length. -/
  len : BitVec 24
deriving DecidableEq, Repr

/-- A line that on-die ECC reports when it is read: corrected, or uncorrectable (10, R325, R326). -/
structure EccLine where
  /-- M-stack. -/
  stack : BitVec 3
  /-- Stack address divided by 64. -/
  line : BitVec 30
  /-- Uncorrectable. -/
  bad : Bool
deriving DecidableEq, Repr

/-- A BAR0 write of 4 or 8 bytes (17, R562). -/
structure WriteArgs where
  /-- 8 bytes. -/
  wide : Bool
  /-- Value; bits 31:0 where 4 bytes are written. -/
  v : Word64
deriving DecidableEq, Repr

/-- A flit as a port receives it, with what its decoder reports (12, R387, R388). Assumption 14 (DESIGN CHOICE). -/
structure FlitArgs where
  /-- Port 0 to 23. -/
  port : Nat
  /-- Half-port b of a split port. -/
  half : Bool
  /-- The 256 bytes, byte i in bits 8i + 7 to 8i. -/
  word : BitVec 2048
  /-- A codeword of the flit was uncorrectable. -/
  bad : Bool
  /-- A codeword of the flit took the extended decode path. -/
  fec : Bool
  /-- Uncorrectable codewords that completed with this flit. -/
  unc : BitVec 4
  /-- Symbols corrected on local lanes 0 to 7 in the codewords that completed with this flit. -/
  sym : List (BitVec 16)
  /-- Nanoseconds since the last command that carried a time. -/
  dt : Word64
deriving DecidableEq, Repr

/-- A host command (17, R565, R566). -/
structure HostArgs where
  /-- Function: 0 the PF, p + 1 VF p. -/
  fn : Nat
  /-- It came through the mailbox. -/
  mbox : Bool
  /-- Tag. -/
  tag : Word32
  /-- Arguments: byte 8 + i of the entry in bits 8i + 7 to 8i. -/
  args : BitVec 448
deriving DecidableEq, Repr

/-- What other modules hold for a restore: the commit records and images of the buddy's two slots, and kind 1 sections of a donor
by their offsets (16, R545, R550). Assumption 14 (DESIGN CHOICE). -/
structure Far where
  /-- Commit record of slot A. -/
  recA : BitVec 512
  /-- Commit record of slot B. -/
  recB : BitVec 512
  /-- Image of slot A. -/
  imgA : List Byte
  /-- Image of slot B. -/
  imgB : List Byte
  /-- Sections of a donor. -/
  donor : List (Nat × List Byte)
deriving DecidableEq, Repr

/-- A datagram that reaches the management port (18, R584, R586). -/
structure MsgArgs where
  /-- Source address, 16 bytes. -/
  src : List Byte
  /-- Source port. -/
  port : BitVec 16
  /-- UDP payload. -/
  bytes : List Byte
  /-- Nanoseconds since the last command that carried a time. -/
  dt : Word64
deriving DecidableEq, Repr

/-- What firmware measures in START (19, R637, R638; 20, R651). Assumption 14 (DESIGN CHOICE). -/
structure StartArgs where
  /-- Ring counts of the 512 physical clusters. -/
  rings : List Nat
  /-- Junction temperature of the 16 C-dies, degrees Celsius. -/
  thetas : List Int
  /-- Vmin of the dies' SRAM margin monitors, mV. -/
  vmins : List Nat
  /-- Clusters whose test packs fail. -/
  failed : BitVec 512
  /-- Test-pack key: X then Y. -/
  packKey : BitVec 768
  /-- `model_id` values of section type 4 of the running image, whose layout the spec does not give (17). -/
  models : List Nat
  /-- Nanoseconds since power-good. -/
  dt : Word64
deriving DecidableEq, Repr

/-- Sensor readings of a thermal sample, degrees Celsius (19, R633; R645). Assumption 14 (DESIGN CHOICE). -/
structure ThermalArgs where
  /-- Hottest junction. -/
  junction : Byte
  /-- Hottest M-stack. -/
  stack : Byte
  /-- Coolant inlet. -/
  inlet : Byte
  /-- Coolant outlet. -/
  outlet : Byte
deriving DecidableEq, Repr

/-- What the always-on domain finds at its power-on (18, R583; 19, R642; 21, R668). -/
structure PowerOnArgs where
  /-- The first input present is the main input. -/
  main : Bool
  /-- Its level, mV. -/
  mv : BitVec 16
  /-- Straps NODE_ID2 to NODE_ID0. -/
  straps : BitVec 3
  /-- Duplicate address detection finds a duplicate. -/
  dup : Bool
  /-- Copy A of the life record fails its CRC. -/
  badA : Bool
  /-- Copy B fails its CRC. -/
  badB : Bool
deriving DecidableEq, Repr

/-- Where the wall deadline of a solver request passes (14, R475). -/
inductive WallAt where
  /-- No deadline passes. -/
  | never
  /-- While the request is queued. -/
  | queued
  /-- During the refactorisation of step 4 of R474. -/
  | factor
  /-- After iteration k was written and before the next boundary comparison. -/
  | boundary (k : Nat)
  /-- During iteration k + 1, which is completed and discarded. -/
  | during (k : Nat)
  /-- During the refactorisation of R469 at the boundary after iteration k. -/
  | adapt (k : Nat)
deriving DecidableEq, Repr

/-- The commands. p is a partition, l a module-wide logical cluster, fn a function, dt the nanoseconds since the last command
that carried a time. -/
inductive Instr where
  /-- BOOT_ROM_DONE (R650): When the PLLs are locked and Onyx has been sensed, BOOT_STATE moves from BOOT_ROM to
  FW_VERIFY, or to FAILED on a sense mismatch. -/
  | bootRomDone (mismatch : Bool)
  /-- FW_VERIFY (R559): The boot ROM checks the preferred firmware bank and then the other bank, and runs the first
  that passes or enters FAILED with 0x0503. -/
  | fwVerify (keyA keyB : BitVec 768)
  /-- START (R651): Firmware runs the start-up steps: thermal limits, margin plan, bridges and memory, test packs,
  logical assignment, boot plan and governor handover, and then sets READY. -/
  | start (a : StartArgs)
  /-- START_PHASE_TIMEOUT (R652): A start-up phase that exceeds its bound ends start-up with event 0x04F1. -/
  | startPhaseTimeout (phase : BitVec 4)
  /-- FUNCTION_LEVEL_RESET (R557): An FLR of a VF or of the PF ends the affected jobs, deconfigures their queue
  contexts and zeroes their ring registers. -/
  | functionLevelReset (fn : Nat)
  /-- HOST_PATH_TIMEOUT (R558): A step boundary that has waited 1 s on the host path ends its job with event 0x0403. -/
  | hostPathTimeout (p : Nat)
  /-- BRIDGE_LANE_FAIL (R19): A failed lane of a bridge group is replaced by a spare lane at the next FCLK retraining
  window. -/
  | bridgeLaneFail (bridge group : Nat)
  /-- BRIDGE_GROUP_LOSS (R20): A group that has lost more than 2 lanes is taken out of use and the step in flight is
  replayed. -/
  | bridgeGroupLoss (bridge group : Nat)
  /-- BRIDGE_LOSS (R21): A bridge that has lost all its groups makes firmware switch the NoC to alternate routes at
  the next step boundary and replay the step. -/
  | bridgeLoss (bridge : Nat)
  /-- CLUSTER_FAIL (R26): A failed logical cluster is moved to a free spare, the step is replayed and an event is
  sent. -/
  | clusterFail (l : Nat)
  /-- HUB_CORE_FAIL (R33): A failed hub core is removed from service, and with fewer than three cores left every
  partition is halted and BOOT_STATE becomes HALTED. -/
  | hubCoreFail (core : BitVec 2)
  /-- ITEM_ARRIVAL (R36): A variable-latency item lands in its receive buffer and sets its presence flag, which lets a
  held bundle issue after the readiness sample. -/
  | itemArrival (l : Nat) (buf : BitVec 6) (mark : Option (BitVec 4))
  /-- STALL_WATCHDOG (R233): A stall that lasts SQ_WDOG consecutive CCLK ends the job and sends event 0x0220. -/
  | stallWatchdog (p : Nat)
  /-- BUFFER_WAIT (R221): A bundle that names a buffer in a wait field releases it at issue, and a poisoned buffer
  ends the job instead. -/
  | bufferWait (p : Nat) (bufs : List (BitVec 6))
  /-- BRK (R274): In debug mode, a bundle with brk 1 freezes the partition in the cycle in which it would issue. -/
  | brk (p : Nat)
  /-- DEBUG_FREEZE (R274): Three issue cycles after a trap, the partition freezes and firmware sends event 0x0240. -/
  | debugFreeze (p : Nat)
  /-- DEBUG_RESUME (R277): The resume bit of DBG_CTRL clears the trap records and ends the freeze. -/
  | debugResume (p : Nat)
  /-- DEBUG_END_JOB (R282): The end bit of DBG_CTRL, while the partition is frozen, halts the job with event 0x0241. -/
  | debugEndJob (p : Nat)
  /-- DBG_CL_DATA_WRITE (R281): A debug-window data write reaches only AC_PEEK_SEL of the selected cluster and is
  ignored elsewhere. -/
  | dbgClDataWrite (fn : Nat) (w : WriteArgs)
  /-- LOOP (R206): LOOP pushes a counted loop on the loop stack, or skips the body when count is 0. -/
  | loop (p : Nat) (count : BitVec 20) (last : BitVec 13)
  /-- JUMP (R206): JUMP makes target the next address and pops the loops that do not contain it. -/
  | jump (p : Nat) (target : BitVec 13)
  /-- VBR_ANY (R208): VBR_ANY votes ctl_pred over the partition and branches after two delay bundles if any cluster
  voted 1. -/
  | vbrAny (p : Nat) (pred : BitVec 3) (target : BitVec 13)
  /-- VBR_ALL (R208): VBR_ALL votes ctl_pred over the partition and branches after two delay bundles if every cluster
  voted 1. -/
  | vbrAll (p : Nat) (pred : BitVec 3) (target : BitVec 13)
  /-- STEP_END (R232): The step boundary waits for buffers, commits and atomics, then releases the buffers, clears the
  tiles, closes the fingerprint and log and advances the step. -/
  | stepEnd (p : Nat)
  /-- HALT (R232): HALT performs the step boundary and then ends the job. -/
  | halt (p : Nat)
  /-- ADD (R203): Scalar ADD writes ga + gb to gd. -/
  | add (p : Nat) (a : ScalarArgs)
  /-- SUB (R203): Scalar SUB writes ga - gb to gd. -/
  | sub (p : Nat) (a : ScalarArgs)
  /-- AND (R203): Scalar AND writes the bitwise AND of ga and gb to gd. -/
  | and (p : Nat) (a : ScalarArgs)
  /-- OR (R203): Scalar OR writes the bitwise OR of ga and gb to gd. -/
  | or (p : Nat) (a : ScalarArgs)
  /-- XOR (R203): Scalar XOR writes the bitwise XOR of ga and gb to gd. -/
  | xor (p : Nat) (a : ScalarArgs)
  /-- SHL (R203): Scalar SHL shifts ga left by gb & 63. -/
  | shl (p : Nat) (a : ScalarArgs)
  /-- SHR (R203): Scalar SHR shifts ga logically right by gb & 63. -/
  | shr (p : Nat) (a : ScalarArgs)
  /-- SAR (R203): Scalar SAR shifts ga arithmetically right by gb & 63. -/
  | sar (p : Nat) (a : ScalarArgs)
  /-- MUL (R203): Scalar MUL writes the low 64 bits of ga times gb. -/
  | mul (p : Nat) (a : ScalarArgs)
  /-- ADDI (R203): Scalar ADDI writes ga plus the sign-extended immediate. -/
  | addi (p : Nat) (a : ScalarArgs)
  /-- LI (R203): Scalar LI loads the sign-extended immediate. -/
  | li (p : Nat) (a : ScalarArgs)
  /-- LIH (R203): Scalar LIH replaces the high 24 bits of ga with the immediate. -/
  | lih (p : Nat) (a : ScalarArgs)
  /-- CEQ (R203): CEQ sets pd when ga equals gb. -/
  | ceq (p : Nat) (a : ScalarArgs)
  /-- CLT (R203): CLT sets pd when ga is less than gb, signed. -/
  | clt (p : Nat) (a : ScalarArgs)
  /-- CLTU (R203): CLTU sets pd when ga is less than gb, unsigned. -/
  | cltu (p : Nat) (a : ScalarArgs)
  /-- CEQI (R203): CEQI sets pd when ga equals the immediate. -/
  | ceqi (p : Nat) (a : ScalarArgs)
  /-- CLTI (R203): CLTI sets pd when ga is less than the immediate, signed. -/
  | clti (p : Nat) (a : ScalarArgs)
  /-- PAND (R203): PAND writes the AND of two predicates. -/
  | pand (p : Nat) (a : ScalarArgs)
  /-- POR (R203): POR writes the OR of two predicates. -/
  | por (p : Nat) (a : ScalarArgs)
  /-- PNOT (R203): PNOT writes the negation of a predicate. -/
  | pnot (p : Nat) (a : ScalarArgs)
  /-- LD (R210): LD reads 8 bytes of SRAM into gd at the end of cycle u + 2. -/
  | ld (p : Nat) (a : ScalarArgs)
  /-- ST (R203): ST writes gb as 8 bytes to SRAM. -/
  | st (p : Nat) (a : ScalarArgs)
  /-- CRD (R211): CRD reads a control register, and a hidden register reads 0x0. -/
  | crd (p : Nat) (a : ScalarArgs)
  /-- CWR (R211): CWR writes a control register, and writes to reserved, RO or FX fields are ignored. -/
  | cwr (p : Nat) (a : ScalarArgs)
  /-- PASS (R137): PASS enters streaming vectors through the array pipeline and combines their results into an
  accumulator tile. -/
  | pass (p : Nat) (a : ArrayArgs)
  /-- STALL_LOAD (R142): STALL_LOAD writes the active register set one row per cycle. -/
  | stallLoad (p : Nat) (a : ArrayArgs)
  /-- SHADOW_LOAD (R143): SHADOW_LOAD writes the inactive register set while passes continue. -/
  | shadowLoad (p : Nat) (a : ArrayArgs)
  /-- RETIRE (R187): RETIRE exchanges the front and back tiles of an accumulator index. -/
  | retire (p : Nat) (pred : BitVec 3) (acc : BitVec 3)
  /-- DRAIN (R189): DRAIN reads the back tile row by row to the vector unit's drain port. -/
  | drain (p : Nat) (pred : BitVec 3) (acc : BitVec 3)
  /-- STREAM (R213): The feed STREAM operation reads, converts and delivers streaming vectors through an address
  generator. -/
  | stream (p : Nat) (a : FeedArgs)
  /-- STAT (R213): The feed STAT operation reads the stationary scales and rows and delivers converted stationary
  rows. -/
  | stat (p : Nat) (a : FeedArgs)
  /-- STREAM_STAT (R213): Feed operation 3 performs a STREAM and a STAT together. -/
  | streamStat (p : Nat) (a : FeedArgs)
  /-- STORE (R217): STORE converts FP32 source rows to a stored format, chooses the scales and writes the rows, the
  scales and the attribute record. -/
  | store (p : Nat) (a : StoreArgs)
  /-- VLD (R246): VLD loads a 512-byte SRAM operand into a vector register. -/
  | vld (p : Nat) (a : VecArgs)
  /-- VST (R246): VST stores a vector register to SRAM. -/
  | vst (p : Nat) (a : VecArgs)
  /-- VDRN (R246): VDRN copies the drain-port row into a vector register. -/
  | vdrn (p : Nat) (a : VecArgs)
  /-- VDST (R246): VDST writes the drain-port row to SRAM. -/
  | vdst (p : Nat) (a : VecArgs)
  /-- FADD (R246): FADD adds FP32 lanes. -/
  | fadd (p : Nat) (a : VecArgs)
  /-- FSUB (R246): FSUB subtracts FP32 lanes. -/
  | fsub (p : Nat) (a : VecArgs)
  /-- FMUL (R246): FMUL multiplies FP32 lanes. -/
  | fmul (p : Nat) (a : VecArgs)
  /-- FMA (R246): FMA computes a fused multiply-add per lane. -/
  | fma (p : Nat) (a : VecArgs)
  /-- FMIN (R246): FMIN takes the smaller lane, with NaN propagating. -/
  | fmin (p : Nat) (a : VecArgs)
  /-- FMAX (R246): FMAX takes the larger lane, with NaN propagating. -/
  | fmax (p : Nat) (a : VecArgs)
  /-- FABS (R246): FABS clears the sign bit of each lane. -/
  | fabs (p : Nat) (a : VecArgs)
  /-- FNEG (R246): FNEG flips the sign bit of each lane. -/
  | fneg (p : Nat) (a : VecArgs)
  /-- FCMPEQ (R246): FCMPEQ writes an all-ones mask where the lanes are equal. -/
  | fcmpeq (p : Nat) (a : VecArgs)
  /-- FCMPLT (R246): FCMPLT writes an all-ones mask where a < b. -/
  | fcmplt (p : Nat) (a : VecArgs)
  /-- FCMPLE (R246): FCMPLE writes an all-ones mask where a <= b. -/
  | fcmple (p : Nat) (a : VecArgs)
  /-- VSEL (R246): VSEL selects a or b per lane by a mask. -/
  | vsel (p : Nat) (a : VecArgs)
  /-- FDIV (R246): FDIV divides FP32 lanes. -/
  | fdiv (p : Nat) (a : VecArgs)
  /-- FSQRT (R246): FSQRT takes the square root of FP32 lanes. -/
  | fsqrt (p : Nat) (a : VecArgs)
  /-- CVTFI (R246): CVTFI converts FP32 to s32 with round to nearest even and saturation. -/
  | cvtfi (p : Nat) (a : VecArgs)
  /-- CVTIF (R246): CVTIF converts s32 to FP32. -/
  | cvtif (p : Nat) (a : VecArgs)
  /-- IADD (R246): IADD adds 32-bit integer lanes with wrapping. -/
  | iadd (p : Nat) (a : VecArgs)
  /-- ISUB (R246): ISUB subtracts 32-bit integer lanes with wrapping. -/
  | isub (p : Nat) (a : VecArgs)
  /-- VEC_AND (R246): Vector AND takes the bitwise AND of the lanes. -/
  | vecAnd (p : Nat) (a : VecArgs)
  /-- VEC_OR (R246): Vector OR takes the bitwise OR of the lanes. -/
  | vecOr (p : Nat) (a : VecArgs)
  /-- VEC_XOR (R246): Vector XOR takes the bitwise XOR of the lanes. -/
  | vecXor (p : Nat) (a : VecArgs)
  /-- SHLI (R246): SHLI shifts the lanes left by an immediate. -/
  | shli (p : Nat) (a : VecArgs)
  /-- SHRI (R246): SHRI shifts the lanes logically right by an immediate. -/
  | shri (p : Nat) (a : VecArgs)
  /-- SARI (R246): SARI shifts the lanes arithmetically right by an immediate. -/
  | sari (p : Nat) (a : VecArgs)
  /-- VBCST (R246): VBCST broadcasts an immediate to every lane. -/
  | vbcst (p : Nat) (a : VecArgs)
  /-- VIDX (R246): VIDX writes the immediate plus the lane number to each lane. -/
  | vidx (p : Nat) (a : VecArgs)
  /-- VROT (R246): VROT rotates the lanes by an immediate. -/
  | vrot (p : Nat) (a : VecArgs)
  /-- VSPLAT (R246): VSPLAT copies one lane to every lane. -/
  | vsplat (p : Nat) (a : VecArgs)
  /-- EXP2 (R251): EXP2 computes exp2_fn per lane. -/
  | exp2 (p : Nat) (a : VecArgs)
  /-- LOG2 (R252): LOG2 computes log2_fn per lane. -/
  | log2 (p : Nat) (a : VecArgs)
  /-- RCP (R253): RCP computes the correctly rounded reciprocal per lane. -/
  | rcp (p : Nat) (a : VecArgs)
  /-- RSQRT (R254): RSQRT computes the correctly rounded reciprocal square root per lane. -/
  | rsqrt (p : Nat) (a : VecArgs)
  /-- TANH (R255): TANH computes tanh_fn per lane. -/
  | tanh (p : Nat) (a : VecArgs)
  /-- ERF (R256): ERF computes erf_fn per lane. -/
  | erf (p : Nat) (a : VecArgs)
  /-- GUMBEL (R257): GUMBEL transforms a u32 word into Gumbel noise per lane. -/
  | gumbel (p : Nat) (a : VecArgs)
  /-- NORMINV (R258): NORMINV computes the inverse normal distribution function per lane. -/
  | norminv (p : Nat) (a : VecArgs)
  /-- VRAND (R288): VRAND reserves the Opal pipeline and writes Philox words in the selected output form. -/
  | vrand (p : Nat) (a : VecArgs)
  /-- RSUM (R248): RSUM reduces the lanes by the fixed tree and adds the carry. -/
  | rsum (p : Nat) (a : VecArgs)
  /-- RSUMSQ (R248): RSUMSQ reduces the squared lanes by the fixed tree and adds the carry. -/
  | rsumsq (p : Nat) (a : VecArgs)
  /-- RMAX (R248): RMAX takes the maximum over the lanes and the carry. -/
  | rmax (p : Nat) (a : VecArgs)
  /-- RARGMAX (R249): RARGMAX finds the largest value and the lowest index over the lanes and the carry. -/
  | rargmax (p : Nat) (a : VecArgs)
  /-- READ (R221): DMA READ copies HBM bytes into a held SRAM buffer. -/
  | read (p : Nat) (a : DmaArgs) (ecc : List EccLine)
  /-- WRITE (R221): DMA WRITE copies SRAM bytes to HBM as a committed write. -/
  | write (p : Nat) (a : DmaArgs)
  /-- SEND (R221): DMA SEND copies SRAM bytes to a buffer of a remote cluster and rank. -/
  | send (p : Nat) (a : DmaArgs)
  /-- RECV (R225): DMA RECV arms a buffer to receive a number of bytes. -/
  | recv (p : Nat) (a : DmaArgs)
  /-- ATOMIC_ADD (R227): Ordered ATOMIC_ADD queues FP32 contributions that are applied at the step boundary. -/
  | atomicAdd (p : Nat) (a : DmaArgs)
  /-- ATOMIC_ADD_RELAXED (R68): ATOMIC_ADD_RELAXED adds on arrival and counts as a timing-dependent operation. -/
  | atomicAddRelaxed (p : Nat) (a : DmaArgs)
  /-- HOSTOUT (R221): HOSTOUT copies SRAM bytes to a host output buffer as a committed write. -/
  | hostout (p : Nat) (a : DmaArgs)
  /-- REGREAD (R220): REGREAD asks the H-die for a mapped value or an update port and receives 8 bytes. -/
  | regread (p : Nat) (a : DmaArgs)
  /-- SOLVE (R471): DMA SOLVE sends a delta packet to Beryl and arms the answer range. -/
  | solve (p : Nat) (a : DmaArgs)
  /-- SEED (R304): DMA SEED requests a conditioned true-noise seed, as a timing-dependent operation. -/
  | seed (p : Nat) (a : DmaArgs)
  /-- COLL (R424): DMA COLL calls a collective and arms its completion word. -/
  | coll (p : Nat) (a : DmaArgs)
  /-- COLL_BEGIN (R427): A collective call begins at a rank once earlier writes have committed, after its refusal
  checks. -/
  | collBegin (p : Nat) (id : BitVec 32)
  /-- MEASURE (R361): The MEASURE phase writes the exact norm record of each tensor of the group. -/
  | measure (p : Nat) (group : BitVec 6)
  /-- APPLY (R364): The APPLY phase checks the group norm and applies the optimiser, or replays or skips the step. -/
  | apply (p : Nat) (group : BitVec 6)
  /-- STATE_DIGEST (R513): A digest-port phase forms the four CRC lanes of the rank's masters. -/
  | stateDigest (p : Nat)
  /-- VERDICT (R516): The verdict phase compares the gathered replica digests and answers AGREE, ODD, SPLIT or SINGLE. -/
  | verdict (p : Nat)
  /-- UPDATE_ENGINE_MISMATCH (R505): A mismatch of the duplicated update-engine datapath requests a replay or fails
  the engine. -/
  | updateEngineMismatch (p : Nat) (die : BitVec 2) (granule : BitVec 48)
  /-- UNCORRECTABLE_ERROR (R486): An uncorrectable error in a cluster structure sends event 0x05B0 and requests a
  replay. -/
  | uncorrectableError (l : Nat) (structure_ : BitVec 8) (place : BitVec 32)
  /-- REPLAY (R495): A replay abandons the attempt, discards its pending items, advances the attempt number and runs
  every restore. -/
  | replay (p : Nat) (restoreBad copyBad : Bool)
  /-- REPLAY_RESTART (R497): After the restores and the restart barrier, the new attempt's first bundle issues. -/
  | replayRestart (p : Nat) (dt : Word64)
  /-- HEALTH_DECAY (R502): Once per second every health score is reduced by its decay. -/
  | healthDecay (dt : Word64)
  /-- NEIGHBOUR_PARITY_ERROR (R166): A neighbour-link parity error is counted, replays the step and moves a repeating
  hop to the relay. -/
  | neighbourParityError (l : Nat) (hop : BitVec 2)
  /-- SPOT_CHECK_COMPARE (R509): A checker recomputes a sampled pass and compares the bits, and a mismatch requests a
  replay. -/
  | spotCheckCompare (l : Nat) (differs : Bool)
  /-- TEST_WINDOW_CLOSE (R522): At the end of the tests the state is copied back, or a failing test declares the
  cluster failed. -/
  | testWindowClose (fail : Option (BitVec 8))
  /-- STACK_FAIL (R331): A failed M-stack is declared failed, and the protected regions go degraded, start rebuild or
  become LOST. -/
  | stackFail (stack : BitVec 3)
  /-- REBUILD_STRIPE (R334): Rebuild writes one new 6+1 stripe, lowers the pointer and completes at 0 with event
  0x0566. -/
  | rebuildStripe (p : Nat)
  /-- PATROL_SCRUB (R330): The patrol scrub reads lines in idle cycles and corrects or poisons them. -/
  | patrolScrub (stack : BitVec 3) (line : BitVec 30) (err : Option Bool)
  /-- BAR4_READ (R556): A host read through BAR4 reads HBM, or completes with Completer Abort or as poisoned. -/
  | bar4Read (fn : Nat) (off : Word64) (n : BitVec 13)
  /-- BAR4_WRITE (R556): A host write through BAR4 writes HBM with parity maintained, or is dropped when refused. -/
  | bar4Write (fn : Nat) (off : Word64) (data : List Byte)
  /-- GETS (R344): The directory decides a GetS on a control-space line, with data or RETRY. -/
  | gets (line : BitVec 15) (req : BitVec 5) (fclk : BitVec 64)
  /-- GETM (R345): The directory decides a GetM, granting after invalidations or answering RETRY and favouring the
  oldest. -/
  | getm (line : BitVec 15) (req : BitVec 5) (fclk : BitVec 64)
  /-- PUTM (R344): A writeback stores the line and is completed before requests of the same FCLK. -/
  | putm (line : BitVec 15) (req : BitVec 5) (data : Word512)
  /-- OWNER_RECALL (R345): After the owner has held a favoured line for 16 FCLK, the directory recalls it. -/
  | ownerRecall (line : BitVec 15) (fclk : BitVec 64)
  /-- LINK_IDLE (R393): An IDLE flit updates acknowledgements and credits. -/
  | linkIdle (a : FlitArgs)
  /-- LINK_NAK (R396): A NAK makes the sender retransmit from the named sequence number. -/
  | linkNak (a : FlitArgs)
  /-- LINK_TRAIN (R412): TRAIN flits exchange parameters, and a wrong peer leaves the link MISWIRED. -/
  | linkTrain (a : FlitArgs)
  /-- FLIT_FORWARD (R403): A transit module forwards a flit through its next hop entry, or rejects it. -/
  | flitForward (a : FlitArgs)
  /-- SEND_FLIT (R405): A SEND flit is delivered to the named buffer of the logical cluster after the job, epoch and
  attempt checks. -/
  | sendFlit (a : FlitArgs)
  /-- RWRITE (R341): An RWRITE is written to the target's HBM as a committed write and acknowledged. -/
  | rwrite (a : FlitArgs)
  /-- RREAD_REQ (R341): An RREAD_REQ is read from the target's HBM and answered with RREAD_DATA. -/
  | rreadReq (a : FlitArgs)
  /-- RREAD_DATA (R405): RREAD_DATA fills the requester's buffer. -/
  | rreadData (a : FlitArgs)
  /-- RATOMIC (R439): An ordered RATOMIC is held and applied at the target's step boundary. -/
  | ratomic (a : FlitArgs)
  /-- RATOMIC_RELAXED (R439): RATOMIC_RELAXED is added at the target on arrival. -/
  | ratomicRelaxed (a : FlitArgs)
  /-- COLL_FLIT (R421): A collective flit joins a tree node or a destination, with signature and poison checks. -/
  | collFlit (a : FlitArgs)
  /-- A2A_FLIT (R435): An all-to-all flit places or returns a token row. -/
  | a2aFlit (a : FlitArgs)
  /-- ACK (R389): An ACK completes a remote write message for the sender's boundary. -/
  | ack (a : FlitArgs)
  /-- NACK (R416): A NACK with a newer epoch updates the route entry and requests a replay. -/
  | nack (a : FlitArgs)
  /-- REJECT (R404): A REJECT makes the requester proceed as for a rejected access. -/
  | reject (a : FlitArgs)
  /-- ROUTE_FAIL (R410): A ROUTE_FAIL selects the alternate route and requests a replay, or ends the job. -/
  | routeFail (a : FlitArgs)
  /-- REPLAY_TIMEOUT (R396): When ack has not advanced for 4 us, the sender retransmits from the oldest unacknowledged
  flit. -/
  | replayTimeout (port : Nat) (half : Bool)
  /-- LANE_FAIL (R407): A lane out of lock, too skewed or too error-prone fails, and the link retrains narrower. -/
  | laneFail (port : Nat) (lane : BitVec 3)
  /-- LINK_FAIL (R409): A link that cannot keep a width or retrain becomes FAILED, selects alternate routes and
  requests a replay. -/
  | linkFail (port : Nat) (half : Bool)
  /-- LINK_RETRAIN_REQUEST (R412): The retrain bit of LK_PORT_CTRL restarts a MISWIRED or FAILED link from PMD_TRAIN. -/
  | linkRetrainRequest (port : Nat)
  /-- ARRIVE (R444): An ARRIVE flit is forwarded up the barrier tree, and the root fixes T_rel. -/
  | arrive (a : FlitArgs)
  /-- RELEASE (R444): A RELEASE flit carries T_rel, next_cut and job_cut down the tree. -/
  | release (a : FlitArgs)
  /-- BARRIER_RELEASE_TIME (R444): The held STEP_END issues in the first CCLK at which Quartz reaches T_rel. -/
  | barrierReleaseTime (p : Nat)
  /-- ABORT (R496): An ABORT flit ends the named attempt at the rank and starts its replay. -/
  | abort (a : FlitArgs)
  /-- CKPT_REQ (R537): A cut request reaching rank 0 is merged into the next RELEASE as next_cut. -/
  | ckptReq (a : FlitArgs)
  /-- CKPT_DONE (R541): CKPT_DONE results are ANDed up the tree, and rank 0 updates job_cut on success. -/
  | ckptDone (a : FlitArgs)
  /-- TIME (R441): A TIME flit carries timestamps from which a FOLLOW module corrects its time. -/
  | time (a : FlitArgs)
  /-- TIME_EXCHANGE (R441): Every 2^20 ns a FOLLOW module exchanges TIME flits with its parent. -/
  | timeExchange (dt : Word64)
  /-- QUARTZ_HOLDOVER (R443): After 16 periods without a valid exchange, Quartz enters HOLDOVER. -/
  | quartzHoldover (dt : Word64)
  /-- QZ_LOAD (R440): In role MASTER, a write to QZ_LOAD loads TIME64 at the next SCLK. -/
  | qzLoad (fn : Nat) (v : Word64)
  /-- QP_SOLVE_REQUEST (R474): Beryl applies a SOLVE packet's entries, refactors if stale and iterates until a check,
  the budget or the deadline ends it. -/
  | qpSolveRequest (ctx : BitVec 3)
  /-- QP_APPLY_REQUEST (R474): Beryl applies an APPLY packet's entries and answers without iterating. -/
  | qpApplyRequest (ctx : BitVec 3)
  /-- WALL_DEADLINE (R475): A passed wall deadline ends the request with DEADLINE or DEADLINE_IN_FACTOR. -/
  | wallDeadline (ctx : BitVec 3) (at_ : WallAt)
  /-- SOLVER_SRAM_UNCORRECTABLE (R482): An uncorrectable solver SRAM error poisons the context. -/
  | solverSramUncorrectable (ctx : BitVec 3)
  /-- BS_CTX_CFG_WRITE (R453): Configuring a context checks its allotment and binding, or sets cfg_err. -/
  | bsCtxCfgWrite (fn : Nat) (ctx : BitVec 3) (mem : Bool) (v : Word32)
  /-- BS_FRAME_WRITE (R457): A BS_FRAME write takes effect at the next frame boundary, or is ignored if it moves a
  busy context. -/
  | bsFrameWrite (fn : Nat) (v : Word64)
  /-- TRNG_HEALTH_FAIL (R303): A health-test failure empties the pool, poisons waiting requests and schedules a
  restart, or latches FAILED. -/
  | trngHealthFail (apt : Bool) (dt : Word64)
  /-- SEED_CONDITIONED (R302): 512 passing samples are hashed into a seed, which enters the pool or serves a waiting
  request. -/
  | seedConditioned (samples : Word512)
  /-- IMAGE_COMMIT (R540): Once the streamed image is acknowledged, Agate writes the committed commit record and sends
  event 0x02C0. -/
  | imageCommit (p : Nat)
  /-- CUT_TIMEOUT (R542): A cut not committed within CK_TIMEOUT fails with reason 4. -/
  | cutTimeout (p : Nat)
  /-- CUT_REQUEST (R537): The take bit of CK_CTRL requests a cut and sends CKPT_REQ to rank 0. -/
  | cutRequest (p : Nat)
  /-- CK_DRAIN (R544): The go bit of CK_DRAIN_CTRL copies the committed job_cut slot to host memory. -/
  | ckDrain (p : Nat)
  /-- CK_DRAIN_COMPLETE (R544): A completed drain sets done and sends event 0x02C1. -/
  | ckDrainComplete (p : Nat)
  /-- CTX_CONFIG (R566): CTX_CONFIG configures a queue context's rings and output table. -/
  | ctxConfig (a : HostArgs)
  /-- CTX_CLEAR (R566): CTX_CLEAR deconfigures a queue context. -/
  | ctxClear (a : HostArgs)
  /-- JOB_START (R567): JOB_START checks the block, images and areas, loads the images, restores if asked and starts
  the job. -/
  | jobStart (a : HostArgs) (far : Far)
  /-- JOB_RUNNING (R570): When clearing and any restore finish, the partition becomes RUNNING. -/
  | jobRunning (p : Nat)
  /-- JOB_END (R571): JOB_END ends the partition's job at its next step boundary. -/
  | jobEnd (a : HostArgs)
  /-- JOB_RELEASE (R571): JOB_RELEASE zeroes the slice and returns the partition to IDLE. -/
  | jobRelease (a : HostArgs)
  /-- PLAN_CHANGE (R578): PLAN_CHANGE releases every partition, resets the configuration and puts the new plan in
  force. -/
  | planChange (a : HostArgs)
  /-- SEED_GET (R307): SEED_GET fetches a true-noise seed to host memory, or answers 0x0450. -/
  | seedGet (a : HostArgs)
  /-- SV_LOAD (R458): SV_LOAD checks and loads a problem image into a context and computes its elimination structure. -/
  | svLoad (a : HostArgs)
  /-- SV_CLEAR (R478): SV_CLEAR discards a context's problem. -/
  | svClear (a : HostArgs)
  /-- SV_SOLVE (R478): SV_SOLVE queues a host solver request whose answer goes to HBM. -/
  | svSolve (a : HostArgs)
  /-- SV_STATE (R478): SV_STATE returns a context's state and its last answer header. -/
  | svState (a : HostArgs)
  /-- FW_STAGE (R560): FW_STAGE verifies and writes a firmware image into the idle bank and marks it preferred. -/
  | fwStage (a : HostArgs) (key : BitVec 768)
  /-- PACK_INSTALL (R520): PACK_INSTALL verifies and stores a newer signed test pack. -/
  | packInstall (a : HostArgs) (key : BitVec 768)
  /-- CMD_TAIL_WRITE (R566): A host producer-index write makes firmware fetch and perform ring commands in order. -/
  | cmdTailWrite (fn : Nat) (v : Word32) (key : BitVec 768) (far : Far)
  /-- MBOX_GO (R566): Writing 1 to MBOX_GO performs the mailbox command between two ring commands. -/
  | mboxGo (fn : Nat) (key : BitVec 768) (far : Far)
  /-- RING_SIZE_WRITE (R564): A write of CMD_SIZE or EVT_SIZE resets the ring's head and tail indices and applies its
  base. -/
  | ringSizeWrite (fn : Nat) (evt : Bool) (v : Word32)
  /-- DOORBELL (R572): A doorbell write sets a context's producer index, or is dropped and counted. -/
  | doorbell (fn : Nat) (off : BitVec 16) (v : Word64)
  /-- STEP_ENTRY_FETCH (R576): Firmware fetches step entries, completes invalid ones, and starts a waiting partition
  when its entry arrives. -/
  | stepEntryFetch (k : Nat)
  /-- LOG_TAIL_WRITE (R81): Advancing REP_LOG_TAIL releases a partition held by a full log. -/
  | logTailWrite (fn : Nat) (v : Word32)
  /-- RC_READ (R8): A read of an RC field returns the value and clears it. -/
  | rcRead (fn : Nat) (off : BitVec 16) (n : BitVec 4)
  /-- LOW_HALF_READ (R87): A read of the low half of a 64-bit register latches its high half for that function. -/
  | lowHalfRead (fn : Nat) (off : BitVec 16) (n : BitVec 4)
  /-- REGISTER_WRITE (R8): A write to a register without a row of its own behaves by its access code, its effect rule
  and its ignore and hold rules. -/
  | registerWrite (fn : Nat) (off : BitVec 16) (w : WriteArgs)
  /-- READ_REQ (R586): A READ_REQ is authenticated and answered with READ_RSP. -/
  | readReq (m : MsgArgs)
  /-- WRITE_REQ (R594): A WRITE_REQ checks every item and applies them all in one application tick, or none. -/
  | writeReq (m : MsgArgs)
  /-- EVENT_ACK (R601): An EVENT_ACK acknowledges event messages to a collector and frees queue entries. -/
  | eventAck (m : MsgArgs)
  /-- KEY_SET (R591): KEY_SET installs a wrapped key into a slot, or enrols slot 0 without a prior key. -/
  | keySet (m : MsgArgs) (stuck : List (BitVec 12))
  /-- APPLICATION_TICK (R598): Every 1 ms firmware applies accepted management writes and settles conflicts with host
  writes. -/
  | applicationTick (dt : Word64)
  /-- FUSE_BURN (R663): An accepted FUSE write burns its bytes, verifies them by read-back and updates the Onyx copy. -/
  | fuseBurn (stuck : List (BitVec 12))
  /-- EVENT_SEND (R601): The module sends an EVENT message to a collector when records wait or 50 ms have passed. -/
  | eventSend (c : BitVec 2) (dt : Word64)
  /-- EVENT_RETRANSMIT (R601): Every 1 s the oldest unacknowledged EVENT is retransmitted. -/
  | eventRetransmit (c : BitVec 2)
  /-- COLLECTOR_STALE (R602): A collector that acknowledges nothing for 10 s becomes STALE. -/
  | collectorStale (c : BitVec 2)
  /-- AUX_PRESENT (R609): The auxiliary input rising above 10.5 V feeds the always-on domain from it. -/
  | auxPresent (mv : BitVec 16)
  /-- AUX_ABSENT (R609): The auxiliary input falling below 10.0 V feeds the always-on domain from the main input. -/
  | auxAbsent (mv : BitVec 16)
  /-- MAIN_ENABLE (R611): When the start conditions hold, the main domain is precharged and powered up in order. -/
  | mainEnable (mv : BitVec 16)
  /-- OVER_VOLTAGE (R613): A main input above 62 V turns the main domain off. -/
  | overVoltage (mv : BitVec 16)
  /-- MAIN_BELOW_WARNING (R616): The main input falling below W raises a cause-13 hold in every partition. -/
  | mainBelowWarning (mv : BitVec 16) (dt : Word64)
  /-- MAIN_ABOVE_RESUME (R617): The main input rising above W + 1 V releases the hold or leaves HALTED. -/
  | mainAboveResume (mv low : BitVec 16) (dt : Word64)
  /-- MAIN_BELOW_RESET (R620): The main input falling below 38 V resets the main domain at once. -/
  | mainBelowReset (mv : BitVec 16)
  /-- PERMIT_SAMPLE (R623): Each ms the permits are sampled and the permit state and halt change by the table. -/
  | permitSample (a b : Int) (dt : Word64)
  /-- HALT_REQUEST (R626): An effective halt ends the partition's job at its next step boundary. -/
  | haltRequest (fn : Nat) (v : Word32)
  /-- HALT_BOUND_EXPIRY (R627): A partition that has not reached a boundary within the halt bound stops issue and ends
  its job. -/
  | haltBoundExpiry (p : Nat)
  /-- FAST_PATH_WINDOW (R630): Each 10 us window sets the duty of the cause-7 suppression hold against the cap. -/
  | fastPathWindow (watts : BitVec 16)
  /-- SLOW_PATH (R631): Every 100 us the governor steps the CCLK target and voltage up or down. -/
  | slowPath (watts : BitVec 16)
  /-- THERMAL_ADJUST (R633): Every 1 ms the thermal limit falls or rises one step by the sensors. -/
  | thermalAdjust (a : ThermalArgs)
  /-- CANARY_SAMPLE (R640): Each ms the canaries are sampled, and a trip lowers CCLK and schedules a re-plan. -/
  | canarySample (slack : BitVec 16)
  /-- LIFE_RECORD_COMMIT (R642): The life record commits counters every 60 s, alternating copies. -/
  | lifeRecordCommit (secs wh : BitVec 32)
  /-- RESERVED_OPERATION (R205): A slot carrying a reserved operation code is not performed, sets slot_invalid and
  traps in debug mode. -/
  | reservedOperation (p : Nat) (slot : BitVec 3)
  /-- LINK_TRAINING_COMPLETE (R382): PMD training of a link's lanes, first or after a retrain, ends and the link moves
  on to codeword lock. -/
  | linkTrainingComplete (port : Nat) (half : Bool)
  /-- CODEWORD_LOCK (R386): After 3 good consecutive codewords at one alignment a receiver takes codeword lock and
  deskews the link's lanes. -/
  | codewordLock (port : Nat) (half : Bool) (lanes : BitVec 8)
  /-- CODEWORD_LOCK_LOSS (R386): After 4 consecutive uncorrectable codewords a receiver loses codeword lock on a lane. -/
  | codewordLockLoss (port : Nat) (lane : BitVec 3)
  /-- ALWAYS_ON_POWER_ON (R648): The first input becoming present powers and resets the always-on domain, which then
  reads the straps, sets the permit state to STOP, resumes the life clock and sets the sequence floors. -/
  | alwaysOnPowerOn (a : PowerOnArgs)
  /-- CCLK_RELOCK_DONE (R84): The CCLK PLL completes its relock in a margin re-plan, the CCLK pause ends and the re-
  plan holds are released. -/
  | cclkRelockDone (dt : Word64)
  /-- AUX_OVERVOLTAGE (R671): An auxiliary input rising above 13.2 V makes the always-on domain draw from the main
  input. -/
  | auxOvervoltage (mv : BitVec 16)
  /-- MODULE_RESET (R648): Turning on the main domain resets the module and enters BOOT_ROM, where Onyx is sensed and
  copied. -/
  | moduleReset
  /-- PERST (R649): PERST# or a PCIe hot reset acts as a Function Level Reset of the physical function, without
  restarting start-up. -/
  | perst
  /-- PCIE_LINK_DOWN (R558): While the PCIe link is down, host output writes, step completions and events are held,
  and they are delivered in order when the link returns. -/
  | pcieLinkDown
  /-- TEST_WINDOW_OPEN (R521): Every tw_period seconds a test window hands a cluster to a spare at a step boundary, or
  is postponed. -/
  | testWindowOpen
  /-- TRNG_RESTART (R303): 100 ms after a failure the start-up test runs again, and its pass returns the source to OK. -/
  | trngRestart
  /-- ANNOUNCE (R603): The module sends an unauthenticated ANNOUNCE every 60 s. -/
  | announce
  /-- SURPRISE_REMOVAL (R612): A break of the short presence contact turns the main domain off within 20 us. -/
  | surpriseRemoval
  /-- ORDERLY_REMOVAL (R614): Writing main enable 0 turns the main domain off, commits the life record and sets
  removal safe. -/
  | orderlyRemoval
  /-- HOLD_LIMIT_EXPIRY (R618): When the hold limit passes, firmware performs an orderly halt of every job. -/
  | holdLimitExpiry
  /-- PERMIT_FAULT_CLEAR (R624): A write of the permit fault clear returns FAULT to RUN when both channels are
  energised. -/
  | permitFaultClear
  /-- THERMAL_TRIP (R635): Two samples at a trip value end every job, turn off the main domain and latch the trip. -/
  | thermalTrip
  /-- MARGIN_REPLAN (R641): An in-service re-plan holds every partition at a boundary, pauses CCLK to relock and
  releases. -/
  | marginReplan
  /-- PCIE_LINK_UP (R558): When the PCIe link trains and returns, the held host output writes, step completions and
  event records are delivered in their original order. -/
  | pcieLinkUp
  /-- NOISE_STARTUP_TEST_DONE (R303): The 1,024-sample start-up test of the true noise source completes and, if both
  tests pass, puts the source in state OK with event 0x0551 after a failure. -/
  | noiseStartupTestDone
  /-- ALWAYS_ON_HOLD_UP_END (R608): When both inputs have been lost, the always-on domain turns off once its 50 ms
  hold-up ends. -/
  | alwaysOnHoldUpEnd
deriving DecidableEq, Repr

end Sys2Proof
end

