-- ==== Sys2Proof/WellFormed.lean ====
section
/-! DEFINITION. Well-formed commands: the units that an operand may name and the lengths that a message, a flit and a measurement
have. -/

namespace Sys2Proof

/-- A partition (01, R42). -/
def partOk (p : Nat) : Bool := decide (p < 12)

/-- A logical cluster (01). -/
def clusterOk (l : Nat) : Bool := decide (l < 480)

/-- A Rynar port (12). -/
def portOk (k : Nat) : Bool := decide (k < 24)

/-- A function: the PF or one of 12 VFs (17, R554). -/
def fnOk (k : Nat) : Bool := decide (k < 13)

/-- A bridge (01, R18; log entry 5). -/
def bridgeOk (b : Nat) : Bool := decide (b < 60)

/-- A bridge group (01, R18). -/
def groupOk (g : Nat) : Bool := decide (g < 4)

/-- A queue context (01, R42). -/
def contextOk (k : Nat) : Bool := decide (k < 8192)

/-- A flit names a port and gives the corrected symbols of 8 lanes (12, R381, R388). -/
def flitOk (a : FlitArgs) : Bool := portOk a.port && a.sym.length = 8

/-- A datagram has a source address of 16 bytes (18, R583). -/
def msgOk (m : MsgArgs) : Bool := m.src.length = 16

/-- A start measures every physical cluster and every C-die (19, R637, R638). -/
def startOk (a : StartArgs) : Bool := a.rings.length = 512 && a.thetas.length = 16 && a.rings.all (fun n => decide (n < 65536))

/-- A start-up phase (20, R652). -/
def phaseOk (n : BitVec 4) : Bool := decide (1 ≤ n.toNat) && decide (n.toNat ≤ 8)

/-- A requester of the directory: a hub core, or the descriptor cache of a C-die (10). -/
def requesterOk (r : BitVec 5) : Bool := decide (r.toNat < 4) || decide (16 ≤ r.toNat)

/-- A register access of 4 or 8 bytes (17, R562). -/
def sizeOk (n : BitVec 4) : Bool := n = 4 || n = 8

/-- A BAR4 access of 1 to 4,096 bytes (17, R556). -/
def spanOk (n : Nat) : Bool := decide (1 ≤ n) && decide (n ≤ 4096)

/-- Is a command well formed. Assumption 18 (DESIGN CHOICE). -/
def Instr.wf (i : Instr) : Bool :=
  match i with
  | .moduleReset | .bootRomDone _ | .fwVerify _ _ | .perst | .pcieLinkDown | .hubCoreFail _ | .healthDecay _
  | .testWindowOpen | .testWindowClose _ | .stackFail _ | .patrolScrub _ _ _ | .ownerRecall _ _ | .timeExchange _
  | .quartzHoldover _ | .qpSolveRequest _ | .qpApplyRequest _ | .wallDeadline _ _ | .solverSramUncorrectable _
  | .trngHealthFail _ _ | .trngRestart | .seedConditioned _ | .applicationTick _ | .fuseBurn _ | .eventSend _ _
  | .eventRetransmit _ | .collectorStale _ | .announce | .auxPresent _ | .auxAbsent _ | .mainEnable _ | .surpriseRemoval
  | .overVoltage _ | .orderlyRemoval | .mainBelowWarning _ _ | .mainAboveResume _ _ _ | .holdLimitExpiry
  | .mainBelowReset _ | .permitSample _ _ _ | .permitFaultClear | .fastPathWindow _ | .slowPath _ | .thermalAdjust _
  | .thermalTrip | .canarySample _ | .marginReplan | .lifeRecordCommit _ _ | .pcieLinkUp | .noiseStartupTestDone
  | .alwaysOnPowerOn _ | .alwaysOnHoldUpEnd | .cclkRelockDone _ | .auxOvervoltage _ => true
  | .start a => startOk a
  | .startPhaseTimeout phase => phaseOk phase
  | .functionLevelReset fn | .dbgClDataWrite fn _ | .qzLoad fn _ | .bsCtxCfgWrite fn _ _ _ | .bsFrameWrite fn _
  | .cmdTailWrite fn _ _ _ | .mboxGo fn _ _ | .ringSizeWrite fn _ _ | .doorbell fn _ _ | .logTailWrite fn _
  | .registerWrite fn _ _ | .haltRequest fn _ => fnOk fn
  | .hostPathTimeout p | .stallWatchdog p | .bufferWait p _ | .brk p | .debugFreeze p | .debugResume p | .debugEndJob p
  | .loop p _ _ | .jump p _ | .vbrAny p _ _ | .vbrAll p _ _ | .stepEnd p | .halt p | .add p _ | .sub p _ | .and p _
  | .or p _ | .xor p _ | .shl p _ | .shr p _ | .sar p _ | .mul p _ | .addi p _ | .li p _ | .lih p _ | .ceq p _
  | .clt p _ | .cltu p _ | .ceqi p _ | .clti p _ | .pand p _ | .por p _ | .pnot p _ | .ld p _ | .st p _ | .crd p _
  | .cwr p _ | .pass p _ | .stallLoad p _ | .shadowLoad p _ | .retire p _ _ | .drain p _ _ | .stream p _ | .stat p _
  | .streamStat p _ | .store p _ | .vld p _ | .vst p _ | .vdrn p _ | .vdst p _ | .fadd p _ | .fsub p _ | .fmul p _
  | .fma p _ | .fmin p _ | .fmax p _ | .fabs p _ | .fneg p _ | .fcmpeq p _ | .fcmplt p _ | .fcmple p _ | .vsel p _
  | .fdiv p _ | .fsqrt p _ | .cvtfi p _ | .cvtif p _ | .iadd p _ | .isub p _ | .vecAnd p _ | .vecOr p _ | .vecXor p _
  | .shli p _ | .shri p _ | .sari p _ | .vbcst p _ | .vidx p _ | .vrot p _ | .vsplat p _ | .exp2 p _ | .log2 p _
  | .rcp p _ | .rsqrt p _ | .tanh p _ | .erf p _ | .gumbel p _ | .norminv p _ | .vrand p _ | .rsum p _ | .rsumsq p _
  | .rmax p _ | .rargmax p _ | .read p _ _ | .write p _ | .send p _ | .recv p _ | .atomicAdd p _ | .atomicAddRelaxed p _
  | .hostout p _ | .regread p _ | .solve p _ | .seed p _ | .coll p _ | .collBegin p _ | .measure p _ | .apply p _
  | .stateDigest p | .verdict p | .updateEngineMismatch p _ _ | .replay p _ _ | .replayRestart p _ | .rebuildStripe p
  | .barrierReleaseTime p | .imageCommit p | .cutTimeout p | .cutRequest p | .ckDrain p | .ckDrainComplete p
  | .jobRunning p | .haltBoundExpiry p | .reservedOperation p _ => partOk p
  | .bridgeLaneFail bridge group | .bridgeGroupLoss bridge group => bridgeOk bridge && groupOk group
  | .bridgeLoss bridge => bridgeOk bridge
  | .clusterFail l | .itemArrival l _ _ | .uncorrectableError l _ _ | .neighbourParityError l _ | .spotCheckCompare l _ => clusterOk l
  | .bar4Read fn _ n => fnOk fn && spanOk n.toNat
  | .bar4Write fn _ data => fnOk fn && spanOk data.length
  | .gets _ req _ | .getm _ req _ | .putm _ req _ => requesterOk req
  | .linkIdle a | .linkNak a | .linkTrain a | .flitForward a | .sendFlit a | .rwrite a | .rreadReq a | .rreadData a
  | .ratomic a | .ratomicRelaxed a | .collFlit a | .a2aFlit a | .ack a | .nack a | .reject a | .routeFail a | .arrive a
  | .release a | .abort a | .ckptReq a | .ckptDone a | .time a => flitOk a
  | .replayTimeout port _ | .laneFail port _ | .linkFail port _ | .linkRetrainRequest port
  | .linkTrainingComplete port _ | .codewordLock port _ _ | .codewordLockLoss port _ => portOk port
  | .ctxConfig a | .ctxClear a | .jobStart a _ | .jobEnd a | .jobRelease a | .planChange a | .seedGet a | .svLoad a
  | .svClear a | .svSolve a | .svState a | .fwStage a _ | .packInstall a _ => fnOk a.fn
  | .stepEntryFetch k => contextOk k
  | .rcRead fn _ n | .lowHalfRead fn _ n => fnOk fn && sizeOk n
  | .readReq m | .writeReq m | .eventAck m | .keySet m _ => msgOk m

end Sys2Proof
end

