-- ==== Sys2Proof/Config.lean ====
section
/-! DEFINITION. What an implementation fixes and the free values: constants without a body. -/

namespace Sys2Proof.Config

/-- Which of two zeros of opposite sign a max or min of R460 returns: true for the second. The spec leaves it open.
Assumption 20 (DESIGN CHOICE). -/
opaque zeroTie : Nat → Nat → Bool

/-- Severity of an event code that the spec's words do not place on the scale of R523. Assumption 21 (DESIGN CHOICE). -/
opaque severity : Nat → BitVec 4

/-- Wear of a cluster whose fused ring count is unburned, from its ring count: R638 divides by zero there.
Assumption 22 (DESIGN CHOICE). -/
opaque wearUnburned : Nat → BitVec 16

/-- Value of the completion of a command that failed, from its opcode and status: R565 gives the value of a command that
succeeded alone. Assumption 23 (DESIGN CHOICE). -/
opaque completionValue : Nat → Nat → BitVec 64

/-- Phase bit of a mailbox completion, from the tag: R565 gives the phase of a ring alone.
Assumption 23 (DESIGN CHOICE). -/
opaque mailboxPhase : Nat → Bool

/-- Lowest rank whose ARRIVE had not reached an executor, where this rank has no message that names it, from step and attempt
(13, R447). Assumption 24 (DESIGN CHOICE). -/
opaque absentRank : Nat → Nat → BitVec 18

/-- Detail field of an event whose code defines none (15, R523), from code and time. Assumption 25 (DESIGN CHOICE). -/
opaque eventDetail : Nat → Nat → BitVec 64

/-- Are the channel-dependency graphs of the routes of a table acyclic (12, R394): the table of one rank does not name the
modules that its hops pass. Assumption 26 (DESIGN CHOICE). -/
opaque routesAcyclic : List Nat → Bool

end Sys2Proof.Config
end

