-- ==== Sys2Proof/Machine/Bits.lean ====
section
/-! DEFINITION. Bit fields, sign extension, byte order, saturating counts and the canonical form of a sparse space: the
helpers every meaning uses (00, R5, R6, R13). -/

namespace Sys2Proof.Machine

/-- Bits lo + n − 1 to lo of a number (00, R5). -/
def bits (v lo n : Nat) : Nat := v / 2 ^ lo % 2 ^ n

/-- Bit i of a number as a truth value (00, R5). -/
def bitAt (v i : Nat) : Bool := v.testBit i

/-- The number with bits lo + n − 1 to lo replaced by the low n bits of x. -/
def setBits (v lo n x : Nat) : Nat := v - bits v lo n * 2 ^ lo + x % 2 ^ n * 2 ^ lo

/-- A truth value as the number 0 or 1. -/
def b2n (b : Bool) : Nat := if b then 1 else 0

/-- `wrap_u(n, x)` of R13 for an integer x. -/
def wrapU (n : Nat) (x : Int) : Nat := (x % (2 ^ n : Nat)).toNat

/-- The value of the low n bits read as two's complement (R13). -/
def signExt (n v : Nat) : Int :=
  if v % 2 ^ n < 2 ^ (n - 1) then (v % 2 ^ n : Nat) else ((v % 2 ^ n : Nat) : Int) - (2 ^ n : Nat)

/-- 2 to an integer power as a numerator and a denominator shift: m · 2^e for e ≥ 0. -/
def shlInt (m : Int) (k : Nat) : Int := m * (2 ^ k : Nat)

/-- The largest value of an n-bit count. -/
def maxU (n : Nat) : Nat := 2 ^ n - 1

/-- A count of n bits that stops at its largest value (`sat_add64` of 03 for n = 64). -/
def satAdd (n a b : Nat) : Nat := min (a + b) (maxU n)

/-- A count of a register of w bits that saturates. -/
def satInc {w : Nat} (c : BitVec w) (k : Nat) : BitVec w := BitVec.ofNat w (min (c.toNat + k) (2 ^ w - 1))

/-- Integer floor division by a power of two (`>>` of R13). -/
def shrInt (m : Int) (k : Nat) : Int := m / (2 ^ k : Nat)

/-- Bytes of a number, least significant first (00, R6). -/
def leBytes : Nat → Nat → List Byte
  | 0, _ => []
  | n + 1, v => BitVec.ofNat 8 v :: leBytes n (v / 256)

/-- The number that little-endian bytes hold (00, R6). -/
def leNat : List Byte → Nat
  | [] => 0
  | b :: t => b.toNat + 256 * leNat t

/-- Bytes of a number, most significant first (octet strings of 02, R50). -/
def beBytes (n v : Nat) : List Byte := (leBytes n v).reverse

/-- The number that big-endian bytes hold. -/
def beNat (l : List Byte) : Nat := leNat l.reverse

/-- Read a cell of a sparse space; an address not listed reads as zero. Assumption 8 (DESIGN CHOICE). -/
def memGet {w : Nat} : Mem w → Nat → BitVec w
  | [], _ => 0
  | (k, v) :: t, a => if k = a then v else memGet t a

/-- The canonical form: addresses strictly rising above a bound, no value zero. -/
def memWfFrom {w : Nat} : Nat → Mem w → Bool
  | _, [] => true
  | lo, (k, v) :: t => decide (lo ≤ k) && (v != 0) && memWfFrom (k + 1) t

/-- The canonical form of a sparse space. Assumption 8 (DESIGN CHOICE). -/
def memWf {w : Nat} (m : Mem w) : Bool := memWfFrom 0 m

/-- The listed cells of a space from an address upward, n addresses. -/
def memSlice {w : Nat} (m : Mem w) (a n : Nat) : Mem w := m.filter (fun e => decide (a ≤ e.1) && decide (e.1 < a + n))

/-- n cells from an address upward. -/
def memRead {w : Nat} (m : Mem w) (a n : Nat) : List (BitVec w) :=
  let sl := memSlice m a n
  (List.range n).map (fun i => memGet sl (a + i))

/-- The entries that a list of cells from an address upward lists: a zero is not listed. -/
def memEntries {w : Nat} (a : Nat) : List (BitVec w) → Mem w
  | [] => []
  | x :: t => if x = 0 then memEntries (a + 1) t else (a, x) :: memEntries (a + 1) t

/-- Write a list of cells from an address upward, keeping the canonical form. -/
def memWrite {w : Nat} (m : Mem w) (a : Nat) (xs : List (BitVec w)) : Mem w :=
  m.filter (fun e => decide (e.1 < a)) ++ memEntries a xs ++ m.filter (fun e => decide (a + xs.length ≤ e.1))

/-- Write a cell of a sparse space, keeping the canonical form: a zero removes the entry.
Assumption 8 (DESIGN CHOICE). -/
def memSet {w : Nat} (m : Mem w) (a : Nat) (x : BitVec w) : Mem w := memWrite m a [x]

/-- The number held little-endian in n bytes from an address (00, R6). -/
def memLe (m : Mem 8) (a n : Nat) : Nat := leNat (memRead m a n)

/-- Store a number little-endian in n bytes (00, R6). -/
def memSetLe (m : Mem 8) (a n v : Nat) : Mem 8 := memWrite m a (leBytes n v)

/-- Remove every cell whose address lies in [lo, hi): those cells then read as zero. -/
def memClear {w : Nat} (m : Mem w) (lo hi : Nat) : Mem w := m.filter (fun e => e.1 < lo || hi ≤ e.1)

/-- Write one list of (address, value) pairs in order. -/
def memSetAll {w : Nat} (m : Mem w) (l : List (Nat × BitVec w)) : Mem w :=
  l.foldl (fun acc e => memSet acc e.1 e.2) m

/-- Element i of a list of numbers, 0 beyond its end. -/
def nth (l : List Nat) (i : Nat) : Nat := l.getD i 0

/-- Position of the first true, as a bit count: the number of true values of a list. -/
def countTrue (l : List Bool) : Nat := l.foldl (fun n b => if b then n + 1 else n) 0

/-- Ceiling division. -/
def ceilDiv (a b : Nat) : Nat := (a + b - 1) / b

/-- The integer square root by bits, from bit k downward: the largest r with r·r ≤ n that extends the prefix r0. -/
def isqrtBits (n : Nat) : Nat → Nat → Nat
  | 0, r => r
  | k + 1, r => isqrtBits n k (if (r + 2 ^ k) * (r + 2 ^ k) ≤ n then r + 2 ^ k else r)

/-- The integer square root. -/
def isqrt (n : Nat) : Nat := isqrtBits n (Nat.log2 n / 2 + 1) 0

/-- Least and greatest of an integer and two bounds. -/
def clampInt (x lo hi : Int) : Int := if x < lo then lo else if hi < x then hi else x

/-- The largest of a list of integers, if there is one. -/
def maxInt? : List Int → Option Int
  | [] => none
  | x :: t => match maxInt? t with
    | none => some x
    | some y => some (if x < y then y else x)

/-- The characters of an ASCII string as bytes. -/
def asciiBytes (s : String) : List Byte := s.toList.map (fun c => BitVec.ofNat 8 c.toNat)

/-- Split a list into pieces of k elements, at most `fuel` of them. -/
def chunksOf {α : Type} (k : Nat) : Nat → List α → List (List α)
  | 0, _ => []
  | fuel + 1, l => if l.isEmpty then [] else l.take k :: chunksOf k fuel (l.drop k)

/-- Change element i of a list; a position beyond the end changes nothing. -/
def updAt {α : Type} : List α → Nat → (α → α) → List α
  | [], _, _ => []
  | x :: t, 0, f => f x :: t
  | x :: t, n + 1, f => x :: updAt t n f

end Sys2Proof.Machine
end

