-- ==== Sys2Proof/Machine/Float.lean ====
section
/-! DEFINITION. Binary floating point by exact integers: a finite value is m · 2^e, every operation computes exactly and
rounds once to nearest even (00, R13: floating-point operations are named functions that state format and rounding). -/

namespace Sys2Proof.Machine

/-- A binary floating format: exponent width, mantissa width, bias. -/
structure FloatFmt where
  /-- Width of the exponent field. -/
  ew : Nat
  /-- Width of the mantissa field. -/
  mw : Nat
  /-- Bias of the exponent field. -/
  bias : Nat
deriving DecidableEq, Repr

/-- FP32. -/
def fmt32 : FloatFmt := ⟨8, 23, 127⟩
/-- FP64. -/
def fmt64 : FloatFmt := ⟨11, 52, 1023⟩
/-- BF16. -/
def fmtBf16 : FloatFmt := ⟨8, 7, 127⟩
/-- FP16. -/
def fmtFp16 : FloatFmt := ⟨5, 10, 15⟩

/-- A value taken apart: NaN, an infinity, or an exact m · 2^e with its sign (a zero keeps its sign). -/
inductive FVal where
  | nan
  | inf (neg : Bool)
  | fin (neg : Bool) (m : Nat) (e : Int)
deriving DecidableEq, Repr

/-- Sign bit of a code. -/
def fSign (f : FloatFmt) (c : Nat) : Bool := c.testBit (f.ew + f.mw)

/-- Exponent field of a code. -/
def fExp (f : FloatFmt) (c : Nat) : Nat := bits c f.mw f.ew

/-- Mantissa field of a code. -/
def fMant (f : FloatFmt) (c : Nat) : Nat := bits c 0 f.mw

/-- The value of a code. -/
def fUnpack (f : FloatFmt) (c : Nat) : FVal :=
  let ef := fExp f c
  let mf := fMant f c
  if ef = 2 ^ f.ew - 1 then (if mf = 0 then .inf (fSign f c) else .nan)
  else if ef = 0 then .fin (fSign f c) mf (1 - (f.bias : Int) - f.mw)
  else .fin (fSign f c) (mf + 2 ^ f.mw) ((ef : Int) - f.bias - f.mw)

/-- The sign bit as a number in its place. -/
def fSignBits (f : FloatFmt) (neg : Bool) : Nat := if neg then 2 ^ (f.ew + f.mw) else 0

/-- The infinity of a sign. -/
def fInf (f : FloatFmt) (neg : Bool) : Nat := fSignBits f neg + (2 ^ f.ew - 1) * 2 ^ f.mw

/-- The canonical NaN: positive, the top mantissa bit set. -/
def fNan (f : FloatFmt) : Nat := (2 ^ f.ew - 1) * 2 ^ f.mw + 2 ^ (f.mw - 1)

/-- m divided by 2^sh, to nearest even; `sticky` says that the exact value lies above m by less than one unit of m. -/
def rneNat (m sh : Nat) (sticky : Bool) : Nat :=
  let a := m / 2 ^ sh
  let r := m % 2 ^ sh
  let half := 2 ^ (sh - 1)
  if sh = 0 then m
  else if r > half || (r = half && (sticky || a % 2 = 1)) then a + 1 else a

/-- Round ±(m · 2^e) once to nearest even into a format; overflow gives the infinity of its sign. With `sticky` the
exact magnitude lies strictly between m · 2^e and (m + 1) · 2^e, and the caller gives m more bits than the format. -/
def fRound (f : FloatFmt) (neg : Bool) (m : Nat) (e : Int) (sticky : Bool) : Nat :=
  if m = 0 then fSignBits f neg
  else
    let emin : Int := 1 - (f.bias : Int)
    let top : Int := (Nat.log2 m : Int) + e
    let q : Int := (if top < emin then emin else top) - f.mw
    let base : Nat := (q - (emin - f.mw)).toNat * 2 ^ f.mw
    let r : Nat := if q ≤ e then m * 2 ^ (e - q).toNat else rneNat m (q - e).toNat sticky
    let c := base + r
    if c ≥ (2 ^ f.ew - 1) * 2 ^ f.mw then fInf f neg else fSignBits f neg + c

/-- Round an exact integer multiple z · 2^e; an exact zero takes the sign given. -/
def fRoundInt (f : FloatFmt) (z : Int) (e : Int) (zeroNeg : Bool) : Nat :=
  if z = 0 then fSignBits f zeroNeg else fRound f (z < 0) z.natAbs e false

/-- The signed mantissa of a finite value. -/
def fSigned (neg : Bool) (m : Nat) : Int := if neg then -(m : Int) else m

/-- Sum of two exact values rounded once to nearest even. A NaN operand, or infinities of both signs, give the canonical
NaN; an exact zero is −0 only where both operands are −0. -/
def fAdd (f : FloatFmt) (a b : Nat) : Nat :=
  match fUnpack f a, fUnpack f b with
  | .nan, _ => fNan f
  | _, .nan => fNan f
  | .inf s, .inf t => if s = t then fInf f s else fNan f
  | .inf s, _ => fInf f s
  | _, .inf t => fInf f t
  | .fin s m e, .fin t n g =>
    let lo := if e < g then e else g
    let z := shlInt (fSigned s m) (e - lo).toNat + shlInt (fSigned t n) (g - lo).toNat
    fRoundInt f z lo (s && t)

/-- The code with its sign bit inverted. -/
def fNeg (f : FloatFmt) (a : Nat) : Nat := a ^^^ 2 ^ (f.ew + f.mw)

/-- Difference, rounded once to nearest even. -/
def fSub (f : FloatFmt) (a b : Nat) : Nat := fAdd f a (fNeg f b)

/-- Product, rounded once to nearest even; zero by infinity is the canonical NaN. -/
def fMul (f : FloatFmt) (a b : Nat) : Nat :=
  match fUnpack f a, fUnpack f b with
  | .nan, _ => fNan f
  | _, .nan => fNan f
  | .inf s, .inf t => fInf f (s != t)
  | .inf s, .fin t n _ => if n = 0 then fNan f else fInf f (s != t)
  | .fin s m _, .inf t => if m = 0 then fNan f else fInf f (s != t)
  | .fin s m e, .fin t n g => fRound f (s != t) (m * n) (e + g) false

/-- a · b + c with one rounding to nearest even. -/
def fFma (f : FloatFmt) (a b c : Nat) : Nat :=
  match fUnpack f a, fUnpack f b, fUnpack f c with
  | .nan, _, _ => fNan f
  | _, .nan, _ => fNan f
  | _, _, .nan => fNan f
  | .fin s m e, .fin t n g, .fin r k h =>
    let pe := e + g
    let lo := if pe < h then pe else h
    let z := shlInt (fSigned (s != t) (m * n)) (pe - lo).toNat + shlInt (fSigned r k) (h - lo).toNat
    fRoundInt f z lo ((s != t) && r)
  | .fin _ _ _, .fin _ _ _, .inf r => fInf f r
  | x, y, z =>
    let px : Option Bool := match x, y with
      | .inf s, .inf t => some (s != t)
      | .inf s, .fin t n _ => if n = 0 then none else some (s != t)
      | .fin s m _, .inf t => if m = 0 then none else some (s != t)
      | _, _ => none
    match px, z with
    | none, _ => fNan f
    | some p, .inf r => if p = r then fInf f p else fNan f
    | some p, _ => fInf f p

/-- Quotient, rounded once to nearest even. A finite nonzero value by zero is the infinity of the sign; 0/0 and ∞/∞ are
the canonical NaN. -/
def fDiv (f : FloatFmt) (a b : Nat) : Nat :=
  match fUnpack f a, fUnpack f b with
  | .nan, _ => fNan f
  | _, .nan => fNan f
  | .inf _, .inf _ => fNan f
  | .inf s, .fin t _ _ => fInf f (s != t)
  | .fin s _ _, .inf t => fSignBits f (s != t)
  | .fin s m e, .fin t n g =>
    if n = 0 then (if m = 0 then fNan f else fInf f (s != t))
    else
      let k := Nat.log2 n + f.mw + 4
      let q := m * 2 ^ k / n
      let r := m * 2 ^ k % n
      if m = 0 then fSignBits f (s != t)
      else
        let q2 := if q = 0 then 0 else q
        fRound f (s != t) (q2 * 2) (e - g - k - 1) (r != 0)

/-- Square root, rounded once to nearest even. −0 gives −0; a negative value gives the canonical NaN. -/
def fSqrt (f : FloatFmt) (a : Nat) : Nat :=
  match fUnpack f a with
  | .nan => fNan f
  | .inf s => if s then fNan f else fInf f false
  | .fin s m e =>
    if m = 0 then fSignBits f s
    else if s then fNan f
    else
      let k := 2 * (f.mw + 3) + (if (e % 2) = 0 then 0 else 1)
      let n := m * 2 ^ k
      let r := isqrt n
      fRound f false (r * 2) ((e - k) / 2 - 1) (r * r != n)

/-- Is the code a NaN. -/
def fIsNan (f : FloatFmt) (a : Nat) : Bool := fExp f a = 2 ^ f.ew - 1 && fMant f a != 0

/-- Is the code an infinity. -/
def fIsInf (f : FloatFmt) (a : Nat) : Bool := fExp f a = 2 ^ f.ew - 1 && fMant f a = 0

/-- Is the code finite. -/
def fIsFin (f : FloatFmt) (a : Nat) : Bool := fExp f a != 2 ^ f.ew - 1

/-- Is the code a zero of either sign. -/
def fIsZero (f : FloatFmt) (a : Nat) : Bool := fExp f a = 0 && fMant f a = 0

/-- Is the code a subnormal number. -/
def fIsSub (f : FloatFmt) (a : Nat) : Bool := fExp f a = 0 && fMant f a != 0

/-- Magnitude bits of a code. -/
def fAbs (f : FloatFmt) (a : Nat) : Nat := a % 2 ^ (f.ew + f.mw)

/-- The order of two codes that are no NaN, as integers: −0 and +0 are equal. -/
def fKey (f : FloatFmt) (a : Nat) : Int := if fSign f a then -(fAbs f a : Int) else fAbs f a

/-- a < b for codes that are no NaN; with a NaN the answer is false. -/
def fLt (f : FloatFmt) (a b : Nat) : Bool := !fIsNan f a && !fIsNan f b && decide (fKey f a < fKey f b)

/-- a ≤ b; with a NaN the answer is false. -/
def fLe (f : FloatFmt) (a b : Nat) : Bool := !fIsNan f a && !fIsNan f b && decide (fKey f a ≤ fKey f b)

/-- a = b; with a NaN the answer is false; zeros of both signs are equal. -/
def fEq (f : FloatFmt) (a b : Nat) : Bool := !fIsNan f a && !fIsNan f b && decide (fKey f a = fKey f b)

/-- The exponent of the leading bit of a nonzero finite code: floor(log2 |v|). -/
def fLog2 (f : FloatFmt) (a : Nat) : Int :=
  match fUnpack f a with
  | .fin _ m e => (Nat.log2 m : Int) + e
  | _ => 0

/-- Convert between formats, rounded once to nearest even. -/
def fConv (f g : FloatFmt) (a : Nat) : Nat :=
  match fUnpack f a with
  | .nan => fNan g
  | .inf s => fInf g s
  | .fin s m e => fRound g s m e false

/-- The integer z rounded once to nearest even. -/
def fOfInt (f : FloatFmt) (z : Int) : Nat := fRoundInt f z 0 false

/-- Round a rational num / den (den nonzero) times 2^e once to nearest even. -/
def fOfRat (f : FloatFmt) (neg : Bool) (num den : Nat) (e : Int) : Nat :=
  if num = 0 then fSignBits f neg
  else
    let k := Nat.log2 den + f.mw + 4
    let q := num * 2 ^ k / den
    fRound f neg (q * 2) (e - k - 1) (num * 2 ^ k % den != 0)

/-- FP32 addition, `fp32_add_rne`. -/
def add32 (a b : Nat) : Nat := fAdd fmt32 a b
/-- FP64 addition. -/
def add64 (a b : Nat) : Nat := fAdd fmt64 a b
/-- FP64 product. -/
def mul64 (a b : Nat) : Nat := fMul fmt64 a b

end Sys2Proof.Machine
end

