-- ==== Sys2Proof/Machine/StateBeryl.lean ====
section
/-! DEFINITION. The state of the quadratic program solver: contexts with their problem, factor, iterate, journal and queue
(14). FP64 values are held as their 64-bit codes. -/

namespace Sys2Proof.Machine

/-- A stored entry of a sparse matrix in image order. -/
structure QpEnt where
  /-- Row. -/
  row : Nat
  /-- Column. -/
  col : Nat
  /-- Value. -/
  val : Nat
deriving DecidableEq, Repr

/-- A resident problem (14, R450, R459). -/
structure QpProblem where
  /-- Variables. -/
  n : Nat
  /-- Constraints. -/
  m : Nat
  /-- Stored entries of P, by columns. -/
  p : List QpEnt
  /-- Stored entries of A, by columns. -/
  a : List QpEnt
  /-- q. -/
  q : List Nat
  /-- l. -/
  l : List Nat
  /-- u. -/
  u : List Nat
  /-- Elimination order. -/
  perm : List Nat
  /-- Row patterns. -/
  pats : List (List Nat)
deriving DecidableEq, Repr

/-- A factor buffer: rows of L as (column, value) pairs, and D (14, R462, R463). -/
structure QpFactor where
  /-- Rows of L. -/
  rows : List (List (Nat × Nat))
  /-- D. -/
  diag : List Nat
deriving DecidableEq, Repr

/-- The mutable numbers of a context (14, R480, R483). -/
structure QpVals where
  /-- The problem. -/
  prob : QpProblem
  /-- Settings 0 to 10. -/
  set : List Nat
  /-- Penalty exponent. -/
  pe : Int
  /-- Exponents of the ρ vector. -/
  evec : List Int
  /-- x. -/
  x : List Nat
  /-- z. -/
  z : List Nat
  /-- y. -/
  y : List Nat
  /-- Factor buffers 0 and 1. -/
  buf0 : QpFactor
  buf1 : QpFactor
  /-- Buffer in use is buffer 1. -/
  fbuf : Bool
  /-- The factor is stale. -/
  stale : Bool
deriving DecidableEq, Repr

/-- What a queued request is (14, R455, R478, R479). -/
inductive QpKind where
  | cluster (part lcl buf ansAddr ansLen step : Nat)
  | host (fn part ansOff ansLen : Nat)
  | load (fn off : Nat)
  | clear (fn : Nat)
deriving DecidableEq, Repr

/-- A queued request. -/
structure QpReq where
  /-- Where it came from. -/
  kind : QpKind
  /-- Packet. -/
  packet : List Byte
  /-- The slot's `wall`; the packet's own for a host request. -/
  wall : Bool
  /-- Reserved slot bits 17 to 13. -/
  resv : Nat
  /-- The packet carried poison. -/
  poison : Bool
deriving DecidableEq, Repr

/-- A journal key: kind of value and index (14, R480). Kinds 0 to 4 and 8 as packet entries, 9 `rho`, 10 the ρ vector. -/
structure QpKey where
  /-- Kind. -/
  kind : Nat
  /-- Index. -/
  idx : Nat
deriving DecidableEq, Repr

/-- A solver context (14, R453 to R484). -/
structure QpCtx where
  /-- `enable`. -/
  enable : Bool
  /-- `cfg_err`. -/
  cfgErr : Bool
  /-- `part`. -/
  part : BitVec 4
  /-- `client`. -/
  client : BitVec 9
  /-- `size`. -/
  size : BitVec 6
  /-- `base`. -/
  base : BitVec 6
  /-- The resident problem with its numbers. -/
  vals : Option QpVals
  /-- The context is poisoned. -/
  poisoned : Bool
  /-- Queue, oldest first; requests beyond the sixteenth wait at the NoC. -/
  queue : List QpReq
  /-- Values at the first change of the step, and the journal records used. -/
  saved : Option (QpVals × List QpKey)
  /-- BS_CTX_ITERS. -/
  iters : Word64
  /-- BS_CTX_REQS. -/
  reqs : Word64
  /-- BS_CTX_REFACT. -/
  refacts : Word64
  /-- BS_CTX_DEADLINE. -/
  deadlines : Word64
  /-- `last_status`. -/
  last : Word16
  /-- The last answer header, 64 bytes little-endian. -/
  header : Word512
deriving DecidableEq, Repr

/-- A context after reset. -/
def qpCtxReset : QpCtx :=
  { enable := false, cfgErr := false, part := 0, client := 0x1FF, size := 0, base := 0, vals := none, poisoned := false,
    queue := [], saved := none, iters := 0, reqs := 0, refacts := 0, deadlines := 0, last := 0, header := 0 }

/-- The solver (14). -/
structure Beryl where
  /-- Contexts 0 to 7. -/
  ctxs : List QpCtx
  /-- BS_FRAME as last accepted; it takes effect at the next frame boundary. -/
  frame : Word64
  /-- `frame_ignored`. -/
  frameIgnored : Bool
  /-- BS_SOLVES. -/
  solves : Word64
  /-- BS_FACTORS. -/
  factors : Word64
  /-- BS_ECC_CORR. -/
  eccCorr : Word64
deriving DecidableEq, Repr

/-- The solver after reset. -/
def berylReset : Beryl :=
  { ctxs := List.replicate 8 qpCtxReset, frame := 0, frameIgnored := false, solves := 0, factors := 0, eccCorr := 0 }

end Sys2Proof.Machine
end

