-- ==== Sys2Proof/Machine/QpMath.lean ====
section
/-! DEFINITION. The arithmetic of the quadratic program solver: KKT structure, factorisation, solve, iteration, checks and
penalty adaptation (14, R459 to R469). -/

namespace Sys2Proof.Machine

/-- `fp64_fma_rne`. -/
def qFma (a b c : Nat) : Nat := fFma fmt64 a b c
/-- `fp64_neg`. -/
def qNeg (a : Nat) : Nat := fNeg fmt64 a
/-- `fp64_add_rne`. -/
def qAdd (a b : Nat) : Nat := fAdd fmt64 a b
/-- `fp64_mul_rne`. -/
def qMul (a b : Nat) : Nat := fMul fmt64 a b
/-- `fp64_div_rne`. -/
def qDiv (a b : Nat) : Nat := fDiv fmt64 a b
/-- 2 to an integer power as FP64. -/
def qPow2 (e : Int) : Nat := fRound fmt64 false 1 e false
/-- FP64 one. -/
def qOne : Nat := qPow2 0

/-- Two values that compare equal and differ in bits are zeros of opposite sign: which one is returned is left open.
Assumption 20 (DESIGN CHOICE). -/
def qTie (a b : Nat) : Nat := if a = b then a else if Config.zeroTie a b then b else a

/-- `max` of R460. Assumption 20 (DESIGN CHOICE). -/
def qMax (a b : Nat) : Nat := if fLt fmt64 a b then b else if fLt fmt64 b a then a else qTie a b

/-- `min` of R460. Assumption 20 (DESIGN CHOICE). -/
def qMin (a b : Nat) : Nat := if fLt fmt64 b a then b else if fLt fmt64 a b then a else qTie a b

/-- ‖·‖∞ (R466). -/
def qNorm (v : List Nat) : Nat := v.foldl (fun m a => if fLt fmt64 m (fAbs fmt64 a) then fAbs fmt64 a else m) 0

/-- Larger of two non-negative values. -/
def qMaxAbs (a b : Nat) : Nat := if fLt fmt64 a b then b else a

/-- Every element is finite. -/
def qAllFin (v : List Nat) : Bool := v.all (fIsFin fmt64)

/-- N = n + m. -/
def qpN (p : QpProblem) : Nat := p.n + p.m

/-- Position of each index in the elimination order. -/
def qpInv (p : QpProblem) : List Nat := (List.range (qpN p)).map (fun i => p.perm.findIdx (· = i))

/-- An integer setting. -/
def qpInt (set : List Nat) (i : Nat) : Int :=
  match fUnpack fmt64 (nth set i) with
  | .fin neg m e => fSigned neg (if 0 ≤ e then m * 2 ^ e.toNat else m / 2 ^ (-e).toNat)
  | _ => 0

/-- Exponent e_i of each constraint (R461). -/
def qpExps (p : QpProblem) (set : List Nat) (pe : Int) : List Int :=
  (p.l.zip p.u).map (fun b =>
    if fEq fmt64 b.1 b.2 then pe + qpInt set 9
    else if fIsInf fmt64 b.1 && fIsInf fmt64 b.2 then qpInt set 10 else pe)

/-- Off-diagonal entries of C in the upper triangle: row a, column b, value (R459). -/
def qpOff (p : QpProblem) : List QpEnt :=
  let inv := qpInv p
  let place (i j v : Nat) : QpEnt :=
    let a := nth inv i
    let b := nth inv j
    { row := min a b, col := max a b, val := v }
  (p.p.filter (fun e => e.row != e.col)).map (fun e => place e.row e.col e.val) ++
    p.a.map (fun e => place (p.n + e.row) e.col e.val)

/-- Put an entry into a list kept in ascending row order. -/
def qpInsert (e : QpEnt) : List QpEnt → List QpEnt
  | [] => [e]
  | x :: t => if e.row ≤ x.row then e :: x :: t else x :: qpInsert e t

/-- Entries of column k of C above the diagonal, ascending. -/
def qpCol (off : List QpEnt) (k : Nat) : List QpEnt := (off.filter (fun e => e.col = k)).foldr qpInsert []

/-- Walk up the tree from a node until k or a node already in the pattern (R459). -/
def qpWalk (k : Nat) : Nat → Nat → List Nat × List Nat → List Nat × List Nat
  | 0, _, acc => acc
  | fuel + 1, i, (par, pat) =>
    if k ≤ i || pat.contains i then (par, pat)
    else
      let up := nth par i
      let par2 := if up = 0 then par.set i k else par
      qpWalk k fuel (if up = 0 then k else up) (par2, pat ++ [i])

/-- Put a number into an ascending list. -/
def natInsert (x : Nat) : List Nat → List Nat
  | [] => [x]
  | y :: t => if x ≤ y then x :: y :: t else y :: natInsert x t

/-- The row patterns of C; a parent of 0 stands for none, since no node has parent 0 (R459). -/
def qpPatterns (p : QpProblem) : List (List Nat) :=
  let n := qpN p
  let off := qpOff p
  ((List.range n).foldl (fun (acc : List Nat × List (List Nat)) k =>
    let r := (qpCol off k).foldl (fun st e => qpWalk k n e.row st) (acc.1, [])
    (r.1, acc.2 ++ [r.2.foldr natInsert []])) (List.replicate n 0, [])).2

/-- Diagonal of C (R461). -/
def qpDiag (p : QpProblem) (set : List Nat) (ev : List Int) : List Nat :=
  p.perm.map (fun i =>
    if i < p.n then
      qAdd (match p.p.find? (fun e => e.row = i && e.col = i) with | some e => e.val | none => 0) (nth set 0)
    else qNeg (qPow2 (-(ev.getD (i - p.n) 0))))

/-- An entry of a row of L. -/
def qpL (row : List (Nat × Nat)) (a : Nat) : Option Nat := (row.find? (fun e => e.1 = a)).map (·.2)

/-- One row of the factorisation (R462): y, row of L so far and d, over the pattern. -/
def qpRow (rows : List (List (Nat × Nat))) (diag : List Nat) (pat : List Nat) :
    List Nat → List (Nat × Nat) → List (Nat × Nat) → Nat → List (Nat × Nat) × Nat
  | [], _, lk, d => (lk, d)
  | a :: t, y, lk, d =>
    let ya := (qpL y a).getD 0
    let y2 := y.map (fun e =>
      if a < e.1 && pat.contains e.1 then
        match qpL (rows.getD e.1 []) a with
        | some v => (e.1, qFma (qNeg v) ya e.2)
        | none => e
      else e)
    let v := qDiv ya (nth diag a)
    qpRow rows diag pat t y2 (lk ++ [(a, v)]) (qFma (qNeg ya) v d)

/-- A pivot passes the check of R462. -/
def qpPivotOk (d : Nat) (isVar : Bool) : Bool := fIsFin fmt64 d && !fIsZero fmt64 d && fSign fmt64 d != isVar

/-- The factorisation of R462 over the rows that are left; none where a pivot fails. -/
def qpFactorRows (p : QpProblem) (off : List QpEnt) (cdiag : List Nat) :
    List Nat → QpFactor → Option QpFactor
  | [], f => some f
  | k :: t, f =>
    let pat := p.pats.getD k []
    let col := qpCol off k
    let y := pat.map (fun a => (a, match col.find? (fun e => e.row = a) with | some e => e.val | none => 0))
    let r := qpRow f.rows f.diag pat pat y [] (nth cdiag k)
    if qpPivotOk r.2 (decide (nth p.perm k < p.n)) then
      qpFactorRows p off cdiag t { rows := f.rows ++ [r.1], diag := f.diag ++ [r.2] }
    else none

/-- The factorisation of C (R462). -/
def qpFactor (p : QpProblem) (set : List Nat) (ev : List Int) : Option QpFactor :=
  qpFactorRows p (qpOff p) (qpDiag p set ev) (List.range (qpN p)) { rows := [], diag := [] }

/-- K·v = b (R465). -/
def qpSolve (p : QpProblem) (f : QpFactor) (b : List Nat) : List Nat :=
  let n := qpN p
  let h0 := p.perm.map (fun i => nth b i)
  let fwd := f.rows.foldl (fun (h : List Nat) row =>
    let i := h.length
    h ++ [row.foldl (fun s e => qFma (qNeg e.2) (nth h e.1) s) (nth h0 i)]) []
  let dv := (fwd.zip f.diag).map (fun e => qDiv e.1 e.2)
  let bwd := (List.range n).foldl (fun (h : List Nat) r =>
    let j := n - 1 - r
    let v := (List.range' (j + 1) (n - 1 - j)).foldl (fun s i =>
      match qpL (f.rows.getD i []) j with
      | some l => qFma (qNeg l) (nth h i) s
      | none => s) (nth h j)
    h.set j v) dv
  (qpInv p).map (fun a => nth bwd a)

/-- Ax (R466). -/
def qpAx (p : QpProblem) (x : List Nat) : List Nat :=
  p.a.foldl (fun acc e => acc.set e.row (qFma e.val (nth x e.col) (nth acc e.row))) (List.replicate p.m 0)

/-- Aᵀy (R466). -/
def qpAty (p : QpProblem) (y : List Nat) : List Nat :=
  p.a.foldl (fun acc e => acc.set e.col (qFma e.val (nth y e.row) (nth acc e.col))) (List.replicate p.n 0)

/-- Px (R466). -/
def qpPx (p : QpProblem) (x : List Nat) : List Nat :=
  p.p.foldl (fun acc e =>
    let a1 := acc.set e.row (qFma e.val (nth x e.col) (nth acc e.row))
    if e.row < e.col then a1.set e.col (qFma e.val (nth x e.row) (nth a1 e.col)) else a1) (List.replicate p.n 0)

/-- The factor in use. -/
def qpBuf (v : QpVals) : QpFactor := if v.fbuf then v.buf1 else v.buf0

/-- One iteration (R467). -/
def qpIterate (v : QpVals) : QpVals :=
  let p := v.prob
  let prox := nth v.set 0
  let relax := nth v.set 2
  let orl := qAdd qOne (qNeg relax)
  let bx := (v.x.zip p.q).map (fun e => qFma prox e.1 (qNeg e.2))
  let ri := v.evec.map (fun e => qPow2 (-e))
  let bz := (ri.zip (v.y.zip v.z)).map (fun e => qFma (qNeg e.1) e.2.1 e.2.2)
  let s := qpSolve p (qpBuf v) (bx ++ bz)
  let row (i : Nat) : Nat × Nat :=
    let rinv := nth ri i
    let y := nth v.y i
    let z := nth v.z i
    let zt := qFma rinv (qAdd (nth s (p.n + i)) (qNeg y)) z
    let w := qFma relax zt (qMul orl z)
    let z2 := qMin (qMax (qFma rinv y w) (nth p.l i)) (nth p.u i)
    (z2, qFma (qPow2 (v.evec.getD i 0)) (qAdd w (qNeg z2)) y)
  let zy := (List.range p.m).map row
  { v with x := s.take p.n, z := zy.map (·.1), y := zy.map (·.2) }

/-- Elementwise difference. -/
def qpSub (a b : List Nat) : List Nat := (a.zip b).map (fun e => qAdd e.1 (qNeg e.2))

/-- Primal residual vector (R468). -/
def qpRes1 (v : QpVals) : List Nat := qpSub (qpAx v.prob v.x) v.z

/-- Dual residual vector (R468). -/
def qpRes2 (v : QpVals) : List Nat :=
  ((qpPx v.prob v.x).zip (v.prob.q.zip (qpAty v.prob v.y))).map (fun e => qAdd (qAdd e.1 e.2.1) e.2.2)

/-- dp and dd: the maxima of test 2 (R468, R469). -/
def qpMaxima (v : QpVals) : Nat × Nat :=
  (qMaxAbs (qNorm (qpAx v.prob v.x)) (qNorm v.z),
   qMaxAbs (qMaxAbs (qNorm (qpPx v.prob v.x)) (qNorm (qpAty v.prob v.y))) (qNorm v.prob.q))

/-- The sum s of test 3 (R468). -/
def qpSupport (p : QpProblem) (dy : List Nat) : Nat :=
  ((p.l.zip p.u).zip dy).foldl (fun s e =>
    if fLt fmt64 0 e.2 then (if fIsInf fmt64 e.1.2 then fInf fmt64 false else qFma e.1.2 e.2 s)
    else if fLt fmt64 e.2 0 then (if fIsInf fmt64 e.1.1 then fInf fmt64 false else qFma e.1.1 e.2 s)
    else s) 0

/-- The outcome of the checks: a status, if one ends the request, and a certificate (R468). -/
def qpCheck (v : QpVals) (xs ys : List Nat) : Option Nat × List Nat :=
  let p := v.prob
  let r1 := qpRes1 v
  let r2 := qpRes2 v
  let dy := qpSub v.y ys
  let dx := qpSub v.x xs
  let atdy := qpAty p dy
  let pdx := qpPx p dx
  let adx := qpAx p dx
  let fin := [qpAx p v.x, r1, qpPx p v.x, qpAty p v.y, r2, dy, atdy, dx, pdx, adx].all qAllFin
  let mx := qpMaxima v
  let le (a b : Nat) : Bool := fLe fmt64 a b
  if !fin then (some 0x02A4, [])
  else if le (qNorm r1) (qFma (nth v.set 4) mx.1 (nth v.set 3)) && le (qNorm r2) (qFma (nth v.set 4) mx.2 (nth v.set 3))
  then (some 0, [])
  else
    let t3 := qMul (nth v.set 5) (qNorm dy)
    if fLt fmt64 0 (qNorm dy) && le (qNorm atdy) t3 && le (qpSupport p dy) t3 then (some 0x07A1, dy)
    else
      let t4 := qMul (nth v.set 6) (qNorm dx)
      let qdx := (p.q.zip dx).foldl (fun s e => qFma e.1 e.2 s) 0
      let rowOk (e : (Nat × Nat) × Nat) : Bool :=
        (fIsInf fmt64 e.1.2 || le e.2 t4) && (fIsInf fmt64 e.1.1 || le (qNeg t4) e.2)
      if fLt fmt64 0 (qNorm dx) && le (qNorm pdx) t4 && le qdx (qNeg t4) && ((p.l.zip p.u).zip adx).all rowOk
      then (some 0x07A2, dx) else (none, [])

/-- The penalty exponent to refactor with, if adaptation acts (R469). -/
def qpAdapt (v : QpVals) : Option Int :=
  let mx := qpMaxima v
  let pr := qDiv (qNorm (qpRes1 v)) mx.1
  let dr := qDiv (qNorm (qpRes2 v)) mx.2
  let good (a : Nat) : Bool := fIsFin fmt64 a && !fIsZero fmt64 a
  if !(good pr && good dr) then none
  else
    let r := qDiv pr dr
    if !good r then none
    else
      let pn := clampInt (v.pe + (fLog2 fmt64 r + 1) / 2) (-20) 20
      if 2 ≤ (pn - v.pe).natAbs then some pn else none

/-- A factorisation swapped in with its ρ vector and exponent; none where a pivot fails (R463). -/
def qpRefactor (v : QpVals) (pe : Int) : Option QpVals :=
  let ev := qpExps v.prob v.set pe
  match qpFactor v.prob v.set ev with
  | none => none
  | some f =>
    some (if v.fbuf then { v with buf0 := f, fbuf := false, stale := false, pe := pe, evec := ev }
          else { v with buf1 := f, fbuf := true, stale := false, pe := pe, evec := ev })

/-- The outcome of a request that ran. -/
structure QpRun where
  /-- Numbers after it. -/
  vals : QpVals
  /-- Status. -/
  status : Nat
  /-- Iterations. -/
  iters : Nat
  /-- Factorisations completed. -/
  refacts : Nat
  /-- Factorisations begun, abandoned and failed ones included. -/
  begun : Nat
  /-- Certificate. -/
  cert : List Nat
deriving DecidableEq, Repr

/-- End a request. -/
def qpEnd (r : QpRun) (st : Nat) (cert : List Nat) : QpRun := { r with status := st, cert := cert }

/-- x, z and y set to +0. -/
def qpCold (v : QpVals) : QpVals :=
  { v with x := List.replicate v.prob.n 0, z := List.replicate v.prob.m 0, y := List.replicate v.prob.m 0 }

/-- The boundary after iteration k, and the iterations that follow (R468, R469, R474, R475): `left` iterations of the budget
are to come, xs and ys are the iterate at the previous check. -/
def qpLoop (dl : WallAt) : Nat → Nat → List Nat → List Nat → QpRun → QpRun
  | 0, _, _, _, r => qpEnd r 0x06A1 []
  | left + 1, k0, xs, ys, r =>
    if dl = .during k0 then qpEnd r 0x06A2 []
    else
      let v := qpIterate r.vals
      let k := k0 + 1
      let r1 : QpRun := { r with vals := v, iters := k }
      let due := k % (qpInt v.set 7).toNat = 0
      let ck := if due then qpCheck v xs ys else (none, [])
      match ck.1 with
      | some st => qpEnd { r1 with vals := if st = 0x02A4 then qpCold v else v } st ck.2
      | none =>
        let xs2 := if due then v.x else xs
        let ys2 := if due then v.y else ys
        if left = 0 then qpEnd r1 0x06A1 []
        else if dl = .boundary k then qpEnd r1 0x06A2 []
        else
          let pev := (qpInt v.set 8).toNat
          match (if pev != 0 && k % pev = 0 then qpAdapt v else none) with
          | none => qpLoop dl left k xs2 ys2 r1
          | some pn =>
            if dl = .adapt k then qpEnd { r1 with begun := r1.begun + 1 } 0x06A3 []
            else match qpRefactor v pn with
              | none => qpEnd { r1 with begun := r1.begun + 1 } 0x02A3 []
              | some v2 => qpLoop dl left k xs2 ys2 { r1 with vals := v2, refacts := r1.refacts + 1, begun := r1.begun + 1 }

/-- A SOLVE after its entries were applied (R474). -/
def qpRunSolve (dl : WallAt) (budget : Nat) (v : QpVals) : QpRun :=
  let r0 : QpRun := { vals := v, status := 0, iters := 0, refacts := 0, begun := 0, cert := [] }
  if dl = .queued then qpEnd r0 0x06A2 []
  else if v.stale then
    if dl = .factor then qpEnd { r0 with begun := 1 } 0x06A3 []
    else match qpRefactor v v.pe with
      | none => qpEnd { r0 with begun := 1 } 0x02A3 []
      | some v1 => qpLoop dl budget 0 v1.x v1.y { r0 with vals := v1, refacts := 1, begun := 1 }
  else qpLoop dl budget 0 v.x v.y r0

end Sys2Proof.Machine
end

