-- ==== Sys2Proof/Machine/Digest.lean ====
section
/-! DEFINITION. Digests, codes and signatures that the spec names by their published standards: SHA-256 (02, R49 to
R51), HMAC-SHA-256 (18), SHA-384 and ECDSA over P-384 (17, 20), and `crc64_fp` (02, R75). -/

namespace Sys2Proof.Machine

/-- Round constants of SHA-256, from entry 0. -/
def sha256K0 : List Nat :=
  [0x428A2F98, 0x71374491, 0xB5C0FBCF, 0xE9B5DBA5, 0x3956C25B, 0x59F111F1, 0x923F82A4, 0xAB1C5ED5,
   0xD807AA98, 0x12835B01, 0x243185BE, 0x550C7DC3, 0x72BE5D74, 0x80DEB1FE, 0x9BDC06A7, 0xC19BF174,
   0xE49B69C1, 0xEFBE4786, 0x0FC19DC6, 0x240CA1CC, 0x2DE92C6F, 0x4A7484AA, 0x5CB0A9DC, 0x76F988DA,
   0x983E5152, 0xA831C66D, 0xB00327C8, 0xBF597FC7, 0xC6E00BF3, 0xD5A79147, 0x06CA6351, 0x14292967]

/-- Round constants of SHA-256, from entry 32. -/
def sha256K1 : List Nat :=
  [0x27B70A85, 0x2E1B2138, 0x4D2C6DFC, 0x53380D13, 0x650A7354, 0x766A0ABB, 0x81C2C92E, 0x92722C85,
   0xA2BFE8A1, 0xA81A664B, 0xC24B8B70, 0xC76C51A3, 0xD192E819, 0xD6990624, 0xF40E3585, 0x106AA070,
   0x19A4C116, 0x1E376C08, 0x2748774C, 0x34B0BCB5, 0x391C0CB3, 0x4ED8AA4A, 0x5B9CCA4F, 0x682E6FF3,
   0x748F82EE, 0x78A5636F, 0x84C87814, 0x8CC70208, 0x90BEFFFA, 0xA4506CEB, 0xBEF9A3F7, 0xC67178F2]

/-- Round constants of SHA-256. -/
def sha256K : List Nat := sha256K0 ++ sha256K1

/-- Initial hash value of SHA-256, from entry 0. -/
def sha256H : List Nat :=
  [0x6A09E667, 0xBB67AE85, 0x3C6EF372, 0xA54FF53A, 0x510E527F, 0x9B05688C, 0x1F83D9AB, 0x5BE0CD19]

/-- Round constants of SHA-384, from entry 0. -/
def sha512K0 : List Nat :=
  [0x428A2F98D728AE22, 0x7137449123EF65CD, 0xB5C0FBCFEC4D3B2F, 0xE9B5DBA58189DBBC,
   0x3956C25BF348B538, 0x59F111F1B605D019, 0x923F82A4AF194F9B, 0xAB1C5ED5DA6D8118,
   0xD807AA98A3030242, 0x12835B0145706FBE, 0x243185BE4EE4B28C, 0x550C7DC3D5FFB4E2,
   0x72BE5D74F27B896F, 0x80DEB1FE3B1696B1, 0x9BDC06A725C71235, 0xC19BF174CF692694,
   0xE49B69C19EF14AD2, 0xEFBE4786384F25E3, 0x0FC19DC68B8CD5B5, 0x240CA1CC77AC9C65,
   0x2DE92C6F592B0275, 0x4A7484AA6EA6E483, 0x5CB0A9DCBD41FBD4, 0x76F988DA831153B5,
   0x983E5152EE66DFAB, 0xA831C66D2DB43210, 0xB00327C898FB213F, 0xBF597FC7BEEF0EE4,
   0xC6E00BF33DA88FC2, 0xD5A79147930AA725, 0x06CA6351E003826F, 0x142929670A0E6E70]

/-- Round constants of SHA-384, from entry 32. -/
def sha512K1 : List Nat :=
  [0x27B70A8546D22FFC, 0x2E1B21385C26C926, 0x4D2C6DFC5AC42AED, 0x53380D139D95B3DF,
   0x650A73548BAF63DE, 0x766A0ABB3C77B2A8, 0x81C2C92E47EDAEE6, 0x92722C851482353B,
   0xA2BFE8A14CF10364, 0xA81A664BBC423001, 0xC24B8B70D0F89791, 0xC76C51A30654BE30,
   0xD192E819D6EF5218, 0xD69906245565A910, 0xF40E35855771202A, 0x106AA07032BBD1B8,
   0x19A4C116B8D2D0C8, 0x1E376C085141AB53, 0x2748774CDF8EEB99, 0x34B0BCB5E19B48A8,
   0x391C0CB3C5C95A63, 0x4ED8AA4AE3418ACB, 0x5B9CCA4F7763E373, 0x682E6FF3D6B2B8A3,
   0x748F82EE5DEFB2FC, 0x78A5636F43172F60, 0x84C87814A1F0AB72, 0x8CC702081A6439EC,
   0x90BEFFFA23631E28, 0xA4506CEBDE82BDE9, 0xBEF9A3F7B2C67915, 0xC67178F2E372532B]

/-- Round constants of SHA-384, from entry 64. -/
def sha512K2 : List Nat :=
  [0xCA273ECEEA26619C, 0xD186B8C721C0C207, 0xEADA7DD6CDE0EB1E, 0xF57D4F7FEE6ED178,
   0x06F067AA72176FBA, 0x0A637DC5A2C898A6, 0x113F9804BEF90DAE, 0x1B710B35131C471B,
   0x28DB77F523047D84, 0x32CAAB7B40C72493, 0x3C9EBE0A15C9BEBC, 0x431D67C49C100D4C,
   0x4CC5D4BECB3E42B6, 0x597F299CFC657E2A, 0x5FCB6FAB3AD6FAEC, 0x6C44198C4A475817]

/-- Round constants of SHA-384. -/
def sha512K : List Nat := sha512K0 ++ sha512K1 ++ sha512K2

/-- Initial hash value of SHA-384, from entry 0. -/
def sha384H : List Nat :=
  [0xCBBB9D5DC1059ED8, 0x629A292A367CD507, 0x9159015A3070DD17, 0x152FECD8F70E5939,
   0x67332667FFC00B31, 0x8EB44A8768581511, 0xDB0C2E0D64F98FA7, 0x47B5481DBEFA4FA4]

/-- Rotate the low w bits right by n. -/
def rotr (w n x : Nat) : Nat := x / 2 ^ n + x % 2 ^ n * 2 ^ (w - n)

/-- The complement of w bits. -/
def notW (w x : Nat) : Nat := 2 ^ w - 1 - x

/-- Eight working variables of a SHA-2 compression. -/
structure Sha where
  a : Nat
  b : Nat
  c : Nat
  d : Nat
  e : Nat
  f : Nat
  g : Nat
  h : Nat
deriving DecidableEq, Repr

/-- The rotation amounts of a SHA-2 function. -/
structure ShaRot where
  /-- Word width. -/
  w : Nat
  /-- Capital sigma 0. -/
  s0 : Nat × Nat × Nat
  /-- Capital sigma 1. -/
  s1 : Nat × Nat × Nat
  /-- Small sigma 0, the last one a shift. -/
  t0 : Nat × Nat × Nat
  /-- Small sigma 1, the last one a shift. -/
  t1 : Nat × Nat × Nat
deriving DecidableEq, Repr

/-- SHA-256. -/
def shaRot256 : ShaRot := ⟨32, (2, 13, 22), (6, 11, 25), (7, 18, 3), (17, 19, 10)⟩
/-- SHA-384. -/
def shaRot512 : ShaRot := ⟨64, (28, 34, 39), (14, 18, 41), (1, 8, 7), (19, 61, 6)⟩

/-- A capital sigma. -/
def bigSigma (w : Nat) (r : Nat × Nat × Nat) (x : Nat) : Nat := rotr w r.1 x ^^^ rotr w r.2.1 x ^^^ rotr w r.2.2 x
/-- A small sigma. -/
def smallSigma (w : Nat) (r : Nat × Nat × Nat) (x : Nat) : Nat := rotr w r.1 x ^^^ rotr w r.2.1 x ^^^ x / 2 ^ r.2.2

/-- One round. -/
def shaRound (r : ShaRot) (v : Sha) (k wt : Nat) : Sha :=
  let m := 2 ^ r.w
  let t1 := (v.h + bigSigma r.w r.s1 v.e + ((v.e &&& v.f) ^^^ (notW r.w v.e &&& v.g)) + k + wt) % m
  let t2 := (bigSigma r.w r.s0 v.a + ((v.a &&& v.b) ^^^ (v.a &&& v.c) ^^^ (v.b &&& v.c))) % m
  { a := (t1 + t2) % m, b := v.a, c := v.b, d := v.c, e := (v.d + t1) % m, f := v.e, g := v.f, h := v.g }

/-- The rounds, with the message schedule as a window of the sixteen words still to come. -/
def shaRounds (r : ShaRot) : List Nat → List Nat → Sha → Sha
  | [], _, v => v
  | k :: ks, win, v =>
    let nw := (smallSigma r.w r.t1 (nth win 14) + nth win 9 + smallSigma r.w r.t0 (nth win 1) + nth win 0) % 2 ^ r.w
    shaRounds r ks (win.drop 1 ++ [nw]) (shaRound r v k (nth win 0))

/-- The hash value as working variables. -/
def shaOf (l : List Nat) : Sha :=
  { a := nth l 0, b := nth l 1, c := nth l 2, d := nth l 3, e := nth l 4, f := nth l 5, g := nth l 6, h := nth l 7 }

/-- One block of sixteen words joins the hash value. -/
def shaBlock (r : ShaRot) (ks : List Nat) (hv : List Nat) (blk : List Byte) : List Nat :=
  let ws := (chunksOf (r.w / 8) 16 blk).map beNat
  let v := shaRounds r ks ws (shaOf hv)
  (hv.zip [v.a, v.b, v.c, v.d, v.e, v.f, v.g, v.h]).map (fun p => (p.1 + p.2) % 2 ^ r.w)

/-- The padded message of a SHA-2 function with blocks of n bytes. -/
def shaPad (n : Nat) (msg : List Byte) : List Byte :=
  let len := msg.length
  let tail := n / 8
  let z := (n - (len + 1 + tail) % n) % n
  msg ++ [0x80] ++ List.replicate z 0 ++ beBytes tail (8 * len)

/-- A SHA-2 hash value over a message. -/
def shaRun (r : ShaRot) (ks hv : List Nat) (msg : List Byte) : List Nat :=
  let p := shaPad (2 * r.w) msg
  (chunksOf (2 * r.w) (p.length / (2 * r.w)) p).foldl (shaBlock r ks) hv

/-- SHA-256 as 32 octets. -/
def sha256 (msg : List Byte) : List Byte := ((shaRun shaRot256 sha256K sha256H msg).map (beBytes 4)).flatten

/-- SHA-384 as 48 octets. -/
def sha384 (msg : List Byte) : List Byte :=
  (((shaRun shaRot512 sha512K sha384H msg).take 6).map (beBytes 8)).flatten

/-- HMAC-SHA-256. -/
def hmacSha256 (key msg : List Byte) : List Byte :=
  let k0 := if key.length > 64 then sha256 key else key
  let k := k0 ++ List.replicate (64 - k0.length) 0
  sha256 (k.map (fun b => b ^^^ 0x5C) ++ sha256 (k.map (fun b => b ^^^ 0x36) ++ msg))

/-- Octets as a 256-bit value whose byte 0 is the first octet (R50). -/
def digestNat (l : List Byte) : Nat := leNat l

/-- One bit of `crc64_fp` (R75). -/
def crc64Bit (c : Nat) : Nat :=
  if c / 2 ^ 63 % 2 = 1 then (2 * c % 2 ^ 64) ^^^ 0x42F0E1EBA9EA3693 else 2 * c % 2 ^ 64

/-- n bits of a code. -/
def iterN {α : Type} (f : α → α) : Nat → α → α
  | 0, x => x
  | n + 1, x => iterN f n (f x)

/-- One byte of `crc64_fp` (R75). -/
def crc64Byte (c : Nat) (x : Byte) : Nat := iterN crc64Bit 8 (c ^^^ (x.toNat * 2 ^ 56))

/-- `crc64_fp` (R75). -/
def crc64Fp (m : List Byte) : Nat := (m.foldl crc64Byte (2 ^ 64 - 1)) ^^^ (2 ^ 64 - 1)

/-- `line_hash` (R75): the two lanes of one committed line. -/
def lineHash (addr mask : Nat) (data : List Byte) : Nat × Nat :=
  (crc64Fp (leBytes 8 addr ++ leBytes 8 mask ++ data), crc64Fp (data ++ leBytes 8 mask ++ leBytes 8 addr))

/-- The prime of P-384. -/
def p384P : Nat := 2 ^ 384 - 2 ^ 128 - 2 ^ 96 + 2 ^ 32 - 1
/-- The order of the base point of P-384. -/
def p384N : Nat := 0xFFFFFFFFFFFFFFFFFFFFFFFFFFFFFFFFFFFFFFFFFFFFFFFFC7634D81F4372DDF581A0DB248B0A77AECEC196ACCC52973
/-- The coefficient b of P-384. -/
def p384B : Nat := 0xB3312FA7E23EE7E4988E056BE3F82D19181D9C6EFE8141120314088F5013875AC656398D8A2ED19D2A85C8EDD3EC2AEF
/-- The base point of P-384, x. -/
def p384Gx : Nat := 0xAA87CA22BE8B05378EB1C71EF320AD746E1D3B628BA79B9859F741E082542A385502F25DBF55296C3A545E3872760AB7
/-- The base point of P-384, y. -/
def p384Gy : Nat := 0x3617DE4A96262C6F5D9E98BF9292DC29F8F41DBD289A147CE9DA3113B5F0B8C00A60B1CE1D7E819D7A431D7C90EA0E5F

/-- Power modulo m, over the low k bits of the exponent from the highest down. -/
def powMod (m b e : Nat) : Nat → Nat → Nat
  | 0, acc => acc
  | k + 1, acc => powMod m b e k (if e.testBit k then acc * acc % m * b % m else acc * acc % m)

/-- The inverse modulo a prime of at most 384 bits. -/
def invMod (m a : Nat) : Nat := powMod m (a % m) (m - 2) 384 1

/-- A point of the curve; none is the point at infinity. -/
abbrev Point := Option (Nat × Nat)

/-- Sum of two points of P-384. -/
def ecAdd (p q : Point) : Point :=
  match p, q with
  | none, _ => q
  | _, none => p
  | some (x1, y1), some (x2, y2) =>
    let m := p384P
    if x1 = x2 && (y1 + y2) % m = 0 then none
    else
      let l :=
        if x1 = x2 then (3 * x1 * x1 + (m - 3)) * invMod m (2 * y1) % m
        else (y2 + (m - y1)) * invMod m (x2 + (m - x1)) % m
      let x3 := (l * l + 2 * m - x1 - x2) % m
      some (x3, (l * (x1 + (m - x3)) + (m - y1)) % m)

/-- k times a point, over the low n bits of k from the highest down. -/
def ecMul (k : Nat) (p : Point) : Nat → Point → Point
  | 0, acc => acc
  | n + 1, acc => ecMul k p n (if k.testBit n then ecAdd (ecAdd acc acc) p else ecAdd acc acc)

/-- Does a point lie on P-384. -/
def onP384 (x y : Nat) : Bool :=
  decide (x < p384P) && decide (y < p384P) &&
    decide (y * y % p384P = (x * x * x + (p384P - 3) * x + p384B) % p384P)

/-- ECDSA verification over P-384 of a SHA-384 digest against a public key (qx, qy) and a signature (r, s). -/
def ecdsaP384 (qx qy r s : Nat) (digest : List Byte) : Bool :=
  if r = 0 || s = 0 || r ≥ p384N || s ≥ p384N || !onP384 qx qy then false
  else
    let w := invMod p384N s
    let u1 := beNat digest * w % p384N
    let u2 := r * w % p384N
    match ecAdd (ecMul u1 (some (p384Gx, p384Gy)) 384 none) (ecMul u2 (some (qx, qy)) 384 none) with
    | none => false
    | some (x, _) => decide (x % p384N = r)

end Sys2Proof.Machine
end

