-- ==== Sys2Proof/Machine/Formats.lean ====
section
/-! DEFINITION. Element formats, limbs, block scales, store conversion and the attribute record (03, R92 to R122). -/

namespace Sys2Proof.Machine

/-- The element formats of R92. -/
inductive Fmt where
  | fp32 | bf16 | fp16 | e4m3 | e5m2 | e3m2 | e2m3 | e2m1 | mxint8 | int4
deriving DecidableEq, Repr

/-- The format of a 4-bit format code; 0xA to 0xF are reserved (R92). -/
def fmtOfCode (c : Nat) : Option Fmt :=
  match c with
  | 0 => some .fp32 | 1 => some .bf16 | 2 => some .fp16 | 3 => some .e4m3 | 4 => some .e5m2
  | 5 => some .e3m2 | 6 => some .e2m3 | 7 => some .e2m1 | 8 => some .mxint8 | 9 => some .int4
  | _ => none

/-- Width of an element in bits (R92). -/
def fmtWidth : Fmt → Nat
  | .fp32 => 32 | .bf16 => 16 | .fp16 => 16 | .e4m3 => 8 | .e5m2 => 8 | .e3m2 => 6 | .e2m3 => 6 | .e2m1 => 4
  | .mxint8 => 8 | .int4 => 4

/-- Does the format carry block scales (R92). -/
def fmtScaled : Fmt → Bool
  | .fp32 => false | .bf16 => false | .fp16 => false | _ => true

/-- Exponent width, mantissa width and bias; of no meaning for MXINT8 and INT4 (R92). -/
def fmtFloat : Fmt → FloatFmt
  | .fp32 => fmt32 | .bf16 => fmtBf16 | .fp16 => fmtFp16 | .e4m3 => ⟨4, 3, 7⟩ | .e5m2 => ⟨5, 2, 15⟩
  | .e3m2 => ⟨3, 2, 3⟩ | .e2m3 => ⟨2, 3, 1⟩ | .e2m1 => ⟨2, 1, 1⟩ | .mxint8 => ⟨0, 0, 0⟩ | .int4 => ⟨0, 0, 0⟩

/-- The column emax of R92. -/
def fmtEmax : Fmt → Int
  | .fp32 => 127 | .bf16 => 127 | .fp16 => 15 | .e4m3 => 8 | .e5m2 => 15 | .e3m2 => 4 | .e2m3 => 2 | .e2m1 => 2
  | .mxint8 => 0 | .int4 => 2

/-- Largest finite magnitude of a scaled format as m · 2^e (R92). -/
def fmtMaxn : Fmt → Nat × Int
  | .fp32 => (2 ^ 24 - 1, 104) | .bf16 => (255, 120) | .fp16 => (2047, 5) | .e4m3 => (7, 6) | .e5m2 => (7, 13)
  | .e3m2 => (7, 2) | .e2m3 => (15, -1) | .e2m1 => (3, 1) | .mxint8 => (127, -6) | .int4 => (7, 0)

/-- The code of the largest finite magnitude of a scaled format, sign bit clear (R92). -/
def fmtMaxnCode : Fmt → Nat
  | .fp32 => 0x7F7FFFFF | .bf16 => 0x7F7F | .fp16 => 0x7BFF | .e4m3 => 0x7E | .e5m2 => 0x7B
  | .e3m2 => 0x1F | .e2m3 => 0x1F | .e2m1 => 0x7 | .mxint8 => 127 | .int4 => 7

/-- Is the code a non-finite one of the format (R92). -/
def nonfiniteCode (fmt : Fmt) (c : Nat) : Bool :=
  match fmt with
  | .fp32 => !fIsFin fmt32 c
  | .bf16 => !fIsFin fmtBf16 c
  | .fp16 => !fIsFin fmtFp16 c
  | .e5m2 => bits c 2 5 = 0x1F
  | .e4m3 => c % 128 = 0x7F
  | _ => false

/-- A decoded element: zero, an exact m · 2^e, or a non-finite one (R93). -/
inductive Elem where
  | zero
  | finite (m : Int) (e : Int)
  | nonfinite
deriving DecidableEq, Repr

/-- `decode` of R93. -/
def decodeElem (fmt : Fmt) (c : Nat) : Elem :=
  match fmt with
  | .mxint8 => let m := signExt 8 c; if m = 0 then .zero else .finite m (-6)
  | .int4 => let m := signExt 4 c; if m = 0 then .zero else .finite m 0
  | _ =>
    if nonfiniteCode fmt c then .nonfinite
    else
      let f := fmtFloat fmt
      let ef := fExp f c
      let mf := fMant f c
      let m : Nat := if ef = 0 then mf else mf + 2 ^ f.mw
      let e : Int := if ef = 0 then 1 - (f.bias : Int) - f.mw else (ef : Int) - f.bias - f.mw
      if m = 0 then .zero else .finite (if fSign f c then -(m : Int) else m) e

/-- A finite element of an unscaled format is subnormal when its exponent field is zero (R93). -/
def elemSubnormal (fmt : Fmt) (c : Nat) : Bool :=
  match fmt with
  | .mxint8 => false
  | .int4 => false
  | _ => fIsSub (fmtFloat fmt) c

/-- Bytes of a packed row of n elements (R94). -/
def rowBytes (fmt : Fmt) (n : Nat) : Nat := ceilDiv (n * fmtWidth fmt) 8

/-- Element i of a packed row that is held as one little-endian number (R94). -/
def packedElem (fmt : Fmt) (row i : Nat) : Nat := bits row (i * fmtWidth fmt) (fmtWidth fmt)

/-- A packed row of element codes as one little-endian number (R94). -/
def packElems (fmt : Fmt) : List Nat → Nat
  | [] => 0
  | c :: t => c % 2 ^ fmtWidth fmt + 2 ^ fmtWidth fmt * packElems fmt t

/-- Block size of a block-size code; 4 is the whole row, given as its extent (R96). -/
def blockSize (code ext : Nat) : Nat :=
  match code with
  | 0 => 16 | 1 => 32 | 2 => 64 | 3 => 128 | _ => ext

/-- The limb modes of R101. -/
inductive LimbMode where
  | m1 | m2 | mN
deriving DecidableEq, Repr

/-- W of R101. -/
def limbW : LimbMode → Int
  | .m1 => 6 | .m2 => 13 | .mN => 3

/-- Does the format permit the limb mode (R101). -/
def limbPermitted (mode : LimbMode) (fmt : Fmt) : Bool :=
  match mode with
  | .m1 => fmtScaled fmt
  | .m2 => fmt != .fp32
  | .mN => fmt = .e2m1 || fmt = .int4

/-- `rne_shift` of R103: m · 2^(−sh) to nearest even, and whether it is exact. -/
def rneShift (m : Int) (sh : Int) : Int × Bool :=
  if sh ≤ 0 then (shlInt m (-sh).toNat, true)
  else
    let k := sh.toNat
    let a := shrInt m k
    let r := m - shlInt a k
    let half : Int := (2 ^ (k - 1) : Nat)
    (if r > half || (r = half && a % 2 = 1) then a + 1 else a, r = 0)

/-- The peak exponent of a finite element (R102). -/
def peakExp (fmt : Fmt) (xs : Nat) (m e : Int) : Int :=
  if fmtScaled fmt then (xs : Int) - 127 + fmtEmax fmt else (Nat.log2 m.natAbs : Int) + e

/-- What a feed conversion counts (R103). -/
structure FeedCount where
  /-- Non-finite elements converted. -/
  nonfin : Nat := 0
  /-- Vanished elements. -/
  vanish : Nat := 0
  /-- A subnormal was replaced by zero. -/
  flushed : Bool := false
deriving DecidableEq, Repr

/-- Both counts together. -/
def feedCountAdd (a b : FeedCount) : FeedCount :=
  { nonfin := a.nonfin + b.nonfin, vanish := a.vanish + b.vanish, flushed := a.flushed || b.flushed }

/-- One element before its limb is formed: its value, non-finite and flushed marks (R99, R103). -/
def feedElem (fmt : Fmt) (keep : Bool) (code xs : Nat) : Elem × FeedCount :=
  let k := if fmtScaled fmt && xs = 0xFF then Elem.nonfinite else decodeElem fmt code
  match k with
  | .nonfinite => (.zero, { nonfin := 1 })
  | .zero => (.zero, {})
  | .finite m e =>
    if !fmtScaled fmt && elemSubnormal fmt code && !keep then (.zero, { flushed := true })
    else (.finite m e, {})

/-- The limb or aligned integer of one element at limb exponent q, and whether it vanished (R103, R106). -/
def alignElem (fmt : Fmt) (q : Int) (xs : Nat) (el : Elem) : Int × Bool :=
  match el with
  | .finite m e =>
    let sc : Int := if fmtScaled fmt then (xs : Int) - 127 else 0
    let r := rneShift m (q - e - sc)
    (r.1, !r.2)
  | _ => (0, false)

/-- `feed_group` of R103 over (code, scale) pairs: the aligned integers, q, and what is counted. -/
def feedGroup (fmt : Fmt) (w : Int) (keep : Bool) (els : List (Nat × Nat)) : List Int × Int × FeedCount :=
  let ks := els.map (fun c => (feedElem fmt keep c.1 c.2, c.2))
  let cnt := ks.foldl (fun acc k => feedCountAdd acc k.1.2) ({} : FeedCount)
  let g := maxInt? (ks.filterMap (fun k => match k.1.1 with
    | .finite m e => some (peakExp fmt k.2 m e)
    | _ => none))
  match g with
  | none => (els.map (fun _ => 0), 0, cnt)
  | some gg =>
    let q := gg - w
    let al := ks.map (fun k => alignElem fmt q k.2 k.1.1)
    (al.map (·.1), q, { cnt with vanish := countTrue (al.map (·.2)) })

/-- A group aligned at a limb exponent that is given (R108). -/
def feedGroupAt (fmt : Fmt) (q : Int) (keep : Bool) (els : List (Nat × Nat)) : List Int × FeedCount :=
  let ks := els.map (fun c => (feedElem fmt keep c.1 c.2, c.2))
  let cnt := ks.foldl (fun acc k => feedCountAdd acc k.1.2) ({} : FeedCount)
  let al := ks.map (fun k => alignElem fmt q k.2 k.1.1)
  (al.map (·.1), { cnt with vanish := countTrue (al.map (·.2)) })

/-- The high limb of R104. -/
def limbHi (a : Int) : Int := shrInt (a + 128) 8

/-- The low limb of R104. -/
def limbLo (a : Int) : Int := a - 256 * limbHi a

/-- Is m · 2^e greater than n · 2^g, exactly. -/
def dyGt (m : Nat) (e : Int) (n : Nat) (g : Int) : Bool :=
  let lo := if e < g then e else g
  decide (m * 2 ^ (e - lo).toNat > n * 2 ^ (g - lo).toNat)

/-- Largest magnitude of the finite FP32 values of a list, as FP32 bits. -/
def amax32 (l : List Nat) : Nat :=
  l.foldl (fun a v => if fIsFin fmt32 v then max a (fAbs fmt32 v) else a) 0

/-- `block_scale` of R110, from the FP32 bits of amax. -/
def blockScale (fmt : Fmt) (amax : Nat) : Nat :=
  match fUnpack fmt32 amax with
  | .fin _ m e =>
    if m = 0 then 0
    else
      let s := (Nat.log2 m : Int) + e - fmtEmax fmt
      let s2 := if dyGt m e (fmtMaxn fmt).1 ((fmtMaxn fmt).2 + s) then s + 1 else s
      (clampInt (s2 + 127) 0 254).toNat
  | _ => 0

/-- The scale of the first-scale rule (R119). -/
def firstScale (fmt : Fmt) (amax headroom : Nat) : Nat :=
  if fIsZero fmt32 amax then 0
  else (clampInt (fLog2 fmt32 amax - fmtEmax fmt + headroom + 127) 0 254).toNat

/-- What a store conversion counts (R112, R114). -/
structure StoreCount where
  /-- Values clamped to maxn. -/
  sat : Nat := 0
  /-- Non-finite values, and overflow to infinity. -/
  nonfin : Nat := 0
  /-- Nonzero values stored as zero. -/
  under : Nat := 0
  /-- A subnormal was replaced by zero. -/
  flushed : Bool := false
deriving DecidableEq, Repr

/-- Both counts together. -/
def storeCountAdd (a b : StoreCount) : StoreCount :=
  { sat := a.sat + b.sat, nonfin := a.nonfin + b.nonfin, under := a.under + b.under, flushed := a.flushed || b.flushed }

/-- The code of sign · mag for a magnitude that is F units of the format's grid at exponent k (R112 `encode`). -/
def encodeGrid (fmt : Fmt) (neg : Bool) (big : Nat) (k : Int) : Nat :=
  match fmt with
  | .mxint8 => wrapU 8 (fSigned neg big)
  | .int4 => wrapU 4 (fSigned neg big)
  | _ =>
    let f := fmtFloat fmt
    (if neg then 2 ^ (f.ew + f.mw) else 0) + (k - (1 - (f.bias : Int) - f.mw)).toNat * 2 ^ f.mw + big

/-- `spacing` of R112 as the exponent of a power of two, for a nonzero magnitude whose leading bit stands at top. -/
def spacingExp (fmt : Fmt) (top : Int) : Int :=
  match fmt with
  | .mxint8 => -6
  | .int4 => 0
  | _ =>
    let f := fmtFloat fmt
    let emin : Int := 1 - (f.bias : Int)
    (if top < emin then emin else top) - f.mw

/-- The sign of a code, in the place of the sign bit of the format; no sign for MXINT8 and INT4 (R111). -/
def signedZero (fmt : Fmt) (neg : Bool) : Nat :=
  match fmt with
  | .mxint8 => 0
  | .int4 => 0
  | _ => if neg then 2 ^ (fmtWidth fmt - 1) else 0

/-- The rounding modes of a store: nearest even, or stochastic with 16 Opal bits u (R112). -/
inductive StoreRound where
  | rne
  | sr (u : Nat)
deriving DecidableEq, Repr

/-- `to_element` of R112 for ±(m · 2^e), m nonzero. -/
def toElement (fmt : Fmt) (neg : Bool) (m : Nat) (e : Int) (xs : Nat) (rm : StoreRound) : Nat × StoreCount :=
  let te := e + 127 - xs
  let mx := fmtMaxn fmt
  if fmtScaled fmt && !dyGt mx.1 mx.2 m te then
    let code := match fmt with
      | .mxint8 => wrapU 8 (fSigned neg 127)
      | .int4 => wrapU 4 (fSigned neg 7)
      | _ => fmtMaxnCode fmt + (if neg then 2 ^ (fmtWidth fmt - 1) else 0)
    (code, { sat := b2n (dyGt m te mx.1 mx.2) })
  else
    let k := spacingExp fmt ((Nat.log2 m : Int) + te)
    let big : Nat :=
      if k ≤ te then m * 2 ^ (te - k).toNat
      else
        let sh := (k - te).toNat
        let f := m / 2 ^ sh
        let r := m % 2 ^ sh
        match rm with
        | .rne => rneNat m sh false
        | .sr u => if u < r * 65536 / 2 ^ sh then f + 1 else f
    let code := encodeGrid fmt neg big k
    if !fmtScaled fmt && encodeGrid fmt false big k ≥ (2 ^ (fmtFloat fmt).ew - 1) * 2 ^ (fmtFloat fmt).mw then
      (fInf (fmtFloat fmt) neg, { nonfin := 1 })
    else (if big = 0 then signedZero fmt neg else code, { under := b2n (big = 0) })

/-- The canonical NaN of an unscaled output format with the sign of the input (R114). -/
def storeNan (fmt : Fmt) (neg : Bool) : Nat := fNan (fmtFloat fmt) + signedZero fmt neg

/-- R99 on a FP32 value that enters the store path: the value and whether it was flushed. -/
def flushIn (keep : Bool) (v : Nat) : Nat × Bool :=
  if fIsSub fmt32 v && !keep then (fSignBits fmt32 (fSign fmt32 v), true) else (v, false)

/-- One value of a store: R99 on entry, R114, R112 or the copy of R113, and R99 on the result. -/
def storeElem (fmt : Fmt) (keep : Bool) (v xs : Nat) (rm : StoreRound) : Nat × StoreCount :=
  let w := flushIn keep v
  let neg := fSign fmt32 w.1
  match fUnpack fmt32 w.1 with
  | .nan => (if fmtScaled fmt then signedZero fmt neg else storeNan fmt neg, { nonfin := 1, flushed := w.2 })
  | .inf _ => (if fmtScaled fmt then signedZero fmt neg else fInf (fmtFloat fmt) neg, { nonfin := 1, flushed := w.2 })
  | .fin _ m e =>
    if fmt = .fp32 then (w.1, { flushed := w.2 })
    else if m = 0 then (signedZero fmt neg, { flushed := w.2 })
    else
      let r := toElement fmt neg m e (if fmtScaled fmt then xs else 127) rm
      if !fmtScaled fmt && !keep && fIsSub (fmtFloat fmt) r.1 then
        (signedZero fmt neg, { r.2 with flushed := true })
      else (r.1, { r.2 with flushed := w.2 })

/-- The attribute record of R116. -/
structure AttrRec where
  /-- Non-finite conversions. -/
  nonfinite : Nat
  /-- Vanished elements. -/
  vanish : Nat
  /-- Nonzero values stored as zero. -/
  underflow : Nat
  /-- Values clamped. -/
  saturated : Nat
  /-- Step counter to which curMax belongs. -/
  curStep : Nat
  /-- FP32 bits of the largest magnitude stored in curStep. -/
  curMax : Nat
  /-- History length. -/
  histLen : Nat
  /-- Valid history entries. -/
  histCount : Nat
  /-- Binades of headroom. -/
  headroom : Nat
  /-- Bit 0 flushed, bit 1 first_scale. -/
  flags : Nat
  /-- Eight history exponents, newest first. -/
  hist : List Int
deriving DecidableEq, Repr

/-- The record that 64 bytes hold, as one little-endian number (R116). -/
def attrOfNat (v : Nat) : AttrRec :=
  { nonfinite := bits v 0 64, vanish := bits v 64 64, underflow := bits v 128 64, saturated := bits v 192 64,
    curStep := bits v 256 64, curMax := bits v 320 32, histLen := bits v 352 8, histCount := bits v 360 8,
    headroom := bits v 368 8, flags := bits v 376 8,
    hist := (List.range 8).map (fun i => signExt 16 (bits v (384 + 16 * i) 16)) }

/-- The history as one number of 16-bit fields. -/
def histNat : List Int → Nat
  | [] => 0
  | x :: t => wrapU 16 x + 65536 * histNat t

/-- The 64 bytes of a record as one little-endian number (R116). -/
def attrToNat (r : AttrRec) : Nat :=
  r.nonfinite % 2 ^ 64 + r.vanish % 2 ^ 64 * 2 ^ 64 + r.underflow % 2 ^ 64 * 2 ^ 128 + r.saturated % 2 ^ 64 * 2 ^ 192
    + r.curStep % 2 ^ 64 * 2 ^ 256 + r.curMax % 2 ^ 32 * 2 ^ 320 + r.histLen % 256 * 2 ^ 352 + r.histCount % 256 * 2 ^ 360
    + r.headroom % 256 * 2 ^ 368 + r.flags % 256 * 2 ^ 376 + histNat (r.hist.take 8) * 2 ^ 384

/-- A malformed record as it is taken (R121), in the order of the rule. -/
def attrTaken (r : AttrRec) : AttrRec :=
  let len := if r.histLen = 0 || r.histLen > 8 then 4 else r.histLen
  { r with
    histLen := len, histCount := if r.histCount > len then 0 else r.histCount,
    headroom := if r.headroom > 3 then 3 else r.headroom }

/-- Bit 1 of the flags cleared. -/
def clearBit1 (v : Nat) : Nat := if v.testBit 1 then v - 2 else v

/-- `roll` of R117. -/
def attrRoll (r : AttrRec) (step : Nat) : AttrRec :=
  if r.curStep = step then r
  else
    let r1 :=
      if r.curMax = 0 then r
      else
        let shifted := fLog2 fmt32 r.curMax :: r.hist
        { r with hist := shifted.take r.histLen ++ r.hist.drop r.histLen, histCount := min (r.histCount + 1) r.histLen }
    { r1 with curMax := 0, curStep := step, flags := clearBit1 r1.flags }

/-- `next_scale` of R118, for a record with hist_count at least 1. -/
def nextScale (r : AttrRec) (fmt : Fmt) : Nat :=
  match maxInt? (r.hist.take r.histCount) with
  | none => 0
  | some k => (clampInt (k - fmtEmax fmt + r.headroom + 127) 0 254).toNat

end Sys2Proof.Machine
end

