-- ==== Sys2Proof/Machine/Array.lean ====
section
/-! DEFINITION. The exact arithmetic of the tile array and of the accumulation that follows it: cells, segments,
promotion, chain, tile combine and the address generators (04, R127 to R159; 05, R171 to R184). -/

namespace Sys2Proof.Machine

/-- The semiring modes of R132. -/
inductive Semi where
  | mac | minplus | maxplus | l1 | sqdiff | hamming | matchCode
deriving DecidableEq, Repr

/-- The mode of a 3-bit code; 7 is reserved (R132). -/
def semiOfCode (c : Nat) : Option Semi :=
  match c with
  | 0 => some .mac | 1 => some .minplus | 2 => some .maxplus | 3 => some .l1 | 4 => some .sqdiff
  | 5 => some .hamming | 6 => some .matchCode | _ => none

/-- Does the mode convert both operands with one common exponent (R108, R214). -/
def semiCommon (s : Semi) : Bool := s = .minplus || s = .maxplus || s = .l1 || s = .sqdiff

/-- Number of set bits among the low n bits. -/
def popcount : Nat → Nat → Nat
  | 0, _ => 0
  | n + 1, v => v % 2 + popcount n (v / 2)

/-- The cell value of one enabled position: streaming limb or code a, stationary limb or code b (R132). -/
def cellValue (s : Semi) (a b : Int) : Int :=
  match s with
  | .mac => a * b
  | .minplus => a + b
  | .maxplus => a + b
  | .l1 => ((a - b).natAbs : Int)
  | .sqdiff => (a - b) * (a - b)
  | .hamming => (popcount 8 (wrapU 8 a ^^^ wrapU 8 b) : Nat)
  | .matchCode => if wrapU 8 a = wrapU 8 b then 1 else 0

/-- The segment combine over the enabled positions of a segment; none where no position is enabled (R133, R134). -/
def segCombine (s : Semi) : List Int → Option Int
  | [] => none
  | x :: t =>
    match segCombine s t with
    | none => some x
    | some y => some (match s with
      | .minplus => if y < x then y else x
      | .maxplus => if x < y then y else x
      | _ => x + y)

/-- One stationary limb of a 16-bit set register (R130): limb code 0 mode 1, 1 mode 2, 2 mode N, 3 raw. -/
def setLimb (limb : Nat) (hi : Bool) (half : Nat) (reg : Nat) : Int :=
  match limb with
  | 1 => if hi then signExt 8 (reg / 256) else signExt 8 reg
  | 2 => if half = 1 then signExt 5 (reg / 256) else signExt 5 reg
  | 3 => ((reg % 256 : Nat) : Int)
  | _ => signExt 8 reg

/-- What one element carries down its chain: the value if one exists yet, and what it counts (R175, R180). -/
structure Chain where
  /-- FP32 bits, none where every segment so far was empty. -/
  v : Option Nat := none
  /-- Infinities made. -/
  inf : Nat := 0
  /-- NaNs made. -/
  nan : Nat := 0
  /-- Inexact finite promotions. -/
  loss : Nat := 0
deriving DecidableEq, Repr

/-- A promoted segment: its FP32 value, whether the segment was empty, and its counts (R171). -/
structure Promoted where
  /-- FP32 bits. -/
  v : Nat
  /-- The segment holds no enabled position. -/
  empty : Bool
  /-- The promotion made an infinity. -/
  inf : Bool
  /-- The promotion was finite and inexact. -/
  loss : Bool
deriving DecidableEq, Repr

/-- `round_fp32_rne` of R171 for an integer at a segment exponent. -/
def roundFp32 (m : Int) (x : Int) : Nat := fRoundInt fmt32 m x false

/-- Does a finite FP32 code hold exactly m · 2^x. -/
def exact32 (c : Nat) (m : Int) (x : Int) : Bool :=
  match fUnpack fmt32 c with
  | .fin s n e =>
    let lo := if e < x then e else x
    shlInt (fSigned s n) (e - lo).toNat = shlInt m (x - lo).toNat
  | _ => false

/-- `promote` of R171; an empty segment enters the add modes as +0 (R174). -/
def promote (seg : Option Int) (x : Int) : Promoted :=
  match seg with
  | none => { v := 0, empty := true, inf := false, loss := false }
  | some m =>
    let v := roundFp32 m x
    { v := v, empty := false, inf := fIsInf fmt32 v, loss := !fIsInf fmt32 v && !exact32 v m x }

/-- Does a chain of the mode take the smaller or larger value rather than the sum. -/
def semiMinMax (s : Semi) : Bool := s = .minplus || s = .maxplus

/-- c takes its place over the value held in a min or max combine (R135, R175). -/
def betterOf (s : Semi) (c held : Nat) : Bool :=
  if s = .minplus then decide (fKey fmt32 c < fKey fmt32 held) else decide (fKey fmt32 held < fKey fmt32 c)

/-- `fp32_add_rne` with what it counts (R173, R180): the sum, an infinity made, a NaN made. -/
def addCount (a b : Nat) : Nat × Nat × Nat :=
  let r := add32 a b
  (r, b2n (fIsInf fmt32 r && fIsFin fmt32 a && fIsFin fmt32 b),
    b2n (fIsNan fmt32 r && !fIsNan fmt32 a && !fIsNan fmt32 b))

/-- One promoted segment joins the chain (R174, R175). -/
def chainStep (s : Semi) (c : Chain) (p : Promoted) : Chain :=
  let c1 := { c with inf := c.inf + b2n p.inf, loss := c.loss + b2n p.loss }
  if semiMinMax s then
    if p.empty then c1
    else match c1.v with
      | none => { c1 with v := some p.v }
      | some h => if betterOf s p.v h then { c1 with v := some p.v } else c1
  else match c1.v with
    | none => { c1 with v := some p.v }
    | some h =>
      let r := addCount h p.v
      { c1 with v := some r.1, inf := c1.inf + r.2.1, nan := c1.nan + r.2.2 }

/-- The chain over the segments of one element, from a received value if there is one (R174 to R176). -/
def chainFold (s : Semi) (cin : Chain) (ps : List Promoted) : Chain := ps.foldl (chainStep s) cin

/-- The FP32 value of a finished chain: the identity of the combine where nothing joined it (R134, R175). -/
def chainValue (s : Semi) (c : Chain) : Nat :=
  match c.v with
  | some v => v
  | none => if s = .minplus then 0x7F800000 else if s = .maxplus then 0xFF800000 else 0

/-- The tile combine of one element (R177): the new value, an infinity made, a NaN made. -/
def tileCombine (s : Semi) (first : Bool) (held c : Nat) : Nat × Nat × Nat :=
  if first then (c, 0, 0)
  else if semiMinMax s then
    (if fIsNan fmt32 held then 0x7FC00000 else if betterOf s c held then c else held, 0, 0)
  else addCount held c

/-- A 128-bit-row or 128-element row as a list of w-bit fields. -/
def rowList (w n v : Nat) : List Nat := (List.range n).map (fun i => bits v (i * w) w)

/-- A list of w-bit fields as one number, element 0 lowest. -/
def listRow (w : Nat) : List Nat → Nat
  | [] => 0
  | x :: t => x % 2 ^ w + 2 ^ w * listRow w t

/-- Configuration of a register set (04, TA_SET0_CFG). -/
structure SetCfg where
  /-- All 128 rows written. -/
  complete : Bool
  /-- A load has targeted the set since reset. -/
  valid : Bool
  /-- Semiring mode code. -/
  mode : Nat
  /-- 0 mode 1, 1 mode 2, 2 mode N, 3 raw. -/
  limb : Nat
  /-- SQUARE alignment. -/
  square : Bool
  /-- Element format code. -/
  fmt : Nat
  /-- Block-size code. -/
  bsize : Nat
  /-- Sharing MN. -/
  shareMn : Bool
  /-- K extent. -/
  kLen : Nat
  /-- Output extent. -/
  nLen : Nat
deriving DecidableEq, Repr

/-- The configuration after reset (R139). -/
def setCfgReset : SetCfg :=
  { complete := false, valid := false, mode := 0, limb := 0, square := false, fmt := 0, bsize := 0, shareMn := false,
    kLen := 0, nLen := 0 }

/-- The register word of a configuration (04, TA_SET0_CFG). -/
def setCfgWord (c : SetCfg) : Nat :=
  c.nLen % 256 + c.kLen % 512 * 2 ^ 8 + b2n c.shareMn * 2 ^ 24 + c.bsize % 8 * 2 ^ 25 + c.fmt % 16 * 2 ^ 28
    + b2n c.square * 2 ^ 32 + c.limb % 4 * 2 ^ 33 + c.mode % 8 * 2 ^ 35 + b2n c.valid * 2 ^ 38 + b2n c.complete * 2 ^ 39

/-- A register set: rows of 128 cells of 16 bits, exponent store, configuration (R130). -/
structure RegSet where
  /-- Row r as one 2048-bit word, cell c in bits 16c + 15 to 16c. -/
  rows : Mem 2048
  /-- Exponent store: entry h of row group g at 128g + h under COLUMN, 8g + h under SQUARE; s10 in ten bits. -/
  exps : Mem 10
  /-- TA_SETx_CFG. -/
  cfg : SetCfg
deriving DecidableEq, Repr

/-- A set after reset (R139). -/
def regSetReset : RegSet := { rows := [], exps := [], cfg := setCfgReset }

/-- A streaming vector as the feed path delivers it (R156, R157). -/
structure VecItem where
  /-- The vector is masked. -/
  masked : Bool
  /-- Limb mode of the stream's descriptor. -/
  limb : Nat
  /-- Limbs or raw codes by position. -/
  a : List Int
  /-- Limb exponents of the eight groups, with the +8 of a hi limb. -/
  q : List Int
deriving DecidableEq, Repr

/-- The vector that enters where none is delivered (R157, R212). -/
def maskedVec (limb : Nat) : VecItem := { masked := true, limb := limb, a := [], q := [] }

/-- A stationary row as the feed path delivers it (R140, R678). -/
structure StatItem where
  /-- 128 cells of the register row. -/
  cells : List Nat
  /-- Limb exponents of the row's group: 8 under SQUARE, 128 under COLUMN. -/
  exps : List Int
  /-- What the set's configuration takes from the descriptor. -/
  cfg : SetCfg
deriving DecidableEq, Repr

/-- The limb exponent a set holds for segment s of column c, or of row c in a transposed pass (R130, R152). -/
def setExp (st : RegSet) (transposed : Bool) (s c : Nat) : Int :=
  let i :=
    if transposed then (if st.cfg.square then 8 * (c / 16) + s else 128 * (c / 16) + 16 * s)
    else (if st.cfg.square then 8 * s + c / 16 else 128 * s + c)
  signExt 10 (memGet st.exps i).toNat

/-- The segment exponent x (05, opening; R132). -/
def segExp (s : Semi) (qa qb : Int) (statHi : Bool) : Int :=
  match s with
  | .mac => qa + qb + (if statHi then 8 else 0)
  | .sqdiff => 2 * qb
  | .hamming => 0
  | .matchCode => 0
  | _ => qb

/-- The enabled cell values of segment sg for one output, from the stationary registers of its 128 positions in order
(R128, R134, R151). -/
def segCells (s : Semi) (limb : Nat) (statHi : Bool) (ext : Nat) (a : List Int) (regs : List Nat) (sg : Nat) : List Int :=
  ((List.range 16).map (fun i =>
    let r := 16 * sg + i
    let reg := nth regs r
    if limb = 2 then
      ((List.range 2).filterMap (fun h =>
        if 2 * r + h < ext && 2 * r + h < a.length then
          some (cellValue s (a.getD (2 * r + h) 0) (setLimb 2 statHi h reg))
        else none))
    else if r < ext && r < a.length then [cellValue s (a.getD r 0) (setLimb limb statHi 0 reg)] else [])).flatten

/-- The eight promoted segments of one output (R133, R171); in mode N the two halves of a row add exactly. -/
def outputSegs (s : Semi) (limb : Nat) (statHi : Bool) (ext : Nat) (a q : List Int) (regs : List Nat)
    (xb : Nat → Int) : List Promoted :=
  (List.range 8).map (fun sg =>
    promote (segCombine s (segCells s limb statHi ext a regs sg)) (segExp s (q.getD sg 0) (xb sg) statHi))

/-- The product of one vector with a set: for each enabled output its column and promoted segments (R127, R129, R150). -/
def product (s : Semi) (st : RegSet) (limb : Nat) (statHi transposed : Bool) (v : VecItem) : List (Nat × List Promoted) :=
  let a := if v.masked then [] else v.a
  let hi := statHi && s = .mac && limb = 1
  let rows := (List.range 128).map (fun r => rowList 16 128 (memGet st.rows r).toNat)
  if transposed then
    (List.range (min st.cfg.kLen 128)).map (fun r =>
      (r, outputSegs s limb hi (min st.cfg.nLen 128) a v.q (rows.getD r []) (fun sg => setExp st true sg r)))
  else
    (List.range (min st.cfg.nLen 128)).map (fun c =>
      (c, outputSegs s limb hi st.cfg.kLen a v.q (rows.map (fun row => nth row c)) (fun sg => setExp st false sg c)))

/-- The registers of an address generator, TA_AGg (04). -/
structure AddrGen where
  /-- TA_AGg_BASE. -/
  base : Word64
  /-- TA_AGg_LOOP. -/
  loop : Word64
  /-- TA_AGg_PITCH. -/
  pitch : Word64
  /-- TA_AGg_COORD. -/
  coord : Word64
  /-- TA_AGg_STRIDE. -/
  stride : Word64
deriving DecidableEq, Repr

/-- A generator after reset. -/
def addrGenReset : AddrGen := { base := 0, loop := 0, pitch := 0, coord := 0, stride := 0 }

/-- The walk of a generator (R155). -/
structure WalkStep where
  /-- SRAM byte address of the vector. -/
  addr : Nat
  /-- SRAM byte address of its first scale byte. -/
  saddr : Nat
  /-- The vector is not masked. -/
  valid : Bool
  /-- Byte offset of the vector from the origin. -/
  off : Int
  /-- Element offset of the vector. -/
  eoff : Int
deriving DecidableEq, Repr

/-- `ag_walk` of R155, with the offset register of the feed slot added to both bases. -/
def agWalk (g : AddrGen) (add : Nat) (m w bsz : Nat) : WalkStep :=
  let c0 := max (bits g.loop.toNat 0 16) 1
  let c1 := max (bits g.loop.toNat 16 16) 1
  let c2 := max (bits g.loop.toNat 32 16) 1
  let c3 := max (bits g.loop.toNat 48 16) 1
  let i0 := m % c0
  let i1 := m / c0 % c1
  let i2 := m / (c0 * c1) % c2
  let i3 := m / (c0 * c1 * c2) % c3
  let p := g.pitch.toNat
  let x : Int := signExt 16 (bits g.coord.toNat 0 16) + i0 * bits p 24 8
  let y : Int := signExt 16 (bits g.coord.toNat 16 16) + i1 * bits p 56 8
  let xlim := bits g.coord.toNat 32 16
  let ylim := bits g.coord.toNat 48 16
  let okx := xlim = 0 || (decide (0 ≤ x) && decide (x < xlim))
  let oky := ylim = 0 || (decide (0 ≤ y) && decide (y < ylim))
  let off : Int := y * signExt 24 (bits p 32 24) + x * signExt 24 (bits p 0 24)
    + i2 * signExt 24 (bits g.stride.toNat 0 24) + i3 * signExt 24 (bits g.stride.toNat 32 24)
  let eoff : Int := off * 8 / (w : Int)
  { addr := wrapU 23 (bits g.base.toNat 0 23 + add + off), saddr := wrapU 23 (bits g.base.toNat 32 23 + add + eoff / (bsz : Int)),
    valid := okx && oky, off := off, eoff := eoff }

end Sys2Proof.Machine
end

