-- ==== Sys2Proof/Machine/VecMath.lean ====
section
/-! DEFINITION. The arithmetic of the vector unit, lane by lane and by fixed trees (07, R245 to R259). -/

namespace Sys2Proof.Machine

/-- The integers nearest 2^30 · 2^(j/64) (R251), entries 0 to 31. -/
def t2Tab0 : List Nat :=
  [1073741824, 1085434106, 1097253708, 1109202018, 1121280436, 1133490379,
   1145833280, 1158310587, 1170923762, 1183674286, 1196563654, 1209593378,
   1222764986, 1236080024, 1249540052, 1263146652, 1276901417, 1290805962,
   1304861917, 1319070932, 1333434672, 1347954824, 1362633090, 1377471191,
   1392470869, 1407633882, 1422962010, 1438457051, 1454120821, 1469955159,
   1485961921, 1502142985]

/-- The integers nearest 2^30 · 2^(j/64) (R251), entries 32 to 63. -/
def t2Tab1 : List Nat :=
  [1518500250, 1535035634, 1551751076, 1568648537, 1585730000, 1602997467,
   1620452965, 1638098541, 1655936265, 1673968228, 1692196547, 1710623359,
   1729250827, 1748081133, 1767116489, 1786359126, 1805811301, 1825475297,
   1845353420, 1865448001, 1885761398, 1906295993, 1927054196, 1948038440,
   1969251188, 1990694927, 2012372174, 2034285470, 2056437387, 2078830522,
   2101467502, 2124350982]

/-- The integers nearest 2^30 · 2^(j/64) (R251). -/
def t2Tab : List Nat := t2Tab0 ++ t2Tab1

/-- The integers nearest 2^60 · log2(2^32 / rc[j]) (R252), entries 0 to 31. -/
def ltTab0 : List Nat :=
  [0, 12944144166774710, 25788332675734812, 38534097348107269,
   51182934838035277, 63736308740566894, 76195648707188217, 88562353753321636,
   100837790507326705, 113023296489776082, 125120179910611976, 137129720421069867,
   149053170440507625, 160891755374198189, 172646674378288177, 184319102126920924,
   195910188139556161, 207421058806926831, 218852816059484886, 230206540070713139,
   241483289470101236, 252684100292001977, 263809989043650347, 274861950946580610,
   285840961857017275, 296747978943386844, 307583940058099030, 318349764554477346,
   329046355613000407, 339674597015815230, 350235357022946229, 360729487641863474]

/-- The integers nearest 2^60 · log2(2^32 / rc[j]) (R252), entries 32 to 63. -/
def ltTab1 : List Nat :=
  [371157823435935974, 381521185209340050, 391820376527207488, 402056188041895110,
   412229395078964334, 422340758171102524, 432391025662976930, 442380930387848559,
   452311193377773219, 462182522632612034, 471995613937211578, 481751150190208687,
   491449802303602492, 501092230166667509, 510679081568710480, 520210993761472669,
   529688592974863059, 539112494479172678, 548483303215192118, 557801613930497578,
   567068011890149418, 576283071992699156, 585447360633377808, 594561433222774080,
   603625838325790431, 612641113002854836, 621607787585535015, 630526383273426760,
   639397413084423310, 648221381710964631, 656998785389770874, 665730112940967459]

/-- The integers nearest 2^60 · log2(2^32 / rc[j]) (R252), entries 64 to 95. -/
def ltTab2 : List Nat :=
  [674415846276383943, 683056458604190433, 691652416701813102, 700204179145754006,
   708712198652296887, 717176919736966331, 725598781108368119, 733978215138851478,
   742315647331755669, 750611495177207411, 758866173098162809, 767080086501346908,
   775253636771608446, 783387218363622769, 791481220804236312, 799536026380631170,
   807552013435170907, 815529554707832751, 823469016910526819, 831370761575732402,
   839235145939045448, 847062520633493264, 854853233801805643, 862607625576158724,
   870326034827415012, 878008792981080714, 885656227561413143, 893268662529504080,
   900846416640740893, 908389804438687942, 915899135940120430, 923374717667693098]

/-- The integers nearest 2^60 · log2(2^32 / rc[j]) (R252), entries 96 to 127. -/
def ltTab3 : List Nat :=
  [930816851684031846, 938225835286753232, 945601963436958519, 952945525764360332,
   960256808327036469, 967536094038443083, 974783661719368694, 981999786528118224,
   989184739705538262, 996338790433553752, 1003462202083019601, 1010555236901578684,
   1017618152258985466, 1024651203971002448, 1031654641791985847, 1038628715643995563,
   1045573669663911105, 1052489747041588766, 1059377186197821283, 1066236223487365910,
   1073067091544160460, 1079870022036798498, 1086645241797078693, 1093392975582641057,
   1100113445909946946, 1106806872132996124, 1113473470259399110, 1120113455803244449,
   1126727039847792413, 1133314431140299298, 1139875836703523486, 1146411460150058955]

/-- The integers nearest 2^60 · log2(2^32 / rc[j]) (R252). -/
def ltTab : List Nat := ltTab0 ++ ltTab1 ++ ltTab2 ++ ltTab3

/-- The integers nearest 2^60 · (−1)^(k+1) / (k · ln 2) for k = 1 to 6, entry k − 1 (R252), entries 0 to 5. -/
def dkTab : List Int :=
  [1663314137230540311, -831657068615270156, 554438045743513437,
   -415828534307635078, 332662827446108062, -277219022871756719]

/-- The integer nearest 2^64 · 2 / sqrt(pi) (R256). -/
def keConst : Nat := 20814921713516466459

/-- The FP32 value nearest ±num / 10^k (R250). -/
def dec32 (neg : Bool) (num k : Nat) : Nat := fOfRat fmt32 neg num (10 ^ k) 0

/-- LN2 (R250). -/
def cLn2 : Nat := dec32 false 6931471805599453 16
/-- NEG_LN2 (R250). -/
def cNegLn2 : Nat := dec32 true 6931471805599453 16
/-- NEG_2_LOG2E (R250). -/
def cNeg2Log2e : Nat := dec32 true 2885390081777927 15
/-- TWO_RSQRTPI (R250). -/
def cTwoRsqrtPi : Nat := dec32 false 11283791670955126 16
/-- TH3 (R250). -/
def cTh3 : Nat := dec32 true 3333333333333333 16
/-- TH5 (R250). -/
def cTh5 : Nat := dec32 false 13333333333333333 17
/-- TH7 (R250). -/
def cTh7 : Nat := dec32 true 5396825396825397 17
/-- TH9 (R250). -/
def cTh9 : Nat := dec32 false 21869488536155203 18
/-- A1 to A6 (R250). -/
def cA : List Nat :=
  [dec32 true 3969683028665376 14, dec32 false 2209460984245205 13, dec32 true 2759285104469687 13,
   dec32 false 1383577518672690 13, dec32 true 3066479806614716 14, dec32 false 2506628277459239 15]
/-- B1 to B5 and 1.0 (R250, R258). -/
def cB : List Nat :=
  [dec32 true 5447609879822406 14, dec32 false 1615858368580409 13, dec32 true 1556989798598866 13,
   dec32 false 6680131188771972 14, dec32 true 1328068155288572 14, 0x3F800000]
/-- C1 to C6 (R250). -/
def cC : List Nat :=
  [dec32 true 7784894002430293 18, dec32 true 3223964580411365 16, dec32 true 2400758277161838 15,
   dec32 true 2549732539343734 15, dec32 false 4374664141464968 15, dec32 false 2938163982698783 15]
/-- D1 to D4 and 1.0 (R250, R258). -/
def cD : List Nat :=
  [dec32 false 7784695709041462 18, dec32 false 3224671290700398 16, dec32 false 2445134137142996 15,
   dec32 false 3754408661907416 15, 0x3F800000]
/-- P_LOW (R250). -/
def cPLow : Nat := dec32 false 2425 5
/-- P_HIGH (R250). -/
def cPHigh : Nat := dec32 false 97575 5
/-- 1.0. -/
def one32 : Nat := 0x3F800000
/-- The canonical NaN of R173. -/
def nan32 : Nat := 0x7FC00000

/-- FP32 product with one rounding (R245). -/
def mul32 (a b : Nat) : Nat := fMul fmt32 a b
/-- FP32 fused product and sum with one rounding (R245). -/
def fma32 (a b c : Nat) : Nat := fFma fmt32 a b c
/-- FP32 quotient with one rounding (R245). -/
def div32 (a b : Nat) : Nat := fDiv fmt32 a b
/-- FP32 square root with one rounding (R245). -/
def sqrt32 (a : Nat) : Nat := fSqrt fmt32 a
/-- `fp32_neg` (R245): the sign bit flipped. -/
def neg32 (a : Nat) : Nat := fNeg fmt32 a
/-- a with bit 31 cleared. -/
def abs32 (a : Nat) : Nat := fAbs fmt32 a
/-- The magnitude of r with the sign of x. -/
def withSign (r x : Nat) : Nat := abs32 r + (if fSign fmt32 x then 2 ^ 31 else 0)

/-- FMIN of R246. -/
def min32 (a b : Nat) : Nat :=
  if fIsNan fmt32 a || fIsNan fmt32 b then nan32 else if fEq fmt32 a b then a else if fLt fmt32 b a then b else a

/-- FMAX of R246. -/
def max32 (a b : Nat) : Nat :=
  if fIsNan fmt32 a || fIsNan fmt32 b then nan32 else if fEq fmt32 a b then a else if fLt fmt32 a b then b else a

/-- floor(x · 2^k) of a finite FP32 code. -/
def floorScaled (x k : Nat) : Int :=
  match fUnpack fmt32 x with
  | .fin s m e =>
    let z := fSigned s m
    if 0 ≤ e + k then shlInt z (e + k).toNat else shrInt z (-(e + k)).toNat
  | _ => 0

/-- `exp2_fn` of R251. -/
def exp2Fn (x : Nat) : Nat :=
  if fIsNan fmt32 x then nan32
  else if fLe fmt32 0x43000000 x then fInf fmt32 false
  else if fLt fmt32 x 0xC3200000 then 0
  else
    let xf := floorScaled x 30
    let n := shrInt xf 30
    let f := (xf - shlInt n 30).toNat
    let j := f / 2 ^ 24
    let rr := f % 2 ^ 24
    let t1 := 59597083 * rr / 2 ^ 30
    let t2 := (257941248 + t1) * rr / 2 ^ 30
    let t3 := (744261118 + t2) * rr / 2 ^ 30
    let m : Nat := nth t2Tab j * (2 ^ 30 + t3) / 2 ^ 30
    roundFp32 m (n - 30)

/-- rc[j] of R252: the integer nearest 2^32 · 128 / (128 + j). -/
def rcTab (j : Nat) : Nat := (2 ^ 32 * 128 * 2 + (128 + j)) / (2 * (128 + j))

/-- The significand mm with 2^23 ≤ mm < 2^24 and the exponent ee of x = mm · 2^ee, for a positive finite code. -/
def normParts (x : Nat) : Nat × Int :=
  match fUnpack fmt32 x with
  | .fin _ m e => (m * 2 ^ (23 - Nat.log2 m), e - (23 - Nat.log2 m : Nat))
  | _ => (0, 0)

/-- The polynomial of R252 with the coefficients from the highest down. -/
def log2Poly (w : Int) : List Int → Int → Int
  | [], p => p
  | d :: t, p => log2Poly w t (d + shrInt (p * w) 60)

/-- `log2_fn` of R252. -/
def log2Fn (x : Nat) : Nat :=
  if fIsNan fmt32 x then nan32
  else if fIsZero fmt32 x then fInf fmt32 true
  else if fSign fmt32 x then nan32
  else if fIsInf fmt32 x then fInf fmt32 false
  else
    let mm := (normParts x).1
    let e := (normParts x).2 + 23
    let j := mm / 2 ^ 16 % 128
    let near := e = -1 && j = 127
    let e2 : Int := if near then 0 else e
    let w : Int := if near then (mm * 2 ^ 36 : Nat) - (2 ^ 60 : Nat) else (mm * rcTab j * 2 ^ 5 : Nat) - (2 ^ 60 : Nat)
    let l : Int := if near then 0 else (nth ltTab j : Nat)
    let p := log2Poly w (dkTab.take 5).reverse (dkTab.getD 5 0)
    roundFp32 (shlInt e2 60 + l + shrInt (p * w) 60) (-60)

/-- `rsqrt_fn` of R254. -/
def rsqrtFn (x : Nat) : Nat :=
  if fIsNan fmt32 x then nan32
  else if fIsZero fmt32 x then fInf fmt32 (fSign fmt32 x)
  else if fSign fmt32 x then nan32
  else if fIsInf fmt32 x then 0
  else
    let odd := (normParts x).2 % 2 = 1
    let mm := if odd then 2 * (normParts x).1 else (normParts x).1
    let ee := if odd then (normParts x).2 - 1 else (normParts x).2
    let y := isqrt (2 ^ 76 / mm)
    let st := b2n (y * y * mm != 2 ^ 76)
    roundFp32 ((2 * y + st : Nat) : Int) (-(ee / 2) - 39)

/-- `tanh_fn` of R255. -/
def tanhFn (x : Nat) : Nat :=
  if fIsNan fmt32 x then nan32
  else if fIsZero fmt32 x then x
  else
    let a := abs32 x
    if fLt fmt32 a 0x3E800000 then
      let s := mul32 x x
      let h1 := fma32 s cTh9 cTh7
      let h2 := fma32 s h1 cTh5
      let h3 := fma32 s h2 cTh3
      fma32 (mul32 x s) h3 x
    else
      let u := exp2Fn (mul32 a cNeg2Log2e)
      let r := div32 (add32 one32 (neg32 u)) (add32 one32 u)
      r % 2 ^ 31 + (if fSign fmt32 x then 2 ^ 31 else 0)

/-- The series of R256 from term n, k terms: t and s carried along. -/
def erfSeries (x2 : Int) : Nat → Nat → Int → Int → Int
  | 0, _, _, s => s
  | k + 1, n, t, s =>
    let t2 := shrInt (t * x2) 64 / (n : Int)
    let q := t2 / (2 * (n : Int) + 1)
    erfSeries x2 k (n + 1) t2 (if n % 2 = 1 then s - q else s + q)

/-- `erf_fn` of R256. -/
def erfFn (x : Nat) : Nat :=
  if fIsNan fmt32 x then nan32
  else
    let a := abs32 x
    if fLe fmt32 0x40800000 a then withSign one32 x
    else if fLt fmt32 a 0x39000000 then mul32 x cTwoRsqrtPi
    else
      let xq := floorScaled a 64
      let x2 := shrInt (xq * xq) 64
      let s := erfSeries x2 100 1 xq xq
      withSign (roundFp32 (shrInt (s * keConst) 64) (-64)) x

/-- `gumbel_fn` of R257. -/
def gumbelFn (w : Nat) : Nat :=
  let u := roundFp32 ((2 * (w / 2 ^ 9) + 1 : Nat) : Int) (-24)
  let g1 := mul32 (log2Fn u) cNegLn2
  mul32 (log2Fn g1) cNegLn2

/-- `horner` of R258. -/
def horner32 (z : Nat) : List Nat → Nat
  | [] => 0
  | k :: t => t.foldl (fun h c => fma32 h z c) k

/-- `norminv_fn` of R258. -/
def norminvFn (p : Nat) : Nat :=
  if fIsNan fmt32 p || fLt fmt32 p 0 || fLt fmt32 one32 p then nan32
  else if fIsZero fmt32 p then fInf fmt32 true
  else if p = one32 then fInf fmt32 false
  else if fLt fmt32 p cPLow || fLt fmt32 cPHigh p then
    let low := fLt fmt32 p cPLow
    let pt := if low then p else add32 one32 (neg32 p)
    let l := mul32 (log2Fn pt) cLn2
    let q := sqrt32 (mul32 0xC0000000 l)
    let r := div32 (horner32 q cC) (horner32 q cD)
    if low then r else neg32 r
  else
    let q := add32 p 0xBF000000
    let s := mul32 q q
    div32 (mul32 (horner32 s cA) q) (horner32 s cB)

/-- CVTFI of R246: the nearest s32, ties to even, saturating; a NaN gives zero. -/
def cvtFi (a : Nat) : Nat :=
  match fUnpack fmt32 a with
  | .nan => 0
  | .inf s => if s then 0x80000000 else 0x7FFFFFFF
  | .fin s m e =>
    let z := (rneShift (fSigned s m) (-e)).1
    wrapU 32 (clampInt z (-(2 ^ 31 : Nat)) ((2 ^ 31 - 1 : Nat) : Int))

/-- CVTIF of R246. -/
def cvtIf (a : Nat) : Nat := fOfInt fmt32 (signExt 32 a)

/-- All ones or zero. -/
def mask32 (b : Bool) : Nat := if b then 0xFFFFFFFF else 0

/-- The operations of the vector slot that compute a register from lanes alone (R246). -/
inductive VLaneOp where
  | fadd | fsub | fmul | fma | fmin | fmax | fabs | fneg | fcmpeq | fcmplt | fcmple | vsel | fdiv | fsqrt | cvtfi | cvtif
  | iadd | isub | vand | vor | vxor | shli | shri | sari | vbcst | vidx | vrot | vsplat
  | exp2 | log2 | rcp | rsqrt | tanh | erf | gumbel | norminv | rsum | rsumsq | rmax | rargmax
deriving DecidableEq, Repr

/-- Latency of a lane operation (R246). -/
def vLaneLatency : VLaneOp → Nat
  | .fadd => 4 | .fsub => 4 | .fmul => 4 | .fma => 4 | .fmin => 2 | .fmax => 2 | .fabs => 1 | .fneg => 1
  | .fcmpeq => 2 | .fcmplt => 2 | .fcmple => 2 | .vsel => 1 | .fdiv => 12 | .fsqrt => 12 | .cvtfi => 3 | .cvtif => 3
  | .iadd => 1 | .isub => 1 | .vand => 1 | .vor => 1 | .vxor => 1 | .shli => 1 | .shri => 1 | .sari => 1
  | .vbcst => 1 | .vidx => 1 | .vrot => 2 | .vsplat => 2
  | .exp2 => 8 | .log2 => 10 | .rcp => 12 | .rsqrt => 8 | .tanh => 28 | .erf => 40 | .gumbel => 28 | .norminv => 72
  | .rsum => 12 | .rsumsq => 16 | .rmax => 10 | .rargmax => 12

/-- What the VU_ counters take from a result (R259). -/
structure VCount where
  /-- NaNs created. -/
  nan : Nat := 0
  /-- Infinities created. -/
  inf : Nat := 0
  /-- Inputs outside the domain. -/
  dom : Nat := 0
deriving DecidableEq, Repr

/-- Both counts together. -/
def vCountAdd (a b : VCount) : VCount := { nan := a.nan + b.nan, inf := a.inf + b.inf, dom := a.dom + b.dom }

/-- The counts of one FP32 result from its FP32 inputs (R259). -/
def vCountOf (ins : List Nat) (r : Nat) : VCount :=
  { nan := b2n (fIsNan fmt32 r && !ins.any (fIsNan fmt32)), inf := b2n (fIsInf fmt32 r && ins.all (fIsFin fmt32)) }

/-- Is a value below zero, −0 and NaN excepted. -/
def below0 (a : Nat) : Bool := fLt fmt32 a 0

/-- One lane of a lane operation that is no reduction and moves no lane: its result and counts (R246, R259). -/
def vLane (op : VLaneOp) (vext i a b c : Nat) : Nat × VCount :=
  let un (r : Nat) : Nat × VCount := (r, vCountOf [a] r)
  let bin (r : Nat) : Nat × VCount := (r, vCountOf [a, b] r)
  match op with
  | .fadd => bin (add32 a b)
  | .fsub => bin (add32 a (neg32 b))
  | .fmul => bin (mul32 a b)
  | .fma => (fma32 a b c, vCountOf [a, b, c] (fma32 a b c))
  | .fmin => bin (min32 a b)
  | .fmax => bin (max32 a b)
  | .fabs => (abs32 a, {})
  | .fneg => (neg32 a, {})
  | .fcmpeq => (mask32 (fEq fmt32 a b), {})
  | .fcmplt => (mask32 (fLt fmt32 a b), {})
  | .fcmple => (mask32 (fLe fmt32 a b), {})
  | .vsel => (if c = 0 then b else a, {})
  | .fdiv => bin (div32 a b)
  | .fsqrt => (sqrt32 a, { vCountOf [a] (sqrt32 a) with dom := b2n (below0 a) })
  | .cvtfi => (cvtFi a, {})
  | .cvtif => (cvtIf a, {})
  | .iadd => ((a + b) % 2 ^ 32, {})
  | .isub => (wrapU 32 ((a : Int) - b), {})
  | .vand => (a &&& b, {})
  | .vor => (a ||| b, {})
  | .vxor => (a ^^^ b, {})
  | .shli => (a * 2 ^ (vext % 32) % 2 ^ 32, {})
  | .shri => (a / 2 ^ (vext % 32), {})
  | .sari => (wrapU 32 (shrInt (signExt 32 a) (vext % 32)), {})
  | .vbcst => (vext % 2 ^ 32, {})
  | .vidx => ((vext + i) % 2 ^ 32, {})
  | .exp2 => un (exp2Fn a)
  | .log2 => (log2Fn a, { vCountOf [a] (log2Fn a) with dom := b2n (below0 a) })
  | .rcp => un (div32 one32 a)
  | .rsqrt => (rsqrtFn a, { vCountOf [a] (rsqrtFn a) with dom := b2n (below0 a) })
  | .tanh => un (tanhFn a)
  | .erf => un (erfFn a)
  | .gumbel => (gumbelFn a, {})
  | .norminv => (norminvFn a, { vCountOf [a] (norminvFn a) with dom := b2n (below0 a || fLt fmt32 one32 a) })
  | _ => (0, {})

/-- One level of `lane_tree`: neighbours combined (R247). -/
def treeLevel {α : Type} (comb : α → α → α) : List α → List α
  | x :: y :: t => comb x y :: treeLevel comb t
  | l => l

/-- `lane_tree` over 2^k lanes (R247). Assumption 32 (DEDUCED). -/
def laneTree {α : Type} (comb : α → α → α) : Nat → List α → List α
  | 0, l => l
  | k + 1, l => laneTree comb k (treeLevel comb l)

/-- A NaN replaced by −∞ (R249). -/
def nanToNegInf (v : Nat) : Nat := if fIsNan fmt32 v then 0xFF800000 else v

/-- The combiner `am` of R249. Assumption 32 (DEDUCED). -/
def argmaxComb (l r : Nat × Nat) : Nat × Nat :=
  if fLt fmt32 l.1 r.1 || (fEq fmt32 r.1 l.1 && decide (r.2 < l.2)) then r else l

/-- A lane operation over 128 lanes: the result lanes and the counts (R246 to R249, R259). -/
def vLanes (op : VLaneOp) (vext : Nat) (a b c : List Nat) : List Nat × VCount :=
  match op with
  | .vrot => ((List.range 128).map (fun i => nth a ((i + vext % 128) % 128)), {})
  | .vsplat => ((List.range 128).map (fun _ => nth a (vext % 128)), {})
  | .rsum =>
    let r := add32 (nth c 0) (nth (laneTree add32 7 a) 0)
    (List.replicate 128 r, vCountOf (nth c 0 :: a) r)
  | .rsumsq =>
    let r := add32 (nth c 0) (nth (laneTree add32 7 (a.map (fun x => mul32 x x))) 0)
    (List.replicate 128 r, vCountOf (nth c 0 :: a) r)
  | .rmax =>
    let r := max32 (nth c 0) (nth (laneTree max32 7 a) 0)
    (List.replicate 128 r, vCountOf (nth c 0 :: a) r)
  | .rargmax =>
    let t := (laneTree argmaxComb 7 ((a.map nanToNegInf).zip b)).headD (0, 0)
    let r := argmaxComb (nanToNegInf (nth c 0), nth c 1) t
    ((List.range 128).map (fun i => if i % 2 = 0 then r.1 else r.2), vCountOf (nth c 0 :: a) r.1)
  | _ =>
    let rs := (List.range 128).map (fun i => vLane op vext i (nth a i) (nth b i) (nth c i))
    (rs.map (·.1), rs.foldl (fun acc r => vCountAdd acc r.2) {})

end Sys2Proof.Machine
end

