-- ==== Sys2Proof/Machine/Random.lean ====
section
/-! DEFINITION. Opal's word generator, output forms and stochastic-rounding bits (09, R284 to R297). -/

namespace Sys2Proof.Machine

/-- Four u32 words. -/
structure Words4 where
  /-- Word 0. -/
  w0 : Nat
  /-- Word 1. -/
  w1 : Nat
  /-- Word 2. -/
  w2 : Nat
  /-- Word 3. -/
  w3 : Nat
deriving DecidableEq, Repr

/-- Word j of four. -/
def word4 (x : Words4) (j : Nat) : Nat :=
  match j with
  | 0 => x.w0 | 1 => x.w1 | 2 => x.w2 | _ => x.w3

/-- `philox_round` of R284. -/
def philoxRound (c : Words4) (k0 k1 : Nat) : Words4 :=
  let p0 := 0xD2511F53 * c.w0
  let p1 := 0xCD9E8D57 * c.w2
  { w0 := (p1 / 2 ^ 32) ^^^ c.w1 ^^^ k0, w1 := p1 % 2 ^ 32, w2 := (p0 / 2 ^ 32) ^^^ c.w3 ^^^ k1, w3 := p0 % 2 ^ 32 }

/-- The rounds of R284 with the key raised before each but the first. -/
def philoxRounds : Nat → Words4 → Nat → Nat → Words4
  | 0, c, _, _ => c
  | n + 1, c, k0, k1 => philoxRounds n (philoxRound c k0 k1) ((k0 + 0x9E3779B9) % 2 ^ 32) ((k1 + 0xBB67AE85) % 2 ^ 32)

/-- `philox4x32_10` of R284. -/
def philox (c : Words4) (k0 k1 : Nat) : Words4 := philoxRounds 10 c k0 k1

/-- `opal_block` of R285. -/
def opalBlock (seed : Words4) (step site use b : Nat) : Words4 :=
  philox { w0 := (b % 2 ^ 32) ^^^ seed.w2, w1 := (b / 2 ^ 32 % 2 ^ 32) ^^^ seed.w3, w2 := site, w3 := use }
    (seed.w0 ^^^ (step % 2 ^ 32)) (seed.w1 ^^^ (step / 2 ^ 32 % 2 ^ 32))

/-- The random word of one index of a site (R288). -/
def opalWord (seed : Words4) (step site n : Nat) : Nat := word4 (opalBlock seed step site 0 (n / 4)) (n % 4)

/-- The lane result of a VRAND output form; codes 4 to 15 are reserved (R289). -/
def vrandLane (dist w t : Nat) : Nat :=
  match dist with
  | 0 => w
  | 1 => roundFp32 ((2 * (w / 2 ^ 9) + 1 : Nat) : Int) (-24)
  | 2 => mask32 (decide (t ≤ w))
  | _ => roundFp32 ((2 * (w / 2 ^ 8) + 1 : Nat) - (2 ^ 24 : Nat)) (-24)

/-- The 128 lanes of a VRAND from word index n0, whose low two bits are taken as zero (R287, R288). -/
def vrandLanes (seed : Words4) (step site dist n0 : Nat) (vb : List Nat) : List Nat :=
  let base := n0 / 4 * 4
  (((List.range 32).map (fun j =>
    let blk := opalBlock seed step site 0 ((base + 4 * j) % 2 ^ 64 / 4)
    (List.range 4).map (fun i => vrandLane dist (word4 blk i) (nth vb (4 * j + i))))).flatten)

/-- `fmix32` of R297. -/
def fmix32 (y : Nat) : Nat :=
  let y1 := y ^^^ (y / 2 ^ 16)
  let y2 := y1 * 0x85EBCA6B % 2 ^ 32
  let y3 := y2 ^^^ (y2 / 2 ^ 13)
  let y4 := y3 * 0xC2B2AE35 % 2 ^ 32
  y4 ^^^ (y4 / 2 ^ 16)

/-- `sr_bits` of R297 for the lane j of the block of a row. -/
def srLane (x : Words4) (j : Nat) : Nat := fmix32 (word4 x (j % 4) ^^^ (j / 4 * 0x9E3779B9 % 2 ^ 32)) / 2 ^ 16

/-- The stochastic-rounding bits of the 128 lanes of source row i (R297). -/
def srRow (seed : Words4) (step site base str i : Nat) : List Nat :=
  let b := base / 128 * 128
  let t := str / 128 * 128
  let x := opalBlock seed step site 1 ((b + i * t) % 2 ^ 64 / 128)
  (List.range 128).map (srLane x)

end Sys2Proof.Machine
end

