-- ==== Sys2Proof/Machine/Operands.lean ====
section
/-! DEFINITION. The operand forms: the slots of a 512-bit bundle and the fields of the feed, store and DMA descriptors
(06, R203 to R221, R237, R238; 07, R246). -/

namespace Sys2Proof.Machine

/-- Control operations of the control slot (06). -/
inductive CtlOp where
  | nop
  | loop (count : BitVec 20) (last : BitVec 13)
  | jump (target : BitVec 13)
  | vbr (all : Bool) (pred : BitVec 3) (target : BitVec 13)
  | stepEnd (halt : Bool)
  | reserved
deriving DecidableEq, Repr

/-- Scalar operations (06). -/
inductive ScOp where
  | nop | add | sub | and | or | xor | shl | shr | sar | mul | addi | li | lih | ceq | clt | cltu | ceqi | clti
  | pand | por | pnot | ld | st | crd | cwr | reserved
deriving DecidableEq, Repr

/-- The array operation of a bundle (06, R205). -/
inductive ArrOp where
  | nop | pass | load (stall : Bool) | reserved
deriving DecidableEq, Repr

/-- The accumulator operation of a bundle (06, R212). -/
inductive AccOp where
  | none | retire | drain | reserved
deriving DecidableEq, Repr

/-- The feed operation of a bundle (06). -/
inductive FdOp where
  | nop | run (stream stat : Bool) | reserved
deriving DecidableEq, Repr

/-- The store operation of a bundle (06). -/
inductive StOp where
  | nop | store | reserved
deriving DecidableEq, Repr

/-- The vector operation of a bundle (07, R246). -/
inductive VOp where
  | nop | vld | vst | vdrn | vdst | lane (op : VLaneOp) | vrand | reserved
deriving DecidableEq, Repr

/-- The DMA operation of a bundle (06). -/
inductive DmOp where
  | nop | read | write | send | recv | atomic (relaxed : Bool) | hostout | regread | solve | seed | coll | reserved
deriving DecidableEq, Repr

/-- A bundle with its slots taken apart (06, R205). -/
structure Bundle where
  /-- Buffers named by valid wait fields. -/
  waits : List (BitVec 6)
  /-- Trap before issue in debug mode. -/
  brk : Bool
  /-- Control operation. -/
  ctl : CtlOp
  /-- Scalar operation. -/
  scOp : ScOp
  /-- Its fields. -/
  sc : ScalarArgs
  /-- Array operation. -/
  arrOp : ArrOp
  /-- Its fields. -/
  arr : ArrayArgs
  /-- Accumulator operation. -/
  accOp : AccOp
  /-- Its index. -/
  accIdx : BitVec 3
  /-- Feed operation. -/
  fdOp : FdOp
  /-- Its fields. -/
  fd : FeedArgs
  /-- Store operation. -/
  stOp : StOp
  /-- Its fields. -/
  st : StoreArgs
  /-- Vector operation. -/
  vOp : VOp
  /-- Its fields. -/
  vec : VecArgs
  /-- DMA operation. -/
  dmOp : DmOp
  /-- Its fields. -/
  dm : DmaArgs
deriving DecidableEq, Repr

/-- The bundle of zeros: every slot NOP, nothing waited for. -/
def emptyBundle : Bundle :=
  { waits := [], brk := false, ctl := .nop, scOp := .nop, sc := ⟨0, 0, 0, 0, 0⟩, arrOp := .nop,
    arr := ⟨0, 0, false, false, false, false, 0, 0⟩, accOp := .none, accIdx := 0, fdOp := .nop,
    fd := ⟨0, 0, 0, 0, 0, 0, false⟩, stOp := .nop, st := ⟨0, 0, 0, 0, 0, 0⟩, vOp := .nop,
    vec := ⟨0, 0, 0, 0, 0, 0, 0, 0⟩, dmOp := .nop, dm := ⟨0, 0, 0, 0, 0, 0⟩ }

/-- The scalar operation of a code (06). -/
def scOfCode (c : Nat) : ScOp :=
  match c with
  | 0x00 => .nop | 0x01 => .add | 0x02 => .sub | 0x03 => .and | 0x04 => .or | 0x05 => .xor | 0x06 => .shl
  | 0x07 => .shr | 0x08 => .sar | 0x09 => .mul | 0x0A => .addi | 0x0B => .li | 0x0C => .lih | 0x10 => .ceq
  | 0x11 => .clt | 0x12 => .cltu | 0x13 => .ceqi | 0x14 => .clti | 0x18 => .pand | 0x19 => .por | 0x1A => .pnot
  | 0x20 => .ld | 0x21 => .st | 0x28 => .crd | 0x29 => .cwr | _ => .reserved

/-- The control operation of a control slot, with addresses of 13 bits (06). -/
def ctlOfWord (w : Nat) : CtlOp :=
  let tgt : BitVec 13 := BitVec.ofNat 13 (bits w 2 13)
  let lst : BitVec 13 := BitVec.ofNat 13 (bits w 18 13)
  let pr : BitVec 3 := BitVec.ofNat 3 (bits w 57 3)
  match bits w 60 4 with
  | 0 => .nop
  | 1 => .loop (BitVec.ofNat 20 (bits w 34 20)) lst
  | 2 => .jump tgt
  | 3 => .vbr false pr tgt
  | 4 => .vbr true pr tgt
  | 5 => .stepEnd false
  | 6 => .stepEnd true
  | _ => .reserved

/-- The lane operation of a vector code, if the code names one (07, R246). -/
def laneOfCode (c : Nat) : Option VLaneOp :=
  match c with
  | 0x08 => some .fadd | 0x09 => some .fsub | 0x0A => some .fmul | 0x0B => some .fma | 0x0C => some .fmin
  | 0x0D => some .fmax | 0x0E => some .fabs | 0x0F => some .fneg | 0x10 => some .fcmpeq | 0x11 => some .fcmplt
  | 0x12 => some .fcmple | 0x13 => some .vsel | 0x14 => some .fdiv | 0x15 => some .fsqrt | 0x18 => some .cvtfi
  | 0x19 => some .cvtif | 0x1A => some .iadd | 0x1B => some .isub | 0x1C => some .vand | 0x1D => some .vor
  | 0x1E => some .vxor | 0x1F => some .shli | 0x20 => some .shri | 0x21 => some .sari | 0x22 => some .vbcst
  | 0x23 => some .vidx | 0x24 => some .vrot | 0x25 => some .vsplat | 0x30 => some .exp2 | 0x31 => some .log2
  | 0x32 => some .rcp | 0x33 => some .rsqrt | 0x34 => some .tanh | 0x35 => some .erf | 0x36 => some .gumbel
  | 0x37 => some .norminv | 0x40 => some .rsum | 0x41 => some .rsumsq | 0x42 => some .rmax | 0x43 => some .rargmax
  | _ => none

/-- The vector operation of a code and its extension field; a VRAND whose output form is reserved is a reserved
operation (07, R246; 09, R289). -/
def vOfCode (c vext : Nat) : VOp :=
  match c with
  | 0x00 => .nop | 0x01 => .vld | 0x02 => .vst | 0x03 => .vdrn | 0x04 => .vdst
  | 0x38 => if bits vext 32 4 < 4 then .vrand else .reserved
  | _ => match laneOfCode c with
    | some op => .lane op
    | none => .reserved

/-- The array operation of a code and a semiring mode: mode 7 in a PASS or load is reserved (R205). -/
def arrOfCode (c mode : Nat) : ArrOp :=
  match c with
  | 0 => .nop
  | 1 => if mode = 7 then .reserved else .pass
  | 2 => if mode = 7 then .reserved else .load true
  | 3 => if mode = 7 then .reserved else .load false
  | _ => .reserved

/-- The DMA operation of a code (06). -/
def dmOfCode (c : Nat) : DmOp :=
  match c with
  | 0 => .nop | 1 => .read | 2 => .write | 3 => .send | 4 => .recv | 5 => .atomic false | 6 => .atomic true
  | 7 => .hostout | 8 => .regread | 9 => .solve | 10 => .seed | 11 => .coll | _ => .reserved

/-- The accumulator operation of a code (06). -/
def accOfCode (c : Nat) : AccOp :=
  match c with
  | 0 => .none | 1 => .retire | 2 => .drain | _ => .reserved

/-- The feed operation of a code (06). -/
def fdOfCode (c : Nat) : FdOp :=
  match c with
  | 0 => .nop | 1 => .run true false | 2 => .run false true | 3 => .run true true | _ => .reserved

/-- The four wait fields of a header, those that are valid (06, header). -/
def waitsOfHeader (w : Nat) : List (BitVec 6) :=
  [25, 18, 11, 4].filterMap (fun lo => if w.testBit (lo + 6) then some (BitVec.ofNat 6 (bits w lo 6)) else none)

/-- The bundle that a 512-bit word holds (06, slots of a bundle). Assumption 13 (DEDUCED). -/
def decodeBundle (b : Word512) : Bundle :=
  let w := b.toNat
  let sc := bits w 352 64
  let ar := bits w 288 64
  let ve := bits w 192 96
  let fe := bits w 128 64
  let so := bits w 64 64
  let dm := bits w 0 64
  { waits := waitsOfHeader (bits w 480 32), brk := w.testBit 480, ctl := ctlOfWord (bits w 416 64),
    scOp := scOfCode (bits sc 58 6),
    sc := ⟨BitVec.ofNat 3 (bits sc 55 3), BitVec.ofNat 5 (bits sc 50 5), BitVec.ofNat 5 (bits sc 45 5),
      BitVec.ofNat 5 (bits sc 40 5), BitVec.ofNat 40 (bits sc 0 40)⟩,
    arrOp := arrOfCode (bits ar 61 3) (bits ar 55 3),
    arr := ⟨BitVec.ofNat 3 (bits ar 58 3), BitVec.ofNat 3 (bits ar 55 3), ar.testBit 54, ar.testBit 53, ar.testBit 52,
      ar.testBit 51, BitVec.ofNat 3 (bits ar 48 3), BitVec.ofNat 7 (bits ar 41 7)⟩,
    accOp := if arrOfCode (bits ar 61 3) (bits ar 55 3) = .reserved then .none else accOfCode (bits ar 39 2),
    accIdx := BitVec.ofNat 3 (bits ar 36 3), fdOp := fdOfCode (bits fe 61 3),
    fd := ⟨BitVec.ofNat 3 (bits fe 58 3), BitVec.ofNat 4 (bits fe 54 4), BitVec.ofNat 4 (bits fe 50 4),
      BitVec.ofNat 7 (bits fe 43 7), BitVec.ofNat 5 (bits fe 38 5), BitVec.ofNat 5 (bits fe 33 5), fe.testBit 32⟩,
    stOp := (match bits so 61 3 with | 0 => .nop | 1 => .store | _ => .reserved),
    st := ⟨BitVec.ofNat 3 (bits so 58 3), BitVec.ofNat 3 (bits so 55 3), BitVec.ofNat 8 (bits so 47 8),
      BitVec.ofNat 5 (bits so 42 5), BitVec.ofNat 5 (bits so 37 5), BitVec.ofNat 5 (bits so 32 5)⟩,
    vOp := vOfCode (bits ve 88 8) (bits ve 0 48),
    vec := ⟨BitVec.ofNat 3 (bits ve 85 3), BitVec.ofNat 4 (bits ve 81 4), BitVec.ofNat 4 (bits ve 77 4),
      BitVec.ofNat 4 (bits ve 73 4), BitVec.ofNat 4 (bits ve 69 4), BitVec.ofNat 5 (bits ve 64 5),
      BitVec.ofNat 16 (bits ve 48 16), BitVec.ofNat 48 (bits ve 0 48)⟩,
    dmOp := dmOfCode (bits dm 60 4),
    dm := ⟨BitVec.ofNat 3 (bits dm 57 3), BitVec.ofNat 5 (bits dm 52 5), BitVec.ofNat 6 (bits dm 46 6),
      BitVec.ofNat 5 (bits dm 41 5), BitVec.ofNat 5 (bits dm 36 5), BitVec.ofNat 24 (bits dm 12 24)⟩ }

/-- A feed descriptor taken apart (06, CV_FDESCd). -/
structure FDesc where
  fmt : Nat
  bsize : Nat
  shareMn : Bool
  limb : Nat
  square : Bool
  gen : Nat
  recEn : Bool
  recAddr : Nat
  kLen : Nat
  nLen : Nat
  pitch : Int
  pscan : Nat
  pscanBase : Nat
  scaleBase : Nat
  base : Nat
deriving DecidableEq, Repr

/-- The fields of a feed descriptor word (06, CV_FDESCd). -/
def fdescOf (d : Word256) : FDesc :=
  let w := d.toNat
  { fmt := bits w 252 4, bsize := bits w 249 3, shareMn := w.testBit 248, limb := bits w 246 2, square := w.testBit 245,
    gen := bits w 243 2, recEn := w.testBit 242, recAddr := bits w 207 17 * 64, kLen := bits w 183 9, nLen := bits w 175 8,
    pitch := signExt 24 (bits w 144 24), pscan := bits w 136 8, pscanBase := bits w 96 23, scaleBase := bits w 32 23,
    base := bits w 0 23 }

/-- Is a feed descriptor invalid under R98, R101, R136 and, for a stream, R158. -/
def fdescInvalid (d : FDesc) (stream : Bool) : Bool :=
  match fmtOfCode d.fmt with
  | none => true
  | some f =>
    f = .fp32 || d.bsize > 4 ||
      (match d.limb with
       | 0 => !limbPermitted .m1 f
       | 1 => !limbPermitted .m2 f
       | 2 => !limbPermitted .mN f
       | _ => !fmtScaled f) || (stream && fmtScaled f && d.shareMn)

/-- A store descriptor taken apart (06, CV_SDESCd). -/
structure SDesc where
  fmt : Nat
  bsize : Nat
  blkLanes : Bool
  running : Bool
  stochastic : Bool
  recEn : Bool
  dest : Nat
  recAddr : Nat
  outBuf : Nat
  site : Nat
  dst : Nat
  sdst : Nat
  dstPitch : Nat
  src : Nat
deriving DecidableEq, Repr

/-- The fields of a store descriptor word (06, CV_SDESCd). -/
def sdescOf (d : Word256) : SDesc :=
  let w := d.toNat
  { fmt := bits w 252 4, bsize := bits w 249 3, blkLanes := w.testBit 248, running := w.testBit 247,
    stochastic := w.testBit 246, recEn := w.testBit 245, dest := bits w 242 3, recAddr := bits w 225 17 * 64,
    outBuf := bits w 213 12, site := bits w 160 32, dst := bits w 112 48, sdst := bits w 64 48, dstPitch := bits w 40 24,
    src := bits w 0 23 }

/-- Is a store descriptor invalid under R98. -/
def sdescInvalid (d : SDesc) : Bool := fmtOfCode d.fmt = none || d.bsize > 4 || d.dest > 3

/-- A DMA descriptor taken apart (06, DM_DESCd). -/
structure DDesc where
  addr : Nat
  sram : Nat
  length : Nat
  rank : Nat
  lcl : Nat
  rbuf : Nat
deriving DecidableEq, Repr

/-- The fields of a DMA descriptor word (06, DM_DESCd). -/
def ddescOf (d : Word128) : DDesc :=
  let w := d.toNat
  { addr := bits w 80 48, sram := bits w 57 23, length := bits w 33 24, rank := bits w 15 18, lcl := bits w 6 9,
    rbuf := bits w 0 6 }

end Sys2Proof.Machine
end

