-- ==== Sys2Proof/Machine/StateCluster.lean ====
section
/-! DEFINITION. The state of one logical cluster: scalar registers, array, accumulator store, feed and store paths, vector
unit, Opal pipeline, DMA buffers, SRAM, trap record and the copies that a replay restores (04 to 09, 15). Issue cycles are
counted absolutely for the partition; an operation in flight keeps the issue cycle in which it acts. -/

namespace Sys2Proof.Machine

/-- An LD whose register write is to come (06, R210). -/
structure LdPend where
  /-- Issue cycle at whose end the register is written. -/
  due : Nat
  /-- Destination register. -/
  dst : Nat
  /-- The value read. -/
  val : Word64
deriving DecidableEq, Repr

/-- Scalar registers, predicates and SQ_ registers of a cluster (06, R204, R235). -/
structure ScalarUnit where
  /-- g0 to g31; g0 is never written. -/
  g : List Word64
  /-- p7 to p0; bit 0 is never cleared. -/
  p : BitVec 8
  /-- LD writes in flight. -/
  ld : List LdPend
  /-- W1C bits and `halted` of SQ_STATUS, in their places. -/
  status : Word64
  /-- SQ_WDOG as written. -/
  wdog : Word64
deriving DecidableEq, Repr

/-- A PASS from its issue to the end of its entry span (04; 06, R212). -/
structure PassOp where
  /-- Issue cycle. -/
  u : Nat
  /-- Vectors of the entry span, shortened by a cut (R676). -/
  n : Nat
  /-- Predicate was 1 at issue. -/
  performed : Bool
  /-- Semiring mode. -/
  mode : Semi
  /-- The slot's fields. -/
  args : ArrayArgs
  /-- Limb mode, judged at the first entry (R148). -/
  limb : Nat
  /-- Judged to write rows (R148, R153). -/
  ok : Bool
  /-- Bundle address. -/
  pc : Nat
deriving DecidableEq, Repr

/-- A vector that entered in the previous issue cycle, before its product cycle (04, R137). -/
structure Entered where
  /-- Entry cycle. -/
  e : Nat
  /-- Vector number in the pass. -/
  m : Nat
  /-- The pass as judged. -/
  pass : PassOp
  /-- The vector. -/
  item : VecItem
deriving DecidableEq, Repr

/-- Results of one vector on their way to the tile combine, or to a neighbour of the gang (04, R137, R161). -/
structure Flight where
  /-- Entry cycle. -/
  e : Nat
  /-- Vector number in the pass. -/
  m : Nat
  /-- Semiring mode. -/
  mode : Semi
  /-- Begin. -/
  first : Bool
  /-- Accumulator index. -/
  acc : Nat
  /-- Transposed pass. -/
  transpose : Bool
  /-- Issue cycle in which the last chain add runs. -/
  chainEnd : Nat
  /-- Promoted segments of each output; chained once the received value is known. -/
  segs : List (Nat × List Promoted)
  /-- Chain values of each output, from the end of the chain on. -/
  out : List (Nat × Chain)
  /-- Chain finished. -/
  chained : Bool
  /-- Occupied by a pass that writes rows. -/
  pc : Nat
deriving DecidableEq, Repr

/-- A load in progress (04, R140). -/
structure LoadOp where
  /-- Issue cycle. -/
  u : Nat
  /-- STALL_LOAD, not SHADOW_LOAD. -/
  stall : Bool
  /-- The set it writes: set 1. -/
  target : Bool
  /-- Predicate was 1 at issue. -/
  performed : Bool
  /-- Semiring mode code. -/
  mode : Nat
  /-- Exponents of the group being written. -/
  exps : List Int
  /-- Bundle address. -/
  pc : Nat
deriving DecidableEq, Repr

/-- The tile array and the TA_ registers (04, R167). -/
structure ArrayUnit where
  /-- Register set 0. -/
  set0 : RegSet
  /-- Register set 1. -/
  set1 : RegSet
  /-- The active set is set 1. -/
  active : Bool
  /-- Load in progress. -/
  load : Option LoadOp
  /-- Passes whose entry span is open or was open lately. -/
  passes : List PassOp
  /-- Vectors entered in the previous cycle. -/
  entered : List Entered
  /-- Vectors after their product cycle. -/
  flights : List Flight
  /-- Vectors forwarded to the next member of a gang: entry cycle, transposed, item. -/
  fwd : List (Nat × Bool × VecItem)
  /-- W1C bits of TA_STATUS in their places. -/
  status : Word64
  /-- TA_GANG_CFG as written. -/
  gangCfg : Word64
  /-- TA_GANG_CFG in force since the last step boundary (R168). -/
  gangEff : Word64
  /-- TA_GANG_ROUTE. -/
  gangRoute : BitVec 8
  /-- Hops that firmware routes through the relay after repeated parity errors (R166): north, west, south, east. -/
  relayed : BitVec 4
  /-- TA_VEC_CNT. -/
  vecCnt : Word64
  /-- TA_LOAD_CNT. -/
  loadCnt : Word64
  /-- TA_GANG_PERR. -/
  gangPerr : Word64
  /-- TA_AG0 to TA_AG3. -/
  gens : List AddrGen
deriving DecidableEq, Repr

/-- A drain in progress (05, R189). -/
structure DrainOp where
  /-- Issue cycle. -/
  u : Nat
  /-- Accumulator index. -/
  t : Nat
deriving DecidableEq, Repr

/-- The accumulator store and the AC_ registers (05, R187 to R199). -/
structure AccumUnit where
  /-- Row r of physical tile t at 128t + r, column c in bits 32c + 31 to 32c. -/
  tiles : Mem 4096
  /-- `front_sel`. -/
  frontSel : BitVec 8
  /-- Drain in progress. -/
  drain : Option DrainOp
  /-- Index of the last drain. -/
  drainIndex : BitVec 3
  /-- Row read in the previous cycle, delivered at the end of this one. -/
  deliver : Option (BitVec 4096)
  /-- The drain port. -/
  port : BitVec 4096
  /-- W1C bits of AC_STATUS. -/
  status : Word64
  /-- AC_ROW_CNT. -/
  rowCnt : Word64
  /-- AC_DRAIN_CNT. -/
  drainCnt : Word64
  /-- AC_INF. -/
  inf : Word64
  /-- AC_NAN. -/
  nan : Word64
  /-- AC_PROM_LOSS. -/
  loss : Word64
  /-- AC_PEEK_SEL. -/
  peekSel : Word64
deriving DecidableEq, Repr

/-- What a stream read from SRAM for one vector (06, R213; 04, R156, R157). -/
inductive RawVec where
  | zero
  | masked
  | data (codes : List Nat) (scales : List Nat)
deriving DecidableEq, Repr

/-- A STREAM in progress (06, R213). -/
structure StreamOp where
  /-- Issue cycle. -/
  v : Nat
  /-- Vectors. -/
  n : Nat
  /-- Last delivery cycle, shortened by a cut (R215). -/
  last : Nat
  /-- Latched descriptor. -/
  desc : FDesc
  /-- Its descriptor is invalid: zero limbs (R98). -/
  bad : Bool
  /-- Latched generator. -/
  gen : AddrGen
  /-- Latched offset register. -/
  add : Nat
  /-- Hi limb. -/
  hi : Bool
  /-- Vectors read and not yet delivered. -/
  raw : List (Nat × RawVec)
  /-- Bundle address. -/
  pc : Nat
deriving DecidableEq, Repr

/-- A STAT in progress (06, R213, R214). -/
structure StatOp where
  /-- Issue cycle. -/
  v : Nat
  /-- Scale lines S. -/
  sLines : Nat
  /-- Last delivery cycle, shortened by a cut (R215). -/
  last : Nat
  /-- Latched descriptor. -/
  desc : FDesc
  /-- Its descriptor is invalid: zero limbs. -/
  bad : Bool
  /-- Address of stored row 0, the offset register included. -/
  base : Nat
  /-- Address of the scale array, the offset register included. -/
  sbase : Nat
  /-- Scale lines read: line number and content. -/
  scales : List (Nat × BitVec 1024)
  /-- Largest partner scale byte other than 0xFF. -/
  partner : Option Nat
  /-- Rows read and not yet converted: row number and content, little-endian. -/
  rows : List (Nat × Nat)
  /-- Common exponent, once row 0 has met a load of modes 1 to 4. -/
  common : Option Int
  /-- Load's semiring code that consumes row 0 has been seen. -/
  decided : Bool
  /-- Rows of the group in delivery, converted, and their exponents. -/
  group : Option (Nat × List (List Nat) × List Int)
  /-- Bundle address. -/
  pc : Nat
deriving DecidableEq, Repr

/-- A STORE in progress (06, R217). -/
structure StoreOp where
  /-- Issue cycle. -/
  s : Nat
  /-- Descriptor number. -/
  num : Nat
  /-- Latched descriptor. -/
  desc : SDesc
  /-- Source rows. -/
  n : Nat
  /-- Source address, offset included. -/
  src : Nat
  /-- Destination, offset included. -/
  dst : Nat
  /-- Scale destination, offset included. -/
  sdst : Nat
  /-- OP_SRIDXd latched. -/
  idx : Nat
  /-- OP_SRSTRd latched. -/
  str : Nat
  /-- The checks of cycle s + 1 have passed. -/
  started : Bool
  /-- First-scale rule. -/
  firstScale : Bool
  /-- Blocks take their own scale. -/
  block : Bool
  /-- The one scale of the store. -/
  xs : Nat
  /-- Measured amax, FP32 bits. -/
  amax : Nat
  /-- Largest magnitude stored, FP32 bits. -/
  curMax : Nat
  /-- The rolled record. -/
  record : Option AttrRec
  /-- Converted rows still to be written: write cycle, row, element bytes, scale bytes. -/
  rows : List (Nat × Nat × List Byte × List Byte)
  /-- Runs of bytes written so far toward HBM or the host: address and content. -/
  out : List (Nat × List Byte)
  /-- Bundle address. -/
  pc : Nat
deriving DecidableEq, Repr

/-- The feed and store paths and the CV_ registers (03, 06, R237). -/
structure ConvUnit where
  /-- CV_CTRL. -/
  ctrl : Word64
  /-- W1C bits of CV_STATUS. -/
  status : Word64
  /-- `store_overrun`. -/
  overrun : Word16
  /-- `desc_invalid`. -/
  descInvalid : Word16
  /-- CV_VANISH_STAT. -/
  vanishStat : Word64
  /-- CV_VANISH_STRM. -/
  vanishStrm : Word64
  /-- CV_NONFIN. -/
  nonfin : Word64
  /-- CV_UNDERFLOW. -/
  underflow : Word64
  /-- CV_SATURATED. -/
  saturated : Word64
  /-- CV_FDESC0 to CV_FDESC15. -/
  fdesc : List Word256
  /-- CV_SDESC0 to CV_SDESC7. -/
  sdesc : List Word256
  /-- Streams in progress. -/
  streams : List StreamOp
  /-- Stationary feeds in progress. -/
  stats : List StatOp
  /-- Stores in progress: one, or one ending and its successor. -/
  stores : List StoreOp
deriving DecidableEq, Repr

/-- Where a vector result goes (07, R241; 06, R219). -/
inductive VDst where
  | reg (n : Nat)
  | sram (addr : Nat)
deriving DecidableEq, Repr

/-- A vector result in flight (07, R241). -/
structure VecPend where
  /-- Issue cycle at whose end it is written. -/
  due : Nat
  /-- Issue cycle of the operation. -/
  iss : Nat
  /-- Where it goes. -/
  dst : VDst
  /-- The 128 lanes. -/
  val : BitVec 4096
  /-- What it counts (R259). -/
  cnt : VCount
  /-- Bundle address. -/
  pc : Nat
deriving DecidableEq, Repr

/-- The vector unit and the VU_ registers (07). -/
structure VecUnit where
  /-- v0 to v15. -/
  v : List (BitVec 4096)
  /-- Results in flight. -/
  flight : List VecPend
  /-- W1C bits of VU_STATUS. -/
  status : Word64
  /-- VU_OPS. -/
  ops : Word64
  /-- VU_NAN. -/
  nan : Word64
  /-- VU_INF. -/
  inf : Word64
  /-- VU_DOMAIN. -/
  domain : Word64
deriving DecidableEq, Repr

/-- A reservation of the Opal pipeline (09, R290). -/
structure OpalResv where
  /-- First issue cycle. -/
  lo : Nat
  /-- Last issue cycle. -/
  hi : Nat
  /-- Made by a VRAND, not by a store. -/
  vrand : Bool
deriving DecidableEq, Repr

/-- The Opal pipeline and the OP_ registers (09, R309). -/
structure OpalUnit where
  /-- Reservations. -/
  resv : List OpalResv
  /-- W1C bit of OP_STATUS. -/
  status : Word64
  /-- OP_VRAND_CNT. -/
  vrandCnt : Word64
  /-- OP_SR_ROWS. -/
  srRows : Word64
  /-- OP_SEED_CNT. -/
  seedCnt : Word64
  /-- OP_BUSY_CNT. -/
  busyCnt : Word64
  /-- OP_ALT_SEED_LO. -/
  altLo : Word64
  /-- OP_ALT_SEED_HI. -/
  altHi : Word64
  /-- OP_SRIDX0 to OP_SRIDX7. -/
  srIdx : List Word64
  /-- OP_SRSTR0 to OP_SRSTR7. -/
  srStr : List Word64
deriving DecidableEq, Repr

/-- What a buffer waits for (06, DMA operations). -/
inductive BufKind where
  | free | read | write | send | recv | atomic | hostout | regread | solve | seed | coll
deriving DecidableEq, Repr

/-- One of 64 buffers (06, R221 to R228). -/
structure Buffer where
  /-- Which operation claimed it; free when not held. -/
  kind : BufKind
  /-- Absolute issue cycle of the claim. -/
  claim : Nat
  /-- Held range: SRAM address and bytes, if any. -/
  range : Option (Nat × Nat)
  /-- Held answer range of a SOLVE. -/
  answer : Option (Nat × Nat)
  /-- Present. -/
  present : Bool
  /-- CCLK of the partition at whose end it became present. -/
  presentAt : Nat
  /-- A byte landed with poison. -/
  poisoned : Bool
  /-- Mark of the late item: the stall cause it carries, if any (02, R83). -/
  mark : Option Nat
  /-- Armed length of a RECV. -/
  armed : Nat
  /-- Bytes of a RECV that have landed. -/
  landed : Nat
  /-- Bytes that wait to land: SRAM address, content, poisoned. Fetched in issue order, landed by arrival (R226). -/
  fetched : Option (Nat × List Byte × Bool)
  /-- Identity of the outstanding request (remote message, collective call, solve). -/
  tag : Nat
  /-- Bundle address of the claim. -/
  pc : Nat
deriving DecidableEq, Repr

/-- An arrival that waits at the NoC port for its buffer to be armed (06, R225). -/
structure Arrival where
  /-- Buffer it is for. -/
  buf : Nat
  /-- Byte offset in the buffer. -/
  off : Nat
  /-- Content. -/
  data : List Byte
  /-- Poisoned. -/
  poison : Bool
  /-- Sender's step counter. -/
  step : Nat
  /-- Attempt number it carries. -/
  attempt : Nat
  /-- Stall cause of its mark. -/
  mark : Option Nat
deriving DecidableEq, Repr

/-- An operation of a cluster on HBM, held in issue order (06, R226). -/
inductive HbmOp where
  /-- A write of runs of bytes at HBM offsets, with the source buffer if there is one. -/
  | write (runs : List (Nat × List Byte)) (buf : Option Nat)
  /-- A read into a buffer: HBM offset, bytes, SRAM address. -/
  | read (buf off len sram : Nat)
  /-- A store whose rows are not all converted yet, by its issue cycle. -/
  | store (s : Nat)
  /-- A relaxed atomic add: HBM offset, FP32 elements, source buffer. -/
  | addNow (off : Nat) (vals : List Nat) (buf : Nat)
deriving DecidableEq, Repr

/-- The DMA engine and the DM_ registers (06, R238). -/
structure DmaUnit where
  /-- W1C bits and `poison_buf` of DM_STATUS. -/
  status : Word64
  /-- DM_ISSUED. -/
  issued : Word64
  /-- DM_ATOMIC_USED. -/
  atomicUsed : Word64
  /-- DM_DROP. -/
  drop : Word64
  /-- DM_DESC0 to DM_DESC31. -/
  desc : List Word128
  /-- Buffers 0 to 63. -/
  bufs : List Buffer
  /-- Arrivals waiting at the port. -/
  port : List Arrival
  /-- HBM operations in issue order that are not yet performed. -/
  hbmq : List HbmOp
deriving DecidableEq, Repr

/-- The trap record and count of the hazard detector, the DB_ registers (08, R276, R279). -/
structure TrapUnit where
  /-- The record is valid. -/
  valid : Bool
  /-- DB_TRAP_INFO. -/
  info : Word64
  /-- DB_TRAP_CYCLE. -/
  cycle : Word64
  /-- DB_TRAP_STEP. -/
  step : Word64
  /-- DB_TRAP_DETAIL. -/
  detail : Word64
  /-- DB_TRAP_COUNT. -/
  count : Word64
deriving DecidableEq, Repr

/-- Everything of a cluster but its SRAM and its replay copies. -/
structure ClusterCore where
  /-- Scalar registers and SQ_ registers. -/
  scalar : ScalarUnit
  /-- Tile array. -/
  array : ArrayUnit
  /-- Accumulator store. -/
  accum : AccumUnit
  /-- Feed and store paths. -/
  conv : ConvUnit
  /-- Vector unit. -/
  vec : VecUnit
  /-- Opal pipeline. -/
  opal : OpalUnit
  /-- DMA engine. -/
  dma : DmaUnit
deriving DecidableEq, Repr

/-- SRAM journal of the step (15, R491). -/
structure SramJournal where
  /-- Lines read in the step, by line number. -/
  rd : Mem 1
  /-- Lines written in the step. -/
  wr : Mem 1
  /-- Old content of lines written after they were read: line number and content. -/
  lines : List (Nat × BitVec 1024)
  /-- The journal overflowed. -/
  full : Bool
deriving DecidableEq, Repr

/-- One sampled pass in the capture buffer (15, R508, R509). -/
structure Capture where
  /-- Number j of the pass in the attempt. -/
  j : Nat
  /-- The pass. -/
  pass : PassOp
  /-- The active set as the pass reads it, once its first product cycle has run. -/
  set : Option RegSet
  /-- The vectors it entered. -/
  items : List VecItem
  /-- Chain values received from the gang: vector number, output, value. -/
  received : List (Nat × List (Nat × Chain))
  /-- Chain values formed: vector number, output, value. -/
  formed : List (Nat × List (Nat × Chain))
deriving DecidableEq, Repr

/-- The spot-check state of a cluster (15, R508 to R512). -/
structure SpotSample where
  /-- PASS operations counted in the attempt, wrapping at 2^32. -/
  passes : Nat
  /-- The capture buffer's sample. -/
  capture : Option Capture
deriving DecidableEq, Repr

/-- One logical cluster. -/
structure Cluster where
  /-- Units and registers. -/
  core : ClusterCore
  /-- Copies of the restored registers at the step's first bundle (15, R490). -/
  snap : ClusterCore
  /-- SRAM bytes by address. -/
  sram : Mem 8
  /-- SRAM journal. -/
  journal : SramJournal
  /-- Spot-check capture. -/
  spot : SpotSample
  /-- Trap record. -/
  trap : TrapUnit
deriving DecidableEq, Repr

/-- Scalar unit after reset (06, R679). -/
def scalarReset : ScalarUnit := { g := List.replicate 32 0, p := 1, ld := [], status := 0, wdog := 0x8000000 }

/-- Tile array after reset (04, R139, R167). -/
def arrayReset : ArrayUnit :=
  { set0 := regSetReset, set1 := regSetReset, active := false, load := none, passes := [], entered := [], flights := [],
    fwd := [], status := 0, gangCfg := 0x3FFFFFFFFC00, gangEff := 0x3FFFFFFFFC00, gangRoute := 0, relayed := 0,
    vecCnt := 0, loadCnt := 0, gangPerr := 0, gens := List.replicate 4 addrGenReset }

/-- Accumulator store after reset (05, R192, R199). -/
def accumReset : AccumUnit :=
  { tiles := [], frontSel := 0, drain := none, drainIndex := 0, deliver := none, port := 0, status := 0, rowCnt := 0,
    drainCnt := 0, inf := 0, nan := 0, loss := 0, peekSel := 0 }

/-- Feed and store paths after reset (06, R237). -/
def convReset : ConvUnit :=
  { ctrl := 1, status := 0, overrun := 0, descInvalid := 0, vanishStat := 0, vanishStrm := 0, nonfin := 0,
    underflow := 0, saturated := 0, fdesc := List.replicate 16 0, sdesc := List.replicate 8 0, streams := [],
    stats := [], stores := [] }

/-- Vector unit after reset (07, R244, R261). -/
def vecReset : VecUnit :=
  { v := List.replicate 16 0, flight := [], status := 0, ops := 0, nan := 0, inf := 0, domain := 0 }

/-- Opal after reset (09, R309). -/
def opalReset : OpalUnit :=
  { resv := [], status := 0, vrandCnt := 0, srRows := 0, seedCnt := 0, busyCnt := 0, altLo := 0, altHi := 0,
    srIdx := List.replicate 8 0, srStr := List.replicate 8 0 }

/-- A buffer that is not held. -/
def bufferFree : Buffer :=
  { kind := .free, claim := 0, range := none, answer := none, present := false, presentAt := 0, poisoned := false,
    mark := none, armed := 0, landed := 0, fetched := none, tag := 0, pc := 0 }

/-- DMA engine after reset (06, R238). -/
def dmaReset : DmaUnit :=
  { status := 0, issued := 0, atomicUsed := 0, drop := 0, desc := List.replicate 32 0,
    bufs := List.replicate 64 bufferFree, port := [], hbmq := [] }

/-- No trap recorded (08, R279). Assumption 70 (DESIGN CHOICE). -/
def trapReset : TrapUnit := { valid := false, info := 0, cycle := 0, step := 0, detail := 0, count := 0 }

/-- Units and registers after reset. Assumption 70 (DESIGN CHOICE). -/
def coreReset : ClusterCore :=
  { scalar := scalarReset, array := arrayReset, accum := accumReset, conv := convReset, vec := vecReset,
    opal := opalReset, dma := dmaReset }

/-- An empty SRAM journal. -/
def journalReset : SramJournal := { rd := [], wr := [], lines := [], full := false }

/-- No capture. -/
def spotReset : SpotSample := { passes := 0, capture := none }

/-- A cluster after module reset. -/
def clusterReset : Cluster :=
  { core := coreReset, snap := coreReset, sram := [], journal := journalReset, spot := spotReset, trap := trapReset }

end Sys2Proof.Machine
end

