-- ==== Sys2Proof/Machine/Flags.lean ====
section
/-! DEFINITION. Status flags: the contract events with their status bits and trap causes, write-one-to-clear fields and
counts (00, R8 to R11; 08, R265). -/

namespace Sys2Proof.Machine

/-- The events that set a flag of a cluster or trap in debug mode (08, R265). -/
inductive EvKind where
  | brk | slotInvalid | ctlInvalid | loopInvalid | loopOverflow | waitEarly | heldAccess | bankConflict | boundaryCut
  | loadAbort | passCut | earlySwap | passInStall | setMismatch | xposeInvalid | gangUnpaired
  | retireStraddle | drainAbort
  | descInvalid | storeOverrun | modeFallback | flushSticky | feedUnderrun | feedOrphan | feedCut
  | bufBusy | recvOverflow | atomicQuota | regreadUnmapped
  | wbCollide | wbDiscard | agMisaligned | opalBusy
deriving DecidableEq, Repr

/-- One event: what happened, in which slot, at which bundle address, with its detail (08, R279). -/
structure Ev where
  /-- What happened. -/
  kind : EvKind
  /-- Slot code of DB_TRAP_INFO. -/
  slot : Nat
  /-- Bundle address. -/
  pc : Nat
  /-- Detail of DB_TRAP_DETAIL. -/
  detail : Nat
deriving DecidableEq, Repr

/-- The trap cause of an event (08, R265). -/
def evCause : EvKind → Nat
  | .brk => 0x01 | .slotInvalid => 0x02 | .ctlInvalid => 0x03 | .loopInvalid => 0x04 | .loopOverflow => 0x05 | .waitEarly => 0x06
  | .heldAccess => 0x07 | .bankConflict => 0x08 | .boundaryCut => 0x09 | .loadAbort => 0x10 | .earlySwap => 0x11
  | .passInStall => 0x12 | .setMismatch => 0x13 | .xposeInvalid => 0x14 | .gangUnpaired => 0x15 | .passCut => 0x16
  | .retireStraddle => 0x18 | .drainAbort => 0x19 | .descInvalid => 0x20 | .storeOverrun => 0x21
  | .modeFallback => 0x22 | .flushSticky => 0x23 | .feedUnderrun => 0x24 | .feedOrphan => 0x25 | .feedCut => 0x26
  | .bufBusy => 0x28 | .recvOverflow => 0x29 | .atomicQuota => 0x2A | .regreadUnmapped => 0x2B | .wbCollide => 0x30
  | .wbDiscard => 0x31 | .agMisaligned => 0x38 | .opalBusy => 0x39

/-- The status bit of an event in SQ_STATUS (06, R235). -/
def sqBit : EvKind → Nat
  | .slotInvalid => 2 ^ 8 | .ctlInvalid => 2 ^ 1 | .loopInvalid => 2 ^ 2 | .loopOverflow => 2 ^ 3 | .waitEarly => 2 ^ 4
  | .heldAccess => 2 ^ 5 | .bankConflict => 2 ^ 6 | .boundaryCut => 2 ^ 9 | _ => 0

/-- The status bit of an event in TA_STATUS (04, R167). -/
def taBit : EvKind → Nat
  | .loadAbort => 2 ^ 1 | .earlySwap => 2 ^ 2 | .passInStall => 2 ^ 3 | .setMismatch => 2 ^ 4 | .xposeInvalid => 2 ^ 5
  | .gangUnpaired => 2 ^ 6 | .passCut => 2 ^ 8 | _ => 0

/-- The status bit of an event in AC_STATUS (05, R199). -/
def acBit : EvKind → Nat
  | .retireStraddle => 2 ^ 0 | .drainAbort => 2 ^ 1 | _ => 0

/-- The status bit of an event in CV_STATUS (06, R237). -/
def cvBit : EvKind → Nat
  | .flushSticky => 2 ^ 1 | .modeFallback => 2 ^ 2 | .feedCut => 2 ^ 3 | .feedOrphan => 2 ^ 4 | .feedUnderrun => 2 ^ 5
  | _ => 0

/-- The status bit of an event in DM_STATUS (06, R238). -/
def dmBit : EvKind → Nat
  | .bufBusy => 2 ^ 1 | .atomicQuota => 2 ^ 2 | .recvOverflow => 2 ^ 3 | .regreadUnmapped => 2 ^ 6 | _ => 0

/-- The status bit of an event in VU_STATUS (07, R261). -/
def vuBit : EvKind → Nat
  | .wbCollide => 2 ^ 0 | .wbDiscard => 2 ^ 1 | _ => 0

/-- The status bit of an event in OP_STATUS (09, R309). -/
def opBit : EvKind → Nat
  | .opalBusy => 2 ^ 1 | _ => 0

/-- All status bits of a block that a list of events sets. -/
def bitsOf (f : EvKind → Nat) (evs : List Ev) : Word64 := evs.foldl (fun w e => w ||| BitVec.ofNat 64 (f e.kind)) 0

/-- A control-register write of the cycle: index and value (06, CWR). -/
abbrev Cwr := Option (Nat × Word64)

/-- The value a control-register write carries to an index. -/
def cwrAt (w : Cwr) (idx : Nat) : Option Word64 :=
  match w with
  | some (i, v) => if i = idx then some v else none
  | none => none

/-- A read-write register after the cycle; the mask keeps reserved bits zero (00, R8, R11). -/
def rwReg (w : Cwr) (idx : Nat) (mask old : Word64) : Word64 :=
  match cwrAt w idx with
  | some v => v &&& mask
  | none => old

/-- A write-one-to-clear register after the cycle: cleared bits first, then the bits the cycle sets (00, R8, R9). -/
def w1cReg (w : Cwr) (idx : Nat) (mask old set : Word64) : Word64 :=
  (match cwrAt w idx with
   | some v => old &&& ~~~(v &&& mask)
   | none => old) ||| set

/-- One 64-bit quarter of a wide register replaced by a write (06, R237). -/
def widePart {w : Nat} (j : Nat) (v : Word64) (mask old : BitVec w) : BitVec w :=
  BitVec.ofNat w (setBits old.toNat (64 * j) 64 v.toNat) &&& mask

/-- How many events of a kind a list holds. -/
def evCount (k : EvKind) (evs : List Ev) : Nat := (evs.filter (fun e => e.kind = k)).length

/-- The order of R276: lower cause, then lower slot, then lower detail. -/
def evBefore (a b : Ev) : Bool :=
  if evCause a.kind ≠ evCause b.kind then decide (evCause a.kind < evCause b.kind)
  else if a.slot ≠ b.slot then decide (a.slot < b.slot)
  else decide (a.detail < b.detail)

/-- The event of a cycle that a trap record takes (R276). -/
def firstEv : List Ev → Option Ev
  | [] => none
  | e :: t =>
    match firstEv t with
    | none => some e
    | some f => if evBefore f e then some f else some e

end Sys2Proof.Machine
end

