-- ==== Sys2Proof/Machine/Sram.lean ====
section
/-! DEFINITION. One issue cycle as a cluster sees it, the accesses of its units to SRAM, the ranks of R230, held ranges of
R222 and the SRAM journal of R491. -/

namespace Sys2Proof.Machine

/-- What the sequencer shows a cluster that reads control registers (06, R235). -/
structure SeqView where
  /-- SQ_STATUS bits 15:13. -/
  loopBits : Nat
  /-- SQ_PC. -/
  pc : Nat
  /-- SQ_ENTRY. -/
  entry : Nat
  /-- SQ_STEP. -/
  step : Nat
  /-- SQ_BUNDLES. -/
  bundles : Nat
  /-- SQ_ID. -/
  id : Nat
  /-- SQ_LOOP0 to SQ_LOOP3. -/
  loops : List Nat
  /-- SQ_STALL. -/
  stall : Nat
  /-- DB_STATUS bits 0 and 2. -/
  dbg : Nat
deriving DecidableEq, Repr

/-- What one issue cycle gives a cluster. -/
structure Env where
  /-- Absolute issue cycle u of the partition. -/
  u : Nat
  /-- Issue cycles since the step's first bundle. -/
  rel : Nat
  /-- CCLK count of the partition. -/
  cclk : Nat
  /-- Bundle address. -/
  pc : Nat
  /-- Step counter. -/
  step : Nat
  /-- Attempt number. -/
  attempt : Nat
  /-- Seed words of the key record. -/
  seed : Words4
  /-- Debug mode. -/
  debug : Bool
  /-- Spot-checks enabled. -/
  spot : Bool
  /-- A checker is available for a sample (15, R511). -/
  checker : Bool
  /-- The bundle. -/
  b : Bundle
  /-- Logical cluster. -/
  k : Nat
  /-- The partition's HBM slice in bytes by region bit: unprotected, protected. -/
  slice : Nat × Nat
  /-- Sequencer events of the cycle (control slot). -/
  seqEvs : List Ev
  /-- What control-register reads see of the sequencer. -/
  seq : SeqView
  /-- Arrays of paired neighbours at the start of the cycle. -/
  north : Option ArrayUnit
  /-- West neighbour. -/
  west : Option ArrayUnit
  /-- South hop paired. -/
  south : Bool
  /-- East hop paired. -/
  east : Bool
  /-- Consecutive paired hops to the north. -/
  hopsN : Nat
  /-- Consecutive paired hops to the west. -/
  hopsW : Nat
deriving DecidableEq, Repr

/-- A g register as it stands; g0 reads 0 (06, R204). -/
def gReg (s : ScalarUnit) (n : Nat) : Word64 := if n = 0 then 0 else s.g.getD n 0

/-- A predicate as it stands; p0 reads 1 (06, R204). -/
def pReg (s : ScalarUnit) (n : Nat) : Bool := n = 0 || s.p.getLsbD n

/-- Does a predicate field let its slot act (06, R204). -/
def predOn (c : ClusterCore) (p : BitVec 3) : Bool := pReg c.scalar p.toNat

/-- Bytes of SRAM; addresses wrap at 8 MiB. -/
def sramBytes : Nat := 2 ^ 23

/-- n SRAM bytes from an address, wrapping. -/
def sramRead (m : Mem 8) (a n : Nat) : List Byte :=
  let a0 := a % sramBytes
  if a0 + n ≤ sramBytes then memRead m a0 n
  else memRead m a0 (sramBytes - a0) ++ memRead m 0 (a0 + n - sramBytes)

/-- Write SRAM bytes from an address, wrapping. -/
def sramWrite (m : Mem 8) (a : Nat) (d : List Byte) : Mem 8 :=
  let a0 := a % sramBytes
  if a0 + d.length ≤ sramBytes then memWrite m a0 d
  else memWrite (memWrite m a0 (d.take (sramBytes - a0))) 0 (d.drop (sramBytes - a0))

/-- The 128-byte lines that n bytes from an address touch (06, R229). -/
def linesOf (a n : Nat) : List Nat :=
  if n = 0 then []
  else
    let a0 := a % sramBytes
    (List.range ((a0 + n - 1) / 128 - a0 / 128 + 1)).map (fun i => (a0 / 128 + i) % 65536)

/-- The bank of a line (06, R229). -/
def bankOf (line : Nat) : Nat := line % 32

/-- Which access of a unit this is. -/
inductive AccKind where
  | streamRec | streamVec | streamScale | statRec | statScale | statPartner | statRow
  | storeRec | storeSrc | storeElems | storeScales | storeRecBack | vecRead | vecWrite | scRead | scWrite
deriving DecidableEq, Repr

/-- An access of a unit to SRAM in one cycle (06, R229, R230). -/
structure Acc where
  /-- Rank: 0 feed stream, 1 feed stationary, 2 store, 3 vector, 4 scalar. -/
  rank : Nat
  /-- Issue cycle of the operation. -/
  iss : Nat
  /-- Which access. -/
  kind : AccKind
  /-- Through the scale port. -/
  scale : Bool
  /-- Address. -/
  addr : Nat
  /-- Bytes. -/
  len : Nat
  /-- Content of a write. -/
  data : Option (List Byte)
  /-- Slot code of a trap. -/
  slot : Nat
  /-- Bundle address of a trap. -/
  pc : Nat
deriving DecidableEq, Repr

/-- Does access a come before access b in the ranks of R230. Assumption 32 (DEDUCED). -/
def accBefore (a b : Acc) : Bool := decide (a.rank < b.rank) || (a.rank = b.rank && decide (b.iss < a.iss))

/-- Put an access before those of equal rank that follow it in the list. -/
def accInsert (a : Acc) : List Acc → List Acc
  | [] => [a]
  | x :: t => if accBefore x a then x :: accInsert a t else a :: x :: t

/-- The accesses in the order in which they are served. -/
def accSort : List Acc → List Acc
  | [] => []
  | a :: t => accInsert a (accSort t)

/-- A line in use in the cycle: port, line, whether every access to it so far is a read. -/
structure LineUse where
  /-- Scale port. -/
  scale : Bool
  /-- Line number. -/
  line : Nat
  /-- The access is a read. -/
  read : Bool
deriving DecidableEq, Repr

/-- May a line be served beside those in use (06, R230). -/
def lineFree (used : List LineUse) (scale : Bool) (line : Nat) (read : Bool) : Bool :=
  used.all (fun x => x.scale != scale || bankOf x.line != bankOf line || (x.line = line && x.read && read))

/-- The outcome of an access: its lines that are served, those that lost. -/
structure Served where
  /-- The access. -/
  acc : Acc
  /-- Lines served. -/
  won : List Nat
  /-- Lines that lost to a higher rank. -/
  lost : List Nat
deriving DecidableEq, Repr

/-- Serve accesses in order (06, R230). Assumption 32 (DEDUCED). -/
def serveAll : List Acc → List LineUse → List Served
  | [], _ => []
  | a :: t, used =>
    let rd := a.data.isNone
    let ls := linesOf a.addr a.len
    let won := ls.filter (fun l => lineFree used a.scale l rd)
    let lost := ls.filter (fun l => !lineFree used a.scale l rd)
    { acc := a, won := won, lost := lost } ::
      serveAll t (used ++ won.map (fun l => { scale := a.scale, line := l, read := rd }))

/-- Held ranges: buffer, address, bytes (06, R221). -/
def heldRanges (bufs : List Buffer) : List (Nat × Nat × Nat) :=
  ((bufs.zipIdx).map (fun bi =>
    if bi.1.kind = .free then []
    else (match bi.1.range with | some r => [(bi.2, r.1, r.2)] | none => []) ++
      (match bi.1.answer with | some r => [(bi.2, r.1, r.2)] | none => []))).flatten

/-- Is an SRAM byte in a range that may wrap. -/
def inRange (x lo n : Nat) : Bool := decide ((x + sramBytes - lo % sramBytes) % sramBytes < n)

/-- The lowest buffer whose held range holds the byte. -/
def heldBy (held : List (Nat × Nat × Nat)) (x : Nat) : Option Nat :=
  (held.find? (fun h => inRange x h.2.1 h.2.2)).map (·.1)

/-- Do two ranges share a byte. -/
def rangesMeet (a n b m : Nat) : Bool := n ≠ 0 && m ≠ 0 && (inRange a b m || inRange b a n)

/-- The held buffers that an access touches. -/
def heldTouched (held : List (Nat × Nat × Nat)) (a : Acc) : List Nat :=
  (held.filter (fun h => rangesMeet a.addr a.len h.2.1 h.2.2)).map (·.1)

/-- What a read delivers: bytes of lines that lost and of held ranges read as zero (06, R222, R230).
Assumption 35 (DEDUCED). -/
def readBytes (sram : Mem 8) (held : List (Nat × Nat × Nat)) (s : Served) : List Byte :=
  let raw := sramRead sram s.acc.addr s.acc.len
  if s.lost.isEmpty && (heldTouched held s.acc).isEmpty then raw
  else raw.mapIdx (fun i x =>
    let ad := (s.acc.addr + i) % sramBytes
    if s.won.contains (ad / 128) && (heldBy held ad).isNone then x else 0)

/-- SRAM after a write: bytes of lines that lost and of held ranges keep their content (06, R222, R230). -/
def applyWrite (held : List (Nat × Nat × Nat)) (sram : Mem 8) (s : Served) : Mem 8 :=
  match s.acc.data with
  | none => sram
  | some d =>
    if s.lost.isEmpty && (heldTouched held s.acc).isEmpty then sramWrite sram s.acc.addr d
    else
      let old := sramRead sram s.acc.addr d.length
      let d2 := (d.zip old).mapIdx (fun i x =>
        let ad := (s.acc.addr + i) % sramBytes
        if s.won.contains (ad / 128) && (heldBy held ad).isNone then x.1 else x.2)
      sramWrite sram s.acc.addr d2

/-- The events of an access: a held range touched, a bank conflict lost (06, R222, R230). -/
def accEvents (held : List (Nat × Nat × Nat)) (s : Served) : List Ev :=
  (match heldTouched held s.acc with
   | [] => []
   | b :: _ => [{ kind := .heldAccess, slot := s.acc.slot, pc := s.acc.pc, detail := b }]) ++
  (match s.lost with
   | [] => []
   | l :: _ => [{ kind := .bankConflict, slot := s.acc.slot, pc := s.acc.pc, detail := bankOf l }])

/-- The bytes that one access of a unit has read in the cycle; nothing where it made none. -/
def readOf (rs : List (Acc × List Byte)) (kind : AccKind) (iss : Nat) : List Byte :=
  match rs.find? (fun r => r.1.kind = kind && r.1.iss = iss) with
  | some r => r.2
  | none => []

/-- Note lines as read: `rd` is set where `wr` is clear (15, R491). -/
def journalRead (j : SramJournal) (lines : List Nat) : SramJournal :=
  { j with rd := lines.foldl (fun m l => if memGet j.wr l = 0 then memSet m l 1 else m) j.rd }

/-- Note one line as written, with its old content copied where it was read first (15, R491, R493). -/
def journalLine (sram : Mem 8) (j : SramJournal) (l : Nat) : SramJournal :=
  let copy := memGet j.rd l = 1 && memGet j.wr l = 0
  let room := decide (j.lines.length < 1024)
  { rd := j.rd, wr := memSet j.wr l 1,
    lines := if copy && room then j.lines ++ [(l, BitVec.ofNat 1024 (memLe sram (128 * l) 128))] else j.lines,
    full := j.full || (copy && !room) }

/-- Note lines as written before they are. -/
def journalWrite (sram : Mem 8) (j : SramJournal) (lines : List Nat) : SramJournal := lines.foldl (journalLine sram) j

/-- Lines of a served access in which it reached a byte that is not held: those that the journal sees (15, R491). -/
def journalLines (held : List (Nat × Nat × Nat)) (s : Served) : List Nat :=
  if (heldTouched held s.acc).isEmpty then s.won
  else s.won.filter (fun l => (List.range s.acc.len).any (fun i =>
    let ad := (s.acc.addr + i) % sramBytes
    ad / 128 = l && (heldBy held ad).isNone))

/-- Restore the journalled lines, newest first (15, R495). -/
def journalRestore (j : SramJournal) (sram : Mem 8) : Mem 8 :=
  j.lines.reverse.foldl (fun m e => memSetLe m (128 * e.1) 128 e.2.toNat) sram

end Sys2Proof.Machine
end

