-- ==== Sys2Proof/Machine/FeedPath.lean ====
section
/-! DEFINITION. The feed path: descriptors latched at issue, reads, conversion and delivery of streaming vectors and
stationary rows (03, R99 to R107; 04, R154 to R159, R678; 06, R212 to R216). -/

namespace Sys2Proof.Machine

/-- The format of a descriptor that is valid; INT4 stands for none. -/
def fmtOf (c : Nat) : Fmt := (fmtOfCode c).getD .int4

/-- Elements of a streaming vector (04, R156). -/
def streamLen (d : FDesc) : Nat :=
  let cap := if d.limb = 2 then 256 else 128
  if d.kLen = 0 then cap else min d.kLen cap

/-- K extent of a stationary operand, within the array (04, R129). -/
def statK (d : FDesc) : Nat := min d.kLen (if d.limb = 2 then 256 else 128)

/-- Output extent of a stationary operand, within the array (04, R129). -/
def statN (d : FDesc) : Nat := min d.nLen 128

/-- The block size of a stationary operand's sharing dimension (03, R96). -/
def statBlock (d : FDesc) : Nat := blockSize d.bsize (if d.shareMn then statN d else statK d)

/-- Scale bytes of a stationary operand; none for an unscaled format or raw codes (03, R97; 04, R136). -/
def statScales (d : FDesc) : Nat :=
  if !fmtScaled (fmtOf d.fmt) || d.limb = 3 || statK d = 0 || statN d = 0 then 0
  else if d.shareMn then statK d * ceilDiv (statN d) (statBlock d)
  else statN d * ceilDiv (statK d) (statBlock d)

/-- The number of the scale byte of element (k, n) (03, R97). -/
def statScaleIndex (d : FDesc) (k n : Nat) : Nat :=
  let b := statBlock d
  if d.shareMn then k * ceilDiv (statN d) b + n / b else n * ceilDiv (statK d) b + k / b

/-- The descriptor a feed operation latches (06, R237). -/
def fdescAt (c : ConvUnit) (d : BitVec 4) : FDesc := fdescOf (c.fdesc.getD d.toNat 0)

/-- The stream that a bundle issues, if its feed slot acts (06, R213). Assumption 30 (DEDUCED). -/
def newStream (env : Env) (c : ClusterCore) : Option StreamOp :=
  match env.b.fdOp with
  | .run true _ =>
    if !predOn c env.b.fd.pred then none
    else
      let d := fdescAt c.conv env.b.fd.sdesc
      some { v := env.u, n := env.b.fd.slen.toNat + 1, last := env.u + 4 + env.b.fd.slen.toNat, desc := d,
             bad := fdescInvalid d true, gen := c.array.gens.getD d.gen addrGenReset,
             add := (gReg c.scalar env.b.fd.soff.toNat).toNat, hi := env.b.fd.strHi, raw := [], pc := env.pc }
  | _ => none

/-- The stationary feed that a bundle issues, if its feed slot acts (06, R213). Assumption 30 (DEDUCED). -/
def newStat (env : Env) (c : ClusterCore) : Option StatOp :=
  match env.b.fdOp with
  | .run _ true =>
    if !predOn c env.b.fd.pred then none
    else
      let d := fdescAt c.conv env.b.fd.ldesc
      let off := (gReg c.scalar env.b.fd.loff.toNat).toNat
      let bad := fdescInvalid d false
      let sbase := wrapU 23 (d.scaleBase + off)
      let nb := if bad then 0 else statScales d
      let s := if nb = 0 then 0 else (sbase + nb - 1) / 128 - sbase / 128 + 1
      some { v := env.u, sLines := s, last := env.u + s + d.pscan + 147, desc := d, bad := bad,
             base := wrapU 23 (d.base + off), sbase := sbase, scales := [], partner := none, rows := [],
             common := none, decided := false, group := none, pc := env.pc }
  | _ => none

/-- First delivery cycle of a stationary feed (06, R213). -/
def statFirst (t : StatOp) : Nat := t.v + t.sLines + t.desc.pscan + 20

/-- Bytes of one stored stationary row (04, R678). -/
def statRowLen (d : FDesc) : Nat := rowBytes (fmtOf d.fmt) (if d.limb = 2 then 2 * statN d else statN d)

/-- The vector of a stream that is read in a cycle: its number and its walk (04, R155). -/
def streamStep (o : StreamOp) (u : Nat) : Option (Nat × WalkStep) :=
  if o.v + 1 ≤ u && u < o.v + 1 + o.n && u + 3 ≤ o.last then
    let j := u - o.v - 1
    let f := fmtOf o.desc.fmt
    some (j, agWalk o.gen o.add j (fmtWidth f) (blockSize o.desc.bsize (streamLen o.desc)))
  else none

/-- Does a stream read scale bytes. -/
def streamScaled (o : StreamOp) : Bool := fmtScaled (fmtOf o.desc.fmt) && o.desc.limb != 3

/-- Scale bytes of one vector that lie in the line of the first (06, R216). -/
def streamScaleLen (o : StreamOp) (saddr : Nat) : Nat :=
  let n := streamLen o.desc
  min (ceilDiv n (blockSize o.desc.bsize n)) (128 - saddr % 128)

/-- The accesses of a stream in a cycle (03, R124; 06, R213). -/
def streamAccs (o : StreamOp) (u : Nat) : List Acc :=
  if o.bad then []
  else
    (if u = o.v && o.desc.recEn then
      [{ rank := 0, iss := o.v, kind := .streamRec, scale := false, addr := o.desc.recAddr, len := 8, data := none,
         slot := 5, pc := o.pc }] else []) ++
    (match streamStep o u with
     | some (_, w) =>
       if !w.valid then []
       else
         { rank := 0, iss := o.v, kind := .streamVec, scale := false, addr := w.addr,
           len := rowBytes (fmtOf o.desc.fmt) (streamLen o.desc), data := none, slot := 5, pc := o.pc } ::
         (if streamScaled o then
           [{ rank := 0, iss := o.v, kind := .streamScale, scale := true, addr := w.saddr,
              len := streamScaleLen o w.saddr, data := none, slot := 5, pc := o.pc }] else [])
     | none => [])

/-- The accesses of a stationary feed in a cycle (03, R124; 06, R213, R214). -/
def statAccs (t : StatOp) (u : Nat) : List Acc :=
  let mk (kind : AccKind) (addr len : Nat) : Acc :=
    { rank := 1, iss := t.v, kind := kind, scale := false, addr := addr, len := len, data := none, slot := 5, pc := t.pc }
  let i := u - t.v
  if u = t.v then (if t.desc.recEn && !t.bad then [mk .statRec t.desc.recAddr 8] else [])
  else if i ≤ t.sLines then [mk .statScale ((t.sbase / 128 + i - 1) % 65536 * 128) 128]
  else if i ≤ t.sLines + t.desc.pscan then
    [mk .statPartner (wrapU 23 (t.desc.pscanBase + 128 * (i - t.sLines - 1 : Nat))) 128]
  else
    let r := i - t.sLines - t.desc.pscan - 1
    let kr := if t.desc.limb = 2 then 2 * r else r
    if !t.bad && decide (r < 128) && decide (statFirst t + r ≤ t.last) && decide (kr < statK t.desc) && statN t.desc != 0
    then [mk .statRow (wrapU 23 (t.base + r * t.desc.pitch)) (statRowLen t.desc)]
    else []

/-- All accesses of the feed path in a cycle, the operations of this bundle included. -/
def feedAccs (env : Env) (c : ClusterCore) : List Acc :=
  ((c.conv.streams ++ (newStream env c).toList).map (fun o => streamAccs o env.u)).flatten ++
    ((c.conv.stats ++ (newStat env c).toList).map (fun t => statAccs t env.u)).flatten

/-- What one vector read brings (04, R156, R157; 06, R216). -/
def rawOf (o : StreamOp) (w : WalkStep) (vec scl : List Byte) : RawVec :=
  if o.bad then .zero
  else if !w.valid then .masked
  else
    let f := fmtOf o.desc.fmt
    let n := streamLen o.desc
    let row := leNat vec
    let bsz := blockSize o.desc.bsize n
    .data ((List.range n).map (packedElem f row))
      (if streamScaled o then (List.range n).map (fun i => (scl.getD (i / bsz) 0xFF).toNat) else List.replicate n 127)

/-- A stream after the reads of a cycle. -/
def streamRead (rs : List (Acc × List Byte)) (u : Nat) (o : StreamOp) : StreamOp :=
  match streamStep o u with
  | some (j, w) =>
    { o with raw := o.raw ++ [(j, rawOf o w (readOf rs .streamVec o.v) (readOf rs .streamScale o.v))] }
  | none => o

/-- The misalignment that the hazard detector finds in a cycle's reads (04, R159; 08, R273). -/
def streamAlignEvs (u : Nat) (o : StreamOp) : List Ev :=
  match streamStep o u with
  | some (_, w) =>
    let f := fmtOf o.desc.fmt
    let n := streamLen o.desc
    if o.bad || !w.valid then []
    else if (w.off * 8) % (fmtWidth f : Int) != 0 ||
        (streamScaled o && w.eoff % (blockSize o.desc.bsize n : Int) != 0) then
      [{ kind := .agMisaligned, slot := 5, pc := o.pc, detail := w.addr }]
    else []
  | none => []

/-- Largest byte other than 0xFF. -/
def maxByte (acc : Option Nat) (l : List Byte) : Option Nat :=
  l.foldl (fun (a : Option Nat) (b : Byte) => if b = 0xFF then a else match a with
    | none => some b.toNat
    | some m => some (max m b.toNat)) acc

/-- A stationary feed after the reads of a cycle (06, R213, R214). -/
def statRead (rs : List (Acc × List Byte)) (u : Nat) (t : StatOp) : StatOp :=
  let i := u - t.v
  if u ≤ t.v then t
  else if i ≤ t.sLines then
    { t with scales := t.scales ++ [((t.sbase / 128 + i - 1) % 65536,
                                     BitVec.ofNat 1024 (leNat (readOf rs .statScale t.v)))] }
  else if i ≤ t.sLines + t.desc.pscan then { t with partner := maxByte t.partner (readOf rs .statPartner t.v) }
  else
    let r := i - t.sLines - t.desc.pscan - 1
    if r < 128 && decide (statFirst t + r ≤ t.last) then { t with rows := t.rows ++ [(r, leNat (readOf rs .statRow t.v))] } else t

/-- The stationary scale byte i of a feed, from the lines it read; 0xFF where none was read. -/
def statScaleByte (t : StatOp) (i : Nat) : Nat :=
  let a := wrapU 23 (t.sbase + i)
  match t.scales.find? (fun e => e.1 = a / 128) with
  | some e => bits e.2.toNat (8 * (a % 128)) 8
  | none => 0xFF

/-- The common exponent q of R108, from stationary scale bytes and partner lines (06, R214). -/
def commonExp (t : StatOp) : Int :=
  let own := (List.range (if t.bad then 0 else statScales t.desc)).map (fun i => BitVec.ofNat 8 (statScaleByte t i))
  match maxByte t.partner own with
  | none => 0
  | some x => (x : Int) - 127 + fmtEmax (fmtOf t.desc.fmt) - 6

/-- Element (k, n) of a stationary operand with its scale code; rows that were never read hold no element (04, R678). -/
def statElem (t : StatOp) (k n : Nat) : Option (Nat × Nat) :=
  let f := fmtOf t.desc.fmt
  let r := if t.desc.limb = 2 then k / 2 else k
  let i := if t.desc.limb = 2 then 2 * n + k % 2 else n
  if k ≥ statK t.desc || n ≥ statN t.desc then none
  else match t.rows.find? (fun e => e.1 = r) with
    | some e => some (packedElem f e.2 i,
        if fmtScaled f && t.desc.limb != 3 then statScaleByte t (statScaleIndex t.desc k n) else 127)
    | none => none

/-- The limb mode of a limb code (04, TA_SET0_CFG). -/
def limbOfCode (c : Nat) : LimbMode :=
  match c with
  | 0 => .m1 | 1 => .m2 | _ => .mN

/-- The positions of one stationary exponent group: rows of group g, column group h (03, R101). -/
def groupPos (d : FDesc) (g h : Nat) : List (Nat × Nat) :=
  let kk := if d.limb = 2 then 32 else 16
  let cols := if d.square then (List.range 16).map (· + 16 * h) else [h]
  ((List.range kk).map (fun i => cols.map (fun n => (kk * g + i, n)))).flatten

/-- The aligned integers of one stationary group by position, its exponent and its counts (03, R102, R103, R108). -/
def groupConv (t : StatOp) (keep : Bool) (g h : Nat) : List ((Nat × Nat) × Int) × Int × FeedCount :=
  let f := fmtOf t.desc.fmt
  let els := (groupPos t.desc g h).filterMap (fun p => (statElem t p.1 p.2).map (fun e => (p, e)))
  if t.bad then ([], t.common.getD 0, {})
  else if t.desc.limb = 3 then (els.map (fun e => (e.1, ((e.2.1 : Nat) : Int))), 0, {})
  else match t.common with
    | some q =>
      let r := feedGroupAt f q keep (els.map (·.2))
      ((els.map (·.1)).zip r.1, q, r.2)
    | none =>
      let r := feedGroup f (limbW (limbOfCode t.desc.limb)) keep (els.map (·.2))
      ((els.map (·.1)).zip r.1, r.2.1, r.2.2)

/-- A limb or code looked up by position; zero where there is no element. -/
def limbAt (l : List ((Nat × Nat) × Int)) (k n : Nat) : Int :=
  match l.find? (fun e => e.1.1 = k && e.1.2 = n) with
  | some e => e.2
  | none => 0

/-- The 16-bit cell of register row r, column n, from the limbs of its group (04, R130). -/
def cellOf (limb : Nat) (l : List ((Nat × Nat) × Int)) (r n : Nat) : Nat :=
  match limb with
  | 1 => let a := limbAt l r n; wrapU 8 (limbHi a) * 256 + wrapU 8 (limbLo a)
  | 2 => wrapU 8 (limbAt l (2 * r + 1) n) * 256 + wrapU 8 (limbAt l (2 * r) n)
  | _ => wrapU 8 (limbAt l r n)

/-- The sixteen register rows of group g, its exponents and its counts (04, R130, R140). -/
def statGroup (t : StatOp) (keep : Bool) (g : Nat) : List (List Nat) × List Int × FeedCount :=
  let hs := (List.range (if t.desc.square then 8 else 128)).map (fun h => groupConv t keep g h)
  let cols := (List.range 128).map (fun n => (hs.getD (if t.desc.square then n / 16 else n) ([], 0, {})).1)
  let rows := (List.range 16).map (fun i =>
    (List.range 128).map (fun n => if n < statN t.desc then cellOf t.desc.limb (cols.getD n []) (16 * g + i) n else 0))
  (rows, hs.map (fun h => if h.1.isEmpty && t.common.isNone then 0 else h.2.1),
    hs.foldl (fun acc h => feedCountAdd acc h.2.2) {})

/-- What a set's configuration takes from a stationary descriptor (04, R140). -/
def cfgOf (d : FDesc) : SetCfg :=
  { setCfgReset with
    limb := d.limb, square := d.square, fmt := d.fmt, bsize := d.bsize, shareMn := d.shareMn, kLen := d.kLen,
    nLen := d.nLen }

/-- What a cycle delivers from one stationary feed: the feed after it, the row item, the counts (06, R213, R214). -/
def statDeliver (keep : Bool) (loadMode : Option Nat) (u : Nat) (t : StatOp) : StatOp × Option StatItem × FeedCount :=
  if u < statFirst t || u > t.last || u ≥ statFirst t + 128 then (t, none, {})
  else
    let r := u - statFirst t
    let t1 :=
      if r = 0 then
        match loadMode with
        | some m =>
          if !t.bad && t.desc.limb = 0 && decide (1 ≤ m) && decide (m ≤ 4)
          then { t with common := some (commonExp t), decided := true } else { t with decided := true }
        | none => { t with decided := true }
      else t
    let g := r / 16
    let have16 := match t1.group with | some x => decide (x.1 = g) | none => false
    let conv := statGroup t1 keep g
    let t2 := if have16 then t1 else
      { t1 with
        group := some (g, conv.1, conv.2.1), rows := t1.rows.filter (fun e => decide (16 * g + 16 ≤ e.1)) }
    match t2.group with
    | some x =>
      (t2, some { cells := x.2.1.getD (r % 16) [], exps := x.2.2, cfg := cfgOf t.desc }, if have16 then {} else conv.2.2)
    | none => (t2, none, {})

/-- A streaming limb held within −128 to 127, and whether it was clamped (06, R214). -/
def clampLimb (a : Int) : Int × Bool := (clampInt a (-128) 127, decide (a < -128) || decide (127 < a))

/-- One streaming group converted: limbs, exponent with the +8 of a hi limb, counts (03, R101 to R104; 06, R214). -/
def streamGroup (o : StreamOp) (keep : Bool) (common : Option Int) (els : List (Nat × Nat)) : List Int × Int × FeedCount :=
  let f := fmtOf o.desc.fmt
  if o.desc.limb = 3 then (els.map (fun e => ((e.1 : Nat) : Int)), 0, {})
  else match common with
    | some q =>
      let ks := els.map (fun c => feedElem f keep c.1 c.2)
      let al := (ks.zip els).map (fun ke => alignElem f q ke.2.2 ke.1.1)
      let cl := al.map (fun a => clampLimb a.1)
      let cnt := ks.foldl (fun acc k => feedCountAdd acc k.2) ({} : FeedCount)
      (cl.map (·.1), q, { cnt with vanish := countTrue ((al.zip cl).map (fun p => p.1.2 || p.2.2)) })
    | none =>
      let r := feedGroup f (limbW (limbOfCode o.desc.limb)) keep els
      if o.desc.limb = 1 then
        (r.1.map (fun a => if o.hi then limbHi a else limbLo a), r.2.1 + (if o.hi then 8 else 0), r.2.2)
      else (r.1, r.2.1, r.2.2)

/-- The item of a raw vector at its entry (04, R156, R157). -/
def vecItemOf (o : StreamOp) (keep : Bool) (common : Option Int) (raw : RawVec) : VecItem × FeedCount :=
  match raw with
  | .zero => ({ masked := false, limb := o.desc.limb, a := List.replicate (streamLen o.desc) 0, q := [] }, {})
  | .masked => (maskedVec o.desc.limb, {})
  | .data codes scl =>
    let sz := if o.desc.limb = 2 then 32 else 16
    let gs := (chunksOf sz 8 (codes.zip scl)).map (streamGroup o keep (if o.desc.limb = 0 then common else none))
    ({ masked := false, limb := o.desc.limb, a := (gs.map (·.1)).flatten, q := gs.map (·.2.1) },
      gs.foldl (fun acc g => feedCountAdd acc g.2.2) {})

/-- What a cycle delivers from one stream: the stream after it, the vector, the counts. -/
def streamDeliver (keep : Bool) (common : Option Int) (u : Nat) (o : StreamOp) : StreamOp × Option VecItem × FeedCount :=
  if u < o.v + 4 || u > o.last then (o, none, {})
  else
    let j := u - o.v - 4
    let raw := match o.raw.find? (fun e => e.1 = j) with | some e => e.2 | none => .zero
    let it := vecItemOf o keep common raw
    ({ o with raw := o.raw.filter (fun e => decide (j < e.1)) }, some it.1, it.2)

/-- What the feed path does in a cycle. -/
structure FeedOut where
  /-- Streams after the cycle. -/
  streams : List StreamOp
  /-- Stationary feeds after the cycle. -/
  stats : List StatOp
  /-- The vector delivered, with the bundle address of its stream. -/
  vec : Option (VecItem × Nat)
  /-- The stationary row delivered. -/
  stat : Option (StatItem × Nat)
  /-- Counts of streaming conversions. -/
  strm : FeedCount
  /-- Counts of stationary conversions. -/
  stary : FeedCount
  /-- Non-finite counts inherited (03, R124). -/
  inherited : Nat
  /-- Invalid descriptors used. -/
  invalid : Nat
  /-- Events. -/
  evs : List Ev
deriving DecidableEq, Repr

/-- End earlier deliveries before a new first delivery (06, R215). -/
def cutStreams (first : Option Nat) (l : List StreamOp) : List StreamOp :=
  match first with
  | none => l
  | some f => l.map (fun o => if f ≤ o.last then { o with last := f - 1 } else o)

/-- End earlier stationary deliveries before a new first delivery (06, R215). -/
def cutStats (first : Option Nat) (l : List StatOp) : List StatOp :=
  match first with
  | none => l
  | some f => l.map (fun t => if f ≤ t.last then { t with last := f - 1 } else t)

/-- The feed path in one issue cycle, from the reads of the cycle, the common exponent of the set that the entering vector
meets and the semiring code of the load that consumes a stationary row. -/
def feedCycle (env : Env) (c : ClusterCore) (rs : List (Acc × List Byte)) (common : Option Int) (loadMode : Option Nat) :
    FeedOut :=
  let keep := c.conv.ctrl.getLsbD 0
  let ns := newStream env c
  let nt := newStat env c
  let cutS := ns.isSome && c.conv.streams.any (fun o => decide (env.u + 4 ≤ o.last))
  let firstT := nt.map statFirst
  let cutT := match firstT with | some f => c.conv.stats.any (fun t => decide (f ≤ t.last)) | none => false
  let ss := (cutStreams (ns.map (fun _ => env.u + 4)) c.conv.streams ++ ns.toList).map (streamRead rs env.u)
  let ts := (cutStats firstT c.conv.stats ++ nt.toList).map (statRead rs env.u)
  let ds := ss.map (streamDeliver keep common env.u)
  let dt := ts.map (statDeliver keep loadMode env.u)
  let strm := ds.foldl (fun acc d => feedCountAdd acc d.2.2) ({} : FeedCount)
  let stary := dt.foldl (fun acc d => feedCountAdd acc d.2.2) ({} : FeedCount)
  let bads := (ns.toList.filter (·.bad)).map (fun o => (env.b.fd.sdesc.toNat, o.pc)) ++
    (nt.toList.filter (·.bad)).map (fun t => (env.b.fd.ldesc.toNat, t.pc))
  { streams := (ds.map (·.1)).filter (fun o => decide (env.u < o.last)),
    stats := (dt.map (·.1)).filter (fun t => decide (env.u < t.last)),
    vec := (ds.zip ss).findSome? (fun d => d.1.2.1.map (fun i => (i, d.2.pc))),
    stat := (dt.zip ts).findSome? (fun d => d.1.2.1.map (fun i => (i, d.2.pc))),
    strm := strm, stary := stary,
    inherited := leNat (readOf rs .streamRec env.u) + leNat (readOf rs .statRec env.u),
    invalid := bads.length,
    evs := bads.map (fun b => { kind := .descInvalid, slot := 5, pc := b.2, detail := b.1 }) ++
      (if cutS || cutT then [{ kind := .feedCut, slot := 5, pc := env.pc, detail := 0 }] else []) ++
      ((ds.zip ss).filter (·.1.2.2.flushed)).map (fun d => { kind := .flushSticky, slot := 5, pc := d.2.pc, detail := 0 }) ++
      ((dt.zip ts).filter (·.1.2.2.flushed)).map (fun d => { kind := .flushSticky, slot := 5, pc := d.2.pc, detail := 0 }) ++
      (ss.map (streamAlignEvs env.u)).flatten ++
      (if env.b.fdOp = .reserved then [{ kind := .slotInvalid, slot := 5, pc := env.pc, detail := 0 }] else []) }

end Sys2Proof.Machine
end

