-- ==== Sys2Proof/Machine/ArrayPath.lean ====
section
/-! DEFINITION. The tile array and the accumulator store, one issue cycle at a time: entry, product, chain, loads, swaps,
gangs (04, R137 to R166; 06, R212, R676), tile combine, RETIRE and DRAIN (05, R176 to R196). -/

namespace Sys2Proof.Machine

/-- Gang shape in force: 0 none, 1 for 2 × 2, 2 for 4 × 4 (04, TA_GANG_CFG). -/
def gangShape (a : ArrayUnit) : Nat := let s := bits a.gangEff.toNat 0 2; if s = 3 then 0 else s

/-- Gang row in force. -/
def gangRow (a : ArrayUnit) : Nat := bits a.gangEff.toNat 2 2

/-- Gang column in force. -/
def gangCol (a : ArrayUnit) : Nat := bits a.gangEff.toNat 4 2

/-- Issue cycles by which a member enters later than the head of its row, or of its column when transposed (04, R163,
R164). -/
def entryDelay (env : Env) (transposed : Bool) : Nat := 2 * (if transposed then env.hopsN else env.hopsW)

/-- Gang members above this one in the chain (04, R161, R164). -/
def chainDepth (env : Env) (transposed : Bool) : Nat := if transposed then env.hopsW else env.hopsN

/-- Does this member combine into its own tile (04, R161, R162, R164). -/
def combinesHere (env : Env) (transposed : Bool) : Bool := if transposed then !env.east else !env.south

/-- Does this member read its streaming slice from its own feed path (04, R161, R164). -/
def ownSlice (a : ArrayUnit) (transposed : Bool) : Bool :=
  gangShape a = 0 || (if transposed then gangRow a = 0 else gangCol a = 0)

/-- The pass that a bundle issues, performed or suppressed (06, R212). -/
def newPass (env : Env) (c : ClusterCore) : Option PassOp :=
  match env.b.arrOp, semiOfCode env.b.arr.mode.toNat with
  | .pass, some m =>
    some { u := env.u, n := env.b.arr.len.toNat + 1, performed := predOn c env.b.arr.pred, mode := m, args := env.b.arr,
           limb := 0, ok := false, pc := env.pc }
  | _, _ => none

/-- The load that a bundle issues, performed or suppressed (04, R142, R143). -/
def newLoad (env : Env) (c : ClusterCore) : Option LoadOp :=
  match env.b.arrOp with
  | .load stall =>
    some { u := env.u, stall := stall, target := if stall then c.array.active else !c.array.active,
           performed := predOn c env.b.arr.pred, mode := env.b.arr.mode.toNat, exps := [], pc := env.pc }
  | _ => none

/-- Is a cycle within the entry span of a pass (06, R212). -/
def inSpan (p : PassOp) (u : Nat) : Bool := decide (p.u ≤ u) && decide (u < p.u + p.n)

/-- Passes after a PASS issued in cycle u ends the entry span that covers u (06, R676). -/
def cutPasses (u : Nat) (l : List PassOp) : List PassOp := l.map (fun p => if inSpan p u then { p with n := u - p.u } else p)

/-- The passes of a cycle, the one of this bundle included. -/
def passesNow (env : Env) (c : ClusterCore) : List PassOp :=
  match newPass env c with
  | none => c.array.passes
  | some p => cutPasses env.u c.array.passes ++ [p]

/-- The pass that enters a vector in this cycle, with the vector's number. -/
def enteringPass (env : Env) (c : ClusterCore) : Option (PassOp × Nat) :=
  ((passesNow env c).find? (fun p =>
    let e := p.u + entryDelay env p.args.transpose
    decide (e ≤ env.u) && decide (env.u < e + p.n))).map
      (fun p => (p, env.u - p.u - entryDelay env p.args.transpose))

/-- The load of a cycle: the one issued, or the one in progress. -/
def loadNow (env : Env) (c : ClusterCore) : Option LoadOp :=
  match newLoad env c with
  | some l => some l
  | none => c.array.load

/-- The set of a number: false set 0, true set 1. -/
def setOf (a : ArrayUnit) (i : Bool) : RegSet := if i then a.set1 else a.set0

/-- The set that is active for the first vector of a pass, after the pass's own swap, or for a later vector (04, R144). -/
def entrySet (a : ArrayUnit) (p : PassOp) (m : Nat) : RegSet := setOf a (if m = 0 && p.performed && p.args.swap then !a.active else a.active)

/-- The common exponent recorded in the set that this cycle's vector meets (06, R214). -/
def commonNow (env : Env) (c : ClusterCore) : Option Int :=
  let st := match enteringPass env c with
    | some (p, m) => entrySet c.array p m
    | none => setOf c.array c.array.active
  if st.cfg.limb = 0 && decide (1 ≤ st.cfg.mode) && decide (st.cfg.mode ≤ 4) then some (signExt 10 (memGet st.exps 0).toNat)
  else none

/-- The semiring code of the load that consumes a stationary row of this cycle (06, R214). -/
def loadModeNow (env : Env) (c : ClusterCore) : Option Nat := (loadNow env c).map (·.mode)

/-- Is a transposed pass over this configuration not performed (04, R153). Assumption 30 (DEDUCED). -/
def xposeBad (p : PassOp) (cfg : SetCfg) : Bool := p.args.transpose && (cfg.limb = 2 || (p.mode = .mac && !cfg.square))

/-- The semiring code of a mode (04, R132). -/
def semiCode : Semi → Nat
  | .mac => 0 | .minplus => 1 | .maxplus => 2 | .l1 => 3 | .sqdiff => 4 | .hamming => 5 | .matchCode => 6

/-- Compatible with the set (04, R148). Assumption 30 (DEDUCED). -/
def passCompatible (p : PassOp) (limb : Nat) (cfg : SetCfg) : Bool :=
  cfg.valid && semiCode p.mode = cfg.mode && limb = cfg.limb

/-- The vector that a member takes from its upstream neighbour: entered there two cycles ago (04, R161, R163). -/
def upstreamVec (env : Env) (transposed : Bool) : Option VecItem :=
  match (if transposed then env.north else env.west) with
  | none => none
  | some up => (up.fwd.find? (fun f => f.1 + 2 = env.u && f.2.1 = transposed)).map (·.2.2)

/-- What enters the array in a cycle: the pass as judged, the vector number, the vector, and what the cycle found. -/
structure EntryOut where
  /-- The vector that enters. -/
  entered : Option Entered
  /-- The item of the own feed path was consumed. -/
  used : Bool
  /-- The pass whose first vector this is, as judged. -/
  judged : Option PassOp
  /-- Events. -/
  evs : List Ev
deriving DecidableEq, Repr

/-- Entry of one vector (04, R137, R144, R148, R153, R157; 06, R212). -/
def entryCycle (env : Env) (c : ClusterCore) (vec : Option (VecItem × Nat)) : EntryOut :=
  match enteringPass env c with
  | none => { entered := none, used := false, judged := none, evs := [] }
  | some (p, m) =>
    let own := ownSlice c.array p.args.transpose
    if !p.performed then { entered := none, used := own && vec.isSome, judged := none, evs := [] }
    else
      let st := entrySet c.array p m
      let got : Option VecItem := if own then vec.map (·.1) else upstreamVec env p.args.transpose
      let p1 : PassOp :=
        if m = 0 then
          let limb := match got with | some i => i.limb | none => st.cfg.limb
          { p with limb := limb, ok := passCompatible p limb st.cfg && !xposeBad p st.cfg }
        else p
      { entered := some { e := env.u, m := m, pass := p1, item := got.getD (maskedVec p1.limb) },
        used := own && vec.isSome,
        judged := if m = 0 then some p1 else none,
        evs :=
          (if own && vec.isNone then [{ kind := .feedUnderrun, slot := 3, pc := p.pc, detail := 0 }] else []) ++
          (if m = 0 && !passCompatible p p1.limb st.cfg then
            [{ kind := .setMismatch, slot := 3, pc := p.pc, detail := 0 }] else []) ++
          (if m = 0 && xposeBad p st.cfg then [{ kind := .xposeInvalid, slot := 3, pc := p.pc, detail := 0 }] else []) }

/-- The product cycle of a vector that entered in the previous cycle (04, R137, R147). -/
def flightOf (env : Env) (a : ArrayUnit) (v : Entered) : Option Flight :=
  if !v.pass.ok then none
  else
    let t := v.pass.args.transpose
    some { e := v.e, m := v.m, mode := v.pass.mode, first := v.pass.args.first, acc := v.pass.args.acc.toNat,
           transpose := t, chainEnd := v.e + 10 + 10 * chainDepth env t,
           segs := product v.pass.mode (setOf a a.active) v.pass.limb v.pass.args.statHi t v.item, out := [],
           chained := false, pc := v.pass.pc }

/-- The chain value that a member receives for one output (04, R161; 05, R176). Assumption 30 (DEDUCED). -/
def receivedChain (env : Env) (f : Flight) (col : Nat) : Chain :=
  match (if f.transpose then env.west else env.north) with
  | none => {}
  | some up =>
    match up.flights.find? (fun g => g.chained && g.chainEnd + 10 = f.chainEnd && g.transpose = f.transpose) with
    | none => {}
    | some g => match g.out.find? (fun x => x.1 = col) with
      | some x => x.2
      | none => {}

/-- A flight at the end of a cycle: its chain is formed in the cycle of its last chain add (04, R137; 05, R174 to R176). -/
def flightStep (env : Env) (f : Flight) : Flight :=
  if f.chainEnd = env.u && !f.chained then
    { f with
      out := f.segs.map (fun s => (s.1, chainFold f.mode (receivedChain env f s.1) s.2)), segs := [], chained := true }
  else f

/-- The cells of a load's row under its extents (04, R140). -/
def loadRow (cfg : SetCfg) (r : Nat) (cells : List Nat) : Nat :=
  let keep : Nat :=
    if cfg.limb = 2 then (if 2 * r < cfg.kLen then 0xFF else 0) + (if 2 * r + 1 < cfg.kLen then 0xFF00 else 0)
    else if r < cfg.kLen then 0xFFFF else 0
  listRow 16 ((List.range 128).map (fun n => if n < cfg.nLen then nth cells n &&& keep else 0))

/-- A set after the row that a load writes in a cycle (04, R140). -/
def loadSet (l : LoadOp) (r : Nat) (item : Option StatItem) (exps : List Int) (s : RegSet) : RegSet :=
  let cfg : SetCfg :=
    if r = 0 then
      { (match item with | some i => i.cfg | none => setCfgReset) with
        mode := l.mode, valid := true, complete := false }
    else s.cfg
  let row := loadRow cfg r (match item with | some i => i.cells | none => [])
  let w := if cfg.square then 8 else 128
  let ex := if r % 16 = 15 then
      memWrite s.exps (w * (r / 16)) ((List.range w).map (fun h => BitVec.ofNat 10 (wrapU 10 (exps.getD h 0))))
    else s.exps
  { rows := memSet s.rows r (BitVec.ofNat 2048 row), exps := ex,
    cfg := if r = 127 then { cfg with complete := true } else cfg }

/-- The exponents of a load's group, from the latest item of the group. -/
def loadExps (l : LoadOp) (r : Nat) (item : Option StatItem) : List Int :=
  match item with
  | some i => i.exps
  | none => if r % 16 = 0 then [] else l.exps

/-- Both sets after the row that a load writes in a cycle. -/
def loadSets (env : Env) (a : ArrayUnit) (ld : Option LoadOp) (item : Option StatItem) : RegSet × RegSet :=
  match ld with
  | none => (a.set0, a.set1)
  | some l =>
    let r := env.u - l.u
    if !l.performed || r > 127 then (a.set0, a.set1)
    else if l.target then (a.set0, loadSet l r item (loadExps l r item) a.set1)
    else (loadSet l r item (loadExps l r item) a.set0, a.set1)

/-- The load that goes on into the next cycle. -/
def loadNext (env : Env) (ld : Option LoadOp) (item : Option StatItem) : Option LoadOp :=
  match ld with
  | none => none
  | some l => if env.u - l.u ≥ 127 then none else some { l with exps := loadExps l (env.u - l.u) item }

/-- Does a load end with all rows written in this cycle. -/
def loadDone (env : Env) (ld : Option LoadOp) : Bool :=
  match ld with
  | some l => l.performed && env.u - l.u = 127
  | none => false

/-- First and last write cycle of a pass that writes rows here (05, opening of "One index named by two operations"). -/
def passOccupies (env : Env) (p : PassOp) : Option (Nat × Nat) :=
  if p.ok && p.performed && combinesHere env p.args.transpose && p.n ≠ 0 then
    let b := p.u + entryDelay env p.args.transpose + 11 + 10 * chainDepth env p.args.transpose
    some (b, b + p.n - 1)
  else none

/-- Is a pass still of any account after a cycle. Assumption 30 (DEDUCED). -/
def passLives (env : Env) (p : PassOp) : Bool :=
  decide (env.u < p.u + entryDelay env p.args.transpose + p.n + 11 + 10 * chainDepth env p.args.transpose)

/-- Event lists of the array in a cycle. -/
def arrayEvs (env : Env) (c : ClusterCore) (en : EntryOut) (swapEarly : Bool) (statMissing orphanV orphanS : Bool)
    (feedPc : Nat) : List Ev :=
  let mk (k : EvKind) (pc : Nat) : Ev := { kind := k, slot := 3, pc := pc, detail := 0 }
  (match newPass env c with
   | some p => if c.array.passes.any (fun q => inSpan q env.u) then [mk .passCut p.pc] else []
   | none => []) ++
  (match newLoad env c, c.array.load with
   | some l, some _ => [mk .loadAbort l.pc]
   | _, _ => []) ++
  (match loadNow env c with
   | some l => if l.stall && l.performed && !c.array.entered.isEmpty then
       [mk .passInStall (match c.array.entered with | v :: _ => v.pass.pc | [] => 0)] else []
   | none => []) ++ en.evs ++
  (if swapEarly then [mk .earlySwap env.pc] else []) ++
  (if statMissing then [mk .feedUnderrun (match loadNow env c with | some l => l.pc | none => 0)] else []) ++
  (if orphanV || orphanS then [{ kind := .feedOrphan, slot := 5, pc := feedPc, detail := 0 }] else []) ++
  (if env.b.arrOp = .reserved || env.b.accOp = .reserved then [mk .slotInvalid env.pc] else [])

/-- An address generator after the cycle's control-register write (04, R154, R167). -/
def genCycle (w : Cwr) (g : Nat) (a : AddrGen) : AddrGen :=
  { base := rwReg w (0x110 + 8 * g) 0x007FFFFF007FFFFF a.base, loop := rwReg w (0x111 + 8 * g) (BitVec.allOnes 64) a.loop,
    pitch := rwReg w (0x112 + 8 * g) (BitVec.allOnes 64) a.pitch,
    coord := rwReg w (0x113 + 8 * g) (BitVec.allOnes 64) a.coord,
    stride := rwReg w (0x114 + 8 * g) 0x00FFFFFF00FFFFFF a.stride }

/-- The tile array in one issue cycle; events are listed apart. -/
def arrayCycle (env : Env) (c : ClusterCore) (fd : FeedOut) (w : Cwr) (crd : Option Nat) : ArrayUnit × List Ev :=
  let a := c.array
  let ld := loadNow env c
  let en := entryCycle env c fd.vec
  let item := fd.stat.map (·.1)
  let sets := loadSets env a ld item
  let swap := match en.judged with | some p => p.args.swap | none => false
  let inactive := if a.active then sets.1 else sets.2
  let early := swap && !inactive.cfg.complete
  let missing := match ld with
    | some l => l.performed && item.isNone
    | none => false
  let evs := arrayEvs env c en early missing (fd.vec.isSome && !en.used) (item.isSome && ld.isNone)
    (match fd.vec, fd.stat with
     | some v, _ => v.2
     | none, some t => t.2
     | none, none => env.pc)
  let passes := (passesNow env c).map (fun p => match en.judged with
    | some q => if q.u = p.u then q else p
    | none => p)
  let newF := a.entered.filterMap (flightOf env a)
  ({ set0 := sets.1, set1 := sets.2, active := if swap then !a.active else a.active,
     load := loadNext env ld item, passes := passes.filter (passLives env), entered := en.entered.toList,
     flights := ((a.flights.filter (fun f => decide (env.u ≤ f.chainEnd + 11))) ++ newF).map (flightStep env),
     fwd := a.fwd.filter (fun f => decide (env.u ≤ f.1 + 2)) ++
       (match en.entered with | some v => [(env.u, v.pass.args.transpose, v.item)] | none => []),
     status := w1cReg w 0x100 0x1FE a.status (bitsOf taBit evs), gangCfg := rwReg w 0x103 0x3FFFFFFFFC3F a.gangCfg,
     gangEff := a.gangEff, gangRoute := a.gangRoute, relayed := a.relayed,
     vecCnt := satInc a.vecCnt (b2n en.entered.isSome), loadCnt := satInc a.loadCnt (b2n (loadDone env ld)),
     gangPerr := if crd = some 0x107 then 0 else a.gangPerr, gens := a.gens.mapIdx (fun g x => genCycle w g x) }, evs)

/-- The physical tile of an index that is front, or back (05, R187). -/
def tileOf (sel : BitVec 8) (t : Nat) (front : Bool) : Nat := 2 * t + (if sel.getLsbD t = front then 1 else 0)

/-- The flights whose accumulator row is written in a cycle (04, R137, R163). -/
def rowsDue (env : Env) (a : ArrayUnit) : List Flight :=
  a.flights.filter (fun f => f.chained && f.chainEnd + 1 = env.u && combinesHere env f.transpose)

/-- What one tile row write does: the row and the counts (05, R177, R180). -/
structure CombineOut where
  /-- The new row. -/
  row : Nat
  /-- Infinities. -/
  inf : Nat
  /-- NaNs. -/
  nan : Nat
  /-- Inexact promotions. -/
  loss : Nat
deriving DecidableEq, Repr

/-- The tile combine of one row (05, R177, R178). -/
def combineRow (f : Flight) (old : Nat) : CombineOut :=
  f.out.foldl (fun acc o =>
    let r := tileCombine f.mode f.first (bits acc.row (32 * o.1) 32) (chainValue f.mode o.2)
    { row := setBits acc.row (32 * o.1) 32 r.1, inf := acc.inf + o.2.inf + r.2.1, nan := acc.nan + o.2.nan + r.2.2,
      loss := acc.loss + o.2.loss }) { row := old, inf := 0, nan := 0, loss := 0 }

/-- One due row joins the tiles. -/
def combineInto (sel : BitVec 8) (acc : Mem 4096 × CombineOut) (f : Flight) : Mem 4096 × CombineOut :=
  let k := 128 * tileOf sel f.acc true + f.m
  let r := combineRow f (memGet acc.1 k).toNat
  (memSet acc.1 k (BitVec.ofNat 4096 r.row),
   { row := 0, inf := acc.2.inf + r.inf, nan := acc.2.nan + r.nan, loss := acc.2.loss + r.loss })

/-- The drain of a cycle: the one issued, or the one in progress (05, R189, R191). -/
def drainNow (env : Env) (c : ClusterCore) : Option DrainOp :=
  if env.b.accOp = .drain then some { u := env.u, t := env.b.accIdx.toNat } else c.accum.drain

/-- Does RETIRE of an index in this cycle straddle a pass or a drain (05, R194). -/
def retireStraddles (env : Env) (c : ClusterCore) : Bool :=
  env.b.accOp = .retire &&
    (c.array.passes.any (fun p => p.args.acc = env.b.accIdx && (match passOccupies env p with
        | some (a, b) => decide (a ≤ env.u) && decide (env.u < b)
        | none => false)) ||
     (match c.accum.drain with
      | some d => d.t = env.b.accIdx.toNat && decide (env.u < d.u + 127)
      | none => false))

/-- The accumulator store in one issue cycle (05, R176 to R196). -/
def accumCycle (env : Env) (c : ClusterCore) (w : Cwr) : AccumUnit × List Ev :=
  let a := c.accum
  let due := rowsDue env c.array
  let comb := due.foldl (combineInto a.frontSel) (a.tiles, { row := 0, inf := 0, nan := 0, loss := 0 })
  let dr := drainNow env c
  let read : Option (BitVec 4096) := dr.map (fun d => memGet a.tiles (128 * tileOf a.frontSel d.t false + (env.u - d.u)))
  let evs : List Ev :=
    (if retireStraddles env c then
      [{ kind := .retireStraddle, slot := 3, pc := env.pc, detail := env.b.accIdx.toNat }] else []) ++
    (if env.b.accOp = .drain && a.drain.isSome then
      [{ kind := .drainAbort, slot := 3, pc := env.pc, detail := env.b.accIdx.toNat }] else [])
  let data : Word64 := (if comb.2.inf = 0 then 0 else 4) ||| (if comb.2.nan = 0 then 0 else 8)
  ({ tiles := comb.1,
     frontSel := if env.b.accOp = .retire then a.frontSel ^^^ (1 <<< env.b.accIdx.toNat) else a.frontSel,
     drain := (match dr with | some d => if env.u < d.u + 127 then some d else none | none => none),
     drainIndex := (match dr with | some d => BitVec.ofNat 3 d.t | none => a.drainIndex),
     deliver := read, port := (match a.deliver with | some r => r | none => a.port),
     status := w1cReg w 0x200 0xF a.status (bitsOf acBit evs ||| data), rowCnt := satInc a.rowCnt due.length,
     drainCnt := satInc a.drainCnt (b2n a.deliver.isSome), inf := satInc a.inf comb.2.inf, nan := satInc a.nan comb.2.nan,
     loss := satInc a.loss comb.2.loss, peekSel := a.peekSel }, evs)

end Sys2Proof.Machine
end

