-- ==== Sys2Proof/Machine/StorePath.lean ====
section
/-! DEFINITION. The store path: checks, scales, conversion, writes and the attribute record (03, R109 to R123; 06, R217,
R218), and the reservations of the Opal pipeline (09, R290, R298). -/

namespace Sys2Proof.Machine

/-- The STORE that a bundle issues, before its checks (06, R217). -/
def newStore (env : Env) (c : ClusterCore) : Option StoreOp :=
  if env.b.stOp = .store && predOn c env.b.st.pred then
    let num := env.b.st.desc.toNat
    let d := sdescOf (c.conv.sdesc.getD num 0)
    let go (r : BitVec 5) : Nat := (gReg c.scalar r.toNat).toNat
    let off (base add : Nat) : Nat :=
      if d.dest = 3 then base / 2 ^ 15 * 2 ^ 15 + (base + add) % 2 ^ 15 else (base + add) % 2 ^ 48
    some { s := env.u, num := num, desc := d, n := env.b.st.rows.toNat + 1, src := (d.src + go env.b.st.srcOff) % 2 ^ 23,
           dst := off d.dst (go env.b.st.dstOff), sdst := off d.sdst (go env.b.st.sdstOff),
           idx := (c.opal.srIdx.getD num 0).toNat, str := (c.opal.srStr.getD num 0).toNat, started := false,
           firstScale := false, block := false, xs := 0, amax := 0, curMax := 0, record := none, rows := [], out := [],
           pc := env.pc }
  else none

/-- The format of a store. -/
def storeFmt (o : StoreOp) : Fmt := fmtOf o.desc.fmt

/-- Block size of a store along lanes or down rows (03, R96; 06, R218). -/
def storeBlock (o : StoreOp) : Nat := blockSize o.desc.bsize (if o.desc.blkLanes then 128 else o.n)

/-- BLOCK scales are available only along lanes (03, R109). -/
def storeTakesBlock (o : StoreOp) : Bool := fmtScaled (storeFmt o) && !o.desc.running && o.desc.blkLanes

/-- A store that selects BLOCK for another block shape falls back to RUNNING (03, R109). -/
def storeFallback (o : StoreOp) : Bool := fmtScaled (storeFmt o) && !o.desc.running && !o.desc.blkLanes

/-- O of R217. -/
def storeO (o : StoreOp) : Nat := if o.firstScale then 2 * (o.n + 5) + 4 else o.n + 5

/-- Does a store occupy the path in a cycle (06, R217); before its record read it may yet be one pass. -/
def storeBusy (o : StoreOp) (u : Nat) : Bool := decide (u ≤ o.s + storeO o)

/-- The source row that a store converts in a cycle. -/
def storeConvRow (o : StoreOp) (u : Nat) : Option Nat :=
  let b := if o.firstScale then o.s + o.n + 10 else o.s + 1
  if b ≤ u && u < b + o.n then some (u - b) else none

/-- The source row that a store measures in a cycle (03, R119). -/
def storeMeasRow (o : StoreOp) (u : Nat) : Option Nat :=
  if o.firstScale && decide (o.s + 1 ≤ u) && decide (u < o.s + 1 + o.n) then some (u - o.s - 1) else none

/-- The write cycle of row i (06, R218). -/
def storeWriteCycle (o : StoreOp) (i : Nat) : Nat := if o.firstScale then o.s + o.n + 15 + i else o.s + 6 + i

/-- The reservation that a stochastic store needs (09, R298). -/
def storeResv (o : StoreOp) : OpalResv :=
  if o.firstScale then { lo := o.s + o.n + 10, hi := o.s + 2 * o.n + 9, vrand := false }
  else { lo := o.s + 1, hi := o.s + o.n, vrand := false }

/-- Does a reservation overlap one already made (09, R290). -/
def resvMeets (l : List OpalResv) (r : OpalResv) : Bool := l.any (fun x => decide (x.lo ≤ r.hi) && decide (r.lo ≤ x.hi))

/-- The record read of a store in cycle s + 1. Assumption 32 (DEDUCED). -/
def storeRecAcc (o : StoreOp) (u : Nat) : List Acc :=
  if u = o.s + 1 && o.desc.recEn then
    [{ rank := 2, iss := o.s, kind := .storeRec, scale := false, addr := o.desc.recAddr, len := 64, data := none, slot := 6,
       pc := o.pc }]
  else []

/-- A store after the decisions of cycle s + 1: record rolled, rule and scale chosen (03, R109, R117 to R121; 06, R217).
Assumption 32 (DEDUCED). -/
def storeDecide (step : Nat) (recBytes : List Byte) (o : StoreOp) : StoreOp :=
  let rec0 : Option AttrRec :=
    if o.desc.recEn then some (attrRoll (attrTaken (attrOfNat (leNat recBytes))) step) else none
  let block := storeTakesBlock o
  let running := fmtScaled (storeFmt o) && !block
  let first := running && (match rec0 with | some r => r.histCount = 0 | none => true)
  { o with
    started := true, record := rec0, block := block, firstScale := first,
    xs := if running && !first then (match rec0 with | some r => nextScale r (storeFmt o) | none => 0) else 0 }

/-- Stores of a cluster in a cycle, each with the decisions of its cycle s + 1 made, from what the feed path leaves of the
program port (06, R217, R230). -/
def storesDecided (env : Env) (c : ClusterCore) (sram : Mem 8) (held : List (Nat × Nat × Nat)) (feed : List Acc) :
    List StoreOp :=
  c.conv.stores.map (fun o =>
    if env.u = o.s + 1 then
      let served := serveAll (accSort (feed ++ storeRecAcc o env.u)) []
      storeDecide env.step (readOf (served.map (fun s => (s.acc, readBytes sram held s))) .storeRec o.s) o
    else o)

/-- Is a store refused in cycle s + 1 because its Opal reservation overlaps one already made (06, R217; 09, R290). -/
def storeRefused (env : Env) (c : ClusterCore) (o : StoreOp) : Bool :=
  env.u = o.s + 1 && o.desc.stochastic && resvMeets c.opal.resv (storeResv o)

/-- Stores that go on in this cycle. -/
def storesKept (env : Env) (c : ClusterCore) (l : List StoreOp) : List StoreOp := l.filter (fun o => !storeRefused env c o)

/-- Scale bytes of row i lie at this offset from sdst (06, R218). -/
def storeScaleOff (o : StoreOp) (i : Nat) : Nat :=
  if o.desc.blkLanes then i * ceilDiv 128 (storeBlock o) else i / storeBlock o * 128

/-- The record at the end of a store (03, R117, R119, R122). -/
def storeRecordEnd (c : ConvUnit) (o : StoreOp) (r : AttrRec) : AttrRec :=
  let fl := if o.firstScale && !r.flags.testBit 1 then r.flags + 2 else r.flags
  { r with
    vanish := satAdd 64 r.vanish (satAdd 64 c.vanishStat.toNat c.vanishStrm.toNat),
    nonfinite := satAdd 64 r.nonfinite c.nonfin.toNat, underflow := satAdd 64 r.underflow c.underflow.toNat,
    saturated := satAdd 64 r.saturated c.saturated.toNat, curMax := max r.curMax o.curMax,
    flags := if c.status.getLsbD 1 && !fl.testBit 0 then fl + 1 else fl }

/-- The accesses of a store in a cycle (06, R217, R218, R230). -/
def storeAccs (c : ConvUnit) (u : Nat) (o : StoreOp) : List Acc :=
  let mk (kind : AccKind) (scale : Bool) (addr len : Nat) (data : Option (List Byte)) : Acc :=
    { rank := 2, iss := o.s, kind := kind, scale := scale, addr := addr % sramBytes, len := len, data := data, slot := 6,
      pc := o.pc }
  storeRecAcc o u ++
    (match storeMeasRow o u, storeConvRow o u with
     | some i, _ => [mk .storeSrc false (o.src + 512 * i) 512 none]
     | none, some i => [mk .storeSrc false (o.src + 512 * i) 512 none]
     | none, none => []) ++
    (if o.desc.dest = 1 then
      ((o.rows.filter (fun r => r.1 = u)).map (fun r =>
        mk .storeElems false (o.dst + r.2.1 * o.desc.dstPitch) r.2.2.1.length (some r.2.2.1) ::
          (if r.2.2.2.isEmpty then [] else
            [mk .storeScales true (o.sdst + storeScaleOff o r.2.1) r.2.2.2.length (some r.2.2.2)]))).flatten
     else []) ++
    (match o.record with
     | some r => if u = o.s + storeO o then
         [mk .storeRecBack false o.desc.recAddr 64 (some (leBytes 64 (attrToNat (storeRecordEnd c o r))))] else []
     | none => [])

/-- The FP32 values of a source row. -/
def rowVals (bs : List Byte) : List Nat := (List.range 128).map (fun i => leNat ((bs.drop (4 * i)).take 4))

/-- One row converted: element bytes, scale bytes, counts, largest magnitude (03, R110 to R117; 06, R218; 09, R297). -/
def storeConvert (env : Env) (keep : Bool) (o : StoreOp) (i : Nat) (vals : List Nat) :
    List Byte × List Byte × StoreCount × Nat :=
  let f := storeFmt o
  let fl := vals.map (fun v => (flushIn keep v).1)
  let bsz := storeBlock o
  let xsOf : List Nat :=
    if !fmtScaled f then List.replicate 128 127
    else if o.block then
      ((chunksOf bsz (ceilDiv 128 bsz) fl).map (fun b => List.replicate b.length (blockScale f (amax32 b)))).flatten
    else List.replicate 128 o.xs
  let us : List Nat :=
    if o.desc.stochastic then srRow env.seed env.step o.desc.site o.idx o.str i else []
  let rs := (List.range 128).map (fun j =>
    storeElem f keep (nth vals j) (nth xsOf j) (if o.desc.stochastic then .sr (nth us j) else .rne))
  let scl : List Byte :=
    if !fmtScaled f then []
    else if o.desc.blkLanes then (List.range (ceilDiv 128 bsz)).map (fun b => BitVec.ofNat 8 (nth xsOf (b * bsz)))
    else xsOf.map (BitVec.ofNat 8)
  (leBytes (rowBytes f 128) (packElems f (rs.map (·.1))), scl,
    rs.foldl (fun acc r => storeCountAdd acc r.2) {}, amax32 fl)

/-- A run of bytes at an address of 48 bits; an empty run is none. -/
def runAt (addr : Nat) (d : List Byte) : List (Nat × List Byte) := if d.isEmpty then [] else [(addr % 2 ^ 48, d)]

/-- A store after a cycle: the row read measured or converted, due rows handed out (06, R217, R218).
Assumption 32 (DEDUCED). -/
def storeStep (env : Env) (keep : Bool) (rs : List (Acc × List Byte)) (o : StoreOp) : StoreOp × StoreCount :=
  let vals := rowVals (readOf rs .storeSrc o.s)
  let due := o.rows.filter (fun r => r.1 = env.u)
  let out2 := if o.desc.dest = 0 || o.desc.dest = 2 then
      o.out ++ (due.map (fun r => runAt (o.dst + r.2.1 * o.desc.dstPitch) r.2.2.1 ++
        runAt (o.sdst + storeScaleOff o r.2.1) r.2.2.2)).flatten
    else o.out
  let o1 := { o with rows := o.rows.filter (fun r => decide (env.u < r.1)), out := out2 }
  match storeMeasRow o env.u with
  | some i =>
    let am := max o.amax (amax32 (vals.map (fun v => (flushIn keep v).1)))
    ({ o1 with
       amax := am,
       xs := if i + 1 = o.n then firstScale (storeFmt o) am (match o.record with | some r => r.headroom | none => 1)
             else o.xs }, {})
  | none =>
    match storeConvRow o env.u with
    | some i =>
      let cv := storeConvert env keep o i vals
      ({ o1 with
         rows := o1.rows ++ [(storeWriteCycle o i, i, cv.1, cv.2.1)], curMax := max o.curMax cv.2.2.2 }, cv.2.2.1)
    | none => (o1, {})

/-- A message toward a buffer of a remote cluster: rank, cluster, buffer, offset, content, poison. -/
structure RemoteFill where
  rank : Nat
  lcl : Nat
  buf : Nat
  off : Nat
  data : List Byte
  poison : Bool
deriving DecidableEq, Repr

/-- What a store to a remote cluster sends in a cycle (06, R218). -/
def storeRemote (u : Nat) (o : StoreOp) : List RemoteFill :=
  if o.desc.dest != 3 then []
  else
    let mk (base off : Nat) (d : List Byte) : RemoteFill :=
      { rank := bits base 30 18, lcl := bits base 21 9, buf := bits base 15 6, off := (base + off) % 2 ^ 15, data := d,
        poison := false }
    ((o.rows.filter (fun r => r.1 = u)).map (fun r =>
      mk o.dst (r.2.1 * o.desc.dstPitch) r.2.2.1 ::
        (if r.2.2.2.isEmpty then [] else [mk o.sdst (storeScaleOff o r.2.1) r.2.2.2]))).flatten

/-- What the store path does in a cycle. -/
structure StoreOut where
  /-- Stores after the cycle. -/
  stores : List StoreOp
  /-- Counts. -/
  cnt : StoreCount
  /-- A record is committed: the accumulators clear (03, R122). -/
  committed : Bool
  /-- Rows rounded stochastically. -/
  srRows : Nat
  /-- A store toward HBM was issued. -/
  placed : Option Nat
  /-- Stores that ended or were refused, with their bytes toward HBM. -/
  ended : List (Nat × List (Nat × List Byte))
  /-- Bytes toward host output buffers: buffer, runs. -/
  host : List (Nat × List (Nat × List Byte))
  /-- Messages toward remote clusters. -/
  remote : List RemoteFill
  /-- Overruns. -/
  overrun : Nat
  /-- Invalid descriptors. -/
  invalid : Nat
  /-- Refused for want of Opal. -/
  refused : Nat
  /-- Events. -/
  evs : List Ev
deriving DecidableEq, Repr

/-- The store path in one issue cycle, from the decided stores and the reads of the cycle (06, R217). -/
def storeCycle (env : Env) (c : ClusterCore) (decided : List StoreOp) (rs : List (Acc × List Byte)) : StoreOut :=
  let keep := c.conv.ctrl.getLsbD 0
  let refused := decided.filter (storeRefused env c)
  let kept := storesKept env c decided
  let steps := kept.map (storeStep env keep rs)
  let cnt := steps.foldl (fun acc s => storeCountAdd acc s.2) ({} : StoreCount)
  let done := (steps.map (·.1)).filter (fun o => decide (o.s + storeO o ≤ env.u))
  let going := (steps.map (·.1)).filter (fun o => decide (env.u < o.s + storeO o))
  let ns := newStore env c
  let over_ := match ns with | some _ => kept.any (fun o => storeBusy o (env.u + 1)) | none => false
  let bad := match ns with | some o => !over_ && sdescInvalid o.desc | none => false
  let good := if over_ || bad then none else ns
  { stores := going ++ good.toList, cnt := cnt, committed := done.any (fun o => o.record.isSome),
    srRows := (kept.filter (fun o => o.desc.stochastic && (storeConvRow o env.u).isSome)).length,
    placed := (match good with | some o => if o.desc.dest = 0 then some o.s else none | none => none),
    ended := (done.filter (fun o => o.desc.dest = 0)).map (fun o => (o.s, o.out)) ++
      (refused.filter (fun o => o.desc.dest = 0)).map (fun o => (o.s, [])),
    host := (done.filter (fun o => o.desc.dest = 2)).map (fun o => (o.desc.outBuf, o.out)),
    remote := (kept.map (storeRemote env.u)).flatten, overrun := b2n over_, invalid := b2n bad, refused := refused.length,
    evs := (match ns with
        | some o => if over_ then [{ kind := .storeOverrun, slot := 6, pc := o.pc, detail := o.num }]
          else if bad then [{ kind := .descInvalid, slot := 6, pc := o.pc, detail := o.num }] else []
        | none => []) ++
      refused.map (fun o => { kind := .opalBusy, slot := 6, pc := o.pc, detail := o.num }) ++
      (kept.filter (fun o => env.u = o.s + 1 && storeFallback o)).map
        (fun o => { kind := .modeFallback, slot := 6, pc := o.pc, detail := 0 }) ++
      (steps.filter (·.2.flushed)).map (fun s => { kind := .flushSticky, slot := 6, pc := s.1.pc, detail := 0 }) ++
      (if env.b.stOp = .reserved then [{ kind := .slotInvalid, slot := 6, pc := env.pc, detail := 0 }] else []) }

/-- The mask of writable bits of a 64-bit quarter of a feed descriptor (06, CV_FDESCd). -/
def fdescMask : Word256 :=
  BitVec.ofNat 256 ((2 ^ 256 - 2 ^ 242) + (2 ^ 224 - 2 ^ 207) + (2 ^ 192 - 2 ^ 175) + (2 ^ 168 - 2 ^ 136)
    + (2 ^ 119 - 2 ^ 96) + (2 ^ 55 - 2 ^ 32) + (2 ^ 23 - 1))

/-- The mask of writable bits of a store descriptor (06, CV_SDESCd). -/
def sdescMask : Word256 := BitVec.ofNat 256 ((2 ^ 256 - 2 ^ 213) + (2 ^ 192 - 2 ^ 40) + (2 ^ 23 - 1))

/-- A wide descriptor after the cycle's control-register write; its quarter j stands at index base + j (06, R237). -/
def wideReg {w : Nat} (cw : Cwr) (base quarters : Nat) (mask old : BitVec w) : BitVec w :=
  match cw with
  | some (i, v) => if base ≤ i && i < base + quarters then widePart (i - base) v mask old else old
  | none => old

/-- The feed and store paths after a cycle; `arr` are the array's events, among them feed items that were missing or belonged to
no span (06, R212, R237; 03, R122, R123). Assumption 30 (DEDUCED). -/
def convCycle (w : Cwr) (c : ConvUnit) (fd : FeedOut) (st : StoreOut) (arr : List Ev) : ConvUnit :=
  let base (x : Word64) : Word64 := if st.committed then 0 else x
  { ctrl := rwReg w 0x300 1 c.ctrl, status := w1cReg w 0x301 0x3E c.status (bitsOf cvBit (fd.evs ++ arr ++ st.evs)),
    overrun := satInc c.overrun st.overrun, descInvalid := satInc c.descInvalid (fd.invalid + st.invalid),
    vanishStat := satInc (base c.vanishStat) fd.stary.vanish, vanishStrm := satInc (base c.vanishStrm) fd.strm.vanish,
    nonfin := satInc (base c.nonfin) (fd.strm.nonfin + fd.stary.nonfin + fd.inherited + st.cnt.nonfin),
    underflow := satInc (base c.underflow) st.cnt.under, saturated := satInc (base c.saturated) st.cnt.sat,
    fdesc := c.fdesc.mapIdx (fun d x => wideReg w (0x340 + 4 * d) 4 fdescMask x),
    sdesc := c.sdesc.mapIdx (fun d x => wideReg w (0x380 + 4 * d) 4 sdescMask x), streams := fd.streams,
    stats := fd.stats, stores := st.stores }

end Sys2Proof.Machine
end

