-- ==== Sys2Proof/Machine/VectorPath.lean ====
section
/-! DEFINITION. The vector unit, the Opal pipeline and the scalar slot, one issue cycle at a time, and the reads and
writes of control registers (06, R203 to R211, R219, R235 to R238; 07, R241 to R244, R259; 09, R287 to R292, R309). -/

namespace Sys2Proof.Machine

/-- A vector register as it stands. -/
def vReg (v : VecUnit) (n : Nat) : BitVec 4096 := v.v.getD n 0

/-- The lanes of a row. -/
def lanesOf (x : BitVec 4096) : List Nat := rowList 32 128 x.toNat

/-- A row of lanes. -/
def rowOf (l : List Nat) : BitVec 4096 := BitVec.ofNat 4096 (listRow 32 l)

/-- The SRAM operand address of a vector slot (06, R219). -/
def vecAddr (env : Env) (c : ClusterCore) : Nat :=
  wrapU 23 ((gReg c.scalar env.b.vec.vaddr.toNat).toNat + 64 * signExt 16 env.b.vec.vimm.toNat)

/-- Does the vector slot act. -/
def vecOn (env : Env) (c : ClusterCore) : Bool := predOn c env.b.vec.pred

/-- The accesses of the vector slot in a cycle: a VLD reads, due results toward SRAM write (06, R219). -/
def vecAccs (env : Env) (c : ClusterCore) : List Acc :=
  (if env.b.vOp = .vld && vecOn env c then
    [{ rank := 3, iss := env.u, kind := .vecRead, scale := false, addr := vecAddr env c, len := 512, data := none, slot := 4,
       pc := env.pc }] else []) ++
  (c.vec.flight.filter (fun p => p.due = env.u)).filterMap (fun p => match p.dst with
    | .sram a => some { rank := 3, iss := p.iss, kind := .vecWrite, scale := false, addr := a, len := 512,
                        data := some (leBytes 512 p.val.toNat), slot := 4, pc := p.pc }
    | .reg _ => none)

/-- The reservation of a VRAND (09, R290). -/
def vrandResv (u : Nat) : OpalResv := { lo := u, hi := u + 31, vrand := true }

/-- Reservations in force when a VRAND of this cycle asks: stores of cycle s + 1 come first (09, R290). -/
def resvNow (env : Env) (c : ClusterCore) (decided : List StoreOp) : List OpalResv :=
  c.opal.resv ++ ((storesKept env c decided).filter (fun o => env.u = o.s + 1 && o.desc.stochastic)).map storeResv

/-- Is a VRAND of this cycle performed, refused, or not there at all. -/
def vrandOutcome (env : Env) (c : ClusterCore) (decided : List StoreOp) : Option Bool :=
  if env.b.vOp = .vrand && vecOn env c then some (!resvMeets (resvNow env c decided) (vrandResv env.u)) else none

/-- Seed words of two 64-bit halves, the low half first (02, R49; 09, R285). -/
def seedWords (lo hi : Nat) : Words4 :=
  { w0 := lo % 2 ^ 32, w1 := lo / 2 ^ 32 % 2 ^ 32, w2 := hi % 2 ^ 32, w3 := hi / 2 ^ 32 % 2 ^ 32 }

/-- The lanes of a VRAND (09, R287 to R292). -/
def vrandValue (env : Env) (c : ClusterCore) : List Nat :=
  let x := env.b.vec.vext.toNat
  let seed := if x.testBit 36 then seedWords c.opal.altLo.toNat c.opal.altHi.toNat else env.seed
  vrandLanes seed env.step (bits x 0 32) (bits x 32 4) (gReg c.scalar env.b.vec.vaddr.toNat).toNat
    (lanesOf (vReg c.vec env.b.vec.vb.toNat))

/-- The result that a bundle's vector slot puts in flight (07, R241, R246; 06, R219). -/
def newVec (env : Env) (c : ClusterCore) (decided : List StoreOp) (rs : List (Acc × List Byte)) : Option VecPend :=
  let mk (l : Nat) (dst : VDst) (val : BitVec 4096) (cnt : VCount) : VecPend :=
    { due := env.u + l, iss := env.u, dst := dst, val := val, cnt := cnt, pc := env.pc }
  let a := env.b.vec
  let rd (n : BitVec 4) : BitVec 4096 := vReg c.vec n.toNat
  if !vecOn env c then none
  else match env.b.vOp with
    | .nop => none
    | .reserved => none
    | .vld => some (mk 2 (.reg a.vd.toNat) (BitVec.ofNat 4096 (leNat (readOf rs .vecRead env.u))) {})
    | .vst => some (mk 1 (.sram (vecAddr env c)) (rd a.va) {})
    | .vdrn => some (mk 1 (.reg a.vd.toNat) c.accum.port {})
    | .vdst => some (mk 2 (.sram (vecAddr env c)) c.accum.port {})
    | .vrand =>
      if vrandOutcome env c decided = some true then some (mk 12 (.reg a.vd.toNat) (rowOf (vrandValue env c)) {}) else none
    | .lane op =>
      let r := vLanes op a.vext.toNat (lanesOf (rd a.va)) (lanesOf (rd a.vb)) (lanesOf (rd a.vc))
      some (mk (vLaneLatency op) (.reg a.vd.toNat) (rowOf r.1) r.2)

/-- Due register results join the registers in issue order: the later issue wins (07, R242). -/
def vecWriteRegs (v : List (BitVec 4096)) (due : List VecPend) : List (BitVec 4096) :=
  due.foldl (fun acc p => match p.dst with
    | .reg n => acc.set n p.val
    | .sram _ => acc) v

/-- Registers that two due results name (07, R242). -/
def vecCollides (due : List VecPend) : Bool :=
  let ns := due.filterMap (fun p => match p.dst with | .reg n => some n | .sram _ => none)
  ns.any (fun n => decide (1 < (ns.filter (· = n)).length))

/-- The vector unit in one issue cycle (07, R241 to R244, R259). -/
def vecCycle (env : Env) (c : ClusterCore) (decided : List StoreOp) (rs : List (Acc × List Byte)) (w : Cwr) :
    VecUnit × List Ev :=
  let v := c.vec
  let due := v.flight.filter (fun p => p.due = env.u)
  let new := newVec env c decided rs
  let cnt := due.foldl (fun acc p => vCountAdd acc p.cnt) ({} : VCount)
  let evs : List Ev :=
    (if vecCollides due then [{ kind := .wbCollide, slot := 4, pc := (due.getLast?.map (·.pc)).getD env.pc, detail := 0 }]
     else []) ++
    (if env.b.vOp = .reserved then [{ kind := .slotInvalid, slot := 4, pc := env.pc, detail := 0 }] else []) ++
    (if vrandOutcome env c decided = some false then [{ kind := .opalBusy, slot := 4, pc := env.pc, detail := 0xFF }] else [])
  let data : Word64 := (if cnt.inf = 0 then 0 else 4) ||| (if cnt.nan = 0 then 0 else 8) ||| (if cnt.dom = 0 then 0 else 16)
  ({ v := vecWriteRegs v.v due, flight := v.flight.filter (fun p => decide (env.u < p.due)) ++ new.toList,
     status := w1cReg w 0x400 0x1F v.status (bitsOf vuBit evs ||| data), ops := satInc v.ops (b2n new.isSome),
     nan := satInc v.nan cnt.nan, inf := satInc v.inf cnt.inf, domain := satInc v.domain cnt.dom }, evs)

/-- The Opal pipeline in one issue cycle (09, R290, R309). -/
def opalCycle (env : Env) (c : ClusterCore) (decided : List StoreOp) (st : StoreOut) (seedSent : Bool) (w : Cwr) : OpalUnit :=
  let o := c.opal
  let vr := vrandOutcome env c decided
  let all := resvNow env c decided ++ (if vr = some true then [vrandResv env.u] else [])
  let refused := st.refused + b2n (vr = some false)
  { resv := all.filter (fun r => decide (env.u < r.hi)),
    status := w1cReg w 0x500 2 o.status (if refused = 0 then 0 else 2), vrandCnt := satInc o.vrandCnt (b2n (vr = some true)),
    srRows := satInc o.srRows st.srRows, seedCnt := satInc o.seedCnt (b2n seedSent),
    busyCnt := satInc o.busyCnt refused, altLo := rwReg w 0x508 (BitVec.allOnes 64) o.altLo,
    altHi := rwReg w 0x509 (BitVec.allOnes 64) o.altHi,
    srIdx := o.srIdx.mapIdx (fun d x => rwReg w (0x510 + 2 * d) (BitVec.ofNat 64 (2 ^ 64 - 128)) x),
    srStr := o.srStr.mapIdx (fun d x => rwReg w (0x511 + 2 * d) (BitVec.ofNat 64 (2 ^ 64 - 128)) x) }

/-- Buffers as a bit per index. -/
def bufBits (f : Buffer → Bool) (bufs : List Buffer) : Nat :=
  (bufs.zipIdx).foldl (fun n b => if f b.1 then n + 2 ^ b.2 else n) 0

/-- One 64-bit quarter of a wide register. -/
def quarter {w : Nat} (x : BitVec w) (j : Nat) : Nat := bits x.toNat (64 * j) 64

/-- TA_STATUS as it stands (04, R167). -/
def taStatus (a : ArrayUnit) : Nat :=
  let inactive := setOf a (!a.active)
  let toInactive := match a.load with | some l => l.target = !a.active | none => false
  a.status.toNat + b2n a.active * 2 ^ 15 + b2n a.load.isSome * 2 ^ 14
    + (match a.load with | some l => b2n l.target * 2 ^ 13 | none => 0)
    + b2n (inactive.cfg.complete && !toInactive) * 2 ^ 12

/-- AC_STATUS as it stands (05, R199). -/
def acStatus (a : AccumUnit) : Nat :=
  a.status.toNat + a.drainIndex.toNat * 2 ^ 16 + b2n a.drain.isSome * 2 ^ 19 + a.frontSel.toNat * 2 ^ 24

/-- The element that AC_PEEK_SEL selects (05, R198). -/
def acPeek (a : AccumUnit) : Nat :=
  let s := a.peekSel.toNat
  bits (memGet a.tiles (128 * bits s 16 4 + bits s 8 7)).toNat (32 * bits s 0 7) 32

/-- A control register by its index, as the debug window sees it; reserved indices read 0 (04, 05, 06, 07, 08, 09). -/
def ctlReg (q : SeqView) (key : Nat) (c : ClusterCore) (t : TrapUnit) (i : Nat) : Nat :=
  let b := i / 256
  let r := i % 256
  if b = 0 then
    match r with
    | 0 => c.scalar.status.toNat + q.loopBits * 2 ^ 13
    | 1 => q.pc | 2 => q.entry | 3 => q.step | 4 => q.bundles | 5 => q.id | 6 => c.scalar.p.toNat ||| 1
    | 0x10 => c.scalar.wdog.toNat
    | 0x11 => bufBits (fun x => x.kind != .free) c.dma.bufs
    | 0x12 => bufBits (fun x => x.kind != .free && x.present) c.dma.bufs
    | 0x13 => q.stall
    | _ => if 8 ≤ r && r < 12 then nth q.loops (r - 8) else 0
  else if b = 1 then
    match r with
    | 0 => taStatus c.array | 1 => setCfgWord c.array.set0.cfg | 2 => setCfgWord c.array.set1.cfg
    | 3 => c.array.gangCfg.toNat | 4 => c.array.gangRoute.toNat | 5 => c.array.vecCnt.toNat
    | 6 => c.array.loadCnt.toNat | 7 => c.array.gangPerr.toNat
    | _ =>
      if 0x10 ≤ r && r < 0x30 then
        let g := c.array.gens.getD ((r - 0x10) / 8) addrGenReset
        (match r % 8 with
         | 0 => g.base | 1 => g.loop | 2 => g.pitch | 3 => g.coord | 4 => g.stride | _ => 0).toNat
      else 0
  else if b = 2 then
    match r with
    | 0 => acStatus c.accum | 1 => c.accum.rowCnt.toNat | 2 => c.accum.drainCnt.toNat | 3 => c.accum.inf.toNat
    | 4 => c.accum.nan.toNat | 5 => c.accum.loss.toNat | 0x10 => c.accum.peekSel.toNat | 0x11 => acPeek c.accum | _ => 0
  else if b = 3 then
    match r with
    | 0 => c.conv.ctrl.toNat
    | 1 => c.conv.status.toNat + c.conv.descInvalid.toNat * 2 ^ 32 + c.conv.overrun.toNat * 2 ^ 48
    | 2 => c.conv.vanishStat.toNat | 3 => c.conv.vanishStrm.toNat | 4 => c.conv.nonfin.toNat
    | 5 => c.conv.underflow.toNat | 6 => c.conv.saturated.toNat
    | _ =>
      if 0x40 ≤ r && r < 0x80 then quarter (c.conv.fdesc.getD ((r - 0x40) / 4) 0) (r % 4)
      else if 0x80 ≤ r && r < 0xA0 then quarter (c.conv.sdesc.getD ((r - 0x80) / 4) 0) (r % 4) else 0
  else if b = 4 then
    match r with
    | 0 => c.vec.status.toNat | 1 => c.vec.ops.toNat | 2 => c.vec.nan.toNat | 3 => c.vec.inf.toNat
    | 4 => c.vec.domain.toNat | _ => 0
  else if b = 5 then
    match r with
    | 0 => c.opal.status.toNat + b2n (c.opal.resv.any (·.vrand)) + b2n (c.opal.resv.any (fun x => !x.vrand)) * 4
    | 1 => c.opal.vrandCnt.toNat | 2 => c.opal.srRows.toNat | 3 => c.opal.seedCnt.toNat | 4 => c.opal.busyCnt.toNat
    | 5 => key | 8 => c.opal.altLo.toNat | 9 => c.opal.altHi.toNat
    | _ =>
      if 0x10 ≤ r && r < 0x20 then
        (if r % 2 = 0 then c.opal.srIdx else c.opal.srStr).getD ((r - 0x10) / 2) 0 |>.toNat
      else 0
  else if b = 6 then
    match r with
    | 0 => c.dma.status.toNat | 1 => c.dma.issued.toNat | 2 => c.dma.atomicUsed.toNat | 3 => c.dma.drop.toNat
    | _ => if 0x10 ≤ r && r < 0x50 then quarter (c.dma.desc.getD ((r - 0x10) / 2) 0) (r % 2) else 0
  else if b = 7 then
    match r with
    | 0 => q.dbg + b2n t.valid * 2 | 1 => t.info.toNat | 2 => t.cycle.toNat | 3 => t.step.toNat | 4 => t.detail.toNat
    | 5 => t.count.toNat | _ => 0
  else 0

/-- Registers that a program's CRD reads as 0 (05, R197; 06, R211; 08, R279). -/
def ctlHidden (i : Nat) : Bool :=
  i = 0x12 || i = 0x13 || i = 0x210 || i = 0x211 || i = 0x603 || (decide (0x700 ≤ i) && decide (i < 0x800))

/-- OP_KEY (09, R285, R309). -/
def opKey (env : Env) : Nat :=
  (env.seed.w0 ^^^ env.step % 2 ^ 32) + (env.seed.w1 ^^^ env.step / 2 ^ 32 % 2 ^ 32) * 2 ^ 32

/-- What CRD reads (06, R211). Assumption 60 (DEDUCED). -/
def crdValue (env : Env) (c : ClusterCore) (i : Nat) : Word64 :=
  if ctlHidden i then 0 else BitVec.ofNat 64 (ctlReg env.seq (opKey env) c trapReset i)

/-- The sign-extended immediate of a scalar slot. -/
def immS (env : Env) : Int := signExt 40 env.b.sc.imm.toNat

/-- Does the scalar slot act. -/
def scOn (env : Env) (c : ClusterCore) : Bool := predOn c env.b.sc.pred

/-- Operand ga. -/
def scA (env : Env) (c : ClusterCore) : Word64 := gReg c.scalar env.b.sc.srcA.toNat

/-- Operand gb. -/
def scB (env : Env) (c : ClusterCore) : Word64 := gReg c.scalar env.b.sc.srcB.toNat

/-- The SRAM address of LD and ST (06). -/
def scAddr (env : Env) (c : ClusterCore) : Nat := wrapU 23 ((scA env c).toNat + immS env) / 8 * 8

/-- The control-register write of a cycle, if its scalar slot is a CWR that acts (06, R203). -/
def cwrNow (env : Env) (c : ClusterCore) : Cwr :=
  if env.b.scOp = .cwr && scOn env c then some (bits env.b.sc.imm.toNat 0 12, scA env c) else none

/-- The control register that a cycle's CRD reads. -/
def crdNow (env : Env) (c : ClusterCore) : Option Nat :=
  if env.b.scOp = .crd && scOn env c then some (bits env.b.sc.imm.toNat 0 12) else none

/-- The accesses of the scalar slot (06, LD and ST). -/
def scAccs (env : Env) (c : ClusterCore) : List Acc :=
  if !scOn env c then []
  else match env.b.scOp with
    | .ld => [{ rank := 4, iss := env.u, kind := .scRead, scale := false, addr := scAddr env c, len := 8, data := none,
                slot := 2, pc := env.pc }]
    | .st => [{ rank := 4, iss := env.u, kind := .scWrite, scale := false, addr := scAddr env c, len := 8,
                data := some (leBytes 8 (scB env c).toNat), slot := 2, pc := env.pc }]
    | _ => []

/-- The value that an operation writes to its g register at the end of its cycle (06, scalar operations). -/
def scResult (env : Env) (c : ClusterCore) : Option Word64 :=
  let a := scA env c
  let b := scB env c
  let imm := BitVec.ofInt 64 (immS env)
  match env.b.scOp with
  | .add => some (a + b) | .sub => some (a - b) | .and => some (a &&& b) | .or => some (a ||| b) | .xor => some (a ^^^ b)
  | .shl => some (a <<< (b.toNat % 64)) | .shr => some (a >>> (b.toNat % 64))
  | .sar => some (a.sshiftRight (b.toNat % 64)) | .mul => some (a * b) | .addi => some (a + imm) | .li => some imm
  | .lih => some ((a &&& 0xFFFFFFFFFF) ||| (BitVec.ofNat 64 (bits env.b.sc.imm.toNat 0 24) <<< 40))
  | .crd => some (crdValue env c (bits env.b.sc.imm.toNat 0 12))
  | _ => none

/-- The value that an operation writes to its predicate at the end of its cycle. -/
def scPredResult (env : Env) (c : ClusterCore) : Option Bool :=
  let a := scA env c
  let b := scB env c
  let imm := BitVec.ofInt 64 (immS env)
  let pa := pReg c.scalar (env.b.sc.srcA.toNat % 8)
  let pb := pReg c.scalar (env.b.sc.srcB.toNat % 8)
  match env.b.scOp with
  | .ceq => some (a == b) | .clt => some (a.slt b) | .cltu => some (a.ult b) | .ceqi => some (a == imm)
  | .clti => some (a.slt imm) | .pand => some (pa && pb) | .por => some (pa || pb) | .pnot => some (!pa)
  | _ => none

/-- Write a g register; a write of g0 is ignored (06, R204). -/
def gWrite (g : List Word64) (n : Nat) (v : Word64) : List Word64 := if n = 0 then g else g.set n v

/-- Write a predicate; a write of p0 is ignored (06, R204). -/
def pWrite (p : BitVec 8) (n : Nat) (v : Bool) : BitVec 8 :=
  if n = 0 then p else if v then p ||| (1 <<< n) else p &&& ~~~((1 : BitVec 8) <<< n)

/-- g registers at the end of a cycle: LD writes due, then the operation of this cycle, which is the later issue (06,
R203, R210). -/
def gNext (env : Env) (c : ClusterCore) : List Word64 :=
  let g1 := (c.scalar.ld.filter (fun l => l.due = env.u)).foldl (fun g l => gWrite g l.dst l.val) c.scalar.g
  if scOn env c then
    match scResult env c with
    | some v => gWrite g1 env.b.sc.dst.toNat v
    | none => g1
  else g1

/-- Predicates at the end of a cycle. -/
def pNext (env : Env) (c : ClusterCore) : BitVec 8 :=
  if scOn env c then
    match scPredResult env c with
    | some v => pWrite c.scalar.p (env.b.sc.dst.toNat % 8) v
    | none => c.scalar.p
  else c.scalar.p

/-- The scalar unit in one issue cycle; `evs` are all events of the cycle that set SQ_STATUS. -/
def scalarCycle (env : Env) (c : ClusterCore) (rs : List (Acc × List Byte)) (evs : List Ev) (w : Cwr) : ScalarUnit :=
  let s := c.scalar
  { g := gNext env c, p := pNext env c,
    ld := s.ld.filter (fun l => decide (env.u < l.due)) ++
      (if env.b.scOp = .ld && scOn env c then
        [{ due := env.u + 2, dst := env.b.sc.dst.toNat, val := BitVec.ofNat 64 (leNat (readOf rs .scRead env.u)) }] else []),
    status := w1cReg w 0x000 0x3FE s.status (bitsOf sqBit evs), wdog := rwReg w 0x010 (BitVec.allOnes 64) s.wdog }

/-- The event of a reserved scalar or control operation (06, R205). -/
def scEvs (env : Env) : List Ev :=
  (if env.b.scOp = .reserved then [{ kind := .slotInvalid, slot := 2, pc := env.pc, detail := 0 }] else []) ++
  (if env.b.dmOp = .reserved then [{ kind := .slotInvalid, slot := 7, pc := env.pc, detail := 0 }] else [])

end Sys2Proof.Machine
end

