-- ==== Sys2Proof/Machine/DmaPath.lean ====
section
/-! DEFINITION. The DMA engine: claims, held ranges, releases, armed buffers, arrivals and quota (06, R219 to R228, R238;
13, R424; 14, R471; 09, R304). -/

namespace Sys2Proof.Machine

/-- What a cluster hands to the rest of the module in a cycle. -/
inductive ClOut where
  /-- Committed write toward a host output buffer: buffer, runs (HOSTOUT, STORE). -/
  | host (buf : Nat) (runs : List (Nat × List Byte))
  /-- A message toward a buffer of a cluster, with the source buffer if there is one (SEND, STORE). -/
  | remote (f : RemoteFill) (src : Option Nat)
  /-- An ordered contribution: HBM offset, FP32 elements, source buffer (R227). -/
  | atomic (off : Nat) (vals : List Nat) (buf : Nat)
  /-- A REGREAD of an address (R220). -/
  | regread (buf addr : Nat)
  /-- A SOLVE: buffer, packet, `wall`, reserved slot bits, answer address and bytes (14, R471). -/
  | solve (buf : Nat) (packet : List Byte) (wall : Bool) (resv : Nat) (ansAddr ansLen : Nat)
  /-- A SEED request (09, R304). -/
  | seed (buf : Nat)
  /-- A COLL: buffer, descriptor offset, `relaxed`, reserved slot bits (13, R424). -/
  | coll (buf off : Nat) (relaxed : Bool) (resv : Nat)
deriving DecidableEq, Repr

/-- The DMA operation of a cycle with its operands taken (06, R219). -/
structure DmNow where
  op : DmOp
  buf : Nat
  desc : DDesc
  /-- HBM offset, register, remote byte offset, host address. -/
  addr : Nat
  /-- SRAM address of the range. -/
  sram : Nat
  /-- Byte count. -/
  n : Nat
  /-- The slot's `len`. -/
  len : Nat
deriving DecidableEq, Repr

/-- The byte count of a DMA operation (06, DMA slot; 13, R424; 14, R471). -/
def dmCount (op : DmOp) (len length : Nat) : Nat :=
  match op with
  | .regread => 8
  | .seed => 32
  | .coll => 8
  | .solve => if len = 0 then length / 64 * 64 else len / 2 * 2
  | _ => if len = 0 then length else len

/-- The DMA operation that a bundle performs or tries to perform. Assumption 35 (DEDUCED). -/
def dmNow (env : Env) (c : ClusterCore) : Option DmNow :=
  if !predOn c env.b.dm.pred || env.b.dmOp = .nop || env.b.dmOp = .reserved then none
  else
    let d := ddescOf (c.dma.desc.getD env.b.dm.desc.toNat 0)
    let g (r : BitVec 5) : Nat := (gReg c.scalar r.toNat).toNat
    some { op := env.b.dmOp, buf := env.b.dm.buf.toNat, desc := d, addr := (d.addr + g env.b.dm.aoff) % 2 ^ 48,
           sram := (d.sram + g env.b.dm.soff) % 2 ^ 23, n := dmCount env.b.dmOp env.b.dm.len.toNat d.length,
           len := env.b.dm.len.toNat }

/-- The answer range of a SOLVE; none for other operations (14, R471). -/
def dmAnswer (d : DmNow) : Option (Nat × Nat) :=
  if d.op = .solve && bits d.addr 24 24 != 0 then some (bits d.addr 0 23, bits d.addr 24 24) else none

/-- The held range of an operation; an empty range is none (06, R221). -/
def dmRange (d : DmNow) : Option (Nat × Nat) := if d.n = 0 then none else some (d.sram, d.n)

/-- Is the buffer held, or does a range of the operation overlap a held range (06, R224). -/
def dmBusy (bufs : List Buffer) (d : DmNow) : Bool :=
  let held := heldRanges bufs
  (bufs.getD d.buf bufferFree).kind != .free ||
    ((dmRange d).toList ++ (dmAnswer d).toList).any (fun r => held.any (fun h => rangesMeet r.1 r.2 h.2.1 h.2.2))

/-- What the buffer of an operation waits for. -/
def dmKind (op : DmOp) : BufKind :=
  match op with
  | .read => .read | .write => .write | .send => .send | .recv => .recv | .atomic _ => .atomic | .hostout => .hostout
  | .regread => .regread | .solve => .solve | .seed => .seed | .coll => .coll | .nop => .free | .reserved => .free

/-- Bytes of ordered atomic adds that a cluster may add per step (06, R227). -/
def atomicQuota : Nat := 65536

/-- Does an ordered atomic add exceed the quota of its step (06, R227). -/
def dmOverQuota (c : ClusterCore) (d : DmNow) : Bool :=
  d.op = .atomic false && decide (atomicQuota < c.dma.atomicUsed.toNat + d.n)

/-- Buffers that a bundle's wait fields name: those too early stay held and are listed first, those released second
(06, R221, R223). -/
def waitLists (env : Env) (bufs : List Buffer) : List Nat × List Nat :=
  let named := (env.b.waits.map BitVec.toNat).filter (fun i => (bufs.getD i bufferFree).kind != .free)
  (named.filter (fun i => decide (env.u < (bufs.getD i bufferFree).claim + 3)),
   named.filter (fun i => decide ((bufs.getD i bufferFree).claim + 3 ≤ env.u)))

/-- The SRAM side of a cluster as the DMA port sees it. -/
structure Port where
  /-- DMA engine. -/
  dma : DmaUnit
  /-- SRAM bytes. -/
  sram : Mem 8
  /-- SRAM journal. -/
  journal : SramJournal
  /-- Events. -/
  evs : List Ev
deriving DecidableEq, Repr

/-- Write bytes through the DMA port, lines noted in the journal (06, R231; 15, R491). -/
def portWrite (p : Port) (a : Nat) (d : List Byte) : Port :=
  { p with
    sram := sramWrite p.sram a d, journal := journalWrite p.sram p.journal (linesOf a d.length) }

/-- Change buffer i of a DMA engine. -/
def withBuf (m : DmaUnit) (i : Nat) (f : Buffer → Buffer) : DmaUnit := { m with bufs := updAt m.bufs i f }

/-- Note poison that landed in buffer i: `poison_in`, and `poison_buf` lowest (06, R228, R238). -/
def notePoison (m : DmaUnit) (i : Nat) : DmaUnit :=
  let s := m.status.toNat
  let low := if s.testBit 5 then min (bits s 8 6) i else i
  withBuf { m with status := BitVec.ofNat 64 (setBits (s ||| 0x20) 8 6 low) } i (fun b => { b with poisoned := true })

/-- The stronger of two marks: a lower cause number (12, R406). -/
def strongerMark (a b : Option Nat) : Option Nat :=
  match a, b with
  | none, x => x
  | x, none => x
  | some x, some y => some (min x y)

/-- Count one arrival that lost bytes (06, R225). Assumption 35 (DEDUCED). -/
def countDrop (m : DmaUnit) : DmaUnit := { m with drop := satInc m.drop 1 }

/-- An arrival for an armed buffer: bytes beyond the armed length are dropped (06, R225, R228). -/
def acceptArrival (cclk : Nat) (p : Port) (a : Arrival) : Port :=
  let b := p.dma.bufs.getD a.buf bufferFree
  let keep := min a.data.length (b.armed - a.off)
  let base := match b.range with | some r => r.1 | none => 0
  let p1 : Port :=
    if keep < a.data.length then
      { p with
        dma := { (countDrop p.dma) with status := p.dma.status ||| 8 },
        evs := p.evs ++ [{ kind := .recvOverflow, slot := 7, pc := b.pc, detail := a.buf }] }
    else p
  if keep = 0 then p1
  else
    let p2 := portWrite p1 (base + a.off) (a.data.take keep)
    let landed := b.landed + keep
    let d1 := withBuf p2.dma a.buf (fun x =>
      { x with
        landed := landed, mark := strongerMark x.mark a.mark,
        presentAt := if !x.present && decide (b.armed ≤ landed) then cclk else x.presentAt,
        present := x.present || decide (b.armed ≤ landed) })
    { p2 with dma := if a.poison then notePoison d1 a.buf else d1 }

/-- Deliver every arrival that waits at the port for a buffer armed by RECV, in order (06, R225). -/
def deliverPort (cclk : Nat) (p : Port) : Port :=
  let armed (a : Arrival) : Bool := (p.dma.bufs.getD a.buf bufferFree).kind = .recv
  (p.dma.port.filter armed).foldl (acceptArrival cclk)
    { p with dma := { p.dma with port := p.dma.port.filter (fun a => !armed a) } }

/-- The HBM operation that an operation queues (06, R219, R226). -/
def dmHbm (d : DmNow) (src : List Byte) : List HbmOp :=
  match d.op with
  | .read => [.read d.buf d.addr d.n d.sram]
  | .write => [.write [(d.addr, src)] (some d.buf)]
  | .atomic true => [.addNow d.addr ((chunksOf 4 src.length src).map leNat) d.buf]
  | _ => []

/-- What an operation hands to the rest of the module (06, DMA operations). -/
def dmOut (d : DmNow) (src : List Byte) : List ClOut :=
  match d.op with
  | .send => [.remote { rank := d.desc.rank, lcl := d.desc.lcl, buf := d.desc.rbuf, off := d.addr, data := src, poison := false }
      (some d.buf)]
  | .atomic false => [.atomic d.addr ((chunksOf 4 src.length src).map leNat) d.buf]
  | .hostout => [.host (bits d.addr 36 12) [(bits d.addr 0 36, src)]]
  | .regread => [.regread d.buf d.addr]
  | .solve => [.solve d.buf src (d.len % 2 = 1) (bits d.len 1 5) (bits d.addr 0 23) (bits d.addr 24 24)]
  | .seed => [.seed d.buf]
  | .coll => [.coll d.buf d.addr (d.len % 2 = 1) (d.len / 2)]
  | _ => []

/-- Does an operation take its bytes from SRAM. -/
def dmReadsSram (op : DmOp) : Bool :=
  match op with
  | .write => true | .send => true | .atomic _ => true | .hostout => true | .solve => true | _ => false

/-- Does a byte count of zero end the operation at once (06, R221). -/
def dmZeroEnds (op : DmOp) : Bool :=
  match op with
  | .read => true | .write => true | .send => true | .recv => true | .atomic _ => true | .hostout => true | _ => false

/-- Is a REGREAD address in the map (06, R220). -/
def regreadMapped (addr : Nat) : Bool :=
  decide (addr ≤ 0xA) || addr = 0x10 || addr = 0x11 || addr = 0x12 || (decide (0x10000 ≤ addr) && decide (addr ≤ 0x101FF))

/-- What the DMA slot does in a cycle. -/
structure DmaOut where
  /-- DMA engine, SRAM, journal and events after the cycle. -/
  port : Port
  /-- What goes out. -/
  outs : List ClOut
  /-- A SEED request was sent. -/
  seed : Bool
deriving DecidableEq, Repr

/-- The claim of a performed operation (06, R221). Assumption 27 (DEDUCED). -/
def dmClaim (env : Env) (d : DmNow) (present : Bool) (armed : Nat) (b : Buffer) : Buffer :=
  { b with
    kind := dmKind d.op, claim := env.u, range := dmRange d, answer := dmAnswer d, present := present,
    presentAt := env.cclk, poisoned := false, mark := none, armed := armed, landed := 0, fetched := none, tag := 0,
    pc := env.pc }

/-- Registers of the DMA engine after the cycle's control-register write, its flags set last (06, R238; 00, R9). -/
def dmaRegs (w : Cwr) (set : Word64) (m : DmaUnit) : DmaUnit :=
  let s := w1cReg w 0x600 0x7E m.status set
  { m with
    status := if s.getLsbD 5 then s else s &&& 0x7F,
    desc := m.desc.mapIdx (fun d x => wideReg w (0x610 + 2 * d) 2 (BitVec.allOnes 128) x) }

/-- The DMA slot in one issue cycle, from the SRAM after the cycle's writes (06, R219 to R228). -/
def dmaCycle (env : Env) (c : ClusterCore) (sram : Mem 8) (j : SramJournal) (w : Cwr) : DmaOut :=
  let bufs := c.dma.bufs
  let waits := waitLists env bufs
  let dn := dmNow env c
  let busy : Bool := match dn with | some d => dmBusy bufs d | none => false
  let over_ : Bool := match dn with | some d => !busy && dmOverQuota c d | none => false
  let claimed := match dn with | some d => if busy then none else some d | none => none
  let early : List Nat := waits.1 ++
    (match claimed with | some d => if (env.b.waits.map BitVec.toNat).contains d.buf then [d.buf] else [] | none => [])
  let unmapped : Bool := match claimed with | some d => d.op = .regread && !regreadMapped d.addr | none => false
  let evs : List Ev :=
    early.map (fun b => { kind := .waitEarly, slot := 0, pc := env.pc, detail := b }) ++
    (match dn with
     | some d => (if busy then [{ kind := .bufBusy, slot := 7, pc := env.pc, detail := d.buf }] else []) ++
        (if over_ then [{ kind := .atomicQuota, slot := 7, pc := env.pc, detail := 0 }] else []) ++
        (if unmapped then [{ kind := .regreadUnmapped, slot := 7, pc := env.pc, detail := d.addr }] else [])
     | none => [])
  let m0 := dmaRegs w (bitsOf dmBit evs) c.dma
  let freed := m0.bufs.mapIdx (fun i b => if waits.2.contains i then bufferFree else b)
  match claimed with
  | none => { port := { dma := { m0 with bufs := freed }, sram := sram, journal := j, evs := evs }, outs := [], seed := false }
  | some d =>
    let still := over_ || (dmZeroEnds d.op && d.n = 0)
    let reads := dmReadsSram d.op && !still
    let src : List Byte := if reads then sramRead sram d.sram d.n else []
    let m1 : DmaUnit :=
      { m0 with
        bufs := updAt freed d.buf (dmClaim env d still (if d.op = .recv then d.n else 0)),
        issued := if over_ then m0.issued else satInc m0.issued 1,
        atomicUsed := if d.op = .atomic false && !still then m0.atomicUsed + BitVec.ofNat 64 d.n else m0.atomicUsed,
        hbmq := if still then m0.hbmq else m0.hbmq ++ dmHbm d src }
    let p : Port := { dma := m1, sram := sram, journal := if reads then journalRead j (linesOf d.sram d.n) else j, evs := evs }
    { port := if d.op = .recv then deliverPort env.cclk p else p, outs := if still then [] else dmOut d src,
      seed := d.op = .seed }

/-- End a queued store of a cluster: its placeholder becomes the write of its runs (06, R218). -/
def hbmqEnd (ended : List (Nat × List (Nat × List Byte))) (q : List HbmOp) : List HbmOp :=
  q.map (fun o => match o with
    | .store s => (match ended.find? (fun e => e.1 = s) with
        | some e => .write e.2 none
        | none => o)
    | x => x)

end Sys2Proof.Machine
end

