-- ==== Sys2Proof/Machine/StateHost.lean ====
section
/-! DEFINITION. The state of the host interface: event records, functions, queue contexts, firmware banks and what the
endpoint holds for the host (15, R523 to R525; 17). -/

namespace Sys2Proof.Machine

/-- An event record of 32 bytes (15, R523). -/
structure EvRec where
  /-- TIME64. -/
  time : Word64
  /-- Step counter, zero for a module-wide event. -/
  step : Word64
  /-- Die. -/
  die : Byte
  /-- Unit. -/
  unit : Byte
  /-- Unit number. -/
  index : Word16
  /-- Severity and partition. -/
  cls : Word16
  /-- Code. -/
  code : Word16
  /-- Detail. -/
  detail : Word64
deriving DecidableEq, Repr

/-- A command that a function performs and that has not completed (17, R566, R570; 14, R479). -/
structure CmdWait where
  /-- Opcode. -/
  op : Nat
  /-- Tag. -/
  tag : Nat
  /-- It came through the mailbox. -/
  mbox : Bool
  /-- Ring index of the entry. -/
  idx : Nat
  /-- Partition that a JOB_START starts, or Beryl context of an SV_ command. -/
  arg : Nat
  /-- Completion value once it completes. -/
  val : Nat
deriving DecidableEq, Repr

/-- The per-function registers, offsets 0x00C0 to 0x01D0, and the function's copies of selectors (17). -/
structure Fn where
  /-- MSI-X table of three entries. -/
  msix : BitVec 384
  /-- Pending bits of vectors 0 to 2. -/
  pba : BitVec 3
  /-- CMD_BASE as written. -/
  cmdBase : Word64
  /-- CMD_BASE in force. -/
  cmdBaseEff : Word64
  /-- CMD_SIZE. -/
  cmdSize : Word32
  /-- CMD_TAIL. -/
  cmdTail : Word32
  /-- CMD_HEAD. -/
  cmdHead : Word32
  /-- CPL_BASE as written. -/
  cplBase : Word64
  /-- CPL_BASE in force. -/
  cplBaseEff : Word64
  /-- Phase of the next completion. -/
  cplPhase : Bool
  /-- EVT_BASE as written. -/
  evtBase : Word64
  /-- EVT_BASE in force. -/
  evtBaseEff : Word64
  /-- EVT_SIZE. -/
  evtSize : Word32
  /-- EVT_HEAD. -/
  evtHead : Word32
  /-- EVT_TAIL. -/
  evtTail : Word32
  /-- EVT_FILTER. -/
  evtFilter : Word32
  /-- AP_CTRL. -/
  apCtrl : Word64
  /-- FN_STATUS. -/
  status : BitVec 3
  /-- FN_CONFLICT. -/
  conflict : Word32
  /-- FN_DB_DROP. -/
  dbDrop : Word64
  /-- MBOX_CMD. -/
  mboxCmd : Word512
  /-- MBOX_CPL. -/
  mboxCpl : Word128
  /-- MBOX_GO reads 1. -/
  mboxGo : Bool
  /-- Commands that wait: one of the ring, one of the mailbox. -/
  waits : List CmdWait
  /-- Latched high half of a 64-bit register: its offset and value (02, R87). -/
  latch : Option (Nat × Word32)
  /-- REP_, SE_, MT_, LK_, CL_, CK_ and DBG_ partition selectors, in that order. -/
  sel : List (BitVec 4)
  /-- LK_PORT_SEL. -/
  portSel : BitVec 5
  /-- SE_UNIT_SEL. -/
  unitSel : Word32
  /-- DBG_CL_SEL. -/
  dbgClSel : Word32
  /-- DBG_SRAM_ADDR. -/
  dbgSram : Word32
deriving DecidableEq, Repr

/-- A function after reset. Assumption 70 (DESIGN CHOICE). -/
def fnReset : Fn :=
  { msix := 0, pba := 0, cmdBase := 0, cmdBaseEff := 0, cmdSize := 0, cmdTail := 0, cmdHead := 0, cplBase := 0,
    cplBaseEff := 0, cplPhase := true, evtBase := 0, evtBaseEff := 0, evtSize := 0, evtHead := 0, evtTail := 0, evtFilter := 0,
    apCtrl := 0, status := 0, conflict := 0, dbDrop := 0, mboxCmd := 0, mboxCpl := 0, mboxGo := false, waits := [],
    latch := none, sel := List.replicate 7 0, portSel := 0, unitSel := 0, dbgClSel := 0, dbgSram := 0 }

/-- A step entry that firmware has fetched (17, R572 to R576). -/
structure StepEntry where
  /-- `step`. -/
  step : Nat
  /-- `entry`. -/
  entry : Nat
  /-- `image`. -/
  image : Nat
  /-- Raise vector 2 at completion. -/
  raise : Bool
  /-- `user`. -/
  user : Word64
deriving DecidableEq, Repr

/-- A configured queue context (17, R572 to R577). -/
structure QCtx where
  /-- Module-wide context number. -/
  k : Nat
  /-- Ring entries. -/
  size : Nat
  /-- Step ring address. -/
  ring : Nat
  /-- Completion ring address. -/
  cpl : Nat
  /-- Output table address. -/
  table : Nat
  /-- Output table entries. -/
  tableN : Nat
  /-- Producer index last accepted. -/
  tail : Nat
  /-- Index of the next entry to fetch. -/
  head : Nat
  /-- Index of the next completion. -/
  cplIdx : Nat
  /-- Phase of the next completion. -/
  phase : Bool
  /-- `step` of the previous entry. -/
  prev : Option Nat
  /-- Fetched entries, oldest first. -/
  fetched : List StepEntry
deriving DecidableEq, Repr

/-- A write toward the host that the endpoint holds: bytes at an address, an event record of a function, and bytes at an
address with the function and vector that are raised after them. -/
inductive HostWrite where
  | data (addr : Nat) (bytes : List Byte)
  | event (fn : Nat) (rec : EvRec)
  | step (addr : Nat) (bytes : List Byte) (raise : Option (Nat × Nat))
deriving DecidableEq, Repr

/-- A firmware bank: its image bytes by address (17). -/
structure FwBank where
  /-- Content. -/
  bytes : Mem 8
  /-- Result of the last check: 0 not checked, 1 passed, 2 failed. -/
  result : BitVec 2
deriving DecidableEq, Repr

/-- An empty bank. Assumption 7 (DESIGN CHOICE). -/
def fwBankReset : FwBank := { bytes := [], result := 0 }

end Sys2Proof.Machine
end

