-- ==== Sys2Proof/Machine/StateModule.lean ====
section
/-! DEFINITION. The state of the module outside its partitions: noise source, Quartz, coherent directory, dies and clusters,
faults and test windows, host side, management, power, life record, fuses and start-up (01, 09, 10, 13, 15, 17 to 21). -/

namespace Sys2Proof.Machine

/-- A waiting seed request (09, R304, R305): participant 0 to 11 for a partition, 12 for the host. -/
structure SeedReq where
  /-- Participant. -/
  who : Nat
  /-- Logical cluster. -/
  lcl : Nat
  /-- Buffer. -/
  buf : Nat
  /-- Function of a host request. -/
  fn : Nat
  /-- Host address of a host request. -/
  addr : Nat
deriving DecidableEq, Repr

/-- State of the noise source (09, R303). -/
inductive NoiseSt where
  | startup | ok | failed
deriving DecidableEq, Repr

/-- The true noise source (09, R301 to R308). -/
structure Noise where
  /-- State. -/
  st : NoiseSt
  /-- The start-up test runs. -/
  testing : Bool
  /-- Repetition count failures. -/
  rct : Word32
  /-- Adaptive proportion failures. -/
  apt : Word32
  /-- Seeds delivered. -/
  delivered : Word64
  /-- The pool, oldest first. -/
  pool : List (List Byte)
  /-- Time of the most recent failure since module reset, ns. -/
  lastFail : Option Nat
  /-- Participant served last; 12 is the host. -/
  served : Nat
  /-- Waiting requests in order of arrival. -/
  waits : List SeedReq
deriving DecidableEq, Repr

/-- The noise source after module reset (09, R303, R305). -/
def noiseReset : Noise :=
  { st := .startup, testing := true, rct := 0, apt := 0, delivered := 0, pool := [], lastFail := none, served := 12, waits := [] }

/-- Quartz and the QZ_ registers (13, R440 to R443, R448). -/
structure Quartz where
  /-- TIME64, ns. -/
  ns : Nat
  /-- Fraction, 2^-16 ns. -/
  frac : Nat
  /-- QZ_CTRL. -/
  ctrl : Word32
  /-- `state`: 0 FREE, 1 MASTER, 2 ACQUIRING, 3 LOCKED, 4 HOLDOVER. -/
  st : Nat
  /-- `depth`. -/
  depth : Nat
  /-- QZ_OFFSET, s32 in 2^-4 ns. -/
  offset : Word32
  /-- QZ_DELAY, u32 in 2^-4 ns. -/
  delay : Word32
  /-- QZ_ASYM. -/
  asym : Word32
  /-- Rate correction, parts per 10^9. -/
  rate : Int
  /-- `holdover_seen`. -/
  holdSeen : Bool
  /-- HOLDOVER was entered since it was LOCKED last. -/
  lost : Bool
  /-- t1 of the exchange that awaits its response, 2^-16 ns. -/
  sent : Option Nat
  /-- Periods since the last valid exchange. -/
  missed : Nat
deriving DecidableEq, Repr

/-- Quartz after module reset. -/
def quartzReset : Quartz :=
  { ns := 0, frac := 0, ctrl := 0, st := 0, depth := 0, offset := 0, delay := 0, asym := 0, rate := 0, holdSeen := false, lost := false,
    sent := none, missed := 0 }

/-- Directory state of a line (10, R344). -/
inductive LineSt where
  | inv | shared | excl | modif
deriving DecidableEq, Repr

/-- A line of the coherent control space that is not invalid and zero (10, R344, R345). -/
structure DirLine where
  /-- Line 0 to 32,767. -/
  num : Nat
  /-- State. -/
  st : LineSt
  /-- Owner, in states E and M. -/
  owner : Nat
  /-- Sharers, ascending. -/
  sharers : List Nat
  /-- Data of the last completed write. -/
  data : Word512
  /-- Favoured requester. -/
  favoured : Option Nat
  /-- FCLK in which the owner took the line. -/
  since : Nat
  /-- A recall was sent to the owner. -/
  recalled : Bool
deriving DecidableEq, Repr

/-- One bridge group (01, R19, R20). -/
structure BridgeGroup where
  /-- Lanes lost. -/
  lost : Nat
  /-- In use. -/
  used : Bool
deriving DecidableEq, Repr

/-- One bridge (01, R18 to R21). -/
structure Bridge where
  /-- Its groups. -/
  groups : List BridgeGroup
  /-- The NoC uses the alternate routes that avoid it. -/
  avoided : Bool
deriving DecidableEq, Repr

/-- A bridge with g groups in use. Assumption 5 (DESIGN CHOICE). -/
def bridgeOf (g : Nat) : Bridge := { groups := List.replicate g { lost := 0, used := true }, avoided := false }

/-- The 60 bridges of R18: 24 of the grid, 16 of the T-dies (24 + 4k + row), 12 of the L-dies, 4 of the H-die, 4 of the ring.
Assumption 5 (DESIGN CHOICE). -/
def bridgesReset : List Bridge :=
  List.replicate 40 (bridgeOf 4) ++ List.replicate 12 (bridgeOf 2) ++ List.replicate 8 (bridgeOf 1)

/-- Dies, physical clusters, spares and hub cores (01, R17 to R33). -/
structure Grid where
  /-- Bridges. -/
  bridges : List Bridge
  /-- Bridges to be avoided from the next step boundary on (R21). -/
  reroute : List Nat
  /-- Disabled set. -/
  disabled : BitVec 512
  /-- Clusters that the start-up test packs failed. -/
  testFailed : BitVec 512
  /-- Logical table. -/
  table : List Nat
  /-- Clusters declared failed since module reset. -/
  failed : Nat
  /-- The free spares stood at 2 or fewer (R30). -/
  spareLow : Bool
  /-- Hub cores at work. -/
  cores : BitVec 4
deriving DecidableEq, Repr

/-- The grid before START (log entry 5). Assumption 5 (DESIGN CHOICE). -/
def gridReset : Grid :=
  { bridges := bridgesReset, reroute := [], disabled := 0, testFailed := 0,
    table := (List.range 16).flatMap (fun d => (List.range 30).map (fun k => 32 * d + k)), failed := 0, spareLow := false,
    cores := 15 }

/-- Health score of a unit (15, R502, R503). -/
structure Health where
  /-- Die. -/
  die : Nat
  /-- Unit code. -/
  unit : Nat
  /-- Unit number. -/
  index : Nat
  /-- Score. -/
  score : Word32
  /-- The warning was sent and is not armed again. -/
  warned : Bool
  /-- The failure was declared. -/
  down : Bool
deriving DecidableEq, Repr

/-- Where a test window stands (15, R521). -/
inductive TwPhase where
  | waitOpen | testing | waitClose
deriving DecidableEq, Repr

/-- A test window (15, R521, R522). -/
structure TestWindow where
  /-- Logical cluster under test. -/
  lcl : Nat
  /-- Its physical cluster. -/
  phys : Nat
  /-- The spare that stands in. -/
  stand : Nat
  /-- Where the window stands. -/
  phase : TwPhase
deriving DecidableEq, Repr

/-- Module-wide SE_ registers, health scores and test windows (15, R502, R519 to R526). -/
structure Faults where
  /-- Scores that are not zero, and units with a warning sent. -/
  health : List Health
  /-- Failed update engines, one bit for each T-die. -/
  engines : BitVec 4
  /-- SE_TW_CTRL. -/
  twCtrl : Word32
  /-- Open window. -/
  tw : Option TestWindow
  /-- Logical cluster tested last, if any. -/
  twLast : Option Nat
  /-- `tw_failed` and `tw_aborted` in bits 2 and 1. -/
  twState : Word32
  /-- SE_EVT_LOST_HOST. -/
  lostHost : Word64
  /-- SE_EVT_LOST_MGMT. -/
  lostMgmt : Word64
  /-- SE_TW_DONE. -/
  twDone : Word64
  /-- SE_TW_POSTPONED. -/
  twPostponed : Word64
  /-- The installed pack is in use: it verified at the last start. -/
  packUsed : Bool
deriving DecidableEq, Repr

/-- Module-wide SE_ registers after module reset. -/
def faultsReset : Faults :=
  { health := [], engines := 0, twCtrl := 0x80000258, tw := none, twLast := none, twState := 0, lostHost := 0, lostMgmt := 0,
    twDone := 0, twPostponed := 0, packUsed := false }

/-- The directory's response to the last request (10, R344): line, requester, RETRY or granted, data.
Assumption 72 (DESIGN CHOICE). -/
structure DirAns where
  /-- Line. -/
  line : Nat
  /-- Requester. -/
  req : Nat
  /-- RETRY. -/
  retry : Bool
  /-- Data of a grant. -/
  data : Word512
deriving DecidableEq, Repr

/-- M-stacks and module-wide MT_ registers (10, R330, R331, R347). -/
structure Tiers where
  /-- State of stacks 0 to 7: 0 in service, 1 failed, 2 withdrawn. -/
  hbmStacks : List Nat
  /-- Poisoned lines: 1 at stack · 2^30 + stack address / 64. -/
  poison : Mem 1
  /-- Stacks for which event 0x0461 was sent. -/
  sentDir : BitVec 8
  /-- MT_CD_RETRY. -/
  cdRetry : Word64
  /-- MT_SCRUB_PASS. -/
  scrubPass : Word32
  /-- Scrub position: line number over all stacks. -/
  scrubAt : Nat
  /-- Coherent lines that are not at their reset value, by ascending number. -/
  lines : List DirLine
  /-- Last response. -/
  answer : Option DirAns
deriving DecidableEq, Repr

/-- Memory tiers after module reset. Assumption 9 (DESIGN CHOICE). -/
def tiersReset : Tiers :=
  { hbmStacks := List.replicate 8 0, poison := [], sentDir := 0, cdRetry := 0, scrubPass := 0, scrubAt := 0, lines := [], answer := none }

/-- What the endpoint answered to the last read (17, R556, R562; 10, R329). -/
inductive ReadAns where
  | data (bytes : List Byte)
  | abort
  | poisoned (n : Nat)
deriving DecidableEq, Repr

/-- The endpoint and what it holds for the host (17, R553 to R579). -/
structure HostSide where
  /-- Functions: 0 the PF, p + 1 VF p. -/
  fns : List Fn
  /-- Configured queue contexts, ascending. -/
  ctxs : List QCtx
  /-- The PCIe link is up. -/
  up : Bool
  /-- Writes, completions and records that the endpoint holds while the link is down, oldest first. -/
  held : List HostWrite
  /-- BAR4 aperture size of each function, log 2. -/
  bar4 : Nat
  /-- Host memory. -/
  mem : Mem 8
  /-- Interrupts raised: function and vector, oldest first. -/
  irqs : List (Nat × Nat)
  /-- Answer to the last read through BAR0 or BAR4. -/
  lastRead : Option ReadAns
  /-- A firmware staging is in progress (R560). -/
  staging : Bool
  /-- Host writes to configuration objects since the last application tick: function, object, value before (18, R598). -/
  ordered : List (Nat × Nat × Nat)
deriving DecidableEq, Repr

/-- The host side after module reset (log entries 10 and 11). Assumption 10 (DESIGN CHOICE). -/
def hostReset : HostSide :=
  { fns := List.replicate 13 fnReset, ctxs := [], up := false, held := [], bar4 := 30, mem := [], irqs := [], lastRead := none, staging := false, ordered := [] }

/-- A collector (18, R600 to R602). -/
structure Collector where
  /-- Address, 16 bytes or empty. -/
  addr : List Byte
  /-- Port. -/
  port : Nat
  /-- Key slot. -/
  slot : Nat
  /-- Lowest severity. -/
  sev : Nat
  /-- Enable. -/
  enable : Bool
  /-- State: 0 disabled, 1 ACTIVE, 2 STALE. -/
  st : Nat
  /-- Last acknowledged. -/
  acked : Word64
  /-- Records missed. -/
  missed : Word64
  /-- EVENT messages received since module start. -/
  n : Nat
  /-- Messages not acknowledged, oldest first: number n and record identities. -/
  open_ : List (Nat × List Nat)
  /-- Identity of the last record put into a message. -/
  sentTo : Nat
deriving DecidableEq, Repr

/-- A collector as always-on reset leaves it. -/
def collectorReset : Collector :=
  { addr := [], port := 47710, slot := 1, sev := 1, enable := false, st := 0, acked := 0, missed := 0, n := 0, open_ := [],
    sentTo := 0 }

/-- A record of the management queue: identity, record, collectors that owe an acknowledgement. -/
structure MgRec where
  /-- Identity, ascending from 1. -/
  id : Nat
  /-- Record. -/
  ev : EvRec
  /-- Collectors that have not acknowledged it. -/
  owed : BitVec 4
deriving DecidableEq, Repr

/-- An item of a WRITE_REQ (18, R586, R594). -/
structure WrItem where
  /-- Index. -/
  index : Nat
  /-- Subindex. -/
  sub : Nat
  /-- Type code. -/
  typ : Nat
  /-- Value bytes as encoded. -/
  val : List Byte
deriving DecidableEq, Repr

/-- A datagram that leaves the management port. -/
structure Datagram where
  /-- Destination address, 16 bytes. -/
  dst : List Byte
  /-- Destination port. -/
  port : Nat
  /-- UDP payload. -/
  bytes : List Byte
deriving DecidableEq, Repr

/-- A request that waits in the controller (18, R595): from where, with its header. -/
structure MgReq where
  /-- A READ_REQ; else a WRITE_REQ. -/
  read : Bool
  /-- Source address. -/
  src : List Byte
  /-- Source port. -/
  port : Nat
  /-- Key slot. -/
  slot : Nat
  /-- `flags`. -/
  flags : Nat
  /-- `seq`. -/
  seq : Nat
  /-- `req_id`. -/
  reqId : Nat
  /-- Items. -/
  items : List WrItem
deriving DecidableEq, Repr

/-- The management controller (18). -/
structure Mgmt where
  /-- Keys of slots 0 to 3. -/
  keys : List (Option (List Byte))
  /-- h of slots 0 to 3. -/
  h : List Nat
  /-- 0x1030.05 to .07. -/
  dropped : Word64
  malformed : Word64
  qDrops : Word64
  /-- Times of the authentication failures of the last second, ns. -/
  authFails : List Nat
  /-- Time of the last event 0x04D1. -/
  authEvent : Option Nat
  /-- Time of the module start, ns. -/
  startAt : Nat
  /-- Duplicate address: the port is silent. -/
  dup : Bool
  /-- PLCA node ID and UDP port in use since module start. -/
  nodeNow : Nat
  portNow : Nat
  /-- PLCA node ID by strap. -/
  strap : BitVec 3
  /-- 0x1010.02 as written, if it was. -/
  nodeId : Option Nat
  /-- 0x1010.03 to .06. -/
  nodeCount : Nat
  toTimer : Nat
  maxBurst : Nat
  udpPort : Nat
  /-- Collectors 0 to 3. -/
  coll : List Collector
  /-- Management queue. -/
  queue : List MgRec
  /-- Identity of the last record queued. -/
  lastId : Nat
  /-- Requests that wait for the application tick, oldest first. -/
  reqs : List MgReq
  /-- The oldest one waits for what a permit sample says to its fault clear (19, R624). -/
  clearWait : Bool
  /-- 0x3020.03, 0x6030.04. -/
  twHeld : Bool
  qzHeld : Bool
  /-- 0x3022.p. -/
  seHeld : BitVec 12
  /-- 0x5011.01. -/
  planLock : Bool
  /-- 0x5010.01. -/
  bootPlan : Nat
  /-- 0x3050.02 and the staging buffer. -/
  packOff : Nat
  packBuf : Mem 8
  /-- 0x3060.01. -/
  unitSel : Word32
  /-- 0x4030.01. -/
  logIdx : Nat
  /-- Datagrams sent, oldest first. -/
  sent : List Datagram
deriving DecidableEq, Repr

/-- Management after the reset of the always-on domain. Assumption 45 (DEDUCED). -/
def mgmtReset : Mgmt :=
  { keys := [none, none, none, none], h := List.replicate 4 65536, dropped := 0, malformed := 0, qDrops := 0, authFails := [],
    authEvent := none, startAt := 0, dup := false, nodeNow := 0, portNow := 47710, strap := 0, nodeId := none, nodeCount := 8,
    toTimer := 32, maxBurst := 0, udpPort := 47710, coll := List.replicate 4 collectorReset, queue := [], lastId := 0,
    reqs := [], clearWait := false, twHeld := false, qzHeld := false, seHeld := 0, planLock := false, bootPlan := 0, packOff := 0, packBuf := [],
    unitSel := 0, logIdx := 0, sent := [] }

/-- A margin plan (19, R638, R646). -/
structure PlanRec where
  /-- TIME64. -/
  time : Word64
  /-- W. -/
  w : Nat
  /-- w_last. -/
  wLast : Nat
  /-- g, MHz. -/
  g : Nat
  /-- Reason: 0 start, 1 canary. -/
  reason : Nat
  /-- fmax of points 0 to 8 in steps of 12.5 MHz; 0 unusable. -/
  steps : List Nat
deriving DecidableEq, Repr

/-- Contents of the life record (19, R642). -/
structure Life where
  /-- Operating seconds with the main domain on. -/
  seconds : Nat
  /-- Energy from the main input, Wh. -/
  energy : Nat
  /-- Thermal cycles. -/
  cycles : Nat
  /-- Boot count. -/
  boots : Nat
  /-- First start, if there was one. -/
  first : Option Nat
  /-- Life clock, ns. -/
  clock : Nat
  /-- Gaps of the life clock. -/
  gaps : Nat
  /-- Supply holds, orderly halts, resets below the reset level, over-voltages, surprise removals. -/
  holds : Nat
  halts : Nat
  resets : Nat
  overs : Nat
  removals : Nat
  /-- Permit disagreements, permit faults, thermal trips, canary trips. -/
  disagree : Nat
  permitFaults : Nat
  trips : Nat
  canary : Nat
  /-- The last 16 plans, newest first. -/
  plans : List PlanRec
  /-- Failed clusters. -/
  clusters : BitVec 512
  /-- Failed stacks. -/
  hbmStacks : BitVec 8
  /-- Health warnings and failures: die, unit, index, failure. -/
  health : List (Nat × Nat × Nat × Bool)
  /-- Event log: the last 4,096 records, oldest first. -/
  log : List EvRec
  /-- Records overwritten. -/
  over_ : Nat
  /-- Stored h of slots 0 to 3. -/
  floors : List Nat
  /-- Bank B is preferred. -/
  bankB : Bool
  /-- Installed test pack, if there is one. -/
  pack : Option (List Byte)
  /-- Written PLCA node ID (21, R668). -/
  nodeId : Option Nat
  /-- `history_lost`. -/
  lost : Bool
  /-- Events to send at the next start, oldest first (19, R620; 20, R650). -/
  owed : List EvRec
deriving DecidableEq, Repr

/-- An empty life record. -/
def lifeEmpty : Life :=
  { seconds := 0, energy := 0, cycles := 0, boots := 0, first := none, clock := 0, gaps := 0, holds := 0, halts := 0,
    resets := 0, overs := 0, removals := 0, disagree := 0, permitFaults := 0, trips := 0, canary := 0, plans := [],
    clusters := 0, hbmStacks := 0, health := [], log := [], over_ := 0, floors := [0, 0, 0, 0], bankB := false, pack := none,
    nodeId := none, lost := false, owed := [] }

/-- One flash copy of the life record: sequence number, content, its CRC is right (19, R642). -/
structure LifeCopy where
  /-- Sequence number. -/
  seq : Nat
  /-- Content. -/
  life : Life
  /-- The CRC is right. -/
  valid : Bool
deriving DecidableEq, Repr

/-- Supply state (19, R615). -/
inductive Supply where
  | normal | hold | halted
deriving DecidableEq, Repr

/-- Permit state (19, R623). -/
inductive Permit where
  | run | disagree | stop | fault
deriving DecidableEq, Repr

/-- Inputs, domains, supply, presence and permits (19, R608 to R627). -/
structure Supplies where
  /-- The auxiliary input is present. -/
  aux : Bool
  /-- It lies above 13.2 V (21, R671). -/
  auxOver : Bool
  /-- The main input lies above its start level. -/
  started : Bool
  /-- It lies above its reset level. -/
  main : Bool
  /-- It has risen above the over-voltage level and not fallen below 60.5 V. -/
  over_ : Bool
  /-- Last readings, mV. -/
  mainMv : Nat
  auxMv : Nat
  /-- Main-input power over 1 ms, W. -/
  watts : Nat
  /-- The always-on domain runs. -/
  aon : Bool
  /-- It is fed from the main input. -/
  fromMain : Bool
  /-- The main domain is on. -/
  mainOn : Bool
  /-- The short presence contact has been mated for 10 ms. -/
  mated : Bool
  /-- 0x2070.01. -/
  enable : Bool
  /-- 0x2070.02. -/
  safe : Bool
  /-- Supply state. -/
  supply : Supply
  /-- Time of the confirmed crossing below W, ns. -/
  holdAt : Nat
  /-- Lowest voltage of the hold, mV. -/
  holdMv : Nat
  /-- Permit readings A and B: energised. -/
  permA : Bool
  permB : Bool
  /-- Permit state. -/
  permit : Permit
  /-- Counter t. -/
  t : Nat
  /-- Permit halt. -/
  permHalt : Bool
  /-- A fault clear awaits the next sample. -/
  clearAsked : Bool
  /-- What the sample said to the clear of a management write that waits for it (19, R624). -/
  clearDone : Option Bool
  /-- 0x2060.02, .03. -/
  disagree : Word64
  faults : Word64
  /-- 0x2030.01 to .03, .05. -/
  warnMv : Nat
  holdMs : Nat
  discMs : Nat
  haltMs : Nat
  /-- Start-up phase 2 overran: the domain stays off until 0x2070.01 is cycled (20, R650). -/
  overrun : Bool
  /-- Fraction of the life clock, 2^-16 ns. -/
  clockFrac : Nat
deriving DecidableEq, Repr

/-- Supplies just after a module reset (log entry 4; 19, R625). Assumption 4 (DESIGN CHOICE). -/
def suppliesReset : Supplies :=
  { aux := true, auxOver := false, started := true, main := true, over_ := false, mainMv := 48000, auxMv := 12000, watts := 0,
    aon := true, fromMain := false, mainOn := true, mated := true, enable := true, safe := false, supply := .normal,
    holdAt := 0, holdMv := 0, permA := false, permB := false, permit := .stop, t := 0, permHalt := true, clearAsked := false, clearDone := none,
    disagree := 0, faults := 0, warnMv := 44000, holdMs := 20, discMs := 15, haltMs := 100, overrun := false,
    clockFrac := 0 }

/-- Where an in-service re-plan stands (19, R641). -/
inductive Replan where
  | none | scheduled | holding | paused
deriving DecidableEq, Repr

/-- Governors, thermal control, margin plan and the PW_ and AG_ registers (19, R628 to R645). -/
structure Governor where
  /-- PW_CAP. -/
  cap : Nat
  /-- PW_CCLK_LIMIT. -/
  limit : Nat
  /-- 0x2010.01. -/
  capMg : Nat
  /-- 0x2011.01. -/
  limitMg : Nat
  /-- PW_HALT. -/
  halt : Word32
  /-- 0x2020.p in bits 11:0 and 0x2020.0D in bit 12. -/
  haltMg : BitVec 13
  /-- W1C bits 19:16 of PW_STATUS in their places. -/
  status : Word32
  /-- CCLK target, steps of 12.5 MHz. -/
  target : Nat
  /-- Operating point. -/
  point : Nat
  /-- Thermal limit, steps of 12.5 MHz. -/
  thermal : Nat
  /-- T_thr, °C. -/
  tthr : Nat
  /-- Consecutive ms below every release value. -/
  cool : Nat
  /-- The coolant inlet limit of 1,000 MHz stands. -/
  inletCap : Bool
  /-- The inlet excursion above 40 °C was reported. -/
  inletSeen : Bool
  /-- A junction has been below 45 °C since the last thermal cycle (R643). -/
  cold : Bool
  /-- Consecutive trip samples. -/
  tripN : Nat
  /-- Trip latched. -/
  trip : Bool
  /-- Duty level of the fast path, 0 to 3. -/
  duty : Nat
  /-- The fast path suppressed since the last action of the slow path. -/
  suppressed : Bool
  /-- Slow-path intervals since the fast path suppressed. -/
  quiet : Nat
  /-- CCLK that a frequency step still holds issue for (R631). -/
  settle : Nat
  /-- PW_SUPPRESS. -/
  suppress : Word64
  /-- PW_TEMP. -/
  temp : Word32
  /-- PW_HOLDS. -/
  holds : Word64
  /-- PW_SUPPLY_HALTS. -/
  halts : Word32
  /-- Margin plan in force. -/
  plan : Option PlanRec
  /-- AG_CANARY_TRIPS. -/
  canary : Word64
  /-- Re-plan. -/
  replan : Replan
  /-- Time at which the re-plan began to hold, or CCLK paused, ns. -/
  replanAt : Nat
deriving DecidableEq, Repr

/-- Governors after module reset (19, R634, R645). Assumption 4 (DESIGN CHOICE). -/
def governorReset : Governor :=
  { cap := 3000, limit := 1400, capMg := 3000, limitMg := 1400, halt := 0, haltMg := 0, status := 0, target := 0, point := 0,
    thermal := 112, tthr := 85, cool := 0, inletCap := false, inletSeen := false, cold := false, tripN := 0, trip := false,
    duty := 0, suppressed := false, quiet := 0, settle := 0, suppress := 0, temp := 0, holds := 0, halts := 0,
    plan := none, canary := 0, replan := .none, replanAt := 0 }

/-- BOOT_STATE (20, R650). -/
inductive BootSt where
  | bootRom | fwVerify | start | ready | failed | halted
deriving DecidableEq, Repr

/-- Start-up, fuses and firmware banks (17, R559, R560; 20). -/
structure Boot where
  /-- State. -/
  st : BootSt
  /-- `fail_status`. -/
  fail : Word16
  /-- Firmware answers BAR0, not the boot ROM (20, R654). -/
  byFw : Bool
  /-- Time of power-good, ns. -/
  goodAt : Nat
  /-- Onyx. -/
  fuse : Mem 8
  /-- The copy of the main domain. -/
  copy : Mem 8
  /-- Bank A. -/
  bankA : FwBank
  /-- Bank B. -/
  bankB : FwBank
  /-- Bank B is the running bank. -/
  runB : Bool
  /-- Running FW_VERSION. -/
  fw : Word32
  /-- `sec_version` of the running image. -/
  sec : Nat
  /-- Latency models that the running firmware carries (08, R263; 17, section type 4). -/
  models : List Nat
  /-- Plan in force. -/
  plan : Nat
  /-- A plan is in force: partitions exist. -/
  planOn : Bool
  /-- The life clock took Quartz time since the start (19, R644). -/
  clockSet : Bool
deriving DecidableEq, Repr

/-- Factory values of Onyx that the spec states (20, R657, R658; log entry 6). Assumption 6 (DESIGN CHOICE). -/
def fuseReset : Mem 8 :=
  memWrite (memWrite (memWrite [] 0x8 [0x42]) 0x9 [1]) 0x7B0
    ([0x0003, 0x0005, 0x0007, 0x0009, 0x000D, 0x0019].flatMap (leBytes 2))

/-- Start-up just after a module reset. Assumption 6 (DESIGN CHOICE); 7 (DESIGN CHOICE). -/
def bootReset : Boot :=
  { st := .bootRom, fail := 0, byFw := false, goodAt := 0, fuse := fuseReset, copy := [], bankA := fwBankReset,
    bankB := fwBankReset, runB := false, fw := 0, sec := 0, models := [], plan := 0, planOn := false, clockSet := false }

end Sys2Proof.Machine
end

