-- ==== Sys2Proof/Machine/StateAgate.lean ====
section
/-! DEFINITION. The state of a partition's update engines and of Agate (11; 16). -/

namespace Sys2Proof.Machine

/-- A phase queued at the update engines (11, R355): issue cycle, group, and 0 MEASURE, 1 APPLY, 2 digest, 3 verdict. -/
structure UpdPhase where
  /-- Issue cycle of its first request. -/
  u : Nat
  /-- Group. -/
  group : Nat
  /-- Phase. -/
  phase : Nat
  /-- Lane of a digest request, otherwise 0. -/
  waiters : List (Nat × Nat × Nat)
deriving DecidableEq, Repr

/-- An answer of a phase in the attempt (11, R354): phase, group, answers by lane, poison. -/
structure UpdAnswer where
  /-- Phase. -/
  phase : Nat
  /-- Group. -/
  group : Nat
  /-- The answer, or the four lanes of a digest. -/
  words : List Nat
  /-- Poisoned. -/
  poison : Bool
deriving DecidableEq, Repr

/-- An undo record: line offset and old content (11, R375). -/
structure UndoRec where
  /-- HBM-space offset of the line. -/
  off : Nat
  /-- Old content. -/
  old : Word512
deriving DecidableEq, Repr

/-- The update engines of a partition (11). -/
structure UpdState where
  /-- Phases queued. -/
  queue : List UpdPhase
  /-- Answers of the attempt. -/
  answers : List UpdAnswer
  /-- Groups measured in the attempt. -/
  measured : List Nat
  /-- Groups whose APPLY applied or skipped in the step before a digest (15, R513). -/
  applied : List Nat
  /-- Groups whose APPLY was absurd in the step, with the attempt (R365). -/
  absurd : List (Nat × Nat)
  /-- Undo records of the step, oldest first. -/
  undo : List UndoRec
  /-- Norm-triggered replays of the job (R366). -/
  normReplays : Nat
deriving DecidableEq, Repr

/-- Engines with nothing to do. -/
def updReset : UpdState :=
  { queue := [], answers := [], measured := [], applied := [], absurd := [], undo := [], normReplays := 0 }

/-- A section of an image (16, R528, R533). -/
structure CkSection where
  /-- `kind`. -/
  kind : Nat
  /-- `flags`. -/
  flags : Nat
  /-- `unit`. -/
  cell : Nat
  /-- `offset`. -/
  off : Nat
  /-- `length`. -/
  len : Nat
  /-- `img_off`. -/
  img : Nat
deriving DecidableEq, Repr

/-- A cut in the stream (16, R538 to R540). -/
structure CutStream where
  /-- Cut step. -/
  cut : Nat
  /-- Image header and section table. -/
  head : List Byte
  /-- Sections. -/
  sections : List CkSection
  /-- Lines of kind 1 sections as they stood at the cut, copied before a later write (R540). -/
  kept : List (Nat × Word512)
deriving DecidableEq, Repr

/-- The CK_ registers of a partition and its open cut (16, R551). -/
structure CkRegs where
  /-- `period`. -/
  period : Word16
  /-- W1C bits 11 to 9 of CK_STATUS in their places. -/
  status : Word32
  /-- A restore is in progress. -/
  restoring : Bool
  /-- CK_TIMEOUT. -/
  timeout : Word32
  /-- CK_MAP_OFF as written, and in force; so on below. -/
  mapOff : Word64
  mapOffEff : Word64
  /-- CK_BUDDY. -/
  buddy : Word32
  buddyEff : Word32
  /-- CK_WARD. -/
  ward : Word32
  wardEff : Word32
  /-- CK_AREA_OFF. -/
  areaOff : Word64
  areaOffEff : Word64
  /-- CK_SLOT_BYTES. -/
  slotBytes : Word64
  slotBytesEff : Word64
  /-- CK_STAGE_OFF. -/
  stageOff : Word64
  stageOffEff : Word64
  /-- CK_JOB_CUT. -/
  jobCut : Word64
  /-- CK_OWN_CUT. -/
  ownCut : Word64
  /-- CK_TAKEN. -/
  taken : Word64
  /-- CK_FAILED. -/
  failed : Word64
  /-- CK_HOLD_NS. -/
  holdNs : Word64
  /-- CK_COW. -/
  cow : Word64
  /-- CK_DRAIN_ADDR. -/
  drainAddr : Word64
  /-- `drain_err`, `done`, `auto` in bits 3 to 1. -/
  drainCtrl : Word32
  /-- A drain is running. -/
  draining : Bool
  /-- A request is pending at rank 0, or at this rank for a job of one rank. -/
  pending : Bool
  /-- `next_cut` announced by the last RELEASE, if any. -/
  nextCut : Option Nat
  /-- The cut is open at rank 0. -/
  openAt0 : Bool
  /-- The stream of an open cut at this rank. -/
  stream : Option CutStream
  /-- Staging of R550 holds the capture of an ended job's last boundary. -/
  staged : Option CutStream
  /-- Own result and results of children for CKPT_DONE: position, success. -/
  results : List (Nat × Bool)
  /-- Cut that the results belong to. -/
  resultCut : Nat
deriving DecidableEq, Repr

/-- CK_ registers after reset. -/
def ckRegsReset : CkRegs :=
  { period := 0, status := 0, restoring := false, timeout := 0xEA60, mapOff := 0, mapOffEff := 0, buddy := 0, buddyEff := 0,
    ward := 0, wardEff := 0, areaOff := 0, areaOffEff := 0, slotBytes := 0, slotBytesEff := 0, stageOff := 0,
    stageOffEff := 0, jobCut := 0, ownCut := 0, taken := 0, failed := 0, holdNs := 0, cow := 0, drainAddr := 0,
    drainCtrl := 0, draining := false, pending := false, nextCut := none, openAt0 := false, stream := none, staged := none,
    results := [], resultCut := 0 }

end Sys2Proof.Machine
end

