-- ==== Sys2Proof/Machine/StateLink.lean ====
section
/-! DEFINITION. The state of the Rynar links: flits, links, ports, and a partition's LK_ registers (12). -/

namespace Sys2Proof.Machine

/-- A flit with its fields taken apart (12, R388). -/
structure Flit where
  /-- `seq`. -/
  seq : Nat
  /-- `ack`. -/
  ack : Nat
  /-- `ltype`. -/
  ltype : Nat
  /-- `cvc`. -/
  cvc : Nat
  /-- `ccum`. -/
  ccum : Nat
  /-- `mtype`. -/
  mtype : Nat
  /-- `mflags`. -/
  mflags : Nat
  /-- `epoch`. -/
  epoch : Nat
  /-- `src_epoch`. -/
  srcEpoch : Nat
  /-- `job`. -/
  job : Nat
  /-- `dst_rank`. -/
  dst : Nat
  /-- `src_rank`. -/
  src : Nat
  /-- `path`. -/
  path : Nat
  /-- `addr`. -/
  addr : Nat
  /-- `step`. -/
  step : Nat
  /-- `frag`. -/
  frag : Nat
  /-- `plen`. -/
  plen : Nat
  /-- `attempt`. -/
  attempt : Nat
  /-- `arg`. -/
  arg : Nat
  /-- The 192 payload bytes. -/
  payload : List Byte
deriving DecidableEq, Repr

/-- Link states (12, table of link states). -/
inductive LinkSt where
  | down | pmdTrain | lock | param | active | retrain | miswired | failed
deriving DecidableEq, Repr

/-- A flit in the replay buffer with its retransmissions (12, R396, R398). -/
structure ReplayEnt where
  /-- The flit as sent. -/
  flit : Flit
  /-- Retransmissions. -/
  tries : Nat
deriving DecidableEq, Repr

/-- One link: a whole port, or a half-port (12, R381 to R398). -/
structure Link where
  /-- State. -/
  st : LinkSt
  /-- Width code: 0 none, 1 x2, 2 x4, 3 x8. -/
  width : Nat
  /-- Local lanes in codeword lock. -/
  locked : BitVec 8
  /-- Sequence number of the next DATA flit to send. -/
  txSeq : Nat
  /-- Sequence number expected. -/
  rxSeq : Nat
  /-- A NAK was sent and the expected flit has not come (R395). -/
  nakSent : Bool
  /-- Flits that wait for a credit or for room, oldest first. -/
  txq : List Flit
  /-- Replay buffer, oldest first. -/
  replay : List ReplayEnt
  /-- Credits of channels 0 to 3. -/
  credits : List Nat
  /-- Credits freed here per channel since link start, modulo 256. -/
  freed : List Nat
  /-- Last `ccum` received per channel. -/
  ccumRx : List Nat
  /-- `ccum` last reported per channel. -/
  ccumTx : List Nat
  /-- Channel reported next. -/
  rot : Nat
  /-- IDLE, NAK and TRAIN flits sent, oldest first; of IDLE flits the last one only. -/
  ctlq : List Flit
  /-- It retrains: sequence numbers, credits and replay buffer are kept (R398). -/
  kept : Bool
  /-- Peer serial number from PARAM. -/
  peerId : Word64
  /-- Peer port and half from PARAM. -/
  peerPort : Nat
deriving DecidableEq, Repr

/-- A link that is down. Assumption 70 (DESIGN CHOICE). -/
def linkDown : Link :=
  { st := .down, width := 0, locked := 0, txSeq := 0, rxSeq := 0, nakSent := false, txq := [], replay := [],
    credits := [0, 0, 0, 0], freed := [0, 0, 0, 0], ccumRx := [0, 0, 0, 0], ccumTx := [0, 0, 0, 0], rot := 0, ctlq := [],
    kept := false, peerId := 0, peerPort := 0 }

/-- One of 24 ports with its LK_ registers (12, R417). -/
structure LkPort where
  /-- `enable` as written. -/
  enable : Bool
  /-- `split` as written. -/
  split : Bool
  /-- The port runs split. -/
  splitAct : Bool
  /-- Failed lanes. -/
  laneFailed : BitVec 8
  /-- The whole port, or half-port a. -/
  a : Link
  /-- Half-port b. -/
  b : Link
  /-- LK_EXPECT_ID. -/
  expectId : Word64
  /-- LK_EXPECT_PORT. -/
  expectPort : Word32
  /-- LK_TX_FLITS. -/
  tx : Word64
  /-- LK_RX_FLITS. -/
  rx : Word64
  /-- LK_REPLAYED. -/
  replayed : Word64
  /-- LK_CRC_ERR. -/
  crcErr : Word64
  /-- LK_FEC_CORR. -/
  fecCorr : Word64
  /-- LK_FEC_UNCORR. -/
  fecUncorr : Word64
  /-- LK_RETRAIN. -/
  retrains : Word32
  /-- LK_LANE_SYM0 to LK_LANE_SYM7. -/
  laneSym : List Word64
deriving DecidableEq, Repr

/-- A port after reset: enabled, not split, in PMD training once the module starts. -/
def lkPortReset : LkPort :=
  { enable := true, split := false, splitAct := false, laneFailed := 0, a := linkDown, b := linkDown, expectId := 0,
    expectPort := 0, tx := 0, rx := 0, replayed := 0, crcErr := 0, fecCorr := 0, fecUncorr := 0, retrains := 0,
    laneSym := List.replicate 8 0 }

/-- An ordered atomic contribution that is held for the boundary (06, R227; 13, R439). -/
structure HeldAtomic where
  /-- Source rank. -/
  rank : Nat
  /-- Logical cluster. -/
  lcl : Nat
  /-- Bundles issued since the step's first bundle. -/
  bno : Nat
  /-- Local HBM-space offset. -/
  off : Nat
  /-- FP32 elements. -/
  vals : List Nat
deriving DecidableEq, Repr

/-- A message whose ACK is awaited (12, R389): destination rank, low 32 bits of its step, attempt. -/
structure AwaitAck where
  /-- Destination rank. -/
  dst : Nat
  /-- Low 32 bits of the step. -/
  tag : Nat
  /-- Source cluster and buffer of a request that a REJECT poisons. -/
  src : Option (Nat × Nat)
  /-- Address of the first byte. -/
  addr : Nat
  /-- Bytes. -/
  len : Nat
deriving DecidableEq, Repr

/-- A remote read that awaits its data (10, R341; 12, RREAD_DATA). -/
structure AwaitRead where
  /-- Logical cluster. -/
  lcl : Nat
  /-- Buffer. -/
  buf : Nat
  /-- SRAM address of the destination. -/
  sram : Nat
  /-- Rank asked. -/
  dst : Nat
  /-- HBM-space offset asked for. -/
  addr : Nat
  /-- Bytes that have come, by offset, with poison and mark. -/
  got : List (Nat × List Byte)
  /-- Bytes asked. -/
  len : Nat
  /-- Poison came. -/
  poison : Bool
  /-- Strongest mark. -/
  mark : Option Nat
deriving DecidableEq, Repr

/-- The LK_ registers of a partition and its traffic (12, R400 to R417). -/
structure LkRegs where
  /-- LK_JOB as written, and in force. -/
  job : Word32
  jobEff : Nat
  /-- LK_EPOCH as written, and in force. -/
  epoch : Word32
  epochEff : Nat
  /-- LK_ROUTE_BASE as written, and in force. -/
  base : Word64
  baseEff : Nat
  /-- LK_ROUTE_COUNT as written, and in force. -/
  count : Word32
  countEff : Nat
  /-- LK_PFLAGS. -/
  pflags : BitVec 4
  /-- LK_STALE. -/
  stale : Word64
  /-- LK_JOB_DROP. -/
  jobDrop : Word64
  /-- LK_ATTEMPT_DROP. -/
  attemptDrop : Word64
  /-- LK_NACK_RX. -/
  nackRx : Word64
  /-- LK_ROUTE_REJ. -/
  routeRej : Word64
  /-- Ranks whose selection bit is set (R402). -/
  alt : List Nat
  /-- Selection bits to set before the next attempt's first bundle. -/
  altNext : List Nat
  /-- ACKs awaited. -/
  acks : List AwaitAck
  /-- Reads awaited. -/
  reads : List AwaitRead
  /-- SEND messages of the step, which a REJECT may answer. -/
  sends : List AwaitAck
  /-- Ordered contributions to other ranks, held until the boundary: rank and contribution (13, R439). -/
  outAtomics : List (Nat × HeldAtomic)
  /-- Event 0x0580 was sent in this job. -/
  sentRej : Bool
  /-- Event 0x0582 was sent in this job. -/
  sentJob : Bool
deriving DecidableEq, Repr

/-- LK_ registers of a partition after reset. -/
def lkRegsReset : LkRegs :=
  { job := 0, jobEff := 0, epoch := 0, epochEff := 0, base := 0, baseEff := 0, count := 0, countEff := 0, pflags := 0,
    stale := 0, jobDrop := 0, attemptDrop := 0, nackRx := 0, routeRej := 0, alt := [], altNext := [], acks := [], reads := [],
    sends := [], outAtomics := [], sentRej := false, sentJob := false }

end Sys2Proof.Machine
end

