-- ==== Sys2Proof/Machine/ClusterCycle.lean ====
section
/-! DEFINITION. One issue cycle of a whole cluster, its step boundary, the copies that a replay restores, the trap record and
the spot-check capture (06, R203, R229 to R234, R677; 08, R276; 15, R490, R491, R508, R509). -/

namespace Sys2Proof.Machine

/-- The trap record after a cycle's events (08, R276, R279). -/
def trapNote (rel step : Nat) (evs : List Ev) (t : TrapUnit) : TrapUnit :=
  match firstEv evs with
  | none => t
  | some e =>
    if t.valid then { t with count := satInc t.count evs.length }
    else
      { valid := true, info := BitVec.ofNat 64 (evCause e.kind * 2 ^ 16 + e.slot * 2 ^ 13 + e.pc), cycle := BitVec.ofNat 64 rel,
        step := BitVec.ofNat 64 step, detail := BitVec.ofNat 64 e.detail, count := satInc t.count (evs.length - 1) }

/-- Is pass j of a logical cluster in a step sampled (15, R508). -/
def spotSampled (step l j : Nat) : Bool :=
  fmix32 ((step % 2 ^ 32 * 0x9E3779B9 % 2 ^ 32) ^^^ (l * 2 ^ 20 % 2 ^ 32) ^^^ j) / 2 ^ 24 = 0

/-- What one issue cycle of a cluster gives. -/
structure CycleOut where
  /-- The cluster after the cycle. -/
  cl : Cluster
  /-- What goes out. -/
  outs : List ClOut
  /-- Events of the cycle. -/
  evs : List Ev
  /-- A sampled pass meets a full capture buffer: the cycle does not run (15, R510). -/
  clash : Bool
  /-- A sampled pass found no checker (15, R511). -/
  skipped : Bool
deriving DecidableEq, Repr

/-- The spot-check state after a cycle: the pass judged, the vectors entered, what the chains received and formed. -/
def spotCycle (env : Env) (c : ClusterCore) (s : SpotSample) (en : EntryOut) (new : ArrayUnit) : SpotSample × Bool × Bool :=
  let starts := match en.judged with | some p => env.spot && p.ok | none => false
  let hit := starts && spotSampled env.step env.k s.passes
  let skipped := hit && !env.checker
  let taken := hit && env.checker
  let cap0 : Option Capture :=
    if taken then en.judged.map (fun p =>
      { j := s.passes, pass := p, set := none, items := [], received := [], formed := [] }) else s.capture
  let cap1 := cap0.map (fun k =>
    let d := entryDelay env k.pass.args.transpose
    let items := match en.entered with
      | some v => if v.pass.u = k.pass.u then k.items ++ [v.item] else k.items
      | none => k.items
    let set := match k.set with
      | some r => some r
      | none => if c.array.entered.any (fun v => v.pass.u = k.pass.u) then some (setOf c.array c.array.active) else none
    let due := new.flights.filter (fun f => f.chained && f.chainEnd = env.u && f.transpose = k.pass.args.transpose &&
      decide (k.pass.u + d ≤ f.e) && decide (f.e < k.pass.u + d + k.items.length))
    { k with
      set := set, items := items,
      received := k.received ++ due.map (fun f => (f.m, f.out.map (fun o => (o.1, receivedChain env f o.1)))),
      formed := k.formed ++ due.map (fun f => (f.m, f.out)) })
  ({ passes := if starts then (s.passes + 1) % 2 ^ 32 else s.passes, capture := cap1 }, taken && s.capture.isSome, skipped)

/-- The accesses of every unit in a cycle (06, R229, R230). -/
def cycleAccs (env : Env) (c : ClusterCore) (decided : List StoreOp) : List Acc :=
  feedAccs env c ++
    (decided.map (fun o => if storeRefused env c o then storeRecAcc o env.u else storeAccs c.conv env.u o)).flatten ++
    vecAccs env c ++ scAccs env c

/-- One issue cycle of a cluster: every unit acts on what stood at the end of the cycle before (06, R203). -/
def clusterCycle (env : Env) (cl : Cluster) : CycleOut :=
  let c := cl.core
  let held := heldRanges c.dma.bufs
  let decided := storesDecided env c cl.sram held (feedAccs env c)
  let served := serveAll (accSort (cycleAccs env c decided)) []
  let reads := served.filter (fun s => s.acc.data.isNone)
  let rs := reads.map (fun s => (s.acc, readBytes cl.sram held s))
  let w := cwrNow env c
  let fd := feedCycle env c rs (commonNow env c) (loadModeNow env c)
  let en := entryCycle env c fd.vec
  let ar := arrayCycle env c fd w (crdNow env c)
  let ac := accumCycle env c w
  let st := storeCycle env c decided rs
  let ve := vecCycle env c decided rs w
  let writes := served.filter (fun s => s.acc.data.isSome)
  let ordered := writes.filter (fun s => !s.acc.scale) ++ writes.filter (fun s => s.acc.scale)
  let sram := ordered.foldl (applyWrite held) cl.sram
  let j1 := reads.foldl (fun j s => journalRead j (journalLines held s)) cl.journal
  let j2 := ordered.foldl (fun j s => journalWrite cl.sram j (journalLines held s)) j1
  let c1 : ClusterCore :=
    { c with
      dma := { c.dma with hbmq := hbmqEnd st.ended c.dma.hbmq ++ st.placed.toList.map (fun s => .store s) } }
  let dm := dmaCycle env c1 sram j2 w
  let evs := env.seqEvs ++ (served.map (accEvents held)).flatten ++ fd.evs ++ ar.2 ++ ac.2 ++ st.evs ++ ve.2 ++ scEvs env ++
    dm.port.evs
  let sp := spotCycle env c cl.spot en ar.1
  { cl :=
      { core :=
          { scalar := scalarCycle env c rs evs w, array := ar.1, accum := ac.1, conv := convCycle w c.conv fd st ar.2, vec := ve.1,
            opal := opalCycle env c decided st dm.seed w, dma := dm.port.dma },
        snap := cl.snap, sram := dm.port.sram, journal := dm.port.journal, spot := sp.1,
        trap := if env.debug then trapNote env.rel env.step evs cl.trap else cl.trap },
    outs := st.host.map (fun h => .host h.1 h.2) ++ st.remote.map (fun f => .remote f none) ++ dm.outs, evs := evs,
    clash := sp.2.1, skipped := sp.2.2 }

/-- Does the boundary end an operation in progress: a load, a pass that has vectors to enter, a feed operation, a store
(06, R677). -/
def boundaryCuts (env : Env) (c : ClusterCore) : Bool :=
  c.array.load.isSome ||
    c.array.passes.any (fun p => decide (env.u + 1 < p.u + entryDelay env p.args.transpose + p.n)) ||
    !c.conv.streams.isEmpty || !c.conv.stats.isEmpty || !c.conv.stores.isEmpty

/-- The runs that a store cut by the boundary has written toward HBM, or toward the host (06, R677). -/
def cutRuns (c : ClusterCore) (dest : Nat) : List (Nat × Nat × List (Nat × List Byte)) :=
  (c.conv.stores.filter (fun o => o.desc.dest = dest)).map (fun o => (o.s, o.desc.outBuf, o.out))

/-- The tile array after the boundary (04, R168; 06, R677). Assumption 30 (DEDUCED). -/
def arrayBoundary (a : ArrayUnit) : ArrayUnit :=
  { a with load := none, passes := [], entered := [], flights := [], fwd := [], gangEff := a.gangCfg }

/-- The accumulator store after the boundary (05, R192; 07, R243). -/
def accumBoundary (a : AccumUnit) : AccumUnit :=
  { a with tiles := [], frontSel := 0, drain := none, deliver := none, port := 0 }

/-- What the step boundary does to a cluster after its bundle's own cycle (06, R232, R677; 05, R192; 07, R243). -/
def boundaryCluster (env : Env) (cl : Cluster) : Cluster × List ClOut × List Ev :=
  let c := cl.core
  let cut := boundaryCuts env c
  let evs : List Ev := (if cut then [{ kind := .boundaryCut, slot := 1, pc := env.pc, detail := 0 }] else []) ++
    c.vec.flight.map (fun f => { kind := .wbDiscard, slot := 4, pc := f.pc, detail := 0 })
  let c1 : ClusterCore :=
    { scalar := { c.scalar with ld := [], status := c.scalar.status ||| bitsOf sqBit evs }, array := arrayBoundary c.array,
      accum := accumBoundary c.accum, conv := { c.conv with streams := [], stats := [], stores := [] },
      vec := { c.vec with flight := [], status := c.vec.status ||| bitsOf vuBit evs }, opal := { c.opal with resv := [] },
      dma := { c.dma with
               bufs := c.dma.bufs.map (fun _ => bufferFree), atomicUsed := 0,
               hbmq := hbmqEnd ((cutRuns c 0).map (fun r => (r.1, r.2.2))) c.dma.hbmq } }
  ({ cl with core := c1, trap := if env.debug then trapNote env.rel env.step evs cl.trap else cl.trap },
   (cutRuns c 2).map (fun r => .host r.2.1 r.2.2), evs)

/-- The cluster at the first bundle of an attempt: copies taken, journal and sample counts clear (15, R490, R491, R508). -/
def clusterBegin (cl : Cluster) : Cluster :=
  { cl with snap := cl.core, journal := journalReset, spot := spotReset }

/-- The state of a cluster's units that a replay restores, from the copies and what is not restored (03, R126; 04, R170;
05, R193; 06, R234; 07, R244; 09, R311). Assumption 30 (DEDUCED). -/
def coreRestore (snap c : ClusterCore) : ClusterCore :=
  { scalar := snap.scalar,
    array := { snap.array with gangPerr := c.array.gangPerr, gangRoute := c.array.gangRoute, relayed := c.array.relayed },
    accum := { snap.accum with peekSel := c.accum.peekSel }, conv := snap.conv, vec := snap.vec,
    opal := { snap.opal with seedCnt := c.opal.seedCnt },
    dma := { snap.dma with
             bufs := c.dma.bufs.map (fun _ => bufferFree), drop := satInc c.dma.drop c.dma.port.length, port := [], hbmq := [] } }

/-- A cluster as a replay restores it (15, R495 step 4). -/
def clusterRestore (cl : Cluster) : Cluster :=
  { cl with
    core := coreRestore cl.snap cl.core, sram := journalRestore cl.journal cl.sram, journal := journalReset, spot := spotReset }

/-- A cluster at job start (06, R679; 10, R313; 04, R139). -/
def clusterJobStart (cl : Cluster) : Cluster :=
  { clusterReset with core := { coreReset with dma := { dmaReset with port := [] } }, trap := { cl.trap with valid := false, info := 0, cycle := 0, step := 0, detail := 0, count := 0 } }

/-- An ITEM_ARRIVAL at a buffer of a cluster: bytes fetched land, or the source has left SRAM (01, R36; 06, R221, R225). -/
def itemLand (cclk : Nat) (mark : Option Nat) (i : Nat) (p : Port) : Port :=
  let b := p.dma.bufs.getD i bufferFree
  let arrive (m : DmaUnit) : DmaUnit := withBuf m i (fun x =>
    { x with present := true, presentAt := cclk, mark := strongerMark x.mark mark, fetched := none })
  if b.kind = .free || (b.present && b.kind != .recv) then p
  else match b.kind with
    | .recv => deliverPort cclk { p with dma := withBuf p.dma i (fun x => { x with mark := strongerMark x.mark mark }) }
    | .read | .regread | .solve | .seed | .coll =>
      match b.fetched with
      | none => p
      | some (a, d, poison) =>
        let p1 := portWrite p a d
        { p1 with dma := if poison then notePoison (arrive p1.dma) i else arrive p1.dma }
    | _ =>
      match b.fetched with
      | some (_, _, true) => { p with dma := notePoison (arrive p.dma) i }
      | _ => { p with dma := arrive p.dma }

/-- An ITEM_ARRIVAL at a cluster. -/
def clusterLand (cclk : Nat) (mark : Option Nat) (i : Nat) (debug frozen : Bool) (rel step : Nat) (cl : Cluster) : Cluster :=
  let p := itemLand cclk mark i { dma := cl.core.dma, sram := cl.sram, journal := cl.journal, evs := [] }
  { cl with
    core := { cl.core with dma := p.dma }, sram := p.sram, journal := p.journal,
    trap :=
      if !debug then cl.trap
      else if frozen then { cl.trap with count := satInc cl.trap.count p.evs.length }
      else trapNote rel step p.evs cl.trap }

end Sys2Proof.Machine
end

