-- ==== Sys2Proof/Machine/StateRun.lean ====
section
/-! DEFINITION. The state of a partition that runs bundles: job, sequencer, stall accounting, held requests, and the
partition's reproducibility, memory-tier, fault and collective registers (01, 02, 06, 10, 13, 15, 17). -/

namespace Sys2Proof.Machine

/-- PV_STATE of a partition (17, partition view). -/
inductive PState where
  | absent | idle | starting | running | ended | releasing
deriving DecidableEq, Repr

/-- One program image of a job (08, R262; 17, R569). -/
structure ImageInfo where
  /-- `bundle_count`. -/
  count : Nat
  /-- Map-specialised. -/
  special : Bool
  /-- Compiled for another map or partition (02, R64). -/
  foreign : Bool
  /-- Bundles by address. -/
  bundles : Mem 512
deriving DecidableEq, Repr

/-- What a job fixes at its start (02, R49 to R56; 17, R567 to R570). -/
structure Job where
  /-- Rank of the partition. -/
  rank : Nat
  /-- CLASS is RELAXED. -/
  relaxed : Bool
  /-- Debug mode. -/
  debug : Bool
  /-- IMAGE_DIGEST. -/
  imageDigest : List Byte
  /-- DATA_DIGEST. -/
  dataDigest : List Byte
  /-- SEED. -/
  seed : Nat
  /-- FW_VERSION. -/
  fw : Nat
  /-- Key digest. -/
  keyDigest : List Byte
  /-- Map digest. -/
  mapDigest : List Byte
  /-- The running image is map-specialised. -/
  special : Bool
  /-- A map-specialised image runs on another map (02, R64). -/
  foreign : Bool
  /-- Update directory offset, if there is one. -/
  updDir : Option Nat
  /-- Image slots. -/
  images : List ImageInfo
  /-- Offset of the image area, used for more than one image. -/
  imgArea : Nat
  /-- LK_ROUTE_COUNT of the job. -/
  ranks : Nat
  /-- A restore source was given (16, R547). -/
  restored : Bool
deriving DecidableEq, Repr

/-- An entry of the loop stack (06, R206). -/
structure LoopEnt where
  /-- Start of the body. -/
  start : Nat
  /-- End of the body. -/
  last : Nat
  /-- Iterations left. -/
  left : Nat
deriving DecidableEq, Repr

/-- A vote branch in its delay bundles (06, R208). -/
structure Vote where
  /-- Issue cycle of the branch. -/
  u : Nat
  /-- Address of the branch. -/
  pc : Nat
  /-- Target. -/
  target : Nat
  /-- The vote was taken. -/
  taken : Bool
deriving DecidableEq, Repr

/-- A stalled cycle owed to an item until its mark is known: cluster, buffer, cycles (01, R41; 12, R406). -/
structure Owed where
  /-- Logical cluster. -/
  lcl : Nat
  /-- Buffer. -/
  buf : Nat
  /-- Stalled cycles. -/
  n : Nat
deriving DecidableEq, Repr

/-- Counters of the reproducibility window (02). -/
structure RepCounts where
  /-- Timing-dependent count. -/
  td : Word64
  /-- Issued bundles since job start. -/
  issued : Word64
  /-- Stalled CCLK since job start. -/
  stalled : Word64
  /-- Issue cycles of abandoned attempts. -/
  replayCyc : Word64
  /-- CCLK pause time. -/
  pauseNs : Word64
  /-- Stalled CCLK per cause. -/
  causes : List Word64
deriving DecidableEq, Repr

/-- Counters cleared. Assumption 70 (DESIGN CHOICE). -/
def repCountsReset : RepCounts :=
  { td := 0, issued := 0, stalled := 0, replayCyc := 0, pauseNs := 0, causes := List.replicate 16 0 }

/-- The REP_ registers of a partition (02, register map). -/
structure RepRegs where
  /-- `trap_kind`. -/
  trapKind : BitVec 4
  /-- `strict_trap`. -/
  strictTrap : Bool
  /-- `log_held`. -/
  logHeld : Bool
  /-- `log_overwritten`. -/
  logOver : Bool
  /-- `model_exceeded`. -/
  exceeded : Bool
  /-- REP_CTRL as written. -/
  ctrl : Word32
  /-- REP_CTRL in force. -/
  ctrlEff : Word32
  /-- REP_LOG_BASE as written. -/
  logBase : Word64
  /-- REP_LOG_BASE in force. -/
  logBaseEff : Word64
  /-- REP_LOG_SIZE as written. -/
  logSize : Word32
  /-- Ring size in force (R90). -/
  logSizeEff : Word32
  /-- REP_LOG_HEAD. -/
  head : Word32
  /-- REP_LOG_TAIL. -/
  tail : Word32
  /-- REP_LOG_LOST. -/
  lost : Word32
  /-- Step counter at the last boundary. -/
  stepSnap : Word64
  /-- Live counters. -/
  live : RepCounts
  /-- Counters at the last boundary (R86). -/
  snap : RepCounts
  /-- REP_LAST_RECORD. -/
  last : BitVec 1024
  /-- Event 0x0212 was sent in this job (R63). -/
  sentExceeded : Bool
  /-- Event 0x0410 was sent in this job (R80). -/
  sentOver : Bool
deriving DecidableEq, Repr

/-- REP_ registers after reset. -/
def repRegsReset : RepRegs :=
  { trapKind := 0, strictTrap := false, logHeld := false, logOver := false, exceeded := false, ctrl := 1, ctrlEff := 1,
    logBase := 0, logBaseEff := 0, logSize := 0, logSizeEff := 0, head := 0, tail := 0, lost := 0, stepSnap := 0,
    live := repCountsReset, snap := repCountsReset, last := 0, sentExceeded := false, sentOver := false }

/-- Code of a protected region's state (10, R331). -/
inductive RegionState where
  | normal | degraded | rebuilding | rebuilt | rebuiltDegraded | withdrawn | lost
deriving DecidableEq, Repr

/-- The MT_ registers and layouts of a partition (10, R316 to R347). -/
structure MemRegs where
  /-- MT_CFG as written. -/
  cfg : Word32
  /-- U in force. -/
  u : Nat
  /-- P in force. -/
  p : Nat
  /-- V in force. -/
  v : Nat
  /-- `cfg_ignored`. -/
  cfgIgnored : Bool
  /-- `lost_write`. -/
  lostWrite : Bool
  /-- State of the protected region. -/
  state : RegionState
  /-- Rebuild pointer B. -/
  ptr : Nat
  /-- Stacks of the unprotected layout (R318). -/
  live : List Nat
  /-- Stacks of the 7+1 layout, or of the old layout while a rebuild runs. -/
  prot : List Nat
  /-- Stacks of the 6+1 layout, from stripe B up (R334). -/
  survivors : List Nat
  /-- A rebuild was stopped by a third failure (R337). -/
  stopped : Bool
  /-- MT_CORR. -/
  corr : Word64
  /-- MT_RECON. -/
  recon : Word64
  /-- MT_POISON_MADE. -/
  made : Word64
  /-- MT_POISON_READ. -/
  read : Word64
  /-- MT_LOST_WR. -/
  lostWr : Word64
  /-- MT_REJECT. -/
  reject : Word64
  /-- MT_RWIN0 to MT_RWIN15. -/
  rwin : List Word64
  /-- Event 0x0460 was sent (R336). -/
  sentReserve : Bool
  /-- Event 0x0564 was sent in this job (R333). -/
  sentLost : Bool
deriving DecidableEq, Repr

/-- MT_ registers after reset. -/
def memRegsReset : MemRegs :=
  { cfg := 0, u := 0, p := 0, v := 0, cfgIgnored := false, lostWrite := false, state := .normal, ptr := 0, live := [],
    prot := [], survivors := [], stopped := false, corr := 0, recon := 0, made := 0, read := 0, lostWr := 0, reject := 0,
    rwin := List.replicate 16 0, sentReserve := false, sentLost := false }

/-- A record of the HBM journal: line, step, old content (15, R492). -/
structure HbmRec where
  /-- HBM-space offset of the line. -/
  off : Nat
  /-- Step counter. -/
  step : Nat
  /-- Old content, 64 bytes little-endian. -/
  old : Word512
  /-- The line read as poison. -/
  poison : Bool
deriving DecidableEq, Repr

/-- The SE_ registers of a partition and what its replays need (15, R489 to R526). -/
structure SeRegs where
  /-- SE_CTRL as written. -/
  ctrl : Word32
  /-- SE_CTRL in force. -/
  ctrlEff : Word32
  /-- W1C bits 3:0 of SE_STATUS. -/
  status : BitVec 4
  /-- `unreplayable`. -/
  unreplayable : Bool
  /-- `replaying`. -/
  replaying : Bool
  /-- SE_HJ_OFF as written, and in force. -/
  hjOff : Word64
  hjOffEff : Word64
  /-- SE_HJ_BYTES as written, and in force. -/
  hjBytes : Word64
  hjBytesEff : Word64
  /-- SE_REPL_OFF as written, and in force. -/
  replOff : Word64
  replOffEff : Word64
  /-- SE_REPLAYS. -/
  replays : Word64
  /-- SE_REPLAY_NS. -/
  replayNs : Word64
  /-- SE_SPOT_DONE. -/
  spotDone : Word64
  /-- SE_SPOT_SKIP. -/
  spotSkip : Word64
  /-- SE_SPOT_MISS. -/
  spotMiss : Word64
  /-- SE_LAST_VERDICT. -/
  lastVerdict : Word64
  /-- SE_SJ_PEAK. -/
  sjPeak : Word32
  /-- SE_HJ_PEAK. -/
  hjPeak : Word64
  /-- HBM journal records of the attempt, oldest first. -/
  journal : List HbmRec
  /-- Records written to the ring since job start: the next one goes to this place modulo the ring size. -/
  hjNext : Nat
  /-- A sample mismatched: logical cluster, pass, checkers that were used (R512). -/
  missed : List (Nat × Nat × List Nat)
  /-- Uncorrectable errors of the step: attempt, structure, place, logical cluster (R505). -/
  errs : List (Nat × Nat × Nat × Nat)
  /-- Engine mismatches of the step: attempt, T-die, granule (R505). -/
  engErrs : List (Nat × Nat × Nat)
  /-- A verdict was requested in the step (R518). -/
  verdictAsked : Bool
  /-- Verdict of the step, if formed (R515). -/
  verdict : Option (Word64 × Bool)
  /-- State digest of the step, if formed (R515). -/
  digest : Option (List Word64 × Bool)
  /-- Event 0x02B0 was sent in this job (R518). -/
  sentDigest : Bool
  /-- Event 0x04B2 was sent in this job (R493). -/
  sentUnreplayable : Bool
  /-- The attempt is to be abandoned: a replay was requested or an ABORT acted on. -/
  asked : Bool
  /-- A cluster declared failed in the job awaits its takeover copy (R506). -/
  takeover : Bool
  /-- Quartz time at which the replay in progress began. -/
  replayFrom : Nat
deriving DecidableEq, Repr

/-- SE_ registers after reset. -/
def seRegsReset : SeRegs :=
  { ctrl := 0x41, ctrlEff := 0x41, status := 0, unreplayable := false, replaying := false, hjOff := 0, hjOffEff := 0,
    hjBytes := 0, hjBytesEff := 0, replOff := 0, replOffEff := 0, replays := 0, replayNs := 0, spotDone := 0, spotSkip := 0,
    spotMiss := 0, lastVerdict := 0, sjPeak := 0, hjPeak := 0, journal := [], hjNext := 0, missed := [], errs := [], engErrs := [],
    verdictAsked := false, verdict := none, digest := none, sentDigest := false, sentUnreplayable := false, asked := false, takeover := false, replayFrom := 0 }

/-- A token row of an all-to-all (13, R435 to R438). -/
structure CollRow where
  /-- Source position, or the position that returns the row. -/
  src : Nat
  /-- Slot. -/
  slot : Nat
  /-- Choice. -/
  choice : Nat
  /-- Expert. -/
  expert : Nat
  /-- Content. -/
  data : List Byte
  /-- Poisoned. -/
  poison : Bool
deriving DecidableEq, Repr

/-- A node value or a delivered chunk of a collective: level or position, node, chunk, content, poison (13, R423). -/
structure CollPart where
  /-- Level of the node; for a delivered chunk the source position. -/
  level : Nat
  /-- Node number. -/
  node : Nat
  /-- Chunk. -/
  chunk : Nat
  /-- Content. -/
  data : List Byte
  /-- Poisoned. -/
  poison : Bool
deriving DecidableEq, Repr

/-- A collective call of the attempt (13, R424 to R438). -/
structure CollCall where
  /-- `coll_id`. -/
  id : Nat
  /-- Descriptor, 128 bytes. -/
  desc : List Byte
  /-- `relaxed`. -/
  relaxed : Bool
  /-- Reserved slot bits of the first COLL. -/
  resv : Nat
  /-- Issue cycle of the first COLL. -/
  u : Nat
  /-- The call has begun: its contribution was taken. -/
  begun : Bool
  /-- Group ranks in order. -/
  group : List Nat
  /-- Own position. -/
  pos : Nat
  /-- Group signature. -/
  sig : Nat
  /-- Token rows of an all-to-all at its beginning. -/
  src : List Byte
  /-- Expert table at its beginning. -/
  etab : List Byte
  /-- Node values held. -/
  nodes : List CollPart
  /-- Destination chunks delivered. -/
  done : List CollPart
  /-- Non-finite count contribution and combined count. -/
  nf : Nat
  /-- Token rows that arrived. -/
  rows : List CollRow
  /-- Dispatch lists of the positions, as they become known. -/
  lists : List (Nat × List Nat)
  /-- Every destination line was filled with poison (R430). -/
  broken : Bool
  /-- The call delivered poison. -/
  poison : Bool
  /-- Strongest mark received. -/
  mark : Option Nat
  /-- Completion word, once formed. -/
  word : Option Nat
  /-- Buffers that wait for the word: cluster, buffer. -/
  waiters : List (Nat × Nat)
deriving DecidableEq, Repr

/-- The CL_ and BR_ registers of a partition and its barrier (13, R444 to R448). -/
structure ClRegs where
  /-- W1C bits of CL_STATUS in their places. -/
  status : Word32
  /-- CL_CALLS. -/
  calls : Word64
  /-- CL_REFUSED. -/
  refused : Word64
  /-- CL_A2A_DROP. -/
  drop : Word64
  /-- CL_RELAXED. -/
  relaxed : Word64
  /-- CL_SIG_MISMATCH. -/
  sigMis : Word64
  /-- BR_CTRL. -/
  brCtrl : Word32
  /-- BR_LEAD. -/
  brLead : Word32
  /-- BR_CTRL and BR_LEAD in force. -/
  brCtrlEff : Word32
  brLeadEff : Word32
  /-- BR_LAST_REL. -/
  lastRel : Word64
  /-- BR_COUNT. -/
  count : Word64
  /-- BR_LATE. -/
  late : Word64
  /-- Calls of the attempt. -/
  inAttempt : List CollCall
  /-- Ranks whose ARRIVE reached this executor: rank, step, attempt. -/
  arrived : List (Nat × Nat × Nat)
  /-- Collective flits that wait for their call to begin, oldest first. -/
  early : List Flit
  /-- Own ARRIVE was sent for this boundary or restart. -/
  arriveSent : Bool
  /-- T_rel in 2^-16 ns, once RELEASE came. -/
  tRel : Option Nat
  /-- An ABORT named a step that this rank has not begun: step and attempt (15, R496). -/
  ahead : Option (Nat × Nat)
  /-- Event 0x0292 was sent in this job. -/
  sentLate : Bool
deriving DecidableEq, Repr

/-- CL_ and BR_ registers after reset. -/
def clRegsReset : ClRegs :=
  { status := 0, calls := 0, refused := 0, drop := 0, relaxed := 0, sigMis := 0, brCtrl := 0x10001, brLead := 0x9C40,
    brCtrlEff := 0x10001, brLeadEff := 0x9C40, lastRel := 0, count := 0, late := 0, inAttempt := [], arrived := [],
    early := [], arriveSent := false, tRel := none, ahead := none, sentLate := false }

/-- The sequencer of a partition and its stall accounting (01, R36 to R41; 06, R206 to R209, R232, R233; 08, R274). -/
structure SeqState where
  /-- Bundle memory, the same in every cluster. -/
  bundles : Mem 512
  /-- Image slot that is resident. -/
  resident : Nat
  /-- Bundles that slot commands put in front of the program: the model's own field. -/
  stream : List Bundle
  /-- Address of the next bundle. -/
  next : Nat
  /-- Address of the last issued bundle. -/
  pc : Nat
  /-- SQ_ENTRY. -/
  entry : Nat
  /-- Loop stack, outermost first. -/
  loops : List LoopEnt
  /-- Vote branches in their delay bundles. -/
  votes : List Vote
  /-- Step counter. -/
  step : Nat
  /-- Attempt number, from 1. -/
  attempt : Nat
  /-- The step's first bundle has issued in this attempt. -/
  begun : Bool
  /-- Absolute issue cycle of the next bundle. -/
  ic : Nat
  /-- Absolute issue cycle of the step's first bundle. -/
  ic0 : Nat
  /-- CCLK count of the partition. -/
  cclk : Nat
  /-- Loop stack at the step's first bundle. -/
  loops0 : List LoopEnt
  /-- Stalled CCLK in this step by cause. -/
  stalls : List Nat
  /-- Stalled CCLK in this step, charged or owed. -/
  stallStep : Nat
  /-- Consecutive stalled CCLK (R233). -/
  stallRun : Nat
  /-- Stalled CCLK owed to items (R406). -/
  owed : List Owed
  /-- Hold causes raised, one bit each. -/
  holds : BitVec 16
  /-- Issue cycle from which a trap freezes the partition (R274). -/
  freezeAt : Option Nat
  /-- Frozen. -/
  frozen : Bool
  /-- A resumed `brk` bundle issues once without trapping again. -/
  brkPassed : Bool
  /-- A replay is to start at resume (15, R499). -/
  replayAtResume : Bool
  /-- Quartz nanoseconds for which the boundary has waited on the host path, in CCLK. -/
  hostWait : Nat
  /-- Fingerprint lanes. -/
  fpLo : Word64
  fpHi : Word64
  /-- Committed lines of the attempt. -/
  lines : Nat
  /-- Timing-dependent flags of the step. -/
  td : BitVec 4
  /-- Cycles of abandoned attempts of the step. -/
  replayCyc : Nat
  /-- Cause 2 counted in this step under R63. -/
  exceeded : Bool
  /-- Ordered contributions held. -/
  atomics : List HeldAtomic
deriving DecidableEq, Repr

/-- Sequencer after reset. Assumption 70 (DESIGN CHOICE). -/
def seqReset : SeqState :=
  { bundles := [], resident := 0, stream := [], next := 0, pc := 0, entry := 0, loops := [], votes := [], step := 0,
    attempt := 1, begun := false, ic := 0, ic0 := 0, cclk := 0, loops0 := [], stalls := List.replicate 16 0, stallStep := 0,
    stallRun := 0, owed := [], holds := 0, freezeAt := none, frozen := false, brkPassed := false, replayAtResume := false,
    hostWait := 0, fpLo := 0, fpHi := 0, lines := 0, td := 0, replayCyc := 0, exceeded := false,
    atomics := [] }

/-- No job. Assumption 70 (DESIGN CHOICE). -/
def jobNone : Job :=
  { rank := 0, relaxed := false, debug := false, imageDigest := List.replicate 32 0, dataDigest := List.replicate 32 0,
    seed := 0, fw := 0, keyDigest := List.replicate 32 0, mapDigest := List.replicate 32 0, special := false, foreign := false,
    updDir := none, images := [], imgArea := 0, ranks := 0, restored := false }

end Sys2Proof.Machine
end

