-- ==== Sys2Proof/Machine/StatePart.lean ====
section
/-! DEFINITION. The state of one partition: job, sequencer, registers, clusters and HBM slice (01, R42; 17, R567 to R577). -/

namespace Sys2Proof.Machine

/-- One of 12 partitions. -/
structure Partition where
  /-- PV_STATE `state`. -/
  st : PState
  /-- An end of the job at the next step boundary: cause and status (17, R571; 15, R517). -/
  endReq : Option (Nat × Nat)
  /-- Time at which the effective halt became 1, ns (19, R627). -/
  haltAt : Option Nat
  /-- No entry for the step has been fetched: the partition waits (17, R576). -/
  waiting : Bool
  /-- PV_STEPS_DONE. -/
  stepsDone : Word64
  /-- PV_END_STATUS. -/
  endWord : Word32
  /-- The entry of the step that runs, with its context (17, R575). -/
  current : Option (Nat × StepEntry)
  /-- Job. -/
  job : Job
  /-- Sequencer. -/
  seq : SeqState
  /-- REP_ registers. -/
  rep : RepRegs
  /-- MT_ registers. -/
  mem : MemRegs
  /-- SE_ registers. -/
  se : SeRegs
  /-- CL_ and BR_ registers. -/
  cl : ClRegs
  /-- LK_ registers. -/
  lk : LkRegs
  /-- Update engines. -/
  upd : UpdState
  /-- CK_ registers. -/
  ck : CkRegs
  /-- Logical clusters, lowest first. -/
  clusters : List Cluster
  /-- HBM bytes by HBM-space offset (10, R314). -/
  hbm : Mem 8
deriving DecidableEq, Repr

/-- A partition after module reset. Assumption 8 (DESIGN CHOICE). -/
def partReset : Partition :=
  { st := .absent, endReq := none, haltAt := none, waiting := false, stepsDone := 0, endWord := 0, current := none,
    job := jobNone, seq := seqReset, rep := repRegsReset, mem := memRegsReset, se := seRegsReset, cl := clRegsReset,
    lk := lkRegsReset, upd := updReset, ck := ckRegsReset, clusters := [], hbm := [] }

end Sys2Proof.Machine
end

