-- ==== Sys2Proof/Machine/State.lean ====
section
/-! DEFINITION. The state of the module, its faults and refusals, and the state after reset. -/

namespace Sys2Proof.Machine

/-- A stop of the model that no behaviour of the module causes: the command itself could not have been sent. -/
inductive Fault where
  /-- The command names a partition, cluster, link, port, bridge, function or context that the module does not have. Raised
  by every command with such an operand; safe: no sender can form it. -/
  | noSuchUnit
  /-- The flit of the command is of another type than the command. Raised by the link rows; safe: the row is another one. -/
  | wrongFlit
deriving DecidableEq, Repr

/-- A refusal of the model. -/
inductive Refusal where
  /-- The command's meaning is not written. Raised by exec's arms alone; safe. -/
  | notModelled (mnemonic : String)
deriving DecidableEq, Repr

/-- The module. Assumption 72 (DESIGN CHOICE). -/
structure State where
  /-- Commands that wait, oldest first (log entry 1). -/
  pending : List Instr
  /-- Partitions 0 to 11. -/
  parts : List Partition
  /-- M-stacks, poison and the coherent control space. -/
  tiers : Tiers
  /-- Rynar ports 0 to 23. -/
  ports : List LkPort
  /-- Quartz. -/
  quartz : Quartz
  /-- Beryl. -/
  beryl : Beryl
  /-- True noise source. -/
  noise : Noise
  /-- Bridges, clusters, spares and hub cores. -/
  grid : Grid
  /-- Health scores, test windows and module-wide SE_ registers. -/
  faults : Faults
  /-- Endpoint and host. -/
  host : HostSide
  /-- Management controller. -/
  mgmt : Mgmt
  /-- Inputs, domains and permits. -/
  supplies : Supplies
  /-- Governors. -/
  gov : Governor
  /-- Life record as firmware holds it. -/
  life : Life
  /-- Flash copy A. -/
  copyA : Option LifeCopy
  /-- Flash copy B. -/
  copyB : Option LifeCopy
  /-- Start-up, fuses, firmware banks. -/
  boot : Boot
deriving DecidableEq, Repr

/-- The module just after a module reset (20, R648; log entries 4 to 11). Assumption 4 (DESIGN CHOICE). -/
def State.reset : State :=
  { pending := [], parts := List.replicate 12 partReset, tiers := tiersReset, ports := List.replicate 24 lkPortReset,
    quartz := quartzReset, beryl := berylReset, noise := noiseReset, grid := gridReset, faults := faultsReset,
    host := hostReset, mgmt := mgmtReset, supplies := suppliesReset, gov := governorReset, life := lifeEmpty, copyA := none,
    copyB := none, boot := bootReset }

end Sys2Proof.Machine
end

