-- ==== Sys2Proof/Machine/Ops.lean ====
section
/-! DEFINITION. The named operations that the meanings share: outcomes, partitions of a plan, time, event records and their two
paths, interrupts and host writes, health scores (01, R42; 13, R440; 15, R502 to R504, R523 to R525; 17, R554 to R579). -/

namespace Sys2Proof.Machine

/-- What a meaning answers. -/
abbrev Out := Host.Outcome State Fault Refusal

/-- Act where the command names a unit of the module, else stop. Assumption 18 (DESIGN CHOICE). -/
def onUnit (ok : Bool) (t : State) : Out := if ok then .next t else .fault .noSuchUnit

/-- Partition p; the reset partition where there is none. -/
def part (s : State) (p : Nat) : Partition := s.parts.getD p partReset

/-- Change partition p. -/
def withPart (s : State) (p : Nat) (f : Partition → Partition) : State := { s with parts := updAt s.parts p f }

/-- Change the sequencer of a partition. -/
def withSeq (f : SeqState → SeqState) (q : Partition) : Partition := { q with seq := f q.seq }

/-- Function k. -/
def fnOf (s : State) (k : Nat) : Fn := s.host.fns.getD k fnReset

/-- Change function k. -/
def withFn (s : State) (k : Nat) (f : Fn → Fn) : State := { s with host := { s.host with fns := updAt s.host.fns k f } }

/-- Plan entry e of a copy of Onyx (20, R657). -/
def planEntry (m : Mem 8) (e : Nat) : Nat := memLe m (0x7B0 + 2 * e) 2

/-- The partitions that a plan entry defines (20, R658). -/
def planN (w : Nat) : Nat := bits w 1 4

/-- May n name the partitions of a plan (20, R658). -/
def planNOk (n : Nat) : Bool := [1, 2, 3, 4, 6, 8, 12].contains n

/-- Is a plan entry valid (20, R658). -/
def planValid (w : Nat) : Bool := w.testBit 0 && !w.testBit 5 && bits w 6 10 = 0 && planNOk (planN w)

/-- Partitions of the plan in force; 0 while none is. -/
def planCount (s : State) : Nat := if s.boot.planOn then planN (planEntry s.boot.copy s.boot.plan) else 0

/-- Logical clusters of each partition (01, R42). -/
def clPer (s : State) : Nat := 480 / planCount s

/-- Rynar ports of each partition (01, R42). -/
def portsPer (s : State) : Nat := 24 / planCount s

/-- Queue contexts of each partition (01, R42). -/
def ctxPer (s : State) : Nat := 8192 / planCount s

/-- The partition of a logical cluster, if it has one. Assumption 71 (DESIGN CHOICE). -/
def partOfCl (s : State) (l : Nat) : Option Nat :=
  if planCount s = 0 || 480 ≤ l then none else some (l / clPer s)

/-- The partition of a port, if it has one. -/
def partOfPort (s : State) (k : Nat) : Option Nat :=
  if planCount s = 0 || 24 ≤ k then none else some (k / portsPer s)

/-- The partition of a queue context, if it has one. -/
def partOfCtx (s : State) (k : Nat) : Option Nat :=
  if planCount s = 0 || ctxPer s * planCount s ≤ k then none else some (k / ctxPer s)

/-- Physical cluster of a logical one. -/
def physOf (s : State) (l : Nat) : Nat := s.grid.table.getD l 0

/-- Is a job active in a partition (17, R567, R570). -/
def jobActive (q : Partition) : Bool := q.st = .starting || q.st = .running

/-- Is any job active on the module. -/
def anyJob (s : State) : Bool := s.parts.any jobActive

/-- Is the module READY (20, R650). -/
def isReady (s : State) : Bool := s.boot.st = .ready

/-- Does firmware perform commands and fetch step entries (20, R650, R654). Assumption 53 (DEDUCED). -/
def fwWorks (s : State) : Bool := s.boot.st = .ready || s.boot.st = .halted

/-- Does firmware answer every BAR0 register (20, R654). Assumption 53 (DEDUCED). -/
def barFull (s : State) : Bool :=
  s.supplies.mainOn && (s.boot.st = .start || fwWorks s || (s.boot.st = .failed && s.boot.byFw))

/-- CCLK in units of 12.5 MHz steps: 0 while the PLL relocks (19, R628, R641). Assumption 1 (DESIGN CHOICE). -/
def cclkSteps (s : State) : Nat := if s.gov.replan = .paused then 0 else s.gov.target

/-- Time that passes: Quartz with its rate word, the life clock on the always-on oscillator (13, R440; 19, R644); d in
2^-16 ns. Assumption 16 (DEDUCED). -/
def advanceFrac (s : State) (d : Nat) : State :=
  let q := s.quartz
  let step : Nat := (((d : Int) * (1000000000 + q.rate)) / 1000000000).toNat
  let t := q.ns * 65536 + q.frac + step
  let c := s.supplies.clockFrac + d
  { s with
    quartz := { q with ns := t / 65536 % 2 ^ 64, frac := t % 65536 }, life := { s.life with clock := s.life.clock + c / 65536 },
    supplies := { s.supplies with clockFrac := c % 65536 } }

/-- Nanoseconds that pass. Assumption 16 (DEDUCED). -/
def advance (s : State) (dt : Word64) : State := advanceFrac s (dt.toNat * 65536)

/-- Quartz time in 2^-16 ns. Assumption 16 (DEDUCED). -/
def qzFine (s : State) : Nat := s.quartz.ns * 65536 + s.quartz.frac

/-- Severity of an event code, where the spec's words place it on the scale of R523 (log entry 21).
Assumption 21 (DESIGN CHOICE). -/
def evSeverity (code : Nat) : Nat :=
  if [0x0206, 0x0220, 0x0241, 0x0290, 0x0403, 0x0520, 0x05B2, 0x05B3, 0x05B4, 0x05B5, 0x05B9, 0x05BB, 0x05BC, 0x0901, 0x0902,
      0x0903, 0x0904].contains code then 3
  else if [0x0561, 0x05B1, 0x05B8, 0x0481, 0x04B1, 0x04E2, 0x0552].contains code then 2
  else if [0x0401, 0x0402, 0x0503, 0x04E0, 0x04F1, 0x05F1, 0x05BD].contains code then 4
  else if [0x04B0, 0x04B3].contains code then 1
  else if [0x0294, 0x02C0, 0x02C1, 0x02D6, 0x02E0, 0x02F6, 0x0551, 0x0566, 0x08E2, 0x08E5].contains code then 0
  else (Config.severity code).toNat

/-- Where an event comes from (15, R523). -/
structure EvSrc where
  /-- Die. -/
  die : Nat
  /-- Unit. -/
  unit : Nat
  /-- Unit number. -/
  index : Nat
deriving DecidableEq, Repr

/-- Firmware on the H-die. Assumption 25 (DESIGN CHOICE). -/
def srcFw : EvSrc := ⟨0x1F, 0x0A, 0⟩
/-- Physical cluster c. Assumption 25 (DESIGN CHOICE). -/
def srcCl (c : Nat) : EvSrc := ⟨c / 32, 1, c⟩
/-- M-stack k. Assumption 25 (DESIGN CHOICE). -/
def srcStack (k : Nat) : EvSrc := ⟨0x10 + k, 2, k⟩
/-- Rynar port k. -/
def srcPort (k : Nat) : EvSrc := ⟨0x1C + k / 8, 4, k⟩
/-- Update engine of T-die k. -/
def srcEngine (k : Nat) : EvSrc := ⟨0x18 + k, 6, k⟩
/-- Beryl context c. -/
def srcBeryl (c : Nat) : EvSrc := ⟨0x1F, 7, c⟩
/-- The noise source. -/
def srcNoise : EvSrc := ⟨0x1F, 8, 0⟩
/-- Quartz. -/
def srcQuartz : EvSrc := ⟨0x1F, 9, 0⟩
/-- Supply, on the carrier. Assumption 25 (DESIGN CHOICE). -/
def srcPower : EvSrc := ⟨0x20, 0x0B, 0⟩
/-- Run permits. Assumption 25 (DESIGN CHOICE). -/
def srcPermit : EvSrc := ⟨0x20, 0x0C, 0⟩

/-- Does a code define the detail field of its event (15, R523). Assumption 25 (DESIGN CHOICE). -/
def detailGiven (code : Nat) : Bool :=
  [0x0206, 0x0240, 0x0290, 0x02C0, 0x02C1, 0x02E0, 0x02F6, 0x0401, 0x0480, 0x04B3, 0x04C0, 0x04E2, 0x04F1, 0x0502, 0x0560,
    0x0561, 0x0562, 0x0570, 0x05B0, 0x05B1, 0x05B4, 0x05B6, 0x05B8, 0x08E5].contains code

/-- TIME64 as a record carries it: Quartz, or the life clock while the main domain is off (15, R523; 19, R644).
Assumption 25 (DESIGN CHOICE). -/
def evTime (s : State) : Word64 := BitVec.ofNat 64 (if s.supplies.mainOn then s.quartz.ns else s.life.clock)

/-- The record of an event; p is a partition, or 15 for a module-wide event (15, R523).
Assumption 25 (DESIGN CHOICE). -/
def mkEvent (s : State) (src : EvSrc) (p code detail : Nat) : EvRec :=
  { time := evTime s, step := if p < 12 then BitVec.ofNat 64 (part s p).seq.step else 0,
    die := BitVec.ofNat 8 src.die, unit := BitVec.ofNat 8 src.unit, index := BitVec.ofNat 16 src.index,
    cls := BitVec.ofNat 16 (evSeverity code + 256 * p), code := BitVec.ofNat 16 code, detail := if detailGiven code then BitVec.ofNat 64 detail else Config.eventDetail code s.quartz.ns }

/-- The 32 bytes of a record (15, R523). -/
def evBytes (e : EvRec) : List Byte :=
  leBytes 8 e.time.toNat ++ leBytes 8 e.step.toNat ++ [e.die, e.unit] ++ leBytes 2 e.index.toNat ++ leBytes 2 e.cls.toNat ++
    leBytes 2 e.code.toNat ++ leBytes 8 e.detail.toNat

/-- Severity of a record. -/
def evSev (e : EvRec) : Nat := bits e.cls.toNat 0 4

/-- Partition field of a record. -/
def evPart (e : EvRec) : Nat := bits e.cls.toNat 8 4

/-- Write host memory. Assumption 11 (DESIGN CHOICE). -/
def hostWrite (s : State) (a : Nat) (d : List Byte) : State := { s with host := { s.host with mem := memWrite s.host.mem a d } }

/-- Hold a write toward the host until the link returns (17, R558). Assumption 11 (DESIGN CHOICE); 73 (DEDUCED). -/
def holdWrite (s : State) (w : HostWrite) : State := { s with host := { s.host with held := s.host.held ++ [w] } }

/-- A write of the endpoint to host memory: performed while the link is up, held while it is down (17, R558).
Assumption 11 (DESIGN CHOICE); 73 (DEDUCED). -/
def toHost (s : State) (a : Nat) (d : List Byte) : State := if s.host.up then hostWrite s a d else holdWrite s (.data a d)

/-- Read host memory. Assumption 11 (DESIGN CHOICE). -/
def hostRead (s : State) (a n : Nat) : List Byte := memRead s.host.mem a n

/-- Raise MSI-X vector v of function k: pending while its table entry is masked, sent otherwise (17, MSIX_TABLE).
Assumption 73 (DEDUCED). -/
def raiseVector (s : State) (k v : Nat) : State :=
  let f := fnOf s k
  if f.msix.getLsbD (128 * v + 96) then withFn s k (fun x => { x with pba := x.pba ||| BitVec.ofNat 3 (2 ^ v) })
  else { s with host := { s.host with irqs := s.host.irqs ++ [(k, v)] } }

/-- Write one record to the event ring of function k, or drop it (17, R579; 15, R525). -/
def ringEvent (k : Nat) (e : EvRec) (s : State) : State :=
  let f := fnOf s k
  let n := f.evtSize.toNat
  let nx := if n = 0 then 0 else (f.evtTail.toNat + 1) % n
  if n = 0 || nx = f.evtHead.toNat then
    { (withFn s k (fun x => { x with status := x.status ||| 2 })) with
      faults := { s.faults with lostHost := satInc s.faults.lostHost 1 } }
  else
    raiseVector (hostWrite (withFn s k (fun x => { x with evtTail := BitVec.ofNat 32 nx }))
      (f.evtBaseEff.toNat + 32 * f.evtTail.toNat) (evBytes e)) k 1

/-- Does function k receive a record (17, R579). -/
def fnReceives (s : State) (e : EvRec) (k : Nat) : Bool :=
  (k = 0 || evPart e = 15 || evPart e + 1 = k) && decide (bits (fnOf s k).evtFilter.toNat 0 4 ≤ evSev e)

/-- Deliver a record to the host event rings, or hold it while the link is down (17, R558, R579). -/
def hostEvent (s : State) (e : EvRec) : State :=
  ((List.range 13).filter (fnReceives s e)).foldl (fun t k =>
    if t.host.up then ringEvent k e t else holdWrite t (.event k e)) s

/-- The collectors that are enabled and admit a record (18, R600). Assumption 67 (DEDUCED). -/
def collAdmits (c : Collector) (sev : Nat) : Bool := c.enable && decide (c.sev ≤ sev)

/-- One bit for each of the first w truth values of a list. -/
def bitsOfList (w : Nat) (l : List Bool) : BitVec w :=
  BitVec.ofNat w ((l.zipIdx).foldl (fun n e => if e.1 then n + 2 ^ e.2 else n) 0)

/-- Collectors that are enabled and ACTIVE. -/
def collActive (m : Mgmt) : BitVec 4 := bitsOfList 4 (m.coll.map (fun c => c.enable && c.st = 1))

/-- Count a record that is freed while a STALE collector has not acknowledged it (18, R602). -/
def countMissed (owed : BitVec 4) (cs : List Collector) : List Collector :=
  cs.mapIdx (fun i c => if c.st = 2 && owed.getLsbD i then { c with missed := satInc c.missed 1 } else c)

/-- Put a record into the management queue, or drop it for management alone; a record that only STALE collectors admit is freed at
once (15, R525; 18, R600, R602). -/
def mgmtEvent (s : State) (e : EvRec) : State :=
  let m := s.mgmt
  let owed : BitVec 4 := bitsOfList 4 (m.coll.map (fun c => collAdmits c (evSev e)))
  if owed &&& collActive m = 0 then { s with mgmt := { m with coll := countMissed owed m.coll } }
  else if 1024 ≤ m.queue.length then { s with faults := { s.faults with lostMgmt := satInc s.faults.lostMgmt 1 } }
  else { s with mgmt := { m with queue := m.queue ++ [{ id := m.lastId + 1, ev := e, owed := owed }], lastId := m.lastId + 1 } }

/-- Enter a record of severity 2 or above into the life record (15, R525; 19, R642). -/
def lifeEvent (s : State) (e : EvRec) : State :=
  if evSev e < 2 then s
  else
    let l := s.life.log ++ [e]
    { s with
      life := { s.life with
                log := if 4096 < l.length then l.drop 1 else l, over_ := if 4096 < l.length then s.life.over_ + 1 else s.life.over_ } }

/-- Send an event on both paths (15, R525). The host path exists while the main domain is on. -/
def sendEvent (s : State) (src : EvSrc) (p code detail : Nat) : State :=
  let e := mkEvent s src p code detail
  lifeEvent (mgmtEvent (if s.supplies.mainOn then hostEvent s e else s) e) e

/-- Free the records of the management queue that no ACTIVE collector has still to acknowledge (18, R602).
Assumption 67 (DEDUCED). -/
def mgmtFree (m : Mgmt) : Mgmt :=
  let act := collActive m
  let gone := m.queue.filter (fun r => r.owed &&& act = 0)
  { m with
    queue := m.queue.filter (fun r => !(r.owed &&& act = 0)), coll := gone.foldl (fun cs r => countMissed r.owed cs) m.coll }

/-- Warning and failure levels of a monitored unit (15, R502). -/
def healthLevels (unit : Nat) : Option (Nat × Option Nat × Nat) :=
  match unit with
  | 1 => some (256, some 1024, 1)
  | 2 => some (16384, some 65536, 16)
  | 3 => some (256, none, 1)
  | 4 => some (1024, none, 4)
  | 5 => some (64, some 1024, 1)
  | 6 => some (256, some 1024, 1)
  | _ => none

/-- The score entry of a unit (15, R502). -/
def healthOf (s : State) (u : EvSrc) : Health :=
  match s.faults.health.find? (fun h => h.die = u.die && h.unit = u.unit && h.index = u.index) with
  | some h => h
  | none => { die := u.die, unit := u.unit, index := u.index, score := 0, warned := false, down := false }

/-- Keep the score entry of a unit. -/
def setHealth (s : State) (h : Health) : State :=
  let rest := s.faults.health.filter (fun x => !(x.die = h.die && x.unit = h.unit && x.index = h.index))
  { s with faults := { s.faults with health := if h.score = 0 && !h.warned && !h.down then rest else rest ++ [h] } }

/-- Add to a health score; a score that rises to its warning level sends event 0x04B3 once, enters the life record and is a
checkpoint trigger. True where it reached its failure level now (15, R502 to R504; 16, R537). -/
def addHealth (s : State) (u : EvSrc) (w : Nat) : State × Bool :=
  match healthLevels u.unit with
  | none => (s, false)
  | some (warn, fail, _) =>
    let h := healthOf s u
    let sc := satInc h.score w
    let warns := decide (warn ≤ sc.toNat) && !h.warned
    let fails := (match fail with | some f => decide (f ≤ sc.toNat) | none => false) && !h.down
    let s1 := setHealth s { h with score := sc, warned := h.warned || warns, down := h.down || fails }
    let s2 := if warns then
        let t := sendEvent s1 u 15 0x04B3 sc.toNat
        { t with
          life := { t.life with health := t.life.health ++ [(u.die, u.unit, u.index, false)] },
          parts := t.parts.map (fun q => if jobActive q then { q with ck := { q.ck with pending := true } } else q) }
      else s1
    (if fails then { s2 with life := { s2.life with health := s2.life.health ++ [(u.die, u.unit, u.index, true)] } } else s2,
     fails)

/-- Free spares: neither disabled nor named in the table, lowest first (01, disabled-unit map). -/
def freeSpares (g : Grid) : List Nat :=
  (List.range 512).filter (fun c => !g.disabled.getLsbD c && !g.table.contains c)

/-- Free spares that a test window does not use (15, R509, R521). -/
def sparesNow (s : State) : List Nat :=
  (freeSpares s.grid).filter (fun c => match s.faults.tw with | some w => w.phys != c && w.stand != c | none => true)

/-- The lowest free spare on the same C-die, or failing that on the module (01, R26; 15, R509). -/
def spareFor (s : State) (phys : Nat) (skip : List Nat) : Option Nat :=
  let l := (sparesNow s).filter (fun c => !skip.contains c)
  match l.find? (fun c => c / 32 = phys / 32) with
  | some c => some c
  | none => l.head?

/-- A resource warning when the free spares fall to 2 or fewer, once per transition (01, R30).
Assumption 42 (DEDUCED). -/
def spareWarn (s : State) : State :=
  let low := decide ((sparesNow s).length ≤ 2)
  let s1 := if low && !s.grid.spareLow then sendEvent s srcFw 15 0x04B0 (sparesNow s).length else s
  { s1 with grid := { s1.grid with spareLow := low } }

/-- The tested cluster of the open window returns to its logical index, and the window is over (15, R521; 01, R29). -/
def twReturn (s : State) : State :=
  match s.faults.tw with
  | none => s
  | some w =>
    { s with
      faults := { s.faults with tw := none },
      grid := { s.grid with table := if w.phase = .waitOpen then s.grid.table else s.grid.table.set w.lcl w.phys } }

/-- A window has run to its end: it counts, and its cluster is the one tested last (15, R521, R522). -/
def twDone (s : State) (l : Nat) : State :=
  { s with faults := { s.faults with twDone := satInc s.faults.twDone 1, twLast := some l } }

/-- A boundary of a partition stands under the hold of cause 8: the stand-in takes over, or the tested cluster comes back
(15, R521 steps 1 and 3). -/
def twBoundary (s : State) (p : Nat) : State :=
  let t := withPart s p (withSeq (fun x => { x with holds := x.holds &&& 0xFEFF }))
  match s.faults.tw with
  | none => t
  | some w =>
    if partOfCl s w.lcl != some p then t
    else match w.phase with
      | .waitOpen =>
        { t with
          faults := { t.faults with tw := some { w with phase := .testing } },
          grid := { t.grid with table := t.grid.table.set w.lcl w.stand } }
      | .testing => t
      | .waitClose => twDone (twReturn t) w.lcl

/-- The job of a partition ends while a window stands for one of its clusters (15, R522). -/
def twJobEnd (s : State) (p : Nat) : State :=
  match s.faults.tw with
  | none => s
  | some w =>
    if partOfCl s w.lcl != some p then s
    else match w.phase with
      | .waitOpen => twReturn s
      | .testing => s
      | .waitClose => twDone (twReturn s) w.lcl

end Sys2Proof.Machine
end

