-- ==== Sys2Proof/Machine/MemTier.lean ====
section
/-! DEFINITION. The HBM tier: placement of a line, poison and reconstruction, committed writes with fingerprint, journal and
copy-on-write, stack failure, rebuild and line errors (10, R314 to R339; 02, R70 to R76; 15, R492; 16, R540). -/

namespace Sys2Proof.Machine

/-- Region units of each stack in a partition's slice (10). -/
def unitsS (s : State) : Nat := 192 / planCount s

/-- Is the offset in the protected region (10, R314). -/
def offProt (off : Nat) : Bool := off.testBit 47

/-- Byte offset in the region (10, R314). -/
def offO (off : Nat) : Nat := bits off 0 42

/-- An HBM-space offset of the protected region. -/
def protOff (o : Nat) : Nat := 2 ^ 47 + o

/-- Bytes of the protected data (10, R317). -/
def protBytes (q : Partition) : Nat := 7 * q.mem.p * 2 ^ 28

/-- Bytes of a region (10, R317). -/
def regionBytes (q : Partition) (off : Nat) : Nat := if offProt off then protBytes q else q.mem.live.length * q.mem.u * 2 ^ 28

/-- Does a local access lie in the slice (10, R317, R342). -/
def inSlice (q : Partition) (off n : Nat) : Bool := bits off 42 5 = 0 && decide (offO off + n ≤ regionBytes q off)

/-- Where a line lies. -/
structure LinePlace where
  /-- Its stack. -/
  stack : Nat
  /-- Stack address of the line. -/
  addr : Nat
  /-- The other stacks of its stripe, parity included; empty in the unprotected region. -/
  others : List Nat
deriving DecidableEq, Repr

/-- The stacks of the layout that holds a protected byte (10, R334): survivors from the rebuild pointer up. -/
def layoutAt (m : MemRegs) (o : Nat) : List Nat := if !m.survivors.isEmpty && decide (m.ptr ≤ o / 1536) then m.survivors else m.prot

/-- Stack and address of a granule of a protected layout (10, R318 `map_prot`). -/
def mapProt (live : List Nat) (base o : Nat) : LinePlace :=
  let nl := live.length
  let g := o / 256
  let t := g / (nl - 1)
  let pst := nth live (nl - 1 - t % nl)
  let st := nth (live.filter (fun k => k != pst)) (g % (nl - 1))
  { stack := st, addr := base + t * 256 + o % 256 / 64 * 64, others := live.filter (fun k => k != st) }

/-- Where the line of an offset lies (10, R318). -/
def placeOf (s : State) (p off : Nat) : LinePlace :=
  let q := part s p
  let base := p * unitsS s * 2 ^ 28
  let o := offO off
  if offProt off then mapProt (layoutAt q.mem o) (base + q.mem.u * 2 ^ 28) o
  else
    let nl := q.mem.live.length
    { stack := nth q.mem.live (o / 256 % nl), addr := base + o / 256 / nl * 256 + o % 256 / 64 * 64, others := [] }

/-- Key of a line in the poison map. -/
def lineKey (k a : Nat) : Nat := k * 2 ^ 30 + a / 64

/-- Is a stack readable: in service or withdrawn (10, R331, R339). -/
def stackUp (s : State) (k : Nat) : Bool := nth s.tiers.hbmStacks k != 1

/-- Is a line marked poisoned. -/
def lineMarked (s : State) (k a : Nat) : Bool := memGet s.tiers.poison (lineKey k a) != 0

/-- Can a granule line be read from its stack. -/
def granuleOk (s : State) (a k : Nat) : Bool := stackUp s k && !lineMarked s k a

/-- Does a line deliver its data: directly, or by reconstruction from its stripe (10, R326, R333). -/
def lineOk (s : State) (pl : LinePlace) : Bool :=
  !lineMarked s pl.stack pl.addr && (stackUp s pl.stack || (!pl.others.isEmpty && pl.others.all (granuleOk s pl.addr)))

/-- Nothing on the module is poisoned and no stack has failed. -/
def tierClean (s : State) : Bool := s.tiers.poison.isEmpty && s.tiers.hbmStacks.all (fun x => x != 1)

/-- The lines that n bytes at an offset touch. -/
def hbmLines (off n : Nat) : List Nat :=
  if n = 0 then [] else (List.range ((off % 64 + n + 63) / 64)).map (fun i => off / 64 * 64 + 64 * i)

/-- Poisoned lines of a range. -/
def hbmBad (s : State) (p off n : Nat) : List Nat :=
  if tierClean s then [] else (hbmLines off n).filter (fun l => !lineOk s (placeOf s p l))

/-- Bytes of a range of the slice; poisoned lines read as zero (10, R329). -/
def hbmBytes (s : State) (p off n : Nat) : List Byte :=
  let raw := memRead (part s p).hbm off n
  match hbmBad s p off n with
  | [] => raw
  | bad => raw.mapIdx (fun i x => if bad.contains ((off + i) / 64 * 64) then 0 else x)

/-- The number held little-endian at an offset. -/
def hbmLe (s : State) (p off n : Nat) : Nat := leNat (hbmBytes s p off n)

/-- Change MT_ registers of a partition. -/
def withMem (s : State) (p : Nat) (f : MemRegs → MemRegs) : State := withPart s p (fun q => { q with mem := f q.mem })

/-- Count poisoned lines that were delivered (10, R329). -/
def countPoisonRead (s : State) (p n : Nat) : State :=
  if n = 0 then s else withMem s p (fun m => { m with read := satInc m.read n })

/-- What a write of bytes is (02, R70, R73; 15, R492). -/
inductive WKind where
  /-- A committed write that the HBM journal covers. -/
  | committed
  /-- A committed write of the update engine, which undo records cover (11, R375). -/
  | engine
  /-- Not a committed write. -/
  | quiet
deriving DecidableEq, Repr

/-- Append a journal record for a protected line of a running step (15, R492, R493). -/
def journalHbm (s : State) (p line : Nat) : State :=
  withPart s p (fun q =>
    if q.st != .running || !offProt line then q
    else
      let room := decide (128 * (q.se.journal.length + 1) ≤ q.se.hjBytesEff.toNat)
      let rec_ : HbmRec := { off := line, step := q.seq.step, old := BitVec.ofNat 512 (memLe q.hbm line 64),
                             poison := !lineOk s (placeOf s p line) }
      let ring := q.se.hjBytesEff.toNat / 128
      { q with
        hbm := if room then
            memWrite q.hbm (protOff (q.se.hjOffEff.toNat + 128 * (q.se.hjNext % ring)))
              (leBytes 8 line ++ leBytes 8 q.seq.step ++ List.replicate 48 0 ++ leBytes 64 rec_.old.toNat)
          else q.hbm,
        se := { q.se with
                hjNext := if room then q.se.hjNext + 1 else q.se.hjNext,
                journal := if room then q.se.journal ++ [rec_] else q.se.journal,
                hjPeak := if room then BitVec.ofNat 64 (max q.se.hjPeak.toNat (q.se.journal.length + 1)) else q.se.hjPeak,
                unreplayable := q.se.unreplayable || !room } })

/-- Copy a line of an open cut before a later write reaches it (16, R540). -/
def cowLine (q : Partition) (line : Nat) : Partition :=
  match q.ck.stream with
  | none => q
  | some c =>
    let named := c.sections.any (fun x => x.kind = 1 && decide (x.off ≤ line) && decide (line < x.off + x.len))
    if !named || c.kept.any (fun e => e.1 = line) then q
    else
      { q with
        ck := { q.ck with
                cow := satInc q.ck.cow 1,
                stream := some { c with kept := c.kept ++ [(line, BitVec.ofNat 512 (memLe q.hbm line 64))] } } }

/-- Add one committed line to the fingerprint of the step (02, R70, R71, R75): address name, first byte, bytes. -/
def addLine (q : SeqState) (addr lo : Nat) (seg : List Byte) : SeqState :=
  let data := List.replicate lo (0 : Byte) ++ seg ++ List.replicate (64 - lo - seg.length) (0 : Byte)
  let h := lineHash addr ((2 ^ seg.length - 1) * 2 ^ lo) data
  { q with fpLo := q.fpLo + BitVec.ofNat 64 h.1, fpHi := q.fpHi + BitVec.ofNat 64 h.2, lines := q.lines + 1 }

/-- Fingerprint address of an HBM line (02, R71). -/
def fpHbm (line : Nat) : Nat := 2 ^ 60 + line

/-- The segments of a write by 64-byte line: line offset, first byte in the line, bytes. -/
def segments (off : Nat) (d : List Byte) : List (Nat × Nat × List Byte) :=
  (hbmLines off d.length).map (fun l =>
    let a := max l off
    (l, a - l, (d.drop (a - off)).take (l + 64 - a)))

/-- Clear the poison mark of a line. -/
def unmark (s : State) (k a : Nat) : State :=
  { s with tiers := { s.tiers with poison := memSet s.tiers.poison (lineKey k a) 0 } }

/-- Set a poison mark. -/
def markLine (s : State) (k a : Nat) : State :=
  { s with tiers := { s.tiers with poison := memSet s.tiers.poison (lineKey k a) 1 } }

/-- The data of one line written where its state allows it (10, R321, R327, R332, R333). Assumption 36 (DEDUCED). -/
def storeSeg (s : State) (p : Nat) (seg : Nat × Nat × List Byte) : State :=
  let pl := placeOf s p seg.1
  let put (t : State) : State := withPart t p (fun q => { q with hbm := memWrite q.hbm (seg.1 + seg.2.1) seg.2.2 })
  let whole := decide (seg.2.2.length = 64)
  if tierClean s then put s
  else if pl.others.isEmpty && !stackUp s pl.stack then
    let first := !(part s p).mem.sentLost
    let t := withMem s p (fun m => { m with lostWr := satInc m.lostWr 1, lostWrite := true, sentLost := true })
    if first then sendEvent t (srcStack pl.stack) p 0x0564 0 else t
  else if lineOk s pl then put s
  else if !whole then s
  else
    let t := put (unmark s pl.stack pl.addr)
    pl.others.foldl (fun u k => if granuleOk s pl.addr k then u else markLine u k pl.addr) t

/-- Write bytes in the slice of a partition, the range being inside it. -/
def hbmStore (k : WKind) (s : State) (p off : Nat) (d : List Byte) : State :=
  (segments off d).foldl (fun t seg =>
    let t1 := if k = .committed then journalHbm t p seg.1 else t
    let t2 := withPart t1 p (fun q =>
      let q1 := cowLine q seg.1
      if k = .quiet || q.st != .running then q1 else { q1 with seq := addLine q1.seq (fpHbm seg.1) seg.2.1 seg.2.2 })
    storeSeg t2 p seg) s

/-- Write runs of bytes. -/
def hbmRuns (k : WKind) (s : State) (p : Nat) (runs : List (Nat × List Byte)) : State :=
  runs.foldl (fun t r => hbmStore k t p r.1 r.2) s

/-- Zero the slice of a partition and remove its poison entries (10, R319, R320). Assumption 8 (DESIGN CHOICE). -/
def zeroSlice (s : State) (p : Nat) : State :=
  let lo := p * unitsS s * 2 ^ 22
  let n := unitsS s * 2 ^ 22
  let t := withPart s p (fun q => { q with hbm := [] })
  { t with
    tiers := { t.tiers with
               poison := (List.range 8).foldl (fun m k => memClear m (k * 2 ^ 30 + lo) (k * 2 ^ 30 + lo + n)) t.tiers.poison } }

/-- Failed stacks of a list. -/
def failedIn (s : State) (l : List Nat) : List Nat := l.filter (fun k => !stackUp s k)

/-- Stripes t in [a, b) whose parity lies on position i of a layout of nl stacks. -/
def parityStripes (nl i a b : Nat) : Nat :=
  let upto (n : Nat) : Nat := (n + i) / nl
  upto b - upto a

/-- Data lines that lie on the failed stacks of a layout with two failures or more, in stripes a to b − 1 (10, R337).
Assumption 36 (DEDUCED). -/
def lostLines (s : State) (live : List Nat) (a b : Nat) : Nat :=
  let nl := live.length
  if b ≤ a || (failedIn s live).length < 2 then 0
  else 4 * (((List.range nl).filter (fun i => !stackUp s (nth live i))).map (fun i => (b - a) - parityStripes nl i a b)).foldl
    (· + ·) 0

/-- New stripes of a 6+1 layout (10, R334). -/
def newStripes (m : MemRegs) : Nat := (7 * m.p * 2 ^ 28 + 1535) / 1536

/-- Protected lines that can no longer be reconstructed because of failed stacks (10, R337). -/
def unreadable (s : State) (m : MemRegs) : Nat :=
  if m.survivors.isEmpty then lostLines s m.prot 0 (m.p * 2 ^ 20)
  else
    let g := 6 * m.ptr
    let edge := if (failedIn s m.prot).length < 2 then 0 else
      4 * ((List.range (g % 7)).filter (fun j => !stackUp s (mapProt m.prot 0 ((g / 7 * 7 + j) * 256)).stack)).length
    lostLines s m.prot 0 (g / 7) + edge + lostLines s m.survivors m.ptr (newStripes m)

/-- Reserve that a rebuild needs (10, R334). -/
def reserveOk (m : MemRegs) : Bool := decide ((7 * m.p + 5) / 6 - m.p ≤ m.v)

/-- A protected region after the failure of stack k; the stack states are new already (10, R331 to R337, R339).
Assumption 36 (DEDUCED). -/
def regionFail (s : State) (k : Nat) (m : MemRegs) : MemRegs :=
  let f := (failedIn s (List.range 8)).length
  if 3 ≤ f then { m with state := .lost, stopped := m.state = .rebuilding || m.stopped }
  else match m.state with
    | .normal =>
      if reserveOk m then
        let n := newStripes m
        { m with state := if n = 0 then .rebuilt else .rebuilding, survivors := m.prot.filter (fun x => x != k), ptr := n }
      else { m with state := .degraded }
    | .degraded => { m with state := .lost }
    | .withdrawn => if f < 2 then m else { m with state := .lost }
    | .rebuilt => { m with state := .rebuiltDegraded }
    | _ => m

/-- A stack fails (10, R331 to R338). Assumption 36 (DEDUCED). -/
def stackFail (s : State) (k : Nat) : State :=
  if !stackUp s k then s
  else
    let s0 : State :=
      { s with
        tiers := { s.tiers with hbmStacks := s.tiers.hbmStacks.set k 1 },
        life := { s.life with hbmStacks := s.life.hbmStacks ||| BitVec.ofNat 8 (2 ^ k) } }
    let s1 := sendEvent s0 (srcStack k) 15 0x0561 k
    (List.range (planCount s)).foldl (fun t p =>
      let m0 := (part t p).mem
      let m1 := regionFail s0 k m0
      let lost := unreadable s0 m1 - unreadable s m0
      let t1 := withMem t p (fun _ => m1)
      let t2 := if m1.state = .degraded && m0.state = .normal && !m0.sentReserve then
          withMem (sendEvent t1 srcFw p 0x0460 0) p (fun m => { m with sentReserve := true }) else t1
      if lost = 0 then t2 else sendEvent t2 (srcStack k) p 0x0562 lost) s1

/-- Entries of a stack's poison directory (10, R327, R328). -/
def dirEntries (s : State) (k : Nat) : Nat := (memSlice s.tiers.poison (k * 2 ^ 30) (2 ^ 30)).length

/-- Enter a line into its stack's directory; a full directory fails the stack (10, R328). -/
def addEntry (s : State) (k a : Nat) : State :=
  if lineMarked s k a then s
  else if !stackUp s k then markLine s k a
  else if 4096 ≤ dirEntries s k then stackFail s k
  else
    let t := markLine s k a
    if decide (4096 - dirEntries t k < 256) && !t.tiers.sentDir.getLsbD k then
      sendEvent { t with tiers := { t.tiers with sentDir := t.tiers.sentDir ||| BitVec.ofNat 8 (2 ^ k) } } (srcStack k) 15 0x0461 k
    else t

/-- What a physical line holds: a data line at an offset, or a parity line with the stacks of its stripe's data. -/
inductive LineRole where
  | data (off : Nat)
  | parity (data : List Nat)
  | spare
deriving DecidableEq, Repr

/-- The role of the line at stack address a of stack k in the slice of partition p (10, R316, R318, R334). -/
def roleOf (s : State) (p k a : Nat) : LineRole :=
  let m := (part s p).mem
  let rel := a - p * unitsS s * 2 ^ 28
  let unp := m.u * 2 ^ 28
  if rel < unp then
    match m.live.findIdx? (· = k) with
    | some i => .data ((rel / 256 * m.live.length + i) * 256 + rel % 256 / 64 * 64)
    | none => .spare
  else
    let t := (rel - unp) / 256
    let live := if !m.survivors.isEmpty && decide (m.ptr ≤ t) then m.survivors else m.prot
    let nl := live.length
    let pst := nth live (nl - 1 - t % nl)
    let dat := live.filter (fun x => x != pst)
    let inUse := decide (t < (if live = m.prot then m.p * 2 ^ 20 else newStripes m)) && live.contains k
    if !inUse then .spare
    else if k = pst then .parity dat
    else
      let o := (t * (nl - 1) + dat.findIdx (· = k)) * 256 + (rel - unp) % 256 / 64 * 64
      if live = m.prot && !m.survivors.isEmpty && decide (m.ptr ≤ o / 1536) then .spare
      else if protBytes (part s p) ≤ o then .spare else .data (protOff o)

/-- A line becomes poisoned (10, R326, R329; 15, R502). -/
def poisonLine (s : State) (p k a off : Nat) : State :=
  let t := withMem (addEntry s k a) p (fun m => { m with made := satInc m.made 1 })
  let u := sendEvent t (srcStack k) p 0x0560 (fpHbm off)
  let h := addHealth u (srcStack k) 64
  if h.2 then stackFail h.1 k else h.1

/-- A health weight of a stack, which fails at its failure level (15, R502, R504). -/
def stackHealth (s : State) (k w : Nat) : State :=
  let h := addHealth s (srcStack k) w
  if h.2 then stackFail h.1 k else h.1

/-- What on-die ECC reports of a line that is read (10, R325 to R327). -/
def lineError (s : State) (e : EccLine) : State :=
  let k := e.stack.toNat
  let a := e.line.toNat * 64
  let p := a / (unitsS s * 2 ^ 28)
  if planCount s = 0 || planCount s ≤ p || !granuleOk s a k then s
  else if !e.bad then stackHealth (withMem s p (fun m => { m with corr := satInc m.corr 1 })) k 1
  else
    let recon (t : State) : State := stackHealth (withMem t p (fun m => { m with recon := satInc m.recon 1 })) k 16
    match roleOf s p k a with
    | .spare => s
    | .parity dat => if dat.all (granuleOk s a) then recon s else addEntry s k a
    | .data off =>
      let pl := placeOf s p off
      if offProt off && pl.others.all (granuleOk s a) then recon s else poisonLine s p k a off

/-- Poisoned lines of a partition's protected region: marked data lines, and lines on failed stacks that cannot be
reconstructed because of a second failure (10, R330). -/
def poisonLive (s : State) (p : Nat) : Nat :=
  let lo := p * unitsS s * 2 ^ 22
  let n := unitsS s * 2 ^ 22
  let marks := (List.range 8).flatMap (fun k =>
    (memSlice s.tiers.poison (k * 2 ^ 30 + lo) n).map (fun e => (k, (e.1 - k * 2 ^ 30) * 64)))
  let roleData (k a : Nat) : Option Nat := match roleOf s p k a with | .data off => if offProt off then some off else none | _ => none
  let marked := (marks.filterMap (fun e => roleData e.1 e.2)).eraseDups
  let implied := (marks.flatMap (fun e =>
    ((List.range 8).filter (fun k => k != e.1 && !stackUp s k)).filterMap (fun k => roleData k e.2))).filter (fun off =>
      !marked.contains off && !lineOk s (placeOf s p off))
  let lost := unreadable s (part s p).mem
  if lost = 0 then marked.length + implied.eraseDups.length
  else lost + (marked.filter (fun off =>
    stackUp s (placeOf s p off).stack || ((placeOf s p off).others.filter (fun k => !stackUp s k)).isEmpty)).length

/-- Rebuild writes one new stripe (10, R334, R337). Assumption 36 (DEDUCED). -/
def rebuildStripe (s : State) (p : Nat) : State :=
  let m := (part s p).mem
  if m.state != .rebuilding || m.ptr = 0 then s
  else
    let t := m.ptr - 1
    let base := p * unitsS s * 2 ^ 28 + m.u * 2 ^ 28
    let lines := ((List.range 6).flatMap (fun g => (List.range 4).map (fun i => t * 1536 + g * 256 + i * 64))).filter
      (fun o => o < protBytes (part s p))
    let bad := lines.filter (fun o => !lineOk s (placeOf s p (protOff o)))
    let cleared := (List.range 4).foldl (fun u i => m.survivors.foldl (fun v k => unmark v k (base + t * 256 + i * 64)) u) s
    let moved := withMem cleared p (fun x => { x with ptr := t })
    let marked := bad.foldl (fun u o =>
      let pl := mapProt m.survivors base o
      addEntry u pl.stack pl.addr) moved
    if t != 0 then marked
    else
      let deg := !(failedIn marked m.survivors).isEmpty
      sendEvent (withMem marked p (fun x => { x with state := if x.state = .lost then .lost else if deg then .rebuiltDegraded
        else .rebuilt })) srcFw p 0x0566 0

/-- The stacks of a T-die that lost its column bridges are withdrawn (10, R339; 01, R21). -/
def withdraw (s : State) (die : Nat) : State :=
  let ks := [2 * die, 2 * die + 1]
  let t : State :=
    { s with
      tiers := { s.tiers with hbmStacks := s.tiers.hbmStacks.mapIdx (fun i x => if ks.contains i && x = 0 then 2 else x) },
      parts := s.parts.map (fun q => { q with
        mem := { q.mem with state := if q.mem.state = .normal || q.mem.state = .degraded then .withdrawn else q.mem.state } }) }
  sendEvent t (srcStack (2 * die)) 15 0x0563 die

/-- An access that is rejected (10, R342; 01, R43): counted, with its event. -/
def rejectAccess (s : State) (p : Nat) : State :=
  sendEvent (withMem s p (fun m => { m with reject := satInc m.reject 1 })) srcFw p 0x0565 0

end Sys2Proof.Machine
end

