-- ==== Sys2Proof/Machine/Flits.lean ====
section
/-! DEFINITION. Rynar flits and links: the 256 bytes of a flit, routes, credits, transmission, messages (12, R388 to R405). -/

namespace Sys2Proof.Machine

/-- The bytes of a flit word. -/
def wordBytes (w : BitVec 2048) : List Byte := leBytes 256 w.toNat

/-- The fields of the 256 bytes of a flit (12, R388). -/
def flitOf (b : List Byte) : Flit :=
  let f (lo n : Nat) : Nat := leNat ((b.drop lo).take n)
  { seq := f 0 2, ack := f 2 2, ltype := f 4 1, cvc := f 5 1, ccum := f 6 1, mtype := f 8 1, mflags := f 9 1, epoch := f 10 2,
    srcEpoch := f 12 2, job := f 14 2, dst := f 16 4, src := f 20 4, path := f 24 8, addr := f 32 8, step := f 40 8,
    frag := f 48 2, plen := f 50 1, attempt := f 51 1, arg := f 52 4, payload := (b.drop 56).take 192 }

/-- The 256 bytes of a flit with its CRC (12, R388). -/
def flitBytes (f : Flit) : List Byte :=
  let b := leBytes 2 f.seq ++ leBytes 2 f.ack ++ leBytes 1 f.ltype ++ leBytes 1 f.cvc ++ leBytes 1 f.ccum ++ [0] ++
    leBytes 1 f.mtype ++ leBytes 1 f.mflags ++ leBytes 2 f.epoch ++ leBytes 2 f.srcEpoch ++ leBytes 2 f.job ++
    leBytes 4 f.dst ++ leBytes 4 f.src ++ leBytes 8 f.path ++ leBytes 8 f.addr ++ leBytes 8 f.step ++ leBytes 2 f.frag ++
    leBytes 1 f.plen ++ leBytes 1 f.attempt ++ leBytes 4 f.arg ++ (f.payload ++ List.replicate (192 - f.payload.length) 0).take 192
  b ++ leBytes 8 (crc64Fp b)

/-- Is the CRC of 256 bytes right (12, R388). -/
def flitCrcOk (b : List Byte) : Bool := decide (crc64Fp (b.take 248) = leNat (b.drop 248))

/-- A flit of zeros. -/
def flitNone : Flit :=
  { seq := 0, ack := 0, ltype := 0, cvc := 0, ccum := 0, mtype := 0, mflags := 0, epoch := 0, srcEpoch := 0, job := 0, dst := 0,
    src := 0, path := 0, addr := 0, step := 0, frag := 0, plen := 0, attempt := 0, arg := 0, payload := [] }

/-- Virtual channel of a message type; none for a reserved type (12, message types). -/
def vcOf (m : Nat) : Option Nat :=
  match m with
  | 1 => some 0 | 2 => some 0 | 3 => some 0 | 4 => some 1 | 5 => some 0 | 6 => some 0 | 8 => some 2 | 9 => some 2
  | 0x10 => some 1 | 0x11 => some 1 | 0x12 => some 1 | 0x13 => some 1 | 0x18 => some 3 | 0x19 => some 3
  | _ => none

/-- Virtual channel that a flit names. -/
def flitVc (f : Flit) : Nat := bits f.mflags 4 2

/-- A reserved type, a reserved bit that is not zero, or too long a payload (12, R390). -/
def flitMalformed (f : Flit) : Bool :=
  (vcOf f.mtype).isNone || decide (64 ≤ f.mflags) || decide (2 ^ 18 ≤ f.dst) || decide (2 ^ 18 ≤ f.src) ||
    decide (2 ^ 56 ≤ f.path) || decide (192 < f.plen)

/-- `hop` of a path. -/
def pathHop (f : Flit) : Nat := bits f.path 48 4
/-- `nhops` of a path. -/
def pathN (f : Flit) : Nat := bits f.path 52 4
/-- Hop entry h. -/
def pathEntry (path h : Nat) : Nat := bits path (6 * h) 6

/-- Port k. -/
def portAt (s : State) (k : Nat) : LkPort := s.ports.getD k lkPortReset

/-- Change port k. -/
def withPort (s : State) (k : Nat) (f : LkPort → LkPort) : State := { s with ports := updAt s.ports k f }

/-- The link of a port, or of a half-port. -/
def linkAt (s : State) (k : Nat) (half : Bool) : Link := if half then (portAt s k).b else (portAt s k).a

/-- Change a link. -/
def withLink (s : State) (k : Nat) (half : Bool) (f : Link → Link) : State :=
  withPort s k (fun x => if half then { x with b := f x.b } else { x with a := f x.a })

/-- Does a port run the half-port named: half-port b only while split (12, R404). -/
def hasHalf (s : State) (k : Nat) (half : Bool) : Bool := !half || (portAt s k).splitAct

/-- Is a hop entry a port or half-port of partition p (12, R401, R404). -/
def hopOwned (s : State) (p e : Nat) : Bool :=
  partOfPort s (e % 32) = some p && hasHalf s (e % 32) (e.testBit 5)

/-- Credits that a receiver of a width advertises (12, R392). -/
def advertised (width : Nat) : List Nat := if width = 3 then [256, 256, 384, 64] else [128, 128, 192, 32]

/-- Entries of the replay buffer (12, R396). -/
def replayCap (width : Nat) : Nat := if width = 3 then 1024 else 512

/-- Set the link header of a flit that goes out: acknowledgement, and the credit report in rotation (12, R388, R393). -/
def stampFlit (l : Link) (f : Flit) : Flit × Link :=
  let rotated := (List.range 4).map (fun i => (l.rot + i) % 4)
  match rotated.find? (fun c => nth l.freed c != nth l.ccumTx c) with
  | some c => ({ f with ack := l.rxSeq, cvc := c, ccum := nth l.freed c },
      { l with ccumTx := l.ccumTx.set c (nth l.freed c), rot := (c + 1) % 4 })
  | none => ({ f with ack := l.rxSeq, cvc := l.rot, ccum := nth l.freed l.rot }, l)

/-- May a flit go out now (12, R392, R396). -/
def canSend (l : Link) (f : Flit) : Bool :=
  l.st = .active && nth l.credits (flitVc f) != 0 && decide (l.replay.length < replayCap l.width)

/-- The waiting flit that the next slot takes: control first, then responses, then requests and collectives; slots 2 and 3 of
every four prefer requests and collectives (12, R394). -/
def nextFlit (l : Link) : Option Nat :=
  let order := match l.txSeq % 4 with | 2 => [0, 3, 1, 2] | 3 => [2, 3, 1, 0] | _ => [3, 1, 0, 2]
  (order.filterMap (fun c => (l.txq.findIdx? (fun f => flitVc f = c && canSend l f)))).head?

/-- Send waiting flits while the link takes them; the count sent is added to `n`. Assumption 38 (DEDUCED). -/
def drainLink : Nat → Link → Nat → Link × Nat
  | 0, l, n => (l, n)
  | fuel + 1, l, n =>
    match nextFlit l with
    | none => (l, n)
    | some i =>
      let f := l.txq.getD i flitNone
      let st := stampFlit l { f with seq := l.txSeq, ltype := 1 }
      let c := flitVc f
      drainLink fuel { st.2 with
        txq := l.txq.eraseIdx i, replay := l.replay ++ [{ flit := st.1, tries := 0 }], txSeq := (l.txSeq + 1) % 65536,
        credits := l.credits.set c (nth l.credits c - 1) } (n + 1)

/-- Send what a link can send now. Assumption 3 (DESIGN CHOICE); 38 (DEDUCED). -/
def pumpLink (s : State) (k : Nat) (half : Bool) : State :=
  let l := linkAt s k half
  let r := drainLink l.txq.length l 0
  withPort (withLink s k half (fun _ => r.1)) k (fun x => { x with tx := satInc x.tx r.2 })

/-- Put a DATA flit to a link and send it as soon as the link takes it. -/
def queueFlit (s : State) (k : Nat) (half : Bool) (f : Flit) : State :=
  pumpLink (withLink s k half (fun l => { l with txq := l.txq ++ [f] })) k half

/-- Send an IDLE, NAK or TRAIN flit (12, R388, R393, R395, R412). -/
def controlFlit (s : State) (k : Nat) (half : Bool) (ltype : Nat) (payload : List Byte) : State :=
  withLink s k half (fun l =>
    let st := stampFlit l { flitNone with seq := l.txSeq, ltype := ltype, payload := payload }
    { st.2 with ctlq := l.ctlq.filter (fun f => ltype != 0 || f.ltype != 0) ++ [st.1] })

/-- The 16 bytes of the route table entry of rank r (12, R400). -/
def routeEntry (s : State) (p r : Nat) : List Byte := hbmBytes s p (protOff ((part s p).lk.baseEff + 16 * r)) 16

/-- Role epoch that the table gives rank r. -/
def routeEpoch (s : State) (p r : Nat) : Nat := leNat ((routeEntry s p r).drop 14)

/-- Hops of the primary or alternate route to rank r. -/
def routeHops (s : State) (p r : Nat) (alt : Bool) : Nat :=
  let nh := leNat (((routeEntry s p r).drop 6).take 1)
  if alt then nh / 16 else nh % 16

/-- Hop entries of the primary or alternate route to rank r. -/
def routePath (s : State) (p r : Nat) (alt : Bool) : Nat := leNat (((routeEntry s p r).drop (if alt then 8 else 0)).take 6)

/-- Send a flit of partition p to rank r by the route that its selection bit chooses, with a role epoch (12, R402, R403). -/
def routeAs (s : State) (p r epoch : Nat) (f : Flit) : State :=
  let alt := (part s p).lk.alt.contains r
  let path := routePath s p r alt
  let e := pathEntry path 0
  if (part s p).lk.countEff ≤ r || routeHops s p r alt = 0 || !hopOwned s p e then s
  else queueFlit s (e % 32) (e.testBit 5)
    { f with path := path + 2 ^ 48 + routeHops s p r alt * 2 ^ 52, epoch := epoch, dst := r }

/-- Send a flit with the role epoch of the table entry. -/
def routeFlit (s : State) (p r : Nat) (f : Flit) : State := routeAs s p r (routeEpoch s p r) f

/-- The message header that partition p gives a flit (12, R388). -/
def flitFrom (s : State) (p mtype : Nat) : Flit :=
  let q := part s p
  { flitNone with
    mtype := mtype, mflags := 16 * (vcOf mtype).getD 0, srcEpoch := q.lk.epochEff, job := q.lk.jobEff, src := q.job.rank,
    step := q.seq.step, attempt := q.seq.attempt % 256 }

/-- The pieces of a message: offset and bytes. A committed write is cut so that no 64-byte line spans two flits (12, R389). -/
def cutMsg (lines : Bool) : Nat → Nat → List Byte → List (Nat × List Byte)
  | 0, _, _ => []
  | fuel + 1, at_, d =>
    let k := if lines then 192 - at_ % 64 else 192
    if d.length ≤ k then [(at_, d)] else (at_, d.take k) :: cutMsg lines fuel (at_ + k) (d.drop k)

/-- Send a message to another rank, cut into flits (12, R389). -/
def sendMsg (s : State) (p r mtype addr arg : Nat) (poison : Bool) (d : List Byte) : State :=
  let pieces := cutMsg (mtype = 2 || mtype = 5 || mtype = 6) (d.length / 128 + 1) addr d
  (pieces.zipIdx).foldl (fun t e =>
    let last := decide (e.2 + 1 = pieces.length)
    let h := flitFrom t p mtype
    routeFlit t p r { h with
      addr := e.1.1, frag := e.2 % 65536, plen := e.1.2.length, arg := arg, payload := e.1.2,
      mflags := h.mflags + b2n last + 2 * b2n poison }) s

/-- A response or control flit of one flit (12, R405). -/
def sendReply (s : State) (p r mtype addr arg : Nat) : State := sendMsg s p r mtype addr arg false []

/-- Change LK_ registers of a partition. -/
def withLk (s : State) (p : Nat) (f : LkRegs → LkRegs) : State := withPart s p (fun q => { q with lk := f q.lk })

/-- A committed write message that awaits its ACK (12, R389). -/
def sendWrite (s : State) (p r mtype addr : Nat) (src : Option (Nat × Nat)) (poison : Bool) (d : List Byte) : State :=
  let t := withLk s p (fun l =>
    { l with acks := l.acks ++ [{ dst := r, tag := (part s p).seq.step % 2 ^ 32, src := src, addr := addr, len := d.length }] })
  sendMsg t p r mtype addr 0 poison d

/-- Bytes of FP32 elements with values added (06, R227). -/
def addElems (old : List Byte) (vals : List Nat) : List Byte :=
  ((chunksOf 4 vals.length old).zip vals).flatMap (fun e => leBytes 4 (add32 (leNat e.1) e.2))

/-- Add FP32 elements to memory of the slice as a committed write (06, R227; 13, R439). -/
def atomicAdd (s : State) (p off : Nat) (vals : List Nat) : State :=
  hbmStore .committed s p off (addElems (hbmBytes s p off (4 * vals.length)) vals)

/-- Write lines of the slice as poisoned: bytes written are zero, and each line becomes poisoned (10, R327, R329). -/
def hbmPoison (s : State) (p off n : Nat) : State :=
  (hbmLines off n).foldl (fun t l =>
    let pl := placeOf t p l
    let u := hbmStore .committed t p l (List.replicate 64 0)
    if stackUp u pl.stack then poisonLine u p pl.stack pl.addr l else u) s

/-- A rejected access of a cluster: `addr_reject`, the count and the event (10, R342). -/
def rejectAt (s : State) (p l : Nat) : State :=
  rejectAccess (withPart s p (fun q =>
    { q with
      clusters := updAt q.clusters l (fun c =>
        { c with core := { c.core with dma := { c.core.dma with status := c.core.dma.status ||| 16 } } }) })) p

/-- Change the DMA engine of local cluster l of a partition. -/
def withDma (s : State) (p l : Nat) (f : DmaUnit → DmaUnit) : State :=
  withPart s p (fun q =>
    { q with
      clusters := updAt q.clusters l (fun c => { c with core := { c.core with dma := f c.core.dma } }) })

/-- Mark of a flit: the stall cause it charges, if any (12, R406). -/
def flitMark (f : Flit) : Option Nat := if f.mflags.testBit 2 then some 4 else if f.mflags.testBit 3 then some 5 else some 6

/-- An item lands in a buffer of local cluster l (01, R36; 06, R221, R225). -/
def landItem (s : State) (p l i : Nat) (mark : Option Nat) : State :=
  withPart s p (fun q =>
    { q with
      clusters := updAt q.clusters l
        (clusterLand q.seq.cclk mark i q.job.debug q.seq.frozen (q.seq.ic - q.seq.ic0) q.seq.step) })

/-- A message of another rank, or of this one, arrives for a buffer (06, R225). -/
def landArrival (s : State) (p l : Nat) (a : Arrival) : State :=
  if (part s p).clusters.length ≤ l then s
  else landItem (withDma s p l (fun m => { m with port := m.port ++ [a] })) p l a.buf none

end Sys2Proof.Machine
end

