-- ==== Sys2Proof/Machine/View.lean ====
section
/-! DEFINITION. What a cluster sees of its partition in an issue cycle, its gang hops, and a cluster's registers as a state
section (01, R42; 04, R160 to R166; 06, R235; 16, R530, R531). -/

namespace Sys2Proof.Machine

/-- First module-wide logical cluster of a partition (01, R42). Assumption 71 (DESIGN CHOICE). -/
def clBase (s : State) (p : Nat) : Nat := p * clPer s

/-- Position in its partition of a module-wide logical cluster, if partition p holds it.
Assumption 71 (DESIGN CHOICE). -/
def localOf (s : State) (p l : Nat) : Option Nat := if partOfCl s l = some p then some (l - clBase s p) else none

/-- A loop-stack entry as SQ_LOOPn shows it (06, R235). -/
def loopWord (e : LoopEnt) : Nat := e.left % 2 ^ 21 * 2 ^ 32 + e.last * 2 ^ 16 + e.start

/-- The sequencer as the registers of the i-th cluster show it (06, R235; 08, R279). -/
def seqView (s : State) (p i : Nat) : SeqView :=
  let q := part s p
  let n := q.seq.loops.length
  { loopBits := b2n (n = 4) + min n 3 * 2, pc := q.seq.pc, entry := q.seq.entry, step := q.seq.step,
    bundles := q.seq.ic - q.seq.ic0, id := q.job.rank * 2 ^ 32 + p * 2 ^ 16 + (clBase s p + i),
    loops := q.seq.loops.map loopWord, stall := q.seq.stallStep, dbg := b2n q.job.debug + 4 * b2n q.seq.frozen }

/-- The four hops of a gang member. -/
inductive Hop where
  | north | west | south | east
deriving DecidableEq, Repr

/-- The logical cluster that a member names in a direction (04, TA_GANG_CFG). -/
def hopName (a : ArrayUnit) (h : Hop) : Nat :=
  bits a.gangEff.toNat (match h with | .north => 37 | .west => 28 | .south => 19 | .east => 10) 9

/-- The opposite direction. -/
def hopBack (h : Hop) : Hop := match h with | .north => .south | .west => .east | .south => .north | .east => .west

/-- Does the position of b differ by one from that of a in the direction (04, R160). -/
def hopFits (a b : ArrayUnit) (h : Hop) : Bool :=
  match h with
  | .south => gangRow b = gangRow a + 1 && gangCol b = gangCol a
  | .north => gangRow a = gangRow b + 1 && gangCol b = gangCol a
  | .east => gangCol b = gangCol a + 1 && gangRow b = gangRow a
  | .west => gangCol a = gangCol b + 1 && gangRow b = gangRow a

/-- The array of the i-th cluster of a partition. -/
def arrayAt (q : Partition) (i : Nat) : ArrayUnit := (q.clusters.getD i clusterReset).core.array

/-- The position of the cluster paired with the i-th one in a direction (04, R160). -/
def pairedHop (s : State) (p i : Nat) (h : Hop) : Option Nat :=
  let q := part s p
  let a := arrayAt q i
  if gangShape a = 0 then none
  else match localOf s p (hopName a h) with
    | none => none
    | some j =>
      let b := arrayAt q j
      if decide (j < q.clusters.length) && gangShape b = gangShape a && hopName b (hopBack h) = clBase s p + i && hopFits a b h
      then some j else none

/-- Consecutive paired hops in a direction, at most `fuel`. -/
def hopsFrom (s : State) (p : Nat) (h : Hop) : Nat → Nat → Nat
  | 0, _ => 0
  | fuel + 1, i => match pairedHop s p i h with
    | none => 0
    | some j => 1 + hopsFrom s p h fuel j

/-- The seed of a job as four words (09, R285). -/
def jobSeed (n : Nat) : Words4 := { w0 := bits n 0 32, w1 := bits n 32 32, w2 := bits n 64 32, w3 := bits n 96 32 }

/-- What the i-th cluster of a partition sees in the issue cycle of a bundle. -/
def envOf (s : State) (p : Nat) (pc : Nat) (b : Bundle) (evs : List Ev) (i : Nat) : Env :=
  let q := part s p
  let near (h : Hop) : Option ArrayUnit := (pairedHop s p i h).map (arrayAt q)
  { u := q.seq.ic, rel := q.seq.ic - q.seq.ic0, cclk := q.seq.cclk, pc := pc, step := q.seq.step, attempt := q.seq.attempt,
    seed := jobSeed q.job.seed, debug := q.job.debug, spot := q.se.ctrlEff.toNat.testBit 0, checker := !(sparesNow s).isEmpty,
    b := b, k := clBase s p + i, slice := (q.mem.live.length * q.mem.u * 2 ^ 28, protBytes q), seqEvs := evs,
    seq := seqView s p i, north := near .north, west := near .west, south := (pairedHop s p i .south).isSome,
    east := (pairedHop s p i .east).isSome, hopsN := hopsFrom s p .north 3 i, hopsW := hopsFrom s p .west 3 i }

/-- Route code of a hop: 0 none, 1 neighbour link, 2 relay, 3 unpaired (04, R160, R166). -/
def hopRoute (s : State) (p i : Nat) (h : Hop) : Nat :=
  let a := arrayAt (part s p) i
  if gangShape a = 0 || hopName a h = 0x1FF then 0
  else match pairedHop s p i h with
    | none => 3
    | some j =>
      let x := physOf s (clBase s p + i)
      let y := physOf s (clBase s p + j)
      let joined : Bool := match h with
        | .east => y = x + 1 && x % 8 != 7
        | .west => x = y + 1 && y % 8 != 7
        | .south => y = x + 8 && x / 32 = y / 32
        | .north => x = y + 8 && x / 32 = y / 32
      let k := match h with | .north => 0 | .west => 1 | .south => 2 | .east => 3
      let kb := match h with | .north => 2 | .west => 3 | .south => 0 | .east => 1
      if joined && !a.relayed.getLsbD k && !(arrayAt (part s p) j).relayed.getLsbD kb then 1 else 2

/-- TA_GANG_ROUTE of the i-th cluster (04, R160, R166). -/
def routeByte (s : State) (p i : Nat) : Nat :=
  hopRoute s p i .north * 64 + hopRoute s p i .west * 16 + hopRoute s p i .south * 4 + hopRoute s p i .east

/-- Does the i-th cluster stand at either end of a hop that is named and not paired (04, R160). -/
def hopLoose (s : State) (p i : Nat) : Bool :=
  let q := part s p
  let dirs : List Hop := [.north, .west, .south, .east]
  dirs.any (fun h => hopRoute s p i h = 3 ||
    (List.range q.clusters.length).any (fun j => localOf s p (hopName (arrayAt q j) h) = some i && hopRoute s p j h = 3))

/-- Firmware pairs the hops of a partition at a step boundary (04, R160). -/
def pairGangs (s : State) (p : Nat) : State :=
  let q := part s p
  if q.clusters.all (fun c => gangShape c.core.array = 0) then
    withPart s p (fun x => { x with
      clusters := x.clusters.map (fun c => { c with core := { c.core with array := { c.core.array with gangRoute := 0 } } }) })
  else
    withPart s p (fun x => { x with
      clusters := x.clusters.mapIdx (fun i c =>
        let rt := routeByte s p i
        let loose := hopLoose s p i
        let a := c.core.array
        { c with
          core := { c.core with
                    array := { a with gangRoute := BitVec.ofNat 8 rt, status := if loose then a.status ||| 64 else a.status } },
          trap :=
            if loose && q.job.debug then
              trapNote (q.seq.ic - q.seq.ic0) q.seq.step [{ kind := .gangUnpaired, slot := 3, pc := q.seq.pc, detail := 0 }] c.trap
            else c.trap }) })

/-- A register set's cells and its exponent store as bytes (16, R530). -/
def setCells (r : RegSet) : List Byte := (List.range 128).flatMap (fun i => leBytes 256 (memGet r.rows i).toNat)

/-- The exponent store as 1,024 s16 entries. -/
def setExps (r : RegSet) : List Byte :=
  (memRead r.exps 0 1024).flatMap (fun e => leBytes 2 (wrapU 16 (signExt 10 e.toNat)))

/-- A cluster state section of 94,720 bytes (16, R530). -/
def clusterSection (s : State) (p i : Nat) : List Byte :=
  let c := (part s p).clusters.getD i clusterReset
  let a := c.core.array
  let env := envOf s p 0 emptyBundle [] i
  setCells a.set0 ++ setCells a.set1 ++ setExps a.set0 ++ setExps a.set1 ++
    c.core.vec.v.flatMap (fun v => leBytes 512 v.toNat) ++ (List.range 32).flatMap (fun n => leBytes 8 (gReg c.core.scalar n).toNat) ++
    leBytes 1 (c.core.scalar.p.toNat ||| 1) ++ List.replicate 255 0 ++
    (List.range 2048).flatMap (fun r => leBytes 8 (ctlReg env.seq (opKey env) c.core c.trap r))

/-- The configuration that a TA_SETx_CFG word holds. -/
def setCfgOf (w : Nat) : SetCfg :=
  { complete := w.testBit 39, valid := w.testBit 38, mode := bits w 35 3, limb := bits w 33 2, square := w.testBit 32,
    fmt := bits w 28 4, bsize := bits w 25 3, shareMn := w.testBit 24, kLen := bits w 8 9, nLen := bits w 0 8 }

/-- A register set from its section bytes and its configuration word. -/
def setFrom (cells exps : List Byte) (w : Nat) : RegSet :=
  { rows := memWrite [] 0 ((chunksOf 256 128 cells).map (fun b => BitVec.ofNat 2048 (leNat b))),
    exps := memWrite [] 0 ((chunksOf 2 1024 exps).map (fun b => BitVec.ofNat 10 (leNat b))), cfg := setCfgOf w }

/-- A wide register from consecutive control indices. -/
def wideFrom (w : Nat) (r : Nat → Nat) (base quarters : Nat) : BitVec w :=
  BitVec.ofNat w (listRow 64 ((List.range quarters).map (fun j => r (base + j))))

/-- What a restore writes from a cluster state section: the registers of R531 and the rest of the section (16, R530, R531). -/
def clusterFrom (d : List Byte) (c : Cluster) : Cluster :=
  let cut (lo n : Nat) : List Byte := (d.drop lo).take n
  let r (i : Nat) : Nat := leNat (cut (78336 + 8 * i) 8)
  let w (i : Nat) : Word64 := BitVec.ofNat 64 (r i)
  let k := c.core
  { c with
    core :=
      { scalar := { k.scalar with
          g := 0 :: (List.range 31).map (fun n => BitVec.ofNat 64 (leNat (cut (77824 + 8 * (n + 1)) 8))),
          p := BitVec.ofNat 8 (leNat (cut 78080 1)) ||| 1, status := w 0 &&& 0x13FE },
        array := { k.array with
          set0 := setFrom (cut 0 32768) (cut 65536 2048) (r 0x101), set1 := setFrom (cut 32768 32768) (cut 67584 2048) (r 0x102),
          active := (r 0x100).testBit 15, status := w 0x100 &&& 0x1FE, vecCnt := w 0x105, loadCnt := w 0x106,
          gens := (List.range 4).map (fun g =>
            { base := w (0x110 + 8 * g), loop := w (0x111 + 8 * g), pitch := w (0x112 + 8 * g), coord := w (0x113 + 8 * g),
              stride := w (0x114 + 8 * g) }) },
        accum := { k.accum with rowCnt := w 0x201, drainCnt := w 0x202, inf := w 0x203, nan := w 0x204, loss := w 0x205 },
        conv := { k.conv with
          ctrl := w 0x300, status := w 0x301 &&& 0x3E, overrun := BitVec.ofNat 16 (bits (r 0x301) 48 16),
          descInvalid := BitVec.ofNat 16 (bits (r 0x301) 32 16), vanishStat := w 0x302, vanishStrm := w 0x303, nonfin := w 0x304,
          underflow := w 0x305, saturated := w 0x306,
          fdesc := (List.range 16).map (fun i => wideFrom 256 r (0x340 + 4 * i) 4),
          sdesc := (List.range 8).map (fun i => wideFrom 256 r (0x380 + 4 * i) 4) },
        vec := { k.vec with
          v := (chunksOf 512 16 (cut 69632 8192)).map (fun b => BitVec.ofNat 4096 (leNat b)), status := w 0x400, ops := w 0x401,
          nan := w 0x402, inf := w 0x403, domain := w 0x404 },
        opal := { k.opal with
          status := w 0x500 &&& 2, vrandCnt := w 0x501, srRows := w 0x502, seedCnt := w 0x503, busyCnt := w 0x504, altLo := w 0x508,
          altHi := w 0x509, srIdx := (List.range 8).map (fun i => w (0x510 + 2 * i)),
          srStr := (List.range 8).map (fun i => w (0x511 + 2 * i)) },
        dma := { k.dma with
          status := w 0x600, issued := w 0x601, atomicUsed := w 0x602, drop := w 0x603,
          desc := (List.range 32).map (fun i => wideFrom 128 r (0x610 + 2 * i) 2) } } }

end Sys2Proof.Machine
end

