-- ==== Sys2Proof/Machine/Agate.lean ====
section
/-! DEFINITION. Agate: the checkpoint map, images, commit records, the cut, streaming, drain and restore (16). The messages that
Agate sends to a buddy on another module are the model's own (log entry 31). -/

namespace Sys2Proof.Machine

/-- Change CK_ registers of a partition. -/
def withCk (s : State) (p : Nat) (f : CkRegs → CkRegs) : State := withPart s p (fun q => { q with ck := f q.ck })

/-- Round up to a multiple of 64. -/
def up64 (n : Nat) : Nat := ceilDiv n 64 * 64

/-- The fields of a map or section table entry (16, R528). -/
def ckEntry (b : List Byte) : CkSection :=
  let f (lo n : Nat) : Nat := leNat ((b.drop lo).take n)
  { kind := f 0 1, flags := f 1 1, cell := f 2 2, off := f 8 8, len := f 16 8, img := f 24 8 }

/-- The 32 bytes of a section table entry (16, R528). -/
def ckBytes (x : CkSection) : List Byte :=
  leBytes 1 x.kind ++ leBytes 1 x.flags ++ leBytes 2 x.cell ++ leBytes 4 0 ++ leBytes 8 x.off ++ leBytes 8 x.len ++ leBytes 8 x.img

/-- Does a map entry keep R528 and R529. -/
def ckEntryOk (s : State) (p : Nat) (b : List Byte) : Bool :=
  let x := ckEntry b
  let q := part s p
  decide (x.flags ≤ 1) && leNat ((b.drop 4).take 4) = 0 && x.img = 0 && x.len % 64 = 0 &&
    (if x.kind = 1 then x.cell = 0 && x.off % 64 = 0 && decide (x.off < 2 ^ 48) && inSlice q x.off x.len
     else if x.kind = 2 then partOfCl s x.cell = some p && decide (x.off + x.len ≤ sramBytes)
     else false)

/-- The checkpoint map of a partition; none where it breaks R528. -/
def ckMap (s : State) (p : Nat) : Option (List CkSection) :=
  let q := part s p
  let base := q.ck.mapOffEff.toNat
  let head := hbmBytes s p (protOff base) 16
  let n := leNat (head.take 4)
  if n = 0 || 4096 < n || leNat (head.drop 4) != 0 || base % 64 != 0 || protBytes q < base + 16 + 32 * n ||
      !(hbmBad s p (protOff base) (16 + 32 * n)).isEmpty then none
  else
    let es := chunksOf 32 n (hbmBytes s p (protOff (base + 16)) (32 * n))
    if es.all (ckEntryOk s p) then some (es.map ckEntry) else none

/-- A Beryl context is bound to the job of a partition (14, R454). -/
def ctxBound (p : Nat) (c : QpCtx) : Bool := c.enable && c.part.toNat = p

/-- The words of a Beryl context section (16, R532). -/
def qpSection (v : QpVals) : List Byte :=
  let p := v.prob
  let ws := p.q ++ p.l ++ p.u ++ p.p.map (·.val) ++ p.a.map (·.val) ++ v.set ++ [qPow2 v.pe] ++ v.evec.map qPow2 ++ v.x ++ v.z ++
    v.y ++ [b2n v.stale]
  let b := ws.flatMap (leBytes 8)
  b ++ List.replicate (up64 b.length - b.length) 0

/-- Exponent of an FP64 power of two. -/
def qExp (w : Nat) : Int := fLog2 fmt64 w

/-- A context from its section: the factor is stale (14, R483; 16, R532, R547). -/
def qpFrom (d : List Byte) (v : QpVals) : QpVals :=
  let n := v.prob.n
  let m := v.prob.m
  let np := v.prob.p.length
  let na := v.prob.a.length
  let ws := (chunksOf 8 (d.length / 8) d).map leNat
  let cut (lo k : Nat) : List Nat := (ws.drop lo).take k
  let o1 := n + 2 * m
  let o2 := o1 + np + na
  let o3 := o2 + 12 + m
  { v with
    prob := { v.prob with
              q := cut 0 n, l := cut n m, u := cut (n + m) m,
              p := (v.prob.p.zip (cut o1 np)).map (fun e => { e.1 with val := e.2 }),
              a := (v.prob.a.zip (cut (o1 + np) na)).map (fun e => { e.1 with val := e.2 }) },
    set := cut o2 11, pe := qExp (nth ws (o2 + 11)), evec := (cut (o2 + 12) m).map qExp, x := cut o3 n, z := cut (o3 + n) m,
    y := cut (o3 + n + m) m, stale := true }

/-- Place sections one after another, each at the next multiple of 64. -/
def placeSections : Nat → List CkSection → List CkSection
  | _, [] => []
  | at_, x :: t => { x with img := at_ } :: placeSections (up64 (at_ + x.len)) t

/-- The section table of a partition (16, R533). -/
def ckSections (s : State) (p : Nat) (map : List CkSection) : List CkSection :=
  let q := part s p
  let cl := (List.range q.clusters.length).map (fun i =>
    ({ kind := 3, flags := 0, cell := clBase s p + i, off := 0, len := 94720, img := 0 } : CkSection))
  let qp := (s.beryl.ctxs.zipIdx).filterMap (fun e =>
    if ctxBound p e.1 then e.1.vals.map (fun v =>
      ({ kind := 4, flags := 0, cell := e.2, off := 0, len := (qpSection v).length, img := 0 } : CkSection)) else none)
  let all := map ++ cl ++ qp
  placeSections (up64 (256 + 32 * all.length)) all

/-- Image length. -/
def ckLength (xs : List CkSection) : Nat := (xs.map (fun x => x.img + x.len)).foldl max (256 + 32 * xs.length)

/-- The image header (16, table after R532). -/
def ckHeader (s : State) (p cut : Nat) (xs : List CkSection) : List Byte :=
  let q := part s p
  leBytes 4 0x4B435141 ++ leBytes 2 1 ++ [0x42] ++ leBytes 1 s.boot.plan ++ leBytes 4 q.job.fw ++ leBytes 4 xs.length ++
    leBytes 8 cut ++ leBytes 8 (ckLength xs) ++ q.job.keyDigest ++ q.job.mapDigest ++ leBytes 8 q.rep.live.td.toNat ++
    leBytes 4 q.job.rank ++ leBytes 2 q.lk.epochEff ++ leBytes 2 q.lk.jobEff ++ leBytes 1 q.mem.u ++ leBytes 1 q.mem.p ++
    leBytes 1 q.mem.v ++ List.replicate 141 0

/-- The bytes of a section as they stand. -/
def sectionData (s : State) (p : Nat) (x : CkSection) : List Byte :=
  let q := part s p
  match x.kind with
  | 1 => hbmBytes s p x.off x.len
  | 2 => sramRead (q.clusters.getD (x.cell - clBase s p) clusterReset).sram x.off x.len
  | 3 => clusterSection s p (x.cell - clBase s p)
  | _ => match (s.beryl.ctxs.getD x.cell qpCtxReset).vals with | some v => qpSection v | none => []

/-- Bytes of a list of sections at their image offsets, gaps zero, from offset `at_`. -/
def layBytes : Nat → List (Nat × List Byte) → List Byte
  | _, [] => []
  | at_, x :: t => List.replicate (x.1 - at_) 0 ++ x.2 ++ layBytes (x.1 + x.2.length) t

/-- Offsets of the staged sections in the staging area: one after another, 64-byte aligned (16, R538). -/
def stagedAt (xs : List CkSection) : List CkSection := placeSections 0 (xs.filter (fun x => x.kind != 1))

/-- Copy the sections of kinds 2, 3 and 4 into the staging area (16, R538 step 2). -/
def stageSections (s : State) (p : Nat) (xs : List CkSection) : State :=
  ((stagedAt xs).zip (xs.filter (fun x => x.kind != 1))).foldl (fun t e =>
    hbmStore .quiet t p (protOff ((part s p).ck.stageOffEff.toNat + e.1.img)) (sectionData s p e.2)) s

/-- A staged section. -/
def stagedData (s : State) (p : Nat) (xs : List CkSection) (x : CkSection) : List Byte :=
  match (stagedAt xs).find? (fun y => y.kind = x.kind && y.cell = x.cell && y.off = x.off) with
  | some y => hbmBytes s p (protOff ((part s p).ck.stageOffEff.toNat + y.img)) x.len
  | none => []

/-- A kind 1 section of a cut: lines copied before a later write, else as they stand (16, R540). -/
def keptData (s : State) (p : Nat) (c : CutStream) (x : CkSection) : List Byte :=
  (hbmLines x.off x.len).flatMap (fun l =>
    match c.kept.find? (fun e => e.1 = l) with
    | some e => leBytes 64 e.2.toNat
    | none => hbmBytes s p l 64)

/-- Can every kind 1 line of a cut be read (16, R542 reason 3). -/
def cutReadable (s : State) (p : Nat) (c : CutStream) : Bool :=
  c.sections.all (fun x => x.kind != 1 || ((hbmBad s p x.off x.len).all (fun l => c.kept.any (fun e => e.1 = l))))

/-- The image of a cut (16, R533). -/
def cutImage (s : State) (p : Nat) (c : CutStream) : List Byte :=
  layBytes 0 ((0, c.head) :: c.sections.map (fun x =>
    (x.img, if x.kind = 1 then keptData s p c x else stagedData s p c.sections x)))

/-- The four-lane digest (15, R513; 16, R535). -/
def laneDigest (b : List Byte) : List Nat :=
  let ws := chunksOf 8 (b.length / 8 + 1) (b ++ List.replicate ((8 - b.length % 8) % 8) 0)
  (List.range 4).map (fun j =>
    let lane := (ws.zipIdx).filterMap (fun e => if e.2 % 4 = j then some e.1 else none)
    if lane.isEmpty then 0 else crc64Fp lane.flatten)

/-- A commit record taken apart (16, R534). -/
structure CkRec where
  magic : Nat
  ident : Nat
  seq : Nat
  cut : Nat
  digest : List Nat
  crcOk : Bool
deriving DecidableEq, Repr

/-- The fields of 64 bytes of a commit record. -/
def ckRecOf (b : List Byte) : CkRec :=
  let f (lo n : Nat) : Nat := leNat ((b.drop lo).take n)
  { magic := f 0 4, ident := f 4 4, seq := f 8 8, cut := f 16 8, digest := (List.range 4).map (fun j => f (24 + 8 * j) 8),
    crcOk := crc64Fp (b.take 56) = f 56 8 }

/-- The 64 bytes of a commit record (16, R534). -/
def ckRecBytes (ward : Nat) (slotB committed : Bool) (seq cut : Nat) (digest : List Nat) : List Byte :=
  let b := leBytes 4 0x4D435141 ++ leBytes 4 (ward + b2n slotB * 2 ^ 24 + b2n committed * 2 ^ 25) ++ leBytes 8 seq ++
    leBytes 8 cut ++ (digest.take 4).flatMap (leBytes 8)
  b ++ leBytes 8 (crc64Fp b)

/-- Is a record valid for a ward (16, R536). -/
def ckValid (ward : Nat) (r : CkRec) : Bool := r.magic = 0x4D435141 && r.crcOk && bits r.ident 0 18 = ward

/-- `committed`. -/
def ckCommitted (r : CkRec) : Bool := r.ident.testBit 25

/-- The commit record of a slot in the buddy area of partition q. -/
def slotRec (s : State) (q : Nat) (slotB : Bool) : CkRec :=
  ckRecOf (hbmBytes s q (protOff ((part s q).ck.areaOffEff.toNat + 64 * b2n slotB)) 64)

/-- HBM-space offset of a slot in the buddy area of partition q (16, R534). -/
def slotOff (s : State) (q : Nat) (slotB : Bool) : Nat :=
  let c := (part s q).ck
  protOff (c.areaOffEff.toNat + 4096 + b2n slotB * c.slotBytesEff.toNat)

/-- Write a slot's commit record as one whole line (16, R536). Assumption 31 (DESIGN CHOICE). -/
def writeRec (s : State) (q : Nat) (slotB committed : Bool) (seq cut : Nat) (digest : List Nat) : State :=
  let c := (part s q).ck
  hbmStore .quiet s q (protOff (c.areaOffEff.toNat + 64 * b2n slotB))
    (ckRecBytes (bits c.wardEff.toNat 0 18) slotB committed seq cut digest)

/-- The slot that holds a committed record of a cut. -/
def slotOfCut (s : State) (q cut : Nat) : Option Bool :=
  let ward := bits (part s q).ck.wardEff.toNat 0 18
  let holds (b : Bool) : Bool := let r := slotRec s q b; ckValid ward r && ckCommitted r && r.cut = cut
  if (part s q).ck.areaOffEff = 0 then none else if holds false then some false else if holds true then some true else none

/-- Open the target slot at the buddy; none where there is no area or the image is too long (16, R538, R539, R542).
Assumption 31 (DESIGN CHOICE). -/
def openSlot (s : State) (q cut len : Nat) : Option State :=
  let c := (part s q).ck
  let ward := bits c.wardEff.toNat 0 18
  if c.areaOffEff = 0 || c.slotBytesEff.toNat < len then none
  else
    let a := slotRec s q false
    let b := slotRec s q true
    let keeps (r : CkRec) : Bool := ckValid ward r && ckCommitted r && r.cut = c.jobCut.toNat
    let seq (r : CkRec) : Nat := if ckValid ward r then r.seq else 0
    let slotB := if keeps a != keeps b then keeps a else decide (seq b < seq a)
    some (writeRec s q slotB false (max (seq a) (seq b) + 1) cut [0, 0, 0, 0])

/-- The slot opened for a cut and not committed yet. -/
def openSlotOf (s : State) (q cut : Nat) : Option Bool :=
  let ward := bits (part s q).ck.wardEff.toNat 0 18
  let is (b : Bool) : Bool := let r := slotRec s q b; ckValid ward r && !ckCommitted r && r.cut = cut
  if is false && !(is true && decide ((slotRec s q false).seq < (slotRec s q true).seq)) then some false
  else if is true then some true else none

/-- Commit the open slot of a cut with the image's digest (16, R540). -/
def commitSlot (s : State) (q cut : Nat) (digest : List Nat) : State :=
  match openSlotOf s q cut with
  | none => s
  | some b => writeRec s q b true (slotRec s q b).seq cut digest

/-- Offset field that marks a message of Agate to a buddy (log entry 31). Assumption 31 (DESIGN CHOICE). -/
def agateOff (o : Nat) : Nat := 2 ^ 47 + 31 * 2 ^ 42 + o

/-- The buddy keeps the image of this rank on its own module (a job of one rank may name itself). -/
def buddyIsSelf (q : Partition) : Bool := bits q.ck.buddyEff.toNat 0 18 = q.job.rank

/-- A cut fails at this rank (16, R542). -/
def cutFails (s : State) (p reason : Nat) : State :=
  let t := withCk s p (fun c =>
    { c with stream := none, failed := satInc c.failed 1, status := c.status ||| 0x200 })
  sendEvent t srcFw p 0x04C0 reason

/-- Start a drain of the slot that holds `job_cut`, or note that there is none (16, R544). -/
def drainStart (s : State) (p : Nat) : State :=
  withCk s p (fun c =>
    if c.draining then c
    else if (slotOfCut s p c.jobCut.toNat).isSome then { c with draining := true }
    else { c with drainCtrl := c.drainCtrl ||| 8 })

/-- A completed drain: the record and the image stand in host memory (16, R544). -/
def drainEnd (s : State) (p : Nat) : State :=
  let c := (part s p).ck
  match slotOfCut s p c.jobCut.toNat with
  | none => s
  | some b =>
    let len := leNat (hbmBytes s p (slotOff s p b + 24) 8)
    let d := hbmBytes s p (protOff (c.areaOffEff.toNat + 64 * b2n b)) 64 ++
      hbmBytes s p (slotOff s p b) (min len c.slotBytesEff.toNat)
    let t := toHost (withCk s p (fun x => { x with draining := false, drainCtrl := x.drainCtrl ||| 4 })) c.drainAddr.toNat d
    sendEvent t srcFw p 0x02C1 c.jobCut.toNat

/-- `job_cut` takes a new value (16, R537, R541, R544). -/
def setJobCut (s : State) (p cut : Nat) : State :=
  if (part s p).ck.jobCut.toNat = cut then s
  else
    let t := withCk s p (fun c => { c with jobCut := BitVec.ofNat 64 cut })
    if (part t p).ck.drainCtrl.toNat.testBit 1 then drainStart t p else t

/-- The capture of a boundary: the map, the staged sections, the header (16, R538). -/
def captureCut (s : State) (p cut : Nat) (map : List CkSection) : State × CutStream :=
  let xs := ckSections s p map
  (stageSections s p xs,
   { cut := cut, head := ckHeader s p cut xs ++ xs.flatMap ckBytes, sections := xs, kept := [] })

/-- Capture at a cut boundary and open the slot. True where the cut goes on (16, R538, R542). -/
def takeCut (s : State) (p cut : Nat) : State × Bool :=
  if poisonLive s p != 0 then (cutFails s p 1, false)
  else match ckMap s p with
    | none => (cutFails s p 6, false)
    | some map =>
      let r := captureCut s p cut map
      let len := ckLength r.2.sections
      let go (t : State) : State := withCk t p (fun c => { c with stream := some r.2 })
      if buddyIsSelf (part s p) then
        match openSlot r.1 p cut len with
        | none => (cutFails r.1 p 2, false)
        | some t => (go t, true)
      else (go (sendMsg r.1 p (bits (part s p).ck.buddyEff.toNat 0 18) 2 (agateOff 0) 0 false (leBytes 8 cut ++ leBytes 8 len)), true)

/-- A message of the ward's Agate at the buddy: open, image bytes, commit. False where it is rejected (16, R542 reason 2).
Assumption 31 (DESIGN CHOICE). -/
def agateMsg (s : State) (q o : Nat) (d : List Byte) : State × Bool :=
  if o = 0 then
    match openSlot s q (leNat (d.take 8)) (leNat ((d.drop 8).take 8)) with
    | none => (s, false)
    | some t => (t, true)
  else if o = 64 then (commitSlot s q (leNat (d.take 8)) ((chunksOf 8 4 (d.drop 8)).map leNat), true)
  else if 4096 ≤ o then
    let ward := bits (part s q).ck.wardEff.toNat 0 18
    let isOpen (b : Bool) : Bool := let r := slotRec s q b; ckValid ward r && !ckCommitted r
    let slotB := isOpen true && (!isOpen false || decide ((slotRec s q false).seq < (slotRec s q true).seq))
    (hbmStore .quiet s q (slotOff s q slotB + (o - 4096)) d, true)
  else (s, false)

/-- The streamed image is acknowledged: the commit record is written (16, R540). False where a line could not be read.
Assumption 31 (DESIGN CHOICE). -/
def commitImage (s : State) (p : Nat) (c : CutStream) : State × Bool :=
  if !cutReadable s p c then (cutFails s p 3, false)
  else
    let img := cutImage s p c
    let dig := laneDigest img
    let t :=
      if buddyIsSelf (part s p) then
        match openSlotOf s p c.cut with
        | none => s
        | some b => commitSlot (hbmStore .quiet s p (slotOff s p b) img) p c.cut dig
      else
        let r := bits (part s p).ck.buddyEff.toNat 0 18
        sendMsg (sendMsg s p r 2 (agateOff 4096) 0 false img) p r 2 (agateOff 64) 0 false
          (leBytes 8 c.cut ++ dig.flatMap (leBytes 8))
    let u := withCk t p (fun x =>
      { x with stream := none, ownCut := BitVec.ofNat 64 c.cut, taken := satInc x.taken 1 })
    (sendEvent u srcFw p 0x02C0 c.cut, true)

/-- The checks of an image header against a job start; 0 where they pass (16, R546). -/
def imageCheck (s : State) (p : Nat) (fw rank : Nat) (key img : List Byte) : Nat :=
  let f (lo n : Nat) : Nat := leNat ((img.drop lo).take n)
  let q := part s p
  if f 0 4 != 0x4B435141 || f 4 2 != 1 || f 115 141 != 0 then 0x01C0
  else if f 6 1 != 0x42 || f 8 4 != fw || f 7 1 != s.boot.plan || f 112 1 != q.mem.u || f 113 1 != q.mem.p || f 114 1 != q.mem.v
  then 0x02C2
  else if (img.drop 32).take 32 != key then 0x02C3
  else if f 104 4 != rank then 0x02C4 else 0

/-- Write one section of a restored image (16, R531, R547). -/
def restoreSection (s : State) (p : Nat) (x : CkSection) (d : List Byte) : State :=
  let i := x.cell % clPer s
  match x.kind with
  | 1 => hbmStore .quiet s p x.off d
  | 2 => withPart s p (fun q => { q with clusters := updAt q.clusters i (fun c => { c with sram := sramWrite c.sram x.off d }) })
  | 3 => withPart s p (fun q => { q with clusters := updAt q.clusters i (clusterFrom d) })
  | _ => { s with
           beryl := { s.beryl with
                      ctxs := updAt s.beryl.ctxs x.cell (fun c => { c with vals := c.vals.map (qpFrom d) }) } }

/-- The sections of an image. -/
def imageSections (img : List Byte) : List CkSection :=
  (chunksOf 32 (leNat ((img.drop 12).take 4)) (img.drop 256)).map ckEntry

/-- Write a whole image (16, R547). -/
def restoreImage (s : State) (p : Nat) (img : List Byte) : State :=
  (imageSections img).foldl (fun t x => restoreSection t p x ((img.drop x.img).take x.len)) s

end Sys2Proof.Machine
end

