-- ==== Sys2Proof/Machine/Barrier.lean ====
section
/-! DEFINITION. The step barrier and the tree that carries ARRIVE, RELEASE, ABORT and cut results: the canonical tree of chunk 0,
in which a node is executed at its lowest position (13, R423, R444 to R447; 15, R496; 16, R537, R541). -/

namespace Sys2Proof.Machine

/-- Change CL_ and BR_ registers of a partition. -/
def withCl (s : State) (p : Nat) (f : ClRegs → ClRegs) : State := withPart s p (fun q => { q with cl := f q.cl })

/-- Change SE_ registers of a partition. -/
def withSe (s : State) (p : Nat) (f : SeRegs → SeRegs) : State := withPart s p (fun q => { q with se := f q.se })

/-- The lowest set bit of a rank, searched over 18 levels. -/
def lowBit (r : Nat) : Nat := match (List.range 18).find? (fun k => r.testBit k) with | some k => 2 ^ k | none => 2 ^ 18

/-- The rank that executes the parent node of rank r (13, R423, R444). -/
def treeParent (r : Nat) : Nat := r - lowBit r

/-- The ranks that send to rank r in a tree of n ranks. -/
def treeChildren (r n : Nat) : List Nat :=
  ((List.range 18).map (fun k => 2 ^ k)).filterMap (fun b => if b < lowBit r && decide (r + b < n) then some (r + b) else none)

/-- `period` of BR_CTRL in force; 0 is taken as 1 (13, BR_CTRL). -/
def brPeriod (q : Partition) : Nat := max 1 (bits q.cl.brCtrlEff.toNat 0 16)

/-- Is the boundary that closes a step a barrier boundary (13, "The step barrier"). -/
def isBarrier (q : Partition) (step : Nat) : Bool :=
  decide (1 < q.job.ranks) && q.cl.brCtrlEff.toNat.testBit 16 && (step + 1) % brPeriod q = 0

/-- The first step from a given one on whose boundary is a barrier boundary. -/
def nextBarrier (q : Partition) (step : Nat) : Nat := step + (brPeriod q - 1 - step % brPeriod q)

/-- Send a BARRIER flit to a rank: kind, step, attempt, payload, `arg` (13, BARRIER flit fields). -/
def sendBarrier (s : State) (p r kind step attempt arg : Nat) (d : List Byte) : State :=
  let h := flitFrom s p 0x18
  routeFlit s p r { h with addr := kind, step := step, attempt := attempt % 256, arg := arg, payload := d, plen := d.length,
                           mflags := h.mflags + 1 }

/-- Request a cut: noted at rank 0, sent to it from any other rank (16, R537). -/
def requestCut (s : State) (p : Nat) : State :=
  let q := part s p
  if !jobActive q then s
  else if q.job.rank = 0 then withCk s p (fun c => { c with pending := true })
  else sendBarrier s p 0 4 q.seq.step q.seq.attempt 0 []

/-- Send the requests that health warnings noted at a rank other than 0 (15, R503; 16, R537). -/
def flushCut (s : State) (p : Nat) : State :=
  let q := part s p
  if q.job.rank != 0 && q.ck.pending then requestCut (withCk s p (fun c => { c with pending := false })) p else s

/-- T_rel and the cut fields of a RELEASE (13, R444; 16, R537). -/
def releaseBytes (tRel nextCut jobCut : Nat) : List Byte :=
  leBytes 8 (tRel / 65536) ++ leBytes 2 (tRel % 65536) ++ leBytes 6 0 ++ leBytes 8 nextCut ++ leBytes 8 jobCut

/-- Send RELEASE or ABORT down the tree. -/
def sendDown (s : State) (p kind step attempt : Nat) (d : List Byte) : State :=
  let q := part s p
  (treeChildren q.job.rank q.job.ranks).foldl (fun t r => sendBarrier t p r kind step attempt 0 d) s

/-- A rank takes a RELEASE: the release time, a late release, the cut that is announced (13, R444, R446; 16, R537). -/
def takeRelease (s : State) (p tRel nextCut jobCut : Nat) : State :=
  let late := decide (tRel ≤ qzFine s)
  let t := withCl s p (fun c =>
    { c with
      tRel := some tRel, late := if late then satInc c.late 1 else c.late,
      status := if late then c.status ||| 0x800 else c.status, sentLate := c.sentLate || late })
  let u := if late && !(part s p).cl.sentLate then sendEvent t srcFw p 0x0292 0 else t
  let v := withCk u p (fun c => { c with nextCut := if nextCut = 0 then none else some nextCut })
  setJobCut v p jobCut

/-- The root fixes T_rel at the last arrival (13, R444) and merges a pending cut request (16, R537). -/
def rootRelease (s : State) (p step attempt : Nat) : State :=
  let q := part s p
  let c := q.ck
  let restart := q.se.replaying
  let start := c.pending && !c.openAt0 && c.nextCut.isNone
  let nc := match c.nextCut with
    | some k => k
    | none => if start then nextBarrier q (if restart then step else step + 1) else 0
  let t := withCk s p (fun x => { x with pending := x.pending && !start, openAt0 := x.openAt0 || start })
  let tRel := qzFine s + q.cl.brLeadEff.toNat * 65536
  takeRelease (sendDown t p 2 step attempt (releaseBytes tRel nc c.jobCut.toNat)) p tRel nc c.jobCut.toNat

/-- Has every rank below this executor, and this rank itself, arrived. -/
def allArrived (q : Partition) (step attempt : Nat) : Bool :=
  q.cl.arriveSent && (treeChildren q.job.rank q.job.ranks).all (fun r => q.cl.arrived.contains (r, step, attempt % 256))

/-- Forward ARRIVE up the tree, or release at the root, once all have arrived (13, R444). -/
def tryArrive (s : State) (p : Nat) : State :=
  let q := part s p
  let step := q.seq.step
  let a := q.seq.attempt
  if !allArrived q step a then s
  else
    let t := withCl s p (fun c => { c with arrived := c.arrived.filter (fun e => e.2 != (step, a % 256)) })
    if q.job.rank = 0 then rootRelease t p step a else sendBarrier t p (treeParent q.job.rank) 1 step a 0 []

/-- This rank arrives at the barrier of its step and attempt, once (13, R444; 15, R497). -/
def barrierArrive (s : State) (p : Nat) : State :=
  if (part s p).cl.arriveSent then s
  else tryArrive (withCl (flushCut s p) p (fun c => { c with arriveSent := true, tRel := none })) p

/-- An ARRIVE of another rank reaches its executor (13, R444). -/
def noteArrive (s : State) (p r step attempt : Nat) : State :=
  tryArrive (withCl s p (fun c =>
    { c with arrived := if c.arrived.contains (r, step, attempt) then c.arrived else c.arrived ++ [(r, step, attempt)] })) p

/-- Has the release time come (13, R444). -/
def released (s : State) (p : Nat) : Bool :=
  match (part s p).cl.tRel with | some t => decide (t ≤ qzFine s) | none => false

/-- Note a result of a cut, and forward the AND of all results, or close the cut at rank 0 (16, R541). -/
def cutResult (s : State) (p r cut : Nat) (ok : Bool) : State :=
  let t := withCk s p (fun c =>
    let old := if c.resultCut = cut then c.results else []
    { c with resultCut := cut, results := old.filter (fun e => e.1 != r) ++ [(r, ok)] })
  let q := part t p
  let need := q.job.rank :: treeChildren q.job.rank q.job.ranks
  if !need.all (fun k => q.ck.results.any (fun e => e.1 = k)) then t
  else
    let all := q.ck.results.all (·.2)
    let u := withCk t p (fun c => { c with results := [] })
    if q.job.rank != 0 then sendBarrier u p (treeParent q.job.rank) 5 cut q.seq.attempt (b2n all) []
    else
      let v := withCk u p (fun c => { c with openAt0 := false })
      if all then setJobCut v p cut else v

/-- Capture at a boundary where a cut was announced, or for a job of one rank was asked for (16, R538). -/
def boundaryCut (s : State) (p : Nat) : State :=
  let q := part s p
  let step := q.seq.step
  let due := if q.job.ranks ≤ 1 then q.ck.pending && q.ck.stream.isNone else q.ck.nextCut = some step
  if !due then s
  else
    let r := takeCut (withCk s p (fun c =>
      { c with nextCut := none, pending := if q.job.ranks ≤ 1 then false else c.pending })) p step
    if r.2 then r.1 else cutResult r.1 p q.job.rank step false

/-- A job that R517 ends at this boundary: its capture goes to the staging area, and no slot is opened (16, R550). -/
def stageEnd (s : State) (p : Nat) : State :=
  let q := part s p
  let ends : Bool := match q.endReq with | some (4, c) => c = 0x05B4 || c = 0x05B5 | _ => false
  if !ends || q.ck.staged.isSome || poisonLive s p != 0 then s
  else match ckMap s p with
    | none => s
    | some map =>
      let r := captureCut s p q.seq.step map
      withCk r.1 p (fun c => { c with staged := some r.2 })

/-- `period` of CK_CTRL at rank 0 requests a cut at each multiple of the step counter (16, R537). -/
def periodCut (s : State) (p : Nat) : State :=
  withPart s p (fun q =>
    if q.job.rank = 0 && jobActive q && q.ck.period != 0 && q.seq.step % q.ck.period.toNat = 0 then
      { q with ck := { q.ck with pending := true } }
    else q)

end Sys2Proof.Machine
end

