-- ==== Sys2Proof/Machine/JobOps.lean ====
section
/-! DEFINITION. Step completions, the end of a job, and the replay of a step (15, R489 to R499; 17, R571, R577). -/

namespace Sys2Proof.Machine

/-- Write the completion of an entry of queue context k (17, step completion). -/
def stepDone (s : State) (k : Nat) (e : StepEntry) (status attempts : Nat) : State :=
  match s.host.ctxs.find? (fun c => c.k = k) with
  | none => s
  | some c =>
    let b := leBytes 8 e.user.toNat ++ leBytes 2 status ++ leBytes 2 (min attempts 0xFFFF) ++ leBytes 1 (b2n c.phase) ++ leBytes 3 0
    let addr := c.cpl + 16 * c.cplIdx
    let nx := (c.cplIdx + 1) % c.size
    let t : State :=
      { s with
        host := { s.host with
                  ctxs := s.host.ctxs.map (fun x =>
                    if x.k = k then { x with cplIdx := nx, phase := if nx = 0 then !x.phase else x.phase } else x) } }
    let fn := match partOfCtx s k with | some p => p + 1 | none => 0
    if !t.host.up then holdWrite t (.step addr b (if e.raise then some (fn, 2) else none))
    else if e.raise then raiseVector (hostWrite t addr b) fn 2 else hostWrite t addr b

/-- Change queue context k. -/
def withCtx (s : State) (k : Nat) (f : QCtx → QCtx) : State :=
  { s with host := { s.host with ctxs := s.host.ctxs.map (fun c => if c.k = k then f c else c) } }

/-- The queue contexts of a partition that are configured, lowest first. -/
def ctxsOf (s : State) (p : Nat) : List QCtx := s.host.ctxs.filter (fun c => partOfCtx s c.k = some p)

/-- Complete every fetched entry of a context with a status. -/
def flushCtx (s : State) (k status : Nat) : State :=
  let es := match s.host.ctxs.find? (fun c => c.k = k) with | some c => c.fetched | none => []
  es.foldl (fun t e => stepDone t k e status 0) (withCtx s k (fun c => { c with fetched := [] }))

/-- Requests of a partition that wait at Beryl and at the noise source are dropped (15, R495). -/
def dropWaits (s : State) (p : Nat) : State :=
  let mine (r : QpReq) : Bool := match r.kind with | .cluster q _ _ _ _ _ => q = p | _ => false
  { s with
    beryl := { s.beryl with ctxs := s.beryl.ctxs.map (fun c => { c with queue := c.queue.filter (fun r => !mine r) }) },
    noise := { s.noise with waits := s.noise.waits.filter (fun r => r.who != p) } }

/-- End the active job of a partition (17, R571, R577). Assumption 56 (DEDUCED). -/
def jobEnd (s : State) (p cause status : Nat) : State :=
  let q := part s p
  if !jobActive q then s
  else
    let s0 := sendEvent s srcFw p 0x0206 (status + cause * 65536)
    let s1 := match q.current with
      | some (k, e) => if cause = 0 then s0 else stepDone s0 k e (if status = 0 then 0x0207 else status) q.seq.attempt
      | none => s0
    let s2 := twJobEnd ((ctxsOf s1 p).foldl (fun t c => flushCtx t c.k 0x0207) s1) p
    dropWaits (withPart s2 p (fun x =>
      { x with
        st := .ended, endReq := none, haltAt := none, waiting := false, current := none,
        endWord := BitVec.ofNat 32 (status + cause * 65536),
        seq := { x.seq with
                 frozen := false, freezeAt := none, replayAtResume := false, atomics := [], stream := [], votes := [], holds := 0 },
        se := { x.se with asked := false, replaying := false, takeover := false, journal := [] },
        cl := { x.cl with inAttempt := [], early := [], arriveSent := false, tRel := none, ahead := none },
        upd := { x.upd with queue := [], undo := [] },
        lk := { x.lk with acks := [], reads := [], sends := [], outAtomics := [] },
        ck := { x.ck with nextCut := none, pending := false },
        clusters := x.clusters.map (fun c => { c with
          core := { c.core with scalar := { c.core.scalar with status :=
            if cause = 0 || cause = 4 then c.core.scalar.status ||| 0x1000 else c.core.scalar.status } } }) })) p

/-- A fault ends the job of a partition with its event (17, R571 cause 4). Assumption 56 (DEDUCED). -/
def faultEnd (s : State) (src : EvSrc) (p code detail : Nat) : State :=
  if !jobActive (part s p) then s else jobEnd (sendEvent s src p code detail) p 4 code

/-- Ask for the end of a job at its next step boundary; an earlier request stands (17, R571).
Assumption 56 (DEDUCED). -/
def endAtBoundary (s : State) (p cause status : Nat) : State :=
  withPart s p (fun q => if jobActive q && q.endReq.isNone then { q with endReq := some (cause, status) } else q)

/-- `max_attempts` of SE_CTRL in force: 2 to 8, other values taken as 4 (15, SE_CTRL). -/
def maxAttempts (q : Partition) : Nat :=
  let n := bits q.se.ctrlEff.toNat 4 4
  if 2 ≤ n && n ≤ 8 then n else 4

/-- Note that the step is unreplayable: a journal overflowed or there is no HBM journal (15, R493). -/
def noteUnreplayable (s : State) (p : Nat) : State :=
  let q := part s p
  let now := q.se.unreplayable || q.se.hjBytesEff = 0 || q.clusters.any (fun c => c.journal.full)
  if q.st != .running || !now then s
  else
    let t := withSe s p (fun x => { x with unreplayable := true, status := x.status ||| 8, sentUnreplayable := true })
    if q.se.sentUnreplayable then t else sendEvent t srcFw p 0x04B2 0

/-- The end of a job that a replay of an unreplayable step or beyond the last attempt brings, if it does (15, R493, R498). -/
def replayRefused (s : State) (p : Nat) : Option Nat :=
  let q := part s p
  if q.se.unreplayable then some 0x05B2 else if maxAttempts q ≤ q.seq.attempt then some 0x05B3 else none

/-- The rank takes up a replay of its step: it ends the job where the step cannot be replayed (15, R493, R498), waits for resume
while frozen (R499), and otherwise stops issuing until REPLAY. Assumption 41 (DEDUCED). -/
def takeReplay (s : State) (p : Nat) : State :=
  let q := part s p
  if q.st != .running || q.se.asked || q.se.replaying then s
  else
    let t := noteUnreplayable s p
    match replayRefused t p with
    | some code => faultEnd t srcFw p code 0
    | none => withSe t p (fun x => { x with asked := true, replayFrom := s.quartz.ns })

/-- Firmware of a rank requests a replay of the step by every rank of its job (15, R489, R496). -/
def requestReplay (s : State) (p : Nat) : State :=
  let q := part s p
  if q.st != .running || q.se.asked || q.se.replaying then s
  else if q.seq.frozen then withPart s p (withSeq (fun x => { x with replayAtResume := true }))
  else if q.job.ranks ≤ 1 then takeReplay s p
  else if q.job.rank = 0 then takeReplay (sendDown s p 3 q.seq.step q.seq.attempt []) p
  else
    let t := noteUnreplayable s p
    match replayRefused t p with
    | some code => faultEnd t srcFw p code 0
    | none => sendBarrier t p 0 3 q.seq.step q.seq.attempt 0 []

/-- An ABORT reaches a rank (15, R496). -/
def takeAbort (s : State) (p step attempt : Nat) : State :=
  let q := part s p
  if step < q.seq.step then
    if q.st = .running then faultEnd s srcFw p 0x05BB 0 else s
  else if q.seq.step < step then
    if q.cl.ahead.isSome then s else withCl (sendDown s p 3 step attempt []) p (fun c => { c with ahead := some (step, attempt) })
  else if attempt != q.seq.attempt % 256 || q.se.asked || q.se.replaying then s
  else
    let t := sendDown s p 3 step q.seq.attempt []
    if q.seq.frozen then withPart t p (withSeq (fun x => { x with replayAtResume := true })) else takeReplay t p

/-- A rank that begins a step for which an ABORT came begins it at the next attempt (15, R496). -/
def beginAhead (s : State) (p : Nat) : State :=
  let q := part s p
  match q.cl.ahead with
  | none => s
  | some (step, attempt) =>
    if step != q.seq.step then s
    else
      takeReplay (withCl (withPart s p (withSeq (fun x => { x with attempt := attempt }))) p (fun c => { c with ahead := none })) p

/-- The old bytes of an undo or journal record go back (11, R376; 15, R495). -/
def putBack (q : Partition) (off : Nat) (old : Word512) : Partition := { q with hbm := memWrite q.hbm off (leBytes 64 old.toNat) }

/-- A journal record goes back with the poison it held (15, R492, R495). Assumption 41 (DEDUCED). -/
def journalBack (s : State) (p : Nat) (r : HbmRec) : State :=
  let pl := placeOf s p r.off
  let t := withPart s p (fun q => putBack q r.off r.old)
  if r.poison && stackUp t pl.stack then markLine t pl.stack pl.addr else t

/-- The values of a solver context at the step's first bundle (14, R480, R481). -/
def qpBack (p : Nat) (c : QpCtx) : QpCtx :=
  if !ctxBound p c then c
  else match c.saved with
    | some (v, _) => { c with vals := some v, saved := none }
    | none => c

/-- The abandonment of an attempt: discards, the attempt number, the restores (15, R495 steps 2 to 4).
Assumption 41 (DEDUCED). -/
def abandonAttempt (s : State) (p : Nat) : State :=
  let s0 := dropWaits s p
  let s1 := withPart s0 p (fun q => q.upd.undo.foldr (fun r x => putBack x r.off r.old) q)
  let s2 := (part s1 p).se.journal.foldr (fun r t => journalBack t p r) s1
  let s3 := withPart s2 p (fun q =>
    { q with
      clusters := q.clusters.map clusterRestore,
      lk := { q.lk with acks := [], reads := [], sends := [], outAtomics := [],
                        alt := q.lk.alt ++ q.lk.altNext.filter (fun r => !q.lk.alt.contains r), altNext := [] },
      cl := { q.cl with inAttempt := [], arriveSent := false, tRel := none,
                        early := q.cl.early.filter (fun f => decide (q.seq.step < f.step)) },
      upd := { q.upd with queue := [], answers := [], measured := [], applied := [], undo := [] },
      se := { q.se with journal := [], asked := false, replaying := true, replays := satInc q.se.replays 1, verdict := none,
                        digest := none, verdictAsked := false },
      seq := { q.seq with
               attempt := q.seq.attempt + 1, begun := false, replayCyc := q.seq.replayCyc + (q.seq.ic - q.seq.ic0),
               ic0 := q.seq.ic, next := q.seq.entry, stream := [], loops := q.seq.loops0, votes := [], atomics := [], owed := [],
               stalls := List.replicate 16 0, stallStep := 0, stallRun := 0, fpLo := 0, fpHi := 0, lines := 0, freezeAt := none,
               exceeded := false, brkPassed := false } })
  { s3 with beryl := { s3.beryl with ctxs := s3.beryl.ctxs.map (qpBack p) } }

/-- A rank performs a replay that was asked for; restoreBad: an uncorrectable error prevents a restore; copyBad: the takeover
copy of a failed cluster cannot be made (15, R495, R497, R498, R506). Assumption 41 (DEDUCED). -/
def doReplay (s : State) (p : Nat) (restoreBad copyBad : Bool) : State :=
  let q := part s p
  if q.st != .running || !q.se.asked then s
  else if restoreBad then faultEnd s srcFw p 0x05B2 0
  else
    let t := abandonAttempt s p
    if q.se.takeover && copyBad then faultEnd t srcFw p 0x05B9 0
    else
      let u := withSe t p (fun x => { x with takeover := false })
      if q.job.ranks ≤ 1 then u else barrierArrive u p

/-- The new attempt may issue: at once in a job of one rank, at T_rel in any other (15, R497). -/
def replayRestart (s : State) (p : Nat) : State :=
  let q := part s p
  if !q.se.replaying then s
  else
    let t := match q.cl.tRel with
      | some r => if q.job.ranks ≤ 1 || r ≤ qzFine s then s
          else { s with quartz := { s.quartz with ns := r / 65536, frac := r % 65536 } }
      | none => s
    if decide (1 < q.job.ranks) && !released t p then s
    else
      withPart t p (fun x =>
        { x with
          se := { x.se with replaying := false, replayNs := satInc x.se.replayNs (t.quartz.ns - x.se.replayFrom) },
          cl := { x.cl with arriveSent := false, tRel := none } })

end Sys2Proof.Machine
end

