-- ==== Sys2Proof/Machine/UpdateEngine.lean ====
section
/-! DEFINITION. The update engines: update ports, descriptors and their checks, exact norms, the optimiser programs, the group
state record, undo records, state digests and the replica verdict (11, R349 to R380; 15, R513 to R518; 06, R220). -/

namespace Sys2Proof.Machine

/-- Change the update engines of a partition. -/
def withUpd (s : State) (p : Nat) (f : UpdState → UpdState) : State := withPart s p (fun q => { q with upd := f q.upd })

/-- A group descriptor (11, R351). -/
structure UpdGroup where
  tensOff : Nat
  tensCount : Nat
  opt : Nat
  flags : Nat
  stateOff : Nat
  normOff : Nat
  undoOff : Nat
  undoBytes : Nat
  lr : Nat
  wd : Nat
  b1 : Nat
  omb1 : Nat
  b2 : Nat
  omb2 : Nat
  eps : Nat
  gscale : Nat
  absMax : Nat
  relMax : Nat
deriving DecidableEq, Repr

/-- The fields of the 128 bytes of a group descriptor (11, R351). -/
def groupOf (b : List Byte) : UpdGroup :=
  let f (lo n : Nat) : Nat := leNat ((b.drop lo).take n)
  { tensOff := f 0 8, tensCount := f 8 4, opt := f 12 2, flags := f 14 1, stateOff := f 16 8, normOff := f 24 8, undoOff := f 32 8,
    undoBytes := f 40 8, lr := f 48 4, wd := f 52 4, b1 := f 56 4, omb1 := f 60 4, b2 := f 64 4, omb2 := f 68 4, eps := f 72 4,
    gscale := f 76 4, absMax := f 80 4, relMax := f 84 4 }

/-- A tensor descriptor (11, R352). -/
structure UpdTensor where
  n : Nat
  stateOff : Nat
  gradOff : Nat
  workOff : Nat
  wscaleOff : Nat
  fmt : Nat
  bsize : Nat
  flags : Nat
  clipMax : Nat
  contribOff : Nat
deriving DecidableEq, Repr

/-- The fields of the 64 bytes of a tensor descriptor (11, R352). -/
def tensorOf (b : List Byte) : UpdTensor :=
  let f (lo n : Nat) : Nat := leNat ((b.drop lo).take n)
  { n := f 0 8, stateOff := f 8 8, gradOff := f 16 8, workOff := f 24 8, wscaleOff := f 32 8, fmt := f 40 1, bsize := f 41 1,
    flags := f 42 1, clipMax := f 44 4, contribOff := f 48 8 }

/-- `norm_prog`. -/
def normProg (g : UpdGroup) : Bool := g.flags.testBit 1
/-- `clip_en`. -/
def clipEn (t : UpdTensor) : Bool := t.flags.testBit 0
/-- `decay_en`. -/
def decayEn (t : UpdTensor) : Bool := t.flags.testBit 1
/-- `work_en`. -/
def workEn (t : UpdTensor) : Bool := t.flags.testBit 2
/-- `contrib_en`. -/
def contribEn (t : UpdTensor) : Bool := t.flags.testBit 3

/-- Working format of a tensor. -/
def workFmt (t : UpdTensor) : Fmt := (fmtOfCode t.fmt).getD .fp32

/-- Bytes of the working copy. -/
def workBytes (t : UpdTensor) : Nat := rowBytes (workFmt t) t.n

/-- Scale bytes of the working copy; none for an unscaled format. -/
def wscaleBytes (t : UpdTensor) : Nat := if fmtScaled (workFmt t) then ceilDiv t.n (blockSize t.bsize 0) else 0

/-- Granules of a state array (11, R349). -/
def granules (t : UpdTensor) : Nat := ceilDiv t.n 32

/-- Does an array of the protected region lie inside it. -/
def protHas (q : Partition) (o n : Nat) : Bool := decide (o + n ≤ protBytes q)

/-- The first check of R356 on a group descriptor. -/
def groupOk (q : Partition) (b : List Byte) : Bool :=
  let g := groupOf b
  g.flags.testBit 0 && decide (g.flags < 4) && leNat ((b.drop 15).take 1) = 0 && leNat ((b.drop 88).take 40) = 0 &&
    decide (1 ≤ g.tensCount) && decide (g.tensCount ≤ 65536) && g.tensOff % 64 = 0 && g.stateOff % 256 = 0 && g.normOff % 256 = 0 &&
    g.undoOff % 128 = 0 && protHas q g.tensOff (64 * g.tensCount) && protHas q g.stateOff 256 &&
    protHas q g.normOff (256 * g.tensCount) && protHas q g.undoOff g.undoBytes

/-- The first check of R356 on a tensor descriptor. -/
def tensorOk (q : Partition) (b : List Byte) : Bool :=
  let t := tensorOf b
  let scaled := fmtScaled (workFmt t)
  decide (1 ≤ t.n) && decide (t.n ≤ 2 ^ 40) && decide (t.fmt ≤ 9) && (if scaled then decide (t.bsize ≤ 3) else t.bsize = 0) &&
    decide (t.flags < 16) && leNat ((b.drop 43).take 1) = 0 && leNat ((b.drop 56).take 8) = 0 && t.stateOff % 256 = 0 &&
    t.gradOff % 64 = 0 && t.workOff % 64 = 0 && t.contribOff % 64 = 0 && decide (t.workOff < 2 ^ 48) &&
    decide (t.wscaleOff < 2 ^ 48) && !t.workOff.testBit 46 && !t.wscaleOff.testBit 46 &&
    protHas q t.stateOff (256 * granules t) && protHas q t.gradOff (4 * t.n) &&
    (!workEn t || (inSlice q t.workOff (workBytes t) && (!scaled || inSlice q t.wscaleOff (wscaleBytes t)))) &&
    (!contribEn t || protHas q t.contribOff (64 * q.clusters.length))

/-- The 128 bytes of group descriptor g; none without an update directory. -/
def groupBytes (s : State) (p g : Nat) : Option (List Byte) :=
  (part s p).job.updDir.map (fun d => hbmBytes s p (protOff (d + 128 * g)) 128)

/-- The tensor descriptors of a group, 64 bytes each. -/
def tensorBytes (s : State) (p : Nat) (g : UpdGroup) : List (List Byte) :=
  chunksOf 64 g.tensCount (hbmBytes s p (protOff g.tensOff) (64 * g.tensCount))

/-- `lines` of R375. Assumption 37 (DEDUCED). -/
def undoLines (o b : Nat) : Nat := (o + b - 1) / 64 - o / 64 + 1

/-- The undo requirement of a group (11, R375). -/
def undoNeed (ts : List UpdTensor) : Nat :=
  128 * (4 + (ts.map (fun t =>
    undoLines t.stateOff (256 * granules t) +
      (if workEn t then undoLines t.workOff (workBytes t) +
        (if fmtScaled (workFmt t) then undoLines t.wscaleOff (wscaleBytes t) else 0) else 0))).foldl (· + ·) 0)

/-- Does the running firmware carry an optimiser program (11, R368). -/
def optCarried (opt : Nat) : Bool := opt = 1 || opt = 2 || opt = 3

/-- An answer word: status, outcome, norm (11, R353). -/
def updWord (status outcome norm : Nat) : Nat := status * 2 ^ 48 + outcome * 2 ^ 40 + norm

/-- A REFUSED answer. -/
def updRefused (status : Nat) : Nat := updWord status 0xFF 0

/-- A descriptor pair as a phase uses it, with poison found in the descriptors: the checks of R356, else the refusing status. -/
inductive UpdCheck where
  | refused (status : Nat)
  | poisoned
  | ok (g : UpdGroup) (ts : List UpdTensor)
deriving DecidableEq, Repr

/-- The checks of R356 in their order; apply: for an APPLY. Assumption 37 (DEDUCED). -/
def updCheck (s : State) (p gid : Nat) (apply : Bool) : UpdCheck :=
  let q := part s p
  match q.job.updDir with
  | none => .refused 0x0170
  | some d =>
    let b := hbmBytes s p (protOff (d + 128 * gid)) 128
    let g := groupOf b
    if !(hbmBad s p (protOff (d + 128 * gid)) 128).isEmpty then .poisoned
    else if !protHas q d 8192 || !groupOk q b then .refused 0x0170
    else if !(hbmBad s p (protOff g.tensOff) (64 * g.tensCount)).isEmpty then .poisoned
    else
      let tb := tensorBytes s p g
      let ts := tb.map tensorOf
      if !tb.all (tensorOk q) then .refused 0x0170
      else if !optCarried g.opt then .refused 0x0171
      else if apply && !q.upd.measured.contains gid then .refused 0x0270
      else if apply && decide (g.undoBytes < undoNeed ts) then .refused 0x0470
      else .ok g ts

/-- The square of a finite FP32 value in units of 2^-298 (11, R359). -/
def squareUnits (x : Nat) : Nat :=
  match fUnpack fmt32 x with
  | .fin _ m e => m * m * 2 ^ (2 * e + 298).toNat
  | _ => 0

/-- A finite FP32 magnitude in units of 2^-298 (11, R361). -/
def valueUnits (x : Nat) : Nat :=
  match fUnpack fmt32 x with
  | .fin _ m e => m * 2 ^ (e + 298).toNat
  | _ => 0

/-- The 256 bytes of a norm record (11, R359, R360). -/
def normRecord (a nf elems : Nat) : List Byte :=
  (List.range 16).flatMap (fun j => leBytes 8 (if j < 15 then bits a (40 * j) 40 else a / 2 ^ 600)) ++ leBytes 8 nf ++
    leBytes 8 elems ++ List.replicate 112 0

/-- The accumulator and `nonfin` that a norm record holds (11, R360, R363). -/
def normOf (b : List Byte) : Nat × Nat :=
  let limbs := (chunksOf 8 16 b).map (fun w => signExt 64 (leNat w))
  (((limbs.zipIdx).foldl (fun (a : Int) e => a + e.1 * (2 ^ (40 * e.2) : Nat)) 0).toNat, leNat ((b.drop 128).take 8))

/-- FP32 words of an array. -/
def words32 (n : Nat) (b : List Byte) : List Nat := (chunksOf 4 n b).map leNat

/-- Bad lines of a list of ranges of a slice. -/
def rangesBad (s : State) (p : Nat) (l : List (Nat × Nat)) : Nat := (l.map (fun r => (hbmBad s p r.1 r.2).length)).foldl (· + ·) 0

/-- What MEASURE reads of a tensor. -/
def measureReads (q : Partition) (g : UpdGroup) (t : UpdTensor) : List (Nat × Nat) :=
  (if normProg g then [] else [(protOff t.gradOff, 4 * t.n)]) ++
    (if contribEn t then [(protOff t.contribOff, 64 * q.clusters.length)] else [])

/-- `measure` of R361: accumulator and non-finite count. -/
def measureTensor (s : State) (p : Nat) (g : UpdGroup) (t : UpdTensor) : Nat × Nat :=
  let q := part s p
  let own : Nat × Nat :=
    if normProg g then (0, 0)
    else
      (words32 t.n (hbmBytes s p (protOff t.gradOff) (4 * t.n))).foldl (fun a v =>
        let x := fMul fmt32 v g.gscale
        if fIsFin fmt32 v && fIsFin fmt32 x then (a.1 + squareUnits x, a.2) else (a.1, a.2 + 1)) (0, 0)
  if !contribEn t then own
  else
    let n := q.clusters.length
    (chunksOf 64 n (hbmBytes s p (protOff t.contribOff) (64 * n))).foldl (fun a line =>
      let nf := (a.2 + leNat ((line.drop 8).take 8)) % 2 ^ 64
      if !normProg g then (a.1, nf)
      else
        let x := fAbs fmt32 (leNat (line.take 4))
        if fIsFin fmt32 x then (a.1 + valueUnits x, nf) else (a.1, (nf + 1) % 2 ^ 64)) own

/-- MEASURE of a group: the state after it, the answer, poison (11, R357, R361). -/
def runMeasure (s : State) (p gid : Nat) : State × Nat × Bool :=
  match updCheck s p gid false with
  | .refused c => (s, updRefused c, false)
  | .poisoned => (countPoisonRead s p 1, 0, true)
  | .ok g ts =>
    let bad := rangesBad s p (ts.flatMap (measureReads (part s p) g))
    let t := ((ts.zipIdx).foldl (fun u e =>
      let r := measureTensor s p g e.1
      hbmStore .committed u p (protOff (g.normOff + 256 * e.2)) (normRecord r.1 r.2 e.1.n)) (countPoisonRead s p bad))
    (withUpd t p (fun x => { x with measured := x.measured ++ [gid] }), updWord 0 0 0, bad != 0)

/-- A group state record (11, R371). -/
structure UpdRecord where
  applied : Nat
  p1 : Nat
  p2 : Nat
  skipped : Nat
  lastStep : Nat
  lastNorm : Nat
  count : Nat
  hist : List Nat
  clipped : Nat
  momentInf : Nat
  masterNonfin : Nat
  workNonfin : Nat
  workUnder : Nat
  gradNonfin : Nat
  /-- The reserved bytes 37 to 39 and 152 to 255, which are written back as read. -/
  rest : List Byte
deriving DecidableEq, Repr

/-- The record of 256 bytes (11, R371). -/
def recordOf (b : List Byte) : UpdRecord :=
  let f (lo n : Nat) : Nat := leNat ((b.drop lo).take n)
  { applied := f 0 8, p1 := f 8 4, p2 := f 12 4, skipped := f 16 8, lastStep := f 24 8, lastNorm := f 32 4,
    count := if 16 < f 36 1 then 0 else f 36 1, hist := (List.range 16).map (fun i => f (40 + 4 * i) 4), clipped := f 104 8,
    momentInf := f 112 8, masterNonfin := f 120 8, workNonfin := f 128 8, workUnder := f 136 8, gradNonfin := f 144 8,
    rest := (b.drop 37).take 3 ++ (b.drop 152).take 104 }

/-- The 256 bytes of a record (11, R371). -/
def recordBytes (r : UpdRecord) : List Byte :=
  leBytes 8 r.applied ++ leBytes 4 r.p1 ++ leBytes 4 r.p2 ++ leBytes 8 r.skipped ++ leBytes 8 r.lastStep ++ leBytes 4 r.lastNorm ++
    leBytes 1 r.count ++ r.rest.take 3 ++ r.hist.flatMap (leBytes 4) ++ leBytes 8 r.clipped ++ leBytes 8 r.momentInf ++
    leBytes 8 r.masterNonfin ++ leBytes 8 r.workNonfin ++ leBytes 8 r.workUnder ++ leBytes 8 r.gradNonfin ++ r.rest.drop 3

/-- Insert a norm into an ascending list. -/
def insNorm (x : Nat) : List Nat → List Nat
  | [] => [x]
  | y :: t => if fKey fmt32 y < fKey fmt32 x then y :: insNorm x t else x :: y :: t

/-- The median entry of the history (11, R364). -/
def histMedian (r : UpdRecord) : Nat :=
  nth ((r.hist.take r.count).foldl (fun l x => insNorm x l) []) ((r.count - 1) / 2)

/-- Norm of a tensor and whether it is non-finite (11, R363). -/
def tensorNorm (a nf : Nat) : Nat × Bool :=
  let n2 := fRoundInt fmt32 a (-298) false
  (fSqrt fmt32 n2, nf != 0 || fIsInf fmt32 n2)

/-- Is an APPLY absurd (11, R364): N, a tensor is non-finite. Assumption 37 (DEDUCED). -/
def updAbsurd (g : UpdGroup) (r : UpdRecord) (norm : Nat) (bad : Bool) : Bool :=
  bad || !fIsFin fmt32 norm || (g.absMax != 0 && fLt fmt32 g.absMax norm) ||
    (decide (8 ≤ r.count) && g.relMax != 0 && fLt fmt32 (fMul fmt32 g.relMax (histMedian r)) norm)

/-- A moment converted to BF16 and widened; 1 where the conversion overflowed (11, R350, R369). -/
def momentOf (v : Nat) : Nat × Nat :=
  let r := storeElem .bf16 true v 127 .rne
  (r.1 * 65536, if fIsFin fmt32 v then r.2.nonfin else 0)

/-- What one element gives: master, moments, moments that overflowed. -/
structure UpdElem where
  w : Nat
  m : Nat
  v : Nat
  inf : Nat
deriving DecidableEq, Repr

/-- `update` of R368. -/
def updElem (g : UpdGroup) (wd c1 c2 w m v gr : Nat) : UpdElem :=
  let nlr := fNeg fmt32 g.lr
  let out (u : Nat) : Nat := fFma fmt32 nlr (fFma fmt32 wd w u) w
  if g.opt = 1 then { w := out gr, m := m, v := v, inf := 0 }
  else if g.opt = 2 then
    let mb := momentOf (fFma fmt32 g.b1 m gr)
    { w := out mb.1, m := mb.1, v := v, inf := mb.2 }
  else
    let mb := momentOf (fFma fmt32 g.b1 m (fMul fmt32 g.omb1 gr))
    let vb := momentOf (fFma fmt32 g.b2 v (fMul fmt32 g.omb2 (fMul fmt32 gr gr)))
    let den := fAdd fmt32 (fSqrt fmt32 (fMul fmt32 vb.1 c2)) g.eps
    { w := out (fDiv fmt32 (fMul fmt32 mb.1 c1) den), m := mb.1, v := vb.1, inf := mb.2 + vb.2 }

/-- `step_scalars` of R368: the record with its powers, c1 and c2. -/
def stepScalars (g : UpdGroup) (r : UpdRecord) : UpdRecord × Nat × Nat :=
  let one := 0x3F800000
  let p1 := fMul fmt32 r.p1 g.b1
  let p2 := fMul fmt32 r.p2 g.b2
  let c (x : Nat) : Nat := fDiv fmt32 one (fAdd fmt32 one (fNeg fmt32 x))
  ({ r with p1 := p1, p2 := p2 }, c p1, c p2)

/-- The ranges of granule j of a state array that its elements take (11, R349): masters, m, v. -/
def granuleSpans (t : UpdTensor) (j : Nat) : List (Nat × Nat) :=
  let n := min 32 (t.n - 32 * j)
  let o := protOff (t.stateOff + 256 * j)
  [(o, 4 * n), (o + 128, 2 * n), (o + 192, 2 * n)]

/-- What APPLY reads of a tensor. -/
def applyReads (t : UpdTensor) : List (Nat × Nat) :=
  (protOff t.gradOff, 4 * t.n) :: (List.range (granules t)).flatMap (granuleSpans t)

/-- The gradient element as APPLY uses it, and whether it counts in `grad_nonfin` (11, R367). -/
def gradOf (g : UpdGroup) (clip : Option Nat) (v : Nat) : Nat × Nat :=
  let bad := normProg g && !fIsFin fmt32 v
  let x := fMul fmt32 (if bad then 0 else v) g.gscale
  (match clip with | some c => fMul fmt32 x c | none => x, b2n bad)

/-- The working copy of new masters: element bytes, scale bytes, counts (11, R370). Assumption 37 (DEDUCED). -/
def workCopy (t : UpdTensor) (ws : List Nat) : List Byte × List Byte × StoreCount :=
  let fmt := workFmt t
  let conv (xs v : Nat) : Nat × StoreCount :=
    let r := storeElem fmt true v xs .rne
    (r.1, if fIsFin fmt32 v then r.2 else {})
  let blocks : List (Nat × List Nat) :=
    if fmtScaled fmt then
      (chunksOf (blockSize t.bsize 0) (ceilDiv t.n 16) ws).map (fun b => (blockScale fmt (amax32 b), b))
    else [(127, ws)]
  let es := blocks.flatMap (fun b => b.2.map (conv b.1))
  (leBytes (workBytes t) (packElems fmt (es.map (·.1))),
   if fmtScaled fmt then blocks.map (fun b => BitVec.ofNat 8 b.1) else [],
   es.foldl (fun a e => storeCountAdd a e.2) {})

/-- A write of an engine: an undo record for each line, in the list that a replay writes back and in the group's undo area at
record `i`, then the line (11, R375). -/
def engineWrite (p undoOff : Nat) (x : State × Nat) (off : Nat) (d : List Byte) : State × Nat :=
  (segments off d).foldl (fun a seg =>
    let old := BitVec.ofNat 512 (memLe (part a.1 p).hbm seg.1 64)
    let t := withUpd a.1 p (fun u => { u with undo := u.undo ++ [{ off := seg.1, old := old }] })
    let u := hbmStore .quiet t p (protOff (undoOff + 128 * a.2))
      (leBytes 8 seg.1 ++ List.replicate 56 0 ++ leBytes 64 old.toNat)
    (hbmStore .engine u p (seg.1 + seg.2.1) seg.2.2, a.2 + 1)) x

/-- Counts of an APPLY (11, R369 to R371). -/
structure UpdCounts where
  clipped : Nat := 0
  momentInf : Nat := 0
  masterNonfin : Nat := 0
  workNonfin : Nat := 0
  workUnder : Nat := 0
  gradNonfin : Nat := 0
deriving DecidableEq, Repr

/-- Where an APPLY stands: the state, the undo records of the phase, the counts, and whether poison was read. -/
structure ApplyRun where
  s : State
  idx : Nat
  cnt : UpdCounts
  poison : Bool

/-- APPLY of one tensor: new masters and moments, then the working copy, then its scales (11, R367 to R370).
Assumption 37 (DEDUCED). -/
def applyTensor (p : Nat) (g : UpdGroup) (c1 c2 : Nat) (r : ApplyRun) (t : UpdTensor) (norm : Nat) : ApplyRun :=
  let s := r.s
  let bad := rangesBad s p (applyReads t)
  if r.poison then r
  else if bad != 0 then { r with s := countPoisonRead s p bad, poison := true }
  else
    let clips := clipEn t && fLt fmt32 t.clipMax norm
    let clip := if clips then some (fDiv fmt32 t.clipMax norm) else none
    let grads := (words32 t.n (hbmBytes s p (protOff t.gradOff) (4 * t.n))).map (gradOf g clip)
    let wd := if decayEn t then g.wd else 0
    let olds := (List.range (granules t)).flatMap (fun j =>
      let b := hbmBytes s p (protOff (t.stateOff + 256 * j)) 256
      (List.range (min 32 (t.n - 32 * j))).map (fun k =>
        (leNat ((b.drop (4 * k)).take 4), leNat ((b.drop (128 + 2 * k)).take 2) * 65536,
         leNat ((b.drop (192 + 2 * k)).take 2) * 65536)))
    let es := (olds.zip grads).map (fun e => updElem g wd c1 c2 e.1.1 e.1.2.1 e.1.2.2 e.2.1)
    let x0 := ((chunksOf 32 (granules t) es).zipIdx).foldl (fun x b =>
      let o := protOff (t.stateOff + 256 * b.2)
      let x1 := engineWrite p g.undoOff x o (b.1.flatMap (fun e => leBytes 4 e.w))
      let x2 := engineWrite p g.undoOff x1 (o + 128) (b.1.flatMap (fun e => leBytes 2 (e.m / 65536)))
      engineWrite p g.undoOff x2 (o + 192) (b.1.flatMap (fun e => leBytes 2 (e.v / 65536)))) (s, r.idx)
    let wk := if workEn t then workCopy t (es.map (·.w)) else ([], [], {})
    let x1 := engineWrite p g.undoOff x0 t.workOff wk.1
    let x2 := engineWrite p g.undoOff x1 t.wscaleOff wk.2.1
    let c := r.cnt
    { s := x2.1, idx := x2.2, poison := false,
      cnt := { clipped := c.clipped + b2n clips, momentInf := c.momentInf + (es.map (·.inf)).foldl (· + ·) 0,
               masterNonfin := c.masterNonfin + countTrue (es.map (fun e => !fIsFin fmt32 e.w)),
               workNonfin := c.workNonfin + wk.2.2.nonfin, workUnder := c.workUnder + wk.2.2.under,
               gradNonfin := c.gradNonfin + (grads.map (·.2)).foldl (· + ·) 0 } }

/-- The record after an APPLY that applied (11, R371, R372). -/
def recordApplied (r : UpdRecord) (c : UpdCounts) (step norm : Nat) : UpdRecord :=
  { r with
    applied := satAdd 64 r.applied 1, lastStep := step, lastNorm := norm, count := min (r.count + 1) 16,
    hist := norm :: r.hist.take 15, clipped := satAdd 64 r.clipped c.clipped, momentInf := satAdd 64 r.momentInf c.momentInf,
    masterNonfin := satAdd 64 r.masterNonfin c.masterNonfin, workNonfin := satAdd 64 r.workNonfin c.workNonfin,
    workUnder := satAdd 64 r.workUnder c.workUnder, gradNonfin := satAdd 64 r.gradNonfin c.gradNonfin }

/-- What APPLY decides. -/
inductive ApplyEnd where
  /-- No answer: the step is replayed (R365). -/
  | replay (norm : Nat)
  /-- An answer, with poison. -/
  | answer (word : Nat) (poison : Bool)
deriving DecidableEq, Repr

/-- APPLY of a group (11, R357, R363 to R372). Assumption 37 (DEDUCED). -/
def runApply (s : State) (p gid : Nat) : State × ApplyEnd :=
  match updCheck s p gid true with
  | .refused c => (s, .answer (updRefused c) false)
  | .poisoned => (countPoisonRead s p 1, .answer 0 true)
  | .ok g ts =>
    let q := part s p
    let o := protOff g.stateOff
    let bad := rangesBad s p [(o, 256), (protOff g.normOff, 256 * g.tensCount)]
    if bad != 0 then (countPoisonRead s p bad, .answer 0 true)
    else
      let r := recordOf (hbmBytes s p o 256)
      let accs := (chunksOf 256 g.tensCount (hbmBytes s p (protOff g.normOff) (256 * g.tensCount))).map normOf
      let norms := accs.map (fun a => tensorNorm a.1 a.2)
      let n := (tensorNorm ((accs.map (·.1)).foldl (· + ·) 0) 0).1
      let fails := updAbsurd g r n (norms.any (·.2))
      let att := q.seq.attempt
      if fails && !q.upd.absurd.any (fun e => decide (e.2 < att)) then
        (withUpd s p (fun x => { x with absurd := x.absurd ++ [(gid, att)], normReplays := x.normReplays + 1 }), .replay n)
      else if fails then
        let r1 := { r with skipped := satAdd 64 r.skipped 1 }
        let t := (engineWrite p g.undoOff (s, 0) (o + 16)
          (leBytes 8 r1.skipped ++ leBytes 8 q.seq.step ++ leBytes 4 n)).1
        let u := withUpd t p (fun x => { x with applied := x.applied ++ [gid], absurd := x.absurd ++ [(gid, att)] })
        (sendEvent u (srcEngine 0) p 0x0571 n, .answer (updWord 0 2 n) false)
      else
        let sc := if g.opt = 3 then stepScalars g r else (r, 0, 0)
        let run := (ts.zip norms).foldl (fun a e => applyTensor p g sc.2.1 sc.2.2 a e.1 e.2.1)
          { s := s, idx := 0, cnt := {}, poison := false }
        if run.poison then (run.s, .answer 0 true)
        else
          let t := (engineWrite p g.undoOff (run.s, run.idx) o (recordBytes (recordApplied sc.1 run.cnt q.seq.step n))).1
          let u := withUpd t p (fun x => { x with applied := x.applied ++ [gid] })
          let v := if q.upd.absurd.any (fun e => e.1 = gid && decide (e.2 < att)) then sendEvent u (srcEngine 0) p 0x0572 n else u
          (v, .answer (updWord 0 1 n) false)

/-- The masters of a tensor as ranges of the slice. -/
def masterSpans (t : UpdTensor) : List (Nat × Nat) :=
  (List.range (granules t)).map (fun j => (protOff (t.stateOff + 256 * j), 4 * min 32 (t.n - 32 * j)))

/-- Groups of a partition's directory that pass the first check of R356. -/
def validGroups (s : State) (p : Nat) : List Nat :=
  (List.range 64).filter (fun g => match groupBytes s p g with | some b => groupOk (part s p) b | none => false)

/-- Tensors of a group. -/
def groupTensors (s : State) (p gid : Nat) : List UpdTensor :=
  match groupBytes s p gid with
  | some b => (tensorBytes s p (groupOf b)).map tensorOf
  | none => []

/-- The state digest of a partition and the poisoned lines that it read (15, R513). Assumption 37 (DEDUCED). -/
def stateDigest (s : State) (p : Nat) : List Nat × Nat :=
  let q := part s p
  let gs := if q.upd.applied.isEmpty then validGroups s p else (List.range 64).filter (fun g => q.upd.applied.contains g)
  let spans := gs.flatMap (fun g => (groupTensors s p g).flatMap masterSpans)
  (laneDigest (spans.flatMap (fun r => hbmBytes s p r.1 r.2)), rangesBad s p spans)

/-- The replica table (15, R514). -/
structure ReplTable where
  nrep : Nat
  nshard : Nat
  interval : Nat
  gather : Nat
  ranks : List Nat
deriving DecidableEq, Repr

/-- The replica table of a partition; none where it is absent or invalid (15, R514). -/
def replTable (s : State) (p : Nat) : Option ReplTable :=
  let q := part s p
  let o := q.se.replOffEff.toNat
  let b := hbmBytes s p (protOff o) 64
  let f (lo n : Nat) : Nat := leNat ((b.drop lo).take n)
  let n := q.job.ranks
  if o = 0 || o % 64 != 0 || !protHas q o (64 + 4 * n) || f 0 4 = 0 || 16 < f 0 4 || f 0 4 * f 4 4 != n || 1024 < f 8 4 ||
      f 12 4 != 0 || f 24 40 != 0 then none
  else
    let ranks := words32 n (hbmBytes s p (protOff (o + 64)) (4 * n))
    if !(List.range n).all (fun r => ranks.contains r) || f 16 8 % 8 != 0 || 2 ^ 48 ≤ f 16 8 || !inSlice q (f 16 8) (32 * n) then none
    else some { nrep := f 0 4, nshard := f 4 4, interval := if f 8 4 = 0 then 16 else f 8 4, gather := f 16 8, ranks := ranks }

/-- The digest of replica r (15, R514). -/
def replicaDigest (s : State) (p : Nat) (t : ReplTable) (r : Nat) : List Nat :=
  (List.range 4).map (fun j =>
    crc64Fp ((List.range t.nshard).flatMap (fun k => hbmBytes s p (t.gather + 32 * nth t.ranks (r * t.nshard + k) + 8 * j) 8)))

/-- The verdict word and the poisoned lines of the gathered table (15, R515, R516). Assumption 37 (DEDUCED). -/
def runVerdict (s : State) (p : Nat) : Nat × Nat :=
  match replTable s p with
  | none => (updRefused 0x01B1, 0)
  | some t =>
    let bad := rangesBad s p [(protOff (part s p).se.replOffEff.toNat, 64 + 4 * (part s p).job.ranks),
      (t.gather, 32 * (part s p).job.ranks)]
    let ds := (List.range t.nrep).map (replicaDigest s p t)
    let votes := ds.map (fun d => (ds.filter (fun x => x = d)).length)
    let most := votes.foldl max 0
    let out := countTrue (votes.map (fun v => v != most))
    (if t.nrep = 1 then updWord 0 3 0
     else if most * 2 ≤ t.nrep then updWord 0 2 0
     else if out = 0 then updWord 0 0 0
     else updWord 0 1 (out * 2 ^ 32 + (votes.findIdx? (fun v => v != most)).getD 0), bad)

/-- Give an answer to a buffer of local cluster l: its bytes wait for ITEM_ARRIVAL (06, R220, R221). -/
def answerBuf (s : State) (p l i : Nat) (kind : BufKind) (d : List Byte) (poison : Bool) : State :=
  withDma s p l (fun m => withBuf m i (fun b =>
    if b.kind = kind && !b.present && b.fetched.isNone then
      { b with fetched := some ((match b.range with | some r => r.1 | none => 0), d, poison) } else b))

/-- The answer of a phase to one request. -/
def giveAnswer (s : State) (p : Nat) (a : UpdAnswer) (w : Nat × Nat × Nat) : State :=
  answerBuf s p w.2.1 w.2.2 .regread (leBytes 8 (nth a.words w.1)) a.poison

/-- Is phase a queued before phase b (11, R355). -/
def updBefore (a b : UpdPhase) : Bool :=
  decide (a.u < b.u) || (a.u = b.u && (decide (a.group < b.group) || (a.group = b.group && decide (a.phase < b.phase))))

/-- Put a phase into the queue, behind those that come before it. Assumption 37 (DEDUCED). -/
def insPhase (x : UpdPhase) : List UpdPhase → List UpdPhase
  | [] => [x]
  | y :: t => if updBefore x y then x :: y :: t else y :: insPhase x t

/-- A request of a phase: answered from the attempt's answer, joined to a queued phase, or queued (11, R354, R355). -/
def askPhase (s : State) (p phase group : Nat) (w : Nat × Nat × Nat) : State :=
  let q := part s p
  match q.upd.answers.find? (fun a => a.phase = phase && a.group = group) with
  | some a => giveAnswer s p a w
  | none =>
    withUpd s p (fun u =>
      if u.queue.any (fun x => x.phase = phase && x.group = group) then
        { u with queue := u.queue.map (fun x =>
            if x.phase = phase && x.group = group then { x with waiters := x.waiters ++ [w] } else x) }
      else { u with queue := insPhase { u := q.seq.ic, group := group, phase := phase, waiters := [w] } u.queue })

/-- Word i of the key record (02, R49). -/
def keyRecord (j : Job) : List Byte :=
  j.imageDigest ++ j.dataDigest ++ leBytes 16 j.seed ++ leBytes 4 j.fw ++ [BitVec.ofNat 8 (b2n j.relaxed)] ++ List.replicate 3 0

/-- A REGREAD of local cluster l into buffer i (06, R220). -/
def regread (s : State) (p l i addr : Nat) : State :=
  let q := part s p
  let say (v : Nat) : State := answerBuf s p l i .regread (leBytes 8 v) false
  if addr ≤ 0xA then answerBuf s p l i .regread (((keyRecord q.job).drop (8 * addr)).take 8) false
  else if addr = 0x10 then say (q.job.rank + p * 2 ^ 32 + s.boot.plan * 2 ^ 40)
  else if addr = 0x11 then say q.job.ranks
  else if addr = 0x12 then say q.seq.step
  else if 0x10000 ≤ addr && addr ≤ 0x100FF then
    if 2 ≤ bits addr 6 2 then say (updRefused 0x0170) else askPhase s p (bits addr 6 2) (bits addr 0 6) (0, l, i)
  else if 0x10100 ≤ addr && addr ≤ 0x10103 then askPhase s p 2 64 (addr % 4, l, i)
  else if addr = 0x10104 then askPhase (withSe s p (fun x => { x with verdictAsked := true })) p 3 64 (0, l, i)
  else if 0x10105 ≤ addr && addr ≤ 0x101FF then say (updRefused 0x01B1)
  else say 0

/-- Has every write that the partition issued before issue cycle u committed (11, R355). Assumption 40 (DEDUCED). -/
def writesDone (q : Partition) (u : Nat) : Bool :=
  q.lk.acks.isEmpty && q.clusters.all (fun c => c.core.dma.hbmq.all (fun o =>
    match o with | .store v => decide (u ≤ v) | _ => true))

/-- The phase that may begin: the head of the queue (11, R355). -/
def phaseReady (s : State) (p : Nat) : Option UpdPhase :=
  let q := part s p
  if q.st != .running || q.se.asked || q.se.replaying then none
  else q.upd.queue.head?.filter (fun x => writesDone q x.u)

/-- A phase has its answer: it leaves the queue, and every request of it is answered (11, R354). -/
def endPhase (s : State) (p : Nat) (x : UpdPhase) (words : List Nat) (poison : Bool) : State :=
  let a : UpdAnswer := { phase := x.phase, group := x.group, words := words, poison := poison }
  x.waiters.foldl (fun t w => giveAnswer t p a w)
    (withUpd s p (fun u => { u with queue := u.queue.drop 1, answers := u.answers ++ [a] }))

/-- The ready phase, if it is the one named. -/
def phaseIs (s : State) (p phase group : Nat) : Option UpdPhase :=
  (phaseReady s p).filter (fun x => x.phase = phase && x.group = group)

/-- The engines run MEASURE of a group (11, R361). -/
def doMeasure (s : State) (p gid : Nat) : State :=
  match phaseIs s p 0 gid with
  | none => s
  | some x => let r := runMeasure s p gid; endPhase r.1 p x [r.2.1] r.2.2

/-- The engines run APPLY of a group (11, R363 to R372). -/
def doApply (s : State) (p gid : Nat) : State :=
  match phaseIs s p 1 gid with
  | none => s
  | some x =>
    match runApply s p gid with
    | (t, .answer w b) => endPhase t p x [w] b
    | (t, .replay n) => requestReplay (sendEvent (withUpd t p (fun u => { u with queue := u.queue.drop 1 })) (srcEngine 0) p 0x0570 n) p

/-- The engines form the state digest (15, R513, R515). -/
def doDigest (s : State) (p : Nat) : State :=
  match phaseIs s p 2 64 with
  | none => s
  | some x =>
    let r := stateDigest s p
    endPhase (withSe (countPoisonRead s p r.2) p (fun e =>
      { e with digest := some (r.1.map (BitVec.ofNat 64), r.2 != 0) })) p x r.1 (r.2 != 0)

/-- Firmware forms the verdict; ODD and SPLIT end the job at the boundary of the step (15, R515 to R517). -/
def doVerdict (s : State) (p : Nat) : State :=
  match phaseIs s p 3 64 with
  | none => s
  | some x =>
    let r := runVerdict s p
    let w := BitVec.ofNat 64 r.1
    let t := endPhase (withSe (countPoisonRead s p r.2) p (fun e =>
      { e with verdict := some (w, r.2 != 0), lastVerdict := w })) p x [r.1] (r.2 != 0)
    let out := bits r.1 40 8
    if r.2 != 0 then t else if out = 1 then endAtBoundary t p 4 0x05B4 else if out = 2 then endAtBoundary t p 4 0x05B5 else t

/-- Is any line of a range engine-private or Agate-private while the job is active (11, R377; 16, R534; 17, R569). -/
def privateTo (s : State) (p off n : Nat) : Bool :=
  let q := part s p
  let a := off / 64 * 64
  let b := (off + n + 63) / 64 * 64
  let meets (o k : Nat) : Bool := decide (0 < k) && decide (a < protOff (o + k)) && decide (protOff o < b)
  offProt off && jobActive q &&
    ((validGroups s p).any (fun g =>
        (match groupBytes s p g with | some d => meets (groupOf d).undoOff (groupOf d).undoBytes | none => false) ||
          (groupTensors s p g).any (fun t => meets t.stateOff (256 * granules t))) ||
      (decide (1 < q.job.images.length) && meets q.job.imgArea (524288 * q.job.images.length)) ||
      (q.ck.areaOffEff != 0 && meets q.ck.areaOffEff.toNat (4096 + 2 * q.ck.slotBytesEff.toNat)))

/-- Declare a unit failed: entered in the life record (15, R503, R504). -/
def declareDown (s : State) (u : EvSrc) : State :=
  let h := healthOf s u
  if h.down then s
  else
    { (setHealth s { h with down := true }) with
      life := { s.life with health := s.life.health ++ [(u.die, u.unit, u.index, true)] } }

/-- A comparison of an engine's two datapaths fails (15, R489, R502, R505). -/
def engineMismatch (s : State) (p die granule : Nat) : State :=
  let q := part s p
  if q.st != .running then s
  else
    let again := q.se.engErrs.any (fun e => e.1 != q.seq.attempt && e.2.1 = die && e.2.2 = granule)
    let s1 := sendEvent s (srcEngine die) p 0x05B7 granule
    let h := addHealth s1 (srcEngine die) 256
    let s2 := withSe h.1 p (fun x => { x with engErrs := x.engErrs ++ [(q.seq.attempt, die, granule)] })
    if again || h.2 then
      let s3 := declareDown s2 (srcEngine die)
      (List.range 12).foldl (fun t k => faultEnd t (srcEngine die) k 0x05BD die)
        { s3 with faults := { s3.faults with engines := s3.faults.engines ||| BitVec.ofNat 4 (2 ^ die) } }
    else requestReplay s2 p

/-- MEASURE of a group. -/
def execMeasure (p : Nat) (group : BitVec 6) (s : State) : Out := onUnit (decide (p < 12)) (doMeasure s p group.toNat)

/-- APPLY of a group. -/
def execApply (p : Nat) (group : BitVec 6) (s : State) : Out := onUnit (decide (p < 12)) (doApply s p group.toNat)

/-- STATE_DIGEST. -/
def execStateDigest (p : Nat) (s : State) : Out := onUnit (decide (p < 12)) (doDigest s p)

/-- VERDICT. -/
def execVerdict (p : Nat) (s : State) : Out := onUnit (decide (p < 12)) (doVerdict s p)

/-- UPDATE_ENGINE_MISMATCH on T-die `die`. -/
def execUpdateEngineMismatch (p : Nat) (die : BitVec 2) (granule : BitVec 48) (s : State) : Out :=
  onUnit (decide (p < 12)) (engineMismatch s p die.toNat granule.toNat)

end Sys2Proof.Machine
end

