-- ==== Sys2Proof/Machine/Collect.lean ====
section
/-! DEFINITION. Collective calls: descriptors and refusal checks, the canonical tree, data movement, the all-to-all of experts
(13, R419 to R438). The fields of COLL and A2A flits that the spec does not lay out are the model's own (log entry 33). -/

namespace Sys2Proof.Machine

/-- A collective descriptor (13, tables of the collective descriptor and its expert fields). -/
structure CollDesc where
  id : Nat
  op : Nat
  dtype : Nat
  comb : Nat
  flags : Nat
  group : Nat
  src : Nat
  dst : Nat
  n : Nat
  shard : Nat
  nfSrc : Nat
  nfDst : Nat
  etab : Nat
  nExp : Nat
  slots : Nat
  k : Nat
  d : Nat
  list : Nat
  orig : Nat
  cnt : Nat
  ret : Nat
  drop : Nat
deriving DecidableEq, Repr

/-- The fields of 128 bytes of a collective descriptor. -/
def collDesc (b : List Byte) : CollDesc :=
  let f (lo n : Nat) : Nat := leNat ((b.drop lo).take n)
  { id := f 0 4, op := f 4 1, dtype := f 5 1, comb := f 6 1, flags := f 7 1, group := f 8 8, src := f 16 8, dst := f 24 8,
    n := f 32 8, shard := f 40 8, nfSrc := f 48 8, nfDst := f 56 8, etab := f 64 8, nExp := f 72 4, slots := f 76 4, k := f 80 1,
    d := f 84 4, list := f 88 8, orig := f 96 8, cnt := f 104 8, ret := f 112 8, drop := f 120 8 }

/-- Bytes of an element. -/
def collSize (d : CollDesc) : Nat := match d.dtype with | 1 => 4 | 2 => 8 | 3 => 8 | _ => 1

/-- `nf_en`. -/
def nfEn (d : CollDesc) : Bool := d.flags.testBit 0

/-- Levels of the tree of n positions. -/
def treeTop (n : Nat) : Nat := if n ≤ 1 then 0 else Nat.log2 (n - 1) + 1

/-- `executor` of R423. -/
def executor : Nat → Nat → Nat → Nat → Nat
  | 0, i, _, _ => i
  | l + 1, i, c, n =>
    let left := executor l (2 * i) c n
    if n ≤ (2 * i + 1) * 2 ^ l then left
    else if c.testBit l then executor l (2 * i + 1) c n else left

/-- The chunk number that stands for the non-finite counts of a call: past every data chunk (log entry 33). -/
def nfChunk : Nat := 2 ^ 38 - 1

/-- Combine two elements, by data type and combine code (13, R421). -/
def combElem (dtype comb l r : Nat) : Nat :=
  if dtype = 1 then (if comb = 1 then max32 l r else if comb = 2 then min32 l r else add32 l r)
  else if dtype = 2 then (l + r) % 2 ^ 64
  else
    let x := argmaxComb (bits l 0 32, bits l 32 32) (bits r 0 32, bits r 32 32)
    x.1 + x.2 * 2 ^ 32

/-- Combine two chunks element by element; non-finite counts add with saturation (13, R421, R432). -/
def combChunk (d : CollDesc) (c : Nat) (l r : List Byte) : List Byte :=
  if c = nfChunk then leBytes 8 (satAdd 64 (leNat l) (leNat r))
  else
    let k := collSize d
    ((chunksOf k l.length l).zip (chunksOf k r.length r)).flatMap (fun e =>
      leBytes k (combElem d.dtype d.comb (leNat e.1) (leNat e.2)))

/-- `canon_reduce` of R421 over a list of operands, pairing neighbours `fuel` times. -/
def canonReduce {α : Type} (comb : α → α → α) : Nat → List α → List α
  | 0, l => l
  | fuel + 1, l => canonReduce comb fuel (treeLevel comb l)

/-- Bytes of position j's shard (13, operations 2 and 3). -/
def shardBytes (d : CollDesc) (j : Nat) : Nat := (min d.shard (d.n - j * d.shard)) * collSize d

/-- Chunks of b bytes. -/
def chunksIn (b : Nat) : Nat := ceilDiv b 192

/-- An entry of the expert table. -/
structure ExpEnt where
  owner : Nat
  loc : Nat
  cap : Nat
deriving DecidableEq, Repr

/-- The expert table of n experts. -/
def expTable (n : Nat) (b : List Byte) : List ExpEnt :=
  (chunksOf 16 n b).map (fun e =>
    { owner := leNat (e.take 4), loc := leNat ((e.drop 4).take 2), cap := leNat ((e.drop 8).take 4) })

/-- Is an entry of the expert table right for a group of n positions. -/
def expOk (n : Nat) (e : List Byte) : Bool :=
  decide (leNat (e.take 4) < n) && leNat ((e.drop 6).take 2) = 0 && decide (leNat ((e.drop 8).take 4) ≤ 2 ^ 20) &&
    leNat ((e.drop 12).take 4) = 0

/-- Local experts of a position: one more than the largest local index. -/
def localExperts (t : List ExpEnt) (pos : Nat) : Nat :=
  ((t.filter (fun e => e.owner = pos)).map (fun e => e.loc + 1)).foldl max 0

/-- C_max of an owner. -/
def capMax (t : List ExpEnt) (pos : Nat) : Nat := ((t.filter (fun e => e.owner = pos)).map (·.cap)).foldl max 0

/-- Receive rows of a position. -/
def recvRows (t : List ExpEnt) (pos : Nat) : Nat := localExperts t pos * capMax t pos

/-- Does a range of the slice lie inside its region; an empty range does. -/
def collHas (q : Partition) (off n : Nat) : Bool := n = 0 || (decide (off < 2 ^ 48) && inSlice q off n)

/-- Source and destination bytes of a call at position pos. -/
def collSpans (d : CollDesc) (t : List ExpEnt) (pos : Nat) : Nat × Nat :=
  let es := collSize d
  match d.op with
  | 1 => (d.n * es, d.n * es)
  | 2 => (d.n * es, shardBytes d pos)
  | 3 => (shardBytes d pos, d.n * es)
  | 4 => if pos = d.shard then (d.n * es, d.n * es) else (0, d.n * es)
  | 5 => (d.slots * d.d, recvRows t pos * d.d)
  | _ => (recvRows t pos * d.d, 0)

/-- The reserved fields and the codes of a descriptor (13, R426 check 1). Assumption 40 (DEDUCED). -/
def collFieldsOk (d : CollDesc) (b : List Byte) : Bool :=
  let a2a := d.op = 5 || d.op = 6
  decide (1 ≤ d.op) && decide (d.op ≤ 6) && decide (d.dtype ≤ 3) && decide (d.comb ≤ 2) && decide (d.flags < 4) &&
    (d.op = 5 || !d.flags.testBit 1) && decide (1 ≤ d.n) && decide (d.n ≤ 2 ^ 40) && d.group % 8 = 0 && d.nfSrc % 8 = 0 &&
    d.nfDst % 8 = 0 && (d.dtype != 2 || d.comb = 0) && ((d.op != 1 && d.op != 2) || d.dtype != 0) &&
    (d.op = 2 || d.op = 3 || d.op = 4 || d.shard = 0) &&
    (if a2a then
      d.dtype = 0 && d.n = 1 && leNat ((b.drop 81).take 3) = 0 && decide (1 ≤ d.nExp) && decide (d.nExp ≤ 65536) &&
        decide (1 ≤ d.slots) && decide (d.slots ≤ 2 ^ 20) && decide (1 ≤ d.k) && decide (d.k ≤ 8) && decide (64 ≤ d.d) &&
        decide (d.d ≤ 65536) && d.d % 64 = 0
     else leNat (b.drop 64) = 0)

/-- The group record of a call: its ranks; none where it breaks R419 or does not fit the job (13, R426 check 1). -/
def groupRanks (s : State) (p off : Nat) : Option (List Nat) :=
  let q := part s p
  let n := hbmLe s p off 4
  if !collHas q off 8 || n = 0 || 262144 < n || hbmLe s p (off + 4) 4 != 0 || !collHas q off (8 + 4 * n) then none
  else
    let rs := words32 n (hbmBytes s p (off + 8) (4 * n))
    if ((rs.zip (rs.drop 1)).all (fun e => decide (e.1 < e.2))) && rs.all (fun r => decide (r < q.job.ranks)) &&
        rs.contains q.job.rank then some rs else none

/-- The arrays of a call lie in their regions (13, R426 check 1). -/
def collArraysOk (s : State) (p : Nat) (d : CollDesc) (t : List ExpEnt) (pos : Nat) : Bool :=
  let q := part s p
  let sp := collSpans d t pos
  let tk := d.slots * d.k
  collHas q d.src sp.1 && collHas q d.dst sp.2 && (!nfEn d || (collHas q d.nfSrc 8 && collHas q d.nfDst 8)) &&
    (d.op < 5 || (collHas q d.list (4 * tk) && collHas q d.orig (8 * recvRows t pos) && collHas q d.cnt (8 * localExperts t pos) &&
      collHas q d.ret (tk * d.d) && collHas q d.drop ((tk + 7) / 8)))

/-- The expert table and the dispatch list of a call are right (13, "Experts and the all-to-all"). -/
def expertsOk (s : State) (p : Nat) (d : CollDesc) (n : Nat) : Bool :=
  let q := part s p
  d.op < 5 ||
    (collHas q d.etab (16 * d.nExp) &&
      (chunksOf 16 d.nExp (hbmBytes s p d.etab (16 * d.nExp))).all (expOk n) &&
      (words32 (d.slots * d.k) (hbmBytes s p d.list (4 * (d.slots * d.k)))).all (fun e =>
        decide (e < d.nExp) || e = 0xFFFFFFFF))

/-- Do two ranges overlap. -/
def spansMeet (a m b n : Nat) : Bool := decide (0 < m) && decide (0 < n) && decide (a < b + n) && decide (b < a + m)

/-- The status that refuses a call, the first that fails; `ord` is its place among the distinct calls of the attempt
(13, R426, R433). Assumption 40 (DEDUCED). -/
def collRefusal (s : State) (p ord : Nat) (c : CollCall) : Option Nat :=
  let d := collDesc c.desc
  match groupRanks s p d.group with
  | none => some 0x0190
  | some rs =>
    let n := rs.length
    let pos := rs.idxOf (part s p).job.rank
    let fields := c.resv = 0 && collFieldsOk d c.desc && (!c.relaxed || d.op = 5) && decide (d.group < 2 ^ 48) &&
      ((d.op != 2 && d.op != 3) || decide (d.n ≤ n * d.shard)) && (d.op != 4 || decide (d.shard < n))
    if !fields || !expertsOk s p d n then some 0x0190
    else
      let t := expTable d.nExp (if d.op < 5 then [] else hbmBytes s p d.etab (16 * d.nExp))
      let sp := collSpans d t pos
      let same := d.src = d.dst && sp.1 = sp.2
      if !collArraysOk s p d t pos then some 0x0190
      else if spansMeet d.src sp.1 d.dst sp.2 && (!same || d.op != 1) then some 0x0191
      else if 64 ≤ ord then some 0x0490 else none

/-- The call of an identity. -/
def callOf (s : State) (p id : Nat) : Option CollCall := (part s p).cl.inAttempt.find? (fun c => c.id = id)

/-- Change the call of an identity. -/
def withCall (s : State) (p id : Nat) (f : CollCall → CollCall) : State :=
  withCl s p (fun x => { x with inAttempt := x.inAttempt.map (fun c => if c.id = id then f c else c) })

/-- Send a collective flit to the rank at a position; x is a node as level + 32 · node, or an assignment as 8 · slot + choice
(log entry 33). Assumption 33 (DESIGN CHOICE). -/
def sendColl (s : State) (p : Nat) (c : CollCall) (mtype kind x piece pos : Nat) (poison : Bool) (d : List Byte) : State :=
  let h := flitFrom s p mtype
  routeFlit s p (nth c.group pos)
    { h with
      addr := c.id + kind * 2 ^ 32 + x * 2 ^ 35 + piece / 2 ^ 32 % 64 * 2 ^ 58, frag := piece % 65536, plen := d.length,
      arg := c.sig + piece / 65536 % 65536 * 65536, payload := d, mflags := h.mflags + 1 + 2 * b2n poison }

/-- A collective flit taken apart (log entry 33). -/
structure CollMsg where
  id : Nat
  kind : Nat
  x : Nat
  piece : Nat
  sig : Nat
  src : Nat
  data : List Byte
  poison : Bool
  mark : Option Nat
deriving DecidableEq, Repr

/-- The fields of a collective flit. Assumption 33 (DESIGN CHOICE). -/
def collMsg (f : Flit) : CollMsg :=
  { id := bits f.addr 0 32, kind := bits f.addr 32 3, x := bits f.addr 35 23,
    piece := f.frag + bits f.arg 16 16 * 65536 + bits f.addr 58 6 * 2 ^ 32, sig := bits f.arg 0 16, src := f.src,
    data := f.payload.take f.plen, poison := f.mflags.testBit 1, mark := flitMark f }

/-- Give the completion word of a call to a request (13, R425, R427). -/
def giveWord (s : State) (p : Nat) (word : Nat) (poison : Bool) (mark : Option Nat) (w : Nat × Nat) : State :=
  withDma (answerBuf s p w.1 w.2 .coll (leBytes 8 word) poison) p w.1 (fun m => withBuf m w.2 (fun b =>
    if b.kind = .coll then { b with mark := strongerMark b.mark mark } else b))

/-- Form the completion word of a call, which is then present at every request (13, R427, R430, R431). -/
def formWord (s : State) (p id word : Nat) : State :=
  match callOf s p id with
  | none => s
  | some c =>
    if c.word.isSome then s
    else c.waiters.foldl (fun t w => giveWord t p word c.poison c.mark w) (withCall s p id (fun x => { x with word := some word }))

/-- A call is refused (13, R426). -/
def refuseCall (s : State) (p id status : Nat) : State :=
  formWord (withCl s p (fun x => { x with refused := satInc x.refused 1, status := x.status ||| 0x200 })) p id (updRefused status)

/-- Note that a call delivered poison: event 0x0591 once for the call (13, R431). -/
def notePoisonOut (s : State) (p id : Nat) : State :=
  match callOf s p id with
  | none => s
  | some c =>
    let t := withCl (withCall s p id (fun x => { x with poison := true })) p (fun x => { x with status := x.status ||| 0x400 })
    if c.poison then t else sendEvent t srcFw p 0x0591 id

/-- Write delivered bytes: as a committed write, or as poisoned lines (13, R431, R434). -/
def collWrite (s : State) (p id off : Nat) (poison : Bool) (d : List Byte) : State :=
  if d.isEmpty then s
  else if poison then notePoisonOut (hbmPoison s p off d.length) p id
  else hbmStore .committed s p off d

/-- Destination of a chunk at a position: offset, bytes of the chunk to skip, bytes to write (13, R433). -/
def collDest (d : CollDesc) (pos src c len : Nat) : Nat × Nat × Nat :=
  let es := collSize d
  if c = nfChunk then (d.nfDst, 0, 8)
  else match d.op with
    | 2 =>
      let lo := pos * d.shard * es
      let hi := lo + shardBytes d pos
      let a := max lo (192 * c)
      let b := min hi (192 * c + len)
      (d.dst + (a - lo), a - 192 * c, b - a)
    | 3 => (d.dst + src * d.shard * es + 192 * c, 0, len)
    | _ => (d.dst + 192 * c, 0, len)

/-- Deliveries that complete operations 1 to 4 at a position (13, R427, R433). -/
def collNeed (d : CollDesc) (pos n : Nat) : Nat :=
  let es := collSize d
  b2n (nfEn d) + (match d.op with
    | 2 =>
      let lo := pos * d.shard * es
      let k := shardBytes d pos
      if k = 0 then 0 else (lo + k - 1) / 192 - lo / 192 + 1
    | 3 => ((List.range n).map (fun j => chunksIn (shardBytes d j))).foldl (· + ·) 0
    | _ => chunksIn (d.n * es))

/-- Complete a call of operations 1 to 4 once every delivery was made. -/
def collCheck (s : State) (p id : Nat) : State :=
  match callOf s p id with
  | none => s
  | some c =>
    if c.word.isSome || c.done.length < collNeed (collDesc c.desc) c.pos c.group.length then s
    else formWord (withCl s p (fun x => { x with calls := satInc x.calls 1 })) p id 0

/-- Deliver a chunk here: source position, chunk, bytes, poison. -/
def collDeliver (s : State) (p id src c : Nat) (d : List Byte) (poison : Bool) : State :=
  match callOf s p id with
  | none => s
  | some call =>
    if call.broken || call.done.any (fun e => e.level = src && e.chunk = c) then s
    else
      let w := collDest (collDesc call.desc) call.pos src c d.length
      let t := collWrite s p id w.1 poison ((d.drop w.2.1).take w.2.2)
      collCheck (withCall t p id (fun x =>
        { x with done := x.done ++ [{ level := src, node := 0, chunk := c, data := [], poison := poison }] })) p id

/-- Send the value of a node down its tree, from the position that executes it (13, R433). -/
def nodeDown (p id : Nat) : Nat → Nat → Nat → List Byte → Bool → State → State
  | 0, _, c, d, b, s => collDeliver s p id 0 c d b
  | l + 1, i, c, d, b, s =>
    match callOf s p id with
    | none => s
    | some call =>
      let n := call.group.length
      let go (j : Nat) (t : State) : State :=
        if executor l j c n = call.pos then nodeDown p id l j c d b t
        else sendColl t p call 8 1 (l + 32 * j) c (executor l j c n) b d
      let t := go (2 * i) s
      if n ≤ (2 * i + 1) * 2 ^ l then t else go (2 * i + 1) t

/-- The value of a chunk's root goes to the positions that take it (13, R432, R433). -/
def rootDown (s : State) (p id c : Nat) (d : List Byte) (b : Bool) : State :=
  match callOf s p id with
  | none => s
  | some call =>
    let e := collDesc call.desc
    let n := call.group.length
    if e.op != 2 || c = nfChunk then nodeDown p id (treeTop n) 0 c d b s
    else
      ((List.range n).filter (fun k =>
        spansMeet (k * e.shard * collSize e) (shardBytes e k) (192 * c) d.length)).foldl (fun t k =>
        if k = call.pos then collDeliver t p id 0 c d b else sendColl t p call 8 1 (32 * k) c k b d) s

/-- The value of node (l, i) of a chunk, known at a position that executes it or its parent: it joins its parent, goes to the
parent's executor, or is the root (13, R421, R423). -/
def nodeUp (p id : Nat) : Nat → Nat → Nat → Nat → List Byte → Bool → State → State
  | 0, _, _, _, _, _, s => s
  | fuel + 1, l, i, c, d, b, s =>
    match callOf s p id with
    | none => s
    | some call =>
      let n := call.group.length
      let width := ceilDiv n (2 ^ l)
      let sib := if i % 2 = 0 then i + 1 else i - 1
      if width ≤ 1 then rootDown s p id c d b
      else if width ≤ sib then nodeUp p id fuel (l + 1) (i / 2) c d b s
      else if executor (l + 1) (i / 2) c n != call.pos then
        sendColl s p call 8 0 (l + 32 * i) c (executor (l + 1) (i / 2) c n) b d
      else
        match call.nodes.find? (fun e => e.level = l && e.node = sib && e.chunk = c) with
        | none =>
          withCall s p id (fun x =>
            { x with nodes := x.nodes ++ [{ level := l, node := i, chunk := c, data := d, poison := b }] })
        | some o =>
          let t := withCall s p id (fun x =>
            { x with nodes := x.nodes.filter (fun e => !(e.level = l && e.node = sib && e.chunk = c)) })
          let e := collDesc call.desc
          let v := if i % 2 = 0 then combChunk e c d o.data else combChunk e c o.data d
          nodeUp p id fuel (l + 1) (i / 2) c v (b || o.poison) t

/-- Send bytes to every other position, in chunks from this one, and deliver them here (operations 3 and 4). -/
def collSpread (s : State) (p id : Nat) (chunks : List (Nat × List Byte × Bool)) : State :=
  match callOf s p id with
  | none => s
  | some call =>
    let src := if (collDesc call.desc).op = 3 then call.pos else 0
    chunks.foldl (fun t e =>
      let u := ((List.range call.group.length).filter (fun k => k != call.pos)).foldl (fun v k =>
        sendColl v p call 8 2 (32 * src) e.1 k e.2.2 e.2.1) t
      collDeliver u p id src e.1 e.2.1 e.2.2) s

/-- The chunks of a source array with their poison. -/
def collChunks (s : State) (p off n : Nat) : List (Nat × List Byte × Bool) :=
  ((chunksOf 192 (chunksIn n) (hbmBytes s p off n)).zipIdx).map (fun e =>
    (e.2, e.1, !(hbmBad s p (off + 192 * e.2) e.1.length).isEmpty))

/-- The contribution of a call of operations 1 to 4 enters (13, R427, R432, R433). -/
def collEnter (s : State) (p : Nat) (c : CollCall) : State :=
  let d := collDesc c.desc
  let es := collSize d
  let nf : List (Nat × List Byte × Bool) :=
    if nfEn d then [(nfChunk, hbmBytes s p d.nfSrc 8, !(hbmBad s p d.nfSrc 8).isEmpty)] else []
  let up (l : List (Nat × List Byte × Bool)) (t : State) : State :=
    l.foldl (fun u e => nodeUp p c.id 20 0 c.pos e.1 e.2.1 e.2.2 u) t
  match d.op with
  | 3 => up nf (collSpread s p c.id (collChunks s p d.src (shardBytes d c.pos)))
  | 4 => if c.pos = d.shard then collSpread s p c.id (collChunks s p d.src (d.n * es) ++ nf) else s
  | _ => up (collChunks s p d.src (d.n * es) ++ nf) s

/-- The expert table of a call. -/
def callTable (c : CollCall) : List ExpEnt := expTable (collDesc c.desc).nExp c.etab

/-- An entry of the expert table. -/
def expAt (c : CollCall) (e : Nat) : ExpEnt := (callTable c).getD e { owner := 0, loc := 0, cap := 0 }

/-- The dispatch list of a position, if it has come. -/
def listOf (c : CollCall) (src : Nat) : Option (List Nat) := (c.lists.find? (fun e => e.1 = src)).map (·.2)

/-- Entry number tk + j of a position's dispatch list. -/
def listEntry (c : CollCall) (src x : Nat) : Nat := match listOf c src with | some l => l.getD x 0xFFFFFFFF | none => 0xFFFFFFFF

/-- Every assignment that chose expert e, as (source, tk + j), in the order of its key (13, R435). -/
def expertKeys (c : CollCall) (e : Nat) : List (Nat × Nat) :=
  let d := collDesc c.desc
  let n := c.group.length
  let all : List (Nat × Nat) :=
    if d.flags.testBit 1 then
      (List.range d.k).flatMap (fun j => (List.range n).flatMap (fun q => (List.range d.slots).map (fun t => (q, t * d.k + j))))
    else (List.range n).flatMap (fun q => (List.range (d.slots * d.k)).map (fun x => (q, x)))
  all.filter (fun a => listEntry c a.1 a.2 = e)

/-- `place` of R435: the row of an assignment, none where it is dropped. Assumption 40 (DEDUCED). -/
def placeRow (c : CollCall) (src x : Nat) : Option Nat :=
  let e := listEntry c src x
  if e = 0xFFFFFFFF then none
  else match (expertKeys c e).idxOf? (src, x) with
    | some r => if r < (expAt c e).cap then some r else none
    | none => none

/-- Number of a receive row at this position: expert e, row r. -/
def recvRow (c : CollCall) (e r : Nat) : Nat := (expAt c e).loc * capMax (callTable c) c.pos + r

/-- An origin record (13, R436). -/
def originRec (c : CollCall) (src x : Nat) : Nat :=
  let k := (collDesc c.desc).k
  x / k + x % k * 2 ^ 20 + src * 2 ^ 23 + 2 ^ 63

/-- Write a row and its origin record at the owner (13, R436). -/
def landRow (s : State) (p : Nat) (c : CollCall) (src x e r : Nat) (data : List Byte) (poison : Bool) : State :=
  let d := collDesc c.desc
  let g := recvRow c e r
  hbmStore .committed (collWrite s p c.id (d.dst + g * d.d) poison data) p (d.orig + 8 * g) (leBytes 8 (originRec c src x))

/-- Note one step of an all-to-all as done: kind 1 a row handled at the owner, 2 an answer to the source, 3 the owner's records
written, 4 the source's records written, 5 a row returned. -/
def noteDone (s : State) (p id kind src x : Nat) (data : List Byte) : State :=
  withCall s p id (fun c => { c with done := c.done ++ [{ level := kind, node := src, chunk := x, data := data, poison := false }] })

/-- Steps of a kind that are done. -/
def doneOf (c : CollCall) (kind : Nat) : List CollPart := c.done.filter (fun e => e.level = kind)

/-- Experts of this position. -/
def ownExperts (c : CollCall) : List Nat := (List.range (callTable c).length).filter (fun e => (expAt c e).owner = c.pos)

/-- Rows placed so far at expert e: by the placement rule, or under `relaxed` by arrival. -/
def placedAt (c : CollCall) (e : Nat) : Nat :=
  if c.relaxed then ((doneOf c 1).filter (fun r => listEntry c r.node r.chunk = e && r.data = [1])).length
  else min (expertKeys c e).length (expAt c e).cap

/-- The owner's records: zero rows with zero origin records up to C_max, and the count records (13, R436). -/
def ownerRecords (s : State) (p : Nat) (c : CollCall) : State :=
  let d := collDesc c.desc
  let cm := capMax (callTable c) c.pos
  (ownExperts c).foldl (fun t e =>
    let n := placedAt c e
    let g := recvRow c e n
    let k := cm - n
    let u := if k = 0 then t else hbmStore .committed (hbmStore .committed t p (d.dst + g * d.d) (List.replicate (k * d.d) 0)) p
      (d.orig + 8 * g) (List.replicate (8 * k) 0)
    hbmStore .committed u p (d.cnt + 8 * (expAt c e).loc) (leBytes 4 n ++ leBytes 4 ((expertKeys c e).length - n))) s

/-- Was assignment x of this position dropped. -/
def droppedHere (c : CollCall) (x : Nat) : Bool :=
  if listEntry c c.pos x = 0xFFFFFFFF then false
  else if c.relaxed then (doneOf c 2).any (fun r => r.chunk = x && r.data = [0])
  else (placeRow c c.pos x).isNone

/-- The source's records: the drop map, and zero return rows of dropped and empty assignments (13, R436). -/
def sourceRecords (s : State) (p : Nat) (c : CollCall) : State :=
  let d := collDesc c.desc
  let tk := d.slots * d.k
  let xs := List.range tk
  let map := (chunksOf 8 tk (xs.map (droppedHere c))).map (fun b => bitsOfList 8 b)
  let t := hbmStore .committed s p d.drop map
  let gone := xs.filter (fun x => droppedHere c x || listEntry c c.pos x = 0xFFFFFFFF)
  let u := gone.foldl (fun v x => hbmStore .committed v p (d.ret + x * d.d) (List.replicate d.d 0)) t
  let k := countTrue (xs.map (droppedHere c))
  withCl (withCall u p c.id (fun y => { y with nf := k })) p (fun y => { y with drop := satInc y.drop k })

/-- Are the dispatch lists of every position here. -/
def listsHere (c : CollCall) : Bool := c.lists.length = c.group.length

/-- Assignments of this position that name an expert. -/
def ownAssigned (c : CollCall) : List Nat :=
  (List.range ((collDesc c.desc).slots * (collDesc c.desc).k)).filter (fun x => listEntry c c.pos x != 0xFFFFFFFF)

/-- Rows that this position returns to a source and that are still to come: entries neither empty nor dropped (13, R437). -/
def returnsDue (s : State) (p : Nat) (d : CollDesc) : List Nat :=
  let map := hbmBytes s p d.drop ((d.slots * d.k + 7) / 8)
  let l := words32 (d.slots * d.k) (hbmBytes s p d.list (4 * (d.slots * d.k)))
  (List.range (d.slots * d.k)).filter (fun x => l.getD x 0xFFFFFFFF != 0xFFFFFFFF && !(map.getD (x / 8) 0).getLsbD (x % 8))

/-- Write what has become known of an all-to-all, and complete the call once everything was done (13, R427, R436 to R438). -/
def a2aCheck (s : State) (p id : Nat) : State :=
  match callOf s p id with
  | none => s
  | some c =>
    let d := collDesc c.desc
    if c.word.isSome || !c.begun then s
    else if d.op = 6 then
      if (doneOf c 5).length < c.nf then s else formWord (withCl s p (fun x => { x with calls := satInc x.calls 1 })) p id 0
    else
      let rows : Nat := if c.relaxed then ((ownExperts c).map (fun e => (expertKeys c e).length)).foldl (· + ·) 0
        else ((ownExperts c).map (placedAt c)).foldl (· + ·) 0
      let t := if listsHere c && decide (rows ≤ (doneOf c 1).length) && (doneOf c 3).isEmpty then
        noteDone (ownerRecords s p c) p id 3 0 0 [] else s
      let u := if listsHere c && (!c.relaxed || decide ((ownAssigned c).length ≤ (doneOf c 2).length)) && (doneOf c 4).isEmpty then
        noteDone (sourceRecords t p c) p id 4 0 0 [] else t
      match callOf u p id with
      | none => u
      | some k =>
        if (doneOf k 3).isEmpty || (doneOf k 4).isEmpty then u
        else formWord (withCl u p (fun x => { x with calls := satInc x.calls 1 })) p id (min k.nf (2 ^ 32 - 1))

/-- Pieces of a row or list with their numbers. -/
def a2aPieces (d : List Byte) : List (List Byte × Nat) := (chunksOf 192 (chunksIn d.length) d).zipIdx

/-- An answer to the source of a relaxed assignment: placed or dropped. -/
def a2aTell (s : State) (p : Nat) (c : CollCall) (src x : Nat) (placed : Bool) : State :=
  let d : List Byte := [if placed then 1 else 0]
  if src = c.pos then noteDone s p c.id 2 0 x d
  else
    let k := (collDesc c.desc).k
    sendColl s p c 9 2 (8 * (x / k) + x % k) 0 src false d

/-- A complete row is handled at its owner (13, R436, R438). -/
def a2aOwn (s : State) (p id : Nat) (r : CollRow) : State :=
  match callOf s p id with
  | none => s
  | some c =>
    let e := listEntry c r.src r.slot
    if c.relaxed then
      let n := placedAt c e
      let fits := decide (n < (expAt c e).cap)
      let t := if fits then landRow s p c r.src r.slot e n r.data r.poison else s
      a2aTell (noteDone t p id 1 r.src r.slot [if fits then 1 else 0]) p c r.src r.slot fits
    else match placeRow c r.src r.slot with
      | none => s
      | some n => noteDone (landRow s p c r.src r.slot e n r.data r.poison) p id 1 r.src r.slot [1]

/-- Handle the rows that wait, once their lists are known: all lists, or under `relaxed` the source's. -/
def a2aRows (s : State) (p id : Nat) : State :=
  match callOf s p id with
  | none => s
  | some c =>
    let able (r : CollRow) : Bool := if c.relaxed then (listOf c r.src).isSome else listsHere c
    let t := (c.rows.filter able).foldl (fun u r => a2aOwn u p id r)
      (withCall s p id (fun x => { x with rows := x.rows.filter (fun r => !able r) }))
    a2aCheck t p id

/-- Send the row of assignment x of this position to its owner, or keep it where this position owns the expert. -/
def a2aSend (s : State) (p id x : Nat) : State :=
  match callOf s p id with
  | none => s
  | some c =>
    let d := collDesc c.desc
    let row := (c.src.drop (x / d.k * d.d)).take d.d
    let bad := !(hbmBad s p (d.src + x / d.k * d.d) d.d).isEmpty
    let to_ := (expAt c (listEntry c c.pos x)).owner
    if to_ = c.pos then
      withCall s p id (fun y => { y with rows := y.rows ++ [{ src := c.pos, slot := x, choice := 0, expert := 0, data := row,
                                                              poison := bad }] })
    else (a2aPieces row).foldl (fun t e => sendColl t p c 9 1 (8 * (x / d.k) + x % d.k) e.2 to_ bad e.1) s

/-- The strict rows go out once every list is here. Assumption 40 (DEDUCED). -/
def a2aGo (s : State) (p id : Nat) : State :=
  match callOf s p id with
  | none => s
  | some c =>
    if c.relaxed || !listsHere c then s
    else ((ownAssigned c).filter (fun x => (placeRow c c.pos x).isSome)).foldl (fun t x => a2aSend t p id x) s

/-- The contribution of an all-to-all enters (13, R435 to R438). -/
def a2aEnter (s : State) (p : Nat) (c : CollCall) : State :=
  let d := collDesc c.desc
  let tk := d.slots * d.k
  if d.op = 5 then
    let lb := hbmBytes s p d.list (4 * tk)
    let t := withCall s p c.id (fun x => { x with lists := x.lists ++ [(c.pos, words32 tk lb)] })
    let u := ((List.range c.group.length).filter (fun k => k != c.pos)).foldl (fun v k =>
      (a2aPieces lb).foldl (fun w e => sendColl w p c 9 0 0 e.2 k false e.1) v) t
    let v := if c.relaxed then (match callOf u p c.id with
        | some y => (ownAssigned y).foldl (fun w x => a2aSend w p c.id x) u
        | none => u) else u
    a2aRows (a2aGo v p c.id) p c.id
  else
    let cm := capMax (callTable c) c.pos
    let t := withCall s p c.id (fun x => { x with nf := (returnsDue s p d).length })
    let u := (List.range (recvRows (callTable c) c.pos)).foldl (fun v g =>
      let o := leNat (hbmBytes v p (d.orig + 8 * g) 8)
      let src := bits o 23 18
      let x := bits o 0 20 * d.k + bits o 20 3
      if !o.testBit 63 || c.group.length ≤ src || cm = 0 then v
      else
        let row := (c.src.drop (g * d.d)).take d.d
        let bad := !(hbmBad v p (d.src + g * d.d) d.d).isEmpty
        if src = c.pos then noteDone (collWrite v p c.id (d.ret + x * d.d) bad row) p c.id 5 0 x []
        else (a2aPieces row).foldl (fun w e => sendColl w p c 9 3 (8 * bits o 0 20 + bits o 20 3) e.2 src bad e.1) v) t
    a2aCheck u p c.id

/-- A piece of a list or row arrives; its whole content once every piece is here. Assumption 33 (DESIGN CHOICE). -/
def a2aPiece (s : State) (p id kind src x piece need : Nat) (data : List Byte) (poison : Bool) :
    State × Option (List Byte × Bool) :=
  match callOf s p id with
  | none => (s, none)
  | some c =>
    let part : CollPart := { level := 8 + kind, node := src * 2 ^ 23 + x, chunk := piece, data := data, poison := poison }
    let mine (e : CollPart) : Bool := e.level = 8 + kind && e.node = src * 2 ^ 23 + x
    let have_ := c.nodes.filter mine ++ [part]
    if have_.length < need then (withCall s p id (fun y => { y with nodes := y.nodes ++ [part] }), none)
    else
      let get (i : Nat) : List Byte := match have_.find? (fun e => e.chunk = i) with | some e => e.data | none => []
      (withCall s p id (fun y => { y with nodes := y.nodes.filter (fun e => !mine e) }),
       some ((List.range need).flatMap get, have_.any (·.poison)))

/-- An all-to-all flit of a call that has begun (13, R435 to R438). Assumption 33 (DESIGN CHOICE). -/
def a2aFlit (s : State) (p : Nat) (c : CollCall) (m : CollMsg) : State :=
  let d := collDesc c.desc
  let src := c.group.idxOf m.src
  let x := m.x / 8 * d.k + m.x % 8
  let piece (need : Nat) : State × Option (List Byte × Bool) := a2aPiece s p c.id m.kind src m.x m.piece need m.data m.poison
  match m.kind with
  | 0 =>
    match piece (chunksIn (4 * (d.slots * d.k))) with
    | (t, none) => t
    | (t, some (b, _)) =>
      a2aRows (a2aGo (withCall t p c.id (fun y => { y with lists := y.lists ++ [(src, words32 (d.slots * d.k) b)] })) p c.id) p c.id
  | 1 =>
    match piece (chunksIn d.d) with
    | (t, none) => t
    | (t, some (b, bad)) =>
      a2aRows (withCall t p c.id (fun y =>
        { y with rows := y.rows ++ [{ src := src, slot := x, choice := 0, expert := 0, data := b, poison := bad }] })) p c.id
  | 2 => a2aCheck (noteDone s p c.id 2 0 x m.data) p c.id
  | 3 =>
    match piece (chunksIn d.d) with
    | (t, none) => t
    | (t, some (b, bad)) => a2aCheck (noteDone (collWrite t p c.id (d.ret + x * d.d) bad b) p c.id 5 0 x []) p c.id
  | _ => s

/-- Every destination range of a call (13, R430). -/
def collTargets (c : CollCall) : List (Nat × Nat) :=
  let d := collDesc c.desc
  let t := callTable c
  let sp := collSpans d t c.pos
  let tk := d.slots * d.k
  (d.dst, sp.2) :: (if nfEn d && d.op < 5 then [(d.nfDst, 8)] else []) ++
    (if d.op = 5 then [(d.orig, 8 * recvRows t c.pos), (d.cnt, 8 * localExperts t c.pos), (d.drop, (tk + 7) / 8)]
     else if d.op = 6 then [(d.ret, tk * d.d)] else [])

/-- A flit of another group signature: it is dropped, and the call completes with its destination poisoned (13, R430). -/
def sigMismatch (s : State) (p : Nat) (c : CollCall) : State :=
  let t := withCl s p (fun x => { x with sigMis := satInc x.sigMis 1, status := x.status ||| 0x100 })
  if c.broken then t
  else
    let u := sendEvent t srcFw p 0x0590 c.id
    let v := (collTargets c).foldl (fun w r => hbmPoison w p r.1 r.2) (withCall u p c.id (fun x =>
      { x with broken := true, poison := true }))
    formWord (withCl v p (fun x => { x with calls := satInc x.calls 1 })) p c.id 0

/-- A collective flit is taken by its call (13, R430 to R438). Assumption 33 (DESIGN CHOICE). -/
def collTake (s : State) (p : Nat) (c : CollCall) (f : Flit) : State :=
  let m := collMsg f
  if m.sig != c.sig then sigMismatch s p c
  else
    let t := withCall s p c.id (fun x => { x with mark := strongerMark x.mark m.mark })
    if f.mtype = 9 then (if c.broken then t else a2aFlit t p c m)
    else
      let l := m.x % 32
      let i := m.x / 32
      match m.kind with
      | 0 => nodeUp p c.id 20 l i m.piece m.data m.poison t
      | 1 => nodeDown p c.id l i m.piece m.data m.poison t
      | 2 => collDeliver t p c.id i m.piece m.data m.poison
      | _ => t

/-- A collective flit that passed its checks: taken by its call, or kept until the call has begun (13, R427, R429).
Assumption 33 (DESIGN CHOICE). -/
def collFlit (s : State) (p : Nat) (f : Flit) : State :=
  let q := part s p
  let now := f.step = q.seq.step && f.attempt = q.seq.attempt % 256
  match (callOf s p (collMsg f).id).filter (fun c => now && c.begun) with
  | some c => collTake s p c f
  | none => withCl s p (fun x => { x with early := x.early ++ [f] })

/-- A COLL of local cluster l into buffer i (13, R424, R425). -/
def collIssue (s : State) (p l i off : Nat) (relaxed : Bool) (resv : Nat) : State :=
  let id := hbmLe s p off 4
  match callOf s p id with
  | some c =>
    match c.word with
    | some w => giveWord s p w c.poison c.mark (l, i)
    | none => withCall s p id (fun x => { x with waiters := x.waiters ++ [(l, i)] })
  | none =>
    let bad := hbmBad s p off 128
    withCl (countPoisonRead s p bad.length) p (fun x =>
      { x with inAttempt := x.inAttempt ++ [
          { id := id, desc := hbmBytes s p off 128, relaxed := relaxed, resv := resv, u := (part s p).seq.ic, begun := false,
            group := [], pos := 0, sig := 0, src := [], etab := [], nodes := [], done := [], nf := 0, rows := [], lists := [],
            broken := false, poison := !bad.isEmpty, mark := none, word := none, waiters := [(l, i)] }] })

/-- A call of RELAXED jobs with `relaxed` counts once for the partition (02, R68; 13, R424). -/
def countRelaxed (s : State) (p : Nat) : State :=
  withPart (withCl s p (fun x => { x with relaxed := satInc x.relaxed 1 })) p (fun q =>
    { q with
      rep := { q.rep with live := { q.rep.live with td := satInc q.rep.live.td 1 } }, seq := { q.seq with td := q.seq.td ||| 1 } })

/-- A call begins once the writes of earlier issue cycles have committed: its refusal checks, then its contribution, then the
flits that waited for it (13, R420, R426, R427). Assumption 40 (DEDUCED). -/
def collBegin (s : State) (p id : Nat) : State :=
  let q := part s p
  match callOf s p id with
  | none => s
  | some c =>
    if q.st != .running || q.se.asked || q.se.replaying || c.begun || c.word.isSome || !writesDone q c.u then s
    else
      match collRefusal s p (q.cl.inAttempt.findIdx (fun x => x.id = id)) c with
      | some st => refuseCall s p id st
      | none =>
        let d := collDesc c.desc
        let rs := (groupRanks s p d.group).getD []
        let sig := crc64Fp (hbmBytes s p d.group (8 + 4 * rs.length)) % 65536
        let pos := rs.idxOf q.job.rank
        let eb := if d.op < 5 then [] else hbmBytes s p d.etab (16 * d.nExp)
        let sp := collSpans d (expTable d.nExp eb) pos
        let src := if d.op < 5 then [] else hbmBytes s p d.src sp.1
        let f (x : CollCall) : CollCall := { x with begun := true, group := rs, sig := sig, pos := pos, etab := eb, src := src }
        let s1 := if c.relaxed then countRelaxed s p else s
        let s2 := withCall s1 p id f
        let s3 := if d.op < 5 then collCheck (collEnter s2 p (f c)) p id else a2aEnter s2 p (f c)
        let mine (g : Flit) : Bool := (collMsg g).id = id && g.step = q.seq.step && g.attempt = q.seq.attempt % 256
        (q.cl.early.filter mine).foldl (fun t g => match callOf t p id with | some k => collTake t p k g | none => t)
          (withCl s3 p (fun x => { x with early := x.early.filter (fun g => !mine g) }))

/-- COLL_BEGIN of a call. -/
def execCollBegin (p : Nat) (id : BitVec 32) (s : State) : Out := onUnit (decide (p < 12)) (collBegin s p id.toNat)

end Sys2Proof.Machine
end

