-- ==== Sys2Proof/Machine/Complete.lean ====
section
/-! DEFINITION. Completions of host commands (17, R565, R566). -/

namespace Sys2Proof.Machine

/-- The 16 bytes of a completion entry (17, R565). -/
def cplBytes (tag status : Nat) (phase : Bool) (value : Nat) : List Byte :=
  leBytes 4 tag ++ leBytes 2 status ++ [if phase then 1 else 0, 0] ++ leBytes 8 value

/-- Value of a completion: the command's own where it succeeded, free otherwise. Assumption 23 (DESIGN CHOICE). -/
def cplValue (op status value : Nat) : Nat := if status = 0 then value else (Config.completionValue op status).toNat

/-- Complete a command of function k: its entry in the completion ring or in MBOX_CPL, then vector 0 (17, R565, R566).
Assumption 23 (DESIGN CHOICE). -/
def completeCmd (s : State) (k : Nat) (w : CmdWait) (status value : Nat) : State :=
  let f := fnOf s k
  let v := cplValue w.op status value
  let t := withFn s k (fun x => { x with waits := x.waits.filter (fun y => y.mbox != w.mbox) })
  if w.mbox then
    raiseVector (withFn t k (fun x =>
      { x with
        mboxCpl := BitVec.ofNat 128 (leNat (cplBytes w.tag status (Config.mailboxPhase w.tag) v)), mboxGo := false })) k 0
  else
    let n := f.cmdSize.toNat
    let b := cplBytes w.tag status f.cplPhase v
    let a := f.cplBaseEff.toNat + 16 * w.idx
    let u := withFn t k (fun x => { x with cplPhase := if w.idx + 1 = n then !x.cplPhase else x.cplPhase })
    if n = 0 then t else if s.host.up then raiseVector (hostWrite u a b) k 0 else holdWrite u (.step a b (some (k, 0)))

/-- Complete the command of function k that waits for something, if there is one. -/
def completeWait (s : State) (k : Nat) (is : CmdWait → Bool) (status : Nat) (value : CmdWait → Nat) : State :=
  match (fnOf s k).waits.find? is with
  | some w => completeCmd s k w status (value w)
  | none => s

/-- Argument bytes of a host command: n bytes from byte lo of the entry, which is at least 8 (17, R565). -/
def argAt (a : HostArgs) (lo n : Nat) : Nat := bits a.args.toNat (8 * (lo - 8)) (8 * n)

/-- Partition that a command names: that of a VF, or byte 56 on the physical function (17, commands).
Assumption 51 (DEDUCED). -/
def argPart (a : HostArgs) : Nat := if a.fn = 0 then argAt a 56 1 % 16 else a.fn - 1

end Sys2Proof.Machine
end

