-- ==== Sys2Proof/Machine/BerylOps.lean ====
section
/-! DEFINITION. Solver contexts and requests: problem images, packets and their checks, answers, the journal, configuration
(14, R450 to R458, R470 to R484). -/

namespace Sys2Proof.Machine

/-- Solver context c. -/
def qpCtxAt (s : State) (c : Nat) : QpCtx := s.beryl.ctxs.getD c qpCtxReset

/-- Change solver context c. -/
def withQp (s : State) (c : Nat) (f : QpCtx → QpCtx) : State :=
  { s with beryl := { s.beryl with ctxs := updAt s.beryl.ctxs c f } }

/-- Is a context bound now (14, R454). -/
def ctxBoundNow (s : State) (c : QpCtx) : Bool := c.enable && decide (c.part.toNat < 12) && jobActive (part s c.part.toNat)

/-- Is an FP64 value an integer. -/
def qpIsInt (v : Nat) : Bool :=
  match fUnpack fmt64 v with
  | .fin _ m e => decide (0 ≤ e) || m % 2 ^ (-e).toNat = 0
  | _ => false

/-- Bounds of setting i, and whether it is an integer (14, R470). -/
def qpRange (i : Nat) : Nat × Nat × Bool :=
  let z (x : Int) : Nat := fOfInt fmt64 x
  match i with
  | 0 => (qPow2 (-40), qPow2 10, false)
  | 1 => (z (-20), z 20, true)
  | 2 => (qOne, fDiv fmt64 (z 15) (z 8), false)
  | 7 => (qOne, z 256, true)
  | 8 => (0, z 65535, true)
  | 9 => (0, z 20, true)
  | 10 => (z (-40), 0, true)
  | _ => (0, qOne, false)

/-- Does a value lie in the range of setting i (14, R470). -/
def qpSetOk (i v : Nat) : Bool :=
  let r := qpRange i
  fLe fmt64 r.1 v && fLe fmt64 v r.2.1 && (!r.2.2 || qpIsInt v)

/-- Default of setting i (14, R470). -/
def qpDefault (i : Nat) : Nat :=
  let z (x : Int) : Nat := fOfInt fmt64 x
  match i with
  | 0 => qPow2 (-20)
  | 1 => z (-3)
  | 2 => fDiv fmt64 (z 3) (z 2)
  | 3 => qPow2 (-10)
  | 4 => qPow2 (-10)
  | 5 => qPow2 (-13)
  | 6 => qPow2 (-13)
  | 7 => z 8
  | 8 => z 32
  | 9 => z 10
  | _ => z (-20)

/-- Are bounds l and u of a constraint permitted (14, R458, R472). -/
def qpBoundOk (l u : Nat) : Bool :=
  !fIsNan fmt64 l && !fIsNan fmt64 u && fLe fmt64 l u && l != fInf fmt64 false && u != fInf fmt64 true

/-- Column starts, rows and values of a matrix of an image as its entries by columns. -/
def qpMatrix (cols rows vals : List Nat) : List QpEnt :=
  let col (j : Nat) : List QpEnt :=
    let a := nth cols j
    ((rows.drop a).take (nth cols (j + 1) - a)).zipIdx.map (fun e => { row := e.1, col := j, val := nth vals (a + e.2) })
  (List.range (cols.length - 1)).flatMap col

/-- The checks of R458 on the columns of a matrix: starts, and rows ascending within each column. -/
def qpColsOk (cols rows : List Nat) (nnz : Nat) (rowOk : Nat → Nat → Bool) : Bool :=
  cols.head? = some 0 && cols.getLast? = some nnz && (cols.zip (cols.drop 1)).all (fun e => decide (e.1 ≤ e.2)) &&
    (List.range (cols.length - 1)).all (fun j =>
      let a := nth cols j
      let rs := (rows.drop a).take (nth cols (j + 1) - a)
      (rs.zip (rs.drop 1)).all (fun e => decide (e.1 < e.2)) && rs.all (fun r => rowOk r j))

/-- The fields of a problem image (14, table of the problem image). -/
structure QpImage where
  n : Nat
  m : Nat
  np : Nat
  na : Nat
  offs : List Nat
  set : List Nat
  headOk : Bool
deriving DecidableEq, Repr

/-- The header of a problem image; `offs` are p_col, p_row, p_val, a_col, a_row, a_val, q, l, u, perm. -/
def qpImage (b : List Byte) : QpImage :=
  let f (lo n : Nat) : Nat := leNat ((b.drop lo).take n)
  let offs := (List.range 10).map (fun i => f (24 + 8 * i) 8)
  { n := f 4 4, m := f 8 4, np := f 12 4, na := f 16 4, offs := offs, set := (List.range 11).map (fun i => f (104 + 8 * i) 8),
    headOk := f 0 4 = 0x4D495051 && f 20 4 = 0 && f 192 64 = 0 && offs.all (fun o => o % 8 = 0) }

/-- Sizes of the arrays of an image, in the order of its offsets. -/
def qpSizes (i : QpImage) : List Nat :=
  [4 * (i.n + 1), 4 * i.np, 8 * i.np, 4 * (i.n + 1), 4 * i.na, 8 * i.na, 8 * i.n, 8 * i.m, 8 * i.m, 4 * (i.n + i.m)]

/-- Strictly lower entries of the factor (14, R459). -/
def qpNnzL (pats : List (List Nat)) : Nat := (pats.map List.length).foldl (· + ·) 0

/-- Solver SRAM that a problem needs, MiB (14, R452). -/
def qpNeed (p : QpProblem) : Nat :=
  ceilDiv (24 * qpNnzL p.pats + 16 * (p.p.length + p.a.length + p.n) + 128 * (p.n + p.m) + 2 ^ 20) (2 ^ 20)

/-- LOAD of an image: the numbers of the context, or the status that refuses it (14, R458, R459).
Assumption 63 (DEDUCED). -/
def qpLoad (s : State) (p off size : Nat) : Except Nat QpVals :=
  let q := part s p
  let has (o n : Nat) : Bool := n = 0 || (decide (o < 2 ^ 48) && inSlice q o n)
  let i := qpImage (hbmBytes s p off 256)
  let at_ (k : Nat) : Nat := off + nth i.offs k
  let spans := (List.range 10).map (fun k => (at_ k, nth (qpSizes i) k))
  let lim := decide (1 ≤ i.n) && decide (i.n ≤ 65536) && decide (i.m ≤ 131072) && decide (i.np ≤ 4194304) && decide (i.na ≤ 4194304)
  if off % 64 != 0 || !has off 256 then .error 0x01A0
  else if !(hbmBad s p off 256).isEmpty then .error 0x05A0
  else if !i.headOk || !lim || !spans.all (fun e => has e.1 e.2) then .error 0x01A0
  else if rangesBad s p spans != 0 then .error 0x05A0
  else
    let w32 (k n : Nat) : List Nat := words32 n (hbmBytes s p (at_ k) (4 * n))
    let w64 (k n : Nat) : List Nat := (chunksOf 8 n (hbmBytes s p (at_ k) (8 * n))).map leNat
    let pc := w32 0 (i.n + 1)
    let pr := w32 1 i.np
    let pv := w64 2 i.np
    let ac := w32 3 (i.n + 1)
    let ar := w32 4 i.na
    let av := w64 5 i.na
    let qv := w64 6 i.n
    let lv := w64 7 i.m
    let uv := w64 8 i.m
    let perm := w32 9 (i.n + i.m)
    let set := (i.set.zipIdx).map (fun e => if e.1 = 2 ^ 64 - 1 then qpDefault e.2 else e.1)
    if !qpColsOk pc pr i.np (fun r j => decide (r ≤ j)) || !qpColsOk ac ar i.na (fun r _ => decide (r < i.m)) ||
        !(List.range (i.n + i.m)).all (fun x => perm.contains x) || !qAllFin (pv ++ av ++ qv) ||
        !(lv.zip uv).all (fun e => qpBoundOk e.1 e.2) || !(set.zipIdx).all (fun e => qpSetOk e.2 e.1) then .error 0x01A0
    else
      let prob0 : QpProblem :=
        { n := i.n, m := i.m, p := qpMatrix pc pr pv, a := qpMatrix ac ar av, q := qv, l := lv, u := uv, perm := perm, pats := [] }
      let prob : QpProblem := { prob0 with pats := qpPatterns prob0 }
      if 4194304 < qpNnzL prob.pats then .error 0x01A0
      else if size < qpNeed prob then .error 0x04A0
      else
        let pe := qpInt set 1
        .ok (qpCold { prob := prob, set := set, pe := pe, evec := qpExps prob set pe, x := [], z := [], y := [],
                      buf0 := { rows := [], diag := [] }, buf1 := { rows := [], diag := [] }, fbuf := false, stale := true })

/-- An entry of a packet. -/
structure QpItem where
  kind : Nat
  idx : Nat
  resv : Nat
  val : Nat
deriving DecidableEq, Repr

/-- A packet taken apart (14, packet header and entries). -/
structure QpPacket where
  op : Nat
  ctx : Nat
  flags : Nat
  count : Nat
  budget : Nat
  wallNs : Nat
  tag : Nat
  headOk : Bool
  items : List QpItem
deriving DecidableEq, Repr

/-- The fields of a packet; bytes beyond its last entry are ignored. -/
def qpPacket (b : List Byte) : QpPacket :=
  let f (lo n : Nat) : Nat := leNat ((b.drop lo).take n)
  let n := f 4 4
  { op := f 0 1, ctx := f 1 1, flags := f 2 1, count := n, budget := f 8 4, wallNs := f 12 4, tag := f 16 8,
    headOk := f 3 1 = 0 && f 24 40 = 0 && decide (64 + 16 * n ≤ b.length),
    items := (chunksOf 16 (min n (b.length / 16)) (b.drop 64)).map (fun e =>
      let w := leNat (e.take 4)
      { kind := w / 2 ^ 28, idx := w % 2 ^ 28, resv := leNat ((e.drop 4).take 4), val := leNat (e.drop 8) }) }

/-- Values that an entry kind may index (14, entry kinds). -/
def qpBelow (p : QpProblem) (kind : Nat) : Nat :=
  match kind with
  | 0 => p.n | 1 => p.m | 2 => p.m | 3 => p.p.length | 4 => p.a.length | 5 => p.n | 6 => p.m | 7 => p.m | 8 => 11 | _ => 0

/-- Is an entry right, its setting's range apart (14, R472). -/
def qpItemOk (p : QpProblem) (e : QpItem) : Bool :=
  decide (e.kind ≤ 8) && decide (e.idx < qpBelow p e.kind) && e.resv = 0 && !fIsNan fmt64 e.val &&
    (fIsFin fmt64 e.val || e.kind = 1 || e.kind = 2)

/-- Class of a constraint: 0 ordinary, 1 equality, 2 free (14, R461). -/
def qpClass (l u : Nat) : Nat := if fEq fmt64 l u then 1 else if fIsInf fmt64 l && fIsInf fmt64 u then 2 else 0

/-- Apply one entry (14, R470, R474, entry kinds). Assumption 63 (DEDUCED). -/
def qpApply (v : QpVals) (e : QpItem) : QpVals :=
  let p := v.prob
  let i := e.idx
  let bound (q : QpProblem) : QpVals :=
    { v with prob := q, stale := v.stale || qpClass (nth p.l i) (nth p.u i) != qpClass (nth q.l i) (nth q.u i) }
  match e.kind with
  | 0 => { v with prob := { p with q := p.q.set i e.val } }
  | 1 => bound { p with l := p.l.set i e.val }
  | 2 => bound { p with u := p.u.set i e.val }
  | 3 => { v with prob := { p with p := updAt p.p i (fun x => { x with val := e.val }) }, stale := true }
  | 4 => { v with prob := { p with a := updAt p.a i (fun x => { x with val := e.val }) }, stale := true }
  | 5 => { v with x := v.x.set i e.val }
  | 6 => { v with z := v.z.set i e.val }
  | 7 => { v with y := v.y.set i e.val }
  | _ =>
    let set := v.set.set i e.val
    { v with set := set, pe := if i = 1 then qpInt set 1 else v.pe, stale := v.stale || i = 0 || i = 1 || i = 9 || i = 10 }

/-- Steps 1 and 2 of R474. -/
def qpEntries (v : QpVals) (k : QpPacket) : QpVals :=
  let w := k.items.foldl qpApply (if k.flags.testBit 0 then qpCold v else v)
  { w with stale := w.stale || k.flags.testBit 4 }

/-- Bytes of a whole answer (14, R472). -/
def qpAnsLen (p : QpProblem) (k : QpPacket) : Nat := 64 + 8 * p.n * b2n (k.flags.testBit 1) + 8 * p.m * b2n (k.flags.testBit 2)

/-- Answer length that a request offers. -/
def reqAnsLen (r : QpReq) : Nat :=
  match r.kind with | .cluster _ _ _ _ n _ => n | .host _ _ _ n => n | _ => 0

/-- Does a cluster that is not the context's client send the request (14, R454). -/
def qpForeign (c : QpCtx) (r : QpReq) : Bool :=
  match r.kind with
  | .cluster p l _ _ _ _ => c.part.toNat != p || c.client.toNat != l || c.client = 0x1FF
  | _ => false

/-- The fields that give 0x01A1 (14, R472). -/
def qpPacketOk (p : QpProblem) (r : QpReq) (k : QpPacket) : Bool :=
  r.resv = 0 && k.headOk && decide (k.flags < 32) && decide (k.ctx < 8) && (k.op = 1 || k.op = 2) &&
    (if k.op = 1 then decide (1 ≤ k.budget) && decide (k.budget ≤ 16777215) else k.budget = 0) && k.flags.testBit 3 = r.wall &&
    (decide (k.wallNs != 0) = r.wall) && k.items.all (qpItemOk p)

/-- The status that refuses a request, the first in the order of R473; the journal's is last (14, R472, R473). -/
def qpRefusal (c : QpCtx) (r : QpReq) : Option Nat :=
  let k := qpPacket r.packet
  if qpForeign c r then some 0x02A2
  else if r.poison then some 0x05A0
  else match (if c.enable then c.vals else none) with
    | none => some 0x02A0
    | some v =>
      if !qpPacketOk v.prob r k then some 0x01A1
      else if !k.items.all (fun e => e.kind != 8 || qpSetOk e.idx e.val) then some 0x01A2
      else
        let w := qpEntries v k
        if !(k.items.filter (fun e => e.kind = 1 || e.kind = 2)).all (fun e =>
            qpBoundOk (nth w.prob.l e.idx) (nth w.prob.u e.idx)) then some 0x01A3
        else if reqAnsLen r < qpAnsLen v.prob k then some 0x04A1 else none

/-- Journal keys of a request: the targets of its entries that are journalled, and what a factorisation changed (14, R480). -/
def qpKeys (k : QpPacket) (old new : QpVals) : List QpKey :=
  ((k.items.filter (fun e => decide (e.kind ≤ 4) || e.kind = 8)).map (fun e => ({ kind := e.kind, idx := e.idx } : QpKey))) ++
    (if old.pe = new.pe then [] else [{ kind := 9, idx := 0 }]) ++
    ((List.range new.evec.length).filter (fun i => old.evec.getD i 0 != new.evec.getD i 0)).map (fun i => { kind := 10, idx := i })

/-- Add keys to a list, each once. -/
def qpMerge (l new : List QpKey) : List QpKey := new.foldl (fun a k => if a.contains k then a else a ++ [k]) l

/-- Does a status carry an iterate (14, R476). -/
def qpCarries (st : Nat) : Bool := st = 0 || st / 256 = 6 || st / 256 = 7

/-- The 64 bytes of an answer header (14, R476). Assumption 63 (DEDUCED). -/
def qpHeader (st iters refacts tag rp rd : Nat) (v : Option QpVals) : List Byte :=
  let stale := match v with | some w => w.stale | none => false
  let rho := match v with | some w => qPow2 w.pe | none => 0
  leBytes 2 st ++ leBytes 2 (b2n (st / 256 = 7) + 2 * b2n stale) ++ leBytes 4 iters ++ leBytes 8 tag ++ leBytes 8 rp ++
    leBytes 8 rd ++ leBytes 8 rho ++ leBytes 4 refacts ++ List.replicate 20 0

/-- The answer of a request that ran (14, R476). Assumption 63 (DEDUCED). -/
def qpAnswer (k : QpPacket) (r : QpRun) : List Byte :=
  if !qpCarries r.status then qpHeader r.status r.iters r.refacts k.tag 0 0 (some r.vals)
  else
    let v := r.vals
    qpHeader r.status r.iters r.refacts k.tag (qNorm (qpRes1 v)) (qNorm (qpRes2 v)) (some v) ++
      (if k.flags.testBit 1 then (if r.status = 0x07A2 then r.cert else v.x).flatMap (leBytes 8) else []) ++
      (if k.flags.testBit 2 then (if r.status = 0x07A1 then r.cert else v.y).flatMap (leBytes 8) else [])

/-- Deliver the bytes of an answer where the request wants it, cut to its range (14, R473, R476, R479). -/
def qpDeliver (s : State) (r : QpReq) (d : List Byte) (poison : Bool) : State :=
  match r.kind with
  | .cluster p l b a n _ =>
    match localOf s p l with
    | none => s
    | some i =>
      withDma s p i (fun m => withBuf m b (fun x =>
        if x.kind = .solve && !x.present && x.fetched.isNone then { x with fetched := some (a, d.take n, poison) } else x))
  | .host fn p off n =>
    let t := if poison then hbmPoison s p off (min n d.length) else hbmStore .quiet s p off (d.take n)
    completeWait t fn (fun w => w.op = 0x52) 0 (fun _ => 0)
  | _ => s

/-- Count an answer and keep its header (14, R484). -/
def qpCount (s : State) (c : Nat) (r : QpRun) (d : List Byte) : State :=
  let t := withQp s c (fun x =>
    { x with
      iters := satInc x.iters r.iters, reqs := satInc x.reqs 1, refacts := satInc x.refacts r.begun,
      deadlines := if r.status / 256 = 6 then satInc x.deadlines 1 else x.deadlines, last := BitVec.ofNat 16 r.status,
      header := BitVec.ofNat 512 (leNat (d.take 64)) })
  { t with
    beryl := { t.beryl with solves := satInc t.beryl.solves 1, factors := satInc t.beryl.factors r.refacts } }

/-- A run of no iteration that ends with a status. -/
def qpIdle (v : QpVals) (st : Nat) : QpRun := { vals := v, status := st, iters := 0, refacts := 0, begun := 0, cert := [] }

/-- Numbers of a context that holds no problem. Assumption 63 (DEDUCED). -/
def qpEmpty : QpVals :=
  { prob := { n := 0, m := 0, p := [], a := [], q := [], l := [], u := [], perm := [], pats := [] }, set := [], pe := 0, evec := [],
    x := [], z := [], y := [], buf0 := { rows := [], diag := [] }, buf1 := { rows := [], diag := [] }, fbuf := false, stale := false }

/-- Answer a request with a header alone (14, R473). -/
def qpRefuse (s : State) (c : Nat) (r : QpReq) (st : Nat) (poison : Bool) : State :=
  let x := qpCtxAt s c
  let k := qpPacket r.packet
  let tag := if r.poison then 0 else k.tag
  let d := qpHeader st 0 0 tag 0 0 (if x.enable then x.vals else none)
  qpDeliver (qpCount s c (qpIdle qpEmpty st) d) r d poison

/-- Perform the loads and clears that stand at the front of a queue (14, R479). -/
def qpFlush : Nat → State → Nat → State
  | 0, s, _ => s
  | fuel + 1, s, c =>
    let x := qpCtxAt s c
    let clear (y : QpCtx) : QpCtx :=
      { y with queue := y.queue.drop 1, poisoned := false, saved := none, iters := 0, reqs := 0, refacts := 0, deadlines := 0 }
    match x.queue.head? with
    | some r =>
      match r.kind with
      | .clear fn =>
        qpFlush fuel (completeWait (withQp s c (fun y => { clear y with vals := none })) fn (fun w => w.op = 0x51) 0 (fun _ => 0)) c
      | .load fn off =>
        match (if x.enable then qpLoad s x.part.toNat off x.size.toNat else .error 0x02A0) with
        | .ok v =>
          qpFlush fuel (completeWait (withQp s c (fun y => { clear y with vals := some v })) fn (fun w => w.op = 0x50) 0 (fun _ => 0)) c
        | .error st =>
          qpFlush fuel (completeWait (withQp s c (fun y => { y with queue := y.queue.drop 1 })) fn (fun w => w.op = 0x50) st
            (fun _ => 0)) c
      | _ => s
    | none => s

/-- Serve the request at the front of a context's queue (14, R473 to R476, R480, R482). Assumption 3 (DESIGN CHOICE). -/
def qpServe (s : State) (c : Nat) (r : QpReq) (dl : WallAt) : State :=
  let x := qpCtxAt s c
  let s0 := withQp s c (fun y => { y with queue := y.queue.drop 1 })
  let k := qpPacket r.packet
  let done : State :=
    if x.poisoned then qpRefuse s0 c r 0x05A0 true
    else match qpRefusal x r, x.vals with
      | some st, _ => qpRefuse s0 c r st r.poison
      | none, none => s0
      | none, some v =>
        let w := qpEntries v k
        let run := if k.op = 2 then qpIdle w 0 else qpRunSolve (if r.wall then dl else .never) k.budget w
        let old := match x.saved with | some e => e | none => (v, [])
        let keys := qpMerge old.2 (qpKeys k v run.vals)
        if ctxBoundNow s x && decide (65536 < keys.length) then qpRefuse s0 c r 0x04A2 false
        else
          let t := withQp s0 c (fun y =>
            { y with vals := some run.vals, saved := if ctxBoundNow s x then some (old.1, keys) else none })
          let d := qpAnswer k run
          qpDeliver (qpCount t c run d) r d false
  qpFlush 17 done c

/-- Beryl serves the request that a context's queue has in front, where it is of the kind named. -/
def qpFront (s : State) (c : Nat) (is : QpReq → Bool) (dl : WallAt) : State :=
  match (qpCtxAt s c).queue.head? with
  | some r => if is r then qpServe s c r dl else s
  | none => s

/-- Is a request an APPLY. -/
def isApply (r : QpReq) : Bool := (qpPacket r.packet).op = 2

/-- Put a request into a context's queue (14, R455); a packet that names no context is answered at once (14, R472). -/
def qpEnqueue (s : State) (r : QpReq) : State :=
  let c := (qpPacket r.packet).ctx
  if c < 8 then withQp s c (fun x => { x with queue := x.queue ++ [r] })
  else
    let st := if r.poison then 0x05A0 else 0x01A1
    let t : State := { s with beryl := { s.beryl with solves := satInc s.beryl.solves 1 } }
    qpDeliver t r (qpHeader st 0 0 (qpPacket r.packet).tag 0 0 none) r.poison

/-- BS_CTX_STATE (14, R484). Assumption 63 (DEDUCED). -/
def qpStateWord (s : State) (c : QpCtx) : Nat :=
  let v := match c.vals with | some v => (b2n v.stale, b2n v.fbuf, 1) | none => (0, 0, 0)
  c.last.toNat * 65536 + min c.queue.length 16 * 32 + b2n c.poisoned * 16 + b2n (ctxBoundNow s c) * 8 + v.1 * 4 + v.2.1 * 2 + v.2.2

/-- Status that refuses a host command for context c of function k (14, R478, R473). -/
def svRefusal (s : State) (k c : Nat) : Option Nat :=
  let x := qpCtxAt s c
  if 8 ≤ c then some 0x0101
  else if k != 0 && x.part.toNat + 1 != k then some 0x02A2
  else if ctxBoundNow s x then some 0x02A1
  else if !x.enable || planCount s ≤ x.part.toNat then some 0x02A0 else none

/-- Perform a solver command: complete it, or let it wait in the context's queue (14, R478, R479).
Assumption 52 (DEDUCED); 63 (DEDUCED). -/
def svPerform (s : State) (a : HostArgs) (w : CmdWait) : State :=
  let c := argAt a 8 4
  let x := qpCtxAt s c
  let wait (r : QpReq) : State :=
    qpFlush 17 (withQp (withFn s a.fn (fun f => { f with waits := f.waits ++ [{ w with arg := c }] })) c (fun y =>
      { y with queue := y.queue ++ [r] })) c
  let req (k : QpKind) (b : List Byte) (wall poison : Bool) : QpReq := { kind := k, packet := b, wall := wall, resv := 0, poison := poison }
  match svRefusal s a.fn c with
  | some st => completeCmd s a.fn w st 0
  | none =>
    if w.op = 0x50 then wait (req (.load a.fn (argAt a 16 8)) [] false false)
    else if w.op = 0x51 then wait (req (.clear a.fn) [] false false)
    else if w.op = 0x53 then completeCmd s a.fn w 0 (qpStateWord s x)
    else
      let p := x.part.toNat
      let off := argAt a 16 8
      let ans := argAt a 24 8
      let len := argAt a 32 8
      let q := part s p
      if 2 ^ 48 ≤ off || !inSlice q off 64 || 2 ^ 48 ≤ ans || !inSlice q ans len then completeCmd s a.fn w 0x01A1 0
      else
        let n := min (64 + 16 * leNat (hbmBytes s p (off + 4) 4)) (regionBytes q off - offO off)
        let b := hbmBytes s p off n
        wait (req (.host a.fn p ans len) ((b.take 1 ++ [BitVec.ofNat 8 c] ++ b.drop 2)) (((b.getD 2 0).getLsbD 3))
          (!(hbmBad s p off n).isEmpty))

/-- Allotment of a context: first and end MiB. -/
def qpAllot (c : QpCtx) : Nat × Nat := (c.base.toNat, c.base.toNat + c.size.toNat)

/-- May a context be enabled with its allotment (14, R453). -/
def qpAllotOk (s : State) (c : Nat) : Bool :=
  let a := qpAllot (qpCtxAt s c)
  decide (4 ≤ a.1) && decide (a.1 < a.2) && decide (a.2 ≤ 64) &&
    (s.beryl.ctxs.zipIdx).all (fun e => e.2 = c || !e.1.enable || decide (a.2 ≤ (qpAllot e.1).1) || decide ((qpAllot e.1).2 ≤ a.1))

/-- A write of BS_CTX_CFG or BS_CTX_MEM by function k (14, R453, R484). -/
def qpConfig (s : State) (k c : Nat) (mem : Bool) (v : Nat) : State :=
  let x := qpCtxAt s c
  if k != 0 then s
  else
    let s0 := if !mem && v.testBit 30 then withQp s c (fun y => { y with cfgErr := false }) else s
    if ctxBoundNow s x || !x.queue.isEmpty then withQp s0 c (fun y => { y with cfgErr := true })
    else if mem then
      withQp s0 c (fun y =>
        if y.enable then { y with cfgErr := true }
        else { y with size := BitVec.ofNat 6 (bits v 8 6), base := BitVec.ofNat 6 (bits v 0 6) })
    else
      let on := v.testBit 31
      let ok := !on || x.enable || qpAllotOk s c
      withQp s0 c (fun y =>
        { y with
          part := BitVec.ofNat 4 (bits v 16 4), client := BitVec.ofNat 9 (bits v 0 9), enable := on && ok, cfgErr := y.cfgErr || !ok,
          vals := if on then y.vals else none, poisoned := y.poisoned && on, saved := none })

/-- A write of BS_FRAME by function k (14, R457). -/
def frameWrite (s : State) (k v : Nat) : State :=
  let old := s.beryl.frame.toNat
  let busy (c : Nat) : Bool := decide (c < 8) && (ctxBoundNow s (qpCtxAt s c) || !(qpCtxAt s c).queue.isEmpty)
  let clash := (List.range 16).any (fun i =>
    bits old (4 * i) 4 != bits v (4 * i) 4 && (busy (bits old (4 * i) 4) || busy (bits v (4 * i) 4)))
  if k != 0 then s
  else if clash then { s with beryl := { s.beryl with frameIgnored := true } }
  else { s with beryl := { s.beryl with frame := BitVec.ofNat 64 v } }

/-- An uncorrectable error poisons a context: waiting requests are answered with poison, and event 0x05A1 is sent (14, R482). -/
def qpPoison (s : State) (c : Nat) : State :=
  let x := qpCtxAt s c
  if !x.enable then s
  else
    let waits := x.queue.filter (fun r => match r.kind with | .cluster .. => true | .host .. => true | _ => false)
    let t := withQp s c (fun y => { y with poisoned := true, queue := y.queue.filter (fun r => !waits.contains r) })
    let p := if ctxBoundNow s x then x.part.toNat else 15
    qpFlush 17 (waits.foldl (fun u r => qpRefuse u c r 0x05A0 true) (sendEvent t (srcBeryl c) p 0x05A1 c)) c

/-- QP_SOLVE_REQUEST: the front request of a context, unless it is an APPLY, runs without a deadline. -/
def execQpSolveRequest (ctx : BitVec 3) (s : State) : Out := .next (qpFront s ctx.toNat (fun r => !isApply r) .never)

/-- QP_APPLY_REQUEST: the front request of a context that is an APPLY. -/
def execQpApplyRequest (ctx : BitVec 3) (s : State) : Out := .next (qpFront s ctx.toNat isApply .never)

/-- WALL_DEADLINE: the front request, made with `wall`, runs until its deadline passes at the point named. -/
def execWallDeadline (ctx : BitVec 3) (at_ : WallAt) (s : State) : Out := .next (qpFront s ctx.toNat (fun r => r.wall) at_)

/-- SOLVER_SRAM_UNCORRECTABLE. -/
def execSolverSramUncorrectable (ctx : BitVec 3) (s : State) : Out := .next (qpPoison s ctx.toNat)

/-- BS_CTX_CFG_WRITE by a function: BS_CTX_CFG, or BS_CTX_MEM where `mem`. -/
def execBsCtxCfgWrite (fn : Nat) (ctx : BitVec 3) (mem : Bool) (v : Word32) (s : State) : Out :=
  onUnit (decide (fn < 13)) (if barFull s then qpConfig s fn ctx.toNat mem v.toNat else s)

/-- BS_FRAME_WRITE by a function. -/
def execBsFrameWrite (fn : Nat) (v : Word64) (s : State) : Out :=
  onUnit (decide (fn < 13)) (if barFull s then frameWrite s fn v.toNat else s)

end Sys2Proof.Machine
end

