-- ==== Sys2Proof/Machine/NoiseOps.lean ====
section
/-! DEFINITION. The true noise source: start-up test, health failures, conditioned seeds and who receives them
(09, R301 to R308). -/

namespace Sys2Proof.Machine

/-- Change the noise source. -/
def withNoise (s : State) (f : Noise → Noise) : State := { s with noise := f s.noise }

/-- Answer a seed request: 32 seed bytes, poison, or to the host status 0x0450 (09, R304, R306).
Assumption 64 (DEDUCED). -/
def seedGive (s : State) (r : SeedReq) (seed : Option (List Byte)) : State :=
  if r.who = 12 then
    match seed with
    | some d => completeWait (toHost s r.addr d) r.fn (fun w => w.op = 0x40) 0 (fun _ => 0)
    | none => completeWait s r.fn (fun w => w.op = 0x40) 0x0450 (fun _ => 0)
  else match seed with
    | some d => answerBuf s r.who r.lcl r.buf .seed d false
    | none => answerBuf s r.who r.lcl r.buf .seed (List.replicate 32 0) true

/-- The participant served next: the first with a waiting request, after the one served last (09, R305).
Assumption 64 (DEDUCED). -/
def seedTurn (n : Noise) : Option SeedReq :=
  ((List.range 13).map (fun i => (n.served + 1 + i) % 13)).findSome? (fun k => n.waits.find? (fun r => r.who = k))

/-- Take the request whose turn it is off the list. Assumption 64 (DEDUCED). -/
def seedTaken (n : Noise) (r : SeedReq) : Noise := { n with waits := n.waits.erase r, served := r.who }

/-- Answer every waiting request without a seed, in the order of turns (09, R306). -/
def seedPoison : Nat → State → State
  | 0, s => s
  | fuel + 1, s =>
    match seedTurn s.noise with
    | none => s
    | some r => seedPoison fuel (seedGive (withNoise s (fun n => seedTaken n r)) r none)

/-- A seed is handed to the request whose turn it is, or enters the pool; a full pool discards it (09, R302, R305). -/
def seedEnter (s : State) (d : List Byte) : State :=
  match seedTurn s.noise with
  | some r => seedGive (withNoise s (fun n => { seedTaken n r with delivered := satInc n.delivered 1 })) r (some d)
  | none => withNoise s (fun n => if n.pool.length < 128 then { n with pool := n.pool ++ [d] } else n)

/-- A seed request arrives (09, R304 to R306). -/
def seedAsk (s : State) (r : SeedReq) : State :=
  if s.noise.st != .ok then seedGive s r none
  else match s.noise.pool with
    | [] => withNoise s (fun n => { n with waits := n.waits ++ [r] })
    | d :: t =>
      seedGive (withNoise s (fun n => { n with pool := t, served := r.who, delivered := satInc n.delivered 1 })) r (some d)

/-- A health test fails (09, R303): of the repetition count test, or of the adaptive proportion test where `apt`.
Assumption 41 (DEDUCED). -/
def noiseFail (s : State) (apt : Bool) : State :=
  let n := s.noise
  let again : Bool := match n.lastFail with
    | some t => decide (s.quartz.ns < t + 3600000000000)
    | none => false
  let t := withNoise s (fun x =>
    { x with
      st := if again || x.st = .failed then .failed else .startup, testing := false, pool := [], lastFail := some s.quartz.ns,
      rct := if apt then x.rct else satInc x.rct 1, apt := if apt then satInc x.apt 1 else x.apt })
  sendEvent (seedPoison n.waits.length t) srcNoise 15 (if again then 0x0552 else 0x0550) 0

/-- The bytes of 512 samples: sample k is bit k of the word, the first of eight goes to bit 7 of its byte (09, R302).
Assumption 64 (DEDUCED). -/
def sampleBytes (w : Word512) : List Byte :=
  (List.range 64).map (fun i => bitsOfList 8 ((List.range 8).map (fun j => w.getLsbD (8 * i + 7 - j))))

/-- TRNG_HEALTH_FAIL. -/
def execTrngHealthFail (apt : Bool) (dt : Word64) (s : State) : Out := .next (noiseFail (advance s dt) apt)

/-- TRNG_RESTART: the start-up test runs again; NOISE_STARTUP_TEST_DONE is its pass. Assumption 64 (DEDUCED). -/
def execTrngRestart (s : State) : Out :=
  .next (withNoise s (fun n => if n.st = .startup then { n with testing := true } else n))

/-- NOISE_STARTUP_TEST_DONE: the start-up test passes. -/
def execNoiseStartupTestDone (s : State) : Out :=
  .next (if s.noise.st = .startup && s.noise.testing then
      let t := withNoise s (fun n => { n with st := .ok, testing := false })
      if s.noise.lastFail.isSome then sendEvent t srcNoise 15 0x0551 0 else t
    else s)

/-- SEED_CONDITIONED from 512 samples that passed both tests. -/
def execSeedConditioned (samples : Word512) (s : State) : Out :=
  .next (if s.noise.st = .ok then seedEnter s (sha256 (sampleBytes samples)) else s)

end Sys2Proof.Machine
end

