-- ==== Sys2Proof/Machine/Issue.lean ====
section
/-! DEFINITION. What a bundle hands to the rest of the module: host output, messages, atomic adds, requests, and the HBM
operations of a cluster in issue order (06, R219 to R227; 10, R340 to R343; 17, output tables). -/

namespace Sys2Proof.Machine

/-- Fingerprint address of a host output line (02, R71). -/
def fpHost (buf line : Nat) : Nat := 2 ^ 61 + buf * 2 ^ 48 + line

/-- The output table entry of a host output buffer in the context of the step that runs: address and length (17). -/
def outEntry (s : State) (p buf : Nat) : Nat × Nat :=
  match (part s p).current with
  | none => (0, 0)
  | some (k, _) =>
    match s.host.ctxs.find? (fun c => c.k = k) with
    | none => (0, 0)
    | some c =>
      if buf < c.tableN then (leNat (hostRead s (c.table + 16 * buf) 8), leNat (hostRead s (c.table + 16 * buf + 8) 8)) else (0, 0)

/-- One run of bytes to a host output buffer; bytes beyond the entry's length are dropped (02, R70, R71; 17). -/
def hostRun (p buf : Nat) (s : State) (r : Nat × List Byte) : State :=
  let e := outEntry s p buf
  let d := r.2.take (e.2 - r.1)
  if d.isEmpty then s
  else
    toHost (withPart s p (withSeq (fun q =>
      (segments r.1 d).foldl (fun x seg => addLine x (fpHost buf seg.1) seg.2.1 seg.2.2) q))) (e.1 + r.1) d

/-- A committed write of local cluster l to a host output buffer; lost bytes count once in DM_DROP (17). -/
def hostOut (s : State) (p l buf : Nat) (runs : List (Nat × List Byte)) : State :=
  let e := outEntry s p buf
  let lost := runs.any (fun r => decide (e.2 < r.1 + r.2.length))
  let t := runs.foldl (hostRun p buf) s
  if lost then withDma t p l countDrop else t

/-- The source buffer of a rejected access is poisoned when it becomes present (10, R342). -/
def poisonSrc (s : State) (p l : Nat) (buf : Option Nat) : State :=
  match buf with
  | none => s
  | some b => withDma s p l (fun m => withBuf m b (fun x => if x.present then x else { x with fetched := some (0, [], true) }))

/-- A message to a buffer of a cluster: on this rank it lands at once, to another it goes by the links (06, R221, R225).
Assumption 35 (DEDUCED). -/
def sendItem (s : State) (p l : Nat) (f : RemoteFill) (src : Option Nat) : State :=
  let q := part s p
  if f.rank = q.job.rank then
    match localOf s p f.lcl with
    | some i => landArrival s p i { buf := f.buf, off := f.off, data := f.data, poison := f.poison, step := q.seq.step,
                                    attempt := q.seq.attempt, mark := none }
    | none => poisonSrc (rejectAt s p l) p l src
  else
    let addr := f.lcl * 2 ^ 30 + f.buf * 2 ^ 24 + f.off
    let t := withLk s p (fun k =>
      { k with sends := k.sends ++ [{ dst := f.rank, tag := q.seq.step % 2 ^ 32, src := src.map (fun b => (l, b)), addr := addr,
                                      len := f.data.length }] })
    sendMsg t p f.rank 1 addr 0 f.poison f.data

/-- Where an HBM access goes. -/
inductive Reach where
  /-- To the partition's own slice, at the offset. -/
  | here (off : Nat)
  /-- To another rank, at its local offset. -/
  | away (rank off : Nat)
  /-- It is rejected. -/
  | bad
deriving DecidableEq, Repr

/-- Where an access of n bytes at an HBM-space offset goes (10, R314, R340 to R343; 11, R377). -/
def reachOf (s : State) (p off n : Nat) (write : Bool) : Reach :=
  let q := part s p
  let own (o : Nat) : Reach := if inSlice q o n && !privateTo s p o n then .here o else .bad
  if off.testBit 46 then
    let w := (q.mem.rwin.getD (bits off 42 4) 0).toNat
    let o := bits off 0 42 + (if off.testBit 47 then 2 ^ 47 else 0)
    if !w.testBit 32 || (write && !w.testBit 33) then .bad
    else if bits w 0 18 = q.job.rank then own o else .away (bits w 0 18) o
  else own off

/-- Writes of local cluster l to HBM, each run where it goes; one rejection for the operation (10, R341, R342).
Assumption 32 (DEDUCED). -/
def hbmWrites (s : State) (p l : Nat) (runs : List (Nat × List Byte)) (buf : Option Nat) : State :=
  let t := runs.foldl (fun u r => match reachOf u p r.1 r.2.length true with
    | .here o => hbmStore .committed u p o r.2
    | .away k o => sendWrite u p k 2 o (buf.map (fun b => (l, b))) false r.2
    | .bad => u) s
  if runs.any (fun r => reachOf s p r.1 r.2.length true = .bad) then poisonSrc (rejectAt t p l) p l buf else t

/-- Bytes fetched for a buffer of local cluster l: they wait for ITEM_ARRIVAL. -/
def setFetched (s : State) (p l buf sram : Nat) (d : List Byte) (poison : Bool) : State :=
  withDma s p l (fun m => withBuf m buf (fun b =>
    if b.kind = .read && !b.present then { b with fetched := some (sram, d, poison) } else b))

/-- A READ of local cluster l (06, R226; 10, R329, R341, R342). -/
def hbmReadOp (s : State) (p l buf off n sram : Nat) : State :=
  match reachOf s p off n false with
  | .here o =>
    let bad := hbmBad s p o n
    setFetched (countPoisonRead s p bad.length) p l buf sram (hbmBytes s p o n) (!bad.isEmpty)
  | .away k o =>
    let t := withLk s p (fun x =>
      { x with reads := x.reads ++ [{ lcl := clBase s p + l, buf := buf, sram := sram, dst := k, addr := o, got := [], len := n,
                                      poison := false, mark := none }] })
    sendMsg t p k 3 o n false (leBytes 8 ((clBase s p + l) * 2 ^ 30 + buf * 2 ^ 24))
  | .bad => setFetched (rejectAt s p l) p l buf 0 [] true

/-- An ATOMIC_ADD_RELAXED of local cluster l: added on arrival (06, R227; 13, R439). Assumption 35 (DEDUCED). -/
def hbmAddNow (s : State) (p l off : Nat) (vals : List Nat) (buf : Nat) : State :=
  match reachOf s p off (4 * vals.length) true with
  | .here o => atomicAdd s p o vals
  | .away k o => sendWrite s p k 6 o (some (l, buf)) false (vals.flatMap (leBytes 4))
  | .bad => poisonSrc (rejectAt s p l) p l (some buf)

/-- An ordered ATOMIC_ADD of local cluster l: held for the boundary (06, R227; 13, R439). Assumption 35 (DEDUCED). -/
def hbmAddHeld (s : State) (p l off : Nat) (vals : List Nat) (buf : Nat) : State :=
  let q := part s p
  let h (o : Nat) : HeldAtomic :=
    { rank := q.job.rank, lcl := clBase s p + l, bno := q.seq.ic - q.seq.ic0, off := o, vals := vals }
  match reachOf s p off (4 * vals.length) true with
  | .here o => withPart s p (withSeq (fun x => { x with atomics := x.atomics ++ [h o] }))
  | .away k o => withLk s p (fun x => { x with outAtomics := x.outAtomics ++ [(k, h o)] })
  | .bad => poisonSrc (rejectAt s p l) p l (some buf)

/-- What one output of local cluster l does (06, DMA operations). -/
def dispatchOut (p l : Nat) (s : State) (o : ClOut) : State :=
  match o with
  | .host buf runs => hostOut s p l buf runs
  | .remote f src => sendItem s p l f src
  | .atomic off vals buf => hbmAddHeld s p l off vals buf
  | .regread buf addr => regread s p l buf addr
  | .solve buf packet wall resv a n =>
    qpEnqueue s { kind := .cluster p (clBase s p + l) buf a n (part s p).seq.step, packet := packet, wall := wall, resv := resv,
                  poison := false }
  | .seed buf => seedAsk s { who := p, lcl := l, buf := buf, fn := 0, addr := 0 }
  | .coll buf off relaxed resv => collIssue s p l buf off relaxed resv

/-- The HBM ranges that a store in progress writes: each row's bytes and the scales (06, R218). -/
def storeSpans (c : ConvUnit) (u : Nat) : List (Nat × Nat) :=
  match c.stores.find? (fun o => o.s = u) with
  | none => []
  | some o =>
    let f := (fmtOfCode o.desc.fmt).getD .fp32
    let b := blockSize o.desc.bsize 128
    let scales := if o.desc.blkLanes then o.n * ceilDiv 128 b else ceilDiv o.n b * 128
    (List.range o.n).map (fun i => (o.dst + i * o.desc.dstPitch, rowBytes f 128)) ++ (if fmtScaled f then [(o.sdst, scales)] else [])

/-- The HBM ranges of an operation. -/
def hbmSpans (c : ConvUnit) (o : HbmOp) : List (Nat × Nat) :=
  match o with
  | .write runs _ => runs.map (fun r => (r.1, r.2.length))
  | .read _ off n _ => [(off, n)]
  | .store u => storeSpans c u
  | .addNow off vals _ => [(off, 4 * vals.length)]

/-- Do two lists of ranges share a 64-byte line. -/
def linesMeet (a b : List (Nat × Nat)) : Bool :=
  a.any (fun x => b.any (fun y => decide (x.1 / 64 * 64 < y.1 + y.2) && decide (y.1 / 64 * 64 < x.1 + x.2)))

/-- Perform one HBM operation of local cluster l. -/
def hbmDo (s : State) (p l : Nat) (o : HbmOp) : State :=
  match o with
  | .write runs buf => hbmWrites s p l runs buf
  | .read buf off n sram => hbmReadOp s p l buf off n sram
  | .store _ => s
  | .addNow off vals buf => hbmAddNow s p l off vals buf

/-- Perform the HBM operations of local cluster l in issue order; one that shares a line with an earlier one that waits waits
too (06, R226). -/
def drainOps (p l : Nat) (c : ConvUnit) : List HbmOp → List HbmOp → State → State × List HbmOp
  | [], kept, s => (s, kept)
  | o :: t, kept, s =>
    let waits : Bool := match o with
      | .store _ => true
      | _ => kept.any (fun k => linesMeet (hbmSpans c k) (hbmSpans c o))
    if waits then drainOps p l c t (kept ++ [o]) s else drainOps p l c t kept (hbmDo s p l o)

/-- Drain the queue of local cluster l. -/
def drainHbm (p : Nat) (s : State) (l : Nat) : State :=
  let c := ((part s p).clusters.getD l clusterReset).core
  if c.dma.hbmq.isEmpty then s
  else
    let r := drainOps p l c.conv c.dma.hbmq [] s
    withDma r.1 p l (fun m => { m with hbmq := r.2 })

/-- Drain every cluster of a partition, lowest first. -/
def drainAll (s : State) (p : Nat) : State := (List.range (part s p).clusters.length).foldl (drainHbm p) s

end Sys2Proof.Machine
end

