-- ==== Sys2Proof/Machine/Stall.lean ====
section
/-! DEFINITION. Readiness, stalls and their causes, the watchdog, freezes, and the traps that stop a bundle before it issues
(01, R36 to R41; 02, R63, R66, R83; 06, R221, R228, R233; 08, R272 to R277; 12, R406). -/

namespace Sys2Proof.Machine

/-- The i-th cluster of a partition. -/
def clAt (q : Partition) (i : Nat) : Cluster := q.clusters.getD i clusterReset

/-- Change the i-th cluster of partition p. -/
def withCluster (s : State) (p i : Nat) (f : Cluster → Cluster) : State :=
  withPart s p (fun q => { q with clusters := updAt q.clusters i f })

/-- Charge n stalled cycles of the step to a cause; unmarked latency on the image's own map is reported once per job
(02, R63, R83). Assumption 28 (DEDUCED). -/
def charge (s : State) (p cause n : Nat) : State :=
  if n = 0 then s
  else
    let q := part s p
    let t := withPart s p (withSeq (fun x => { x with stalls := x.stalls.set cause (nth x.stalls cause + n) }))
    if cause != 2 || q.job.foreign then t
    else
      let u := withPart t p (fun x =>
        { x with seq := { x.seq with exceeded := true }, rep := { x.rep with exceeded := true, sentExceeded := true } })
      if q.rep.sentExceeded then u else sendEvent u srcFw p 0x0212 0

/-- Cause of the stalled cycles of an item that has come: its mark, or what its kind names (02, R83; 12, R406).
Assumption 28 (DEDUCED). -/
def itemCause (b : Buffer) : Nat :=
  match b.mark with
  | some m => m
  | none => match b.kind with | .regread => 10 | .seed => 14 | .solve => 11 | .coll => 6 | .recv => 6 | _ => 2

/-- Enter the cycles owed to items that have become present (12, R406). -/
def settleOwed (s : State) (p : Nat) : State :=
  let q := part s p
  let buf (o : Owed) : Buffer := (clAt q o.lcl).core.dma.bufs.getD o.buf bufferFree
  let here := q.seq.owed.filter (fun o => (buf o).present)
  if here.isEmpty then s
  else
    here.foldl (fun t o => charge t p (itemCause (buf o)) o.n)
      (withPart s p (withSeq (fun x => { x with owed := x.owed.filter (fun o => !(buf o).present) })))

/-- Add a stalled cycle to an item. -/
def owe (l b : Nat) (os : List Owed) : List Owed :=
  if os.any (fun o => o.lcl = l && o.buf = b) then os.map (fun o => if o.lcl = l && o.buf = b then { o with n := o.n + 1 } else o)
  else os ++ [{ lcl := l, buf := b, n := 1 }]

/-- Is a buffer that a bundle names absent at the readiness sample of issue cycle u in CCLK T (01, R36, R39). -/
def bufAbsent (u cclk : Nat) (b : Buffer) : Bool :=
  b.kind != .free && decide (b.claim + 3 ≤ u) && !(b.present && decide (b.presentAt + 3 ≤ cclk))

/-- The absent items of a bundle: local cluster and buffer, lowest first (01, R41). Assumption 28 (DEDUCED). -/
def absentItems (q : Partition) (b : Bundle) : List (Nat × Nat) :=
  if b.waits.isEmpty then []
  else
    let named := (List.range 64).filter (fun i => (b.waits.map BitVec.toNat).contains i)
    (q.clusters.zipIdx).flatMap (fun e =>
      (named.filter (fun i => bufAbsent q.seq.ic q.seq.cclk (e.1.core.dma.bufs.getD i bufferFree))).map (fun i => (e.2, i)))

/-- Local cluster and buffer of a poisoned buffer that a bundle names (06, R228). Assumption 27 (DEDUCED). -/
def poisonedWait (q : Partition) (b : Bundle) : Option (Nat × Nat) :=
  (q.clusters.zipIdx).findSome? (fun e =>
    ((b.waits.map BitVec.toNat).find? (fun i => (e.1.core.dma.bufs.getD i bufferFree).poisoned)).map (fun i => (e.2, i)))

/-- SQ_WDOG in force: the lowest over the clusters, 0 taken as 0x8000000 (06, R233, R235). Assumption 28 (DEDUCED). -/
def wdogLimit (q : Partition) : Nat :=
  (q.clusters.map (fun c =>
    let w := bits c.core.scalar.wdog.toNat 0 32
    if w = 0 then 0x8000000 else w)).foldl min 0xFFFFFFFF

/-- The watchdog ends the job (06, R233; 13, R447). Assumption 24 (DESIGN CHOICE); 28 (DEDUCED). -/
def wdogEnd (s : State) (p : Nat) : State :=
  let q := part s p
  let t := withPart s p (fun x =>
    { x with
      clusters := x.clusters.map (fun c =>
        { c with core := { c.core with scalar := { c.core.scalar with status := c.core.scalar.status ||| 0x80 } } }) })
  let absent := (treeChildren q.job.rank q.job.ranks).filter (fun r => !q.cl.arrived.contains (r, q.seq.step, q.seq.attempt % 256))
  let t1 := if q.cl.arriveSent then
      sendEvent t srcFw p 0x0290 (match absent with
        | r :: _ => r
        | [] => (Config.absentRank q.seq.step q.seq.attempt).toNat)
    else t
  faultEnd t1 srcFw p 0x0220 0

/-- One CCLK passes without an issue and without a stall (08, R275; 17, R576). -/
def idleCycle (s : State) (p : Nat) : State := withPart s p (withSeq (fun x => { x with cclk := x.cclk + 1 }))

/-- One stalled CCLK: charged to a hold, or owed to an absent item (01, R38, R41; 06, R233). Assumption 28 (DEDUCED). -/
def stallCycle (s : State) (p : Nat) (hold : Option Nat) (item : Nat × Nat) : State :=
  let t := match hold with
    | some c => charge s p c 1
    | none => withPart s p (withSeq (fun x => { x with owed := owe item.1 item.2 x.owed }))
  let u := withPart t p (withSeq (fun x =>
    { x with cclk := x.cclk + 1, stallStep := x.stallStep + 1, stallRun := x.stallRun + 1 }))
  let q := part u p
  if jobActive q && decide (wdogLimit q ≤ q.seq.stallRun) then wdogEnd u p else u

/-- Does the power governor suppress issue in this CCLK (19, R630, R631). Assumption 28 (DEDUCED). -/
def suppressedNow (s : State) (q : Partition) : Bool :=
  let slot := q.seq.cclk / 64
  s.gov.settle != 0 ||
    (match s.gov.duty with | 0 => false | 1 => slot % 4 = 0 | 2 => slot % 2 = 0 | _ => true)

/-- The holds raised for a bundle: 8 and 12 hold boundary bundles that have not arrived at their barrier (02, R83).
Assumption 28 (DEDUCED). -/
def holdsNow (s : State) (p : Nat) (boundary : Bool) : List Nat :=
  let q := part s p
  let at_ := boundary && !q.cl.arriveSent
  (if suppressedNow s q then [7] else []) ++ (if at_ && q.seq.holds.getLsbD 8 then [8] else []) ++
    (if at_ && q.seq.holds.getLsbD 12 then [12] else []) ++ (if q.seq.holds.getLsbD 13 then [13] else [])

/-- The timing-dependent operation of a cluster's bundle, by its number (02, R65, R66; 13, R424; 14, R471).
Assumption 29 (DEDUCED). -/
def tdKind (d : DmNow) : Option Nat :=
  match d.op with
  | .coll => if d.len % 2 = 1 then some 1 else none
  | .atomic true => some 2
  | .solve => if d.len % 2 = 1 then some 3 else none
  | .seed => some 4
  | _ => none

/-- The operation that traps a bundle in STRICT (02, R66). Assumption 29 (DEDUCED). -/
def strictTrap (s : State) (p : Nat) (b : Bundle) : Option Nat :=
  let q := part s p
  if q.job.relaxed || b.dmOp = .nop then none
  else (List.range q.clusters.length).findSome? (fun i => (dmNow (envOf s p 0 b [] i) (clAt q i).core).bind tdKind)

/-- The STRICT trap: the partition halts before the bundle issues (02, R66). Assumption 29 (DEDUCED). -/
def trapStrict (s : State) (p k : Nat) : State :=
  faultEnd (withPart s p (fun q => { q with rep := { q.rep with trapKind := BitVec.ofNat 4 k, strictTrap := true } })) srcFw p
    (0x0900 + k) 0

/-- In RELAXED a bundle's timing-dependent operations are counted, once for each cluster that performs one; a collective call
counts where it begins (02, R68, R69). Assumption 29 (DEDUCED). -/
def countTd (s : State) (p : Nat) (b : Bundle) : State :=
  let q := part s p
  if !q.job.relaxed || b.dmOp = .nop then s
  else
    let ks := (List.range q.clusters.length).filterMap (fun i =>
      let c := (clAt q i).core
      match dmNow (envOf s p 0 b [] i) c with
      | some d => if dmBusy c.dma.bufs d then none else (tdKind d).filter (fun k => k != 1)
      | none => none)
    match ks with
    | [] => s
    | k :: _ =>
      withPart s p (fun x =>
        { x with
          rep := { x.rep with live := { x.rep.live with td := satInc x.rep.live.td ks.length } },
          seq := { x.seq with td := x.seq.td ||| BitVec.ofNat 4 (2 ^ (k - 1)) } })

/-- The first trap record of a partition: module-wide cluster and cause (08, R277). -/
def firstTrap (s : State) (p : Nat) : Option (Nat × TrapUnit) :=
  let held := ((part s p).clusters.zipIdx).filter (fun e => e.1.trap.valid)
  held.foldl (fun best e => match best with
    | none => some (clBase s p + e.2, e.1.trap)
    | some (i, t) => if e.1.trap.cycle < t.cycle then some (clBase s p + e.2, e.1.trap) else some (i, t)) none

/-- The partition freezes, and firmware sends event 0x0240 (08, R274, R277). -/
def freezePart (s : State) (p : Nat) : State :=
  let t := withPart s p (withSeq (fun x => { x with frozen := true, freezeAt := none }))
  let d := match firstTrap t p with | some (l, r) => l + bits r.info.toNat 16 8 * 2 ^ 16 | none => 0
  sendEvent t srcFw p 0x0240 d

/-- A bundle with `brk` traps every cluster and freezes the partition before it issues (08, R274, R276).
Assumption 27 (DEDUCED). -/
def brkFreeze (s : State) (p pc : Nat) : State :=
  let t := withPart s p (fun q =>
    { q with
      seq := { q.seq with brkPassed := true },
      clusters := q.clusters.map (fun c =>
        { c with trap := trapNote (q.seq.ic - q.seq.ic0) q.seq.step [{ kind := .brk, slot := 0, pc := pc, detail := 0 }] c.trap }) })
  freezePart t p

end Sys2Proof.Machine
end

