-- ==== Sys2Proof/Machine/Boundary.lean ====
section
/-! DEFINITION. The step boundary: what it waits for, the ordered atomic adds, the log record, the counters, the next step's
entry, and the end of the job (02, R68 to R90; 06, R227, R232, R677; 13, R439, R444; 15, R508 to R518; 16, R538; 17, R571 to
R577). -/

namespace Sys2Proof.Machine

/-- Is every held buffer of a partition present (06, R232). -/
def buffersIn (q : Partition) : Bool := q.clusters.all (fun c => c.core.dma.bufs.all (fun b => b.kind = .free || b.present))

/-- Bytes of host output that the endpoint holds (17, R558). -/
def heldBytes (s : State) : Nat :=
  (s.host.held.map (fun w => match w with | .data _ d => d.length | _ => 0)).foldl (· + ·) 0

/-- The endpoint holds more host output than it has room for: a write waits in a DMA engine (17, R558).
Assumption 73 (DEDUCED). -/
def hostFull (s : State) : Bool := !s.host.up && decide (2 ^ 24 < heldBytes s)

/-- Every write of the step has committed (02, R77; 12, R389). -/
def commitsDone (s : State) (p : Nat) : Bool := let q := part s p; buffersIn q && q.lk.acks.isEmpty && !hostFull s

/-- Does a sample of the attempt wait to be compared (15, R510). -/
def samplesOpen (q : Partition) : Bool := q.clusters.any (fun c => c.spot.capture.isSome)

/-- Does the log write records (02, R79, R90). -/
def logOn (q : Partition) : Bool := q.rep.ctrlEff.getLsbD 0 && decide (2 ≤ q.rep.logSizeEff.toNat)

/-- Is the log ring full (02). -/
def logFull (q : Partition) : Bool := (q.rep.head.toNat + 1) % q.rep.logSizeEff.toNat = q.rep.tail.toNat

/-- A full ring in hold mode holds the partition (02, R81). -/
def logHolds (q : Partition) : Bool := logOn q && q.rep.ctrlEff.getLsbD 1 && logFull q

/-- The order of R227, with the source rank in front (13, R439). -/
def atomicBefore (a b : HeldAtomic) : Bool :=
  if a.rank != b.rank then decide (a.rank < b.rank)
  else if a.lcl != b.lcl then decide (a.lcl < b.lcl)
  else if a.bno != b.bno then decide (a.bno < b.bno)
  else decide (a.off < b.off)

/-- Insert a contribution behind those that come before it or are equal. -/
def insAtomic (a : HeldAtomic) : List HeldAtomic → List HeldAtomic
  | [] => [a]
  | x :: t => if atomicBefore a x then a :: x :: t else x :: insAtomic a t

/-- Contributions in order. -/
def sortAtomics (l : List HeldAtomic) : List HeldAtomic := l.foldl (fun a x => insAtomic x a) []

/-- Send the ordered contributions to other ranks, each in the order of R227; the target acknowledges what it holds
(13, R439). Assumption 35 (DEDUCED). -/
def sendAtomics (s : State) (p : Nat) : State :=
  let out := (part s p).lk.outAtomics
  let ranks := (out.map (·.1)).eraseDups
  ranks.foldl (fun t r =>
    (sortAtomics ((out.filter (fun e => e.1 = r)).map (·.2))).foldl (fun u a =>
      sendWrite u p r 5 a.off none false (a.vals.flatMap (leBytes 4))) t)
    (withLk s p (fun k => { k with outAtomics := [] }))

/-- Apply the ordered contributions held at this rank (06, R227; 13, R439). -/
def applyAtomics (s : State) (p : Nat) : State :=
  (sortAtomics (part s p).seq.atomics).foldl (fun t a => atomicAdd t p a.off a.vals)
    (withPart s p (withSeq (fun x => { x with atomics := [] })))

/-- The 128 bytes of the log record of the step that closes (02, R79). -/
def logRecord (s : State) (p : Nat) : List Byte :=
  let q := part s p
  let x := q.seq
  let flags := x.td.toNat + 16 * b2n (1 < x.attempt) + 32 * b2n x.exceeded + 64 * b2n q.job.foreign + 128 * b2n q.job.relaxed +
    256 * b2n q.job.debug
  leBytes 8 x.step ++ leBytes 8 x.fpLo.toNat ++ leBytes 8 x.fpHi.toNat ++ leBytes 8 x.lines ++ leBytes 8 (x.ic - x.ic0) ++
    leBytes 8 x.replayCyc ++ leBytes 8 s.quartz.ns ++ leBytes 4 flags ++ leBytes 2 (min x.attempt 0xFFFF) ++ leBytes 2 0 ++
    (List.range 16).flatMap (fun c => leBytes 4 (min (nth x.stalls c) 0xFFFFFFFF))

/-- Append the record to the ring; overwrite mode gives up the oldest one of a full ring (02, R79 to R82). -/
def writeLog (s : State) (p : Nat) : State :=
  let q := part s p
  if !logOn q then s
  else
    let n := q.rep.logSizeEff.toNat
    let rec_ := logRecord s p
    let over_ := logFull q
    let t := hbmStore .quiet s p (protOff (offO q.rep.logBaseEff.toNat + 128 * q.rep.head.toNat)) rec_
    let u := withPart t p (fun x =>
      { x with
        rep := { x.rep with
                 head := BitVec.ofNat 32 ((q.rep.head.toNat + 1) % n), last := BitVec.ofNat 1024 (leNat rec_),
                 tail := if over_ then BitVec.ofNat 32 ((q.rep.tail.toNat + 1) % n) else x.rep.tail,
                 lost := if over_ then satInc x.rep.lost 1 else x.rep.lost, logOver := x.rep.logOver || over_,
                 sentOver := x.rep.sentOver || over_ } })
    if over_ && !q.rep.sentOver then sendEvent u srcFw p 0x0410 0 else u

/-- The counters since job start take in the step that closes, and the window shows them (02, R78, R86).
Assumption 29 (DEDUCED). -/
def closeCounts (q : Partition) : Partition :=
  let x := q.seq
  let l := q.rep.live
  let live : RepCounts :=
    { l with
      issued := satInc l.issued (x.ic - x.ic0), stalled := satInc l.stalled x.stallStep, replayCyc := satInc l.replayCyc x.replayCyc,
      causes := l.causes.mapIdx (fun c w => satInc w (nth x.stalls c)) }
  { q with rep := { q.rep with live := live, snap := live, stepSnap := BitVec.ofNat 64 x.step, logHeld := false } }

/-- The events of the verdict and of a missing one (15, R517, R518). -/
def closeVerdict (s : State) (p : Nat) : State :=
  let q := part s p
  let bad (t : State) : State := withSe t p (fun x => { x with status := x.status ||| 2 })
  let t := match q.se.verdict with
    | some (w, false) =>
      let out := bits w.toNat 40 8
      if out = 1 then bad (sendEvent s srcFw p 0x05B4 (bits w.toNat 0 16 + bits w.toNat 32 8 * 2 ^ 32))
      else if out = 2 then bad (sendEvent s srcFw p 0x05B5 0) else s
    | _ => s
  match replTable t p with
  | none => t
  | some r =>
    if q.seq.step % r.interval != 0 || q.se.verdictAsked then t
    else
      let u := withSe t p (fun x => { x with status := x.status ||| 1, sentDigest := true })
      if q.se.sentDigest then u else sendEvent u srcFw p 0x02B0 0

/-- An arrival of the step that ends leaves the port and counts (06, R225). -/
def dropOld (step : Nat) (m : DmaUnit) : DmaUnit :=
  let old := m.port.filter (fun a => decide (a.step ≤ step))
  { m with drop := satInc m.drop old.length, port := m.port.filter (fun a => !decide (a.step ≤ step)) }

/-- What a partition forgets and counts at its boundary (06, R232; 11, R375; 12, R402; 13, R444; 15, R491 to R493). -/
def closePart (q : Partition) : Partition :=
  let x := q.seq
  let passed := q.cl.brCtrlEff.toNat.testBit 16 && (x.step + 1) % brPeriod q = 0
  { q with
    clusters := q.clusters.map (fun c => { c with core := { c.core with dma := dropOld x.step c.core.dma } }),
    lk := { q.lk with acks := [], reads := [], sends := [],
                      alt := q.lk.alt ++ q.lk.altNext.filter (fun r => !q.lk.alt.contains r), altNext := [] },
    cl := { q.cl with inAttempt := [], arriveSent := false, tRel := none,
                      early := q.cl.early.filter (fun f => decide (x.step < f.step)),
                      count := if passed then satInc q.cl.count 1 else q.cl.count,
                      lastRel := (match q.cl.tRel with
                        | some t => if passed then BitVec.ofNat 64 (t / 65536) else q.cl.lastRel
                        | none => q.cl.lastRel) },
    upd := { q.upd with queue := [], answers := [], measured := [], applied := [], absurd := [], undo := [] },
    se := { q.se with journal := [], unreplayable := false, missed := [], errs := [], engErrs := [], verdictAsked := false,
                      verdict := none, digest := none },
    ck := { q.ck with stream := q.ck.stream.map (fun c => if c.cut = x.step then { c with kept := [] } else c) },
    stepsDone := satInc q.stepsDone 1,
    seq := { x with
             step := x.step + 1, attempt := 1, begun := false, ic0 := x.ic, loops := [], loops0 := [], votes := [],
             stalls := List.replicate 16 0, stallStep := 0, owed := [], fpLo := 0, fpHi := 0, lines := 0, td := 0,
             replayCyc := 0, exceeded := false, hostWait := 0, stream := [] } }

/-- The sequencers take up the bundles of an image slot (17, R575). -/
def loadImage (i : Nat) (q : Partition) : Partition :=
  if i = q.seq.resident then q
  else match q.job.images[i]? with
    | some m => { q with seq := { q.seq with bundles := m.bundles, resident := i }, job := { q.job with special := m.special, foreign := m.foreign } }
    | none => q

/-- Select the entry of the step that runs next: the one of the lowest context; the others complete with 0x0301 (17, R575,
R576). Assumption 15 (DEDUCED). -/
def selectEntry (s : State) (p : Nat) : State :=
  let step := (part s p).seq.step
  let found := (ctxsOf s p).filterMap (fun c => (c.fetched.find? (fun e => e.step = step)).map (fun e => (c.k, e)))
  match found with
  | [] => withPart s p (fun q => { q with waiting := true, current := none })
  | (k, e) :: rest =>
    let t := found.foldl (fun u x => withCtx u x.1 (fun c => { c with fetched := c.fetched.filter (fun y => y.step != step) })) s
    let u := rest.foldl (fun v x => stepDone v x.1 x.2 0x0301 0) t
    withPart u p (fun q =>
      let r := loadImage e.image q
      { r with waiting := false, current := some (k, e), seq := { r.seq with entry := e.entry, next := e.entry } })

/-- The NoC switches to the routes that avoid lost bridges (01, R21). -/
def takeReroute (s : State) : State :=
  if s.grid.reroute.isEmpty then s
  else
    { s with
      grid := { s.grid with
                bridges := s.grid.reroute.foldl (fun l b => updAt l b (fun x => { x with avoided := true })) s.grid.bridges,
                reroute := [] } }

/-- The issue cycle of a bundle is over. -/
def bumpCycle (x : SeqState) : SeqState := { x with ic := x.ic + 1, cclk := x.cclk + 1, stallRun := 0, brkPassed := false }

/-- A trap record that stands schedules the freeze three issue cycles after the trap (08, R274). -/
def noteFreeze (s : State) (p : Nat) : State :=
  let q := part s p
  if q.job.debug && !q.seq.frozen && q.seq.freezeAt.isNone && q.clusters.any (fun c => c.trap.valid) then
    withPart s p (withSeq (fun x => { x with freezeAt := some (x.ic + 3) }))
  else s

/-- The boundary after its bundle's own cycle: releases, record, counters, completion, next entry, end of the job. -/
def closeStep (s : State) (p pc : Nat) (b : Bundle) (halt : Bool) : State :=
  let q := part s p
  let ends := q.clusters.mapIdx (fun i c => boundaryCluster (envOf s p pc b [] i) c)
  let s1 := withPart s p (fun x => { x with clusters := ends.map (·.1) })
  let s2 := (ends.zipIdx).foldl (fun t e => e.1.2.1.foldl (dispatchOut p e.2) t) s1
  let s2b := withPart (noteFreeze (drainAll s2 p) p) p (withSeq bumpCycle)
  let s3 := closeVerdict (writeLog (withPart s2b p closeCounts) p) p
  let s4 := withPart { s3 with beryl := { s3.beryl with ctxs := s3.beryl.ctxs.map (fun c =>
    if ctxBound p c then { c with saved := none } else c) } } p closePart
  let s5 := match q.current with
    | some (k, e) => withPart (stepDone s4 k e 0 q.seq.attempt) p (fun x => { x with current := none })
    | none => s4
  let s6 := periodCut (flushCut (takeReroute s5) p) p
  let over_ : Option (Nat × Nat) := if halt then some (0, 0) else q.endReq
  match over_ with
  | some (cause, status) => jobEnd s6 p cause status
  | none => beginAhead (pairGangs (selectEntry s6 p) p) p

end Sys2Proof.Machine
end

