-- ==== Sys2Proof/Machine/Tick.lean ====
section
/-! DEFINITION. One CCLK of a partition: the sequencer, the bundle that issues, and the slot commands that supply a bundle
(01, R36 to R41; 06, R203 to R209, R232; 08, R272 to R276). -/

namespace Sys2Proof.Machine

/-- The control operation that a bundle at address a performs, and the events of its slot (06, R205, R207, R209).
Assumption 27 (DEDUCED). -/
def ctlNow (x : SeqState) (a : Nat) (b : Bundle) : CtlOp × List Ev :=
  let ev (k : EvKind) : List Ev := [{ kind := k, slot := 1, pc := a, detail := 0 }]
  let delay := x.votes.any (fun v => decide (v.u < x.ic) && decide (x.ic ≤ v.u + 2))
  match b.ctl with
  | .nop => (.nop, [])
  | .reserved => (.nop, ev .slotInvalid)
  | .loop c l =>
    if delay then (.nop, ev .ctlInvalid)
    else if l.toNat < a + 1 then (.nop, ev .loopInvalid)
    else if c != 0 && decide (4 ≤ x.loops.length) then (.nop, ev .loopOverflow) else (b.ctl, [])
  | .vbr _ _ _ =>
    if delay || x.loops.any (fun e => e.last = a || e.last = a + 1) then (.nop, ev .ctlInvalid) else (b.ctl, [])
  | .jump _ => if delay then (.nop, ev .ctlInvalid) else (b.ctl, [])
  | .stepEnd _ => if delay then (.nop, ev .ctlInvalid) else (b.ctl, [])

/-- Loops whose body contains an address (06, R206). -/
def loopsAround (ls : List LoopEnt) (t : Nat) : List LoopEnt := ls.filter (fun e => decide (e.start ≤ t) && decide (t ≤ e.last))

/-- Case 5 of R206 on a stack given innermost first: the address of a further iteration, if there is one, and the stack. -/
def loopEnds (a : Nat) : List LoopEnt → Option Nat × List LoopEnt
  | [] => (none, [])
  | e :: t =>
    if e.last != a then (none, e :: t)
    else if 1 < e.left then (some e.start, { e with left := e.left - 1 } :: t)
    else loopEnds a t

/-- The next address and the loop stack after a bundle at address a (06, R206). Assumption 27 (DEDUCED). -/
def seqNext (x : SeqState) (a : Nat) (op : CtlOp) : Nat × List LoopEnt :=
  let plain : Nat × List LoopEnt :=
    let r := loopEnds a x.loops.reverse
    (match r.1 with | some n => n | none => (a + 1) % 8192, r.2.reverse)
  match x.votes.find? (fun v => v.u + 2 = x.ic && v.taken) with
  | some v => (v.target, loopsAround x.loops v.target)
  | none => match op with
    | .jump t => (t.toNat, loopsAround x.loops t.toNat)
    | .loop c l =>
      if c = 0 then ((l.toNat + 1) % 8192, x.loops)
      else ((a + 1) % 8192, x.loops ++ [{ start := a + 1, last := l.toNat, left := c.toNat }])
    | _ => plain

/-- The outcome of a vote over the clusters after the branch's own cycle (06, R208). Assumption 27 (DEDUCED). -/
def voteTaken (cls : List Cluster) (all : Bool) (pred : BitVec 3) : Bool :=
  let v (c : Cluster) : Bool := pReg c.core.scalar pred.toNat
  if all then cls.all v else cls.any v

/-- The sequencer after a bundle at address a whose control operation is `op` (06, R206, R208).
Assumption 27 (DEDUCED). -/
def seqAfter (cls : List Cluster) (a : Nat) (op : CtlOp) (x : SeqState) : SeqState :=
  let n := seqNext x a op
  let live := x.votes.filter (fun v => decide (x.ic < v.u + 2))
  { x with
    pc := a, next := n.1, loops := n.2,
    votes := (match op with
      | .vbr all p t => live ++ [{ u := x.ic, pc := a, target := t.toNat, taken := voteTaken cls all p }]
      | _ => live) }

/-- The first bundle of an attempt: copies are taken (15, R490, R491). -/
def beginStep (s : State) (p : Nat) : State :=
  if (part s p).seq.begun then s
  else
    noteUnreplayable (withPart s p (fun q =>
      { q with
        clusters := q.clusters.map clusterBegin, seq := { q.seq with begun := true, ic0 := q.seq.ic, loops0 := q.seq.loops } })) p

/-- One issue cycle of every cluster of a partition, from the state that stood at the end of the cycle before (06, R203). -/
def clustersCycle (s : State) (p a : Nat) (b : Bundle) (evs : List Ev) : List CycleOut :=
  (part s p).clusters.mapIdx (fun i c => clusterCycle (envOf s p a b evs i) c)

/-- Sampled passes and journal use of a cycle (15, R491, R511). -/
def noteCycle (outs : List CycleOut) (x : SeRegs) : SeRegs :=
  { x with
    spotSkip := satInc x.spotSkip (countTrue (outs.map (·.skipped))),
    sjPeak := BitVec.ofNat 32 (outs.foldl (fun n o => max n o.cl.journal.lines.length) x.sjPeak.toNat) }

/-- The clusters act and hand out their results. -/
def takeCycle (s : State) (p : Nat) (outs : List CycleOut) : State :=
  let s1 := withPart s p (fun q => { q with clusters := outs.map (·.cl), se := noteCycle outs q.se })
  let s2 := (outs.zipIdx).foldl (fun t e => e.1.outs.foldl (dispatchOut p e.2) t) s1
  noteUnreplayable (noteFreeze (drainAll s2 p) p) p

/-- A bundle issues (06, R203, R232; 01, R37). Assumption 2 (DESIGN CHOICE). -/
def issueBundle (s0 : State) (p a : Nat) (b : Bundle) : State :=
  let s := beginStep s0 p
  let c := ctlNow (part s p).seq a b
  let outs := clustersCycle s p a b c.2
  if outs.any (·.clash) then stallCycle s p (some 9) (0, 0)
  else
    let t := takeCycle (countTd s p b) p outs
    match c.1 with
    | .stepEnd halt => closeStep (applyAtomics (withPart t p (withSeq (fun x => { x with pc := a }))) p) p a b halt
    | op => withPart t p (withSeq (fun x => bumpCycle { seqAfter (outs.map (·.cl)) a op x with stream := x.stream.drop 1 }))

/-- Causes that hold a boundary bundle: samples to compare, commits, a full log (02, R77, R81; 15, R510). -/
def boundaryHolds (s : State) (p : Nat) : List Nat :=
  let q := part s p
  (if samplesOpen q then [9] else []) ++ (if !commitsDone s p || !q.lk.outAtomics.isEmpty || logHolds q then [15] else [])

/-- What a boundary bundle that waits brings about: contributions to other ranks go out, a full log shows, the wait on the host
path counts (02, R81; 13, R439; 17, R558). Assumption 28 (DEDUCED). -/
def boundaryWait (s : State) (p : Nat) : State :=
  let q := part s p
  let t := withPart s p (fun x =>
    { x with
      rep := { x.rep with logHeld := logHolds q }, seq := { x.seq with hostWait := if hostFull s then x.seq.hostWait + 1 else 0 } })
  if commitsDone s p && !samplesOpen q then sendAtomics t p else t

/-- The cut of a boundary, and the arrival at its barrier (13, R444; 16, R538, R550). -/
def boundaryArrive (s : State) (p : Nat) : State :=
  let t := stageEnd (boundaryCut (withPart s p (fun x => { x with rep := { x.rep with logHeld := false } })) p) p
  if isBarrier (part t p) (part t p).seq.step then barrierArrive t p else t

/-- Must a boundary bundle still wait for the release of its barrier (13, R444). -/
def barrierHolds (s : State) (p : Nat) : Bool := isBarrier (part s p) (part s p).seq.step && !released s p

/-- The bundle that is next: one that a slot command supplied, else the one in bundle memory.
Assumption 2 (DESIGN CHOICE). -/
def nextBundle (x : SeqState) : Bundle :=
  match x.stream with
  | b :: _ => b
  | [] => decodeBundle (memGet x.bundles x.next)

/-- Is the bundle a step boundary (06, R209, R232). -/
def isBoundary (x : SeqState) (b : Bundle) : Bool := match (ctlNow x x.next b).1 with | .stepEnd _ => true | _ => false

/-- A bundle that nothing holds: poison, `brk`, a STRICT trap, or issue (02, R66; 06, R228; 08, R274). -/
def readyBundle (s : State) (p : Nat) (b : Bundle) : State :=
  let q := part s p
  let a := q.seq.next
  match poisonedWait q b with
  | some (l, _) => faultEnd s (srcCl (physOf s (clBase s p + l))) p 0x0520 0
  | none =>
    if b.brk && q.job.debug && !q.seq.brkPassed then idleCycle (brkFreeze s p a) p
    else match strictTrap s p b with
      | some k => trapStrict s p k
      | none =>
        if !isBoundary q.seq b then issueBundle s p a b
        else
          let t := boundaryArrive s p
          if barrierHolds t p then stallCycle t p (some 15) (0, 0) else issueBundle t p a b

/-- One CCLK of a partition that issues: a hold, an absent item, or the bundle (01, R37, R41; 02, R83;
15, R521). -/
def runTick (s0 : State) (p : Nat) : State :=
  let s := settleOwed s0 p
  let q := part s p
  let b := nextBundle q.seq
  let edge := isBoundary q.seq b
  let s1 := if edge then boundaryWait s p else s
  let holds := holdsNow s1 p edge ++ (if edge then boundaryHolds s p else [])
  match holds with
  | h :: t =>
    let u := stallCycle s1 p (some (t.foldl min h)) (0, 0)
    if holds.contains 8 then twBoundary u p else u
  | [] => match absentItems q b with
    | i :: _ => stallCycle s p none i
    | [] => readyBundle s p b

/-- One CCLK of a partition (01, R38; 08, R274, R275; 15, R495; 17, R576; 19, R641). Assumption 1 (DESIGN CHOICE). -/
def partTick (s : State) (p : Nat) : State :=
  let q := part s p
  if q.st != .running || cclkSteps s = 0 then s
  else if q.seq.frozen || q.se.asked || q.se.replaying || q.waiting then idleCycle s p
  else if (match q.seq.freezeAt with | some f => decide (f ≤ q.seq.ic) | none => false) then idleCycle (freezePart s p) p
  else runTick s p

/-- Does the fast path suppress issue of a partition in its next CCLK (19, R630). -/
def dutyNow (s : State) (p : Nat) : Bool :=
  (part s p).st = .running && s.gov.duty != 0 && suppressedNow { s with gov := { s.gov with settle := 0 } } (part s p)

/-- The governor's own count of a CCLK of some partitions: PW_SUPPRESS, and what a frequency step still holds (19, R630,
R631). -/
def settleTick (ps : List Nat) (s : State) : State :=
  { s with
    gov := { s.gov with
             settle := s.gov.settle - 1,
             suppress := if ps.any (dutyNow s) then satInc s.gov.suppress 1 else s.gov.suppress } }

/-- Does a partition stand held for a re-plan: at a step boundary under the hold of cause 12, or without a bundle to issue (19,
R641). Assumption 49 (DEDUCED). -/
def replanHeld (q : Partition) : Bool :=
  q.st != .running || q.waiting || (q.seq.holds.getLsbD 12 && !q.cl.arriveSent && !q.se.asked && !q.se.replaying &&
    !q.seq.frozen && isBoundary q.seq (nextBundle q.seq))

/-- CCLK pauses once every partition is held or idle (19, R641). Assumption 49 (DEDUCED). -/
def replanCheck (s : State) : State :=
  if s.gov.replan = .holding && s.parts.all replanHeld then
    { s with gov := { s.gov with replan := .paused, replanAt := s.quartz.ns } }
  else s

/-- One CCLK of every partition, and the time that it takes (log entry 1).
Assumption 1 (DESIGN CHOICE); 16 (DEDUCED). -/
def tickAll (s : State) : State :=
  let q := cclkSteps s
  if q = 0 then s
  else
    let t := (List.range 12).foldl partTick (advanceFrac s (65536 * 80 / q))
    replanCheck { t with gov := { t.gov with settle := (settleTick (List.range 12) s).gov.settle, suppress := (settleTick (List.range 12) s).gov.suppress } }

/-- Supply a bundle to a running partition and let one CCLK pass (log entry 2). Assumption 2 (DESIGN CHOICE). -/
def slotTick (p : Nat) (b : Bundle) (s : State) : State :=
  if (part s p).st != .running then s
  else
    let t := partTick (withPart s p (withSeq (fun x => { x with stream := x.stream ++ [b] }))) p
    { t with gov := { t.gov with settle := (settleTick [p] s).gov.settle, suppress := (settleTick [p] s).gov.suppress } }

/-- A slot command of partition p. Assumption 2 (DESIGN CHOICE). -/
def slotExec (p : Nat) (b : Bundle) (s : State) : Out := onUnit (decide (p < 12)) (slotTick p b s)

end Sys2Proof.Machine
end

