-- ==== Sys2Proof/Machine/ArraySlot.lean ====
section
/-! DEFINITION. The array-slot, accumulator, feed and store commands (04; 05; 06, R212 to R218). -/

namespace Sys2Proof.Machine

/-- PASS in every cluster of partition p (04; 06, R205, R212). -/
def execPass (p : Nat) (a : ArrayArgs) (s : State) : Out :=
  slotExec p { emptyBundle with arrOp := arrOfCode 1 a.mode.toNat, arr := a } s

/-- STALL_LOAD in every cluster of partition p (04, R142). -/
def execStallLoad (p : Nat) (a : ArrayArgs) (s : State) : Out :=
  slotExec p { emptyBundle with arrOp := arrOfCode 2 a.mode.toNat, arr := a } s

/-- SHADOW_LOAD in every cluster of partition p (04, R143). -/
def execShadowLoad (p : Nat) (a : ArrayArgs) (s : State) : Out :=
  slotExec p { emptyBundle with arrOp := arrOfCode 3 a.mode.toNat, arr := a } s

/-- RETIRE in every cluster of partition p (05, R187). -/
def execRetire (p : Nat) (pred acc : BitVec 3) (s : State) : Out :=
  slotExec p { emptyBundle with accOp := .retire, accIdx := acc, arr := { emptyBundle.arr with pred := pred } } s

/-- DRAIN in every cluster of partition p (05, R189). -/
def execDrain (p : Nat) (pred acc : BitVec 3) (s : State) : Out :=
  slotExec p { emptyBundle with accOp := .drain, accIdx := acc, arr := { emptyBundle.arr with pred := pred } } s

/-- STREAM in every cluster of partition p (06, R213). -/
def execStream (p : Nat) (a : FeedArgs) (s : State) : Out :=
  slotExec p { emptyBundle with fdOp := .run true false, fd := a } s

/-- STAT in every cluster of partition p (06, R213). -/
def execStat (p : Nat) (a : FeedArgs) (s : State) : Out :=
  slotExec p { emptyBundle with fdOp := .run false true, fd := a } s

/-- STREAM_STAT in every cluster of partition p (06, R213). -/
def execStreamStat (p : Nat) (a : FeedArgs) (s : State) : Out :=
  slotExec p { emptyBundle with fdOp := .run true true, fd := a } s

/-- STORE in every cluster of partition p (06, R217, R218). -/
def execStore (p : Nat) (a : StoreArgs) (s : State) : Out :=
  slotExec p { emptyBundle with stOp := .store, st := a } s

end Sys2Proof.Machine
end

