-- ==== Sys2Proof/Machine/RunOps.lean ====
section
/-! DEFINITION. Commands that act on a running partition: arrivals, the watchdog, the debug freeze, replays, the release of a
barrier, the log tail and step entries (01, R36; 02, R81; 06, R233; 08, R274 to R282; 13, R444; 15, R495, R497; 17, R558, R572
to R576). -/

namespace Sys2Proof.Machine

/-- ITEM_ARRIVAL at a buffer of a cluster, with the stall cause of its mark (01, R36; 02, R83; 06, R221, R225).
Assumption 3 (DESIGN CHOICE). -/
def execItemArrival (l : Nat) (buf : BitVec 6) (mark : Option (BitVec 4)) (s : State) : Out :=
  onUnit (decide (l < 480)) (match partOfCl s l with
    | none => s
    | some p => noteFreeze (landItem s p (l - clBase s p) buf.toNat (mark.map BitVec.toNat)) p)

/-- STALL_WATCHDOG of a partition that stalls (06, R233). -/
def execStallWatchdog (p : Nat) (s : State) : Out :=
  onUnit (decide (p < 12)) (if (part s p).seq.stallRun = 0 then s else wdogEnd s p)

/-- DEBUG_FREEZE: the trap lane has reached the root (08, R274). -/
def execDebugFreeze (p : Nat) (s : State) : Out :=
  let q := part s p
  onUnit (decide (p < 12)) (match q.seq.freezeAt with
    | some f => if q.st = .running && !q.seq.frozen && decide (f ≤ q.seq.ic) then freezePart s p else s
    | none => s)

/-- The freeze ends: every trap record and count is cleared; a replay that waited begins (08, R277; 15, R499). -/
def resumePart (s : State) (p : Nat) : State :=
  let q := part s p
  if !q.seq.frozen then s
  else
    let t := withPart s p (fun x =>
      { x with
        clusters := x.clusters.map (fun c => { c with trap := trapReset }),
        seq := { x.seq with frozen := false, replayAtResume := false } })
    if q.seq.replayAtResume then requestReplay t p else t

/-- DEBUG_RESUME: the resume bit of DBG_CTRL. -/
def execDebugResume (p : Nat) (s : State) : Out := onUnit (decide (p < 12)) (resumePart s p)

/-- The end bit of DBG_CTRL halts the job of a frozen partition (08, R277, R282). -/
def debugEnd (s : State) (p : Nat) : State := if (part s p).seq.frozen then faultEnd s srcFw p 0x0241 0 else s

/-- DEBUG_END_JOB. -/
def execDebugEndJob (p : Nat) (s : State) : Out := onUnit (decide (p < 12)) (debugEnd s p)

/-- HOST_PATH_TIMEOUT of a boundary that waits on the host path (17, R558). -/
def execHostPathTimeout (p : Nat) (s : State) : Out :=
  onUnit (decide (p < 12)) (if (part s p).seq.hostWait = 0 then s else faultEnd s srcFw p 0x0403 0)

/-- REPLAY of an attempt that is to be abandoned; restoreBad: an uncorrectable error prevents a restore (15, R498); copyBad: the
takeover copy cannot be read (15, R506). -/
def execReplay (p : Nat) (restoreBad copyBad : Bool) (s : State) : Out :=
  onUnit (decide (p < 12)) (doReplay s p restoreBad copyBad)

/-- REPLAY_RESTART: the new attempt may issue (15, R497). -/
def execReplayRestart (p : Nat) (dt : Word64) (s : State) : Out := onUnit (decide (p < 12)) (replayRestart (advance s dt) p)

/-- BARRIER_RELEASE_TIME: Quartz reaches T_rel, and the partition's held boundary bundle has its CCLK (13, R444). -/
def execBarrierReleaseTime (p : Nat) (s : State) : Out :=
  onUnit (decide (p < 12)) (match (part s p).cl.tRel with
    | none => s
    | some r =>
      partTick (if r ≤ qzFine s then s else { s with quartz := { s.quartz with ns := r / 65536, frac := r % 65536 } }) p)

/-- The partition that a window of a function shows: its own on a VF, else the selected one (02, REP_PART_SEL). -/
def winPart (s : State) (fn win : Nat) : Nat := if fn = 0 then ((fnOf s 0).sel.getD win 0).toNat else fn - 1

/-- A write of REP_LOG_TAIL: a value not below the ring size in force is ignored (02, R81). -/
def logTail (s : State) (p : Nat) (v : Word32) : State :=
  withPart s p (fun q =>
    if v.toNat < q.rep.logSizeEff.toNat then { q with rep := { q.rep with tail := v } } else q)

/-- LOG_TAIL_WRITE by a function. -/
def execLogTailWrite (fn : Nat) (v : Word32) (s : State) : Out :=
  onUnit (decide (fn < 13)) (if barFull s then logTail s (winPart s fn 0) v else s)

/-- A step entry from its 64 bytes (17, step entry). -/
def entryOf (b : List Byte) : StepEntry :=
  let f (lo n : Nat) : Nat := leNat ((b.drop lo).take n)
  { step := f 0 8, entry := bits (f 8 2) 0 13, image := f 10 1, raise := (f 11 1).testBit 0, user := BitVec.ofNat 64 (f 16 8) }

/-- Does a fetched entry complete at once with 0x0103 (17, R574). Assumption 62 (DEDUCED). -/
def entryBad (q : Partition) (prev : Option Nat) (b : List Byte) : Bool :=
  let f (lo n : Nat) : Nat := leNat ((b.drop lo).take n)
  let e := entryOf b
  let room : Nat := match (if jobActive q then q.job.images[e.image]? else none) with | some m => m.count | none => 0
  decide (e.step < q.seq.step) || (match prev with | some x => decide (e.step ≤ x) | none => false) || decide (room ≤ e.entry) ||
    bits (f 8 2) 13 3 != 0 || decide (2 ≤ f 11 1) || f 12 4 != 0 || f 24 40 != 0

/-- Fetch the entries of a context in ring order, at most 64 of them held (17, R572, R574). Assumption 62 (DEDUCED). -/
def fetchEntries (p k : Nat) : Nat → State → State
  | 0, s => s
  | fuel + 1, s =>
    match s.host.ctxs.find? (fun c => c.k = k) with
    | none => s
    | some c =>
      if c.head = c.tail || 64 ≤ c.fetched.length then s
      else
        let b := hostRead s (c.ring + 64 * c.head) 64
        let e := entryOf b
        let bad := entryBad (part s p) c.prev b
        let t := withCtx s k (fun x =>
          { x with head := (x.head + 1) % x.size, prev := some e.step, fetched := if bad then x.fetched else x.fetched ++ [e] })
        fetchEntries p k fuel (if bad then stepDone t k e 0x0103 0 else t)

/-- Fetch, and start a partition that waited for its entry (17, R576). -/
def fetchCtx (s : State) (p k : Nat) : State :=
  if !s.host.up || !fwWorks s then s
  else
    let size : Nat := match s.host.ctxs.find? (fun c => c.k = k) with | some c => c.size | none => 0
    let t := fetchEntries p k size s
    if (part t p).st = .running && (part t p).waiting then selectEntry t p else t

/-- STEP_ENTRY_FETCH of a module-wide context. Assumption 15 (DEDUCED). -/
def execStepEntryFetch (k : Nat) (s : State) : Out :=
  onUnit (decide (k < 8192)) (match partOfCtx s k with | some p => fetchCtx s p k | none => s)

end Sys2Proof.Machine
end

