-- ==== Sys2Proof/Machine/FaultOps.lean ====
section
/-! DEFINITION. Errors and failed units: health scores, clusters, takeover, spot-checks, test windows, bridges, hub cores, stacks,
rebuild, patrol scrub, and the directory of the coherent control space (01, R18 to R33; 04, R166; 10, R330 to R345; 15, R486 to
R522). -/

namespace Sys2Proof.Machine

/-- Die of a physical cluster as an event names it; the source of a bridge group, which joins two dies (15, R523).
Assumption 25 (DESIGN CHOICE). -/
def srcBridge (b g : Nat) : EvSrc := ⟨0xFF, 3, 4 * b + g⟩

/-- Hub core c. -/
def srcCore (c : Nat) : EvSrc := ⟨0x1F, 5, c⟩

/-- Every running partition replays its step. Assumption 41 (DEDUCED). -/
def replayAll (s : State) : State := (List.range 12).foldl requestReplay s

/-- A cluster failure aborts the open test window (01, R29). Assumption 41 (DEDUCED). -/
def twAbort (s : State) : State :=
  if s.faults.tw.isNone then s
  else { (twReturn s) with faults := { (twReturn s).faults with twState := s.faults.twState ||| 2 } }

/-- A physical cluster leaves service (01, R26; 15, R503; 19, R642). -/
def clusterOut (s : State) (phys : Nat) : State :=
  let t := declareDown s (srcCl phys)
  let bit : BitVec 512 := BitVec.ofNat 512 (2 ^ phys)
  { t with
    grid := { t.grid with disabled := t.grid.disabled ||| bit, failed := t.grid.failed + 1 },
    life := { t.life with clusters := t.life.clusters ||| bit } }

/-- The job of the partition of logical cluster l replays its step on the stand-in (15, R506). -/
def takeover (s : State) (p : Nat) : State :=
  if (part s p).st != .running then s else requestReplay (withSe s p (fun x => { x with takeover := true })) p

/-- The physical cluster that holds logical cluster l is declared failed (01, R26 to R30; 15, R504 to R507). -/
def clusterFails (s : State) (l : Nat) : State :=
  let phys := physOf s l
  let p := (partOfCl s l).getD 15
  let s1 := clusterOut (twAbort s) phys
  let moved := physOf s1 l
  let dest : Option Nat := if moved != phys then some moved else spareFor s1 phys []
  match dest with
  | some n =>
    let s2 : State := { s1 with grid := { s1.grid with table := s1.grid.table.set l n } }
    spareWarn (takeover (sendEvent s2 (srcCl phys) p 0x05B1 (l + phys * 2 ^ 16 + n * 2 ^ 32)) p)
  | none =>
    let s2 := spareWarn s1
    if jobActive (part s2 p) then faultEnd s2 (srcCl phys) p 0x04B1 0 else sendEvent s2 (srcCl phys) p 0x04B1 0

/-- CLUSTER_FAIL of a logical cluster. -/
def execClusterFail (l : Nat) (s : State) : Out := onUnit (decide (l < 480)) (clusterFails s l)

/-- Does a cluster show an error of another attempt of the step at the same structure and place (15, R505). -/
def errorAgain (q : Partition) (l structure_ place : Nat) : Bool :=
  q.se.errs.any (fun e => e.1 != q.seq.attempt && e.2.1 = structure_ && e.2.2.1 = place && e.2.2.2 = l)

/-- Note an error of the attempt. -/
def noteError (s : State) (p l structure_ place : Nat) : State :=
  withSe s p (fun x => { x with errs := x.errs ++ [((part s p).seq.attempt, structure_, place, l)] })

/-- An uncorrectable error in a structure of a cluster; structure 0 stands for a queue-descriptor line of the cluster's
partition in the coherent control space (15, R486, R502 to R505). Assumption 41 (DEDUCED). -/
def uncorrectable (s : State) (l structure_ place : Nat) : State :=
  let p := (partOfCl s l).getD 15
  if structure_ = 0 then faultEnd s srcFw p 0x05BC 0
  else if 7 ≤ structure_ then s
  else
    let phys := physOf s l
    let again := errorAgain (part s p) l structure_ place
    let s1 := sendEvent s (srcCl phys) p 0x05B0 (structure_ + l * 2 ^ 16 + place * 2 ^ 32)
    let h := addHealth (noteError s1 p l structure_ place) (srcCl phys) 64
    if again || h.2 then clusterFails h.1 l else requestReplay h.1 p

/-- UNCORRECTABLE_ERROR of a logical cluster. -/
def execUncorrectableError (l : Nat) (structure_ : BitVec 8) (place : BitVec 32) (s : State) : Out :=
  onUnit (decide (l < 480)) (uncorrectable s l structure_.toNat place.toNat)

/-- The decay of one second of a score; the warning is armed again below half its level (15, R502, R503). -/
def decayed (h : Health) : Health :=
  match healthLevels h.unit with
  | none => h
  | some (warn, _, decay) =>
    let sc := h.score.toNat - decay
    { h with score := BitVec.ofNat 32 sc, warned := h.warned && decide (warn ≤ 2 * sc) }

/-- HEALTH_DECAY: a second of Quartz time has passed. -/
def execHealthDecay (dt : Word64) (s : State) : Out :=
  let t := advance s dt
  .next { t with
          faults := { t.faults with
                      health := (t.faults.health.map decayed).filter (fun h => h.score != 0 || h.warned || h.down) } }

/-- The hop of a number: 0 north, 1 west, 2 south, 3 east. -/
def hopOfNat (n : Nat) : Hop := match n with | 0 => .north | 1 => .west | 2 => .south | _ => .east

/-- Change the array of local cluster i. -/
def withArray (s : State) (p i : Nat) (f : ArrayUnit → ArrayUnit) : State :=
  withPart s p (fun q =>
    { q with clusters := updAt q.clusters i (fun c => { c with core := { c.core with array := f c.core.array } }) })

/-- A hop of a cluster goes through the relay from now on, and TA_GANG_ROUTE shows it at both ends (04, R166, R170). -/
def relayHop (s : State) (p i n : Nat) : State :=
  let t := withArray s p i (fun a => { a with relayed := a.relayed ||| BitVec.ofNat 4 (2 ^ n) })
  let fix (u : State) (k : Nat) : State := withArray u p k (fun a => { a with gangRoute := BitVec.ofNat 8 (routeByte u p k) })
  match pairedHop t p i (hopOfNat n) with
  | some j => fix (fix t i) j
  | none => fix t i

/-- A parity error on a neighbour link of a cluster (04, R166). -/
def parityError (s : State) (l n : Nat) : State :=
  match partOfCl s l with
  | none => s
  | some p =>
    let q := part s p
    let i := l - clBase s p
    let again := errorAgain q l (256 + n) 0
    let s1 := withArray s p i (fun a => { a with status := a.status ||| 128, gangPerr := satInc a.gangPerr 1 })
    let s2 := noteError s1 p l (256 + n) 0
    requestReplay (if again then relayHop s2 p i n else s2) p

/-- NEIGHBOUR_PARITY_ERROR on hop 0 north, 1 west, 2 south or 3 east. -/
def execNeighbourParityError (l : Nat) (hop : BitVec 2) (s : State) : Out :=
  onUnit (decide (l < 480)) (parityError s l hop.toNat)

/-- Change the spot-check state of local cluster i. -/
def withSpot (s : State) (p i : Nat) (f : SpotSample → SpotSample) : State :=
  withPart s p (fun q => { q with clusters := updAt q.clusters i (fun c => { c with spot := f c.spot }) })

/-- A sample of local cluster i mismatches on a checker; used: the checkers on which it mismatched before (15, R505, R512). -/
def spotMiss (s : State) (p i l j : Nat) (used : List Nat) (checker : Option Nat) : State :=
  let phys := physOf s l
  let s1 := withSe s p (fun x =>
    { x with
      spotMiss := satInc x.spotMiss 1, status := x.status ||| 4,
      missed := x.missed.filter (fun e => !(e.1 = l && e.2.1 = j)) ++ [(l, j, used ++ checker.toList)] })
  let h := addHealth s1 (srcCl phys) 128
  let s2 := sendEvent (withSpot h.1 p i (fun x => { x with capture := none })) (srcCl phys) p 0x05B6 (l + j * 2 ^ 32)
  match used, checker with
  | [], _ => if h.2 then clusterFails s2 l else requestReplay s2 p
  | _ :: _, some _ => clusterFails s2 l
  | u :: _, none =>
    let a := addHealth s2 (srcCl phys) 512
    let b := addHealth a.1 (srcCl u) 512
    let t := faultEnd b.1 (srcCl phys) p 0x05B3 0
    let t1 := if h.2 || a.2 then clusterFails t l else t
    if b.2 then clusterOut t1 u else t1

/-- The checker's answer on the captured sample of a cluster (15, R509 to R512). Assumption 41 (DEDUCED). -/
def spotCompare (s : State) (l : Nat) (differs : Bool) : State :=
  match partOfCl s l with
  | none => s
  | some p =>
    let q := part s p
    let i := l - clBase s p
    match (q.clusters.getD i clusterReset).spot.capture with
    | none => s
    | some cap =>
      let used := match q.se.missed.find? (fun e => e.1 = l && e.2.1 = cap.j) with | some e => e.2.2 | none => []
      let checker := spareFor s (physOf s l) used
      let done (t : State) : State := withSpot t p i (fun x => { x with capture := none })
      if q.st != .running then s
      else if (sparesNow s).isEmpty then done (withSe s p (fun x => { x with spotSkip := satInc x.spotSkip 1 }))
      else
        let t := withSe s p (fun x => { x with spotDone := satInc x.spotDone 1 })
        if differs then spotMiss t p i l cap.j used checker else done t

/-- SPOT_CHECK_COMPARE of a logical cluster's sample. -/
def execSpotCheckCompare (l : Nat) (differs : Bool) (s : State) : Out := onUnit (decide (l < 480)) (spotCompare s l differs)

/-- The logical cluster that the next test window tests (15, R521). -/
def twNext (s : State) : Option Nat :=
  let from_ : Nat := match s.faults.twLast with | some l => l + 1 | none => 0
  ((List.range 480).map (fun i => (from_ + i) % 480)).find? (fun l =>
    match partOfCl s l with | some p => jobActive (part s p) | none => false)

/-- Raise the hold of cause 8 at the next boundary of a partition. -/
def holdBoundary (s : State) (p : Nat) : State := withPart s p (withSeq (fun x => { x with holds := x.holds ||| 0x100 }))

/-- TEST_WINDOW_OPEN: firmware opens a window, or postpones it (01, R28; 15, R521 step 1). -/
def execTestWindowOpen (s : State) : Out :=
  .next (if !s.faults.twCtrl.getLsbD 31 || s.faults.tw.isSome then s
    else match twNext s with
      | none => s
      | some l => match spareFor s (physOf s l) [] with
        | none =>
          sendEvent { s with faults := { s.faults with twPostponed := satInc s.faults.twPostponed 1 } } srcFw 15 0x04B4 0
        | some n =>
          holdBoundary { s with faults := { s.faults with
            tw := some { lcl := l, phys := physOf s l, stand := n, phase := .waitOpen } } } ((partOfCl s l).getD 15))

/-- The tests of the open window end; fail: the index of the failing test (15, R521, R522). Assumption 41 (DEDUCED). -/
def twClose (s : State) (w : TestWindow) (fail : Option (BitVec 8)) : State :=
  let p := (partOfCl s w.lcl).getD 15
  match fail with
  | some k =>
    let t := clusterOut { s with faults := { s.faults with tw := none, twState := s.faults.twState ||| 4 } } w.phys
    spareWarn (twDone (sendEvent t (srcCl w.phys) p 0x05B8 (k.toNat * 2 ^ 32)) w.lcl)
  | none =>
    if jobActive (part s p) then
      holdBoundary { s with faults := { s.faults with tw := some { w with phase := .waitClose } } } p
    else twDone (twReturn s) w.lcl

/-- TEST_WINDOW_CLOSE. -/
def execTestWindowClose (fail : Option (BitVec 8)) (s : State) : Out :=
  .next (match s.faults.tw with
    | some w => if w.phase = .testing then twClose s w fail else s
    | none => s)

/-- The four column bridges of T-die k (01, R18; log entry 5). Assumption 5 (DESIGN CHOICE). -/
def columnBridges (k : Nat) : List Nat := (List.range 4).map (fun r => 24 + 4 * k + r)

/-- Has a bridge no group in use. -/
def bridgeDead (g : Grid) (b : Nat) : Bool := (g.bridges.getD b (bridgeOf 0)).groups.all (fun x => !x.used)

/-- Change a bridge. -/
def withBridge (s : State) (b : Nat) (f : Bridge → Bridge) : State :=
  { s with grid := { s.grid with bridges := updAt s.grid.bridges b f } }

/-- A bridge without groups: routes that avoid it from the next boundary on, replays, and a T-die cut off from its column
(01, R21; 10, R339). -/
def bridgeOut (s : State) (b : Nat) : State :=
  let t := replayAll { s with grid := { s.grid with reroute := s.grid.reroute ++ [b] } }
  match (List.range 4).find? (fun k => (columnBridges k).contains b && (columnBridges k).all (bridgeDead t.grid)) with
  | some k => withdraw t k
  | none => t

/-- Take a group of a bridge out of use (01, R20, R21). -/
def groupOut (s : State) (b g : Nat) : State :=
  let br := s.grid.bridges.getD b (bridgeOf 0)
  if !(br.groups.getD g { lost := 0, used := false }).used then s
  else
    let t := withBridge s b (fun x => { x with groups := updAt x.groups g (fun y => { y with used := false }) })
    if bridgeDead t.grid b then bridgeOut t b else replayAll t

/-- BRIDGE_LANE_FAIL: a spare lane takes over at the next retraining window, or the group goes out of use (01, R19, R20). -/
def execBridgeLaneFail (bridge group : Nat) (s : State) : Out :=
  let br := s.grid.bridges.getD bridge (bridgeOf 0)
  let g := br.groups.getD group { lost := 0, used := false }
  onUnit (decide (group < br.groups.length))
    (if !g.used then s
     else
       let t := withBridge s bridge (fun x =>
         { x with groups := updAt x.groups group (fun y => { y with lost := y.lost + 1 }) })
       if 2 ≤ g.lost then groupOut t bridge group else (addHealth t (srcBridge bridge group) 256).1)

/-- BRIDGE_GROUP_LOSS (01, R20). -/
def execBridgeGroupLoss (bridge group : Nat) (s : State) : Out :=
  onUnit (decide (group < (s.grid.bridges.getD bridge (bridgeOf 0)).groups.length)) (groupOut s bridge group)

/-- BRIDGE_LOSS: the last groups of a bridge go (01, R21). -/
def execBridgeLoss (bridge : Nat) (s : State) : Out :=
  onUnit (decide (bridge < 60))
    (if bridgeDead s.grid bridge then s
     else
       bridgeOut (withBridge s bridge (fun x => { x with groups := x.groups.map (fun y => { y with used := false }) })) bridge)

/-- HUB_CORE_FAIL: fewer than three cores halt every partition (01, R33; 20, R650). Assumption 41 (DEDUCED). -/
def execHubCoreFail (core : BitVec 2) (s : State) : Out :=
  let c := core.toNat
  if !s.grid.cores.getLsbD c then .next s
  else
    let t : State :=
      declareDown { s with grid := { s.grid with cores := s.grid.cores &&& ~~~(BitVec.ofNat 4 (2 ^ c)) } } (srcCore c)
    let left := countTrue ((List.range 4).map (fun k => t.grid.cores.getLsbD k))
    .next (if left < 3 && t.boot.st = .ready then
        (List.range 12).foldl (fun u p => jobEnd u p 4 0x0402)
          { (sendEvent t srcFw 15 0x0402 0) with boot := { t.boot with st := .halted } }
      else t)

/-- STACK_FAIL: a T-die declares an M-stack failed (10, R331 to R338). -/
def execStackFail (stack : BitVec 3) (s : State) : Out := .next (stackFail s stack.toNat)

/-- REBUILD_STRIPE: the next new stripe of a partition's rebuild (10, R334 to R337). -/
def execRebuildStripe (p : Nat) (s : State) : Out := onUnit (decide (p < 12)) (rebuildStripe s p)

/-- Lines of an M-stack (01, R17). -/
def stackLines : Nat := 805306368

/-- PATROL_SCRUB of a line: no error, a corrected one, or an uncorrectable one; the last line ends a pass (10, R330). -/
def execPatrolScrub (stack : BitVec 3) (line : BitVec 30) (err : Option Bool) (s : State) : Out :=
  let t := match err with | some bad => lineError s { stack := stack, line := line, bad := bad } | none => s
  let here := stack.toNat * stackLines + line.toNat
  onUnit (decide (line.toNat < stackLines))
    { t with
      tiers := { t.tiers with
                 scrubAt := (here + 1) % (8 * stackLines),
                 scrubPass := if here + 1 = 8 * stackLines then satInc t.tiers.scrubPass 1 else t.tiers.scrubPass } }

/-- The directory's view of a line (10, R344). Assumption 9 (DESIGN CHOICE). -/
def dirLine (s : State) (n : Nat) : DirLine :=
  (s.tiers.lines.find? (fun d => d.num = n)).getD
    { num := n, st := .inv, owner := 0, sharers := [], data := 0, favoured := none, since := 0, recalled := false }

/-- Is a line as it stands after reset. Assumption 9 (DESIGN CHOICE). -/
def dirIdle (d : DirLine) : Bool := d.st = .inv && d.data = 0 && d.favoured.isNone

/-- Keep the directory's view of a line and its answer; lines at their reset value are not listed. -/
def setDir (s : State) (d : DirLine) (a : DirAns) : State :=
  let keep (l : List DirLine) : List DirLine := if dirIdle d then l else d :: l
  { s with
    tiers := { s.tiers with
               lines := s.tiers.lines.filter (fun x => decide (x.num < d.num)) ++
                 keep (s.tiers.lines.filter (fun x => decide (d.num < x.num))),
               answer := some a, cdRetry := if a.retry then satInc s.tiers.cdRetry 1 else s.tiers.cdRetry } }

/-- Is the number a requester of the directory: a hub core, or the descriptor cache of a C-die (10).
Assumption 36 (DEDUCED). -/
def dirReq (req : Nat) : Bool := decide (req < 4) || (decide (16 ≤ req) && decide (req < 32))

/-- A RETRY: the oldest retried requester is favoured (10, R345). -/
def dirRetry (s : State) (d : DirLine) (req : Nat) : State :=
  setDir s { d with favoured := some (d.favoured.getD req) } { line := d.num, req := req, retry := true, data := 0 }

/-- A grant, with the data of the last completed write (10, R344). -/
def dirGrant (s : State) (d : DirLine) (req : Nat) : State :=
  setDir s { d with favoured := if d.favoured = some req then none else d.favoured }
    { line := d.num, req := req, retry := false, data := d.data }

/-- Must a request be retried: another requester is favoured, or another one owns the line (10, R344, R345). -/
def dirBusy (d : DirLine) (req : Nat) : Bool :=
  (match d.favoured with | some f => f != req | none => false) || ((d.st = .excl || d.st = .modif) && d.owner != req)

/-- Insert a requester into an ascending list of sharers. -/
def addSharer (l : List Nat) (r : Nat) : List Nat := l.filter (fun x => decide (x < r)) ++ r :: l.filter (fun x => decide (r < x))

/-- GETS: a request to share a line. Assumption 3 (DESIGN CHOICE). -/
def execGets (line : BitVec 15) (req : BitVec 5) (_fclk : BitVec 64) (s : State) : Out :=
  let d := dirLine s line.toNat
  let r := req.toNat
  onUnit (dirReq r)
    (if dirBusy d r then dirRetry s d r
     else if d.st = .excl || d.st = .modif then dirGrant s d r
     else dirGrant s { d with st := .shared, sharers := addSharer d.sharers r } r)

/-- GETM: a request to own a line; every sharer has acknowledged its invalidation when it is granted (10, R345). -/
def execGetm (line : BitVec 15) (req : BitVec 5) (fclk : BitVec 64) (s : State) : Out :=
  let d := dirLine s line.toNat
  let r := req.toNat
  onUnit (dirReq r)
    (if dirBusy d r then dirRetry s d r
     else if d.st = .excl || d.st = .modif then dirGrant s { d with st := .modif } r
     else dirGrant s { d with st := .modif, owner := r, sharers := [], since := fclk.toNat, recalled := false } r)

/-- PUTM: the owner writes a line back (10, R344). -/
def execPutm (line : BitVec 15) (req : BitVec 5) (data : Word512) (s : State) : Out :=
  let d := dirLine s line.toNat
  let r := req.toNat
  onUnit (dirReq r)
    (if (d.st = .excl || d.st = .modif) && d.owner = r then
       setDir s { d with st := .inv, owner := 0, data := data, since := 0, recalled := false }
         { line := d.num, req := r, retry := false, data := data }
     else s)

/-- OWNER_RECALL: a favoured requester waits and the owner has held the line for 16 FCLK (10, R345). -/
def execOwnerRecall (line : BitVec 15) (fclk : BitVec 64) (s : State) : Out :=
  let d := dirLine s line.toNat
  .next (if (d.st = .excl || d.st = .modif) && d.favoured.isSome && decide (d.since + 16 ≤ fclk.toNat) && !d.recalled then
      { s with
        tiers := { s.tiers with lines := s.tiers.lines.map (fun x => if x.num = d.num then { x with recalled := true } else x) } }
    else s)

end Sys2Proof.Machine
end

