-- ==== Sys2Proof/Machine/LinkRx.lean ====
section
/-! DEFINITION. Rynar links: what a port does with a flit that it receives, the messages, responses and BARRIER and TIME flits,
training, lane and link failures (12, R381 to R417; 13, R440 to R447; 15, R496; 16, R537, R541). -/

namespace Sys2Proof.Machine

/-- Weights of a port's health score (15, R502). -/
def portHealth (s : State) (k w : Nat) : State := if w = 0 then s else (addHealth s (srcPort k) w).1

/-- The lanes that a link uses while the lanes of a mask have failed (12, R381, R408). -/
def activeLanes (failed : BitVec 8) (split half : Bool) : List Nat :=
  let ok (l : List Nat) : Bool := l.all (fun i => !failed.getLsbD i)
  let all8 := List.range 8
  let a := [0, 1, 2, 3]
  let b := [4, 5, 6, 7]
  let pairs := if split then (if half then [[4, 5], [6, 7]] else [[0, 1], [2, 3]]) else [[0, 1], [2, 3], [4, 5], [6, 7]]
  let wide := if split then (if half then [b] else [a]) else [all8, a, b]
  ((wide ++ pairs).find? ok).getD []

/-- Width code of a number of lanes. -/
def widthCode (n : Nat) : Nat := match n with | 8 => 3 | 4 => 2 | 2 => 1 | _ => 0

/-- The active lanes of a link of port k. -/
def linkLanes (s : State) (k : Nat) (half : Bool) : List Nat :=
  activeLanes (portAt s k).laneFailed (portAt s k).splitAct half

/-- An acknowledgement: flits before the sequence number leave the replay buffer (12, R396). -/
def takeAck (l : Link) (ack : Nat) : Link :=
  let base := match l.replay with | e :: _ => e.flit.seq | [] => l.txSeq
  let n := (ack + 65536 - base) % 65536
  if n ≤ l.replay.length then { l with replay := l.replay.drop n } else l

/-- A credit report (12, R393). Assumption 38 (DEDUCED). -/
def takeCredit (l : Link) (c ccum : Nat) : Link :=
  { l with
    credits := l.credits.set c (nth l.credits c + (ccum + 256 - nth l.ccumRx c) % 256), ccumRx := l.ccumRx.set c ccum }

/-- The link header of a flit: acknowledgement and credits; then what can go out goes out. -/
def takeHeader (s : State) (k : Nat) (half : Bool) (f : Flit) : State :=
  pumpLink (withLink s k half (fun l => takeCredit (takeAck l f.ack) (f.cvc % 4) f.ccum)) k half

/-- The link retrains; its replay buffer is kept (12, R398, R408). Assumption 38 (DEDUCED). -/
def retrainLink (s : State) (k : Nat) (half : Bool) : State :=
  let t := withLink s k half (fun l =>
    { l with st := .retrain, kept := true, locked := 0, replay := l.replay.map (fun e => { e with tries := 0 }) })
  portHealth (withPort t k (fun x => { x with retrains := satInc x.retrains 1 })) k 64

/-- Retransmit every unacknowledged flit in order, or retrain where one has gone out 8 times again (12, R396, R398).
Assumption 38 (DEDUCED). -/
def retransmit (s : State) (k : Nat) (half : Bool) : State :=
  let l := linkAt s k half
  if l.st != .active then s
  else if l.replay.any (fun e => decide (8 ≤ e.tries)) then
    retrainLink (sendEvent s (srcPort k) ((partOfPort s k).getD 15) 0x0483 0) k half
  else
    withPort (withLink s k half (fun x => { x with replay := x.replay.map (fun e =>
      { flit := { e.flit with mflags := e.flit.mflags ||| 4, ack := x.rxSeq }, tries := e.tries + 1 }) }))
      k (fun x => { x with replayed := satInc x.replayed l.replay.length })

/-- A DATA flit is discarded: one NAK asks for the expected one (12, R395). -/
def nakFlit (s : State) (k : Nat) (half : Bool) : State :=
  if (linkAt s k half).nakSent then s
  else controlFlit (withLink s k half (fun l => { l with nakSent := true })) k half 2 []

/-- A flit is dropped and reported once per job (12, R404). -/
def countReject (s : State) (p k : Nat) : State :=
  let first := !(part s p).lk.sentRej
  let t := withLk s p (fun l => { l with routeRej := satInc l.routeRej 1, sentRej := true })
  if first then sendEvent t (srcPort k) p 0x0580 0 else t

/-- A rejected flit; a request is answered with REJECT (12, R404, R405). -/
def rejectFlit (s : State) (p k : Nat) (f : Flit) : State :=
  let t := countReject s p k
  if decide (1 ≤ f.mtype) && decide (f.mtype ≤ 6) then sendReply t p f.src 0x12 f.addr (part s p).job.rank else t

/-- A flit that this module forwards (12, R391, R403, R404, R410); fec: this hop marks it. -/
def forwardFlit (s : State) (p k : Nat) (f : Flit) (fec : Bool) : State :=
  let e := pathEntry f.path (pathHop f)
  if !hopOwned s p e then rejectFlit s p k f
  else if (linkAt s (e % 32) (e.testBit 5)).st = .failed then sendReply s p f.src 0x13 0 f.dst
  else
    queueFlit s (e % 32) (e.testBit 5)
      { f with path := f.path + 2 ^ 48, mflags := if fec then f.mflags ||| 8 else f.mflags }

/-- The cluster, buffer and offset that `addr` of a SEND or RREAD_DATA names (12, message types). -/
def itemAddr (f : Flit) : Nat × Nat × Nat := (bits f.addr 30 9, bits f.addr 24 6, bits f.addr 0 24)

/-- The valid payload bytes. -/
def flitData (f : Flit) : List Byte := f.payload.take f.plen

/-- `last`. -/
def flitLast (f : Flit) : Bool := f.mflags.testBit 0
/-- `poison`. -/
def flitPoison (f : Flit) : Bool := f.mflags.testBit 1

/-- ACK of the last flit of a message whose lines have committed (12, R389). -/
def ackFlit (s : State) (p : Nat) (f : Flit) : State :=
  if flitLast f then sendReply s p f.src 0x11 0 (f.step % 2 ^ 32) else s

/-- May another rank reach the range of the slice (10, R341, R342; 11, R377). Assumption 38 (DEDUCED). -/
def remoteOk (s : State) (p off n : Nat) : Bool :=
  !off.testBit 46 && decide (off < 2 ^ 48) && inSlice (part s p) off n && !privateTo s p off n

/-- SEND (06, R225; 12). -/
def rxSend (s : State) (p k : Nat) (f : Flit) : State :=
  let a := itemAddr f
  match localOf s p a.1 with
  | none => rejectFlit s p k f
  | some l =>
    landArrival s p l { buf := a.2.1, off := a.2.2, data := flitData f, poison := flitPoison f, step := f.step,
                        attempt := f.attempt, mark := flitMark f }

/-- RWRITE: a committed write, or a message of Agate (10, R341; 12; 16, R538 to R540; log entry 31). -/
def rxWrite (s : State) (p k : Nat) (f : Flit) : State :=
  let d := flitData f
  if agateOff 0 ≤ f.addr && decide (f.addr < agateOff (2 ^ 42)) then
    let r := agateMsg s p (f.addr - agateOff 0) d
    if r.2 then ackFlit r.1 p f else rejectFlit r.1 p k f
  else if !remoteOk s p f.addr d.length then rejectFlit s p k f
  else ackFlit (if flitPoison f then hbmPoison s p f.addr d.length else hbmStore .committed s p f.addr d) p f

/-- RREAD_REQ: its payload names the requester's cluster and buffer (10, R329, R341; 12, R405). -/
def rxReadReq (s : State) (p k : Nat) (f : Flit) : State :=
  if !remoteOk s p f.addr f.arg then rejectFlit s p k f
  else
    let bad := hbmBad s p f.addr f.arg
    sendMsg (countPoisonRead s p bad.length) p f.src 4 (leNat (f.payload.take 8)) 0 (!bad.isEmpty) (hbmBytes s p f.addr f.arg)

/-- The bytes that a remote read has received, in place. -/
def gotBytes (r : AwaitRead) : List Byte :=
  memRead (r.got.foldl (fun (m : Mem 8) e => memWrite m e.1 e.2) []) 0 r.len

/-- RREAD_DATA: bytes of a read; with the last of them the item arrives with the strongest mark (10, R341; 12, R391, R406). -/
def rxReadData (s : State) (p : Nat) (f : Flit) : State :=
  let a := itemAddr f
  let is (r : AwaitRead) : Bool := r.lcl = a.1 && r.buf = a.2.1 && r.dst = f.src
  match (part s p).lk.reads.find? is with
  | none => s
  | some r =>
    let d := flitData f
    let r1 : AwaitRead :=
      { r with got := r.got ++ [(a.2.2, d)], poison := r.poison || flitPoison f, mark := strongerMark r.mark (flitMark f) }
    let have_ := (r1.got.map (fun e => e.2.length)).foldl (· + ·) 0
    if have_ < r.len then withLk s p (fun l => { l with reads := l.reads.map (fun x => if is x then r1 else x) })
    else
      let t := withLk s p (fun l => { l with reads := l.reads.filter (fun x => !is x) })
      match localOf s p r.lcl with
      | none => t
      | some l => landItem (setFetched t p l r.buf r.sram (gotBytes r1) r1.poison) p l r.buf r1.mark

/-- RATOMIC: held for the boundary in order of arrival within its rank (13, R439). -/
def rxAtomic (s : State) (p k : Nat) (f : Flit) : State :=
  let d := flitData f
  if !remoteOk s p f.addr d.length then rejectFlit s p k f
  else
    ackFlit (withPart s p (withSeq (fun x =>
      { x with
        atomics := x.atomics ++ [{ rank := f.src, lcl := 0, bno := (x.atomics.filter (fun h => h.rank = f.src)).length,
                                   off := f.addr, vals := (chunksOf 4 (d.length / 4) d).map leNat }] }))) p f

/-- RATOMIC_RELAXED: applied on arrival (13, R439). -/
def rxAtomicNow (s : State) (p k : Nat) (f : Flit) : State :=
  let d := flitData f
  if !remoteOk s p f.addr d.length then rejectFlit s p k f
  else
    ackFlit (if flitPoison f then hbmPoison s p f.addr d.length
      else atomicAdd s p f.addr ((chunksOf 4 (d.length / 4) d).map leNat)) p f

/-- ACK: the first message to that rank with that step is acknowledged (12, R389). -/
def rxAck (s : State) (p : Nat) (f : Flit) : State :=
  withLk s p (fun l =>
    { l with acks := match l.acks.findIdx? (fun a => a.dst = f.src && a.tag = f.arg) with
        | some i => l.acks.eraseIdx i
        | none => l.acks })

/-- NACK: a newer role epoch enters the table, and the step replays (12, R416). -/
def rxNack (s : State) (p k : Nat) (f : Flit) : State :=
  let t := withLk s p (fun l => { l with nackRx := satInc l.nackRx 1 })
  let e := f.arg % 65536
  if (part s p).lk.countEff ≤ f.src || e = routeEpoch s p f.src then t
  else
    let u := hbmStore .quiet t p (protOff ((part s p).lk.baseEff + 16 * f.src + 14)) (leBytes 2 e)
    requestReplay (sendEvent u (srcPort k) p 0x0581 0) p

/-- A rejected request of a cluster: counted, its buffer poisoned (10, R342). -/
def rejectReq (s : State) (p : Nat) (src : Option (Nat × Nat)) : State :=
  match src with
  | some (l, b) => poisonSrc (rejectAt s p l) p l (some b)
  | none => rejectAccess s p

/-- REJECT: the request proceeds as R342 states. -/
def rxReject (s : State) (p : Nat) (f : Flit) : State :=
  let k := (part s p).lk
  let hit (a : AwaitAck) : Bool := a.dst = f.src && decide (a.addr ≤ f.addr) && decide (f.addr < a.addr + max 1 a.len)
  match k.reads.find? (fun r => r.dst = f.src && decide (r.addr ≤ f.addr) && decide (f.addr < r.addr + max 1 r.len)) with
  | some r =>
    let t := withLk s p (fun l => { l with reads := l.reads.erase r })
    (match localOf s p r.lcl with
     | some l => landItem (setFetched (rejectAt t p l) p l r.buf 0 [] true) p l r.buf r.mark
     | none => t)
  | none => match k.acks.find? hit with
    | some a => rejectReq (withLk s p (fun l => { l with acks := l.acks.erase a })) p a.src
    | none => match k.sends.find? hit with
      | some a => rejectReq (withLk s p (fun l => { l with sends := l.sends.erase a })) p a.src
      | none => s

/-- A destination has no usable route: the job ends (12, R411). -/
def routeLost (s : State) (p k : Nat) : State :=
  faultEnd (withLk s p (fun l => { l with pflags := l.pflags ||| 8 })) (srcPort k) p 0x0482 0

/-- ROUTE_FAIL: the alternate route from the next attempt on, or the end of the job (12, R410, R411). -/
def rxRouteFail (s : State) (p k : Nat) (f : Flit) : State :=
  let r := bits f.arg 0 18
  let l := (part s p).lk
  if l.alt.contains r then routeLost s p k
  else if l.altNext.contains r then s
  else requestReplay (withLk s p (fun x => { x with altNext := x.altNext ++ [r], pflags := x.pflags ||| 4 })) p

/-- A flit of an ended step or of another attempt (12, R414). Assumption 38 (DEDUCED). -/
def attemptOld (q : Partition) (f : Flit) : Bool :=
  decide (f.step < q.seq.step) || (f.step = q.seq.step && f.attempt != q.seq.attempt % 256)

/-- Count a flit of an ended step or of another attempt. -/
def dropAttempt (s : State) (p : Nat) : State := withLk s p (fun l => { l with attemptDrop := satInc l.attemptDrop 1 })

/-- BARRIER: 1 ARRIVE, 2 RELEASE, 3 ABORT, 4 CKPT_REQ, 5 CKPT_DONE (13, R444; 15, R496; 16, R537, R541). ABORT, CKPT_REQ and
CKPT_DONE are judged by their own rules; an ARRIVE of the attempt that follows this one is kept.
Assumption 38 (DEDUCED). -/
def rxBarrier (s : State) (p : Nat) (f : Flit) : State :=
  let q := part s p
  let f8 (lo n : Nat) : Nat := leNat ((f.payload.drop lo).take n)
  match bits f.addr 0 8 with
  | 1 =>
    if attemptOld q f && !(f.step = q.seq.step && f.attempt = (q.seq.attempt + 1) % 256) then dropAttempt s p
    else noteArrive s p f.src f.step f.attempt
  | 2 =>
    if f.step != q.seq.step || f.attempt != q.seq.attempt % 256 then dropAttempt s p
    else takeRelease (sendDown s p 2 f.step f.attempt (flitData f)) p (f8 0 8 * 65536 + f8 8 2) (f8 16 8) (f8 24 8)
  | 3 => takeAbort s p f.step f.attempt
  | 4 => if q.job.rank = 0 then withCk s p (fun c => { c with pending := true }) else s
  | 5 => cutResult s p f.src f.step (f.arg % 2 = 1)
  | _ => s

/-- A flit of another job (12, R414). -/
def dropJob (s : State) (p k : Nat) : State :=
  let first := !(part s p).lk.sentJob
  let t := withLk s p (fun l => { l with jobDrop := satInc l.jobDrop 1, pflags := l.pflags ||| 2, sentJob := true })
  if first then sendEvent t (srcPort k) p 0x0582 0 else t

/-- A flit of another role epoch; its message is answered with one NACK (12, R414, R415). -/
def dropEpoch (s : State) (p : Nat) (f : Flit) : State :=
  let t := withLk s p (fun l => { l with stale := satInc l.stale 1, pflags := l.pflags ||| 2 })
  if !flitLast f || f.mtype = 0x10 then t
  else
    let h := flitFrom t p 0x10
    routeAs t p f.src f.srcEpoch { h with addr := f.addr, arg := (part s p).lk.epochEff, mflags := h.mflags + 1 }

/-- A flit at its destination goes to the unit that its type names (12, R405). -/
def deliverFlit (s : State) (p k : Nat) (f : Flit) : State :=
  match f.mtype with
  | 1 => rxSend s p k f
  | 2 => rxWrite s p k f
  | 3 => rxReadReq s p k f
  | 4 => rxReadData s p f
  | 5 => rxAtomic s p k f
  | 6 => rxAtomicNow s p k f
  | 8 => collFlit s p f
  | 9 => collFlit s p f
  | 0x10 => rxNack s p k f
  | 0x11 => rxAck s p f
  | 0x12 => rxReject s p f
  | 0x13 => rxRouteFail s p k f
  | _ => rxBarrier s p f

/-- The checks of a DATA flit at a port of partition p, and its delivery (12, R390, R403, R404, R414). -/
def routeIn (s : State) (p k : Nat) (f : Flit) (fec : Bool) : State :=
  let q := part s p
  if flitMalformed f then withLk s p (fun l => { l with routeRej := satInc l.routeRej 1 })
  else if pathN f < pathHop f then countReject s p k
  else if pathHop f < pathN f then forwardFlit s p k f fec
  else if f.dst != q.job.rank then rejectFlit s p k f
  else if f.job != q.lk.jobEff then dropJob s p k
  else if f.epoch != q.lk.epochEff then dropEpoch s p f
  else if f.mtype != 0x18 && attemptOld q f then dropAttempt s p
  else deliverFlit s p k { f with mflags := if fec then f.mflags ||| 8 else f.mflags }

/-- Signed bits of a 16-bit register in units of 2^-4 ns, as 2^-16 ns. -/
def asymFine (w : Word32) : Int := signExt 16 w.toNat * 4096

/-- Bytes of a TIME flit: a time in ns and its fraction (the model's layout, log entry 34).
Assumption 34 (DESIGN CHOICE). -/
def timeBytes (t : Nat) : List Byte := leBytes 8 (t / 65536) ++ leBytes 2 (t % 65536)

/-- Send a TIME flit on a link: kind 1 REQ, 2 RESP. Assumption 34 (DESIGN CHOICE). -/
def sendTime (s : State) (k : Nat) (half : Bool) (kind : Nat) (d : List Byte) : State :=
  queueFlit s k half { flitNone with mtype := 0x19, mflags := 0x31, addr := kind, plen := d.length, payload := d }

/-- Role of Quartz: 3 is taken as 0 (13, QZ_CTRL). -/
def qzRole (z : Quartz) : Nat := let r := bits z.ctrl.toNat 8 2; if r = 3 then 0 else r

/-- Quartz follows a valid exchange: offset and delay in 2^-16 ns, the parent's depth (13, R441 to R443).
Assumption 39 (DEDUCED). -/
def qzFollow (s : State) (offset delay : Int) (depth : Nat) : State :=
  let z := s.quartz
  let now : Int := qzFine s
  let stepIt := decide (65536000 < offset.natAbs) && !anyJob s
  let t : Nat := if stepIt then (now - offset).toNat else now.toNat
  let rate : Int := if stepIt then 0 else clampInt (-offset * 1000000000 / (2 ^ 36 : Nat)) (-200000) 200000
  let near := decide (offset.natAbs ≤ 4096)
  let back := near && z.lost
  let u : State :=
    { s with
      quartz := { z with
                  ns := t / 65536, frac := t % 65536, rate := rate, offset := BitVec.ofInt 32 (offset / 4096),
                  delay := BitVec.ofInt 32 (delay / 4096), depth := min 15 (depth + 1), st := if near then 3 else 2,
                  lost := z.lost && !near, sent := none, missed := 0 } }
  if back then sendEvent u srcQuartz 15 0x0294 0 else u

/-- TIME flits: a request is answered with receive time, send time and depth; a response from the parent closes an exchange
(13, R441). Assumption 34 (DESIGN CHOICE); 39 (DEDUCED). -/
def rxTime (s : State) (k : Nat) (half : Bool) (f : Flit) : State :=
  let z := s.quartz
  let now := qzFine s
  let f8 (lo n : Nat) : Nat := leNat ((f.payload.drop lo).take n)
  let parent := bits z.ctrl.toNat 0 6
  match f.addr with
  | 1 => sendTime s k half 2 (timeBytes now ++ timeBytes now ++ leBytes 1 z.depth)
  | 2 =>
    match z.sent with
    | none => s
    | some t1 =>
      if qzRole z != 2 || parent != k + (if half then 32 else 0) then s
      else
        let t2 : Int := (f8 0 8 * 65536 + f8 8 2 : Nat)
        let t3 : Int := (f8 10 8 * 65536 + f8 18 2 : Nat)
        let up : Int := t2 - (t1 : Int)
        let down : Int := (now : Int) - t3
        qzFollow s ((up - down) / 2 - asymFine z.asym) ((up + down) / 2) (f8 20 1)
  | _ => s

/-- A DATA flit in order is accepted: its credit is freed, and it goes its way (12, R393, R399).
Assumption 38 (DEDUCED). -/
def acceptFlit (s : State) (k : Nat) (half : Bool) (f : Flit) (fec : Bool) : State :=
  let c := flitVc f
  let t := withPort (withLink s k half (fun l =>
    { l with rxSeq := (l.rxSeq + 1) % 65536, nakSent := false, freed := l.freed.set c ((nth l.freed c + 1) % 256) }))
    k (fun x => { x with rx := satInc x.rx 1 })
  let u := if f.mtype = 0x19 && !flitMalformed f then rxTime t k half f
    else match partOfPort t k with
      | some p => routeIn t p k f fec
      | none => t
  controlFlit u k half 0 []

/-- Does a port take DATA flits: those of a running job, and TIME flits (12, R399). Assumption 38 (DEDUCED). -/
def portTakes (s : State) (k : Nat) (f : Flit) : Bool :=
  f.mtype = 0x19 || (match partOfPort s k with | some p => jobActive (part s p) | none => false)

/-- The TRAIN payload of this module (12, PARAM; the model's layout, log entry 34). Assumption 34 (DESIGN CHOICE). -/
def trainBytes (s : State) (k : Nat) (half : Bool) : List Byte :=
  let w := (linkAt s k half).width
  leBytes 8 (memLe s.boot.copy 0 8) ++ leBytes 1 (k + (if half then 32 else 0)) ++ leBytes 1 w ++
    (advertised w).flatMap (leBytes 2) ++ leBytes 4 s.boot.fw.toNat

/-- TRAIN in PARAM: the peer's identity is compared, its credits are taken, and the link is ACTIVE (12, R392, R398, R412).
Assumption 34 (DESIGN CHOICE). -/
def rxTrain (s : State) (k : Nat) (half : Bool) (f : Flit) : State :=
  let x := portAt s k
  let f8 (lo n : Nat) : Nat := leNat ((f.payload.drop lo).take n)
  let wrong := (x.expectId != 0 && x.expectId.toNat != f8 0 8) ||
    (x.expectPort.getLsbD 8 && bits x.expectPort.toNat 0 6 != bits (f8 8 1) 0 6)
  let named := withLink s k half (fun l => { l with peerId := BitVec.ofNat 64 (f8 0 8), peerPort := bits (f8 8 1) 0 6 })
  if wrong then
    sendEvent (withLink named k half (fun l => { l with st := .miswired })) (srcPort k) ((partOfPort s k).getD 15) 0x0282 0
  else
    let offered := (List.range 4).map (fun c => f8 (10 + 2 * c) 2)
    let t := withLink named k half (fun l =>
      let l1 := if l.kept then takeAck l f.ack else l
      { l1 with
        st := .active, kept := false,
        credits := if l.kept then (l1.credits.zip offered).map (fun e => min e.1 e.2) else offered })
    pumpLink (if (linkAt s k half).kept then retransmit t k half else t) k half

/-- What decoding a flit reports: uncorrectable codewords, corrected symbols and codewords (12, R387; 15, R502).
Assumption 38 (DEDUCED). -/
def countCodewords (s : State) (a : FlitArgs) : State :=
  let fixed := (a.sym.filter (fun x => x != 0)).length
  portHealth (withPort s a.port (fun x =>
    { x with
      fecUncorr := satInc x.fecUncorr a.unc.toNat, fecCorr := satInc x.fecCorr fixed,
      laneSym := x.laneSym.mapIdx (fun i w => satInc w (a.sym.getD i 0).toNat) })) a.port a.unc.toNat

/-- A flit reaches a port (12, R387 to R396). -/
def rxFlit (s : State) (a : FlitArgs) : State :=
  let k := a.port
  let b := wordBytes a.word
  let f := flitOf b
  let t := countCodewords (advance s a.dt) a
  let l := linkAt t k a.half
  let good := !a.bad && flitCrcOk b
  if !hasHalf t k a.half then s
  else if l.st = .param then (if good && f.ltype = 3 then rxTrain t k a.half f else t)
  else if l.st != .active then t
  else if f.ltype = 1 then
    if !good then nakFlit (withPort t k (fun x => { x with crcErr := satInc x.crcErr 1 })) k a.half
    else if !portTakes t k f then t
    else
      let u := takeHeader t k a.half f
      if f.seq != l.rxSeq then nakFlit u k a.half else acceptFlit u k a.half f a.fec
  else if !good then withPort t k (fun x => { x with crcErr := satInc x.crcErr 1 })
  else
    let u := takeHeader t k a.half f
    if f.ltype = 2 then retransmit u k a.half else u

/-- A row that brings a flit to a port: the word is one of that row. Assumption 17 (DEDUCED). -/
def flitRow (a : FlitArgs) (is : Flit → Bool) (s : State) : Out :=
  if 24 ≤ a.port then .fault .noSuchUnit
  else if !is (flitOf (wordBytes a.word)) then .fault .wrongFlit
  else .next (rxFlit s a)

/-- Is the flit DATA of a message type. Assumption 17 (DEDUCED). -/
def isData (t : Nat) (f : Flit) : Bool := f.ltype = 1 && f.mtype = t

/-- Is the flit a BARRIER flit of a kind. Assumption 17 (DEDUCED). -/
def isBarrierFlit (kind : Nat) (f : Flit) : Bool := isData 0x18 f && bits f.addr 0 8 = kind

/-- LINK_IDLE. -/
def execLinkIdle (a : FlitArgs) (s : State) : Out := flitRow a (fun f => f.ltype = 0) s
/-- LINK_NAK. -/
def execLinkNak (a : FlitArgs) (s : State) : Out := flitRow a (fun f => f.ltype = 2) s
/-- LINK_TRAIN. -/
def execLinkTrain (a : FlitArgs) (s : State) : Out := flitRow a (fun f => f.ltype = 3) s
/-- FLIT_FORWARD: a DATA flit that is not at its destination, or that no destination can take (12, R390, R403). -/
def execFlitForward (a : FlitArgs) (s : State) : Out :=
  flitRow a (fun f => f.ltype = 1 && (decide (pathHop f != pathN f) || (vcOf f.mtype).isNone)) s
/-- SEND_FLIT. -/
def execSendFlit (a : FlitArgs) (s : State) : Out := flitRow a (isData 1) s
/-- RWRITE. Assumption 3 (DESIGN CHOICE). -/
def execRwrite (a : FlitArgs) (s : State) : Out := flitRow a (isData 2) s
/-- RREAD_REQ. -/
def execRreadReq (a : FlitArgs) (s : State) : Out := flitRow a (isData 3) s
/-- RREAD_DATA. -/
def execRreadData (a : FlitArgs) (s : State) : Out := flitRow a (isData 4) s
/-- RATOMIC. -/
def execRatomic (a : FlitArgs) (s : State) : Out := flitRow a (isData 5) s
/-- RATOMIC_RELAXED. -/
def execRatomicRelaxed (a : FlitArgs) (s : State) : Out := flitRow a (isData 6) s
/-- COLL_FLIT. -/
def execCollFlit (a : FlitArgs) (s : State) : Out := flitRow a (isData 8) s
/-- A2A_FLIT. -/
def execA2aFlit (a : FlitArgs) (s : State) : Out := flitRow a (isData 9) s
/-- ACK. -/
def execAck (a : FlitArgs) (s : State) : Out := flitRow a (isData 0x11) s
/-- NACK. -/
def execNack (a : FlitArgs) (s : State) : Out := flitRow a (isData 0x10) s
/-- REJECT. -/
def execReject (a : FlitArgs) (s : State) : Out := flitRow a (isData 0x12) s
/-- ROUTE_FAIL. -/
def execRouteFail (a : FlitArgs) (s : State) : Out := flitRow a (isData 0x13) s
/-- ARRIVE. -/
def execArrive (a : FlitArgs) (s : State) : Out := flitRow a (isBarrierFlit 1) s
/-- RELEASE. -/
def execRelease (a : FlitArgs) (s : State) : Out := flitRow a (isBarrierFlit 2) s
/-- ABORT. -/
def execAbort (a : FlitArgs) (s : State) : Out := flitRow a (isBarrierFlit 3) s
/-- CKPT_REQ. -/
def execCkptReq (a : FlitArgs) (s : State) : Out := flitRow a (isBarrierFlit 4) s
/-- CKPT_DONE. -/
def execCkptDone (a : FlitArgs) (s : State) : Out := flitRow a (isBarrierFlit 5) s
/-- TIME. -/
def execTime (a : FlitArgs) (s : State) : Out := flitRow a (isData 0x19) s

/-- REPLAY_TIMEOUT: `ack` has not advanced for 4 µs (12, R396). -/
def execReplayTimeout (port : Nat) (half : Bool) (s : State) : Out :=
  onUnit (decide (port < 24))
    (if hasHalf s port half && !(linkAt s port half).replay.isEmpty then retransmit s port half else s)

/-- The link of a hop entry is FAILED. -/
def hopFailed (s : State) (e : Nat) : Bool := (linkAt s (e % 32) (e.testBit 5)).st = .failed

/-- A link becomes FAILED: alternate routes and a replay, or the end of the job (12, R409, R411). -/
def linkFails (s : State) (k : Nat) (half : Bool) : State :=
  let p := (partOfPort s k).getD 15
  let t := sendEvent (withLink s k half (fun l => { l with st := .failed, width := 0, replay := [], txq := [], locked := 0 }))
    (srcPort k) p 0x0481 0
  let q := part s p
  if !jobActive q then t
  else
    let e := k + (if half then 32 else 0)
    let ranks := (List.range q.lk.countEff).filter (fun r => r != q.job.rank)
    let mine := ranks.filter (fun r => pathEntry (routePath t p r false) 0 = e)
    let dead := ranks.any (fun r =>
      hopFailed t (pathEntry (routePath t p r false) 0) && hopFailed t (pathEntry (routePath t p r true) 0))
    if dead then routeLost t p k
    else
      let add := mine.filter (fun r => !q.lk.alt.contains r && !q.lk.altNext.contains r)
      requestReplay (withLk t p (fun l =>
        { l with altNext := l.altNext ++ add, pflags := if add.isEmpty then l.pflags else l.pflags ||| 4 })) p

/-- LINK_FAIL: the link fails to retrain in 3 attempts, or keeps no width (12, R409). -/
def execLinkFail (port : Nat) (half : Bool) (s : State) : Out :=
  onUnit (decide (port < 24))
    (if hasHalf s port half && (linkAt s port half).st != .failed && (linkAt s port half).st != .down then linkFails s port half
     else s)

/-- Is a link in training or in service. -/
def linkUp (l : Link) : Bool := l.st != .down && l.st != .failed && l.st != .miswired

/-- A link whose lanes have changed retrains at the width that is left, or fails (12, R408, R409).
Assumption 38 (DEDUCED). -/
def narrowLink (old : List Nat) (s : State) (k : Nat) (half : Bool) : State :=
  let new := linkLanes s k half
  let w := widthCode new.length
  if !hasHalf s k half || !linkUp (linkAt s k half) || new = old then s
  else if new.isEmpty then linkFails s k half
  else
    let t := sendEvent (withLink s k half (fun l => { l with width := w })) (srcPort k) ((partOfPort s k).getD 15) 0x0480
      (k + b2n half * 256 + w * 65536)
    let u := if new.length < old.length then portHealth t k 512 else t
    if (linkAt s k half).st = .pmdTrain then u else retrainLink u k half

/-- LANE_FAIL of a port's local lane (12, R407, R408). -/
def execLaneFail (port : Nat) (lane : BitVec 3) (s : State) : Out :=
  let a := linkLanes s port false
  let b := linkLanes s port true
  let t := withPort s port (fun x =>
    { x with
      laneFailed := x.laneFailed ||| BitVec.ofNat 8 (2 ^ lane.toNat),
      a := { x.a with locked := x.a.locked &&& ~~~(BitVec.ofNat 8 (2 ^ lane.toNat)) },
      b := { x.b with locked := x.b.locked &&& ~~~(BitVec.ofNat 8 (2 ^ lane.toNat)) } })
  onUnit (decide (port < 24)) (narrowLink b (narrowLink a t port false) port true)

/-- A link starts from PMD_TRAIN. -/
def startLink (_ : Link) : Link := { linkDown with st := .pmdTrain }

/-- A host retrain request: MISWIRED and FAILED links start again (12, R412). The lanes of a FAILED link are tried again. -/
def retrainPort (s : State) (k : Nat) : State :=
  let again (l : Link) : Bool := l.st = .miswired || l.st = .failed
  withPort s k (fun x =>
    { x with
      laneFailed := if x.a.st = .failed || x.b.st = .failed then 0 else x.laneFailed,
      a := if again x.a then startLink x.a else x.a, b := if again x.b then startLink x.b else x.b })

/-- LINK_RETRAIN_REQUEST. -/
def execLinkRetrainRequest (port : Nat) (s : State) : Out := onUnit (decide (port < 24)) (retrainPort s port)

/-- LINK_TRAINING_COMPLETE: PMD training is done, and codeword lock begins (12, link states). -/
def execLinkTrainingComplete (port : Nat) (half : Bool) (s : State) : Out :=
  let l := linkAt s port half
  onUnit (decide (port < 24))
    (if hasHalf s port half && (l.st = .pmdTrain || l.st = .retrain) then
       withLink s port half (fun x => { x with st := .lock, width := widthCode (linkLanes s port half).length, locked := 0 })
     else s)

/-- CODEWORD_LOCK of lanes: a link whose active lanes are all in lock exchanges parameters (12, R386). -/
def execCodewordLock (port : Nat) (half : Bool) (lanes : BitVec 8) (s : State) : Out :=
  let l := linkAt s port half
  let t := withLink s port half (fun x => { x with locked := x.locked ||| lanes })
  let all := (linkLanes s port half).all (fun i => (l.locked ||| lanes).getLsbD i)
  onUnit (decide (port < 24))
    (if !hasHalf s port half then s
     else if l.st = .lock && all then
       controlFlit (withLink t port half (fun x => { x with st := .param })) port half 3 (trainBytes s port half)
     else if linkUp l then t else s)

/-- CODEWORD_LOCK_LOSS of a lane after 4 uncorrectable codewords (12, R386). -/
def execCodewordLockLoss (port : Nat) (lane : BitVec 3) (s : State) : Out :=
  let m : BitVec 8 := ~~~(BitVec.ofNat 8 (2 ^ lane.toNat))
  onUnit (decide (port < 24)) (withPort s port (fun x =>
    { x with a := { x.a with locked := x.a.locked &&& m }, b := { x.b with locked := x.b.locked &&& m } }))

/-- TIME_EXCHANGE: a FOLLOW module sends a TIME request to its parent (13, R441). -/
def execTimeExchange (dt : Word64) (s : State) : Out :=
  let t := advance s dt
  let z := t.quartz
  let e := bits z.ctrl.toNat 0 6
  .next (if qzRole z != 2 then t
    else
      sendTime { t with quartz := { z with sent := some (qzFine t), missed := z.missed + 1 } } (e % 32) (e.testBit 5) 1
        (timeBytes (qzFine t)))

/-- QUARTZ_HOLDOVER: 16 periods without a valid exchange (13, R443). Assumption 39 (DEDUCED). -/
def execQuartzHoldover (dt : Word64) (s : State) : Out :=
  let t := advance s dt
  let z := t.quartz
  .next (if qzRole z != 2 || z.missed < 16 || z.st = 4 then t
    else sendEvent { t with quartz := { z with st := 4, holdSeen := true, lost := true, sent := none } } srcQuartz 15 0x0293 0)

/-- QZ_LOAD by a function: it takes effect in role MASTER (13, R440). -/
def execQzLoad (fn : Nat) (v : Word64) (s : State) : Out :=
  onUnit (decide (fn < 13))
    (if fn = 0 && barFull s && qzRole s.quartz = 1 then { s with quartz := { s.quartz with ns := v.toNat, frac := 0 } } else s)

end Sys2Proof.Machine
end

