-- ==== Sys2Proof/Machine/CutOps.lean ====
section
/-! DEFINITION. The commands of Agate: a cut's request, commit and timeout, and drains (16, R537 to R544). -/

namespace Sys2Proof.Machine

/-- IMAGE_COMMIT: every image byte was acknowledged (16, R540, R541); the rank then reports its result. -/
def execImageCommit (p : Nat) (s : State) : Out :=
  onUnit (decide (p < 12)) (match (part s p).ck.stream with
    | none => s
    | some c =>
      let r := commitImage s p c
      cutResult r.1 p (part s p).job.rank c.cut r.2)

/-- CUT_TIMEOUT: CK_TIMEOUT passes without a commit; at rank 0 it also closes the cut (16, R537, R542 reason 4). -/
def execCutTimeout (p : Nat) (s : State) : Out :=
  let t := match (part s p).ck.stream with
    | none => s
    | some c => cutResult (cutFails s p 4) p (part s p).job.rank c.cut false
  onUnit (decide (p < 12))
    (if (part s p).job.rank = 0 && (part s p).ck.openAt0 then withCk t p (fun c => { c with openAt0 := false, results := [] }) else t)

/-- CUT_REQUEST: a write of `take` to CK_CTRL (16, R537). -/
def execCutRequest (p : Nat) (s : State) : Out := onUnit (decide (p < 12)) (requestCut s p)

/-- CK_DRAIN: a write of `go` to CK_DRAIN_CTRL (16, R544). -/
def execCkDrain (p : Nat) (s : State) : Out := onUnit (decide (p < 12)) (drainStart s p)

/-- CK_DRAIN_COMPLETE (16, R544). -/
def execCkDrainComplete (p : Nat) (s : State) : Out :=
  onUnit (decide (p < 12)) (if (part s p).ck.draining then drainEnd s p else s)

end Sys2Proof.Machine
end

