-- ==== Sys2Proof/Machine/JobStart.lean ====
section
/-! DEFINITION. Job start: the job-start block, image headers, map adoption, the replay key, fixed areas, the route table, restore
sources, and what a start sets (01, R23 to R25; 02, R49 to R64, R86 to R90; 08, R262 to R264; 10, R313 to R320, R338; 12, R401;
16, R545 to R550; 17, R567 to R570). -/

namespace Sys2Proof.Machine

/-- The field of n bytes at an offset. -/
def fieldAt (b : List Byte) (lo n : Nat) : Nat := leNat ((b.drop lo).take n)

/-- A region size of the job that would start: U, P, V (10, R316). -/
def sizesOf (s : State) (p : Nat) : Nat × Nat × Nat :=
  let w := (part s p).mem.cfg.toNat
  let n := unitsS s
  let pp := if w.testBit 16 then bits w 0 8 else n / 2
  let v := if w.testBit 16 then bits w 8 8 else ceilDiv (n / 2) 6
  (n - pp - v, pp, v)

/-- P + V exceeds S (10, R316). -/
def sizesBad (s : State) (p : Nat) : Bool := let z := sizesOf s p; decide (unitsS s < z.2.1 + z.2.2)

/-- Stacks in service (10, R318). -/
def stacksUp (s : State) : List Nat := (List.range 8).filter (stackUp s)

/-- The layout of a protected region whose lines are all zero, by the number of failed stacks (10, R338, R339). -/
def freshLayout (s : State) (m : MemRegs) : MemRegs :=
  let bad := failedIn s (List.range 8)
  let all8 := List.range 8
  let base := { m with prot := all8, survivors := [], ptr := 0, stopped := false }
  match bad.length with
  | 0 => { base with state := if s.tiers.hbmStacks.any (fun x => x = 2) then .withdrawn else .normal }
  | 1 => if reserveOk m then { base with state := .rebuilt, survivors := stacksUp s } else { base with state := .degraded }
  | 2 =>
    if reserveOk m then
      { base with state := .rebuiltDegraded, survivors := all8.filter (fun k => k != bad.getD 1 0) }
    else { base with state := .lost }
  | _ => { base with state := .lost }

/-- The partition with the region sizes of the job that would start. -/
def sized (s : State) (p : Nat) : Partition :=
  let q := part s p
  let z := sizesOf s p
  { q with mem := { q.mem with u := z.1, p := z.2.1, v := z.2.2, live := stacksUp s } }

/-- The 1,024 bytes of the disabled-unit map in force (01). -/
def mapBytes (g : Grid) : List Byte := leBytes 64 g.disabled.toNat ++ g.table.flatMap (leBytes 2)

/-- Unfilled places of a table take the spares that are left, lowest first. -/
def fillTable : List (Option Nat) → List Nat → Option (List Nat)
  | [], _ => some []
  | some k :: t, r => (fillTable t r).map (k :: ·)
  | none :: _, [] => none
  | none :: t, x :: r => (fillTable t r).map (x :: ·)

/-- `assign_logical` of R23. -/
def assignLogical (dis : BitVec 512) : Option (List Nat) :=
  let ok (k : Nat) : Bool := !dis.getLsbD k
  let own (d : Nat) : List Nat := (((List.range 32).map (fun i => 32 * d + i)).filter ok).take 30
  let first := (List.range 16).flatMap (fun d => (own d).map some ++ List.replicate (30 - (own d).length) none)
  let used := first.filterMap id
  fillTable first ((List.range 512).filter (fun k => ok k && !used.contains k))

/-- Adopt a recorded map; none where a cluster of the module's own disabled set is not in it (01, R25). -/
def adoptMap (g : Grid) (b : List Byte) : Option Grid :=
  let set : BitVec 512 := BitVec.ofNat 512 (leNat (b.take 64))
  if g.disabled &&& ~~~set != 0 then none
  else some { g with disabled := set, table := (chunksOf 2 480 (b.drop 64)).map leNat }

/-- The job-start block (17). -/
structure JobBlock where
  /-- `class`. -/
  cls : Nat
  /-- Debug mode. -/
  debug : Bool
  /-- Adopt a map. -/
  adopt : Bool
  /-- `restore`. -/
  restore : Nat
  /-- `rank`. -/
  rank : Nat
  /-- `upd_dir`, if there is one. -/
  updDir : Option Nat
  /-- `cut`. -/
  cut : Nat
  /-- `src_rank`. -/
  srcRank : Nat
  /-- `src_off`. -/
  srcOff : Nat
  /-- `map_addr`. -/
  mapAddr : Nat
  /-- DATA_DIGEST. -/
  dataDigest : List Byte
  /-- SEED bytes. -/
  seed : List Byte
  /-- Expected key digest. -/
  expect : List Byte
  /-- Images: host address and length. -/
  images : List (Nat × Nat)
  /-- `img_area`. -/
  imgArea : Nat
  /-- Check 1 of R567 passes. -/
  ok : Bool
deriving DecidableEq, Repr

/-- The fields of the 256 bytes of a job-start block (17). -/
def jobBlock (b : List Byte) : JobBlock :=
  let n := fieldAt b 3 1
  let tab := (List.range 4).map (fun i => (fieldAt b (128 + 16 * i) 8, fieldAt b (136 + 16 * i) 4, fieldAt b (140 + 16 * i) 4))
  { cls := fieldAt b 0 1, debug := (fieldAt b 1 1).testBit 0, adopt := (fieldAt b 1 1).testBit 1, restore := fieldAt b 2 1,
    rank := bits (fieldAt b 4 4) 0 18, updDir := if fieldAt b 8 8 = 2 ^ 64 - 1 then none else some (fieldAt b 8 8),
    cut := fieldAt b 16 8, srcRank := fieldAt b 24 4, srcOff := fieldAt b 32 8, mapAddr := fieldAt b 40 8,
    dataDigest := (b.drop 48).take 32, seed := (b.drop 80).take 16, expect := (b.drop 96).take 32,
    images := (tab.take n).map (fun e => (e.1, e.2.1)), imgArea := fieldAt b 192 8,
    ok := decide (fieldAt b 1 1 < 4) && decide (fieldAt b 2 1 ≤ 4) && decide (1 ≤ n) && decide (n ≤ 4) &&
      decide (fieldAt b 4 4 < 2 ^ 18) && fieldAt b 28 4 = 0 && tab.all (fun e => e.2.2 = 0) && fieldAt b 200 56 = 0 }

/-- The segments of an image: HBM-space offset, length, image offset (08, R262). -/
def imageSegs (b : List Byte) : List (Nat × Nat × Nat) :=
  let base := 256 + 64 * fieldAt b 16 4
  (List.range (fieldAt b 24 4)).map (fun i =>
    (fieldAt b (base + 16 * i) 8, fieldAt b (base + 16 * i + 8) 4, fieldAt b (base + 16 * i + 12) 4))

/-- Check 2 of R263; q has the job's region sizes. -/
def imageFieldsOk (q : Partition) (b : List Byte) : Bool :=
  let n := fieldAt b 16 4
  let k := fieldAt b 24 4
  let mode := fieldAt b 7 1
  decide (1 ≤ n) && decide (n ≤ 8192) && decide (k ≤ 64) && decide (fieldAt b 10 1 < 16) && fieldAt b 11 1 = 0 &&
    fieldAt b 28 4 = 0 && fieldAt b 64 192 = 0 && decide (mode ≤ 1) &&
    (if mode = 0 then fieldAt b 9 1 = 0xFF && fieldAt b 32 32 = 0 else decide (fieldAt b 9 1 ≤ 11)) &&
    decide (256 + 64 * n + 16 * k ≤ b.length) &&
    (imageSegs b).all (fun e => e.2.1 != 0 && e.1 % 64 = 0 && decide (e.1 < 2 ^ 48) && decide (e.2.2 + e.2.1 ≤ b.length) &&
      inSlice q e.1 e.2.1)

/-- The first failing check of R263 on an image, 0 where none fails. Assumption 55 (DEDUCED). -/
def imageStatus (s : State) (q : Partition) (cls : Nat) (b : List Byte) : Nat :=
  let fw := s.boot.fw.toNat
  if fieldAt b 0 4 != 0x4D495141 || fieldAt b 4 2 != 1 then 0x0130
  else if !imageFieldsOk q b then 0x0131
  else if fieldAt b 6 1 != 0x42 then 0x0230
  else if fieldAt b 12 4 / 65536 != fw / 65536 then 0x0231
  else if fieldAt b 8 1 != s.boot.plan then 0x0232
  else if !s.boot.models.contains (fieldAt b 20 4) then 0x0233
  else if cls = 0 && fieldAt b 10 1 != 0 then 0x0905 else 0

/-- The first status of a list that is not 0. Assumption 55 (DEDUCED). -/
def firstBad (l : List Nat) : Nat := (l.find? (fun x => x != 0)).getD 0

/-- IMAGE_DIGEST (02, R49; 17, R569). -/
def imagesDigest (imgs : List (List Byte)) : List Byte :=
  match imgs with
  | [b] => sha256 b
  | _ => sha256 (imgs.flatMap sha256)

/-- The 88 bytes of the key record (02, R49). -/
def startKey (s : State) (k : JobBlock) (imgs : List (List Byte)) : List Byte :=
  imagesDigest imgs ++ k.dataDigest ++ k.seed ++ leBytes 4 s.boot.fw.toNat ++ leBytes 1 k.cls ++ [0, 0, 0]

/-- Does an area lie inside the protected region. -/
def areaIn (q : Partition) (o n : Nat) : Bool := decide (o + n ≤ protBytes q)

/-- The fixed areas of a job that has them: offset in the protected region and bytes (17, R568). -/
def fixedAreas (q : Partition) (k : JobBlock) : List (Nat × Nat) :=
  let area (on : Bool) (o n : Nat) : List (Nat × Nat) := if on then [(o, n)] else []
  area (decide (2 ≤ q.rep.logSize.toNat)) (offO q.rep.logBase.toNat) (128 * q.rep.logSize.toNat) ++
    area (q.se.hjBytes != 0) q.se.hjOff.toNat q.se.hjBytes.toNat ++
    area (q.se.replOff != 0) q.se.replOff.toNat (64 + 4 * q.lk.count.toNat) ++
    area (q.ck.areaOff != 0) q.ck.areaOff.toNat (4096 + 2 * q.ck.slotBytes.toNat) ++
    area (q.ck.slotBytes != 0) q.ck.stageOff.toNat q.ck.slotBytes.toNat ++
    area (decide (1 < k.images.length)) k.imgArea (524288 * k.images.length) ++
    (match k.updDir with | some o => [(o, 8192)] | none => [])

/-- Do two areas overlap. -/
def areasMeet (a b : Nat × Nat) : Bool := decide (a.1 < b.1 + b.2) && decide (b.1 < a.1 + a.2)

/-- Do any two areas of a list overlap. -/
def anyMeet : List (Nat × Nat) → Bool
  | [] => false
  | a :: t => t.any (areasMeet a) || anyMeet t

/-- The first failing check of R568, 0 where none fails; q has the job's region sizes. Assumption 55 (DEDUCED). -/
def areasStatus (q : Partition) (k : JobBlock) (imgs : List (List Byte)) : Nat :=
  let lb := q.rep.logBase.toNat
  let n := q.rep.logSize.toNat
  let hb := q.se.hjBytes.toNat
  let ho := q.se.hjOff.toNat
  let ro := q.se.replOff.toNat
  let co := q.ck.areaOff.toNat
  let cb := q.ck.slotBytes.toNat
  let so := q.ck.stageOff.toNat
  let img := 524288 * k.images.length
  if decide (2 ≤ n) && (lb % 128 != 0 || lb / 2 ^ 42 != 32 || !areaIn q (offO lb) (128 * n)) then 0x0112
  else if (hb != 0 && (ho % 128 != 0 || hb % 128 != 0 || !areaIn q ho hb)) ||
    (ro != 0 && (ro % 64 != 0 || !areaIn q ro (64 + 4 * q.lk.count.toNat))) then 0x01B2
  else if q.ck.mapOff.toNat % 64 != 0 || cb % 4096 != 0 || (co != 0 && (co % 4096 != 0 || !areaIn q co (4096 + 2 * cb))) ||
    (cb != 0 && (so % 64 != 0 || !areaIn q so cb)) then 0x01C1
  else if decide (1 < k.images.length) && (k.imgArea % 64 != 0 || !areaIn q k.imgArea img ||
    imgs.any (fun b => (imageSegs b).any (fun e => areasMeet (e.1, e.2.1) (protOff k.imgArea, img)))) then 0x0106
  else if anyMeet (fixedAreas q k) then 0x0107 else 0

/-- The route table of a job: its entries of 16 bytes, as numbers (12, R400). -/
def routeTable (s : State) (p : Nat) : List Nat :=
  let l := (part s p).lk
  (chunksOf 16 l.count.toNat (hbmBytes s p (protOff l.base.toNat) (16 * l.count.toNat))).map leNat

/-- The first failing check of R401 on the route table, 0 where none fails; a count of 0 gives no table.
Assumption 26 (DESIGN CHOICE); 55 (DEDUCED). -/
def routesStatus (s : State) (p rank : Nat) : Nat :=
  let l := (part s p).lk
  let n := l.count.toNat
  let t := routeTable s p
  let entryOk (r e : Nat) : Bool :=
    let a := bits e 48 4
    let b := bits e 52 4
    bits e 56 8 = 0 &&
      (if r = rank then a = 0 && b = 0
       else decide (1 ≤ a) && decide (a ≤ 8) && decide (1 ≤ b) && decide (b ≤ 8) && hopOwned s p (bits e 0 6) &&
         hopOwned s p (bits e 64 6))
  if n = 0 then 0
  else if 262144 < n || n ≤ rank || l.base.toNat % 64 != 0 || !areaIn (part s p) l.base.toNat (16 * n) ||
    !(t.mapIdx entryOk).all id || (decide (1 < n) && !Config.routesAcyclic t) then 0x0180
  else if (t.mapIdx (fun r e => r != rank && bits e 0 6 = bits e 64 6)).any id then 0x0181 else 0

/-- A source of a restore that passed its checks: the cut, the sections with their content, the count of REP_TD_COUNT. -/
structure Restore where
  /-- Cut. -/
  cut : Nat
  /-- Sections and content. -/
  parts : List (CkSection × List Byte)
  /-- `td_count`, if an image gives it. -/
  td : Option Nat
deriving DecidableEq, Repr

/-- The sections of an image with their content. -/
def imageParts (img : List Byte) : List (CkSection × List Byte) :=
  (imageSections img).map (fun x => (x, (img.drop x.img).take x.len))

/-- What a selection of an image ends in (16, R545). -/
structure Picked where
  /-- Status, 0 where an image was selected. -/
  status : Nat
  /-- The image. -/
  img : List Byte
  /-- Slots that were torn. -/
  torn : Nat

/-- Is an image what its commit record says (16, R535, R545). -/
def imageWhole (e : CkRec × List Byte) : Bool := laneDigest e.2 = e.1.digest

/-- Select an image among commit records with their images (16, R545). -/
def pickImage (rank cut : Nat) (l : List (CkRec × List Byte)) : Picked :=
  let good := l.filter (fun e => ckValid rank e.1 && ckCommitted e.1 && (cut = 0 || e.1.cut = cut))
  let order := match good with
    | [a, b] => if a.1.seq < b.1.seq then [b, a] else [a, b]
    | _ => good
  match order with
  | [] => { status := 0x02C5, img := [], torn := 0 }
  | e :: t =>
    if imageWhole e then { status := 0, img := e.2, torn := 0 }
    else if cut != 0 then { status := 0x05C0, img := [], torn := 1 }
    else match t.find? imageWhole with
      | some x => { status := 0, img := x.2, torn := 1 }
      | none => { status := 0x02C5, img := [], torn := 1 + t.length }

/-- The image of a slot of this rank's own buddy area, as long as its header says. -/
def slotImage (s : State) (p : Nat) (b : Bool) : List Byte :=
  let len := min (hbmLe s p (slotOff s p b + 24) 8) (part s p).ck.slotBytesEff.toNat
  hbmBytes s p (slotOff s p b) len

/-- The records and images that a BUDDY or HOST restore looks at (16, R545). Assumption 55 (DEDUCED). -/
def restoreFrom (s : State) (p : Nat) (k : JobBlock) (far : Far) : List (CkRec × List Byte) :=
  if k.restore = 1 then
    if k.srcRank = k.rank then [(slotRec s p false, slotImage s p false), (slotRec s p true, slotImage s p true)]
    else [(ckRecOf (leBytes 64 far.recA.toNat), far.imgA), (ckRecOf (leBytes 64 far.recB.toNat), far.imgB)]
  else
    let len := min (hbmLe s p (k.srcOff + 88) 8) (regionBytes (part s p) k.srcOff)
    [(ckRecOf (hbmBytes s p k.srcOff 64), hbmBytes s p (k.srcOff + 64) len)]

/-- The capture that SELF and REPLICA restore from: the one an ended job left, else one whose sections follow the map as it
stands (16, R550). -/
def stagedCut (s : State) (p : Nat) (k : JobBlock) : Option CutStream :=
  match (part s p).ck.staged with
  | some c => some c
  | none => (ckMap s p).map (fun m => { cut := k.cut, head := [], sections := ckSections s p m, kept := [] })

/-- The sections of a SELF or REPLICA restore (16, R550). -/
def stagedParts (s : State) (p : Nat) (k : JobBlock) (far : Far) (c : CutStream) : List (CkSection × List Byte) :=
  c.sections.map (fun x =>
    (x, if x.kind != 1 then stagedData s p c.sections x
        else if k.restore = 4 && x.flags % 2 = 1 then
          (match far.donor.find? (fun e => e.1 = x.off) with | some e => e.2.take x.len | none => hbmBytes s p x.off x.len)
        else hbmBytes s p x.off x.len))

/-- Check 10 of R567: the restore, or the status that ends it, and the torn slots that were met (16, R545, R546, R550).
Assumption 55 (DEDUCED). -/
def restoreCheck (s : State) (p : Nat) (k : JobBlock) (far : Far) (key : List Byte) : Nat × Nat × Option Restore :=
  let fw := s.boot.fw.toNat
  let from_ (img : List Byte) (torn : Nat) : Nat × Nat × Option Restore :=
    let st := imageCheck s p fw k.rank key img
    (st, torn, if st = 0 then some { cut := fieldAt img 16 8, parts := imageParts img, td := some (fieldAt img 96 8) } else none)
  match k.restore with
  | 0 => (0, 0, none)
  | 1 =>
    let r := pickImage k.rank k.cut (restoreFrom s p k far)
    if r.status != 0 then (r.status, r.torn, none) else from_ r.img r.torn
  | 2 =>
    let r := pickImage k.rank k.cut (restoreFrom s p k far)
    if r.status != 0 then (r.status, r.torn, none) else from_ r.img r.torn
  | _ =>
    match stagedCut s p k with
    | none => (0x02C5, 0, none)
    | some c =>
      let st := if c.head.isEmpty then 0 else imageCheck s p fw k.rank key c.head
      (st, 0, if st = 0 then some { cut := c.cut, parts := stagedParts s p k far c,
                                    td := if c.head.isEmpty then none else some (fieldAt c.head 96 8) } else none)

/-- A job start that passed its checks. -/
structure Prepared where
  /-- The block. -/
  block : JobBlock
  /-- Image bytes by slot. -/
  imgs : List (List Byte)
  /-- Key digest. -/
  key : List Byte
  /-- Restore. -/
  restore : Option Restore
deriving DecidableEq, Repr

/-- The map digest in force (02, R55, R56). -/
def mapDigestOf (s : State) : List Byte := sha256 (mapBytes s.grid)

/-- One image of the job in partition p. -/
def imageInfo (s : State) (p : Nat) (b : List Byte) : ImageInfo :=
  let n := fieldAt b 16 4
  let special := fieldAt b 7 1 = 1
  { count := n, special := special,
    foreign := special && (fieldAt b 9 1 != p || (b.drop 32).take 32 != mapDigestOf s),
    bundles := memWrite [] 0 ((chunksOf 64 n (b.drop 256)).map (fun w => BitVec.ofNat 512 (leNat w))) }

/-- The segments of every image go to the slice, a later one over an earlier one; the bundle sections of a job of several images
go to the image area (08, R264; 17, R569). -/
def loadSegments (s : State) (p : Nat) (r : Prepared) : State :=
  let t := r.imgs.foldl (fun u b => (imageSegs b).foldl (fun v e =>
    hbmStore .quiet v p e.1 ((b.drop e.2.2).take e.2.1)) u) s
  if r.imgs.length ≤ 1 then t
  else (r.imgs.zipIdx).foldl (fun u e =>
    hbmStore .quiet u p (protOff (r.block.imgArea + 524288 * e.2)) ((e.1.drop 256).take (64 * fieldAt e.1 16 4))) t

/-- New region sizes zero the slice and lay it out anew; every job start takes the unprotected layout from the stacks in service
(10, R318, R319, R338). -/
def startSlice (s : State) (p : Nat) : State :=
  let q := part s p
  let z := sizesOf s p
  let same := q.mem.u = z.1 && q.mem.p = z.2.1 && q.mem.v = z.2.2
  let t := if same then s else zeroSlice s p
  withMem t p (fun m =>
    let m1 := { m with u := z.1, p := z.2.1, v := z.2.2, live := stacksUp s, corr := 0, recon := 0, made := 0, read := 0,
                       lostWr := 0, reject := 0, sentLost := false }
    if same then m1 else freshLayout s m1)

/-- The registers and units of a partition at job start (02, R86 to R90; 06, R679; 10, R313, R347; 12, R417; 13, R448; 15, R526;
16, R551). -/
def startPart (s : State) (p : Nat) (r : Prepared) (q : Partition) : Partition :=
  let k := r.block
  let infos := r.imgs.map (imageInfo s p)
  let first := infos.headD { count := 0, special := false, foreign := false, bundles := [] }
  let step := match r.restore with | some x => x.cut + 1 | none => 0
  let td : Word64 := match r.restore with | some x => (match x.td with | some n => BitVec.ofNat 64 n | none => 0) | none => 0
  let counts := { repCountsReset with td := td }
  let logN : Word32 := if q.rep.logSize.toNat < 2 then 0 else q.rep.logSize
  { q with
    st := .starting, endReq := none, haltAt := none, waiting := false, stepsDone := 0, current := none,
    job :=
      { rank := k.rank, relaxed := k.cls = 1, debug := k.debug, imageDigest := imagesDigest r.imgs, dataDigest := k.dataDigest,
        seed := leNat k.seed, fw := s.boot.fw.toNat, keyDigest := r.key, mapDigest := mapDigestOf s, special := first.special,
        foreign := first.foreign, updDir := k.updDir, images := infos, imgArea := k.imgArea, ranks := q.lk.count.toNat,
        restored := k.restore != 0 },
    seq := { seqReset with bundles := first.bundles, step := step },
    rep := { repRegsReset with
             ctrl := q.rep.ctrl, ctrlEff := q.rep.ctrl, logBase := q.rep.logBase, logBaseEff := q.rep.logBase,
             logSize := q.rep.logSize, logSizeEff := logN, live := counts, snap := counts },
    se := { seRegsReset with
            ctrl := q.se.ctrl, ctrlEff := q.se.ctrl, status := q.se.status, hjOff := q.se.hjOff, hjOffEff := q.se.hjOff,
            hjBytes := q.se.hjBytes, hjBytesEff := q.se.hjBytes, replOff := q.se.replOff, replOffEff := q.se.replOff },
    cl := { clRegsReset with
            status := q.cl.status, brCtrl := q.cl.brCtrl, brCtrlEff := q.cl.brCtrl, brLead := q.cl.brLead,
            brLeadEff := q.cl.brLead },
    lk := { lkRegsReset with
            job := q.lk.job, jobEff := q.lk.job.toNat, epoch := q.lk.epoch, epochEff := q.lk.epoch.toNat, base := q.lk.base,
            baseEff := q.lk.base.toNat, count := q.lk.count, countEff := q.lk.count.toNat, pflags := q.lk.pflags },
    upd := updReset,
    ck := { ckRegsReset with
            period := q.ck.period, status := q.ck.status, timeout := q.ck.timeout, mapOff := q.ck.mapOff,
            mapOffEff := q.ck.mapOff, buddy := q.ck.buddy, buddyEff := q.ck.buddy, ward := q.ck.ward, wardEff := q.ck.ward,
            areaOff := q.ck.areaOff, areaOffEff := q.ck.areaOff, slotBytes := q.ck.slotBytes, slotBytesEff := q.ck.slotBytes,
            stageOff := q.ck.stageOff, stageOffEff := q.ck.stageOff, drainAddr := q.ck.drainAddr, drainCtrl := q.ck.drainCtrl,
            draining := q.ck.draining, restoring := k.restore != 0,
            jobCut := if k.restore = 1 || k.restore = 2 then BitVec.ofNat 64 (step - 1)
              else if k.restore = 0 then 0 else q.ck.jobCut },
    clusters := (List.range (clPer s)).map (fun i => clusterJobStart (q.clusters.getD i clusterReset)) }

/-- Every context of a partition begins without a previous entry. Assumption 55 (DEDUCED). -/
def clearPrev (s : State) (p : Nat) : State :=
  { s with host := { s.host with
      ctxs := s.host.ctxs.map (fun c => if partOfCtx s c.k = some p then { c with prev := none } else c) } }

/-- A cut that streams when a restore begins fails (16, R542 reason 5). -/
def dropStream (s : State) (p : Nat) : State :=
  match (part s p).ck.stream with
  | some c => cutResult (cutFails s p 5) p (part s p).job.rank c.cut false
  | none => s

/-- The partition starts: slice, image, registers, restore (16, R547; 17, R569, R570). Assumption 55 (DEDUCED). -/
def startJob (s : State) (p : Nat) (r : Prepared) : State :=
  let s1 := loadSegments (startSlice (dropStream s p) p) p r
  let s2 := clearPrev (withPart s1 p (startPart s p r)) p
  let s3 := match r.restore with
    | some x => x.parts.foldl (fun t e => restoreSection t p e.1 e.2) s2
    | none => s2
  if (part s3 p).job.images.any (fun i => i.foreign) then sendEvent s3 srcFw p 0x0213 0 else s3

/-- What JOB_START answers: a status with the state, the table of R25 or torn slots noted, or a job that starts. -/
inductive StartEnd where
  | fails (status : Nat) (s : State)
  | starts (s : State) (first : Nat)

/-- Torn slots that a restore ignored (16, R545). -/
def noteTorn : Nat → State → Nat → State
  | 0, s, _ => s
  | n + 1, s, p => noteTorn n (sendEvent (withCk s p (fun c => { c with status := c.status ||| 0x400 })) srcFw p 0x04C2 0) p

/-- Bit i of `owner_lock` in the main domain's copy of Onyx (20, R657, R659). -/
def ownerFuse (s : State) (i : Nat) : Bool := (memLe s.boot.copy 0x7A1 1).testBit i

/-- JOB_START of a partition with the block at a host address (17, R567). The region sizes of R316 are judged with the images,
the route table of R401 after the fixed areas. Assumption 55 (DEDUCED). -/
def jobStart (s : State) (p addr : Nat) (far : Far) : StartEnd :=
  let k := jobBlock (hostRead s addr 256)
  if !k.ok || (k.debug && ownerFuse s 1) then .fails 0x0102 s
  else if planCount s ≤ p then .fails 0x0202 s
  else if s.faults.engines != 0 then .fails 0x05BD s
  else if sizesBad s p then .fails 0x0160 s
  else
    let imgs := k.images.map (fun e => hostRead s e.1 e.2)
    let q := sized s p
    let st := firstBad (imgs.map (imageStatus s q k.cls))
    if st != 0 then .fails st s
    else if q.st != .idle && q.st != .ended then .fails 0x0210 s
    else if 2 ≤ k.cls || (k.cls = 1 && ownerFuse s 2) then .fails 0x0111 s
    else
      match (if k.adopt then adoptMap s.grid (hostRead s k.mapAddr 1024) else some s.grid) with
      | none =>
        .fails 0x0201 { s with grid := { s.grid with table := (assignLogical s.grid.disabled).getD s.grid.table } }
      | some g =>
        let t : State := { s with grid := g }
        let key := sha256 (startKey t k imgs)
        if k.expect.any (fun x => x != 0) && k.expect != key then .fails 0x0510 s
        else
          let area := areasStatus q k imgs
          if area != 0 then .fails area s
          else
            let routes := routesStatus (withPart s p (fun _ => q)) p k.rank
            if routes != 0 then .fails routes s
            else
              let r := restoreCheck (withPart t p (fun _ => q)) p k far key
              if r.1 != 0 then .fails r.1 (noteTorn r.2.1 s p)
              else
                let u := startJob (noteTorn r.2.1 t p) p { block := k, imgs := imgs, key := key, restore := r.2.2 }
                .starts u (part u p).seq.step

/-- JOB_RELEASE from IDLE or ENDED: the slice and the SRAM are zeroed (10, R313, R320; 16, R542; 17, R571). -/
def releasePart (s : State) (p : Nat) : State :=
  let t := zeroSlice (dropStream s p) p
  withPart t p (fun q =>
    { q with
      st := .idle, clusters := q.clusters.map (fun c => { c with sram := [] }), ck := { q.ck with staged := none } })

end Sys2Proof.Machine
end

