-- ==== Sys2Proof/Machine/Governors.lean ====
section
/-! DEFINITION. Effective values of the shared power settings, halt requests, the CCLK target, and the end of a partition's start
(17, R570, R571; 18, R596, R597; 19, R618, R619, R626 to R636). -/

namespace Sys2Proof.Machine

/-- Change the governors. -/
def withGov (s : State) (f : Governor → Governor) : State := { s with gov := f s.gov }

/-- Change the supplies. -/
def withSup (s : State) (f : Supplies → Supplies) : State := { s with supplies := f s.supplies }

/-- Set a W1C bit of PW_STATUS. -/
def pwNote (s : State) (bit : Nat) : State := withGov s (fun g => { g with status := g.status ||| BitVec.ofNat 32 (2 ^ bit) })

/-- The effective cap C, W (19, R628). Assumption 47 (DEDUCED). -/
def effCap (g : Governor) : Nat := min g.cap g.capMg

/-- The largest usable fmax of the margin plan, steps; 1,400 MHz before a plan is made (19, R628, R638). -/
def planTop (g : Governor) : Nat := match g.plan with | some r => r.steps.foldl max 0 | none => 112

/-- MHz of a number of 12.5 MHz steps, rounded down. -/
def stepsMhz (n : Nat) : Nat := n * 25 / 2

/-- The effective CCLK limit, MHz (19, R628). Assumption 47 (DEDUCED). -/
def effLimit (g : Governor) : Nat := min (min g.limit g.limitMg) (min (stepsMhz (planTop g)) (stepsMhz g.thermal))

/-- The effective CCLK limit on the grid of 12.5 MHz, and not below 600 MHz (19, R628). Assumption 47 (DEDUCED). -/
def limitSteps (g : Governor) : Nat :=
  max 48 (min (min (g.limit * 2 / 25) (g.limitMg * 2 / 25)) (min (planTop g) g.thermal))

/-- The lowest operating point whose planned fmax is at least the target (19, R632). -/
def pointFor (g : Governor) (n : Nat) : Nat :=
  match g.plan with
  | some r => (r.steps.findIdx? (fun f => f != 0 && decide (n ≤ f))).getD g.point
  | none => g.point

/-- A frequency step: the target, its operating point, and 16 CCLK for which issue is held (19, R631, R632). -/
def setTarget (g : Governor) (n : Nat) : Governor :=
  if n = g.target then g else { g with target := n, point := pointFor g n, settle := if g.target = 0 then 0 else 16 }

/-- A lowered effective limit lowers the target at once (19, R631). -/
def retarget (s : State) : State :=
  if limitSteps s.gov < s.gov.target then withGov s (fun g => setTarget g (limitSteps g)) else s

/-- The halt requests of host and management for a partition (19, R626; 18, R596). -/
def haltOrdered (g : Governor) (p : Nat) : Bool :=
  g.halt.toNat.testBit p || g.halt.toNat.testBit 15 || g.haltMg.getLsbD p || g.haltMg.getLsbD 12

/-- The effective halt of a partition (19, R626). -/
def effHalt (s : State) (p : Nat) : Bool := haltOrdered s.gov p || s.supplies.permHalt

/-- Ask for the end of a job at its next boundary; a partition that waits for an entry stands at one (17, R571, R576).
Assumption 56 (DEDUCED). -/
def askEnd (s : State) (p cause status : Nat) : State :=
  let t := endAtBoundary s p cause status
  match (part t p).endReq with
  | some (c, st) => if (part t p).st = .running && (part t p).waiting then jobEnd t p c st else t
  | none => t

/-- The effective halt of a partition became 1: its job ends at the next boundary with cause 2 (19, R626, R627). -/
def noteHalt (s : State) (p : Nat) : State :=
  if effHalt s p && jobActive (part s p) && (part s p).haltAt.isNone then
    askEnd (withPart s p (fun q => { q with haltAt := some s.quartz.ns })) p 2 0
  else s

/-- Every partition after a change of a halt request (19, R626). -/
def noteHalts (s : State) : State := (List.range 12).foldl noteHalt s

/-- A configuration object by one number: 0x3020 test windows, 0x6030 Quartz, 0x302100 + p fault control of partition p. What an
item of a management write does to its hold: a value sets it, a hold subindex gives it (18, R598).
Assumption 61 (DEDUCED). -/
def itemHold (o : Nat) (it : WrItem) : Option Bool :=
  let truth : Bool := it.val.any (fun x => x != 0)
  if it.index = 0x3020 && o = 0x3020 then some (if it.sub = 3 then truth else true)
  else if it.index = 0x6030 && o = 0x6030 then some (if it.sub = 4 then truth else true)
  else if it.index = 0x3021 && o + 1 = 0x302100 + it.sub then some true
  else if it.index = 0x3022 && o + 1 = 0x302100 + it.sub then some truth else none

/-- The items of the writes that wait for the application tick, in order. -/
def waitingItems (s : State) : List WrItem := (s.mgmt.reqs.filter (fun r => !r.read)).flatMap (fun r => r.items)

/-- Does management hold a configuration object, as it stands. Assumption 61 (DEDUCED). -/
def heldNow (s : State) (o : Nat) : Bool :=
  if o = 0x3020 then s.mgmt.twHeld else if o = 0x6030 then s.mgmt.qzHeld else s.mgmt.seHeld.getLsbD (o - 0x302100)

/-- Does management hold a configuration object, writes of the same application tick put first (18, R598). -/
def heldFor (s : State) (o : Nat) : Bool :=
  ((waitingItems s).filterMap (itemHold o)).getLast?.getD (heldNow s o)

/-- The plan lock, writes of the same application tick put first (18, R596, R598). -/
def planLocked (s : State) : Bool :=
  (((waitingItems s).filter (fun it => it.index = 0x5011 && it.sub = 1)).getLast?.map (fun it => it.val.any (fun x => x != 0))).getD
    s.mgmt.planLock

/-- A write of function k loses to management (17, R564). Assumption 61 (DEDUCED). -/
def noteConflict (s : State) (k : Nat) : State :=
  withFn s k (fun f => { f with status := f.status ||| 4, conflict := satInc f.conflict 1 })

/-- The value of a configuration object in its registers (18, R598). -/
def heldValue (s : State) (o : Nat) : Nat :=
  if o = 0x3020 then s.faults.twCtrl.toNat
  else if o = 0x6030 then s.quartz.ctrl.toNat + s.quartz.asym.toNat * 2 ^ 32 else (part s (o - 0x302100)).se.ctrl.toNat

/-- A host write of a configuration object, unless it loses (18, R598). Assumption 61 (DEDUCED). -/
def hostOrder (s : State) (k o : Nat) (f : State → State) : State :=
  if heldFor s o then noteConflict s k
  else
    let t := f s
    { t with host := { t.host with ordered := t.host.ordered ++ [(k, o, heldValue s o)] } }

/-- Is the module in firmware mode (19, R636). Factory test does not run in the model. -/
def fwMode (s : State) : Bool :=
  !isReady s || s.supplies.supply != .normal || (s.gov.replan != .none && s.gov.replan != .scheduled)

/-- STARTING is over: a supply hold or a halt keeps the job from its first bundle, else it runs (17, R570, R575; 19, R619,
R626). -/
def startRuns (s : State) (p : Nat) : State :=
  let t := withPart s p (fun q => { q with st := .running, ck := { q.ck with restoring := false } })
  if s.supplies.supply = .halted then jobEnd t p 4 0x08E6
  else if effHalt s p then jobEnd t p 2 0
  else
    let h : BitVec 16 := (if s.supplies.supply = .hold then 0x2000 else 0) ||| (if s.gov.replan = .holding then 0x1000 else 0)
    let held := withPart t p (withSeq (fun x => { x with holds := x.holds ||| h }))
    let u := periodCut (pairGangs (selectEntry held p) p) p
    match (part u p).endReq with
    | some (c, st) => if (part u p).waiting then jobEnd u p c st else u
    | none => u

/-- The JOB_START that waits for a partition completes with its first step (17, R570). Assumption 55 (DEDUCED). -/
def startDone (s : State) (p : Nat) : State :=
  (List.range 13).foldl (fun t k => completeWait t k (fun w => w.op = 0x20 && w.arg = p) 0 (fun w => w.val)) s

/-- JOB_RUNNING: R313 and any restore have finished. Assumption 15 (DEDUCED); 18 (DESIGN CHOICE). -/
def execJobRunning (p : Nat) (s : State) : Out :=
  onUnit (decide (p < 12)) (startDone (if (part s p).st = .starting then startRuns s p else s) p)

end Sys2Proof.Machine
end

