-- ==== Sys2Proof/Machine/Firmware.lean ====
section
/-! DEFINITION. Firmware images and test packs: their form, their signatures and the fuses that govern them (15, R519, R520; 17,
R559, R560; 20, R657 to R659). -/

namespace Sys2Proof.Machine

/-- The 97 bytes of an uncompressed public key: byte i of X and Y, each big-endian, in bits 8i + 7 to 8i of the operand. -/
def keyBytes (key : BitVec 768) : List Byte := 0x04 :: leBytes 96 key.toNat

/-- Does a key verify the 96 signature bytes, r then s, over the SHA-384 of a message (17, firmware image; 15, R519).
Assumption 14 (DESIGN CHOICE). -/
def signedBy (key : BitVec 768) (msg sig : List Byte) : Bool :=
  let k := leBytes 96 key.toNat
  ecdsaP384 (beNat (k.take 48)) (beNat (k.drop 48)) (beNat (sig.take 48)) (beNat (sig.drop 48)) (sha384 msg)

/-- Does a key have the hash that a copy of Onyx holds at an address; a hash of zeros is unburned (20, R657).
Assumption 14 (DESIGN CHOICE). -/
def keyHashed (copy : Mem 8) (at_ : Nat) (key : BitVec 768) : Bool :=
  let h := memRead copy at_ 48
  h.any (fun x => x != 0) && sha384 (keyBytes key) = h

/-- The fused minimum security version: the count of burned bits of `sec_floor` (20, R657). -/
def secFloor (copy : Mem 8) : Nat := ((List.range 256).filter (fun i => (memLe copy 0x700 32).testBit i)).length

/-- Is the header of a firmware image well formed (17, R559 check 1). -/
def fwHeaderOk (b : List Byte) : Bool :=
  let n := fieldAt b 14 2
  let len := fieldAt b 16 4
  fieldAt b 0 4 = 0x57465141 && fieldAt b 4 2 = 1 && fieldAt b 6 1 = 0x42 && decide (fieldAt b 7 1 ≤ 3) && decide (1 ≤ n) &&
    decide (n ≤ 32) && decide (len ≤ 2 ^ 25) && len = b.length && decide (64 + 16 * n + 96 ≤ len) && fieldAt b 20 44 = 0 &&
    (List.range n).all (fun i =>
      fieldAt b (64 + 16 * i + 2) 2 = 0 && fieldAt b (64 + 16 * i + 12) 4 = 0 &&
        decide (fieldAt b (64 + 16 * i + 4) 4 + fieldAt b (64 + 16 * i + 8) 4 ≤ len - 96))

/-- The first check of R559 that an image fails, 0 where it passes; `key` is the public key of its slot. -/
def fwCheck (copy : Mem 8) (b : List Byte) (key : BitVec 768) : Nat :=
  let slot := fieldAt b 7 1
  let len := fieldAt b 16 4
  if !fwHeaderOk b then 1
  else if !keyHashed copy (0x600 + 48 * slot) key || (memLe copy 0x6F0 1).testBit slot ||
    !signedBy key (b.take (len - 96)) (b.drop (len - 96)) then 2
  else if fieldAt b 12 2 < secFloor copy then 3 else 0

/-- A bank's image: as many bytes as its header names. Assumption 7 (DESIGN CHOICE). -/
def bankImage (k : FwBank) : List Byte := memRead k.bytes 0 (min (memLe k.bytes 16 4) (2 ^ 25))

/-- Stage an image into the bank that does not run, and prefer that bank from the next start on (17, R560): a status, or the
version staged. Assumption 52 (DEDUCED); 54 (DEDUCED). -/
def fwStage (s : State) (b : List Byte) (key : BitVec 768) : Nat × Nat × State :=
  if s.host.staging then (0x0404, 0, s)
  else match fwCheck s.boot.copy b key with
    | 0 =>
      let bank : FwBank := { bytes := memWrite [] 0 b, result := 1 }
      let boot := if s.boot.runB then { s.boot with bankA := bank } else { s.boot with bankB := bank }
      (0, fieldAt b 8 4, { s with boot := boot, life := { s.life with bankB := !s.boot.runB } })
    | 3 => (0x0205, 0, s)
    | _ => (0x0501, 0, s)

/-- A test of a pack: its image, its expected digest, its run time in µs (15, R519). -/
structure PackTest where
  /-- Program image. -/
  image : List Byte
  /-- Expected state digest. -/
  digest : List Byte
  /-- Run time, µs. -/
  us : Nat
deriving DecidableEq, Repr

/-- Length of the program image at the front of some bytes: header, bundles, segment table and segment data (08, R262). -/
def imageSpan (b : List Byte) : Nat :=
  ((imageSegs b).map (fun e => e.2.2 + e.2.1)).foldl max (256 + 64 * fieldAt b 16 4 + 16 * fieldAt b 24 4)

/-- Is the image of a test one that a pack may hold (15, R519; 08, R262). -/
def packImageOk (b : List Byte) : Bool :=
  fieldAt b 0 4 = 0x4D495141 && fieldAt b 4 2 = 1 && fieldAt b 6 1 = 0x42 && fieldAt b 7 1 = 0 && decide (1 ≤ fieldAt b 16 4) &&
    decide (fieldAt b 16 4 ≤ 8192) && decide (fieldAt b 24 4 ≤ 64)

/-- The tests of a pack from its bytes after the header; none where they are malformed (15, R519). -/
def packTests : Nat → List Byte → Option (List PackTest)
  | 0, b => if b.isEmpty then some [] else none
  | n + 1, b =>
    let k := imageSpan b
    if !packImageOk b || b.length < k + 36 || 2000000 < fieldAt b (k + 32) 4 then none
    else
      (packTests n (b.drop (k + 36))).map (fun l =>
        { image := b.take k, digest := (b.drop k).take 32, us := fieldAt b (k + 32) 4 } :: l)

/-- `pack_version`. -/
def packVersion (b : List Byte) : Nat := fieldAt b 4 4

/-- Is a pack well formed for the running firmware (15, R519). Assumption 54 (DEDUCED). -/
def packOk (fw : Nat) (b : List Byte) : Bool :=
  let n := fieldAt b 16 4
  fieldAt b 0 4 = 0x4B505441 && fieldAt b 8 1 = 0x42 && fieldAt b 9 3 = 0 && decide (fieldAt b 12 4 ≤ fw) && decide (1 ≤ n) &&
    decide (n ≤ 256) && fieldAt b 20 4 = b.length && fieldAt b 24 40 = 0 && decide (b.length ≤ 2 ^ 22) &&
    decide (160 ≤ b.length) && (packTests n ((b.take (b.length - 96)).drop 64)).isSome

/-- Does a pack's signature verify under the test-pack key (15, R519; 20, R659). Assumption 54 (DEDUCED). -/
def packSigned (copy : Mem 8) (b : List Byte) (key : BitVec 768) : Bool :=
  keyHashed copy 0x6C0 key && !(memLe copy 0x6F0 1).testBit 4 && signedBy key (b.take (b.length - 96)) (b.drop (b.length - 96))

/-- Install a pack (15, R520): its status. Assumption 52 (DEDUCED). -/
def packInstall (s : State) (b : List Byte) (key : BitVec 768) : Nat × State :=
  if !packOk s.boot.fw.toNat b then (0x01B0, s)
  else if !packSigned s.boot.copy b key then (0x05BA, s)
  else if packVersion b ≤ (match s.life.pack with | some x => packVersion x | none => 0) then (0x02B1, s)
  else (0, { s with life := { s.life with pack := some b }, faults := { s.faults with packUsed := true } })

end Sys2Proof.Machine
end

