-- ==== Sys2Proof/Machine/Commands.lean ====
section
/-! DEFINITION. Host commands: their form, queue contexts, plan changes, and the performance of ring and mailbox commands
(14, R478; 17, R554, R560, R564 to R571, R578; 20, R654). -/

namespace Sys2Proof.Machine

/-- The queue context that a command names: context j of the partition that the command carries (17, commands).
Assumption 51 (DEDUCED). -/
def ctxNumber (s : State) (a : HostArgs) : Nat := argPart a * ctxPer s + argAt a 8 4

/-- A power of two between two bounds. -/
def pow2In (v lo hi : Nat) : Bool := decide (lo ≤ v) && decide (v ≤ hi) && 2 ^ Nat.log2 v = v

/-- May a context be configured or cleared: no active job, or no fetched entry (17, queue contexts). -/
def ctxFree (s : State) (p k : Nat) : Bool :=
  !jobActive (part s p) || (match s.host.ctxs.find? (fun c => c.k = k) with | some c => c.fetched.isEmpty | none => true)

/-- Contexts without context k. -/
def dropCtx (s : State) (k : Nat) : State := { s with host := { s.host with ctxs := s.host.ctxs.filter (fun c => c.k != k) } }

/-- A context takes its place by number. -/
def putCtx (s : State) (c : QCtx) : State :=
  { s with
    host := { s.host with
              ctxs := s.host.ctxs.filter (fun x => decide (x.k < c.k)) ++ c :: s.host.ctxs.filter (fun x => decide (c.k < x.k)) } }

/-- CTX_CONFIG: its status, and the state. Assumption 51 (DEDUCED). -/
def ctxConfig (s : State) (a : HostArgs) : Nat × State :=
  let k := ctxNumber s a
  let n := argAt a 12 4
  let outs := argAt a 40 4
  if ctxPer s ≤ argAt a 8 4 || !pow2In n 16 65536 || 4096 < outs then (0x0105, s)
  else if !ctxFree s (argPart a) k then (0x0204, s)
  else
    (0, putCtx s { k := k, size := n, ring := argAt a 16 8, cpl := argAt a 24 8, table := argAt a 32 8, tableN := outs, tail := 0,
                   head := 0, cplIdx := 0, phase := true, prev := none, fetched := [] })

/-- CTX_CLEAR: its status, and the state. Assumption 51 (DEDUCED). -/
def ctxClear (s : State) (a : HostArgs) : Nat × State :=
  let k := ctxNumber s a
  if ctxPer s ≤ argAt a 8 4 then (0x0105, s)
  else if !ctxFree s (argPart a) k then (0x0204, s) else (0, dropCtx (flushCtx s k 0x0207) k)

/-- JOB_RELEASE: its status, and the state (17, R571). -/
def jobRelease (s : State) (p : Nat) : Nat × State :=
  if (part s p).st = .idle || (part s p).st = .ended then (0, releasePart s p) else (0x0204, s)

/-- Every protected region laid out afresh with the default sizes (10, R316, R338).
Assumption 58 (DEDUCED); 71 (DESIGN CHOICE). -/
def layAll (s : State) : State :=
  (List.range 12).foldl (fun t p =>
    if planCount t ≤ p then withMem t p (fun m => { m with u := 0, p := 0, v := 0, live := [], prot := [], survivors := [], ptr := 0, state := .normal })
    else
      let z := sizesOf t p
      withMem t p (fun m => freshLayout t { m with u := z.1, p := z.2.1, v := z.2.2, live := stacksUp t })) s

/-- Put plan e in force: partitions IDLE or absent, clusters regrouped with SRAM and accumulator stores cleared, slices laid out
(01, R42, R45; 20, R651). Assumption 58 (DEDUCED). -/
def putPlan (s : State) (e : Nat) : State :=
  let all := s.parts.flatMap (fun q => q.clusters)
  let fresh : List Cluster := (List.range 480).map (fun l =>
    let c := all.getD l clusterReset
    { c with sram := [], core := { c.core with accum := accumReset } })
  let t : State := { s with boot := { s.boot with plan := e, planOn := true } }
  let n := planCount t
  layAll { t with
    parts := s.parts.mapIdx (fun p q =>
      { q with
        st := if p < n then .idle else .absent, hbm := [],
        clusters := if p < n then (fresh.drop (p * (480 / n))).take (480 / n) else [] }) }

/-- The configuration that a plan change returns to its reset values (17, R578 step 3). Assumption 58 (DEDUCED). -/
def planConfig (q : Partition) : Partition :=
  { q with
    mem := { q.mem with cfg := 0, rwin := List.replicate 16 0 },
    lk := { q.lk with job := 0, epoch := 0, base := 0, count := 0 },
    cl := { q.cl with brCtrl := 0x10001 },
    ck := { q.ck with
            period := 0, timeout := ckRegsReset.timeout, mapOff := 0, buddy := 0, ward := 0, areaOff := 0, slotBytes := 0,
            stageOff := 0, drainAddr := 0, drainCtrl := 0, staged := none } }

/-- The command that waits for a request at Beryl, if the host made it, with its opcode. -/
def qpWaiter (r : QpReq) : Option (Nat × Nat) :=
  match r.kind with
  | .host fn _ _ _ => some (fn, 0x52)
  | .load fn _ => some (fn, 0x50)
  | .clear fn => some (fn, 0x51)
  | .cluster .. => none

/-- Clear a Beryl context with `enable` 0; requests of the host that wait there are answered with 0x02A0 (17, R578).
Assumption 58 (DEDUCED). -/
def qpDisable (s : State) (c : Nat) : State :=
  let ws := (qpCtxAt s c).queue.filterMap qpWaiter
  let t := withQp s c (fun y =>
    { y with enable := false, vals := none, poisoned := false, saved := none, queue := [], iters := 0, reqs := 0, refacts := 0, deadlines := 0 })
  ws.foldl (fun u w => completeWait u w.1 (fun x => x.op = w.2 && x.arg = c) 0x02A0 (fun _ => 0)) t

/-- PLAN_CHANGE to plan e: its status, and the state (17, R578; 18, R596). Assumption 58 (DEDUCED). -/
def planChange (s : State) (e : Nat) : Nat × State :=
  if 16 ≤ e || !planValid (planEntry s.boot.copy e) then (0x0104, s)
  else if s.parts.any (fun q => q.st = .starting || q.st = .running || q.st = .releasing) then (0x0203, s)
  else if planLocked s then (0x0302, s)
  else
    let s1 := (List.range (planCount s)).foldl releasePart s
    let s2 := s1.host.ctxs.foldl (fun t c => flushCtx t c.k 0x0207) s1
    let s3 : State :=
      { s2 with
        host := { s2.host with ctxs := [] }, parts := s2.parts.map planConfig,
        ports := s2.ports.map (fun k => { k with enable := true, split := false, expectId := 0, expectPort := 0 }) }
    (0, putPlan ((List.range 8).foldl qpDisable s3) e)

/-- Where the arguments of a command end; none for a reserved opcode (17, commands; 14, R478).
Assumption 52 (DEDUCED). -/
def argsEnd (op : Nat) : Option Nat :=
  match op with
  | 0x10 => some 44
  | 0x11 => some 12
  | 0x20 => some 16
  | 0x21 | 0x22 => some 8
  | 0x30 => some 9
  | 0x40 => some 16
  | 0x50 => some 24
  | 0x51 | 0x53 => some 12
  | 0x52 => some 40
  | 0x60 | 0x61 => some 24
  | _ => none

/-- Commands that carry the partition in byte 56 (17, commands). Assumption 52 (DEDUCED). -/
def namesPart (op : Nat) : Bool := [0x10, 0x11, 0x20, 0x21, 0x22].contains op

/-- Is a command malformed: reserved opcode, nonzero reserved byte, PF-only command of a VF (17, R566). The bytes that a command's
arguments leave over are reserved. Assumption 52 (DEDUCED). -/
def cmdMalformed (a : HostArgs) (op : Nat) : Bool :=
  match argsEnd op with
  | none => true
  | some n =>
    let b56 := argAt a 56 1
    let gap := [0x50, 0x51, 0x52, 0x53].contains op && argAt a 12 4 != 0
    argAt a n (56 - n) != 0 || argAt a 57 7 != 0 || gap || (if namesPart op && a.fn = 0 then decide (16 ≤ b56) else b56 != 0) ||
      ([0x30, 0x60, 0x61].contains op && a.fn != 0)

/-- What a command is answered with before READY (20, R654). Assumption 53 (DEDUCED). -/
def cmdGate (s : State) : Option Nat :=
  match s.boot.st with
  | .ready | .halted => none
  | .failed => some s.boot.fail.toNat
  | _ => some 0x02F3

/-- JOB_START: it waits for JOB_RUNNING where its checks pass (17, R567, R570). -/
def startCmd (s : State) (a : HostArgs) (w : CmdWait) (far : Far) : State :=
  let p := argPart a
  match jobStart s p (argAt a 8 8) far with
  | .fails st t => completeCmd t a.fn w st 0
  | .starts t first => withFn t a.fn (fun f => { f with waits := f.waits ++ [{ w with arg := p, val := first }] })

/-- SEED_GET: it waits for its seed (09, R304 to R306). -/
def seedCmd (s : State) (a : HostArgs) (w : CmdWait) : State :=
  seedAsk (withFn s a.fn (fun f => { f with waits := f.waits ++ [w] }))
    { who := 12, lcl := 0, buf := 0, fn := a.fn, addr := argAt a 8 8 }

/-- Perform a command of a function that passed R566 (17, commands). -/
def cmdPerform (s : State) (a : HostArgs) (w : CmdWait) (key : BitVec 768) (far : Far) : State :=
  let p := argPart a
  let done (r : Nat × State) : State := completeCmd r.2 a.fn w r.1 0
  if w.op = 0x20 then startCmd s a w far
  else if namesPart w.op && decide (planCount s ≤ p) then completeCmd s a.fn w 0x0202 0
  else match w.op with
    | 0x10 => done (ctxConfig s a)
    | 0x11 => done (ctxClear s a)
    | 0x21 => completeCmd (askEnd s p 1 0) a.fn w 0 0
    | 0x22 => done (jobRelease s p)
    | 0x30 => done (planChange s (argAt a 8 1))
    | 0x40 => seedCmd s a w
    | 0x60 =>
      let r := fwStage s (hostRead s (argAt a 8 8) (min (argAt a 16 8) (2 ^ 25 + 1))) key
      completeCmd r.2.2 a.fn w r.1 r.2.1
    | 0x61 =>
      let b := hostRead s (argAt a 8 8) (min (argAt a 16 8) (2 ^ 22 + 1))
      let r := packInstall s b key
      completeCmd r.2 a.fn w r.1 (packVersion b)
    | _ => svPerform s a w

/-- Perform a command: the gate of R654, an absent VF (R554), R566, the command.
Assumption 19 (DEDUCED); 52 (DEDUCED). -/
def cmdRun (s : State) (a : HostArgs) (w : CmdWait) (key : BitVec 768) (far : Far) : State :=
  match cmdGate s with
  | some st => completeCmd s a.fn w st 0
  | none =>
    if a.fn != 0 && decide (planCount s < a.fn) then completeCmd s a.fn w 0x0202 0
    else if cmdMalformed a w.op then completeCmd s a.fn w 0x0101 0 else cmdPerform s a w key far

/-- What other modules and the key store add to a command: the empty supply. -/
def farNone : Far := { recA := 0, recB := 0, imgA := [], imgB := [], donor := [] }

/-- Does a command of 64 bytes need what a command of the model carries beside it: a public key, or what other modules hold.
Assumption 19 (DEDUCED). -/
def needsMore (s : State) (b : List Byte) : Bool :=
  let op := fieldAt b 0 2
  op = 0x60 || op = 0x61 || (op = 0x20 &&
    (let r := fieldAt (hostRead s (fieldAt b 8 8) 256) 2 1
     r = 1 || r = 4))

/-- Does firmware answer the rings and the mailbox of a function (20, R654). Assumption 53 (DEDUCED). -/
def ringsServed (s : State) : Bool := barFull s || (s.supplies.mainOn && s.boot.st = .failed)

/-- Perform a command entry of 64 bytes of function k (17, R565, R566). -/
def entryRun (s : State) (k : Nat) (b : List Byte) (mbox : Bool) (idx : Nat) (key : BitVec 768) (far : Far) : State :=
  let a : HostArgs := { fn := k, mbox := mbox, tag := BitVec.ofNat 32 (fieldAt b 4 4), args := BitVec.ofNat 448 (fieldAt b 8 56) }
  let w : CmdWait := { op := fieldAt b 0 2, tag := fieldAt b 4 4, mbox := mbox, idx := idx, arg := 0, val := 0 }
  match cmdGate s with
  | some st => completeCmd s k w st 0
  | none => if fieldAt b 2 2 != 0 then completeCmd s k w (if k != 0 && decide (planCount s < k) then 0x0202 else 0x0101) 0 else cmdRun s a w key far

/-- Perform the mailbox command and the ring commands of function k in turn, until one waits or none is left; with `all` false,
until one needs what only a command of the model supplies (17, R566). Assumption 19 (DEDUCED). -/
def pump (k : Nat) (key : BitVec 768) (far : Far) (all : Bool) : Nat → State → State
  | 0, s => s
  | fuel + 1, s =>
    let f := fnOf s k
    if !f.waits.isEmpty || !ringsServed s then s
    else if f.mboxGo then
      let b := leBytes 64 f.mboxCmd.toNat
      if !all && needsMore s b then s else pump k key far all fuel (entryRun s k b true 0 key far)
    else if f.cmdSize = 0 || f.cmdHead = f.cmdTail || !s.host.up then s
    else
      let b := hostRead s (f.cmdBaseEff.toNat + 64 * f.cmdHead.toNat) 64
      if !all && needsMore s b then s
      else
        let t := withFn s k (fun x => { x with cmdHead := BitVec.ofNat 32 ((x.cmdHead.toNat + 1) % x.cmdSize.toNat) })
        pump k key far all fuel (entryRun t k b false f.cmdHead.toNat key far)

/-- Perform what waits at function k. Assumption 19 (DEDUCED). -/
def pumpFn (s : State) (k : Nat) (key : BitVec 768) (far : Far) (all : Bool) : State :=
  pump k key far all ((fnOf s k).cmdSize.toNat + 1) s

/-- A tick of firmware: every function's commands that need nothing beside them. Assumption 1 (DESIGN CHOICE). -/
def pumpAll (s : State) : State := (List.range 13).foldl (fun t k => pumpFn t k 0 farNone false) s

/-- A host command of the model: firmware performs it as the next ring command of its function, or as its mailbox command, unless a
command of the function still waits (17, R566). Assumption 19 (DEDUCED). -/
def hostCmd (a : HostArgs) (op : Nat) (key : BitVec 768) (far : Far) (s : State) : Out :=
  onUnit (decide (a.fn < 13)) (
    let f := fnOf s a.fn
    let w : CmdWait := { op := op, tag := a.tag.toNat, mbox := a.mbox, idx := f.cmdHead.toNat, arg := 0, val := 0 }
    if !f.waits.isEmpty || !ringsServed s then s
    else if a.mbox then cmdRun (withFn s a.fn (fun x => { x with mboxGo := true })) a w key far
    else if f.cmdSize = 0 then s
    else
      cmdRun (withFn s a.fn (fun x => { x with cmdHead := BitVec.ofNat 32 ((x.cmdHead.toNat + 1) % x.cmdSize.toNat) })) a w key far)

/-- CTX_CONFIG. -/
def execCtxConfig (a : HostArgs) (s : State) : Out := hostCmd a 0x10 0 farNone s

/-- CTX_CLEAR. -/
def execCtxClear (a : HostArgs) (s : State) : Out := hostCmd a 0x11 0 farNone s

/-- JOB_START with what other modules hold for its restore. Assumption 15 (DEDUCED). -/
def execJobStart (a : HostArgs) (far : Far) (s : State) : Out := hostCmd a 0x20 0 far s

/-- JOB_END. Assumption 56 (DEDUCED). -/
def execJobEnd (a : HostArgs) (s : State) : Out := hostCmd a 0x21 0 farNone s

/-- JOB_RELEASE. -/
def execJobRelease (a : HostArgs) (s : State) : Out := hostCmd a 0x22 0 farNone s

/-- PLAN_CHANGE. -/
def execPlanChange (a : HostArgs) (s : State) : Out := hostCmd a 0x30 0 farNone s

/-- SEED_GET. -/
def execSeedGet (a : HostArgs) (s : State) : Out := hostCmd a 0x40 0 farNone s

/-- SV_LOAD. -/
def execSvLoad (a : HostArgs) (s : State) : Out := hostCmd a 0x50 0 farNone s

/-- SV_CLEAR. -/
def execSvClear (a : HostArgs) (s : State) : Out := hostCmd a 0x51 0 farNone s

/-- SV_SOLVE. -/
def execSvSolve (a : HostArgs) (s : State) : Out := hostCmd a 0x52 0 farNone s

/-- SV_STATE. -/
def execSvState (a : HostArgs) (s : State) : Out := hostCmd a 0x53 0 farNone s

/-- FW_STAGE, with the public key of the image's slot. -/
def execFwStage (a : HostArgs) (key : BitVec 768) (s : State) : Out := hostCmd a 0x60 key farNone s

/-- PACK_INSTALL, with the test-pack key. -/
def execPackInstall (a : HostArgs) (key : BitVec 768) (s : State) : Out := hostCmd a 0x61 key farNone s

/-- A write of CMD_TAIL by function k: an index outside the ring is ignored; the commands up to it are performed (17, R566).
Assumption 19 (DEDUCED); 59 (DEDUCED). -/
def cmdTail (s : State) (k : Nat) (v : Nat) (key : BitVec 768) (far : Far) (all : Bool) : State :=
  if v < (fnOf s k).cmdSize.toNat then
    pumpFn (withFn s k (fun f => { f with cmdTail := BitVec.ofNat 32 v })) k key far all
  else s

/-- CMD_TAIL_WRITE. -/
def execCmdTailWrite (fn : Nat) (v : Word32) (key : BitVec 768) (far : Far) (s : State) : Out :=
  onUnit (decide (fn < 13)) (if ringsServed s then cmdTail s fn v.toNat key far true else s)

/-- A write of 1 to MBOX_GO by function k (17, R566). Assumption 19 (DEDUCED). -/
def mboxGo (s : State) (k : Nat) (key : BitVec 768) (far : Far) (all : Bool) : State :=
  if (fnOf s k).mboxGo then s else pumpFn (withFn s k (fun f => { f with mboxGo := true })) k key far all

/-- MBOX_GO: the mailbox command is performed between two ring commands. -/
def execMboxGo (fn : Nat) (key : BitVec 768) (far : Far) (s : State) : Out :=
  onUnit (decide (fn < 13)) (if ringsServed s then mboxGo s fn key far true else s)

end Sys2Proof.Machine
end

