-- ==== Sys2Proof/Machine/ControlSlot.lean ====
section
/-! DEFINITION. The control-slot and header commands (06, R205 to R209, R221, R232; 08, R274). -/

namespace Sys2Proof.Machine

/-- A bundle whose slot n, by the codes of DB_TRAP_INFO, carries a reserved operation code; the header has none (06, R205). -/
def reservedBundle (n : Nat) : Bundle :=
  match n with
  | 1 => { emptyBundle with ctl := .reserved }
  | 2 => { emptyBundle with scOp := .reserved }
  | 3 => { emptyBundle with arrOp := .reserved }
  | 4 => { emptyBundle with vOp := .reserved }
  | 5 => { emptyBundle with fdOp := .reserved }
  | 6 => { emptyBundle with stOp := .reserved }
  | 7 => { emptyBundle with dmOp := .reserved }
  | _ => emptyBundle

/-- LOOP in every cluster of partition p (06, R206, R207). -/
def execLoop (p : Nat) (count : BitVec 20) (last : BitVec 13) (s : State) : Out :=
  slotExec p { emptyBundle with ctl := .loop count last } s

/-- JUMP in every cluster of partition p (06, R206). -/
def execJump (p : Nat) (target : BitVec 13) (s : State) : Out :=
  slotExec p { emptyBundle with ctl := .jump target } s

/-- VBR_ANY in every cluster of partition p (06, R208, R209). -/
def execVbrAny (p : Nat) (pred : BitVec 3) (target : BitVec 13) (s : State) : Out :=
  slotExec p { emptyBundle with ctl := .vbr false pred target } s

/-- VBR_ALL in every cluster of partition p (06, R208, R209). -/
def execVbrAll (p : Nat) (pred : BitVec 3) (target : BitVec 13) (s : State) : Out :=
  slotExec p { emptyBundle with ctl := .vbr true pred target } s

/-- STEP_END in every cluster of partition p (06, R232). -/
def execStepEnd (p : Nat) (s : State) : Out :=
  slotExec p { emptyBundle with ctl := .stepEnd false } s

/-- HALT in every cluster of partition p (06, R232; 17, R571). -/
def execHalt (p : Nat) (s : State) : Out :=
  slotExec p { emptyBundle with ctl := .stepEnd true } s

/-- BUFFER_WAIT in every cluster of partition p (06, R221; 01, R36). -/
def execBufferWait (p : Nat) (bufs : List (BitVec 6)) (s : State) : Out :=
  slotExec p { emptyBundle with waits := bufs.take 4 } s

/-- BRK in every cluster of partition p (08, R272, R274). -/
def execBrk (p : Nat) (s : State) : Out :=
  slotExec p { emptyBundle with brk := true } s

/-- RESERVED_OPERATION in every cluster of partition p (06, R205). -/
def execReservedOperation (p : Nat) (slot : BitVec 3) (s : State) : Out :=
  slotExec p (reservedBundle slot.toNat) s

end Sys2Proof.Machine
end

