-- ==== Sys2Proof/Machine/DmaSlot.lean ====
section
/-! DEFINITION. The DMA-slot commands (06, R219 to R228). -/

namespace Sys2Proof.Machine

/-- READ in every cluster of partition p (06, R219, R221; 10, R325, R326). -/
def execRead (p : Nat) (a : DmaArgs) (ecc : List EccLine) (s : State) : Out :=
  slotExec p { emptyBundle with dmOp := .read, dm := a } (ecc.foldl lineError s)

/-- WRITE in every cluster of partition p (06, R219 to R227). -/
def execWrite (p : Nat) (a : DmaArgs) (s : State) : Out :=
  slotExec p { emptyBundle with dmOp := .write, dm := a } s

/-- SEND in every cluster of partition p (06, R219 to R227). -/
def execSend (p : Nat) (a : DmaArgs) (s : State) : Out :=
  slotExec p { emptyBundle with dmOp := .send, dm := a } s

/-- RECV in every cluster of partition p (06, R219 to R227). -/
def execRecv (p : Nat) (a : DmaArgs) (s : State) : Out :=
  slotExec p { emptyBundle with dmOp := .recv, dm := a } s

/-- ATOMIC_ADD in every cluster of partition p (06, R219 to R227). -/
def execAtomicAdd (p : Nat) (a : DmaArgs) (s : State) : Out :=
  slotExec p { emptyBundle with dmOp := .atomic false, dm := a } s

/-- ATOMIC_ADD_RELAXED in every cluster of partition p (06, R219 to R227). -/
def execAtomicAddRelaxed (p : Nat) (a : DmaArgs) (s : State) : Out :=
  slotExec p { emptyBundle with dmOp := .atomic true, dm := a } s

/-- HOSTOUT in every cluster of partition p (06, R219 to R227). -/
def execHostout (p : Nat) (a : DmaArgs) (s : State) : Out :=
  slotExec p { emptyBundle with dmOp := .hostout, dm := a } s

/-- REGREAD in every cluster of partition p (06, R219 to R227). -/
def execRegread (p : Nat) (a : DmaArgs) (s : State) : Out :=
  slotExec p { emptyBundle with dmOp := .regread, dm := a } s

/-- SOLVE in every cluster of partition p (06, R219 to R227). -/
def execSolve (p : Nat) (a : DmaArgs) (s : State) : Out :=
  slotExec p { emptyBundle with dmOp := .solve, dm := a } s

/-- SEED in every cluster of partition p (06, R219 to R227). -/
def execSeed (p : Nat) (a : DmaArgs) (s : State) : Out :=
  slotExec p { emptyBundle with dmOp := .seed, dm := a } s

/-- COLL in every cluster of partition p (06, R219 to R227). -/
def execColl (p : Nat) (a : DmaArgs) (s : State) : Out :=
  slotExec p { emptyBundle with dmOp := .coll, dm := a } s

end Sys2Proof.Machine
end

