-- ==== Sys2Proof/Machine/HostRegs.lean ====
section
/-! DEFINITION. What the registers of the emulated window read: identity, functions, partition views, and the windows of the other
chapters (02, R86 to R90; 08, R277 to R282; 10, R347; 12, R417; 13, R448; 14, R484; 15, R526; 16, R551; 17, R555 to R564; 19,
R645). -/

namespace Sys2Proof.Machine

/-- Bits of a number at a place. -/
def put (v lo : Nat) : Nat := v * 2 ^ lo

/-- Word i of 32 bits of some bytes. -/
def byteWord (b : List Byte) (i : Nat) : Nat := leNat ((b.drop (4 * i)).take 4)

/-- Word i of 32 bits of a number. -/
def natWord (v i : Nat) : Nat := bits v (32 * i) 32

/-- The Onyx content that the main domain sees: its copy, the array itself before BOOT_ROM has copied it (20, R653). -/
def onyxSeen (s : State) : Mem 8 := if s.boot.st = .bootRom then s.boot.fuse else s.boot.copy

/-- BOOT_STATE `state` (17). -/
def bootCode (b : BootSt) : Nat :=
  match b with | .bootRom => 0 | .fwVerify => 1 | .start => 2 | .ready => 3 | .failed => 4 | .halted => 5

/-- BOOT_STATE (17). -/
def bootWord (s : State) : Nat := put s.boot.fail.toNat 16 + bootCode s.boot.st

/-- Hub cores at work. -/
def coresUp (s : State) : Nat := countTrue ((List.range 4).map (fun i => s.grid.cores.getLsbD i))

/-- The valid entries of the plan table, one bit each (20, R658). -/
def planMask (m : Mem 8) : Nat := ((List.range 16).map (fun e => if planValid (planEntry m e) then 2 ^ e else 0)).foldl (· + ·) 0

/-- ID_PLAN (17). -/
def idPlan (s : State) : Nat :=
  put (planMask (onyxSeen s)) 16 + put (planCount s) 8 + (if s.boot.planOn then s.boot.plan else 0)

/-- ID_FW_BANKS (17). -/
def idBanks (s : State) : Nat :=
  put s.boot.bankB.result.toNat 10 + put s.boot.bankA.result.toNat 8 + put (b2n s.life.bankB) 1 + b2n s.boot.runB

/-- 32-bit registers of the identity range for function k (17). -/
def identReg (s : State) (k off : Nat) : Nat :=
  match off with
  | 0x00 => 0x38345141
  | 0x04 => memLe (onyxSeen s) 8 1
  | 0x10 => s.boot.fw.toNat
  | 0x14 => idBanks s
  | 0x18 => bootWord s
  | 0x1C => idPlan s
  | 0x20 => put (if k = 0 then 15 else k - 1) 8 + k
  | 0x24 => coresUp s
  | _ => if 0xC0 ≤ off && off < 0xF0 then natWord (fnOf s k).msix.toNat ((off - 0xC0) / 4) else 0

/-- AP_CTRL as function k reads it (17). -/
def apShown (s : State) (k : Nat) : Nat :=
  let v := (fnOf s k).apCtrl.toNat
  if k = 0 then v else v / 16 * 16 + (k - 1)

/-- 32-bit per-function registers (17). -/
def fnReg (s : State) (k off : Nat) : Nat :=
  let f := fnOf s k
  match off with
  | 0x108 => f.cmdSize.toNat
  | 0x10C => f.cmdTail.toNat
  | 0x110 => f.cmdHead.toNat
  | 0x128 => f.evtSize.toNat
  | 0x12C => f.evtHead.toNat
  | 0x130 => f.evtTail.toNat
  | 0x134 => f.evtFilter.toNat
  | 0x140 => f.status.toNat
  | 0x144 => f.conflict.toNat
  | 0x1D0 => b2n f.mboxGo
  | _ =>
    if 0x180 ≤ off && off < 0x1C0 then natWord f.mboxCmd.toNat ((off - 0x180) / 4)
    else if 0x1C0 ≤ off && off < 0x1D0 then natWord f.mboxCpl.toNat ((off - 0x1C0) / 4) else 0

/-- PV_STATE `state` (17). -/
def pvCode (x : PState) : Nat :=
  match x with | .absent => 0 | .idle => 1 | .starting => 2 | .running => 3 | .ended => 4 | .releasing => 5

/-- 32-bit registers of the partition view of p at function k; another partition's view reads 0 on a VF, an absent one
everywhere (17, R554, R563). -/
def pvReg (s : State) (k p r : Nat) : Nat :=
  let q := part s p
  if (k != 0 && k != p + 1) || q.st = .absent then 0
  else match r with
    | 0x00 => put (b2n (jobActive q && q.endReq.isSome)) 4 + put (b2n q.waiting) 3 + pvCode q.st
    | 0x04 => p * ctxPer s
    | 0x08 => ctxPer s
    | 0x0C => q.job.rank
    | 0x20 => q.endWord.toNat
    | _ => 0

/-- REP_STATUS (02). -/
def repStatus (q : Partition) : Nat :=
  put q.rep.trapKind.toNat 8 + put (b2n q.rep.strictTrap) 7 + put (b2n q.rep.logHeld) 6 + put (b2n q.rep.logOver) 5 +
    put (b2n q.rep.exceeded) 4 + put (b2n q.job.foreign) 3 + put (b2n q.job.special) 2 + put (b2n q.job.relaxed) 1 + b2n (jobActive q)

/-- The 16 SEED bytes of the key record. -/
def seedBytes (q : Partition) : List Byte := leBytes 16 q.job.seed

/-- 32-bit registers of the reproducibility window (02). -/
def repReg (s : State) (p off : Nat) : Nat :=
  let q := part s p
  match off with
  | 0x1000 => p
  | 0x1004 => repStatus q
  | 0x1008 => q.rep.ctrl.toNat
  | 0x100C => put (memLe (onyxSeen s) 8 1) 16 + put p 8 + (if s.boot.planOn then s.boot.plan else 0)
  | 0x1060 => q.job.fw
  | 0x10E8 => q.rep.logSize.toNat
  | 0x10EC => q.rep.head.toNat
  | 0x10F0 => q.rep.tail.toNat
  | 0x10F4 => q.rep.lost.toNat
  | _ =>
    if off < 0x1030 then byteWord q.job.imageDigest ((off - 0x1010) / 4)
    else if off < 0x1050 then byteWord q.job.dataDigest ((off - 0x1030) / 4)
    else if off < 0x1060 then byteWord (seedBytes q) ((off - 0x1050) / 4)
    else if 0x1070 ≤ off && off < 0x1090 then byteWord q.job.mapDigest ((off - 0x1070) / 4)
    else if 0x1090 ≤ off && off < 0x10B0 then byteWord q.job.keyDigest ((off - 0x1090) / 4)
    else if 0x1180 ≤ off && off < 0x1200 then natWord q.rep.last.toNat ((off - 0x1180) / 4) else 0

/-- SE_SPARES (15). -/
def spareWord (s : State) : Nat :=
  put (match s.faults.tw with | some w => w.lcl | none => 0x1FF) 16 + put (min s.grid.failed 255) 8 + (sparesNow s).length

/-- SE_TW_STATE (15). -/
def twWord (s : State) : Nat := s.faults.twState.toNat + b2n s.faults.tw.isSome

/-- Score of the unit that a selection names: index, unit, die (15, SE_UNIT_SEL). -/
def unitScore (s : State) (sel : Nat) : Nat :=
  let u : EvSrc := ⟨bits sel 0 8, bits sel 8 8, bits sel 16 16⟩
  if (healthLevels u.unit).isNone then 0 else (healthOf s u).score.toNat

/-- `pack_version` of the installed pack (15, SE_PACK_VER). -/
def packVer (s : State) : Nat := match s.life.pack with | some b => packVersion b | none => 0

/-- 32-bit registers of the error and event window (15). -/
def seReg (s : State) (p off : Nat) : Nat :=
  let q := part s p
  match off with
  | 0x1400 => p
  | 0x1404 => q.se.ctrl.toNat
  | 0x1408 => put (b2n q.se.replaying) 5 + put (b2n q.se.unreplayable) 4 + q.se.status.toNat
  | 0x1458 => q.se.sjPeak.toNat
  | 0x1480 => spareWord s
  | 0x1484 => s.faults.twCtrl.toNat
  | 0x1488 => twWord s
  | 0x148C => packVer s
  | 0x1490 => (fnOf s 0).unitSel.toNat
  | 0x1494 => unitScore s (fnOf s 0).unitSel.toNat
  | _ => 0

/-- CK_STATUS `state` (16). -/
def ckCode (q : Partition) : Nat :=
  if q.ck.stream.isSome then 2 else if q.ck.draining then 4 else if q.ck.restoring then 3 else 0

/-- 32-bit registers of the checkpoint window (16). -/
def ckReg (s : State) (p off : Nat) : Nat :=
  let k := (part s p).ck
  match off with
  | 0x1800 => p
  | 0x1804 => k.period.toNat
  | 0x1808 => k.status.toNat + put (b2n k.stream.isSome) 8 + ckCode (part s p)
  | 0x180C => k.timeout.toNat
  | 0x1818 => k.buddy.toNat
  | 0x181C => k.ward.toNat
  | 0x1870 => k.drainCtrl.toNat
  | _ => 0

/-- PW_STATUS `permit` (19). -/
def permitCode (x : Permit) : Nat := match x with | .run => 0 | .disagree => 1 | .stop => 2 | .fault => 3

/-- PW_STATUS `supply` (19). -/
def supplyCode (x : Supply) : Nat := match x with | .normal => 0 | .hold => 1 | .halted => 2

/-- PW_STATUS (19). -/
def pwStatus (s : State) : Nat :=
  s.gov.status.toNat + put (b2n (fwMode s)) 12 + put (b2n (s.gov.thermal < 112)) 11 + put (supplyCode s.supplies.supply) 8 +
    put (b2n s.supplies.aux) 7 + put (permitCode s.supplies.permit) 2 +
    put (b2n (s.supplies.permHalt || s.gov.halt.toNat.testBit 15 || s.gov.haltMg.getLsbD 12)) 1 + b2n (s.gov.duty != 0)

/-- Operating hours (19, R642). -/
def lifeHours (s : State) : Nat := s.life.seconds / 3600

/-- 32-bit registers of the power window; PW_HALT is PF-only (19). -/
def pwReg (s : State) (k off : Nat) : Nat :=
  match off with
  | 0x1C00 => s.gov.cap
  | 0x1C04 => s.gov.limit
  | 0x1C08 => if k = 0 then s.gov.halt.toNat else 0
  | 0x1C0C => pwStatus s
  | 0x1C10 => put (effLimit s.gov) 16 + effCap s.gov
  | 0x1C14 => put s.gov.point 24 + s.gov.target * 125
  | 0x1C20 => s.gov.temp.toNat
  | 0x1C30 => s.gov.halts.toNat
  | 0x1C34 => put (min s.supplies.faults.toNat 0xFFFF) 16 + min s.supplies.disagree.toNat 0xFFFF
  | 0x1C68 => s.life.cycles % 2 ^ 32
  | 0x1C6C => s.life.boots % 2 ^ 32
  | _ => 0

/-- BS_STATUS (14). Assumption 63 (DEDUCED). -/
def bsStatus (s : State) : Nat :=
  put (b2n s.beryl.frameIgnored) 16 + put (bitsOfList 8 (s.beryl.ctxs.map (fun c => c.poisoned))).toNat 8 +
    (bitsOfList 8 (s.beryl.ctxs.map (fun c => !c.queue.isEmpty))).toNat

/-- 32-bit registers of the solver window (14). -/
def bsReg (s : State) (off : Nat) : Nat :=
  if off = 0x2000 then bsStatus s
  else if off < 0x2100 || 0x2300 ≤ off then 0
  else
    let c := qpCtxAt s ((off - 0x2100) / 0x40)
    match (off - 0x2100) % 0x40 with
    | 0x00 => put (b2n c.enable) 31 + put (b2n c.cfgErr) 30 + put c.part.toNat 16 + c.client.toNat
    | 0x04 => put c.size.toNat 8 + c.base.toNat
    | 0x08 => qpStateWord s c
    | 0x0C => match c.vals with | some v => v.prob.n | none => 0
    | 0x10 => match c.vals with | some v => v.prob.m | none => 0
    | 0x14 => match c.vals with | some v => qpNnzL v.prob.pats | none => 0
    | _ => 0

/-- Code of a link state (12). -/
def linkCode (x : LinkSt) : Nat :=
  match x with
  | .down => 0 | .pmdTrain => 1 | .lock => 2 | .param => 3 | .active => 4 | .retrain => 5 | .miswired => 6 | .failed => 7

/-- LK_PORT_STATE (12). -/
def portWord (s : State) (n : Nat) : Nat :=
  let k := s.ports.getD n lkPortReset
  put k.laneFailed.toNat 24 + (if k.splitAct then put k.b.width 20 + put (linkCode k.b.st) 16 else 0) + put k.a.width 12 +
    put (linkCode k.a.st) 8 + put ((partOfPort s n).getD 0) 4 + put (b2n k.splitAct) 1

/-- May function k see a port (17, R563). -/
def portSeen (s : State) (k n : Nat) : Bool := k = 0 || partOfPort s n = some (k - 1)

/-- 32-bit registers of the link window (12). -/
def lkReg (s : State) (k p off : Nat) : Nat :=
  let l := (part s p).lk
  let n := (fnOf s k).portSel.toNat
  let port := s.ports.getD n lkPortReset
  if 0x2480 ≤ off && !portSeen s k n then 0
  else match off with
    | 0x2400 => p
    | 0x2404 => n
    | 0x2408 => l.job.toNat
    | 0x240C => l.epoch.toNat
    | 0x2418 => l.count.toNat
    | 0x241C => l.pflags.toNat
    | 0x2448 => l.alt.length
    | 0x2480 => put (b2n port.split) 1 + b2n port.enable
    | 0x2484 => portWord s n
    | 0x2498 => port.a.peerPort
    | 0x249C => port.expectPort.toNat
    | 0x24D0 => port.retrains.toNat
    | _ => 0

/-- QZ_STATE (13). -/
def qzState (z : Quartz) : Nat :=
  let d := if qzRole z = 2 then min z.depth 15 else 0
  put d 8 + put (b2n (8 < d)) 4 + put (b2n z.holdSeen) 3 + z.st

/-- Calls begun in this attempt (13, CL_STATUS). -/
def callsOpen (q : Partition) : Nat := countTrue (q.cl.inAttempt.map (fun c => c.begun))

/-- 32-bit registers of the collective, barrier and Quartz window (13). -/
def clReg (s : State) (p off : Nat) : Nat :=
  let c := (part s p).cl
  match off with
  | 0x2600 => p
  | 0x2604 => c.status.toNat + min (callsOpen (part s p)) 64
  | 0x2640 => c.brCtrl.toNat
  | 0x2644 => c.brLead.toNat
  | 0x2690 => s.quartz.ctrl.toNat
  | 0x2694 => qzState s.quartz
  | 0x2698 => s.quartz.offset.toNat
  | 0x269C => s.quartz.delay.toNat
  | 0x26A0 => s.quartz.asym.toNat
  | 0x26A4 => wrapU 32 s.quartz.rate
  | _ => 0

/-- Code of a protected region's state (10, R331). -/
def regionCode (x : RegionState) : Nat :=
  match x with
  | .normal => 0 | .degraded => 1 | .rebuilding => 2 | .rebuilt => 3 | .rebuiltDegraded => 4 | .withdrawn => 5 | .lost => 6

/-- Fewest free poison-directory entries of any stack in service (10, MT_DIR_FREE). -/
def dirFree (s : State) : Nat := (((List.range 8).filter (stackUp s)).map (fun k => 4096 - dirEntries s k)).foldl min 4096

/-- 32-bit registers of the memory-tier window (10). -/
def mtReg (s : State) (p off : Nat) : Nat :=
  let m := (part s p).mem
  match off with
  | 0x2800 => p
  | 0x2804 => m.cfg.toNat
  | 0x2808 => put m.u 24 + put m.p 16 + put m.v 8 + put (b2n m.cfgIgnored) 7 + put (b2n m.lostWrite) 6 + regionCode m.state
  | 0x280C => ((s.tiers.hbmStacks.zipIdx).map (fun e => put e.1 (4 * e.2))).foldl (· + ·) 0
  | 0x2818 => min (poisonLive s p) 0xFFFFFFFF
  | 0x281C => dirFree s
  | 0x2858 => s.tiers.scrubPass.toNat
  | _ => 0

/-- The control register that DBG_CL_SEL names, and its cluster, in partition p: position, index (08, R281). -/
def dbgTarget (s : State) (k p : Nat) : Option (Nat × Nat) :=
  let v := (fnOf s k).dbgClSel.toNat
  (localOf s p (bits v 16 9)).map (fun i => (i, bits v 0 12))

/-- DBG_CL_DATA (08, R281; 05, R198). -/
def dbgData (s : State) (k p : Nat) : Nat :=
  match dbgTarget s k p with
  | none => 0
  | some (i, r) =>
    let c := (part s p).clusters.getD i clusterReset
    let env := envOf s p 0 emptyBundle [] i
    ctlReg env.seq (opKey env) c.core c.trap r

/-- The 64 SRAM bytes at DBG_SRAM_ADDR, while the partition is frozen (08, R281). -/
def dbgSram (s : State) (k p : Nat) : List Byte :=
  match dbgTarget s k p with
  | none => []
  | some (i, _) =>
    if (part s p).seq.frozen then
      sramRead ((part s p).clusters.getD i clusterReset).sram (bits (fnOf s k).dbgSram.toNat 6 17 * 64) 64
    else []

/-- 32-bit registers of the debug window; outside debug mode only DBG_STATUS and DBG_PART_SEL are served (08, R280 to R282). -/
def dbgReg (s : State) (k p off : Nat) : Nat :=
  let q := part s p
  let on := q.job.debug && jobActive q
  match off with
  | 0x2C00 => p
  | 0x2C04 =>
    put (match firstTrap s p with | some e => e.1 | none => 0) 16 + put (b2n q.seq.frozen) 2 + put (b2n (jobActive q)) 1 + b2n on
  | _ =>
    if !on then 0
    else if off = 0x2C10 then (fnOf s k).dbgClSel.toNat
    else if off = 0x2C20 then (fnOf s k).dbgSram.toNat
    else if 0x2C40 ≤ off && off < 0x2C80 then byteWord (dbgSram s k p) ((off - 0x2C40) / 4)
    else if 0x2C80 ≤ off && off < 0x2CA0 then
      (match firstTrap s p with
        | none => 0
        | some (_, t) => natWord (t.info.toNat + put t.cycle.toNat 64 + put t.step.toNat 128 + put t.detail.toNat 192) ((off - 0x2C80) / 4))
    else 0

/-- The 64-bit registers of a function by offset. -/
def fnReg64 (s : State) (k off : Nat) : Option Nat :=
  let f := fnOf s k
  match off with
  | 0x008 => some (memLe (onyxSeen s) 0 8)
  | 0x0F0 => some f.pba.toNat
  | 0x100 => some f.cmdBase.toNat
  | 0x118 => some f.cplBase.toNat
  | 0x120 => some f.evtBase.toNat
  | 0x138 => some (apShown s k)
  | 0x148 => some f.dbDrop.toNat
  | _ => none

/-- The 64-bit registers of a partition view. -/
def pvReg64 (s : State) (k p r : Nat) : Option Nat :=
  let q := part s p
  let hid := (k != 0 && k != p + 1) || q.st = .absent
  match r with
  | 0x10 => some (if hid then 0 else q.seq.step)
  | 0x18 => some (if hid then 0 else q.stepsDone.toNat)
  | _ => none

/-- The 64-bit registers of the reproducibility window. -/
def repReg64 (s : State) (p off : Nat) : Option Nat :=
  let r := (part s p).rep
  match off with
  | 0x10B0 => some r.stepSnap.toNat
  | 0x10B8 => some r.snap.td.toNat
  | 0x10C0 => some r.snap.issued.toNat
  | 0x10C8 => some r.snap.stalled.toNat
  | 0x10D0 => some r.snap.replayCyc.toNat
  | 0x10D8 => some r.snap.pauseNs.toNat
  | 0x10E0 => some r.logBase.toNat
  | _ => if 0x1100 ≤ off && off < 0x1180 && off % 8 = 0 then some (r.snap.causes.getD ((off - 0x1100) / 8) 0).toNat else none

/-- The 64-bit registers of the error and event window. -/
def seReg64 (s : State) (p off : Nat) : Option Nat :=
  let x := (part s p).se
  match off with
  | 0x1410 => some x.hjOff.toNat
  | 0x1418 => some x.hjBytes.toNat
  | 0x1420 => some x.replOff.toNat
  | 0x1428 => some x.replays.toNat
  | 0x1430 => some x.replayNs.toNat
  | 0x1438 => some x.spotDone.toNat
  | 0x1440 => some x.spotSkip.toNat
  | 0x1448 => some x.spotMiss.toNat
  | 0x1450 => some x.lastVerdict.toNat
  | 0x1460 => some x.hjPeak.toNat
  | 0x14A0 => some s.faults.lostHost.toNat
  | 0x14A8 => some s.faults.lostMgmt.toNat
  | 0x14B0 => some s.faults.twDone.toNat
  | 0x14B8 => some s.faults.twPostponed.toNat
  | _ => none

/-- The 64-bit registers of the checkpoint window. -/
def ckReg64 (s : State) (p off : Nat) : Option Nat :=
  let k := (part s p).ck
  match off with
  | 0x1810 => some k.mapOff.toNat
  | 0x1820 => some k.areaOff.toNat
  | 0x1828 => some k.slotBytes.toNat
  | 0x1830 => some k.stageOff.toNat
  | 0x1838 => some k.jobCut.toNat
  | 0x1840 => some k.ownCut.toNat
  | 0x1848 => some k.taken.toNat
  | 0x1850 => some k.failed.toNat
  | 0x1858 => some k.holdNs.toNat
  | 0x1860 => some k.cow.toNat
  | 0x1868 => some k.drainAddr.toNat
  | _ => none

/-- AG_PLAN (19). -/
def agPlan (g : Governor) : Nat :=
  match g.plan with
  | some r => put r.w 48 + put r.g 32 + put r.reason 24 + nth r.steps 8
  | none => 0

/-- The 64-bit registers of the power window. -/
def pwReg64 (s : State) (off : Nat) : Option Nat :=
  match off with
  | 0x1C18 => some (put s.supplies.auxMv 48 + put s.supplies.mainMv 32 + s.supplies.watts)
  | 0x1C28 => some s.gov.holds.toNat
  | 0x1C38 => some s.gov.suppress.toNat
  | 0x1C40 => some (agPlan s.gov)
  | 0x1C48 => some (match s.gov.plan with | some r => r.time.toNat | none => 0)
  | 0x1C50 => some s.gov.canary.toNat
  | 0x1C58 => some (lifeHours s)
  | 0x1C60 => some (s.life.energy % 2 ^ 64)
  | _ => none

/-- The 64-bit registers of the solver window. -/
def bsReg64 (s : State) (off : Nat) : Option Nat :=
  match off with
  | 0x2008 => some s.beryl.frame.toNat
  | 0x2010 => some s.beryl.solves.toNat
  | 0x2018 => some s.beryl.factors.toNat
  | 0x2020 => some s.beryl.eccCorr.toNat
  | _ =>
    if off < 0x2100 || 0x2300 ≤ off then none
    else
      let c := qpCtxAt s ((off - 0x2100) / 0x40)
      match (off - 0x2100) % 0x40 with
      | 0x18 => some c.iters.toNat
      | 0x20 => some c.reqs.toNat
      | 0x28 => some c.refacts.toNat
      | 0x30 => some c.deadlines.toNat
      | 0x38 => some (match c.vals with | some v => qPow2 v.pe | none => 0)
      | _ => none

/-- The 64-bit registers of the link window. -/
def lkReg64 (s : State) (k p off : Nat) : Option Nat :=
  let l := (part s p).lk
  let n := (fnOf s k).portSel.toNat
  let port := s.ports.getD n lkPortReset
  let ofPort (v : Nat) : Option Nat := some (if portSeen s k n then v else 0)
  match off with
  | 0x2410 => some l.base.toNat
  | 0x2420 => some l.stale.toNat
  | 0x2428 => some l.jobDrop.toNat
  | 0x2430 => some l.attemptDrop.toNat
  | 0x2438 => some l.nackRx.toNat
  | 0x2440 => some l.routeRej.toNat
  | 0x2488 => ofPort port.a.peerId.toNat
  | 0x2490 => ofPort port.expectId.toNat
  | 0x24A0 => ofPort port.tx.toNat
  | 0x24A8 => ofPort port.rx.toNat
  | 0x24B0 => ofPort port.replayed.toNat
  | 0x24B8 => ofPort port.crcErr.toNat
  | 0x24C0 => ofPort port.fecCorr.toNat
  | 0x24C8 => ofPort port.fecUncorr.toNat
  | _ =>
    if 0x24D8 ≤ off && off < 0x2518 && off % 8 = 0 then ofPort (port.laneSym.getD ((off - 0x24D8) / 8) 0).toNat else none

/-- The 64-bit registers of the collective, barrier and Quartz window. -/
def clReg64 (s : State) (p off : Nat) : Option Nat :=
  let c := (part s p).cl
  match off with
  | 0x2608 => some c.calls.toNat
  | 0x2610 => some c.refused.toNat
  | 0x2618 => some c.drop.toNat
  | 0x2620 => some c.relaxed.toNat
  | 0x2628 => some c.sigMis.toNat
  | 0x2648 => some c.lastRel.toNat
  | 0x2650 => some c.count.toNat
  | 0x2658 => some c.late.toNat
  | 0x2680 => some s.quartz.ns
  | 0x2688 => some 0
  | _ => none

/-- The 64-bit registers of the memory-tier window. -/
def mtReg64 (s : State) (p off : Nat) : Option Nat :=
  let m := (part s p).mem
  match off with
  | 0x2810 => some m.ptr
  | 0x2820 => some m.corr.toNat
  | 0x2828 => some m.recon.toNat
  | 0x2830 => some m.made.toNat
  | 0x2838 => some m.read.toNat
  | 0x2840 => some m.lostWr.toNat
  | 0x2848 => some m.reject.toNat
  | 0x2850 => some s.tiers.cdRetry.toNat
  | _ => if 0x2880 ≤ off && off < 0x2900 && off % 8 = 0 then some (m.rwin.getD ((off - 0x2880) / 8) 0).toNat else none

/-- The 64-bit register at an offset, as function k sees it. -/
def reg64 (s : State) (k off : Nat) : Option Nat :=
  if off < 0x800 then fnReg64 s k off
  else if off < 0x1000 then (if off < 0x0E00 then pvReg64 s k ((off - 0x800) / 128) (off % 128) else none)
  else if off < 0x1400 then repReg64 s (winPart s k 0) off
  else if off < 0x1800 then seReg64 s (winPart s k 1) off
  else if off < 0x1C00 then ckReg64 s (winPart s k 5) off
  else if off < 0x2000 then pwReg64 s off
  else if off < 0x2400 then bsReg64 s off
  else if off < 0x2600 then lkReg64 s k (winPart s k 3) off
  else if off < 0x2800 then clReg64 s (winPart s k 4) off
  else if off < 0x2C00 then mtReg64 s (winPart s k 2) off
  else if off = 0x2C18 then
    (let p := winPart s k 6
     some (if (part s p).job.debug && jobActive (part s p) then dbgData s k p else 0))
  else none

/-- The 32-bit register at an offset, as function k sees it; reserved offsets read 0. -/
def reg32 (s : State) (k off : Nat) : Nat :=
  if off < 0x100 then identReg s k off
  else if off < 0x800 then fnReg s k off
  else if off < 0x1000 then (if off < 0x0E00 then pvReg s k ((off - 0x800) / 128) (off % 128) else 0)
  else if off < 0x1400 then repReg s (winPart s k 0) off
  else if off < 0x1800 then seReg s (winPart s k 1) off
  else if off < 0x1C00 then ckReg s (winPart s k 5) off
  else if off < 0x2000 then pwReg s k off
  else if off < 0x2400 then bsReg s off
  else if off < 0x2600 then lkReg s k (winPart s k 3) off
  else if off < 0x2800 then clReg s (winPart s k 4) off
  else if off < 0x2C00 then mtReg s (winPart s k 2) off
  else if off < 0x3000 then dbgReg s k (winPart s k 6) off else 0

/-- Does the agent that answers BAR0 serve an offset (20, R654). -/
def regServed (s : State) (off : Nat) : Bool :=
  s.supplies.mainOn && (off < 0x100 || barFull s || (s.boot.st = .failed && decide (off < 0x200)))

/-- The 4 aligned bytes at an offset, the latch left aside: a half of a 64-bit register, or a register (17, R562).
Assumption 60 (DEDUCED). -/
def regWord (s : State) (k off : Nat) : Nat :=
  if !regServed s off then 0
  else match reg64 s k off with
    | some v => natWord v 0
    | none =>
      match (if off % 8 = 4 then reg64 s k (off - 4) else none) with
      | some v => natWord v 1
      | none => reg32 s k off

/-- A read of 4 aligned bytes by function k: the value, and what the read does: it latches the high half of a 64-bit register at
its low half, the latched half answers the read that follows, and RC fields clear (00, R8; 02, R87). -/
def readWord (s : State) (k off : Nat) : Nat × State :=
  let v := match (fnOf s k).latch with
    | some (o, h) => if o = off then h.toNat else regWord s k off
    | none => regWord s k off
  if !regServed s off then (0, s)
  else
    let t := match reg64 s k off with
      | some w => withFn s k (fun f => { f with latch := some (off + 4, BitVec.ofNat 32 (natWord w 1)) })
      | none => s
    (v, if off = 0x144 then withFn t k (fun f => { f with conflict := 0 })
        else if off = 0x148 then withFn t k (fun f => { f with dbDrop := 0 })
        else if off = 0x10F4 then
          withPart t (winPart s k 0) (fun q => { q with rep := { q.rep with lost := 0 } })
        else t)

/-- A BAR0 read of n bytes by function k: 4 or 8 aligned bytes, or bytes of the enclosing 4-byte register (17, R562).
Assumption 59 (DEDUCED). -/
def barRead (s : State) (k off n : Nat) : State :=
  let answer (t : State) (d : List Byte) : State := { t with host := { t.host with lastRead := some (.data d) } }
  if n = 8 && off % 8 = 0 then
    let a := readWord s k off
    let v := match reg64 s k off with | some w => if regServed s off then w else 0 | none => a.1 + put (regWord s k (off + 4)) 32
    let b := match reg64 s k off with | some _ => a.2 | none => (readWord a.2 k (off + 4)).2
    answer b (leBytes 8 v)
  else if (n = 4 && off % 4 = 0) || (n = 2 && off % 2 = 0) || n = 1 then
    let a := readWord s k (off / 4 * 4)
    answer a.2 (((leBytes 4 a.1).drop (off % 4)).take n)
  else s

/-- RC_READ: a BAR0 read of n bytes. Assumption 60 (DEDUCED). -/
def execRcRead (fn : Nat) (off : BitVec 16) (n : BitVec 4) (s : State) : Out :=
  onUnit (decide (fn < 13)) (barRead s fn off.toNat n.toNat)

/-- LOW_HALF_READ: a BAR0 read of 4 bytes at the low half of a 64-bit register, and of the bytes of any narrower read.
Assumption 60 (DEDUCED). -/
def execLowHalfRead (fn : Nat) (off : BitVec 16) (n : BitVec 4) (s : State) : Out :=
  onUnit (decide (fn < 13)) (barRead s fn off.toNat n.toNat)

end Sys2Proof.Machine
end

