-- ==== Sys2Proof/Machine/HostWrites.lean ====
section
/-! DEFINITION. What a write to each register of the emulated window does (02, R81, R88; 08, R281, R282; 10, R319, R340; 12, R412,
R417; 13, R440, R448; 14, R484; 15, R526; 16, R551; 17, R562 to R564; 18, R597, R598; 19, R626, R645). -/

namespace Sys2Proof.Machine

/-- A new value of a function's window selector; 12 to 15 are ignored, and so is a VF (02, REP_PART_SEL). -/
def selWrite (s : State) (k win v : Nat) : State :=
  if k != 0 || 12 ≤ v % 16 then s else withFn s 0 (fun f => { f with sel := f.sel.set win (BitVec.ofNat 4 v) })

/-- Clear the W1C bits of a word that a write names. -/
def w1c {w : Nat} (x : BitVec w) (v mask : Nat) : BitVec w := x &&& ~~~(BitVec.ofNat w (v &&& mask))

/-- Raise the pending vectors of function k whose mask bit has cleared (17, MSIX_TABLE). Assumption 73 (DEDUCED). -/
def msixUnmask (s : State) (k : Nat) : State :=
  (List.range 3).foldl (fun t v =>
    let f := fnOf t k
    if f.pba.getLsbD v && !f.msix.getLsbD (128 * v + 96) then
      raiseVector (withFn t k (fun x => { x with pba := x.pba &&& ~~~(BitVec.ofNat 3 (2 ^ v)) })) k v
    else t) s

/-- A write of CMD_SIZE or EVT_SIZE by function k: 0 or a power of two in its range; the indices become 0, and the ring bases take
effect (17). Assumption 59 (DEDUCED). -/
def ringSize (s : State) (k : Nat) (evt : Bool) (v : Nat) : State :=
  if evt then
    if v = 0 || pow2In v 64 65536 then
      withFn s k (fun f =>
        { f with evtSize := BitVec.ofNat 32 v, evtHead := 0, evtTail := 0, evtBaseEff := f.evtBase &&& ~~~(BitVec.ofNat 64 31) })
    else s
  else if v = 0 || pow2In v 16 4096 then
    withFn s k (fun f =>
      { f with
        cmdSize := BitVec.ofNat 32 v, cmdHead := 0, cmdTail := 0, cplPhase := true, cplBaseEff := f.cplBase,
        cmdBaseEff := f.cmdBase &&& ~~~(BitVec.ofNat 64 63) })
  else s

/-- A write of AP_CTRL: ignored with bits 46:42 or bits below the aperture size nonzero; `part` is PF-only (17, AP_CTRL). -/
def apWrite (s : State) (k v : Nat) : State :=
  if bits v 42 5 != 0 || bits v 30 (s.host.bar4 - 30) != 0 then s
  else
    withFn s k (fun f =>
      { f with apCtrl := BitVec.ofNat 64 (put (bits v 30 18) 30 + (if k = 0 then v % 16 else f.apCtrl.toNat % 16)) })

/-- 32-bit per-function registers (17). Assumption 59 (DEDUCED). -/
def fnWrite (s : State) (k off v : Nat) : State :=
  match off with
  | 0x108 => ringSize s k false v
  | 0x10C => cmdTail s k v 0 farNone false
  | 0x128 => ringSize s k true v
  | 0x12C => withFn s k (fun f => if v < f.evtSize.toNat then { f with evtHead := BitVec.ofNat 32 v } else f)
  | 0x134 => withFn s k (fun f => { f with evtFilter := BitVec.ofNat 32 (v % 16) })
  | 0x140 => withFn s k (fun f => { f with status := w1c f.status v 7 })
  | 0x1D0 => if v.testBit 0 then mboxGo s k 0 farNone false else s
  | _ =>
    if 0xC0 ≤ off && off < 0xF0 then
      msixUnmask (withFn s k (fun f => { f with msix := BitVec.ofNat 384 (setBits f.msix.toNat (8 * (off - 0xC0)) 32 v) })) k
    else if 0x180 ≤ off && off < 0x1C0 then
      withFn s k (fun f => { f with mboxCmd := BitVec.ofNat 512 (setBits f.mboxCmd.toNat (8 * (off - 0x180)) 32 v) })
    else s

/-- Change REP_ registers of a partition. -/
def withRep (s : State) (p : Nat) (f : RepRegs → RepRegs) : State := withPart s p (fun q => { q with rep := f q.rep })

/-- 32-bit registers of the reproducibility window (02). -/
def repWrite (s : State) (k p off v : Nat) : State :=
  match off with
  | 0x1000 => selWrite s k 0 v
  | 0x1004 => withRep s p (fun r =>
      { r with strictTrap := r.strictTrap && !v.testBit 7, logOver := r.logOver && !v.testBit 5, exceeded := r.exceeded && !v.testBit 4 })
  | 0x1008 => withRep s p (fun r => { r with ctrl := BitVec.ofNat 32 (v % 4) })
  | 0x10E8 => withRep s p (fun r => { r with logSize := BitVec.ofNat 32 v })
  | 0x10F0 => logTail s p (BitVec.ofNat 32 v)
  | _ => s

/-- 32-bit registers of the error and event window; module-wide ones are written by the physical function alone (15; 17, R563). -/
def seWrite (s : State) (k p off v : Nat) : State :=
  match off with
  | 0x1400 => selWrite s k 1 v
  | 0x1404 => hostOrder s k (0x302100 + p) (fun t => withSe t p (fun x => { x with ctrl := BitVec.ofNat 32 (v &&& 0xF1) }))
  | 0x1408 => withSe s p (fun x => { x with status := w1c x.status v 15 })
  | _ =>
    if k != 0 then s
    else if off = 0x1484 then
      hostOrder s k 0x3020 (fun t => { t with faults := { t.faults with twCtrl := BitVec.ofNat 32 (v &&& 0x8001FFFF) } })
    else if off = 0x1488 then { s with faults := { s.faults with twState := w1c s.faults.twState v 6 } }
    else if off = 0x1490 then withFn s 0 (fun f => { f with unitSel := BitVec.ofNat 32 v }) else s

/-- Configuration of Agate: ignored under an active job (16, R551). -/
def ckConfig (s : State) (p : Nat) (f : CkRegs → CkRegs) : State :=
  withCk s p (fun c => if jobActive (part s p) then { c with status := c.status ||| 0x800 } else f c)

/-- 32-bit registers of the checkpoint window (16). Assumption 59 (DEDUCED). -/
def ckWrite (s : State) (k p off v : Nat) : State :=
  match off with
  | 0x1800 => selWrite s k 5 v
  | 0x1804 =>
    let t := withCk s p (fun c => { c with period := BitVec.ofNat 16 v })
    if v.testBit 31 then requestCut t p else t
  | 0x1808 => withCk s p (fun c => { c with status := w1c c.status v 0xE00 })
  | 0x180C => if 1000 ≤ v && v ≤ 3600000 then withCk s p (fun c => { c with timeout := BitVec.ofNat 32 v }) else s
  | 0x1818 => ckConfig s p (fun c => { c with buddy := BitVec.ofNat 32 (v % 2 ^ 18) })
  | 0x181C => ckConfig s p (fun c => { c with ward := BitVec.ofNat 32 (v % 2 ^ 18) })
  | 0x1870 =>
    let t := withCk s p (fun c => { c with drainCtrl := w1c c.drainCtrl v 12 &&& 12 ||| BitVec.ofNat 32 (v &&& 2) })
    if v.testBit 0 then drainStart t p else t
  | _ => s

/-- A write of PW_HALT by function k: it is PF-only (19, R626). -/
def haltWrite (s : State) (k v : Nat) : State :=
  if k != 0 then s else noteHalts (withGov s (fun g => { g with halt := BitVec.ofNat 32 (v &&& 0x8FFF) }))

/-- 32-bit registers of the power window (19, R645). -/
def pwWrite (s : State) (k off v : Nat) : State :=
  if k != 0 then s
  else match off with
    | 0x1C00 =>
      let c := v % 2 ^ 12
      if 1200 ≤ c && c ≤ 3000 then withGov s (fun g => { g with cap := c }) else pwNote s 19
    | 0x1C04 =>
      let c := v % 2 ^ 11
      if 600 ≤ c && c ≤ 1400 then retarget (withGov s (fun g => { g with limit := c })) else pwNote s 19
    | 0x1C08 => haltWrite s k v
    | 0x1C0C => withGov s (fun g => { g with status := w1c g.status v 0xF0000 })
    | _ => s

/-- 32-bit registers of the solver window (14). -/
def bsWrite (s : State) (k off v : Nat) : State :=
  if k != 0 then s
  else if off = 0x2000 then
    { s with beryl := { s.beryl with frameIgnored := s.beryl.frameIgnored && !v.testBit 16 } }
  else if off < 0x2100 || 0x2300 ≤ off then s
  else match (off - 0x2100) % 0x40 with
    | 0x00 => qpConfig s k ((off - 0x2100) / 0x40) false v
    | 0x04 => qpConfig s k ((off - 0x2100) / 0x40) true v
    | _ => s

/-- `enable` and `split` of a port take effect: its links stop, or start in PMD_TRAIN (12, link states, R417). -/
def portCtrl (on split : Bool) (k : LkPort) : LkPort :=
  if on = k.enable && split = k.split then k
  else
    { k with
      enable := on, split := split, splitAct := split, a := if on then startLink k.a else linkDown,
      b := if on && split then startLink k.b else linkDown }

/-- A write of LK_PORT_CTRL by function k (12, R412, R417). Assumption 59 (DEDUCED). -/
def portCtrlWrite (s : State) (k n v : Nat) : State :=
  if !portSeen s k n then s
  else
    let port := s.ports.getD n lkPortReset
    let same := v.testBit 0 = port.enable && v.testBit 1 = port.split
    let p := (partOfPort s n).getD 12
    let t := if same then s
      else if jobActive (part s p) then withLk s p (fun l => { l with pflags := l.pflags ||| 1 })
      else withPort s n (portCtrl (v.testBit 0) (v.testBit 1))
    if v.testBit 2 then retrainPort t n else t

/-- Configuration of a partition's links: ignored under an active job (12, R417). -/
def lkConfig (s : State) (p : Nat) (f : LkRegs → LkRegs) : State :=
  withLk s p (fun l => if jobActive (part s p) then { l with pflags := l.pflags ||| 1 } else f l)

/-- 32-bit registers of the link window (12). -/
def lkWrite (s : State) (k p off v : Nat) : State :=
  let n := (fnOf s k).portSel.toNat
  match off with
  | 0x2400 => selWrite s k 3 v
  | 0x2404 => if v % 32 < 24 && portSeen s k (v % 32) then withFn s k (fun f => { f with portSel := BitVec.ofNat 5 v }) else s
  | 0x2408 => lkConfig s p (fun l => { l with job := BitVec.ofNat 32 (v % 2 ^ 16) })
  | 0x240C => lkConfig s p (fun l => { l with epoch := BitVec.ofNat 32 (v % 2 ^ 16) })
  | 0x2418 => lkConfig s p (fun l => { l with count := BitVec.ofNat 32 v })
  | 0x241C => withLk s p (fun l => { l with pflags := w1c l.pflags v 15 })
  | 0x2480 => portCtrlWrite s k n v
  | 0x249C => if portSeen s k n then withPort s n (fun x => { x with expectPort := BitVec.ofNat 32 (v &&& 0x13F) }) else s
  | _ => s

/-- Quartz takes a new QZ_CTRL (13, R440). Assumption 39 (DEDUCED). -/
def qzCtrl (v : Nat) (z : Quartz) : Quartz :=
  let old := z
  let new : Quartz := { z with ctrl := BitVec.ofNat 32 (v &&& 0x33F) }
  if qzRole new = qzRole old && (qzRole new != 2 || bits new.ctrl.toNat 0 6 = bits old.ctrl.toNat 0 6) then new
  else { new with st := qzRole new, rate := 0, depth := 0, sent := none, missed := 0, lost := false }

/-- Change Quartz. -/
def withQz (s : State) (f : Quartz → Quartz) : State := { s with quartz := f s.quartz }

/-- 32-bit registers of the collective, barrier and Quartz window (13). Assumption 59 (DEDUCED). -/
def clWrite (s : State) (k p off v : Nat) : State :=
  let busy := jobActive (part s p)
  match off with
  | 0x2600 => selWrite s k 4 v
  | 0x2604 => withCl s p (fun c => { c with status := w1c c.status v 0xF00 })
  | 0x2640 => if busy then s else withCl s p (fun c => { c with brCtrl := BitVec.ofNat 32 (v % 2 ^ 17) })
  | 0x2644 =>
    if busy || v < 1000 || 1000000 < v then s else withCl s p (fun c => { c with brLead := BitVec.ofNat 32 v })
  | _ =>
    if k != 0 then s
    else match off with
      | 0x2690 => hostOrder s k 0x6030 (fun t => withQz t (qzCtrl v))
      | 0x2694 => withQz s (fun z => { z with holdSeen := z.holdSeen && !v.testBit 3 })
      | 0x26A0 => hostOrder s k 0x6030 (fun t => withQz t (fun z => { z with asym := BitVec.ofNat 32 (v % 2 ^ 16) }))
      | _ => s

/-- Configuration of the memory tiers: ignored under an active job (10, R319, R340). -/
def mtConfig (s : State) (p : Nat) (f : MemRegs → MemRegs) : State :=
  withMem s p (fun m => if jobActive (part s p) then { m with cfgIgnored := true } else f m)

/-- 32-bit registers of the memory-tier window (10). -/
def mtWrite (s : State) (k p off v : Nat) : State :=
  match off with
  | 0x2800 => selWrite s k 2 v
  | 0x2804 => mtConfig s p (fun m => { m with cfg := BitVec.ofNat 32 (v % 2 ^ 17) })
  | 0x2808 => withMem s p (fun m =>
      { m with cfgIgnored := m.cfgIgnored && !v.testBit 7, lostWrite := m.lostWrite && !v.testBit 6 })
  | _ => s

/-- A write of DBG_CL_DATA by function k: it reaches AC_PEEK_SEL alone, bits 31:0 of it (08, R281). -/
def dbgDataWrite (s : State) (k : Nat) (v : Nat) : State :=
  let p := winPart s k 6
  let q := part s p
  if !(q.job.debug && jobActive q) then s
  else match dbgTarget s k p with
    | some (i, 0x210) =>
      withCluster s p i (fun c =>
        { c with core := { c.core with accum := { c.core.accum with peekSel := BitVec.ofNat 64 (v % 2 ^ 32) } } })
    | _ => s

/-- 32-bit registers of the debug window (08, R280 to R282). -/
def dbgWrite (s : State) (k p off v : Nat) : State :=
  let q := part s p
  if off = 0x2C00 then selWrite s k 6 v
  else if !(q.job.debug && jobActive q) then s
  else match off with
    | 0x2C08 => if v.testBit 1 then debugEnd s p else if v.testBit 0 then resumePart s p else s
    | 0x2C10 => withFn s k (fun f => { f with dbgClSel := BitVec.ofNat 32 (v &&& 0x1FF0FFF) })
    | 0x2C20 => withFn s k (fun f => { f with dbgSram := BitVec.ofNat 32 (v &&& 0x7FFFC0) })
    | _ => s

/-- A write of 4 aligned bytes to a 32-bit register by function k. -/
def write32 (s : State) (k off v : Nat) : State :=
  if off < 0x800 then fnWrite s k off v
  else if off < 0x1000 then s
  else if off < 0x1400 then repWrite s k (winPart s k 0) off v
  else if off < 0x1800 then seWrite s k (winPart s k 1) off v
  else if off < 0x1C00 then ckWrite s k (winPart s k 5) off v
  else if off < 0x2000 then pwWrite s k off v
  else if off < 0x2400 then bsWrite s k off v
  else if off < 0x2600 then lkWrite s k (winPart s k 3) off v
  else if off < 0x2800 then clWrite s k (winPart s k 4) off v
  else if off < 0x2C00 then mtWrite s k (winPart s k 2) off v
  else if off < 0x3000 then dbgWrite s k (winPart s k 6) off v else s

/-- QZ_LOAD by function k (13, R440). Assumption 39 (DEDUCED). -/
def qzLoad (s : State) (k v : Nat) : State :=
  if k = 0 && qzRole s.quartz = 1 then withQz s (fun z => { z with ns := v, frac := 0 }) else s

/-- A write of a whole 64-bit register by function k; a read-only one ignores it. -/
def write64 (s : State) (k off v : Nat) : State :=
  let x : Word64 := BitVec.ofNat 64 v
  match off with
  | 0x100 => withFn s k (fun f => { f with cmdBase := x })
  | 0x118 => withFn s k (fun f => { f with cplBase := x })
  | 0x120 => withFn s k (fun f => { f with evtBase := x })
  | 0x138 => apWrite s k v
  | 0x10E0 => withRep s (winPart s k 0) (fun r => { r with logBase := x })
  | 0x1410 => withSe s (winPart s k 1) (fun r => { r with hjOff := x })
  | 0x1418 => withSe s (winPart s k 1) (fun r => { r with hjBytes := x })
  | 0x1420 => withSe s (winPart s k 1) (fun r => { r with replOff := x })
  | 0x1810 => ckConfig s (winPart s k 5) (fun c => { c with mapOff := x })
  | 0x1820 => ckConfig s (winPart s k 5) (fun c => { c with areaOff := x })
  | 0x1828 => ckConfig s (winPart s k 5) (fun c => { c with slotBytes := x })
  | 0x1830 => ckConfig s (winPart s k 5) (fun c => { c with stageOff := x })
  | 0x1868 => withCk s (winPart s k 5) (fun c => { c with drainAddr := x })
  | 0x2008 => frameWrite s k v
  | 0x2410 => lkConfig s (winPart s k 3) (fun l => { l with base := x })
  | 0x2490 =>
    let n := (fnOf s k).portSel.toNat
    if portSeen s k n then withPort s n (fun p => { p with expectId := x }) else s
  | 0x2688 => qzLoad s k v
  | 0x2C18 => dbgDataWrite s k v
  | _ =>
    if 0x2880 ≤ off && off < 0x2900 then
      mtConfig s (winPart s k 2) (fun m => { m with rwin := m.rwin.set ((off - 0x2880) / 8) (BitVec.ofNat 64 (v &&& 0x30003FFFF)) })
    else s

/-- What the half that a 4-byte write leaves alone holds: of QZ_LOAD the time now, of any other register what it reads. -/
def otherHalf (s : State) (k base : Nat) : Nat := if base = 0x2688 then s.quartz.ns else (reg64 s k base).getD 0

/-- A write of 4 aligned bytes by function k: a half of a 64-bit register, or a register (17, R562; 08, R281). -/
def writeWord (s : State) (k off v : Nat) : State :=
  match reg64 s k off with
  | some _ => write64 s k off (setBits (otherHalf s k off) 0 32 v)
  | none =>
    if off % 8 = 4 && (reg64 s k (off - 4)).isSome then write64 s k (off - 4) (setBits (otherHalf s k (off - 4)) 32 32 v)
    else write32 s k off v

/-- A BAR0 write by function k: 4 or 8 aligned bytes are performed (17, R562); the agent that answers serves the offset (20,
R654). Assumption 59 (DEDUCED). -/
def barWrite (s : State) (k off : Nat) (w : WriteArgs) : State :=
  let v := w.v.toNat
  let ok (o : Nat) : Bool := regServed s o && (decide (0xC0 ≤ o) && (barFull s || s.boot.st = .failed))
  if !ok off then s
  else if !w.wide then (if off % 4 = 0 then writeWord s k off (v % 2 ^ 32) else s)
  else if off % 8 != 0 then s
  else match reg64 s k off with
    | some _ => write64 s k off v
    | none => writeWord (writeWord s k off (v % 2 ^ 32)) k (off + 4) (v / 2 ^ 32)

/-- REGISTER_WRITE by a function. -/
def execRegisterWrite (fn : Nat) (off : BitVec 16) (w : WriteArgs) (s : State) : Out :=
  onUnit (decide (fn < 13)) (barWrite s fn off.toNat w)

/-- RING_SIZE_WRITE of CMD_SIZE, or of EVT_SIZE where `evt`. -/
def execRingSizeWrite (fn : Nat) (evt : Bool) (v : Word32) (s : State) : Out :=
  onUnit (decide (fn < 13)) (if ringsServed s then ringSize s fn evt v.toNat else s)

/-- HALT_REQUEST: a write of PW_HALT. -/
def execHaltRequest (fn : Nat) (v : Word32) (s : State) : Out :=
  onUnit (decide (fn < 13)) (if barFull s then haltWrite s fn v.toNat else s)

/-- DBG_CL_DATA_WRITE: 8 bytes, or the low half. -/
def execDbgClDataWrite (fn : Nat) (w : WriteArgs) (s : State) : Out :=
  onUnit (decide (fn < 13)) (barWrite s fn 0x2C18 w)

end Sys2Proof.Machine
end

