-- ==== Sys2Proof/Machine/HostOps.lean ====
section
/-! DEFINITION. Doorbells, the BAR4 aperture, Function Level Reset, and the PCIe link (10, R324, R329; 17, R555 to R558, R572,
R573; 20, R649, R654). -/

namespace Sys2Proof.Machine

/-- The queue context of a doorbell of function k at an offset of BAR2, if it is one (17, R555, R573). -/
def bellCtx (s : State) (k off : Nat) : Option Nat :=
  let j := off / 8
  if off % 8 != 0 then none
  else if k = 0 then (if (partOfCtx s j).isSome then some j else none)
  else if k ≤ planCount s && j < ctxPer s then some ((k - 1) * ctxPer s + j) else none

/-- A doorbell write of function k: the producer index, or a drop (17, R572, R573; 20, R654).
Assumption 59 (DEDUCED). -/
def doorbell (s : State) (k off v : Nat) : State :=
  let n := v % 2 ^ 32
  let drop := withFn s k (fun f => { f with dbDrop := satInc f.dbDrop 1 })
  match bellCtx s k off with
  | none => drop
  | some c =>
    match s.host.ctxs.find? (fun x => x.k = c) with
    | none => drop
    | some x => if !fwWorks s || x.size ≤ n then drop else withCtx s c (fun y => { y with tail := n })

/-- DOORBELL. -/
def execDoorbell (fn : Nat) (off : BitVec 16) (v : Word64) (s : State) : Out :=
  onUnit (decide (fn < 13)) (doorbell s fn off.toNat v.toNat)

/-- The partition of a function's BAR4 aperture, and the HBM-space offset of byte `off` (17, R556).
Assumption 36 (DEDUCED). -/
def aperture (s : State) (k off : Nat) : Nat × Nat :=
  let a := (fnOf s k).apCtrl.toNat
  (if k = 0 then a % 16 else k - 1, put (bits a 30 18) 30 + off)

/-- May the host reach n bytes at an HBM-space offset of partition p through BAR4 (17, R556). -/
def apertureOk (s : State) (p off n : Nat) : Bool :=
  decide (p < planCount s) && decide (off < 2 ^ 48) && !off.testBit 46 && inSlice (part s p) off n && !privateTo s p off n

/-- A refused access through BAR4 (17, R556). Assumption 36 (DEDUCED). -/
def apertureRefuse (s : State) (p : Nat) : State := if p < 12 then rejectAccess s p else sendEvent s srcFw 15 0x0565 0

/-- A read of n bytes through BAR4 (10, R329; 17, R556). Assumption 36 (DEDUCED). -/
def bar4Read (s : State) (k off n : Nat) : State :=
  let a := aperture s k off
  let answer (t : State) (x : ReadAns) : State := { t with host := { t.host with lastRead := some x } }
  if 2 ^ s.host.bar4 < off + n || n = 0 || 4096 < n then s
  else if !apertureOk s a.1 a.2 n then answer (apertureRefuse s a.1) .abort
  else
    let bad := hbmBad s a.1 a.2 n
    let t := countPoisonRead s a.1 bad.length
    answer t (if bad.isEmpty then .data (hbmBytes s a.1 a.2 n) else .poisoned n)

/-- BAR4_READ. -/
def execBar4Read (fn : Nat) (off : Word64) (n : BitVec 13) (s : State) : Out :=
  onUnit (decide (fn < 13)) (bar4Read s fn off.toNat n.toNat)

/-- A write through BAR4: not a committed write (10, R324; 17, R556). -/
def bar4Write (s : State) (k off : Nat) (d : List Byte) : State :=
  let a := aperture s k off
  if 2 ^ s.host.bar4 < off + d.length || d.isEmpty then s
  else if !apertureOk s a.1 a.2 d.length then apertureRefuse s a.1 else hbmStore .quiet s a.1 a.2 d

/-- BAR4_WRITE. -/
def execBar4Write (fn : Nat) (off : Word64) (data : List Byte) (s : State) : Out :=
  onUnit (decide (fn < 13)) (bar4Write s fn off.toNat data)

/-- The ring registers of a function are zero, and what it performed is dropped (17, R557). Assumption 57 (DEDUCED). -/
def fnLevel (f : Fn) : Fn :=
  { f with
    cmdBase := 0, cmdBaseEff := 0, cmdSize := 0, cmdTail := 0, cmdHead := 0, cplBase := 0, cplBaseEff := 0, cplPhase := true,
    evtBase := 0, evtBaseEff := 0, evtSize := 0, evtHead := 0, evtTail := 0, mboxGo := false, waits := [] }

/-- A Function Level Reset of VF p: its job ends at once with cause 3, its contexts are deconfigured (17, R557).
Assumption 57 (DEDUCED). -/
def partLevel (s : State) (p : Nat) : State :=
  let t := jobEnd s p 3 0
  { t with host := { t.host with ctxs := t.host.ctxs.filter (fun c => partOfCtx t c.k != some p) } }

/-- The seed requests of function k are dropped. Assumption 57 (DEDUCED). -/
def dropSeeds (s : State) (k : Nat) : State :=
  withNoise s (fun n => { n with waits := n.waits.filter (fun r => !(r.who = 12 && r.fn = k)) })

/-- A Function Level Reset of function k; of the physical function, of all (17, R557). Assumption 57 (DEDUCED). -/
def functionReset (s : State) (k : Nat) : State :=
  if k = 0 then
    let t := (List.range 12).foldl partLevel s
    withNoise { t with host := { t.host with fns := t.host.fns.map fnLevel } } (fun n =>
      { n with waits := n.waits.filter (fun r => r.who != 12) })
  else withFn (dropSeeds (partLevel s (k - 1)) k) k fnLevel

/-- FUNCTION_LEVEL_RESET. -/
def execFunctionLevelReset (fn : Nat) (s : State) : Out := onUnit (decide (fn < 13)) (functionReset s fn)

/-- PERST: as a Function Level Reset of the physical function (20, R649). Assumption 57 (DEDUCED). -/
def execPerst (s : State) : Out := .next (functionReset s 0)

/-- PCIE_LINK_DOWN. -/
def execPcieLinkDown (s : State) : Out := .next { s with host := { s.host with up := false } }

/-- A held write is delivered (17, R558). Assumption 73 (DEDUCED). -/
def deliverHeld (s : State) (w : HostWrite) : State :=
  match w with
  | .data a d => hostWrite s a d
  | .event k e => ringEvent k e s
  | .step a d r =>
    let t := hostWrite s a d
    match r with | some (k, v) => raiseVector t k v | none => t

/-- PCIE_LINK_UP: the endpoint trains while the main domain is on, and the held writes go out in order (17, R558; 19, R611).
Assumption 10 (DESIGN CHOICE). -/
def execPcieLinkUp (s : State) : Out :=
  .next (if !s.supplies.mainOn || s.host.up then s
    else
      s.host.held.foldl deliverHeld { s with host := { s.host with up := true, held := [] } })

end Sys2Proof.Machine
end

