-- ==== Sys2Proof/Machine/StartOps.lean ====
section
/-! DEFINITION. Resets, the life record and start-up: the main domain off and on, boot ROM, firmware verification, margin plan, test
packs, the logical machine and the boot plan (01, R23, R24; 17, R559; 18, R590; 19, R634, R638, R642, R644; 20, R648 to R658). -/

namespace Sys2Proof.Machine

/-- The valid flash copy with the higher sequence number (19, R642). -/
def newestCopy (a b : Option LifeCopy) : Option LifeCopy :=
  match a.filter (·.valid), b.filter (·.valid) with
  | some x, some y => some (if x.seq < y.seq then y else x)
  | some x, none => some x
  | none, y => y

/-- Commit the life record: the other copy than the newest takes it with the next sequence number (19, R642).
Assumption 44 (DEDUCED). -/
def commitLife (s : State) : State :=
  let n : Nat := match newestCopy s.copyA s.copyB with | some c => c.seq + 1 | none => 1
  let c : LifeCopy := { seq := n, life := s.life, valid := true }
  let aNewest : Bool := match s.copyA with | some x => x.valid && decide (x.seq + 1 = n) | none => false
  if aNewest then { s with copyB := some c } else { s with copyA := some c }

/-- Change the life record. -/
def withLife (s : State) (f : Life → Life) : State := { s with life := f s.life }

/-- Change the management controller. -/
def withMgmt (s : State) (f : Mgmt → Mgmt) : State := { s with mgmt := f s.mgmt }

/-- An event for the management network and the life record alone: no firmware serves the host path yet (17, R559; 19, R620; 20,
R650). -/
def mgmtSend (s : State) (src : EvSrc) (code detail : Nat) : State :=
  let e := mkEvent s src 15 code detail
  lifeEvent (mgmtEvent s e) e

/-- Send a record that the life record kept for the next start (19, R620; 20, R650). Assumption 43 (DEDUCED). -/
def sendOwed (s : State) : State :=
  withLife (s.life.owed.foldl mgmtEvent s) (fun l => { l with owed := [] })

/-- The main domain at its reset values: what management holds and what lies in the always-on domain stays (18, R598; 20, R648).
Assumption 43 (DEDUCED). -/
def mainReset (s : State) : State :=
  { s with
    parts := (List.range 12).map (fun p =>
      if s.mgmt.seHeld.getLsbD p then { partReset with se := { partReset.se with ctrl := (part s p).se.ctrl } } else partReset),
    tiers := tiersReset, ports := List.replicate 24 lkPortReset,
    quartz := (if s.mgmt.qzHeld then { quartzReset with ctrl := s.quartz.ctrl, asym := s.quartz.asym } else quartzReset),
    beryl := berylReset, noise := noiseReset, grid := gridReset,
    faults := (if s.mgmt.twHeld then { faultsReset with twCtrl := s.faults.twCtrl } else faultsReset),
    host := { hostReset with mem := s.host.mem, irqs := s.host.irqs, bar4 := s.host.bar4 },
    gov := { governorReset with capMg := s.gov.capMg, limitMg := s.gov.limitMg, haltMg := s.gov.haltMg, trip := s.gov.trip,
                                cold := s.gov.cold },
    supplies := { s.supplies with supply := .normal, watts := 0 },
    boot := { bootReset with fuse := s.boot.fuse, bankA := { s.boot.bankA with result := 0 },
                             bankB := { s.boot.bankB with result := 0 } } }

/-- The main domain turns off: every job is lost without a step boundary (19, R612). Assumption 43 (DEDUCED). -/
def mainOff (s : State) : State := let t := mainReset s; withSup t (fun u => { u with mainOn := false })

/-- May the main domain be on, as far as the stored conditions go (19, R611, R613; 20, R650).
Assumption 43 (DEDUCED). -/
def mayEnable (s : State) : Bool :=
  s.supplies.aon && s.supplies.started && s.supplies.mated && s.supplies.enable && !s.gov.trip && !s.supplies.over_ &&
    !s.supplies.overrun

/-- h of every slot at a module start: the stored value plus 2^16 (18, R590). -/
def floorsOf (l : Life) : List Nat := l.floors.map (fun n => n + 65536)

/-- A collector after a module start: its messages are numbered afresh (18, R601). -/
def collStart (c : Collector) : Collector := { c with n := 0, open_ := [], sentTo := 0 }

/-- Management at a module start (18, R590, R591, R601, R604). Assumption 45 (DEDUCED). -/
def mgmtStart (s : State) : State :=
  withMgmt s (fun m =>
    { m with
      h := floorsOf s.life, startAt := s.life.clock, nodeNow := m.nodeId.getD m.strap.toNat, portNow := m.udpPort,
      coll := m.coll.map collStart })

/-- A module reset: the main domain turns on and enters BOOT_ROM (20, R648, R650). Assumption 43 (DEDUCED). -/
def moduleReset (s : State) : State :=
  let t := mainReset s
  let u := withLife (withSup t (fun x => { x with mainOn := true, safe := false })) (fun l => { l with boots := l.boots + 1 })
  commitLife (sendOwed (mgmtStart u))

/-- MODULE_RESET: a turn-on of the main domain, where the conditions of R611 hold. -/
def execModuleReset (s : State) : Out := .next (if mayEnable s then moduleReset s else s)

/-- Change start-up. -/
def withBoot (s : State) (f : Boot → Boot) : State := { s with boot := f s.boot }

/-- Start-up fails (20, R650). -/
def bootFails (s : State) (code : Nat) : State := withBoot s (fun b => { b with st := .failed, fail := BitVec.ofNat 16 code })

/-- BOOT_ROM_DONE: the PLLs are locked and Onyx is copied, or its sense mismatch persists (20, R650, R653). -/
def execBootRomDone (mismatch : Bool) (s : State) : Out :=
  .next (
    if s.boot.st != .bootRom || !s.supplies.mainOn then s
    else if mismatch then mgmtSend (bootFails s 0x05F1) srcFw 0x05F1 0
    else withBoot s (fun b => { b with st := .fwVerify, copy := b.fuse }))

/-- The boot ROM checks a bank with the public key of its slot; true where it passes (17, R559). -/
def bankTry (s : State) (isB : Bool) (key : BitVec 768) : State × Bool :=
  let bank := if isB then s.boot.bankB else s.boot.bankA
  let img := bankImage bank
  let c := fwCheck s.boot.copy img key
  let note (k : FwBank) : FwBank := { k with result := if c = 0 then 1 else 2 }
  let t := withBoot s (fun b => if isB then { b with bankB := note b.bankB } else { b with bankA := note b.bankA })
  if c = 0 then
    (withBoot t (fun b =>
      { b with st := .start, runB := isB, fw := BitVec.ofNat 32 (fieldAt img 8 4), sec := fieldAt img 12 2, byFw := true }), true)
  else (mgmtSend t srcFw 0x0502 (b2n isB + c * 256), false)

/-- FW_VERIFY: the preferred bank, then the other (17, R559; 20, R650). -/
def execFwVerify (keyA keyB : BitVec 768) (s : State) : Out :=
  .next (
    if s.boot.st != .fwVerify then s
    else
      let pref := s.life.bankB
      let a := bankTry s pref (if pref then keyB else keyA)
      if a.2 then a.1
      else
        let b := bankTry a.1 (!pref) (if pref then keyA else keyB)
        if b.2 then b.1 else mgmtSend (bootFails b.1 0x0503) srcFw 0x0503 0)

/-- `wear` of a cluster from its ring count, the fused ring count, kt and the temperature of its die (19, R638).
Assumption 22 (DESIGN CHOICE). -/
def wear (ring r0 : Nat) (kt theta : Int) : Nat :=
  if r0 = 0 then (Config.wearUnburned ring).toNat
  else
    let r : Int := (ring : Int) + shrInt ((ring : Int) * kt * (theta - 50)) 20
    ((((r0 : Int) - r) * 4096) / (r0 : Int)).toNat

/-- `fmax` of a point in MHz less what a wear takes (19, R638). -/
def worn (f0 w : Nat) : Int := (f0 : Int) - ((f0 * w / 4096 : Nat) : Int)

/-- A point of the plan in steps of 12.5 MHz, from fmax, wear, guardband, its voltage and the highest Vmin in mV (19, R638). -/
def planPoint (k f0 w g vmin : Nat) : Nat :=
  let q := min (shlInt (worn f0 w - g) 1 / 25) 112
  if q < 48 || 650 + 25 * k < vmin + 25 then 0 else q.toNat

/-- The fused fmax of point k, MHz (20, R657). -/
def fuseF0 (copy : Mem 8) (k : Nat) : Nat := memLe copy (0x450 + 2 * k) 2

/-- The wear of physical cluster c, as measured (19, R638). -/
def wearOf (copy : Mem 8) (a : StartArgs) (c : Nat) : Nat :=
  wear (nth a.rings c) (memLe copy (0x50 + 2 * c) 2) (signExt 16 (memLe copy 0x462 2)) (a.thetas.getD (c / 32) 50)

/-- The factory disabled set (20, R657). Assumption 42 (DEDUCED). -/
def factoryDisabled (copy : Mem 8) : BitVec 512 := BitVec.ofNat 512 (memLe copy 0x10 64)

/-- Physical clusters outside a set. -/
def outside (x : BitVec 512) : List Nat := (List.range 512).filter (fun c => !x.getLsbD c)

/-- The guardband of the plan before: 50 MHz until two plans are recorded (19, R638). -/
def gPrev (l : Life) : Nat := if l.plans.length < 2 then 50 else match l.plans with | r :: _ => r.g | [] => 50

/-- Clusters that wear retires: below 1,000 MHz at point 8 (19, R638). Assumption 42 (DEDUCED). -/
def wornOut (copy : Mem 8) (a : StartArgs) (g : Nat) (cs : List Nat) : List Nat :=
  cs.filter (fun c => decide (worn (fuseF0 copy 8) (wearOf copy a c) - g < 1000))

/-- `make_plan` over the wear w of the clusters that remain (19, R638). Assumption 44 (DEDUCED). -/
def makePlan (copy : Mem 8) (l : Life) (vmins : List Nat) (w : Nat) : Nat × Nat × List Nat :=
  let wl := match l.plans with | r :: _ => r.w | [] => 0
  let g := if l.plans.length < 2 then 50 else 25 + fuseF0 copy 8 * (w - wl) / 4096
  (wl, g, (List.range 9).map (fun k => planPoint k (fuseF0 copy k) w g (vmins.foldl max 0)))

/-- Retire a cluster by wear (19, R638). -/
def retire (s : State) (c : Nat) : State :=
  sendEvent (withLife s (fun l => { l with clusters := l.clusters ||| BitVec.ofNat 512 (2 ^ c) })) (srcCl c) 15 0x04E2 c

/-- T_thr by the operating hours of the life record (19, R634). Assumption 46 (DEDUCED). -/
def tthrOf (l : Life) : Nat := if l.seconds < 3600 then 85 else 95

/-- Steps 1 and 2 of R651: thermal control and the margin plan. Assumption 42 (DEDUCED). -/
def startPlan (s : State) (a : StartArgs) : State :=
  let copy := s.boot.copy
  let s1 := withGov s (fun g => { g with thermal := 80, tthr := tthrOf s.life })
  let out0 := factoryDisabled copy ||| s.life.clusters
  let gone := wornOut copy a (gPrev s.life) (outside out0)
  let s2 := gone.foldl retire s1
  let w := ((outside (factoryDisabled copy ||| s2.life.clusters)).map (wearOf copy a)).foldl max 0
  let r := makePlan copy s.life a.vmins w
  let pl : PlanRec := { time := BitVec.ofNat 64 s.quartz.ns, w := w, wLast := r.1, g := r.2.1, reason := 0, steps := r.2.2 }
  let s3 := withGov (withLife s2 (fun l => { l with plans := (pl :: l.plans).take 16 })) (fun g => { g with plan := some pl })
  sendEvent s3 srcFw 15 0x02E0 (w + r.2.1 * 65536)

/-- Step 3 of R651: bridges, M-stacks, and links that begin training (10, R338; 12, R381).
Assumption 71 (DESIGN CHOICE). -/
def startMemory (s : State) : State :=
  { s with
    grid := { s.grid with bridges := bridgesReset, reroute := [] },
    tiers := { s.tiers with hbmStacks := (List.range 8).map (fun k => b2n (s.life.hbmStacks.getLsbD k)), poison := [] },
    ports := s.ports.map (fun p =>
      if p.enable then { p with splitAct := p.split, a := startLink p.a, b := if p.split then startLink p.b else p.b } else p) }

/-- Does the installed pack verify (15, R520). -/
def packVerifies (s : State) (key : BitVec 768) : Bool :=
  match s.life.pack with | some b => packOk s.boot.fw.toNat b && packSigned s.boot.copy b key | none => false

/-- Steps 4 and 5 of R651: the test packs, the disabled set and the table; none where no table can be made (01, R23, R24). -/
def startTable (s : State) (a : StartArgs) : Option State × State :=
  let known := factoryDisabled s.boot.copy ||| s.life.clusters
  let bad := a.failed &&& ~~~known
  let dis := known ||| bad
  let t : State :=
    { s with
      faults := { s.faults with packUsed := packVerifies s a.packKey }, grid := { s.grid with testFailed := bad, disabled := dis } }
  ((assignLogical dis).map (fun tb => spareWarn { t with grid := { t.grid with table := tb } }), t)

/-- The valid plan entries, lowest first (20, R658). -/
def validPlans (copy : Mem 8) : List Nat := (List.range 16).filter (fun e => planValid (planEntry copy e))

/-- Quartz takes the role that 0x6030 holds, else FREE (20, R651 step 6). -/
def startQuartz (s : State) : State :=
  withQz s (fun z =>
    let y : Quartz := if s.mgmt.qzHeld then z else { z with ctrl := BitVec.ofNat 32 (setBits z.ctrl.toNat 8 2 0) }
    { y with st := qzRole y, rate := 0, depth := 0, sent := none, missed := 0, lost := false })

/-- The life clock takes the time of a Quartz that is MASTER or LOCKED and differs by more than a second, once per start (19,
R644). Assumption 44 (DEDUCED). -/
def takeClock (s : State) : State :=
  let q := s.quartz
  let far := decide (q.ns + 1000000000 < s.life.clock) || decide (s.life.clock + 1000000000 < q.ns)
  if !s.boot.clockSet && (q.st = 1 || q.st = 3) && far then
    withBoot (withLife s (fun l => { l with clock := q.ns })) (fun b => { b with clockSet := true })
  else s

/-- Steps 6 and 7 of R651: the boot plan, Quartz, READY (20, R651, R656; log entry 12). Assumption 12 (DEDUCED). -/
def startReady (s : State) : State :=
  match validPlans s.boot.copy with
  | [] => sendEvent (bootFails s 0x05F1) srcFw 15 0x05F1 0
  | e0 :: rest =>
    let want := s.mgmt.bootPlan
    let use := if (e0 :: rest).contains want then want else e0
    let s1 := if use = want then s else sendEvent s srcFw 15 0x02F5 0
    let s2 := takeClock (startQuartz (putPlan s1 use))
    let s3 := withBoot (withGov s2 (fun g => setTarget g (min 48 (limitSteps g)))) (fun b => { b with st := .ready })
    let s4 := withLife s3 (fun l => { l with first := some (l.first.getD s3.quartz.ns) })
    commitLife (sendEvent s4 srcFw 15 0x02F6 ((s4.quartz.ns - s4.boot.goodAt) / 1000000))

/-- START runs to READY or FAILED (20, R650, R651). Assumption 12 (DEDUCED). -/
def startRun (s : State) (a : StartArgs) : State :=
  let s1 := startPlan s a
  if planTop s1.gov = 0 then sendEvent (bootFails s1 0x04E0) srcFw 15 0x04E0 0
  else
    let r := startTable (startMemory s1) a
    match r.1 with
    | none => sendEvent (bootFails r.2 0x0401) srcFw 15 0x0401 (outside r.2.grid.disabled).length
    | some t => startReady t

/-- START: firmware performs R651 with what it measures. Assumption 15 (DEDUCED). -/
def execStart (a : StartArgs) (s : State) : Out :=
  .next (
    if s.boot.st != .start || !s.supplies.mainOn then s
    else startRun (withBoot (advance s a.dt) (fun b => { b with models := a.models })) a)

/-- START_PHASE_TIMEOUT: a phase exceeds its bound (20, R650, R652). Assumption 43 (DEDUCED). -/
def execStartPhaseTimeout (phase : BitVec 4) (s : State) : Out :=
  let n := phase.toNat
  let fails : State := bootFails s 0x04F1
  .next (
    if n = 1 then mgmtSend s srcFw 0x04F1 1
    else if n = 2 then
      if s.supplies.mainOn && s.boot.st != .bootRom then s
      else mgmtSend (withSup (mainOff s) (fun u => { u with overrun := true })) srcPower 0x04F1 2
    else if (n = 3 && s.boot.st = .bootRom) || (n = 4 && s.boot.st = .fwVerify) then mgmtSend fails srcFw 0x04F1 n
    else if 5 ≤ n && n ≤ 8 && s.boot.st = .start then sendEvent fails srcFw 15 0x04F1 n else s)

/-- Mark what a flash copy shows at always-on start. -/
def checkCopy (c : Option LifeCopy) (bad : Bool) : Option LifeCopy := c.map (fun x => { x with valid := x.valid && !bad })

/-- The life record that the copies give: the newest valid one, with one gap more on its clock; empty where none was written, empty
with `history_lost` where none is valid (19, R642, R644). Assumption 44 (DEDUCED). -/
def lifeFrom (a b : Option LifeCopy) : Life :=
  match newestCopy a b with
  | some c => { c.life with gaps := c.life.gaps + 1 }
  | none => { lifeEmpty with lost := a.isSome || b.isSome }

/-- Is exactly one of the written copies invalid (19, R642). -/
def oneBad (a b : Option LifeCopy) : Bool :=
  let bad (c : Option LifeCopy) : Bool := match c with | some x => !x.valid | none => false
  (bad a || bad b) && (newestCopy a b).isSome

/-- The always-on domain after its reset: dictionary objects at their defaults, keys and life record as the carrier keeps them (18,
R590, R604; 19, R625, R644; 20, R648; 21, R668). Assumption 44 (DEDUCED); 45 (DEDUCED). -/
def alwaysOnReset (s : State) (a : PowerOnArgs) : State :=
  let ca := checkCopy s.copyA a.badA
  let cb := checkCopy s.copyB a.badB
  let l := lifeFrom ca cb
  let m : Mgmt :=
    { mgmtReset with
      keys := s.mgmt.keys, h := floorsOf l, dup := a.dup, strap := a.straps, nodeId := l.nodeId,
      nodeNow := l.nodeId.getD a.straps.toNat, startAt := l.clock }
  let mv := a.mv.toNat
  let u : Supplies :=
    { suppliesReset with
      aux := !a.main, auxOver := !a.main && decide (13200 < mv), started := a.main && decide (40000 < mv),
      main := a.main && decide (38000 ≤ mv), mainMv := if a.main then mv else 0, auxMv := if a.main then 0 else mv,
      fromMain := a.main, mainOn := false, mated := false }
  let t := mainReset { s with mgmt := m, supplies := u, life := l, copyA := ca, copyB := cb, gov := governorReset }
  if oneBad ca cb then mgmtSend t srcFw 0x05E0 0 else t

/-- ALWAYS_ON_POWER_ON: the first input becomes present. -/
def execAlwaysOnPowerOn (a : PowerOnArgs) (s : State) : Out := .next (if s.supplies.aon then s else alwaysOnReset s a)

/-- The life record as the flash keeps it once the always-on domain is off: the counters stand at their last commit (19, R642,
R644). Assumption 44 (DEDUCED). -/
def lifeKept (s : State) : Life :=
  match newestCopy s.copyA s.copyB with
  | some c => { s.life with seconds := c.life.seconds, energy := c.life.energy, clock := c.life.clock }
  | none => { s.life with seconds := 0, energy := 0, clock := 0 }

/-- ALWAYS_ON_HOLD_UP_END: both inputs are lost and the hold-up ends (19, R608, R642). -/
def execAlwaysOnHoldUpEnd (s : State) : Out :=
  .next (
    if !s.supplies.aon || s.supplies.aux || s.supplies.main then s
    else withSup (commitLife (mainOff { s with life := lifeKept s })) (fun u => { u with aon := false }))

end Sys2Proof.Machine
end

