-- ==== Sys2Proof/Machine/PowerOps.lean ====
section
/-! DEFINITION. Inputs, supply holds, run permits, governors, thermal control, canaries, the in-service re-plan and the commit of the
life record (19, R608 to R644; 21, R667, R671, R674). -/

namespace Sys2Proof.Machine

/-- The always-on domain's feed: the auxiliary input while it is present and not above 13.2 V, else the main input (19, R608; 21,
R671). -/
def feed (u : Supplies) : Supplies := { u with fromMain := u.main && (!u.aux || u.auxOver) }

/-- AUX_PRESENT: the auxiliary input has risen above 10.5 V (19, R609). -/
def execAuxPresent (mv : BitVec 16) (s : State) : Out :=
  .next (
    if !s.supplies.aon || mv.toNat ≤ 10500 then s
    else withSup s (fun u => feed { u with aux := true, auxMv := mv.toNat, auxOver := decide (13200 < mv.toNat) }))

/-- AUX_ABSENT: the auxiliary input has fallen below 10.0 V (19, R609, R610). -/
def execAuxAbsent (mv : BitVec 16) (s : State) : Out :=
  .next (
    if !s.supplies.aon || 10000 ≤ mv.toNat then s
    else withSup s (fun u => feed { u with aux := false, auxOver := false, auxMv := mv.toNat }))

/-- AUX_OVERVOLTAGE: the auxiliary input has risen above 13.2 V (21, R671). -/
def execAuxOvervoltage (mv : BitVec 16) (s : State) : Out :=
  .next (
    if !s.supplies.aon || mv.toNat ≤ 13200 then s
    else withSup s (fun u => feed { u with aux := true, auxOver := true, auxMv := mv.toNat }))

/-- The main input stands at a level above its reset level (19, R609, R613). -/
def mainReads (mv : Nat) (u : Supplies) : Supplies :=
  feed { u with
         mainMv := mv, main := u.main || decide (38000 ≤ mv), started := decide (40000 < mv), over_ := u.over_ && decide (60500 ≤ mv) }

/-- MAIN_ENABLE: the short presence contact has been mated for 10 ms and the main input stands at mv; the main domain turns on where
the other conditions hold (19, R611, R613). -/
def execMainEnable (mv : BitVec 16) (s : State) : Out :=
  let t := withSup s (fun u => { mainReads mv.toNat u with mated := true })
  .next (if !s.supplies.aon then s else if !t.supplies.mainOn && mayEnable t then moduleReset t else t)

/-- SURPRISE_REMOVAL: the short presence contact breaks (19, R612). -/
def execSurpriseRemoval (s : State) : Out :=
  let t := withSup s (fun u => { u with mated := false })
  .next (if s.supplies.mainOn then commitLife (withLife (mainOff t) (fun l => { l with removals := l.removals + 1 })) else t)

/-- OVER_VOLTAGE: the main input has risen above 62 V (19, R613). -/
def execOverVoltage (mv : BitVec 16) (s : State) : Out :=
  .next (
    if !s.supplies.aon || mv.toNat ≤ 62000 || s.supplies.over_ then s
    else
      let t := mainOff (withSup s (fun u => { mainReads mv.toNat u with over_ := true }))
      mgmtSend (withLife t (fun l => { l with overs := l.overs + 1 })) srcPower 0x08E9 0)

/-- A write of 0x2070.01. A 1 after a 0 clears a trip latch and an overrun (19, R614, R635; 20, R650). -/
def setEnable (s : State) (v : Bool) : State :=
  if v then
    if s.supplies.enable then s
    else
      withGov (withSup s (fun u => { u with enable := true, safe := false, overrun := false })) (fun g => { g with trip := false })
  else withSup (commitLife (mainOff (withSup s (fun u => { u with enable := false })))) (fun u => { u with safe := true })

/-- Is the module idle for RWI (18, R592). -/
def moduleIdle (s : State) : Bool := s.parts.all (fun q => q.st = .absent || q.st = .idle || q.st = .ended)

/-- ORDERLY_REMOVAL: 0x2070.01 is written to 0 on an idle module (19, R614). -/
def execOrderlyRemoval (s : State) : Out := .next (if moduleIdle s then setEnable s false else s)

/-- Change the holds of every partition. -/
def allHolds (s : State) (f : BitVec 16 → BitVec 16) : State :=
  { s with parts := s.parts.map (withSeq (fun x => { x with holds := f x.holds })) }

/-- MAIN_BELOW_WARNING: the main input has fallen below W (19, R616). Assumption 18 (DESIGN CHOICE); 48 (DEDUCED). -/
def execMainBelowWarning (mv : BitVec 16) (dt : Word64) (s : State) : Out :=
  let t := withSup (advance s dt) (fun u => { u with mainMv := mv.toNat, started := decide (40000 < mv.toNat) })
  .next (
    if s.supplies.warnMv ≤ mv.toNat then s
    else if !t.supplies.mainOn || t.supplies.supply != .normal then
      withSup t (fun u => { u with holdMv := min u.holdMv mv.toNat })
    else
      let h := withSup t (fun u => { u with supply := .hold, holdAt := t.life.clock, holdMv := mv.toNat })
      let c := withLife (withGov h (fun g => { g with holds := satInc g.holds 1 })) (fun l => { l with holds := l.holds + 1 })
      sendEvent (allHolds c (fun x => x ||| 0x2000)) srcPower 15 0x08E4 0)

/-- MAIN_ABOVE_RESUME: the main input has risen above W + 1.0 V; low is the lowest level since it fell below W (19, R617,
R618). Assumption 48 (DEDUCED). -/
def execMainAboveResume (mv low : BitVec 16) (dt : Word64) (s : State) : Out :=
  let t := withSup (advance s dt) (mainReads mv.toNat)
  .next (
    if mv.toNat ≤ s.supplies.warnMv + 1000 then s
    else match t.supplies.supply with
      | .normal => t
      | .halted => withSup t (fun u => { u with supply := .normal })
      | .hold =>
        let u := allHolds (withSup t (fun u => { u with supply := .normal })) (fun x => x &&& 0xDFFF)
        let us := (t.life.clock - t.supplies.holdAt) / 1000
        sendEvent u srcPower 15 0x08E5 (us % 2 ^ 32 + put (min low.toNat t.supplies.holdMv) 32))

/-- The orderly halt of a partition: a cut in progress fails, the job ends (19, R618; 16, R542 reason 5).
Assumption 48 (DEDUCED). -/
def orderlyHalt (s : State) (p : Nat) : State := if jobActive (part s p) then jobEnd (dropStream s p) p 4 0x08E6 else s

/-- HOLD_LIMIT_EXPIRY: the hold limit passes first (19, R618). Assumption 48 (DEDUCED). -/
def execHoldLimitExpiry (s : State) : Out :=
  .next (
    if s.supplies.supply != .hold then s
    else
      let t := withSup s (fun u => { u with supply := .halted })
      let c := withLife (withGov t (fun g => { g with halts := satInc g.halts 1 })) (fun l => { l with halts := l.halts + 1 })
      (List.range 12).foldl orderlyHalt (pwNote c 17))

/-- Event 0x08E7 from the always-on domain, or kept for the next start where the auxiliary input is absent (19, R620). -/
def resetEvent (s : State) : State :=
  if s.supplies.aux then mgmtSend s srcPower 0x08E7 0
  else
    let e := mkEvent s srcPower 15 0x08E7 0
    withLife (lifeEvent s e) (fun l => { l with owed := l.owed ++ [e] })

/-- MAIN_BELOW_RESET: the main input has fallen below 38 V (19, R610, R620, R635; 20, R650). -/
def execMainBelowReset (mv : BitVec 16) (s : State) : Out :=
  .next (
    if 38000 ≤ mv.toNat || !s.supplies.main then s
    else
      let t := withGov (withSup s (fun u =>
        feed { u with main := false, started := false, over_ := false, overrun := false, mainMv := mv.toNat }))
        (fun g => { g with trip := false })
      if !s.supplies.mainOn then t else resetEvent (withLife (mainOff t) (fun l => { l with resets := l.resets + 1 })))

/-- A permit channel: energised at 9.0 V or above, de-energised at 6.0 V or below, else as it was (19, R622). -/
def permitReads (was : Bool) (mv : Int) : Bool := if 9000 ≤ mv then true else if mv ≤ 6000 then false else was

/-- The permit halt is raised (19, R623, R626). -/
def permitHalt (s : State) : State := noteHalts (withSup s (fun u => { u with permHalt := true }))

/-- A permit event. -/
def permitEvent (s : State) (code : Nat) : State := sendEvent s srcPermit 15 code 0

/-- RUN is entered: the halt is withdrawn (19, R623). -/
def permitRun (s : State) : State := withSup s (fun u => { u with permit := .run, permHalt := false, t := 0 })

/-- STOP is entered (19, R623). -/
def permitStop (s : State) : State := permitEvent (permitHalt (withSup s (fun u => { u with permit := .stop, t := 0 }))) 0x08E1

/-- FAULT is entered (19, R623). -/
def permitFault (s : State) : State :=
  let t := withSup s (fun u => { u with permit := .fault, faults := satInc u.faults 1 })
  permitEvent (permitHalt (withLife (pwNote t 16) (fun l => { l with permitFaults := l.permitFaults + 1 }))) 0x08E0

/-- One channel is energised while the other is not: t counts up to T (19, R623). -/
def permitSplit (s : State) (t : Nat) : State :=
  if s.supplies.discMs ≤ t then permitFault s else withSup s (fun u => { u with permit := .disagree, t := t })

/-- The permit state at a sample that shows readings a and b (19, R623, R624). Assumption 50 (DEDUCED). -/
def permitNext (s : State) (a b : Bool) : State :=
  match s.supplies.permit with
  | .run => if a && b then s else if a || b then withSup s (fun u => { u with permit := .disagree, t := 1 }) else permitStop s
  | .disagree =>
    if a && b then
      withLife (withSup (permitRun s) (fun u => { u with disagree := satInc u.disagree 1 })) (fun l => { l with disagree := l.disagree + 1 })
    else if a || b then permitSplit s (s.supplies.t + 1) else permitStop s
  | .stop =>
    if a && b then permitEvent (permitRun s) 0x08E2
    else if a || b then withSup s (fun u => { u with permit := .disagree, t := 1 }) else s
  | .fault =>
    if !s.supplies.clearAsked then s
    else
      let t := withSup s (fun u => { u with clearAsked := false, clearDone := some (a && b) })
      if a && b then permitEvent (permitRun t) 0x08E2 else t

/-- PERMIT_SAMPLE: levels of PERMIT_A and PERMIT_B against PERMIT_RTN, mV (19, R622, R623; 21, R667). -/
def execPermitSample (a b : Int) (dt : Word64) (s : State) : Out :=
  let t := advance s dt
  let ra := permitReads t.supplies.permA a
  let rb := permitReads t.supplies.permB b
  .next (if !s.supplies.aon then s else permitNext (withSup t (fun u => { u with permA := ra, permB := rb })) ra rb)

/-- A write of 1 to 0x2030.04: in FAULT it waits for the next sample (19, R624). Assumption 50 (DEDUCED). -/
def askClear (s : State) : State :=
  withSup s (fun u => if u.permit = .fault then { u with clearAsked := true, clearDone := none } else u)

/-- PERMIT_FAULT_CLEAR. Assumption 50 (DEDUCED). -/
def execPermitFaultClear (s : State) : Out := .next (askClear s)

/-- HALT_BOUND_EXPIRY: a partition has not reached a boundary within the halt bound (19, R627). -/
def execHaltBoundExpiry (p : Nat) (s : State) : Out :=
  onUnit (decide (p < 12))
    (if (part s p).st = .running && (part s p).haltAt.isSome then jobEnd s p 4 0x08E8 else s)

/-- The duty level after a window of 10 µs (19, R630). Assumption 47 (DEDUCED). -/
def dutyNext (c w duty : Nat) : Nat := if 97 * c < 100 * w then min 3 (duty + 1) else if 100 * w < 94 * c then duty - 1 else duty

/-- FAST_PATH_WINDOW: average main-input power of a 10 µs window, W (19, R630). -/
def execFastPathWindow (watts : BitVec 16) (s : State) : Out :=
  .next (withGov s (fun g =>
    if !s.supplies.mainOn then g
    else
      let d := dutyNext (effCap g) watts.toNat g.duty
      { g with duty := d, suppressed := g.suppressed || d != 0 || g.duty != 0 }))

/-- The CCLK target after 100 µs: down one step where the fast path suppressed; up one step below 0.90 C where it has not for 1 ms
(19, R631). Assumption 12 (DEDUCED); 47 (DEDUCED). -/
def slowTarget (g : Governor) (w : Nat) : Nat :=
  if g.suppressed then max 48 (g.target - 1)
  else if 100 * w < 90 * effCap g && decide (9 ≤ g.quiet) && decide (g.target < limitSteps g) then g.target + 1 else g.target

/-- SLOW_PATH: average main-input power of the last 1 ms, W (19, R631, R632). -/
def execSlowPath (watts : BitVec 16) (s : State) : Out :=
  .next (
    if !s.supplies.mainOn || s.gov.target = 0 || s.gov.replan = .paused then s
    else
      let w := watts.toNat
      retarget (withSup (withGov s (fun g =>
        { setTarget g (slowTarget g w) with
          suppressed := g.duty != 0, quiet := if g.suppressed then 0 else min 9 (g.quiet + 1) })) (fun u => { u with watts := w })))

/-- Is a junction or an M-stack at or above its limiting value (19, R633). Assumption 46 (DEDUCED). -/
def thermHot (g : Governor) (a : ThermalArgs) : Bool := decide (g.tthr ≤ a.junction.toNat) || decide (85 ≤ a.stack.toNat)

/-- Are junctions and M-stacks below their release values (19, R633). Assumption 46 (DEDUCED). -/
def thermCool (g : Governor) (a : ThermalArgs) : Bool := decide (a.junction.toNat + 5 < g.tthr) && decide (a.stack.toNat < 80)

/-- Is a sensor at or above its trip value (19, R635). Assumption 46 (DEDUCED). -/
def thermTrips (a : ThermalArgs) : Bool := decide (110 ≤ a.junction.toNat) || decide (95 ≤ a.stack.toNat)

/-- The thermal rule's own state after a sample (19, R633). Assumption 46 (DEDUCED). -/
def thermStep (g : Governor) (a : ThermalArgs) : Governor :=
  let inlet := a.inlet.toNat
  let cap : Bool := decide (45 ≤ inlet) || (g.inletCap && decide (43 ≤ inlet))
  let cool := if thermCool g a then min 100 (g.cool + 1) else 0
  let n := if thermHot g a then max 48 (g.thermal - 1) else if cool = 100 then min 112 (g.thermal + 1) else g.thermal
  { g with
    thermal := if cap then min 80 n else n, cool := cool, inletCap := cap,
    inletSeen := decide (40 < inlet) || (g.inletSeen && decide (38 ≤ inlet)),
    temp := BitVec.ofNat 32 (put a.outlet.toNat 24 + put inlet 16 + put a.stack.toNat 8 + a.junction.toNat),
    tripN := if thermTrips a then g.tripN + 1 else 0 }

/-- The thermal cycle counter after a sample (19, R643). -/
def cycleStep (s : State) (junction : Nat) : State :=
  let cold := s.gov.cold || decide (junction < 45)
  if cold && decide (85 < junction) then
    withLife (withGov s (fun g => { g with cold := false })) (fun l => { l with cycles := l.cycles + 1 })
  else withGov s (fun g => { g with cold := cold })

/-- A thermal trip: every job ends, the main domain turns off, the trip latches (19, R635). Assumption 46 (DEDUCED). -/
def tripNow (s : State) : State :=
  let t := (List.range 12).foldl (fun u p => jobEnd u p 4 0x08EB) s
  mainOff (withLife (withGov t (fun g => { g with trip := true })) (fun l => { l with trips := l.trips + 1 }))

/-- THERMAL_TRIP. -/
def execThermalTrip (s : State) : Out := .next (if s.supplies.mainOn then tripNow s else s)

/-- THERMAL_ADJUST: the sensors every 1 ms (19, R633, R635, R643). -/
def execThermalAdjust (a : ThermalArgs) (s : State) : Out :=
  .next (
    if !s.supplies.mainOn then s
    else
      let warm : Bool := thermHot s.gov a || decide (40 < a.inlet.toNat)
      let s1 := cycleStep (withGov s (fun g => thermStep g a)) a.junction.toNat
      let s2 := if warm then pwNote s1 18 else s1
      let s3 := if decide (40 < a.inlet.toNat) && !s.gov.inletSeen then sendEvent s2 srcPower 15 0x04E1 0 else s2
      if 2 ≤ s3.gov.tripN then tripNow s3 else retarget s3)

/-- The plan after a canary trip: the point in use and every higher usable one fall to the tripped CCLK less one step (19,
R640). Assumption 49 (DEDUCED). -/
def trippedPlan (g : Governor) (r : PlanRec) : PlanRec :=
  let n := if g.target - 1 < 48 then 0 else g.target - 1
  { r with steps := r.steps.mapIdx (fun k f => if g.point ≤ k then min f n else f) }

/-- A canary trip (19, R640). Assumption 49 (DEDUCED). -/
def canaryTrip (s : State) : State :=
  let t := withGov s (fun g =>
    let h := { g with plan := g.plan.map (trippedPlan g), canary := satInc g.canary 1 }
    { setTarget h (max 48 (g.target - 1)) with
      replan := if g.replan = .none then .scheduled else g.replan,
      replanAt := if g.replan = .none then s.quartz.ns else g.replanAt })
  retarget (withLife t (fun l => { l with canary := l.canary + 1 }))

/-- CANARY_SAMPLE: the lowest slack of a millisecond, ps. -/
def execCanarySample (slack : BitVec 16) (s : State) : Out :=
  .next (if isReady s && s.gov.target != 0 && decide (slack.toNat < 10) then canaryTrip s else s)

/-- The holds of cause 12 are released and the re-plan is tried again after 1 s (19, R641). Assumption 49 (DEDUCED). -/
def replanRetry (s : State) : State :=
  withGov (allHolds s (fun x => x &&& 0xEFFF)) (fun g => { g with replan := .scheduled, replanAt := s.quartz.ns + 1000000000 })

/-- MARGIN_REPLAN: firmware raises the holds of a scheduled re-plan, or looks at the holds it has raised (19, R641). -/
def execMarginReplan (s : State) : Out :=
  .next (match s.gov.replan with
    | .none | .paused => s
    | .scheduled =>
      if s.quartz.ns < s.gov.replanAt then s
      else replanCheck (withGov (allHolds s (fun x => x ||| 0x1000)) (fun g => { g with replan := .holding, replanAt := s.quartz.ns }))
    | .holding =>
      let t := replanCheck s
      if t.gov.replan = .holding && decide (s.gov.replanAt + 100000000 ≤ s.quartz.ns) then replanRetry s else t)

/-- The plan of a re-plan enters the life record (19, R638, R641). Assumption 49 (DEDUCED). -/
def replanRecord (s : State) : State :=
  match s.gov.plan with
  | none => s
  | some r =>
    let n : PlanRec := { r with time := BitVec.ofNat 64 s.quartz.ns, wLast := r.w, reason := 1 }
    let t := withGov (withLife s (fun l => { l with plans := (n :: l.plans).take 16 })) (fun g => { g with plan := some n })
    sendEvent t srcFw 15 0x02E0 (n.w + n.g * 65536)

/-- CCLK_RELOCK_DONE: the pause and the holds end (19, R641; 02, R84). Assumption 49 (DEDUCED). -/
def execCclkRelockDone (dt : Word64) (s : State) : Out :=
  let t := advance s dt
  let paused := t.quartz.ns - s.gov.replanAt
  let note (q : Partition) : Partition :=
    if q.st = .running then { q with rep := { q.rep with live := { q.rep.live with pauseNs := satInc q.rep.live.pauseNs paused } } }
    else q
  .next (
    if s.gov.replan != .paused then s
    else
      let u : State := { allHolds t (fun x => x &&& 0xEFFF) with parts := (allHolds t (fun x => x &&& 0xEFFF)).parts.map note }
      retarget (replanRecord (withGov u (fun g => { g with replan := .none, point := pointFor g g.target }))))

/-- LIFE_RECORD_COMMIT: seconds of operation and Wh since the last commit (19, R634, R642, R644). -/
def execLifeRecordCommit (secs wh : BitVec 32) (s : State) : Out :=
  .next (
    if !s.supplies.aon then s
    else
      let t := takeClock (withLife s (fun l =>
        { l with seconds := if s.supplies.mainOn then l.seconds + secs.toNat else l.seconds, energy := l.energy + wh.toNat }))
      commitLife (if t.supplies.mainOn && t.gov.target != 0 then withGov t (fun g => { g with tthr := tthrOf t.life }) else t))

end Sys2Proof.Machine
end

