-- ==== Sys2Proof/Machine/Dictionary.lean ====
section
/-! DEFINITION. The object dictionary: the objects, their values, the checks of a write and what a write does; owner fuse programming
(18, R592 to R606; 19, R646; 20, R660 to R664). -/

namespace Sys2Proof.Machine

/-- Management access codes (18). -/
inductive Access where
  | ro | rw | wo | rwi | const | fuse
deriving DecidableEq, Repr

/-- Objects of an index: subindices lo to hi, type code, access, and whether the value lies in the main domain (18, R585). -/
structure ObjRow where
  /-- Index. -/
  index : Nat
  /-- Lowest subindex. -/
  lo : Nat
  /-- Highest subindex. -/
  hi : Nat
  /-- Type code. -/
  typ : Nat
  /-- Access. -/
  acc : Access
  /-- The value lies in the main domain. -/
  main : Bool
deriving DecidableEq, Repr

/-- Identity and communication (18, R604). -/
def rowsComm : List ObjRow :=
  [⟨0x1000, 1, 1, 5, .const, false⟩, ⟨0x1000, 2, 2, 2, .const, false⟩, ⟨0x1000, 3, 3, 10, .const, false⟩,
    ⟨0x1000, 4, 5, 4, .ro, true⟩, ⟨0x1010, 1, 1, 11, .const, false⟩, ⟨0x1010, 2, 5, 2, .rw, false⟩,
    ⟨0x1010, 6, 6, 3, .rw, false⟩, ⟨0x1030, 1, 4, 2, .ro, false⟩, ⟨0x1030, 5, 7, 5, .ro, false⟩,
    ⟨0x1031, 1, 4, 5, .ro, false⟩]

/-- A collector (18, R604). -/
def rowsColl (i : Nat) : List ObjRow :=
  [⟨i, 1, 1, 11, .rw, false⟩, ⟨i, 2, 2, 3, .rw, false⟩, ⟨i, 3, 4, 2, .rw, false⟩, ⟨i, 5, 5, 1, .rw, false⟩,
    ⟨i, 6, 6, 2, .ro, false⟩, ⟨i, 7, 8, 5, .ro, false⟩]

/-- Power and thermal (18, R604; 19, R646). -/
def rowsPower : List ObjRow :=
  [⟨0x2010, 1, 1, 3, .rw, false⟩, ⟨0x2010, 2, 2, 3, .ro, true⟩, ⟨0x2011, 1, 1, 3, .rw, false⟩, ⟨0x2011, 2, 2, 3, .ro, true⟩,
    ⟨0x2020, 1, 13, 1, .rw, false⟩, ⟨0x2030, 1, 2, 3, .rw, false⟩, ⟨0x2030, 3, 3, 2, .rw, false⟩,
    ⟨0x2030, 4, 4, 1, .wo, false⟩, ⟨0x2030, 5, 5, 3, .rw, false⟩, ⟨0x2040, 1, 2, 8, .ro, false⟩, ⟨0x2040, 3, 3, 8, .ro, true⟩,
    ⟨0x2050, 1, 1, 2, .ro, true⟩, ⟨0x2050, 2, 3, 3, .ro, true⟩, ⟨0x2060, 1, 1, 2, .ro, false⟩, ⟨0x2060, 2, 3, 5, .ro, false⟩,
    ⟨0x2070, 1, 1, 1, .rwi, false⟩, ⟨0x2070, 2, 2, 1, .ro, false⟩]

/-- Errors and reliability (18, R604). -/
def rowsErrors : List ObjRow :=
  [⟨0x3010, 1, 1, 5, .ro, true⟩, ⟨0x3020, 1, 1, 1, .rw, true⟩, ⟨0x3020, 2, 2, 4, .rw, true⟩, ⟨0x3020, 3, 3, 1, .rw, true⟩,
    ⟨0x3021, 1, 12, 2, .rw, true⟩, ⟨0x3022, 1, 12, 1, .rw, true⟩, ⟨0x3030, 1, 1, 2, .ro, true⟩, ⟨0x3030, 2, 3, 4, .ro, true⟩,
    ⟨0x3030, 4, 4, 5, .ro, true⟩, ⟨0x3030, 5, 5, 2, .ro, true⟩, ⟨0x3040, 1, 2, 2, .ro, true⟩, ⟨0x3050, 1, 1, 4, .ro, false⟩,
    ⟨0x3050, 2, 2, 4, .rw, false⟩, ⟨0x3050, 3, 3, 11, .wo, false⟩, ⟨0x3050, 4, 4, 4, .wo, true⟩, ⟨0x3060, 1, 1, 4, .rw, false⟩,
    ⟨0x3060, 2, 2, 4, .ro, true⟩]

/-- Life record, partitions and protection (18, R604; 19, R646; 20, fuse objects). -/
def rowsLife : List ObjRow :=
  [⟨0x4010, 1, 2, 5, .ro, false⟩, ⟨0x4010, 3, 3, 4, .ro, false⟩, ⟨0x4010, 4, 4, 9, .ro, false⟩, ⟨0x4010, 5, 5, 4, .ro, false⟩,
    ⟨0x4010, 6, 6, 9, .ro, false⟩, ⟨0x4010, 7, 7, 4, .ro, false⟩, ⟨0x4010, 8, 8, 1, .ro, false⟩, ⟨0x4020, 1, 1, 11, .ro, false⟩,
    ⟨0x4030, 1, 1, 3, .rw, false⟩, ⟨0x4030, 2, 2, 11, .ro, false⟩, ⟨0x5010, 1, 1, 2, .rwi, false⟩, ⟨0x5010, 2, 2, 2, .ro, true⟩,
    ⟨0x5011, 1, 1, 1, .rw, false⟩, ⟨0x5012, 1, 16, 3, .fuse, false⟩, ⟨0x5013, 1, 1, 2, .fuse, false⟩,
    ⟨0x5013, 2, 2, 2, .ro, false⟩, ⟨0x5014, 1, 1, 2, .fuse, false⟩, ⟨0x5014, 2, 2, 3, .fuse, false⟩,
    ⟨0x5020, 1, 12, 2, .ro, true⟩, ⟨0x5030, 1, 4, 12, .fuse, false⟩, ⟨0x5030, 5, 5, 2, .fuse, false⟩]

/-- Reproducibility, telemetry, checkpoint and fleet (18, R604). -/
def rowsFleet : List ObjRow :=
  [⟨0x6010, 1, 12, 5, .ro, true⟩, ⟨0x6011, 1, 12, 12, .ro, true⟩, ⟨0x6012, 1, 12, 5, .ro, true⟩,
    ⟨0x6013, 1, 12, 11, .ro, true⟩, ⟨0x6014, 1, 12, 5, .ro, true⟩, ⟨0x6014, 17, 28, 5, .ro, true⟩, ⟨0x6030, 1, 2, 2, .rw, true⟩,
    ⟨0x6030, 3, 3, 6, .rw, true⟩, ⟨0x6030, 4, 4, 1, .rw, true⟩, ⟨0x6030, 5, 5, 9, .ro, true⟩, ⟨0x7010, 1, 12, 1, .wo, true⟩,
    ⟨0x7011, 1, 12, 5, .ro, true⟩, ⟨0x7011, 17, 28, 5, .ro, true⟩, ⟨0x7020, 1, 12, 5, .ro, true⟩]

/-- Every object. Assumption 69 (DEDUCED). -/
def objRows : List ObjRow :=
  rowsComm ++ rowsColl 0x1020 ++ rowsColl 0x1021 ++ rowsColl 0x1022 ++ rowsColl 0x1023 ++ rowsPower ++ rowsErrors ++ rowsLife ++
    rowsFleet

/-- Highest subindex present at an index. -/
def highSub (i : Nat) : Nat := ((objRows.filter (fun r => r.index = i)).map (·.hi)).foldl max 0

/-- The object of an index and subindex; subindex 0 of every index is its highest subindex (18). -/
def objInfo (i sub : Nat) : Option ObjRow :=
  if sub = 0 then (if objRows.any (fun r => r.index = i) then some ⟨i, 0, 0, 2, .const, false⟩ else none)
  else objRows.find? (fun r => r.index = i && decide (r.lo ≤ sub) && decide (sub ≤ r.hi))

/-- ID_SERIAL. -/
def serialOf (s : State) : Nat := memLe s.boot.fuse 0 8

/-- The MAC address (18, R583). -/
def macOf (s : State) : List Byte := 0x02 :: beBytes 5 (serialOf s % 2 ^ 40)

/-- An OCTETS value. -/
def octets (b : List Byte) : List Byte := leBytes 2 b.length ++ b

/-- Is management slot k revoked (20, R657). -/
def slotRevoked (s : State) (k : Nat) : Bool := (memLe s.boot.fuse 0x7A0 1).testBit k

/-- The key of slot k, unless it is empty or revoked (18, R587). -/
def slotKey (s : State) (k : Nat) : Option (List Byte) := if slotRevoked s k then none else (s.mgmt.keys.getD k none)

/-- 0x1030.01 to .04 (18). -/
def slotState (s : State) (k : Nat) : Nat := if slotRevoked s k then 2 else if (s.mgmt.keys.getD k none).isSome then 1 else 0

/-- Is OWNER_LOCK burned (20). -/
def ownerLock (s : State) : Bool := (memLe s.boot.fuse 0x7A1 1).testBit 0

/-- Burned bits of `sec_floor`. -/
def floorBurned (s : State) : Nat := secFloor s.boot.fuse

/-- 0x4020.01 (19). -/
def planBytes : Option PlanRec → List Byte
  | none => List.replicate 32 0
  | some r =>
    leBytes 8 r.time.toNat ++ leBytes 2 r.w ++ leBytes 2 r.wLast ++ leBytes 2 r.g ++ leBytes 1 r.reason ++ [0] ++
      r.steps.map (fun n => BitVec.ofNat 8 n) ++ List.replicate 7 0

/-- Collector c. -/
def collAt (s : State) (c : Nat) : Collector := s.mgmt.coll.getD c collectorReset

/-- Values of 0x1000 to 0x1FFF. -/
def readComm (s : State) (i sub : Nat) : List Byte :=
  let m := s.mgmt
  match i, sub with
  | 0x1000, 1 => leBytes 8 (serialOf s)
  | 0x1000, 2 => [0x42]
  | 0x1000, 3 => 9 :: asciiBytes "SPV-AQ480"
  | 0x1000, 4 => leBytes 4 s.boot.fw.toNat
  | 0x1000, 5 => leBytes 4 (bootWord s)
  | 0x1010, 1 => octets (macOf s)
  | 0x1010, 2 => leBytes 1 (m.nodeId.getD m.strap.toNat)
  | 0x1010, 3 => leBytes 1 m.nodeCount
  | 0x1010, 4 => leBytes 1 m.toTimer
  | 0x1010, 5 => leBytes 1 m.maxBurst
  | 0x1010, 6 => leBytes 2 m.udpPort
  | 0x1030, 5 => leBytes 8 m.dropped.toNat
  | 0x1030, 6 => leBytes 8 m.malformed.toNat
  | 0x1030, 7 => leBytes 8 m.qDrops.toNat
  | 0x1030, k => leBytes 1 (slotState s (k - 1))
  | 0x1031, k => leBytes 8 (nth m.h (k - 1))
  | i, sub =>
    let c := collAt s (i - 0x1020)
    match sub with
    | 1 => octets c.addr
    | 2 => leBytes 2 c.port
    | 3 => leBytes 1 c.slot
    | 4 => leBytes 1 c.sev
    | 5 => leBytes 1 (b2n c.enable)
    | 6 => leBytes 1 c.st
    | 7 => leBytes 8 c.acked.toNat
    | _ => leBytes 8 c.missed.toNat

/-- Values of 0x2000 to 0x2FFF. -/
def readPower (s : State) (i sub : Nat) : List Byte :=
  let g := s.gov
  let u := s.supplies
  match i, sub with
  | 0x2010, 1 => leBytes 2 g.capMg
  | 0x2010, _ => leBytes 2 (effCap g)
  | 0x2011, 1 => leBytes 2 g.limitMg
  | 0x2011, _ => leBytes 2 (effLimit g)
  | 0x2020, p => leBytes 1 (b2n (g.haltMg.getLsbD (p - 1)))
  | 0x2030, 1 => leBytes 2 u.warnMv
  | 0x2030, 2 => leBytes 2 u.holdMs
  | 0x2030, 3 => leBytes 1 u.discMs
  | 0x2030, 5 => leBytes 2 u.haltMs
  | 0x2040, 1 => leBytes 4 (fOfInt fmt32 u.watts)
  | 0x2040, 2 => leBytes 4 (fOfRat fmt32 false u.mainMv 1000 0)
  | 0x2040, _ => leBytes 4 (fOfInt fmt32 (bits g.temp.toNat 16 8 : Nat))
  | 0x2050, 1 => leBytes 1 g.tthr
  | 0x2050, 2 => leBytes 2 (stepsMhz g.thermal)
  | 0x2050, _ => leBytes 2 (stepsMhz (cclkSteps s))
  | 0x2060, 1 => leBytes 1 (permitCode u.permit)
  | 0x2060, 2 => leBytes 8 u.disagree.toNat
  | 0x2060, _ => leBytes 8 u.faults.toNat
  | 0x2070, 1 => leBytes 1 (b2n u.enable)
  | _, _ => leBytes 1 (b2n u.safe)

/-- 0x3030.01 (18). -/
def noiseCode (x : NoiseSt) : Nat := match x with | .startup => 0 | .ok => 1 | .failed => 2

/-- Values of 0x3000 to 0x3FFF. Assumption 67 (DEDUCED). -/
def readErrors (s : State) (i sub : Nat) : List Byte :=
  let tw := s.faults.twCtrl.toNat
  match i, sub with
  | 0x3010, _ => leBytes 8 s.faults.lostMgmt.toNat
  | 0x3020, 1 => leBytes 1 (bits tw 31 1)
  | 0x3020, 2 => leBytes 4 (bits tw 0 17)
  | 0x3020, _ => leBytes 1 (b2n s.mgmt.twHeld)
  | 0x3021, p => leBytes 1 (bits (part s (p - 1)).se.ctrl.toNat 0 8)
  | 0x3022, p => leBytes 1 (b2n (s.mgmt.seHeld.getLsbD (p - 1)))
  | 0x3030, 1 => leBytes 1 (noiseCode s.noise.st)
  | 0x3030, 2 => leBytes 4 s.noise.rct.toNat
  | 0x3030, 3 => leBytes 4 s.noise.apt.toNat
  | 0x3030, 4 => leBytes 8 s.noise.delivered.toNat
  | 0x3030, _ => leBytes 1 s.noise.pool.length
  | 0x3040, 1 => leBytes 1 (bits (spareWord s) 0 6)
  | 0x3040, _ => leBytes 1 (bits (spareWord s) 8 8)
  | 0x3050, 1 => leBytes 4 (packVer s)
  | 0x3050, _ => leBytes 4 s.mgmt.packOff
  | 0x3060, 1 => leBytes 4 s.mgmt.unitSel.toNat
  | _, _ => leBytes 4 (unitScore s s.mgmt.unitSel.toNat)

/-- Values of 0x4000 to 0x5FFF. Assumption 67 (DEDUCED). -/
def readLife (s : State) (i sub : Nat) : List Byte :=
  let l := s.life
  let f := s.boot.fuse
  match i, sub with
  | 0x4010, 1 => leBytes 8 (lifeHours s)
  | 0x4010, 2 => leBytes 8 l.energy
  | 0x4010, 3 => leBytes 4 l.cycles
  | 0x4010, 4 => leBytes 8 (l.first.getD 0)
  | 0x4010, 5 => leBytes 4 l.boots
  | 0x4010, 6 => leBytes 8 l.clock
  | 0x4010, 7 => leBytes 4 l.gaps
  | 0x4010, _ => leBytes 1 (b2n l.lost)
  | 0x4020, _ => octets (planBytes l.plans.head?)
  | 0x4030, 1 => leBytes 2 s.mgmt.logIdx
  | 0x4030, _ => octets (match l.log[s.mgmt.logIdx]? with | some e => evBytes e | none => List.replicate 32 0)
  | 0x5010, 1 => leBytes 1 s.mgmt.bootPlan
  | 0x5010, _ => leBytes 1 (bits (idPlan s) 0 4)
  | 0x5011, _ => leBytes 1 (b2n s.mgmt.planLock)
  | 0x5012, k => leBytes 2 (planEntry f (k - 1))
  | 0x5013, 1 => memRead f 0x7A1 1
  | 0x5013, _ => memRead f 9 1
  | 0x5014, 1 => memRead f 0x6F0 1
  | 0x5014, _ => leBytes 2 (floorBurned s)
  | 0x5020, p => leBytes 1 (pvCode (part s (p - 1)).st)
  | 0x5030, 5 => memRead f 0x7A0 1
  | _, k => memRead f (0x720 + 32 * (k - 1)) 32

/-- Values of 0x6000 to 0x7FFF. -/
def readFleet (s : State) (i sub : Nat) : List Byte :=
  let q := part s (sub - 1)
  let far := part s (sub - 17)
  match i, sub with
  | 0x6010, _ => leBytes 8 q.rep.stepSnap.toNat
  | 0x6011, _ => (q.job.keyDigest ++ List.replicate 32 0).take 32
  | 0x6012, _ => leBytes 8 q.rep.snap.td.toNat
  | 0x6013, _ => octets (leBytes 128 q.rep.last.toNat)
  | 0x6014, _ => if sub < 17 then leBytes 8 q.se.replays.toNat else leBytes 8 far.upd.normReplays
  | 0x6030, 1 => leBytes 1 (bits s.quartz.ctrl.toNat 8 2)
  | 0x6030, 2 => leBytes 1 (bits s.quartz.ctrl.toNat 0 6)
  | 0x6030, 3 => leBytes 4 (wrapU 32 (signExt 16 s.quartz.asym.toNat))
  | 0x6030, 4 => leBytes 1 (b2n s.mgmt.qzHeld)
  | 0x6030, _ => leBytes 8 s.quartz.ns
  | 0x7011, _ => if sub < 17 then leBytes 8 q.ck.jobCut.toNat else leBytes 8 far.ck.ownCut.toNat
  | _, _ => leBytes 8 q.se.lastVerdict.toNat

/-- The value of an object as a response carries it. -/
def readObj (s : State) (i sub : Nat) : List Byte :=
  if sub = 0 then leBytes 1 (highSub i)
  else if i < 0x2000 then readComm s i sub else if i < 0x3000 then readPower s i sub else if i < 0x4000 then readErrors s i sub
  else if i < 0x6000 then readLife s i sub else readFleet s i sub

/-- Is the domain of an object's value powered (18, R585). Assumption 69 (DEDUCED). -/
def objPowered (s : State) (r : ObjRow) : Bool := s.supplies.mainOn || !r.main

/-- The status of a READ_REQ item: existence, domain, type, access (18, R585, R594). Assumption 65 (DEDUCED). -/
def readStatus (s : State) (it : WrItem) : Nat :=
  match objInfo it.index it.sub with
  | none => 0x01D1
  | some r =>
    if !objPowered s r then 0x02D3 else if it.typ != 0 && it.typ != r.typ then 0x01D2 else if r.acc = .wo then 0x01D4 else 0

/-- Length of a fixed-size value by its type code (18, object types). -/
def typeLen (t : Nat) : Option Nat :=
  match t with
  | 1 | 2 => some 1
  | 3 => some 2
  | 4 | 6 | 8 => some 4
  | 5 | 7 | 9 => some 8
  | 12 => some 32
  | _ => none

/-- A link-local address, or none (18, R600, R604). Assumption 67 (DEDUCED). -/
def addrOk (b : List Byte) : Bool := b.isEmpty || (b.length = 16 && b.take 2 = [0xFE, 0x80] && (b.drop 2).take 6 = List.replicate 6 0)

/-- Is a value in the range of its object (18, R604; 19, R646). Assumption 69 (DEDUCED). -/
def objRange (s : State) (it : WrItem) : Bool :=
  let v := leNat it.val
  let within (a b : Nat) : Bool := decide (a ≤ v) && decide (v ≤ b)
  if it.typ = 1 then decide (v ≤ 1)
  else match it.index, it.sub with
    | 0x1010, 2 => within 0 7
    | 0x1010, 3 => within 1 8
    | 0x1010, 4 => within 1 255
    | 0x1010, 5 => within 0 3
    | 0x1010, 6 => within 1024 65535
    | 0x2010, _ => within 1200 3000
    | 0x2011, _ => within 600 1400
    | 0x2030, 1 => within 42000 48000
    | 0x2030, 2 => within 1 200
    | 0x2030, 3 => within 1 100
    | 0x2030, _ => within 1 1000
    | 0x3020, _ => decide (v < 2 ^ 17)
    | 0x3050, 2 => v % 1024 = 0 && decide (v ≤ 2 ^ 22)
    | 0x3050, 3 => decide (s.mgmt.packOff + (it.val.length - 2) ≤ 2 ^ 22)
    | 0x4030, _ => within 0 4095
    | 0x5010, _ => decide (v < 16) && planValid (planEntry s.boot.fuse v)
    | 0x6030, 1 => within 0 3
    | 0x6030, 2 => within 0 63
    | 0x6030, 3 => within 0 32767 || within (2 ^ 32 - 32768) (2 ^ 32 - 1)
    | i, sub =>
      if 0x1020 ≤ i && i < 0x1024 then
        (match sub with | 1 => addrOk (it.val.drop 2) | 3 => within 0 3 | 4 => within 0 4 | _ => true)
      else true

/-- The bytes of Onyx that a FUSE object names, and the value that a write asks for (20, R657, fuse objects). -/
def fuseTarget (it : WrItem) : Nat × Nat × Nat :=
  let v := leNat it.val
  match it.index, it.sub with
  | 0x5012, k => (0x7B0 + 2 * (k - 1), 2, v)
  | 0x5013, _ => (0x7A1, 1, v)
  | 0x5014, 1 => (0x6F0, 1, v)
  | 0x5014, _ => (0x700, 32, 2 ^ (min v 256) - 1)
  | 0x5030, 5 => (0x7A0, 1, v)
  | _, k => (0x720 + 32 * (k - 1), 32, v)

/-- Onyx with a value ORed into some bytes; the bytes at `stuck` do not take it (20, R663). Assumption 68 (DEDUCED). -/
def burned (f : Mem 8) (at_ n v : Nat) (stuck : List (BitVec 12)) : Mem 8 :=
  memWrite f at_ ((List.range n).map (fun i =>
    let old := memGet f (at_ + i)
    if stuck.any (fun x => x.toNat = at_ + i) then old else old ||| BitVec.ofNat 8 (v / 2 ^ (8 * i))))

/-- Firmware slots with a burned hash that is not revoked. -/
def fwSlotsLeft (f : Mem 8) : Nat :=
  ((List.range 4).filter (fun k => (memRead f (0x600 + 48 * k) 48).any (fun x => x != 0) && !(memLe f 0x6F0 1).testBit k)).length

/-- Check 3 of R662: does the burn leave no plan or key, retire a plan in use, revoke slot 0, or raise the floor too far. -/
def fuseStrands (s : State) (it : WrItem) : Bool :=
  let t := fuseTarget it
  let f := burned s.boot.fuse t.1 t.2.1 t.2.2 []
  let v := leNat it.val
  if it.index = 0x5012 then
    let e := it.sub - 1
    (validPlans f).isEmpty || (v.testBit 5 && ((s.boot.planOn && e = s.boot.plan) || e = s.mgmt.bootPlan))
  else if it.index = 0x5014 && it.sub = 1 then fwSlotsLeft f = 0
  else if it.index = 0x5014 then decide (s.boot.sec < v)
  else it.index = 0x5030 && it.sub = 5 && v.testBit 0

/-- The checks of R662 in order; 0 where all pass. Assumption 68 (DEDUCED). -/
def fuseChecks (s : State) (it : WrItem) : Nat :=
  let v := leNat it.val
  let plan := it.index = 0x5012
  let old := planEntry s.boot.fuse (it.sub - 1)
  let hash := it.index = 0x5030 && it.sub != 5
  if (plan && (!planNOk (planN v) || bits v 6 10 != 0)) || (it.index = 0x5014 && it.sub = 2 && decide (256 < v)) then 0x01F0
  else if (hash && (memRead s.boot.fuse (fuseTarget it).1 32).any (fun x => x != 0)) ||
    (plan && (old.testBit 0 || decide (it.sub ≤ 6)) && setBits v 5 1 0 != setBits old 5 1 0) then 0x02F0
  else if fuseStrands s it then 0x02F1
  else if ownerLock s && !(it.index = 0x5014 || (it.index = 0x5030 && it.sub = 5)) then 0x02F2 else 0

/-- The checks of a FUSE write beyond those of every item (18, R593; 20, R660 to R663). -/
def fuseStatus (s : State) (burn : Bool) (it : WrItem) : Nat :=
  let t := fuseTarget it
  let old := memLe s.boot.fuse t.1 t.2.1
  if !s.supplies.mainOn then 0x02D3
  else if s.boot.st != .ready && s.boot.st != .failed && s.boot.st != .halted then 0x02F3
  else if !burn || (t.2.2 % 2 ^ (8 * t.2.1)) ||| old != t.2.2 % 2 ^ (8 * t.2.1) then 0x02D4
  else fuseChecks s it

/-- The status of a WRITE_REQ item before any is applied: existence, domain, type, range, access, slot rights, idleness (18, R585,
R589, R592 to R594). Assumption 65 (DEDUCED). -/
def writeStatus (s : State) (slot : Nat) (burn : Bool) (it : WrItem) : Nat :=
  match objInfo it.index it.sub with
  | none => 0x01D1
  | some r =>
    if !objPowered s r then 0x02D3
    else if it.typ != r.typ then 0x01D2
    else if !objRange s it then 0x01D3
    else if r.acc = .ro || r.acc = .const then 0x01D4
    else if slot = 3 || (slot != 0 && r.acc = .fuse) then 0x02D1
    else if r.acc = .rwi && !moduleIdle s then 0x02D0
    else if r.acc = .fuse then fuseStatus s burn it else 0

/-- Burn a value into Onyx, read it back, and give the copy of the main domain what burned; 0x05F0 with its event where a byte
differs (20, R663). Assumption 68 (DEDUCED). -/
def burn (s : State) (at_ n v : Nat) (stuck : List (BitVec 12)) : Nat × State :=
  let f := burned s.boot.fuse at_ n v stuck
  let t := withBoot s (fun b => { b with fuse := f, copy := memWrite b.copy at_ (memRead f at_ n) })
  if memRead f at_ n = memRead (burned s.boot.fuse at_ n v []) at_ n then (0, t) else (0x05F0, sendEvent t srcFw 15 0x05F0 0)

/-- Change collector c. -/
def withColl (s : State) (c : Nat) (f : Collector → Collector) : State := withMgmt s (fun m => { m with coll := updAt m.coll c f })

/-- The enable of a collector: an enabled one is ACTIVE, a disabled one holds no record (18, R600, R602). -/
def collEnable (s : State) (c : Nat) (v : Bool) : State :=
  if (collAt s c).enable = v then s
  else
    let t := withColl s c (fun x => { x with enable := v, st := b2n v, open_ := [], sentTo := 0 })
    if v then t
    else withMgmt t (fun m =>
      mgmtFree { m with queue := m.queue.map (fun r => { r with owed := r.owed &&& ~~~(BitVec.ofNat 4 (2 ^ c)) }) })

/-- A write to a collector's object (18, R600). -/
def writeColl (s : State) (c : Nat) (it : WrItem) : State :=
  let v := leNat it.val
  match it.sub with
  | 1 => withColl s c (fun x => { x with addr := it.val.drop 2 })
  | 2 => withColl s c (fun x => { x with port := v })
  | 3 => withColl s c (fun x => { x with slot := v })
  | 4 => withColl s c (fun x => { x with sev := v })
  | _ => collEnable s c (v != 0)

/-- A write to the objects of the communication settings (18, R604; 21, R668). -/
def writeComm (s : State) (it : WrItem) : State :=
  let v := leNat it.val
  if it.index = 0x1010 then
    match it.sub with
    | 2 => withLife (withMgmt s (fun m => { m with nodeId := some v })) (fun l => { l with nodeId := some v })
    | 3 => withMgmt s (fun m => { m with nodeCount := v })
    | 4 => withMgmt s (fun m => { m with toTimer := v })
    | 5 => withMgmt s (fun m => { m with maxBurst := v })
    | _ => withMgmt s (fun m => { m with udpPort := v })
  else writeColl s (it.index - 0x1020) it

/-- A write to the power objects (18, R596, R597; 19). -/
def writePower (s : State) (it : WrItem) : State :=
  let v := leNat it.val
  match it.index, it.sub with
  | 0x2010, _ => withGov s (fun g => { g with capMg := v })
  | 0x2011, _ => retarget (withGov s (fun g => { g with limitMg := v }))
  | 0x2020, p =>
    let bit : BitVec 13 := BitVec.ofNat 13 (2 ^ (p - 1))
    noteHalts (withGov s (fun g => { g with haltMg := if v = 0 then g.haltMg &&& ~~~bit else g.haltMg ||| bit }))
  | 0x2030, 1 => withSup s (fun u => { u with warnMv := v })
  | 0x2030, 2 => withSup s (fun u => { u with holdMs := v })
  | 0x2030, 3 => withSup s (fun u => { u with discMs := v })
  | 0x2030, 5 => withSup s (fun u => { u with haltMs := v })
  | 0x2070, _ => setEnable s (v != 0)
  | _, _ => s

/-- Management sets a hold of a configuration object (18, R598). -/
def setHold (s : State) (it : WrItem) : State :=
  let t := (itemHold 0x3020 it).elim s (fun b => withMgmt s (fun m => { m with twHeld := b }))
  let u := (itemHold 0x6030 it).elim t (fun b => withMgmt t (fun m => { m with qzHeld := b }))
  (List.range 12).foldl (fun x p =>
    (itemHold (0x302100 + p) it).elim x (fun b =>
      let bit : BitVec 12 := BitVec.ofNat 12 (2 ^ p)
      withMgmt x (fun m => { m with seHeld := if b then m.seHeld ||| bit else m.seHeld &&& ~~~bit }))) u

/-- A write to the configuration objects shared with the host (18, R596, R598). -/
def writeShared (s : State) (it : WrItem) : State :=
  let v := leNat it.val
  let t := setHold s it
  match it.index, it.sub with
  | 0x3020, 1 => { t with faults := { t.faults with twCtrl := BitVec.ofNat 32 (setBits t.faults.twCtrl.toNat 31 1 v) } }
  | 0x3020, 2 => { t with faults := { t.faults with twCtrl := BitVec.ofNat 32 (setBits t.faults.twCtrl.toNat 0 17 v) } }
  | 0x3021, p => withSe t (p - 1) (fun x => { x with ctrl := BitVec.ofNat 32 (v &&& 0xF1) })
  | 0x6030, 1 => withQz t (fun z => qzCtrl (setBits z.ctrl.toNat 8 2 v) z)
  | 0x6030, 2 => withQz t (fun z => qzCtrl (setBits z.ctrl.toNat 0 6 v) z)
  | 0x6030, 3 => withQz t (fun z => { z with asym := BitVec.ofNat 32 (v % 2 ^ 16) })
  | _, _ => t

/-- A square root modulo the field of P-384, where there is one. -/
def sqrtP (a : Nat) : Nat := powMod p384P (a % p384P) ((p384P + 1) / 4) 384 1

/-- The keys that could have made a signature over a message: those of the points that its r names.
Assumption 54 (DEDUCED). -/
def signers (msg sig : List Byte) : List (BitVec 768) :=
  let r := beNat (sig.take 48)
  let k := beNat (sig.drop 48)
  if r = 0 || k = 0 || p384N ≤ r || p384N ≤ k then []
  else
    let w := invMod p384N r
    let z := beNat (sha384 msg) % p384N
    ((([r, r + p384N].filter (fun x => decide (x < p384P))).flatMap (fun x =>
      let y := sqrtP (x * x * x + (p384P - 3) * x + p384B)
      if onP384 x y then [(x, y), (x, (p384P - y) % p384P)] else [])).filterMap (fun pt =>
        (ecAdd (ecMul (k * w % p384N) (some pt) 384 none)
          (ecMul ((p384N - z) * w % p384N) (some (p384Gx, p384Gy)) 384 none)).map (fun q =>
            BitVec.ofNat 768 (leNat (beBytes 48 q.1 ++ beBytes 48 q.2)))))

/-- The test-pack key, where it signed a pack: the signer whose hash Onyx holds (15, R519; 20, R657).
Assumption 54 (DEDUCED). -/
def packKeyOf (copy : Mem 8) (b : List Byte) : BitVec 768 :=
  ((signers (b.take (b.length - 96)) (b.drop (b.length - 96))).find? (keyHashed copy 0x6C0)).getD 0

/-- A write to the remaining objects: its status, and the state (15, R520; 18, R604; 16, R537; 19, R624).
Assumption 69 (DEDUCED). -/
def writeOther (s : State) (it : WrItem) : Nat × State :=
  let v := leNat it.val
  match it.index, it.sub with
  | 0x3050, 2 => (0, withMgmt s (fun m => { m with packOff := v }))
  | 0x3050, 3 =>
    let b := it.val.drop 2
    (0, withMgmt s (fun m => { m with packBuf := memWrite m.packBuf m.packOff b, packOff := m.packOff + b.length }))
  | 0x3050, _ =>
    let b := memRead s.mgmt.packBuf 0 (min v (2 ^ 22 + 1))
    packInstall s b (packKeyOf s.boot.copy b)
  | 0x3060, _ => (0, withMgmt s (fun m => { m with unitSel := BitVec.ofNat 32 v }))
  | 0x4030, _ => (0, withMgmt s (fun m => { m with logIdx := v }))
  | 0x5010, _ => (0, withMgmt s (fun m => { m with bootPlan := v }))
  | 0x5011, _ => (0, withMgmt s (fun m => { m with planLock := v != 0 }))
  | _, p => (0, if v = 0 then s else requestCut s (p - 1))

/-- Apply an item that passed its checks: its status, and the state (18, R594). -/
def applyItem (s : State) (stuck : List (BitVec 12)) (it : WrItem) : Nat × State :=
  match objInfo it.index it.sub with
  | none => (0x01D1, s)
  | some r =>
    if r.acc = .fuse then
      let t := fuseTarget it
      burn s t.1 t.2.1 t.2.2 stuck
    else if it.index < 0x2000 then (0, writeComm s it)
    else if it.index = 0x2030 && it.sub = 4 then
      (if it.val.any (fun x => x != 0) && s.supplies.clearDone = some false then 0x08EA else 0,
        withSup s (fun u => { u with clearDone := none }))
    else if it.index < 0x3000 then (0, writePower s it)
    else if [0x3020, 0x3021, 0x3022, 0x6030].contains it.index then (0, writeShared s it)
    else writeOther s it

end Sys2Proof.Machine
end

