-- ==== Sys2Proof/Machine/MgmtOps.lean ====
section
/-! DEFINITION. Datagrams of the management port: authentication, requests, keys, application ticks, fuse burns, collectors and
announcements (18, R584 to R603; 20, R660 to R664). -/

namespace Sys2Proof.Machine

/-- Header of a message (18, R586). -/
structure MsgHead where
  /-- `type`. -/
  typ : Nat
  /-- `slot`. -/
  slot : Nat
  /-- `seq`. -/
  seq : Nat
  /-- `req_id`. -/
  reqId : Nat
deriving DecidableEq, Repr

/-- The header of a message's bytes. -/
def msgHead (b : List Byte) : MsgHead :=
  { typ := fieldAt b 3 1, slot := fieldAt b 4 1, seq := fieldAt b 8 8, reqId := fieldAt b 24 4 }

/-- The tag of a message: 16 bytes of HMAC-SHA-256 under the key (18, R586). -/
def msgTag (key msg : List Byte) : List Byte := (hmacSha256 key msg).take 16

/-- A message of the module: zero tag where no key is given (18, R586). -/
def msgBytes (s : State) (h : MsgHead) (items : Nat) (body : List Byte) (key : Option (List Byte)) : List Byte :=
  let m := leBytes 2 0x594E ++ [1] ++ leBytes 1 h.typ ++ leBytes 1 h.slot ++ [0] ++ leBytes 2 items ++ leBytes 8 h.seq ++
    leBytes 8 (serialOf s) ++ leBytes 4 h.reqId ++ leBytes 4 0 ++ body
  m ++ (match key with | some k => msgTag k m | none => List.replicate 16 0)

/-- A datagram leaves the port, unless a duplicate address silences it (18, R583, R584). -/
def sendTo (s : State) (dst : List Byte) (port : Nat) (b : List Byte) : State :=
  if s.mgmt.dup || !s.supplies.aon then s
  else withMgmt s (fun m => { m with sent := m.sent ++ [{ dst := dst, port := port, bytes := b }] })

/-- A response item (18, R586). -/
def rspItem (i sub typ status : Nat) (val : List Byte) : List Byte :=
  leBytes 2 i ++ leBytes 1 sub ++ leBytes 1 typ ++ leBytes 2 status ++ val

/-- The response type of a request type; an EVENT_ACK that must be answered takes READ_RSP (18, R586). -/
def rspType (t : Nat) : Nat := match t with | 3 => 4 | 8 => 9 | _ => 2

/-- Answer a request under its slot (18, R586, R587). Assumption 65 (DEDUCED). -/
def respond (s : State) (src : List Byte) (port : Nat) (h : MsgHead) (items : List (List Byte)) : State :=
  sendTo s src port (msgBytes s { h with typ := rspType h.typ } items.length items.flatten (slotKey s h.slot))

/-- A message that R587 drops. -/
def msgDrop (s : State) : State := withMgmt s (fun m => { m with dropped := satInc m.dropped 1 })

/-- A message that fails authentication: event 0x04D1 once 16 fall within a second, at most once per minute (18, R587).
Assumption 65 (DEDUCED). -/
def authFail (s : State) : State :=
  let now := s.life.clock
  let l := s.mgmt.authFails.filter (fun t => decide (now < t + 1000000000)) ++ [now]
  let t := withMgmt (msgDrop s) (fun m => { m with authFails := l })
  let quiet : Bool := match s.mgmt.authEvent with | some e => decide (e + 60000000000 ≤ now) | none => true
  if 16 ≤ l.length && quiet then sendEvent (withMgmt t (fun m => { m with authEvent := some now })) srcFw 15 0x04D1 0 else t

/-- An authentic message of a STALE collector makes it ACTIVE (18, R602). -/
def collWake (src : List Byte) (slot : Nat) (s : State) (c : Nat) : State :=
  let x := collAt s c
  if x.st = 2 && x.addr = src && x.slot = slot then
    sendEvent (withColl s c (fun y => { y with st := 1, open_ := [], sentTo := 0 })) srcFw 15 0x02D6 0
  else s

/-- An accepted sequence number becomes h; it goes to the flash each time it passes a multiple of 2^16 (18, R590).
Assumption 65 (DEDUCED). -/
def takeSeq (s : State) (slot seq : Nat) : State :=
  let old := nth s.mgmt.h slot
  let t := withMgmt s (fun m => { m with h := m.h.set slot seq })
  if old / 65536 < seq / 65536 then commitLife (withLife t (fun l => { l with floors := l.floors.set slot seq })) else t

/-- READ items of a body. -/
def readItems (b : List Byte) : List WrItem :=
  (chunksOf 4 b.length b).map (fun c => { index := fieldAt c 0 2, sub := fieldAt c 2 1, typ := fieldAt c 3 1, val := [] })

/-- Length of a value by its type code and first bytes; none where they spell no value (18, object types). -/
def valueLen (t : Nat) (b : List Byte) : Option Nat :=
  match typeLen t with
  | some n => some n
  | none =>
    if t = 10 then (if fieldAt b 0 1 ≤ 64 then some (1 + fieldAt b 0 1) else none)
    else if t = 11 then (if fieldAt b 0 2 ≤ 1024 then some (2 + fieldAt b 0 2) else none) else none

/-- The n write items of a body; none where it does not hold exactly them (18, R586, R588). -/
def writeItems : Nat → List Byte → Option (List WrItem)
  | 0, b => if b.isEmpty then some [] else none
  | n + 1, b =>
    match valueLen (fieldAt b 3 1) (b.drop 4) with
    | none => none
    | some k =>
      if b.length < 4 + k then none
      else
        (writeItems n (b.drop (4 + k))).map (fun l =>
          { index := fieldAt b 0 2, sub := fieldAt b 2 1, typ := fieldAt b 3 1, val := (b.drop 4).take k } :: l)

/-- The type code that a response item shows. -/
def itemType (it : WrItem) : Nat := match objInfo it.index it.sub with | some r => r.typ | none => it.typ

/-- Header of a waiting request. -/
def reqHead (r : MgReq) : MsgHead := { typ := if r.read then 1 else 3, slot := r.slot, seq := r.seq, reqId := r.reqId }

/-- The answer with one item of index 0xFFFF (18, R588). -/
def answerOne (s : State) (r : MgReq) (status : Nat) : State := respond s r.src r.port (reqHead r) [rspItem 0xFFFF 0 0 status []]

/-- Answer a READ_REQ (18, R586, R588, R594). -/
def answerRead (s : State) (r : MgReq) : State :=
  let items := r.items.map (fun it =>
    let st := readStatus s it
    rspItem it.index it.sub (itemType it) st (if st = 0 then readObj s it.index it.sub else []))
  if 1232 < 48 + (items.map (·.length)).foldl (· + ·) 0 then answerOne s r 0x04D0 else respond s r.src r.port (reqHead r) items

/-- The status of each item of a WRITE_REQ before any is applied (18, R594). -/
def writeStatuses (s : State) (r : MgReq) : List Nat := r.items.map (writeStatus s r.slot (r.flags % 2 = 1))

/-- Does every item of a write pass, and does its response fit (18, R588, R594). -/
def writePasses (s : State) (r : MgReq) : Bool := (writeStatuses s r).all (· = 0) && decide (48 + 6 * r.items.length ≤ 1232)

/-- Answer a WRITE_REQ with the statuses of its items (18, R586). -/
def answerWrite (s : State) (r : MgReq) (sts : List Nat) : State :=
  respond s r.src r.port (reqHead r)
    ((r.items.zip sts).map (fun e => rspItem e.1.index e.1.sub (itemType e.1) e.2 []))

/-- Answer a WRITE_REQ of which an item fails: the others carry 0x01D5 (18, R594). -/
def refuseWrite (s : State) (r : MgReq) : State :=
  if 1232 < 48 + 6 * r.items.length then answerOne s r 0x04D0
  else answerWrite s r ((writeStatuses s r).map (fun st => if st = 0 then 0x01D5 else st))

/-- Give a configuration object the value it had (18, R598). -/
def putObject (s : State) (o v : Nat) : State :=
  if o = 0x3020 then { s with faults := { s.faults with twCtrl := BitVec.ofNat 32 v } }
  else if o = 0x6030 then
    withQz s (fun z => { qzCtrl (v % 2 ^ 32) z with asym := BitVec.ofNat 32 (v / 2 ^ 32) })
  else withSe s (o - 0x302100) (fun x => { x with ctrl := BitVec.ofNat 32 v })

/-- Host writes of the same tick that came before a management write lose to it (18, R598). -/
def settleObject (items : List WrItem) (s : State) (o : Nat) : State :=
  let mine := s.host.ordered.filter (fun e => e.2.1 = o)
  match mine, (items.filterMap (itemHold o)).getLast? with
  | e :: _, some true =>
    let t := mine.foldl (fun x y => noteConflict x y.1) (putObject s o e.2.2)
    { t with host := { t.host with ordered := t.host.ordered.filter (fun y => y.2.1 != o) } }
  | _, _ => s

/-- The configuration objects. Assumption 61 (DEDUCED). -/
def sharedObjects : List Nat := 0x3020 :: 0x6030 :: (List.range 12).map (fun p => 0x302100 + p)

/-- Apply the items of a write in order, with the status of each (18, R594, R598). -/
def applyItems (stuck : List (BitVec 12)) : List WrItem → State → List Nat × State
  | [], s => ([], s)
  | it :: t, s =>
    let r := applyItem s stuck it
    let u := applyItems stuck t r.2
    (r.1 :: u.1, u.2)

/-- Perform a WRITE_REQ at the head of the queue (18, R594). -/
def performWrite (s : State) (r : MgReq) (stuck : List (BitVec 12)) : State :=
  if !writePasses s r then refuseWrite s r
  else
    let t := sharedObjects.foldl (settleObject r.items) s
    let a := applyItems stuck r.items t
    answerWrite a.2 r a.1

/-- Does a write carry a FUSE item. Assumption 68 (DEDUCED). -/
def hasFuse (r : MgReq) : Bool :=
  r.items.any (fun it => match objInfo it.index it.sub with | some x => x.acc = .fuse | none => false)

/-- Does a write carry a permit fault clear. -/
def hasClear (r : MgReq) : Bool := r.items.any (fun it => it.index = 0x2030 && it.sub = 4 && it.val.any (fun x => x != 0))

/-- Must the write at the head wait: for a fuse burn, or for a permit sample (19, R624; 20, R663).
Assumption 68 (DEDUCED). -/
def mustWait (s : State) (r : MgReq) : Bool :=
  !r.read && writePasses s r &&
    (hasFuse r || (hasClear r && (if s.mgmt.clearWait then s.supplies.clearAsked else s.supplies.permit = .fault)))

/-- The write at the head asks the permits, where it carries a clear in FAULT (19, R624). -/
def headAsks (s : State) (r : MgReq) : State :=
  if !r.read && hasClear r && !hasFuse r && !s.mgmt.clearWait then withMgmt (askClear s) (fun m => { m with clearWait := true }) else s

/-- Take the request at the head off the queue. -/
def popReq (s : State) : State := withMgmt s (fun m => { m with reqs := m.reqs.drop 1, clearWait := false })

/-- Handle waiting requests in order until one must wait (18, R595, R598). -/
def handleAll : List MgReq → State → State
  | [], s => s
  | r :: t, s =>
    if mustWait s r then headAsks s r
    else handleAll t (popReq (if r.read then answerRead s r else performWrite s r []))

/-- APPLICATION_TICK (18, R594 to R598). -/
def execApplicationTick (dt : Word64) (s : State) : Out :=
  let t := advance s dt
  let u := if t.supplies.aon then handleAll t.mgmt.reqs t else t
  .next { u with host := { u.host with ordered := [] } }

/-- FUSE_BURN: the write at the head of the queue burns; the bytes at `stuck` do not take the burn (20, R663).
Assumption 68 (DEDUCED). -/
def execFuseBurn (stuck : List (BitVec 12)) (s : State) : Out :=
  .next (match s.mgmt.reqs with
    | r :: _ => if !r.read && hasFuse r then popReq (performWrite s r stuck) else s
    | [] => s)

/-- A request reaches the controller: it is handled at once where it is the only one and need not wait for a tick, else it waits,
or is dropped where 64 wait (18, R594, R595). Assumption 65 (DEDUCED). -/
def takeRequest (s : State) (r : MgReq) : State :=
  if s.mgmt.reqs.isEmpty && r.read then answerRead s r
  else if s.mgmt.reqs.isEmpty && !writePasses s r then refuseWrite s r
  else if 64 ≤ s.mgmt.reqs.length then withMgmt s (fun m => { m with qDrops := satInc m.qDrops 1 })
  else withMgmt s (fun m => { m with reqs := m.reqs ++ [r] })

/-- Collector c acknowledges the messages up to number n (18, R601, R602). Assumption 67 (DEDUCED). -/
def collAck (n seq : Nat) (s : State) (c : Nat) : State :=
  let x := collAt s c
  let ids := (x.open_.filter (fun e => decide (e.1 ≤ n))).flatMap (·.2)
  if ids.isEmpty then s
  else
    let t := withColl s c (fun y => { y with acked := BitVec.ofNat 64 seq, open_ := y.open_.filter (fun e => decide (n < e.1)) })
    withMgmt t (fun m =>
      mgmtFree { m with queue := m.queue.map (fun r =>
        if ids.contains r.id then { r with owed := r.owed &&& ~~~(BitVec.ofNat 4 (2 ^ c)) } else r) })

/-- An EVENT_ACK from an address: it reaches the collectors of that address (18, R601). Assumption 67 (DEDUCED). -/
def eventAck (s : State) (src : List Byte) (seq : Nat) : State :=
  if seq / 2 ^ 32 != s.life.boots then s
  else ((List.range 4).filter (fun c => (collAt s c).enable && (collAt s c).addr = src)).foldl (collAck (seq % 2 ^ 32) seq) s

/-- Is a key the one of slot k: its SHA-256 is fused there, and the slot is not revoked (18, R589). -/
def keyFits (s : State) (k : Nat) (key : List Byte) : Bool := sha256 key = memRead s.boot.fuse (0x720 + 32 * k) 32 && !slotRevoked s k

/-- Install a key. Assumption 66 (DEDUCED). -/
def installKey (s : State) (k : Nat) (key : List Byte) : State := withMgmt s (fun m => { m with keys := m.keys.set k (some key) })

/-- The first key of slot 0 from an unauthenticated KEY_SET: its hash is burned where the slot is open (18, R591; 20, R664): its
status, and the state. Assumption 66 (DEDUCED). -/
def enrolKey (s : State) (key : List Byte) (stuck : List (BitVec 12)) : Nat × State :=
  let isOpen := (memRead s.boot.fuse 0x720 32).all (fun x => x = 0) && !ownerLock s && !slotRevoked s 0
  if !isOpen then (if keyFits s 0 key then (0, installKey s 0 key) else (0x05D0, s))
  else if !s.supplies.mainOn then (0x02D3, s)
  else if s.boot.st != .ready && s.boot.st != .failed && s.boot.st != .halted then (0x02F3, s)
  else
    let r := burn s 0x720 32 (leNat (sha256 key)) stuck
    if r.1 = 0 then (0, installKey r.2 0 key) else r

/-- Is the body of a KEY_SET well formed (18, R586). -/
def keyBodyOk (b : List Byte) : Bool :=
  b.length = 88 && fieldAt b 33 7 = 0 && fieldAt b 28 4 = 0 && decide (fieldAt b 5 1 ≤ 1) && decide (fieldAt b 32 1 ≤ 3)

/-- A KEY_RSP item. Assumption 66 (DEDUCED). -/
def keyItem (target status : Nat) : List Byte := rspItem 0x1030 (target + 1) 2 status []

/-- An unauthenticated KEY_SET (18, R591). Assumption 66 (DEDUCED). -/
def keyUnauth (s : State) (m : MsgArgs) (stuck : List (BitVec 12)) : State :=
  let b := m.bytes
  let h := msgHead b
  let open_ := keyBodyOk b && (b.drop 72).all (fun x => x = 0) && fieldAt b 32 1 = 0 && (s.mgmt.keys.getD 0 none).isNone &&
    decide (s.life.clock ≤ s.mgmt.startAt + 600000000000)
  if !open_ then authFail s
  else
    let r := enrolKey s ((b.drop 40).take 32) stuck
    let rsp : MsgHead := { h with typ := 9, slot := if r.1 = 0 then 0 else 0xFF }
    sendTo r.2 m.src m.port.toNat
      (msgBytes r.2 rsp 1 (keyItem 0 r.1) (if r.1 = 0 then slotKey r.2 0 else none))

/-- An authenticated KEY_SET that R590 accepted (18, R589, R591). Assumption 66 (DEDUCED). -/
def keyAuth (s : State) (m : MsgArgs) : State :=
  let b := m.bytes
  let h := msgHead b
  let target := fieldAt b 32 1
  let answer (t : State) (st : Nat) : State := respond t m.src m.port.toNat h [keyItem target st]
  if h.slot != 0 then answer s 0x02D1
  else
    let pad := hmacSha256 ((slotKey s 0).getD []) (asciiBytes "NYLYN-KEY" ++ leBytes 8 h.seq ++ leBytes 1 target)
    let key := (((b.drop 40).take 32).zip pad).map (fun e => e.1 ^^^ e.2)
    if keyFits s target key then answer (installKey s target key) 0 else answer s 0x05D0

/-- Is the body of an authentic message well formed, by its type (18, R586, R588). Assumption 65 (DEDUCED). -/
def bodyOk (b : List Byte) : Bool :=
  let n := fieldAt b 6 2
  let body := (b.drop 32).take (b.length - 48)
  decide (fieldAt b 5 1 ≤ 1) && fieldAt b 28 4 = 0 && (match fieldAt b 3 1 with
    | 1 => body.length = 4 * n
    | 3 => (writeItems n body).isSome
    | 6 => body.length = 8
    | _ => keyBodyOk b)

/-- An authentic message that R590 accepted. -/
def msgAct (s : State) (m : MsgArgs) : State :=
  let b := m.bytes
  let h := msgHead b
  let body := (b.drop 32).take (b.length - 48)
  let req (rd : Bool) (items : List WrItem) : MgReq :=
    { read := rd, src := m.src, port := m.port.toNat, slot := h.slot, flags := fieldAt b 5 1, seq := h.seq, reqId := h.reqId,
      items := items }
  if !bodyOk b then respond s m.src m.port.toNat h [rspItem 0xFFFF 0 0 0x01D0 []]
  else match h.typ with
    | 1 => takeRequest s (req true (readItems body))
    | 3 => takeRequest s (req false ((writeItems (fieldAt b 6 2) body).getD []))
    | 6 => eventAck s m.src (leNat body)
    | _ => keyAuth s m

/-- An authentic message: it wakes its sender's collectors, and it is accepted where its number lies above h (18, R590, R602).
Assumption 65 (DEDUCED). -/
def msgAuthentic (s : State) (m : MsgArgs) : State :=
  let h := msgHead m.bytes
  let t := (List.range 4).foldl (collWake m.src h.slot) s
  let top := nth t.mgmt.h h.slot
  if h.seq ≤ top then respond t m.src m.port.toNat h [rspItem 0x1031 (h.slot + 1) 5 0x02D2 (leBytes 8 top)]
  else msgAct (takeSeq t h.slot h.seq) m

/-- A datagram reaches the port (18, R583, R584, R587). Assumption 65 (DEDUCED). -/
def datagram (s0 : State) (m : MsgArgs) (stuck : List (BitVec 12)) : State :=
  let s := advance s0 m.dt
  let b := m.bytes
  let h := msgHead b
  if !s.supplies.aon || s.mgmt.dup then s
  else if b.length < 48 || 1232 < b.length then withMgmt s (fun x => { x with malformed := satInc x.malformed 1 })
  else if fieldAt b 0 2 != 0x594E || fieldAt b 2 1 != 1 || !([1, 3, 6, 8].contains h.typ) || fieldAt b 16 8 != serialOf s then msgDrop s
  else if h.slot = 0xFF then (if h.typ = 8 then keyUnauth s m stuck else authFail s)
  else match slotKey s h.slot with
    | none => authFail s
    | some k => if msgTag k (b.take (b.length - 16)) = b.drop (b.length - 16) then msgAuthentic s m else authFail s

/-- READ_REQ. -/
def execReadReq (m : MsgArgs) (s : State) : Out := .next (datagram s m [])

/-- WRITE_REQ. -/
def execWriteReq (m : MsgArgs) (s : State) : Out := .next (datagram s m [])

/-- EVENT_ACK. -/
def execEventAck (m : MsgArgs) (s : State) : Out := .next (datagram s m [])

/-- KEY_SET; the bytes at `stuck` do not take a burn. -/
def execKeySet (m : MsgArgs) (stuck : List (BitVec 12)) (s : State) : Out := .next (datagram s m stuck)

/-- Send the EVENT message number n with some records to collector c, where its slot has a key (18, R600, R601). -/
def eventMessage (s : State) (c n : Nat) (ids : List Nat) : State :=
  let x := collAt s c
  match slotKey s x.slot with
  | none => s
  | some k =>
    let evs := (s.mgmt.queue.filter (fun r => ids.contains r.id)).map (·.ev)
    sendTo s x.addr x.port
      (msgBytes s { typ := 5, slot := x.slot, seq := s.life.boots * 2 ^ 32 + n, reqId := 0 } evs.length (evs.flatMap evBytes) (some k))

/-- The records that collector c has still to be sent, at most 32 (18, R600). -/
def eventNext (s : State) (c : Nat) : List Nat :=
  ((s.mgmt.queue.filter (fun r => r.owed.getLsbD c && decide ((collAt s c).sentTo < r.id))).map (·.id)).take 32

/-- A new EVENT message to collector c (18, R601). -/
def eventSend (s : State) (c : Nat) : State :=
  let x := collAt s c
  let ids := eventNext s c
  if !s.supplies.aon || x.st != 1 || ids.isEmpty || (slotKey s x.slot).isNone then s
  else
    withColl (eventMessage s c (x.n + 1) ids) c (fun y =>
      { y with n := y.n + 1, open_ := y.open_ ++ [(y.n + 1, ids)], sentTo := ids.getLast?.getD y.sentTo })

/-- EVENT_SEND. -/
def execEventSend (c : BitVec 2) (dt : Word64) (s : State) : Out := .next (eventSend (advance s dt) c.toNat)

/-- EVENT_RETRANSMIT: the oldest unacknowledged message goes out again, unchanged (18, R601). -/
def execEventRetransmit (c : BitVec 2) (s : State) : Out :=
  .next (match (collAt s c.toNat).open_ with
    | e :: _ => if s.supplies.aon && (collAt s c.toNat).st = 1 then eventMessage s c.toNat e.1 e.2 else s
    | [] => s)

/-- COLLECTOR_STALE: a collector has acknowledged nothing for 10 s (18, R602). -/
def execCollectorStale (c : BitVec 2) (s : State) : Out :=
  .next (
    if !s.supplies.aon || (collAt s c.toNat).st != 1 then s
    else
      let t := withColl s c.toNat (fun x => { x with st := 2 })
      sendEvent (withMgmt t mgmtFree) srcFw 15 0x02D5 0)

/-- The objects that ANNOUNCE carries (18, R603). Assumption 67 (DEDUCED). -/
def announced : List (Nat × Nat) := [(0x1000, 1), (0x1000, 2), (0x1000, 4), (0x1000, 5), (0x1010, 2)]

/-- ff02::1. -/
def allNodes : List Byte := [0xFF, 0x02] ++ List.replicate 13 0 ++ [1]

/-- ANNOUNCE: response items without values, unauthenticated (18, R586, R603). -/
def execAnnounce (s : State) : Out :=
  let item (e : Nat × Nat) : List Byte :=
    let it : WrItem := { index := e.1, sub := e.2, typ := 0, val := [] }
    rspItem e.1 e.2 (itemType it) (readStatus s it) []
  .next (sendTo s allNodes s.mgmt.portNow
    (msgBytes s { typ := 7, slot := 0xFF, seq := 0, reqId := 0 } announced.length (announced.flatMap item) none))

end Sys2Proof.Machine
end

