-- ==== Sys2Proof/Machine/ScalarSlot.lean ====
section
/-! DEFINITION. The scalar-slot commands: each supplies a bundle that carries the operation alone (06, R203, R210, R211). -/

namespace Sys2Proof.Machine

/-- ADD in every cluster of partition p (06, scalar slot). -/
def execAdd (p : Nat) (a : ScalarArgs) (s : State) : Out :=
  slotExec p { emptyBundle with scOp := .add, sc := a } s

/-- SUB in every cluster of partition p (06, scalar slot). -/
def execSub (p : Nat) (a : ScalarArgs) (s : State) : Out :=
  slotExec p { emptyBundle with scOp := .sub, sc := a } s

/-- AND in every cluster of partition p (06, scalar slot). -/
def execAnd (p : Nat) (a : ScalarArgs) (s : State) : Out :=
  slotExec p { emptyBundle with scOp := .and, sc := a } s

/-- OR in every cluster of partition p (06, scalar slot). -/
def execOr (p : Nat) (a : ScalarArgs) (s : State) : Out :=
  slotExec p { emptyBundle with scOp := .or, sc := a } s

/-- XOR in every cluster of partition p (06, scalar slot). -/
def execXor (p : Nat) (a : ScalarArgs) (s : State) : Out :=
  slotExec p { emptyBundle with scOp := .xor, sc := a } s

/-- SHL in every cluster of partition p (06, scalar slot). -/
def execShl (p : Nat) (a : ScalarArgs) (s : State) : Out :=
  slotExec p { emptyBundle with scOp := .shl, sc := a } s

/-- SHR in every cluster of partition p (06, scalar slot). -/
def execShr (p : Nat) (a : ScalarArgs) (s : State) : Out :=
  slotExec p { emptyBundle with scOp := .shr, sc := a } s

/-- SAR in every cluster of partition p (06, scalar slot). -/
def execSar (p : Nat) (a : ScalarArgs) (s : State) : Out :=
  slotExec p { emptyBundle with scOp := .sar, sc := a } s

/-- MUL in every cluster of partition p (06, scalar slot). -/
def execMul (p : Nat) (a : ScalarArgs) (s : State) : Out :=
  slotExec p { emptyBundle with scOp := .mul, sc := a } s

/-- ADDI in every cluster of partition p (06, scalar slot). -/
def execAddi (p : Nat) (a : ScalarArgs) (s : State) : Out :=
  slotExec p { emptyBundle with scOp := .addi, sc := a } s

/-- LI in every cluster of partition p (06, scalar slot). -/
def execLi (p : Nat) (a : ScalarArgs) (s : State) : Out :=
  slotExec p { emptyBundle with scOp := .li, sc := a } s

/-- LIH in every cluster of partition p (06, scalar slot). -/
def execLih (p : Nat) (a : ScalarArgs) (s : State) : Out :=
  slotExec p { emptyBundle with scOp := .lih, sc := a } s

/-- CEQ in every cluster of partition p (06, scalar slot). -/
def execCeq (p : Nat) (a : ScalarArgs) (s : State) : Out :=
  slotExec p { emptyBundle with scOp := .ceq, sc := a } s

/-- CLT in every cluster of partition p (06, scalar slot). -/
def execClt (p : Nat) (a : ScalarArgs) (s : State) : Out :=
  slotExec p { emptyBundle with scOp := .clt, sc := a } s

/-- CLTU in every cluster of partition p (06, scalar slot). -/
def execCltu (p : Nat) (a : ScalarArgs) (s : State) : Out :=
  slotExec p { emptyBundle with scOp := .cltu, sc := a } s

/-- CEQI in every cluster of partition p (06, scalar slot). -/
def execCeqi (p : Nat) (a : ScalarArgs) (s : State) : Out :=
  slotExec p { emptyBundle with scOp := .ceqi, sc := a } s

/-- CLTI in every cluster of partition p (06, scalar slot). -/
def execClti (p : Nat) (a : ScalarArgs) (s : State) : Out :=
  slotExec p { emptyBundle with scOp := .clti, sc := a } s

/-- PAND in every cluster of partition p (06, scalar slot). -/
def execPand (p : Nat) (a : ScalarArgs) (s : State) : Out :=
  slotExec p { emptyBundle with scOp := .pand, sc := a } s

/-- POR in every cluster of partition p (06, scalar slot). -/
def execPor (p : Nat) (a : ScalarArgs) (s : State) : Out :=
  slotExec p { emptyBundle with scOp := .por, sc := a } s

/-- PNOT in every cluster of partition p (06, scalar slot). -/
def execPnot (p : Nat) (a : ScalarArgs) (s : State) : Out :=
  slotExec p { emptyBundle with scOp := .pnot, sc := a } s

/-- LD in every cluster of partition p (06, scalar slot). -/
def execLd (p : Nat) (a : ScalarArgs) (s : State) : Out :=
  slotExec p { emptyBundle with scOp := .ld, sc := a } s

/-- ST in every cluster of partition p (06, scalar slot). -/
def execSt (p : Nat) (a : ScalarArgs) (s : State) : Out :=
  slotExec p { emptyBundle with scOp := .st, sc := a } s

/-- CRD in every cluster of partition p (06, scalar slot). -/
def execCrd (p : Nat) (a : ScalarArgs) (s : State) : Out :=
  slotExec p { emptyBundle with scOp := .crd, sc := a } s

/-- CWR in every cluster of partition p (06, scalar slot). -/
def execCwr (p : Nat) (a : ScalarArgs) (s : State) : Out :=
  slotExec p { emptyBundle with scOp := .cwr, sc := a } s

end Sys2Proof.Machine
end

