-- ==== Sys2Proof/Machine/VectorSlot.lean ====
section
/-! DEFINITION. The vector-slot commands (07, R246 to R258; 09, R288). -/

namespace Sys2Proof.Machine

/-- VLD in every cluster of partition p (07, R246; 06, R219). -/
def execVld (p : Nat) (a : VecArgs) (s : State) : Out :=
  slotExec p { emptyBundle with vOp := .vld, vec := a } s

/-- VST in every cluster of partition p (07, R246; 06, R219). -/
def execVst (p : Nat) (a : VecArgs) (s : State) : Out :=
  slotExec p { emptyBundle with vOp := .vst, vec := a } s

/-- VDRN in every cluster of partition p (07, R246; 06, R219). -/
def execVdrn (p : Nat) (a : VecArgs) (s : State) : Out :=
  slotExec p { emptyBundle with vOp := .vdrn, vec := a } s

/-- VDST in every cluster of partition p (07, R246; 06, R219). -/
def execVdst (p : Nat) (a : VecArgs) (s : State) : Out :=
  slotExec p { emptyBundle with vOp := .vdst, vec := a } s

/-- FADD in every cluster of partition p (07, R246 to R258). -/
def execFadd (p : Nat) (a : VecArgs) (s : State) : Out :=
  slotExec p { emptyBundle with vOp := .lane .fadd, vec := a } s

/-- FSUB in every cluster of partition p (07, R246 to R258). -/
def execFsub (p : Nat) (a : VecArgs) (s : State) : Out :=
  slotExec p { emptyBundle with vOp := .lane .fsub, vec := a } s

/-- FMUL in every cluster of partition p (07, R246 to R258). -/
def execFmul (p : Nat) (a : VecArgs) (s : State) : Out :=
  slotExec p { emptyBundle with vOp := .lane .fmul, vec := a } s

/-- FMA in every cluster of partition p (07, R246 to R258). -/
def execFma (p : Nat) (a : VecArgs) (s : State) : Out :=
  slotExec p { emptyBundle with vOp := .lane .fma, vec := a } s

/-- FMIN in every cluster of partition p (07, R246 to R258). -/
def execFmin (p : Nat) (a : VecArgs) (s : State) : Out :=
  slotExec p { emptyBundle with vOp := .lane .fmin, vec := a } s

/-- FMAX in every cluster of partition p (07, R246 to R258). -/
def execFmax (p : Nat) (a : VecArgs) (s : State) : Out :=
  slotExec p { emptyBundle with vOp := .lane .fmax, vec := a } s

/-- FABS in every cluster of partition p (07, R246 to R258). -/
def execFabs (p : Nat) (a : VecArgs) (s : State) : Out :=
  slotExec p { emptyBundle with vOp := .lane .fabs, vec := a } s

/-- FNEG in every cluster of partition p (07, R246 to R258). -/
def execFneg (p : Nat) (a : VecArgs) (s : State) : Out :=
  slotExec p { emptyBundle with vOp := .lane .fneg, vec := a } s

/-- FCMPEQ in every cluster of partition p (07, R246 to R258). -/
def execFcmpeq (p : Nat) (a : VecArgs) (s : State) : Out :=
  slotExec p { emptyBundle with vOp := .lane .fcmpeq, vec := a } s

/-- FCMPLT in every cluster of partition p (07, R246 to R258). -/
def execFcmplt (p : Nat) (a : VecArgs) (s : State) : Out :=
  slotExec p { emptyBundle with vOp := .lane .fcmplt, vec := a } s

/-- FCMPLE in every cluster of partition p (07, R246 to R258). -/
def execFcmple (p : Nat) (a : VecArgs) (s : State) : Out :=
  slotExec p { emptyBundle with vOp := .lane .fcmple, vec := a } s

/-- VSEL in every cluster of partition p (07, R246 to R258). -/
def execVsel (p : Nat) (a : VecArgs) (s : State) : Out :=
  slotExec p { emptyBundle with vOp := .lane .vsel, vec := a } s

/-- FDIV in every cluster of partition p (07, R246 to R258). -/
def execFdiv (p : Nat) (a : VecArgs) (s : State) : Out :=
  slotExec p { emptyBundle with vOp := .lane .fdiv, vec := a } s

/-- FSQRT in every cluster of partition p (07, R246 to R258). -/
def execFsqrt (p : Nat) (a : VecArgs) (s : State) : Out :=
  slotExec p { emptyBundle with vOp := .lane .fsqrt, vec := a } s

/-- CVTFI in every cluster of partition p (07, R246 to R258). -/
def execCvtfi (p : Nat) (a : VecArgs) (s : State) : Out :=
  slotExec p { emptyBundle with vOp := .lane .cvtfi, vec := a } s

/-- CVTIF in every cluster of partition p (07, R246 to R258). -/
def execCvtif (p : Nat) (a : VecArgs) (s : State) : Out :=
  slotExec p { emptyBundle with vOp := .lane .cvtif, vec := a } s

/-- IADD in every cluster of partition p (07, R246 to R258). -/
def execIadd (p : Nat) (a : VecArgs) (s : State) : Out :=
  slotExec p { emptyBundle with vOp := .lane .iadd, vec := a } s

/-- ISUB in every cluster of partition p (07, R246 to R258). -/
def execIsub (p : Nat) (a : VecArgs) (s : State) : Out :=
  slotExec p { emptyBundle with vOp := .lane .isub, vec := a } s

/-- VEC_AND in every cluster of partition p (07, R246 to R258). -/
def execVecAnd (p : Nat) (a : VecArgs) (s : State) : Out :=
  slotExec p { emptyBundle with vOp := .lane .vand, vec := a } s

/-- VEC_OR in every cluster of partition p (07, R246 to R258). -/
def execVecOr (p : Nat) (a : VecArgs) (s : State) : Out :=
  slotExec p { emptyBundle with vOp := .lane .vor, vec := a } s

/-- VEC_XOR in every cluster of partition p (07, R246 to R258). -/
def execVecXor (p : Nat) (a : VecArgs) (s : State) : Out :=
  slotExec p { emptyBundle with vOp := .lane .vxor, vec := a } s

/-- SHLI in every cluster of partition p (07, R246 to R258). -/
def execShli (p : Nat) (a : VecArgs) (s : State) : Out :=
  slotExec p { emptyBundle with vOp := .lane .shli, vec := a } s

/-- SHRI in every cluster of partition p (07, R246 to R258). -/
def execShri (p : Nat) (a : VecArgs) (s : State) : Out :=
  slotExec p { emptyBundle with vOp := .lane .shri, vec := a } s

/-- SARI in every cluster of partition p (07, R246 to R258). -/
def execSari (p : Nat) (a : VecArgs) (s : State) : Out :=
  slotExec p { emptyBundle with vOp := .lane .sari, vec := a } s

/-- VBCST in every cluster of partition p (07, R246 to R258). -/
def execVbcst (p : Nat) (a : VecArgs) (s : State) : Out :=
  slotExec p { emptyBundle with vOp := .lane .vbcst, vec := a } s

/-- VIDX in every cluster of partition p (07, R246 to R258). -/
def execVidx (p : Nat) (a : VecArgs) (s : State) : Out :=
  slotExec p { emptyBundle with vOp := .lane .vidx, vec := a } s

/-- VROT in every cluster of partition p (07, R246 to R258). -/
def execVrot (p : Nat) (a : VecArgs) (s : State) : Out :=
  slotExec p { emptyBundle with vOp := .lane .vrot, vec := a } s

/-- VSPLAT in every cluster of partition p (07, R246 to R258). -/
def execVsplat (p : Nat) (a : VecArgs) (s : State) : Out :=
  slotExec p { emptyBundle with vOp := .lane .vsplat, vec := a } s

/-- EXP2 in every cluster of partition p (07, R246 to R258). -/
def execExp2 (p : Nat) (a : VecArgs) (s : State) : Out :=
  slotExec p { emptyBundle with vOp := .lane .exp2, vec := a } s

/-- LOG2 in every cluster of partition p (07, R246 to R258). -/
def execLog2 (p : Nat) (a : VecArgs) (s : State) : Out :=
  slotExec p { emptyBundle with vOp := .lane .log2, vec := a } s

/-- RCP in every cluster of partition p (07, R246 to R258). -/
def execRcp (p : Nat) (a : VecArgs) (s : State) : Out :=
  slotExec p { emptyBundle with vOp := .lane .rcp, vec := a } s

/-- RSQRT in every cluster of partition p (07, R246 to R258). -/
def execRsqrt (p : Nat) (a : VecArgs) (s : State) : Out :=
  slotExec p { emptyBundle with vOp := .lane .rsqrt, vec := a } s

/-- TANH in every cluster of partition p (07, R246 to R258). -/
def execTanh (p : Nat) (a : VecArgs) (s : State) : Out :=
  slotExec p { emptyBundle with vOp := .lane .tanh, vec := a } s

/-- ERF in every cluster of partition p (07, R246 to R258). -/
def execErf (p : Nat) (a : VecArgs) (s : State) : Out :=
  slotExec p { emptyBundle with vOp := .lane .erf, vec := a } s

/-- GUMBEL in every cluster of partition p (07, R246 to R258). -/
def execGumbel (p : Nat) (a : VecArgs) (s : State) : Out :=
  slotExec p { emptyBundle with vOp := .lane .gumbel, vec := a } s

/-- NORMINV in every cluster of partition p (07, R246 to R258). -/
def execNorminv (p : Nat) (a : VecArgs) (s : State) : Out :=
  slotExec p { emptyBundle with vOp := .lane .norminv, vec := a } s

/-- VRAND in every cluster of partition p (09, R288 to R290). -/
def execVrand (p : Nat) (a : VecArgs) (s : State) : Out :=
  slotExec p { emptyBundle with vOp := vOfCode 0x38 a.vext.toNat, vec := a } s

/-- RSUM in every cluster of partition p (07, R246 to R258). -/
def execRsum (p : Nat) (a : VecArgs) (s : State) : Out :=
  slotExec p { emptyBundle with vOp := .lane .rsum, vec := a } s

/-- RSUMSQ in every cluster of partition p (07, R246 to R258). -/
def execRsumsq (p : Nat) (a : VecArgs) (s : State) : Out :=
  slotExec p { emptyBundle with vOp := .lane .rsumsq, vec := a } s

/-- RMAX in every cluster of partition p (07, R246 to R258). -/
def execRmax (p : Nat) (a : VecArgs) (s : State) : Out :=
  slotExec p { emptyBundle with vOp := .lane .rmax, vec := a } s

/-- RARGMAX in every cluster of partition p (07, R246 to R258). -/
def execRargmax (p : Nat) (a : VecArgs) (s : State) : Out :=
  slotExec p { emptyBundle with vOp := .lane .rargmax, vec := a } s

end Sys2Proof.Machine
end

