-- ==== Sys2Proof/Machine/Dispatch.lean ====
section
/-! DEFINITION. exec: one arm for each command, each a call of its meaning. -/

namespace Sys2Proof.Machine

/-- The effect of a command on everything but the queue. -/
def exec (i : Instr) (s : State) : Host.Outcome State Fault Refusal :=
  match i with
  | .moduleReset => Sys2Proof.Machine.execModuleReset s
  | .bootRomDone mismatch => Sys2Proof.Machine.execBootRomDone mismatch s
  | .fwVerify keyA keyB => Sys2Proof.Machine.execFwVerify keyA keyB s
  | .start a => Sys2Proof.Machine.execStart a s
  | .startPhaseTimeout phase => Sys2Proof.Machine.execStartPhaseTimeout phase s
  | .perst => Sys2Proof.Machine.execPerst s
  | .functionLevelReset fn => Sys2Proof.Machine.execFunctionLevelReset fn s
  | .pcieLinkDown => Sys2Proof.Machine.execPcieLinkDown s
  | .hostPathTimeout p => Sys2Proof.Machine.execHostPathTimeout p s
  | .bridgeLaneFail bridge group => Sys2Proof.Machine.execBridgeLaneFail bridge group s
  | .bridgeGroupLoss bridge group => Sys2Proof.Machine.execBridgeGroupLoss bridge group s
  | .bridgeLoss bridge => Sys2Proof.Machine.execBridgeLoss bridge s
  | .clusterFail l => Sys2Proof.Machine.execClusterFail l s
  | .hubCoreFail core => Sys2Proof.Machine.execHubCoreFail core s
  | .itemArrival l buf mark => Sys2Proof.Machine.execItemArrival l buf mark s
  | .stallWatchdog p => Sys2Proof.Machine.execStallWatchdog p s
  | .bufferWait p bufs => Sys2Proof.Machine.execBufferWait p bufs s
  | .brk p => Sys2Proof.Machine.execBrk p s
  | .debugFreeze p => Sys2Proof.Machine.execDebugFreeze p s
  | .debugResume p => Sys2Proof.Machine.execDebugResume p s
  | .debugEndJob p => Sys2Proof.Machine.execDebugEndJob p s
  | .dbgClDataWrite fn w => Sys2Proof.Machine.execDbgClDataWrite fn w s
  | .loop p count last => Sys2Proof.Machine.execLoop p count last s
  | .jump p target => Sys2Proof.Machine.execJump p target s
  | .vbrAny p pred target => Sys2Proof.Machine.execVbrAny p pred target s
  | .vbrAll p pred target => Sys2Proof.Machine.execVbrAll p pred target s
  | .stepEnd p => Sys2Proof.Machine.execStepEnd p s
  | .halt p => Sys2Proof.Machine.execHalt p s
  | .add p a => Sys2Proof.Machine.execAdd p a s
  | .sub p a => Sys2Proof.Machine.execSub p a s
  | .and p a => Sys2Proof.Machine.execAnd p a s
  | .or p a => Sys2Proof.Machine.execOr p a s
  | .xor p a => Sys2Proof.Machine.execXor p a s
  | .shl p a => Sys2Proof.Machine.execShl p a s
  | .shr p a => Sys2Proof.Machine.execShr p a s
  | .sar p a => Sys2Proof.Machine.execSar p a s
  | .mul p a => Sys2Proof.Machine.execMul p a s
  | .addi p a => Sys2Proof.Machine.execAddi p a s
  | .li p a => Sys2Proof.Machine.execLi p a s
  | .lih p a => Sys2Proof.Machine.execLih p a s
  | .ceq p a => Sys2Proof.Machine.execCeq p a s
  | .clt p a => Sys2Proof.Machine.execClt p a s
  | .cltu p a => Sys2Proof.Machine.execCltu p a s
  | .ceqi p a => Sys2Proof.Machine.execCeqi p a s
  | .clti p a => Sys2Proof.Machine.execClti p a s
  | .pand p a => Sys2Proof.Machine.execPand p a s
  | .por p a => Sys2Proof.Machine.execPor p a s
  | .pnot p a => Sys2Proof.Machine.execPnot p a s
  | .ld p a => Sys2Proof.Machine.execLd p a s
  | .st p a => Sys2Proof.Machine.execSt p a s
  | .crd p a => Sys2Proof.Machine.execCrd p a s
  | .cwr p a => Sys2Proof.Machine.execCwr p a s
  | .pass p a => Sys2Proof.Machine.execPass p a s
  | .stallLoad p a => Sys2Proof.Machine.execStallLoad p a s
  | .shadowLoad p a => Sys2Proof.Machine.execShadowLoad p a s
  | .retire p pred acc => Sys2Proof.Machine.execRetire p pred acc s
  | .drain p pred acc => Sys2Proof.Machine.execDrain p pred acc s
  | .stream p a => Sys2Proof.Machine.execStream p a s
  | .stat p a => Sys2Proof.Machine.execStat p a s
  | .streamStat p a => Sys2Proof.Machine.execStreamStat p a s
  | .store p a => Sys2Proof.Machine.execStore p a s
  | .vld p a => Sys2Proof.Machine.execVld p a s
  | .vst p a => Sys2Proof.Machine.execVst p a s
  | .vdrn p a => Sys2Proof.Machine.execVdrn p a s
  | .vdst p a => Sys2Proof.Machine.execVdst p a s
  | .fadd p a => Sys2Proof.Machine.execFadd p a s
  | .fsub p a => Sys2Proof.Machine.execFsub p a s
  | .fmul p a => Sys2Proof.Machine.execFmul p a s
  | .fma p a => Sys2Proof.Machine.execFma p a s
  | .fmin p a => Sys2Proof.Machine.execFmin p a s
  | .fmax p a => Sys2Proof.Machine.execFmax p a s
  | .fabs p a => Sys2Proof.Machine.execFabs p a s
  | .fneg p a => Sys2Proof.Machine.execFneg p a s
  | .fcmpeq p a => Sys2Proof.Machine.execFcmpeq p a s
  | .fcmplt p a => Sys2Proof.Machine.execFcmplt p a s
  | .fcmple p a => Sys2Proof.Machine.execFcmple p a s
  | .vsel p a => Sys2Proof.Machine.execVsel p a s
  | .fdiv p a => Sys2Proof.Machine.execFdiv p a s
  | .fsqrt p a => Sys2Proof.Machine.execFsqrt p a s
  | .cvtfi p a => Sys2Proof.Machine.execCvtfi p a s
  | .cvtif p a => Sys2Proof.Machine.execCvtif p a s
  | .iadd p a => Sys2Proof.Machine.execIadd p a s
  | .isub p a => Sys2Proof.Machine.execIsub p a s
  | .vecAnd p a => Sys2Proof.Machine.execVecAnd p a s
  | .vecOr p a => Sys2Proof.Machine.execVecOr p a s
  | .vecXor p a => Sys2Proof.Machine.execVecXor p a s
  | .shli p a => Sys2Proof.Machine.execShli p a s
  | .shri p a => Sys2Proof.Machine.execShri p a s
  | .sari p a => Sys2Proof.Machine.execSari p a s
  | .vbcst p a => Sys2Proof.Machine.execVbcst p a s
  | .vidx p a => Sys2Proof.Machine.execVidx p a s
  | .vrot p a => Sys2Proof.Machine.execVrot p a s
  | .vsplat p a => Sys2Proof.Machine.execVsplat p a s
  | .exp2 p a => Sys2Proof.Machine.execExp2 p a s
  | .log2 p a => Sys2Proof.Machine.execLog2 p a s
  | .rcp p a => Sys2Proof.Machine.execRcp p a s
  | .rsqrt p a => Sys2Proof.Machine.execRsqrt p a s
  | .tanh p a => Sys2Proof.Machine.execTanh p a s
  | .erf p a => Sys2Proof.Machine.execErf p a s
  | .gumbel p a => Sys2Proof.Machine.execGumbel p a s
  | .norminv p a => Sys2Proof.Machine.execNorminv p a s
  | .vrand p a => Sys2Proof.Machine.execVrand p a s
  | .rsum p a => Sys2Proof.Machine.execRsum p a s
  | .rsumsq p a => Sys2Proof.Machine.execRsumsq p a s
  | .rmax p a => Sys2Proof.Machine.execRmax p a s
  | .rargmax p a => Sys2Proof.Machine.execRargmax p a s
  | .read p a ecc => Sys2Proof.Machine.execRead p a ecc s
  | .write p a => Sys2Proof.Machine.execWrite p a s
  | .send p a => Sys2Proof.Machine.execSend p a s
  | .recv p a => Sys2Proof.Machine.execRecv p a s
  | .atomicAdd p a => Sys2Proof.Machine.execAtomicAdd p a s
  | .atomicAddRelaxed p a => Sys2Proof.Machine.execAtomicAddRelaxed p a s
  | .hostout p a => Sys2Proof.Machine.execHostout p a s
  | .regread p a => Sys2Proof.Machine.execRegread p a s
  | .solve p a => Sys2Proof.Machine.execSolve p a s
  | .seed p a => Sys2Proof.Machine.execSeed p a s
  | .coll p a => Sys2Proof.Machine.execColl p a s
  | .collBegin p id => Sys2Proof.Machine.execCollBegin p id s
  | .measure p group => Sys2Proof.Machine.execMeasure p group s
  | .apply p group => Sys2Proof.Machine.execApply p group s
  | .stateDigest p => Sys2Proof.Machine.execStateDigest p s
  | .verdict p => Sys2Proof.Machine.execVerdict p s
  | .updateEngineMismatch p die granule => Sys2Proof.Machine.execUpdateEngineMismatch p die granule s
  | .uncorrectableError l structure_ place => Sys2Proof.Machine.execUncorrectableError l structure_ place s
  | .replay p restoreBad copyBad => Sys2Proof.Machine.execReplay p restoreBad copyBad s
  | .replayRestart p dt => Sys2Proof.Machine.execReplayRestart p dt s
  | .healthDecay dt => Sys2Proof.Machine.execHealthDecay dt s
  | .neighbourParityError l hop => Sys2Proof.Machine.execNeighbourParityError l hop s
  | .spotCheckCompare l differs => Sys2Proof.Machine.execSpotCheckCompare l differs s
  | .testWindowOpen => Sys2Proof.Machine.execTestWindowOpen s
  | .testWindowClose fail => Sys2Proof.Machine.execTestWindowClose fail s
  | .stackFail stack => Sys2Proof.Machine.execStackFail stack s
  | .rebuildStripe p => Sys2Proof.Machine.execRebuildStripe p s
  | .patrolScrub stack line err => Sys2Proof.Machine.execPatrolScrub stack line err s
  | .bar4Read fn off n => Sys2Proof.Machine.execBar4Read fn off n s
  | .bar4Write fn off data => Sys2Proof.Machine.execBar4Write fn off data s
  | .gets line req fclk => Sys2Proof.Machine.execGets line req fclk s
  | .getm line req fclk => Sys2Proof.Machine.execGetm line req fclk s
  | .putm line req data => Sys2Proof.Machine.execPutm line req data s
  | .ownerRecall line fclk => Sys2Proof.Machine.execOwnerRecall line fclk s
  | .linkIdle a => Sys2Proof.Machine.execLinkIdle a s
  | .linkNak a => Sys2Proof.Machine.execLinkNak a s
  | .linkTrain a => Sys2Proof.Machine.execLinkTrain a s
  | .flitForward a => Sys2Proof.Machine.execFlitForward a s
  | .sendFlit a => Sys2Proof.Machine.execSendFlit a s
  | .rwrite a => Sys2Proof.Machine.execRwrite a s
  | .rreadReq a => Sys2Proof.Machine.execRreadReq a s
  | .rreadData a => Sys2Proof.Machine.execRreadData a s
  | .ratomic a => Sys2Proof.Machine.execRatomic a s
  | .ratomicRelaxed a => Sys2Proof.Machine.execRatomicRelaxed a s
  | .collFlit a => Sys2Proof.Machine.execCollFlit a s
  | .a2aFlit a => Sys2Proof.Machine.execA2aFlit a s
  | .ack a => Sys2Proof.Machine.execAck a s
  | .nack a => Sys2Proof.Machine.execNack a s
  | .reject a => Sys2Proof.Machine.execReject a s
  | .routeFail a => Sys2Proof.Machine.execRouteFail a s
  | .replayTimeout port half => Sys2Proof.Machine.execReplayTimeout port half s
  | .laneFail port lane => Sys2Proof.Machine.execLaneFail port lane s
  | .linkFail port half => Sys2Proof.Machine.execLinkFail port half s
  | .linkRetrainRequest port => Sys2Proof.Machine.execLinkRetrainRequest port s
  | .arrive a => Sys2Proof.Machine.execArrive a s
  | .release a => Sys2Proof.Machine.execRelease a s
  | .barrierReleaseTime p => Sys2Proof.Machine.execBarrierReleaseTime p s
  | .abort a => Sys2Proof.Machine.execAbort a s
  | .ckptReq a => Sys2Proof.Machine.execCkptReq a s
  | .ckptDone a => Sys2Proof.Machine.execCkptDone a s
  | .time a => Sys2Proof.Machine.execTime a s
  | .timeExchange dt => Sys2Proof.Machine.execTimeExchange dt s
  | .quartzHoldover dt => Sys2Proof.Machine.execQuartzHoldover dt s
  | .qzLoad fn v => Sys2Proof.Machine.execQzLoad fn v s
  | .qpSolveRequest ctx => Sys2Proof.Machine.execQpSolveRequest ctx s
  | .qpApplyRequest ctx => Sys2Proof.Machine.execQpApplyRequest ctx s
  | .wallDeadline ctx at_ => Sys2Proof.Machine.execWallDeadline ctx at_ s
  | .solverSramUncorrectable ctx => Sys2Proof.Machine.execSolverSramUncorrectable ctx s
  | .bsCtxCfgWrite fn ctx mem v => Sys2Proof.Machine.execBsCtxCfgWrite fn ctx mem v s
  | .bsFrameWrite fn v => Sys2Proof.Machine.execBsFrameWrite fn v s
  | .trngHealthFail apt dt => Sys2Proof.Machine.execTrngHealthFail apt dt s
  | .trngRestart => Sys2Proof.Machine.execTrngRestart s
  | .seedConditioned samples => Sys2Proof.Machine.execSeedConditioned samples s
  | .imageCommit p => Sys2Proof.Machine.execImageCommit p s
  | .cutTimeout p => Sys2Proof.Machine.execCutTimeout p s
  | .cutRequest p => Sys2Proof.Machine.execCutRequest p s
  | .ckDrain p => Sys2Proof.Machine.execCkDrain p s
  | .ckDrainComplete p => Sys2Proof.Machine.execCkDrainComplete p s
  | .ctxConfig a => Sys2Proof.Machine.execCtxConfig a s
  | .ctxClear a => Sys2Proof.Machine.execCtxClear a s
  | .jobStart a far => Sys2Proof.Machine.execJobStart a far s
  | .jobRunning p => Sys2Proof.Machine.execJobRunning p s
  | .jobEnd a => Sys2Proof.Machine.execJobEnd a s
  | .jobRelease a => Sys2Proof.Machine.execJobRelease a s
  | .planChange a => Sys2Proof.Machine.execPlanChange a s
  | .seedGet a => Sys2Proof.Machine.execSeedGet a s
  | .svLoad a => Sys2Proof.Machine.execSvLoad a s
  | .svClear a => Sys2Proof.Machine.execSvClear a s
  | .svSolve a => Sys2Proof.Machine.execSvSolve a s
  | .svState a => Sys2Proof.Machine.execSvState a s
  | .fwStage a key => Sys2Proof.Machine.execFwStage a key s
  | .packInstall a key => Sys2Proof.Machine.execPackInstall a key s
  | .cmdTailWrite fn v key far => Sys2Proof.Machine.execCmdTailWrite fn v key far s
  | .mboxGo fn key far => Sys2Proof.Machine.execMboxGo fn key far s
  | .ringSizeWrite fn evt v => Sys2Proof.Machine.execRingSizeWrite fn evt v s
  | .doorbell fn off v => Sys2Proof.Machine.execDoorbell fn off v s
  | .stepEntryFetch k => Sys2Proof.Machine.execStepEntryFetch k s
  | .logTailWrite fn v => Sys2Proof.Machine.execLogTailWrite fn v s
  | .rcRead fn off n => Sys2Proof.Machine.execRcRead fn off n s
  | .lowHalfRead fn off n => Sys2Proof.Machine.execLowHalfRead fn off n s
  | .registerWrite fn off w => Sys2Proof.Machine.execRegisterWrite fn off w s
  | .readReq m => Sys2Proof.Machine.execReadReq m s
  | .writeReq m => Sys2Proof.Machine.execWriteReq m s
  | .eventAck m => Sys2Proof.Machine.execEventAck m s
  | .keySet m stuck => Sys2Proof.Machine.execKeySet m stuck s
  | .applicationTick dt => Sys2Proof.Machine.execApplicationTick dt s
  | .fuseBurn stuck => Sys2Proof.Machine.execFuseBurn stuck s
  | .eventSend c dt => Sys2Proof.Machine.execEventSend c dt s
  | .eventRetransmit c => Sys2Proof.Machine.execEventRetransmit c s
  | .collectorStale c => Sys2Proof.Machine.execCollectorStale c s
  | .announce => Sys2Proof.Machine.execAnnounce s
  | .auxPresent mv => Sys2Proof.Machine.execAuxPresent mv s
  | .auxAbsent mv => Sys2Proof.Machine.execAuxAbsent mv s
  | .mainEnable mv => Sys2Proof.Machine.execMainEnable mv s
  | .surpriseRemoval => Sys2Proof.Machine.execSurpriseRemoval s
  | .overVoltage mv => Sys2Proof.Machine.execOverVoltage mv s
  | .orderlyRemoval => Sys2Proof.Machine.execOrderlyRemoval s
  | .mainBelowWarning mv dt => Sys2Proof.Machine.execMainBelowWarning mv dt s
  | .mainAboveResume mv low dt => Sys2Proof.Machine.execMainAboveResume mv low dt s
  | .holdLimitExpiry => Sys2Proof.Machine.execHoldLimitExpiry s
  | .mainBelowReset mv => Sys2Proof.Machine.execMainBelowReset mv s
  | .permitSample a b dt => Sys2Proof.Machine.execPermitSample a b dt s
  | .permitFaultClear => Sys2Proof.Machine.execPermitFaultClear s
  | .haltRequest fn v => Sys2Proof.Machine.execHaltRequest fn v s
  | .haltBoundExpiry p => Sys2Proof.Machine.execHaltBoundExpiry p s
  | .fastPathWindow watts => Sys2Proof.Machine.execFastPathWindow watts s
  | .slowPath watts => Sys2Proof.Machine.execSlowPath watts s
  | .thermalAdjust a => Sys2Proof.Machine.execThermalAdjust a s
  | .thermalTrip => Sys2Proof.Machine.execThermalTrip s
  | .canarySample slack => Sys2Proof.Machine.execCanarySample slack s
  | .marginReplan => Sys2Proof.Machine.execMarginReplan s
  | .lifeRecordCommit secs wh => Sys2Proof.Machine.execLifeRecordCommit secs wh s
  | .reservedOperation p slot => Sys2Proof.Machine.execReservedOperation p slot s
  | .pcieLinkUp => Sys2Proof.Machine.execPcieLinkUp s
  | .linkTrainingComplete port half => Sys2Proof.Machine.execLinkTrainingComplete port half s
  | .codewordLock port half lanes => Sys2Proof.Machine.execCodewordLock port half lanes s
  | .codewordLockLoss port lane => Sys2Proof.Machine.execCodewordLockLoss port lane s
  | .noiseStartupTestDone => Sys2Proof.Machine.execNoiseStartupTestDone s
  | .alwaysOnPowerOn a => Sys2Proof.Machine.execAlwaysOnPowerOn a s
  | .alwaysOnHoldUpEnd => Sys2Proof.Machine.execAlwaysOnHoldUpEnd s
  | .cclkRelockDone dt => Sys2Proof.Machine.execCclkRelockDone dt s
  | .auxOvervoltage mv => Sys2Proof.Machine.execAuxOvervoltage mv s

end Sys2Proof.Machine
end

