-- ==== Sys2Proof/Safety.lean ====
section
/-! DEFINITION. What counts as a sound state and as a safe step, in the terms that the claims use. -/

namespace Sys2Proof.Machine

/-- Onyx holds bytes 0 to 4,095 in canonical form (20, R657). -/
def onyxOk (f : Mem 8) : Bool := memWf f && f.all (fun e => decide (e.1 < 4096))

/-- The fixed shape of the module and a sound fuse array: 12 partitions, 24 ports, 13 functions, 4 collectors (01, R42; 12, R381;
17, R554; 18, R600; 20, R657). -/
def Inv (s : State) : Prop :=
  s.parts.length = 12 ∧ s.ports.length = 24 ∧ s.host.fns.length = 13 ∧ s.mgmt.coll.length = 4 ∧ onyxOk s.boot.fuse = true

/-- Every burned bit of one fuse array is burned in another (20). -/
def staysBurned (f g : Mem 8) : Prop := ∀ a i : Nat, (memGet f a).getLsbD i = true → (memGet g a).getLsbD i = true

/-- A step that goes on. -/
def goesOn (o : Out) : Prop := ∃ t, o = .next t

/-- Every waiting command is well formed. -/
def queueOk (s : State) : Prop := s.pending.all Instr.wf = true

/-- Nothing of a cluster is under way: no register load, pass, feed, store, drain, vector result, LD, reservation or queued HBM
operation; and `poison_buf` reads 0 while `poison_in` is clear (06, R238). -/
structure Quiet (c : ClusterCore) : Prop where
  /-- No LD to land. -/
  ld : c.scalar.ld = []
  /-- No load. -/
  load : c.array.load = none
  /-- No pass. -/
  passes : c.array.passes = []
  /-- No vector entered. -/
  entered : c.array.entered = []
  /-- No results on their way. -/
  flights : c.array.flights = []
  /-- Nothing forwarded to the gang. -/
  fwd : c.array.fwd = []
  /-- No drain. -/
  drain : c.accum.drain = none
  /-- No drained row to come. -/
  deliver : c.accum.deliver = none
  /-- No stream. -/
  streams : c.conv.streams = []
  /-- No stationary feed. -/
  stats : c.conv.stats = []
  /-- No store. -/
  stores : c.conv.stores = []
  /-- No vector result. -/
  flight : c.vec.flight = []
  /-- No reservation of Opal. -/
  resv : c.opal.resv = []
  /-- No HBM operation. -/
  hbmq : c.dma.hbmq = []
  /-- DM_STATUS is as it reads. -/
  dm : (if c.dma.status.getLsbD 5 then c.dma.status else c.dma.status &&& 0x7F) = c.dma.status

/-- A running partition with nothing under way, whose step has begun and which nothing holds: its next bundle issues in the next
CCLK (01, R36 to R41). -/
structure Calm (s : State) (p : Nat) : Prop where
  /-- The partition exists. -/
  lt : p < s.parts.length
  /-- It is one of twelve. -/
  twelve : p < 12
  /-- It runs. -/
  run : (part s p).st = .running
  /-- CCLK runs. -/
  clk : cclkSteps s ≠ 0
  /-- No supplied bundle waits. -/
  stream : (part s p).seq.stream = []
  /-- No stalled cycle is owed to an item. -/
  owed : (part s p).seq.owed = []
  /-- The step has begun. -/
  begun : (part s p).seq.begun = true
  /-- It is not frozen. -/
  frozen : (part s p).seq.frozen = false
  /-- No freeze is scheduled. -/
  freezeAt : (part s p).seq.freezeAt = none
  /-- No replay is asked for. -/
  asked : (part s p).se.asked = false
  /-- No replay goes on. -/
  replaying : (part s p).se.replaying = false
  /-- It waits for no entry. -/
  waiting : (part s p).waiting = false
  /-- The power governor lets it issue. -/
  power : suppressedNow s (part s p) = false
  /-- No hold of cause 13. -/
  hold13 : (part s p).seq.holds.getLsbD 13 = false
  /-- The step can be replayed. -/
  replayable : (part s p).se.unreplayable = false
  /-- An HBM journal exists. -/
  hj : (part s p).se.hjBytesEff ≠ 0
  /-- Its clusters are quiet. -/
  quiet : ∀ c ∈ (part s p).clusters, Quiet c.core
  /-- No SRAM journal is full. -/
  room : ∀ c ∈ (part s p).clusters, c.journal.full = false
  /-- In debug mode no trap is recorded. -/
  traps : (part s p).job.debug = true → ∀ c ∈ (part s p).clusters, c.trap.valid = false

/-- The state with a bundle supplied to partition p (log entry 2). -/
def supplied (s : State) (p : Nat) (b : Bundle) : State := withPart s p (withSeq (fun x => { x with stream := x.stream ++ [b] }))

/-- What cluster i of partition p sees in the issue cycle of a supplied bundle. -/
def envAt (s : State) (p : Nat) (b : Bundle) (evs : List Ev) (i : Nat) : Env :=
  envOf (supplied s p b) p (part s p).seq.next b evs i

/-- Case 5 of R206 on the loop stack, innermost first: whether an iteration remains, and the stack. -/
def loopTurn (a : Nat) : List LoopEnt → Option Nat × List LoopEnt
  | [] => (none, [])
  | e :: t => if e.last ≠ a then (none, e :: t) else if 2 ≤ e.left then (some e.start, { e with left := e.left - 1 } :: t) else loopTurn a t

/-- The next address and the loop stack after a bundle at address a whose control slot is empty (06, R206): the target of a taken
vote two bundles before, a further iteration of the innermost loops that end at a, or a + 1 modulo 8192. -/
def plainNext (x : SeqState) (a : Nat) : Nat × List LoopEnt :=
  match x.votes.find? (fun v => v.u + 2 = x.ic && v.taken) with
  | some v => (v.target, x.loops.filter (fun e => decide (e.start ≤ v.target) && decide (v.target ≤ e.last)))
  | none => (((loopTurn a x.loops.reverse).1).getD ((a + 1) % 8192), (loopTurn a x.loops.reverse).2.reverse)

/-- The sequencer after one issue cycle of the bundle at address a: SQ_PC, what comes next, one issue cycle and one CCLK. -/
def issuedSeq (a next : Nat) (loops : List LoopEnt) (votes : List Vote) (x : SeqState) : SeqState :=
  { x with
    pc := a, next := next, loops := loops, votes := votes, ic := x.ic + 1, cclk := x.cclk + 1, stallRun := 0, brkPassed := false }

/-- Votes that are still to be decided after an issue cycle (06, R208). -/
def openVotes (x : SeqState) : List Vote := x.votes.filter (fun v => decide (x.ic < v.u + 2))

/-- The sequencer after a bundle at address a with an empty control slot (06, R206). -/
def plainAt (a : Nat) (x : SeqState) : SeqState := issuedSeq a (plainNext x a).1 (plainNext x a).2 (openVotes x) x

/-- The sequencer after the bundle at its next address, its control slot empty. -/
def plainSeq (x : SeqState) : SeqState := plainAt x.next x

/-- The state after one issued bundle that changed nothing but clusters, sequencer, SE_SJ_PEAK and the governor's own counts: every
other partition, HBM, the host's memory and the rest of the module stand. -/
def ranBundle (s : State) (p : Nat) (f : Nat → Cluster → Cluster) (g : SeqState → SeqState) : State :=
  let cls := (part s p).clusters.mapIdx f
  let t := withPart s p (fun q =>
    { q with
      clusters := cls, seq := g q.seq,
      se := { q.se with sjPeak := BitVec.ofNat 32 (cls.foldl (fun n c => max n c.journal.lines.length) q.se.sjPeak.toNat) } })
  { t with gov := (settleTick [p] s).gov }

/-- The control registers of a cluster after a cycle with a control-register write and nothing else (00, R8 to R11; 06, R211). -/
def regsWritten (w : Cwr) (c : ClusterCore) : ClusterCore :=
  { scalar := { c.scalar with status := w1cReg w 0x000 0x3FE c.scalar.status 0, wdog := rwReg w 0x010 (BitVec.allOnes 64) c.scalar.wdog },
    array := { c.array with
      status := w1cReg w 0x100 0x1FE c.array.status 0, gangCfg := rwReg w 0x103 0x3FFFFFFFFC3F c.array.gangCfg,
      gens := c.array.gens.mapIdx (fun g x => genCycle w g x) },
    accum := { c.accum with status := w1cReg w 0x200 0xF c.accum.status 0 },
    conv := { c.conv with
      ctrl := rwReg w 0x300 1 c.conv.ctrl, status := w1cReg w 0x301 0x3E c.conv.status 0,
      fdesc := c.conv.fdesc.mapIdx (fun d x => wideReg w (0x340 + 4 * d) 4 fdescMask x),
      sdesc := c.conv.sdesc.mapIdx (fun d x => wideReg w (0x380 + 4 * d) 4 sdescMask x) },
    vec := { c.vec with status := w1cReg w 0x400 0x1F c.vec.status 0 },
    opal := { c.opal with
      status := w1cReg w 0x500 2 c.opal.status 0, altLo := rwReg w 0x508 (BitVec.allOnes 64) c.opal.altLo,
      altHi := rwReg w 0x509 (BitVec.allOnes 64) c.opal.altHi,
      srIdx := c.opal.srIdx.mapIdx (fun d x => rwReg w (0x510 + 2 * d) (BitVec.ofNat 64 (2 ^ 64 - 128)) x),
      srStr := c.opal.srStr.mapIdx (fun d x => rwReg w (0x511 + 2 * d) (BitVec.ofNat 64 (2 ^ 64 - 128)) x) },
    dma := dmaRegs w 0 c.dma }

/-- A cluster with its units changed. -/
def inCore (f : ClusterCore → ClusterCore) (c : Cluster) : Cluster := { c with core := f c.core }

/-- A cluster with its scalar unit changed. -/
def inScalar (f : ScalarUnit → ScalarUnit) : Cluster → Cluster := inCore (fun x => { x with scalar := f x.scalar })

/-- A cluster with its array changed. -/
def inArray (f : ArrayUnit → ArrayUnit) : Cluster → Cluster := inCore (fun x => { x with array := f x.array })

/-- A cluster with its accumulator store changed. -/
def inAccum (f : AccumUnit → AccumUnit) : Cluster → Cluster := inCore (fun x => { x with accum := f x.accum })

/-- A cluster with its feed and store paths changed. -/
def inConv (f : ConvUnit → ConvUnit) : Cluster → Cluster := inCore (fun x => { x with conv := f x.conv })

/-- A cluster with its vector unit changed. -/
def inVec (f : VecUnit → VecUnit) : Cluster → Cluster := inCore (fun x => { x with vec := f x.vec })

/-- A cluster with its Opal pipeline changed. -/
def inOpal (f : OpalUnit → OpalUnit) : Cluster → Cluster := inCore (fun x => { x with opal := f x.opal })

/-- A cluster with its DMA engine changed. -/
def inDma (f : DmaUnit → DmaUnit) : Cluster → Cluster := inCore (fun x => { x with dma := f x.dma })

/-- Do this where a predicate of the cluster is 1, else nothing (06, R204). -/
def whereOn (pred : BitVec 3) (f : Cluster → Cluster) (c : Cluster) : Cluster := if predOn c.core pred then f c else c

/-- A scalar operation with a g register as its destination: where its predicate is 1 and the destination is not g0, the value of ga
and gb is written, and nothing else changes (06, R204). -/
def putG (a : ScalarArgs) (v : Word64 → Word64 → Word64) : Cluster → Cluster :=
  whereOn a.pred (fun c =>
    if a.dst = 0 then c
    else inScalar (fun u => { u with g := u.g.set a.dst.toNat (v (gReg u a.srcA.toNat) (gReg u a.srcB.toNat)) }) c)

/-- A predicate register after a write; p0 stays (06, R204). -/
def setP (p : BitVec 8) (n : BitVec 3) (v : Bool) : BitVec 8 :=
  let m : BitVec 8 := 1 <<< n.toNat
  if n = 0 then p else (p &&& ~~~m) ||| (if v then m else 0)

/-- A scalar operation with a predicate as its destination: where its own predicate is 1, the value of the scalar unit is written to
pd, and nothing else changes (06, R204). -/
def putP (a : ScalarArgs) (v : ScalarUnit → Bool) : Cluster → Cluster :=
  whereOn a.pred (inScalar (fun u => { u with p := setP u.p (a.dst.setWidth 3) (v u) }))

/-- Does no held range of a cluster share a byte with n bytes from an address (06, R221). -/
def unheld (c : Cluster) (addr n : Nat) : Bool := (heldRanges c.core.dma.bufs).all (fun h => !rangesMeet addr n h.2.1 h.2.2)

/-- The SRAM address of LD and ST: ga plus the sign-extended immediate, modulo 2^23, bits 2:0 cleared. -/
def ldAddr (a : ScalarArgs) (u : ScalarUnit) : Nat := (gReg u a.srcA.toNat + a.imm.signExtend 64).toNat % 2 ^ 23 / 8 * 8

/-- LD issued in cycle u: the 8 bytes are read, and gd is to be written at the end of cycle u + 2 (06, R210); the SRAM journal notes
the line as read (15, R491). -/
def ldIssued (u : Nat) (a : ScalarArgs) : Cluster → Cluster :=
  whereOn a.pred (fun c =>
    let x := ldAddr a c.core.scalar
    { inScalar (fun r => { r with ld := [{ due := u + 2, dst := a.dst.toNat, val := BitVec.ofNat 64 (memLe c.sram x 8) }] }) c with
      journal := journalRead c.journal [x / 128] })

/-- ST: gb goes to 8 bytes of SRAM; the SRAM journal notes the line as written, with its old content if it was read before
(15, R491). -/
def stDone (a : ScalarArgs) : Cluster → Cluster :=
  whereOn a.pred (fun c =>
    let x := ldAddr a c.core.scalar
    { c with
      sram := memSetLe c.sram x 8 (gReg c.core.scalar a.srcB.toNat).toNat, journal := journalLine c.sram c.journal (x / 128) })

/-- Status bits set in SQ_STATUS of a cluster. -/
def setSq (bits : Word64) : Cluster → Cluster := inScalar (fun u => { u with status := u.status ||| bits })

/-- Buffers released by the wait fields of a bundle (06, R221). -/
def released_ (names : List (BitVec 6)) : Cluster → Cluster :=
  inDma (fun m => { m with bufs := m.bufs.mapIdx (fun i b => if b.kind != .free && names.any (fun n => n.toNat = i) then bufferFree else b) })

/-- A vector result put in flight in cycle u (07, R241), counted in VU_OPS (R259). -/
def vecFlies (u : Nat) (pc : Nat) (a : VecArgs) (latency : Nat) (dst : Cluster → VDst) (val : Cluster → BitVec 4096)
    (cnt : Cluster → VCount) : Cluster → Cluster :=
  whereOn a.pred (fun c => inVec (fun v =>
    { v with
      flight := [{ due := u + latency, iss := u, dst := dst c, val := val c, cnt := cnt c, pc := pc }], ops := satInc v.ops 1 }) c)

/-- The SRAM operand address of a vector slot (06, R219). -/
def vAddr (a : VecArgs) (c : Cluster) : Nat :=
  (gReg c.core.scalar a.vaddr.toNat + (a.vimm.signExtend 64 <<< 6)).toNat % 2 ^ 23

/-- CRD: gd takes a value; a read of TA_GANG_PERR clears it (04, R166; 06, R211). -/
def crdDone (a : ScalarArgs) (v : Word64) : Cluster → Cluster :=
  whereOn a.pred (fun c =>
    let c1 := if a.imm.toNat % 4096 = 0x107 then inArray (fun x => { x with gangPerr := 0 }) c else c
    if a.dst = 0 then c1 else inScalar (fun u => { u with g := u.g.set a.dst.toNat v }) c1)

/-- CWR: the control register takes ga as its rules allow (00, R8 to R11; 06, R211). -/
def cwrDone (a : ScalarArgs) : Cluster → Cluster :=
  whereOn a.pred (fun c => inCore (regsWritten (some (a.imm.toNat % 4096, gReg c.core.scalar a.srcA.toNat))) c)

/-- Loops whose body contains an address (06, R206). -/
def loopsHolding (x : SeqState) (t : Nat) : List LoopEnt := x.loops.filter (fun e => decide (e.start ≤ t) && decide (t ≤ e.last))

/-- The pass record of a PASS issued in cycle u over a set (04, R148, R153): it writes rows where the set is valid, holds the mode
of the pass and can serve a transposed pass. -/
def passOver (u pc : Nat) (m : Semi) (a : ArrayArgs) (st : SetCfg) : PassOp :=
  { u := u, n := a.len.toNat + 1, performed := true, mode := m, args := a, limb := st.limb,
    ok := st.valid && st.mode = a.mode.toNat && !(a.transpose && (st.limb = 2 || (m = .mac && !st.square))), pc := pc }

/-- PASS where no vector is delivered in its first cycle: a masked vector enters and `feed_underrun` is set; a suppressed PASS only
takes its entry span (04, R137, R144, R148, R157; 06, R212). -/
def passIssued (u pc : Nat) (m : Semi) (a : ArrayArgs) (c : Cluster) : Cluster :=
  let arr := c.core.array
  if predOn c.core a.pred then
    let next := if a.swap then !arr.active else arr.active
    let st := (setOf arr next).cfg
    let p := passOver u pc m a st
    let early := a.swap && !st.complete
    let mismatch := !(st.valid && st.mode = a.mode.toNat)
    let xpose := a.transpose && (st.limb = 2 || (m = .mac && !st.square))
    inConv (fun x => { x with status := x.status ||| 0x20 })
      (inArray (fun x =>
        { x with
          active := next, passes := [p], entered := [{ e := u, m := 0, pass := p, item := maskedVec st.limb }],
          fwd := [(u, a.transpose, maskedVec st.limb)], vecCnt := satInc x.vecCnt 1,
          status := x.status ||| ((if mismatch then 0x10 else 0) ||| (if xpose then 0x20 else 0) ||| (if early then 4 else 0)) }) c)
  else
    inArray (fun x =>
      { x with
        passes := [{ u := u, n := a.len.toNat + 1, performed := false, mode := m, args := a, limb := 0, ok := false, pc := pc }] }) c

/-- A load where no stationary row is delivered in its first cycle: row 0 of the target set is written as zero, its configuration
is the reset one with the load's mode, and `feed_underrun` is set; a suppressed load only takes its span (04, R140, R142, R143; 06,
R212). -/
def loadIssued (u pc : Nat) (stall : Bool) (a : ArrayArgs) (c : Cluster) : Cluster :=
  let on := predOn c.core a.pred
  let target := if stall then c.core.array.active else !c.core.array.active
  let l : LoadOp := { u := u, stall := stall, target := target, performed := on, mode := a.mode.toNat, exps := [], pc := pc }
  let row0 (x : RegSet) : RegSet :=
    { rows := memSet x.rows 0 0, exps := x.exps, cfg := { setCfgReset with mode := a.mode.toNat, valid := true, complete := false } }
  let c1 := inArray (fun x => { x with load := some l }) c
  if !on then c1
  else
    inConv (fun x => { x with status := x.status ||| 0x20 })
      (inArray (fun x => if target then { x with set1 := row0 x.set1 } else { x with set0 := row0 x.set0 }) c1)

/-- RETIRE: the front and back tiles of an index change places (05, R187). -/
def retired (t : BitVec 3) : Cluster → Cluster := inAccum (fun x => { x with frontSel := x.frontSel ^^^ (1 <<< t.toNat) })

/-- DRAIN issued in cycle u: row 0 of the back tile is read, to reach the drain port at the end of the next cycle (05, R189). -/
def drainIssued (u : Nat) (t : BitVec 3) : Cluster → Cluster :=
  inAccum (fun x =>
    { x with
      drain := some { u := u, t := t.toNat }, drainIndex := t,
      deliver := some (memGet x.tiles (128 * (2 * t.toNat + (if x.frontSel.getLsbD t.toNat then 0 else 1)))) })

/-- The stream that a feed operation starts in cycle u (06, R213; 04, R154). -/
def streamStarted (u pc : Nat) (a : FeedArgs) (c : Cluster) : StreamOp :=
  let d := fdescOf (c.core.conv.fdesc.getD a.sdesc.toNat 0)
  { v := u, n := a.slen.toNat + 1, last := u + 4 + a.slen.toNat, desc := d, bad := fdescInvalid d true,
    gen := c.core.array.gens.getD d.gen addrGenReset, add := (gReg c.core.scalar a.soff.toNat).toNat, hi := a.strHi, raw := [],
    pc := pc }

/-- The stationary feed that a feed operation starts in cycle u: S scale lines, then its partner lines and rows, the last of 128
rows being delivered in cycle u + S + P + 147 (06, R213). -/
def statStarted (u pc : Nat) (a : FeedArgs) (c : Cluster) : StatOp :=
  let d := fdescOf (c.core.conv.fdesc.getD a.ldesc.toNat 0)
  let off := (gReg c.core.scalar a.loff.toNat).toNat
  let bad := fdescInvalid d false
  let sbase := (d.scaleBase + off) % 2 ^ 23
  let bytes := if bad then 0 else statScales d
  let lines := if bytes = 0 then 0 else (sbase + bytes - 1) / 128 - sbase / 128 + 1
  { v := u, sLines := lines, last := u + lines + d.pscan + 147, desc := d, bad := bad, base := (d.base + off) % 2 ^ 23, sbase := sbase,
    scales := [], partner := none, rows := [], common := none, decided := false, group := none, pc := pc }

/-- A feed operation issued in cycle u: what it started, invalid descriptors counted (03, R98). The descriptors name no attribute
record. -/
def feedIssued (u pc : Nat) (stream stat : Bool) (a : FeedArgs) : Cluster → Cluster :=
  whereOn a.pred (fun c =>
    let ss := if stream then [streamStarted u pc a c] else []
    let ts := if stat then [statStarted u pc a c] else []
    inConv (fun x =>
      { x with
        streams := ss, stats := ts,
        descInvalid := satInc x.descInvalid ((ss.filter (·.bad)).length + (ts.filter (·.bad)).length) }) c)

/-- A STORE issued in cycle s: it starts with its descriptor and offsets latched, or its descriptor is invalid; toward HBM it takes
its place in the cluster's order (03, R98; 06, R217, R218, R226). -/
def storeIssued (s pc : Nat) (a : StoreArgs) : Cluster → Cluster :=
  whereOn a.pred (fun c =>
    let d := sdescOf (c.core.conv.sdesc.getD a.desc.toNat 0)
    let g (r : BitVec 5) : Nat := (gReg c.core.scalar r.toNat).toNat
    let off (base add : Nat) : Nat := if d.dest = 3 then base / 2 ^ 15 * 2 ^ 15 + (base + add) % 2 ^ 15 else (base + add) % 2 ^ 48
    let o : StoreOp :=
      { s := s, num := a.desc.toNat, desc := d, n := a.rows.toNat + 1, src := (d.src + g a.srcOff) % 2 ^ 23,
        dst := off d.dst (g a.dstOff), sdst := off d.sdst (g a.sdstOff), idx := (c.core.opal.srIdx.getD a.desc.toNat 0).toNat,
        str := (c.core.opal.srStr.getD a.desc.toNat 0).toNat, started := false, firstScale := false, block := false, xs := 0,
        amax := 0, curMax := 0, record := none, rows := [], out := [], pc := pc }
    if fmtOfCode d.fmt = none || 4 < d.bsize || 3 < d.dest then
      inConv (fun x => { x with descInvalid := satInc x.descInvalid 1 }) c
    else
      inConv (fun x => { x with stores := [o] }) (if d.dest = 0 then inDma (fun m => { m with hbmq := [.store s] }) c else c))

/-- The operands of a DMA operation: HBM offset, register or address, SRAM address, byte count (06, R219). -/
def dmOperands (op : DmOp) (a : DmaArgs) (c : Cluster) : DmNow :=
  let d := ddescOf (c.core.dma.desc.getD a.desc.toNat 0)
  let g (r : BitVec 5) : Nat := (gReg c.core.scalar r.toNat).toNat
  { op := op, buf := a.buf.toNat, desc := d, addr := (d.addr + g a.aoff) % 2 ^ 48, sram := (d.sram + g a.soff) % 2 ^ 23,
    n := dmCount op a.len.toNat d.length, len := a.len.toNat }

/-- Does a DMA operation end as it is issued: over the quota of ordered adds, or without bytes (06, R221, R227). -/
def dmEnds (c : Cluster) (d : DmNow) : Bool := dmOverQuota c.core d || (dmZeroEnds d.op && d.n = 0)

/-- The bytes that a DMA operation takes from SRAM. -/
def dmBytes (c : Cluster) (d : DmNow) : List Byte := if dmReadsSram d.op && !dmEnds c d then sramRead c.sram d.sram d.n else []

/-- The flags of DM_STATUS that a DMA operation sets (06, R220, R224, R227). -/
def dmFlags (busy : Bool) (c : Cluster) (d : DmNow) : Word64 :=
  if busy then 2
  else (if dmOverQuota c.core d then 4 else 0) ||| (if d.op = .regread && !regreadMapped d.addr then 0x40 else 0)

/-- A DMA operation but RECV in a cluster in cycle u (06, R219 to R227): where its buffer is held or a range of it meets a held
one, only `buf_busy` is set; else the buffer is claimed, DM_ISSUED counts, an ordered add counts in DM_ATOMIC_USED, and an HBM
operation joins the queue. -/
def dmIssued (u cclk pc : Nat) (op : DmOp) (a : DmaArgs) : Cluster → Cluster :=
  whereOn a.pred (fun c =>
    let d := dmOperands op a c
    let busy := dmBusy c.core.dma.bufs d
    let ends := dmEnds c d
    let flag (m : DmaUnit) : DmaUnit := { m with status := m.status ||| dmFlags busy c d }
    if busy then inDma flag c
    else
      { inDma (fun m =>
          { flag m with
            bufs := updAt m.bufs d.buf (fun _ =>
              { bufferFree with
                kind := dmKind op, claim := u, range := if d.n = 0 then none else some (d.sram, d.n), answer := dmAnswer d,
                present := ends, presentAt := cclk, armed := if op = .recv then d.n else 0, pc := pc }),
            issued := if dmOverQuota c.core d then m.issued else satInc m.issued 1,
            atomicUsed := if op = .atomic false && !ends then m.atomicUsed + BitVec.ofNat 64 d.n else m.atomicUsed,
            hbmq := if ends then [] else dmHbm d (dmBytes c d) }) c with
        journal := if dmReadsSram op && !ends then journalRead c.journal (linesOf d.sram d.n) else c.journal })

/-- RECV in a cluster: the buffer is armed, and what waits at the port for it is delivered in order (06, R225). -/
def recvIssued (u cclk pc : Nat) (a : DmaArgs) (c : Cluster) : Cluster :=
  let c1 := dmIssued u cclk pc .recv a c
  if predOn c.core a.pred && !dmBusy c.core.dma.bufs (dmOperands .recv a c) then
    let x := deliverPort cclk { dma := c1.core.dma, sram := c1.sram, journal := c1.journal, evs := [] }
    { inDma (fun _ => x.dma) c1 with sram := x.sram, journal := x.journal }
  else c1

/-- SEED in a cluster: a performed one counts in OP_SEED_CNT (09, R304, R309). -/
def seedIssued (u cclk pc : Nat) (a : DmaArgs) (c : Cluster) : Cluster :=
  let c1 := dmIssued u cclk pc .seed a c
  if predOn c.core a.pred && !dmBusy c.core.dma.bufs (dmOperands .seed a c) then
    inOpal (fun o => { o with seedCnt := satInc o.seedCnt 1 }) c1 else c1

/-- What a DMA operation hands to the rest of the module. -/
def dmSends (op : DmOp) (a : DmaArgs) (c : Cluster) : List ClOut :=
  let d := dmOperands op a c
  if predOn c.core a.pred && !dmBusy c.core.dma.bufs d && !dmEnds c d then dmOut d (dmBytes c d) else []

/-- The state after a supplied DMA bundle: timing-dependent operations counted, each cluster changed, what they hand out performed
lowest cluster first, the HBM queues drained, and the sequencer one bundle on. -/
def dmRan (s : State) (p : Nat) (b : Bundle) (f : Cluster → Cluster) (outs : Cluster → List ClOut) : State :=
  let s0 := countTd (supplied s p b) p b
  let cls := (part s p).clusters
  let s1 := withPart s0 p (fun q =>
    { q with
      clusters := cls.map f,
      se := { q.se with sjPeak := BitVec.ofNat 32 ((cls.map f).foldl (fun n c => max n c.journal.lines.length) q.se.sjPeak.toNat) } })
  let s2 := (cls.zipIdx).foldl (fun t e => (outs e.1).foldl (dispatchOut p e.2) t) s1
  let s3 := withPart (noteUnreplayable (noteFreeze (drainAll s2 p) p) p) p
    (withSeq (fun x => { plainAt (part s p).seq.next x with stream := x.stream.drop 1 }))
  { s3 with gov := { s3.gov with settle := (settleTick [p] s).gov.settle, suppress := (settleTick [p] s).gov.suppress } }

/-- Nothing delays or attends the boundary of a calm partition's step: a job of one rank with no log, no cut asked for, no end asked
for, no replica table, no entry or context; every held buffer present, no sample, no contribution, no write that waits. -/
structure Bare (s : State) (p : Nat) : Prop where
  /-- One rank. -/
  ranks : (part s p).job.ranks ≤ 1
  /-- Not in debug mode. -/
  debug : (part s p).job.debug = false
  /-- The host path is up. -/
  up : s.host.up = true
  /-- Held buffers are present. -/
  bufs : ∀ c ∈ (part s p).clusters, ∀ b ∈ c.core.dma.bufs, b.kind = .free ∨ b.present = true
  /-- No sample waits. -/
  samples : ∀ c ∈ (part s p).clusters, c.spot.capture = none
  /-- No gang. -/
  gangs : ∀ c ∈ (part s p).clusters, gangShape c.core.array = 0 ∧ gangShape { c.core.array with gangEff := c.core.array.gangCfg } = 0
  /-- No write to other ranks waits. -/
  acks : (part s p).lk.acks = []
  /-- No contribution to other ranks. -/
  outAtomics : (part s p).lk.outAtomics = []
  /-- No contribution at this rank. -/
  atomics : (part s p).seq.atomics = []
  /-- No log. -/
  log : (part s p).rep.ctrlEff.getLsbD 0 = false
  /-- No cut is asked for. -/
  cut : (part s p).ck.pending = false ∧ (part s p).ck.period = 0
  /-- No end is asked for. -/
  ends : (part s p).endReq = none
  /-- No entry runs. -/
  current : (part s p).current = none
  /-- No context. -/
  ctxs : ctxsOf s p = []
  /-- No ABORT ahead. -/
  ahead : (part s p).cl.ahead = none
  /-- No reroute waits. -/
  reroute : s.grid.reroute = []
  /-- No verdict. -/
  verdict : (part s p).se.verdict = none
  /-- No replica table. -/
  repl : (part s p).se.replOffEff = 0

/-- A cluster's registers that a step boundary leaves and what it clears: SRAM, g and predicate registers, vector registers and
register sets stand; buffers are free, tiles zero and every index has tile 0 in front (05, R192; 06, R232, R677; 07, R243). -/
def closedCluster (c d : Cluster) : Prop :=
  d.sram = c.sram ∧ d.core.scalar.g = c.core.scalar.g ∧ d.core.scalar.p = c.core.scalar.p ∧ d.core.vec.v = c.core.vec.v ∧
  d.core.array.set0 = c.core.array.set0 ∧ d.core.array.set1 = c.core.array.set1 ∧ d.core.array.active = c.core.array.active ∧
  d.core.array.gangEff = c.core.array.gangCfg ∧ d.core.dma.bufs = c.core.dma.bufs.map (fun _ => bufferFree) ∧
  d.core.accum.tiles = [] ∧ d.core.accum.frontSel = 0 ∧ d.core.dma.atomicUsed = 0

/-- The main domain has turned off: nothing of it is left; Onyx, the host's memory and the waiting commands stand. -/
def mainGone (s t : State) : Prop :=
  t.supplies.mainOn = false ∧ t.pending = s.pending ∧ t.boot.fuse = s.boot.fuse ∧ t.host.mem = s.host.mem ∧
  ∀ p, p < 12 → (part t p).st = .absent ∧ (part t p).clusters = [] ∧ (part t p).hbm = []

/-- The job of partition p has ended with an end word: its slice, its program and the clusters' SRAM and registers stand, and so do the
other partitions (17, R571). -/
def jobEnded (s t : State) (p : Nat) (word : Word32) : Prop :=
  (part t p).st = .ended ∧ (part t p).endWord = word ∧ (part t p).hbm = (part s p).hbm ∧ (part t p).job = (part s p).job ∧
  (part t p).seq.step = (part s p).seq.step ∧ (part t p).seq.ic = (part s p).seq.ic ∧
  (part t p).clusters.map (·.sram) = (part s p).clusters.map (·.sram) ∧
  (part t p).clusters.map (·.core.scalar.g) = (part s p).clusters.map (·.core.scalar.g) ∧
  ∀ k, k < 12 → k ≠ p → part t k = part s k

/-- The module is READY: a table over the clusters outside a disabled set, the boot plan entry where it is valid, else the lowest valid one,
idle partitions, the thermal limit at 1,000 MHz and, where CCLK stood, 600 MHz (01, R23, R24; 19, R634; 20, R651, R656; log
entry 12). -/
def readyWith (s t : State) (dis : BitVec 512) (plans : List Nat) : Prop :=
  t.boot.st = .ready ∧ some t.grid.table = assignLogical dis ∧ t.grid.disabled = dis ∧ t.boot.planOn = true ∧
  t.boot.plan = (if plans.contains s.mgmt.bootPlan then s.mgmt.bootPlan else plans.headD 0) ∧ t.gov.thermal = 80 ∧
  t.gov.tthr = (if s.life.seconds < 3600 then 85 else 95) ∧ (s.gov.target = 0 → t.gov.target = 48) ∧
  ∀ p, p < 12 → (part t p).st = (if p < planCount t then .idle else .absent) ∧ (part t p).hbm = []

/-- A running partition whose step can be replayed, in a job whose replays it takes up itself: of one rank, or at rank 0 (15, R489, R493,
R496, R498, R499). -/
def canReplay (q : Partition) : Bool :=
  q.st = .running && !q.se.asked && !q.se.replaying && !q.seq.frozen && !q.se.unreplayable && q.se.hjBytesEff != 0 &&
    q.clusters.all (fun c => !c.journal.full) && decide (q.seq.attempt < maxAttempts q) && (decide (q.job.ranks ≤ 1) || q.job.rank = 0)

/-- The partition has taken up a replay: it stops issuing, and its step and attempt number stand until REPLAY. -/
def replayTaken (s t : State) (p : Nat) : Prop :=
  (part t p).se.asked = true ∧ (part t p).st = .running ∧ (part t p).seq = (part s p).seq ∧ (part t p).hbm = (part s p).hbm

/-- Every partition that can has taken up a replay. -/
def allReplay (s t : State) : Prop := ∀ p, p < 12 → canReplay (part s p) = true → replayTaken s t p

/-- The state of a protected region after one stack more has failed, f failed ones in all (10, R334, R336, R337, R339). -/
def regionAfter (f : Nat) (m : MemRegs) : RegionState :=
  if 3 ≤ f then .lost
  else match m.state with
    | .normal => if (7 * m.p + 5) / 6 - m.p ≤ m.v then (if m.p = 0 then .rebuilt else .rebuilding) else .degraded
    | .degraded => .lost
    | .withdrawn => if f < 2 then .withdrawn else .lost
    | .rebuilt => .rebuiltDegraded
    | x => x

/-- The directory of the coherent control space has changed at line n alone. -/
def otherLines (s t : State) (n : Nat) : Prop :=
  t.tiers.lines.filter (fun d => d.num != n) = s.tiers.lines.filter (fun d => d.num != n)

/-- The directory answers requester r for line n: RETRY, counted, or a grant with the line's data (10, R344, R347). -/
def dirAnswers (s t : State) (n r : Nat) (retry : Bool) : Prop :=
  t.tiers.answer = some { line := n, req := r, retry := retry, data := if retry then 0 else (dirLine s n).data } ∧
  t.tiers.cdRetry = (if retry then satInc s.tiers.cdRetry 1 else s.tiers.cdRetry)

/-- The head of partition p's update queue may begin: the phase of a group, asked for by word w of buffer i of local cluster l alone
(11, R354, R355). -/
def phaseWaits (q : Partition) (phase group w l i : Nat) : Prop :=
  q.st = .running ∧ q.se.asked = false ∧ q.se.replaying = false ∧
  q.upd.queue.head?.map (fun x => (x.phase, x.group, x.waiters, writesDone q x.u)) = some (phase, group, [(w, l, i)], true)

/-- A phase has been answered with some words: it has left the queue, the answer stands for the attempt, and the asking buffer, where it
holds a REGREAD that is still open, has its word (11, R354). -/
def phaseAnswered (s t : State) (p phase group w l i : Nat) (words : List Nat) (poison : Bool) : Prop :=
  let b := ((part s p).clusters.getD l clusterReset).core.dma.bufs.getD i bufferFree
  let d := ((part t p).clusters.getD l clusterReset).core.dma.bufs.getD i bufferFree
  (part t p).upd.queue = (part s p).upd.queue.drop 1 ∧
  (part t p).upd.answers = (part s p).upd.answers ++ [{ phase := phase, group := group, words := words, poison := poison }] ∧
  ((b.kind = .regread ∧ b.present = false ∧ b.fetched = none) →
    d = { b with fetched := some ((match b.range with | some r => r.1 | none => 0), leBytes 8 (nth words w), poison) })

/-- No HBM-space byte, no cluster register but the DMA buffers, and no other partition has changed. -/
def hbmStands (s t : State) (p : Nat) : Prop :=
  (part t p).hbm = (part s p).hbm ∧ (part t p).seq = (part s p).seq ∧ (part t p).clusters.map (·.sram) = (part s p).clusters.map (·.sram) ∧
  ∀ k, k < 12 → k ≠ p → part t k = part s k

/-- The rows that bring a flit to a port, each with the flits that it names (12, R388, R405). -/
def flitRows (a : FlitArgs) : List (Instr × (Flit → Bool)) :=
  [(.linkIdle a, fun f => f.ltype = 0), (.linkNak a, fun f => f.ltype = 2), (.linkTrain a, fun f => f.ltype = 3),
   (.flitForward a, fun f => f.ltype = 1 && (decide (pathHop f ≠ pathN f) || (vcOf f.mtype).isNone)), (.sendFlit a, isData 1),
   (.rwrite a, isData 2), (.rreadReq a, isData 3), (.rreadData a, isData 4), (.ratomic a, isData 5), (.ratomicRelaxed a, isData 6),
   (.collFlit a, isData 8), (.a2aFlit a, isData 9), (.nack a, isData 0x10), (.ack a, isData 0x11), (.reject a, isData 0x12),
   (.routeFail a, isData 0x13), (.arrive a, isBarrierFlit 1), (.release a, isBarrierFlit 2), (.abort a, isBarrierFlit 3),
   (.ckptReq a, isBarrierFlit 4), (.ckptDone a, isBarrierFlit 5), (.time a, isData 0x19)]

/-- A flit that comes whole to an ACTIVE link of a port, with no codeword to count (12, R387, R395). -/
def flitComes (s : State) (a : FlitArgs) : Prop :=
  a.port < 24 ∧ s.ports.length = 24 ∧ (linkAt s a.port a.half).st = .active ∧ hasHalf s a.port a.half = true ∧ a.bad = false ∧
  flitCrcOk (wordBytes a.word) = true ∧ a.unc = 0

/-- A DATA flit that comes in order to a port of partition p and is at its destination: of this rank, this job, this role epoch, this
step and attempt (12, R390, R399, R403, R414). -/
def flitHome (s : State) (a : FlitArgs) (p : Nat) : Prop :=
  let f := flitOf (wordBytes a.word)
  let q := part s p
  flitComes s a ∧ f.seq = (linkAt s a.port a.half).rxSeq ∧ partOfPort s a.port = some p ∧ p < 12 ∧ s.parts.length = 12 ∧
  q.st = .running ∧ flitMalformed f = false ∧ pathHop f = pathN f ∧ f.dst = q.job.rank ∧ f.job = q.lk.jobEff ∧
  f.epoch = q.lk.epochEff ∧ f.step = q.seq.step ∧ f.attempt = q.seq.attempt % 256 ∧ f.ltype = 1

/-- A port has accepted a flit: the next sequence number is expected, the flit counts, and its credit is freed (12, R393, R395). -/
def flitTaken (s t : State) (a : FlitArgs) : Prop :=
  let c := flitVc (flitOf (wordBytes a.word))
  let l := linkAt s a.port a.half
  let m := linkAt t a.port a.half
  m.rxSeq = (l.rxSeq + 1) % 65536 ∧ m.nakSent = false ∧ (portAt t a.port).rx = satInc (portAt s a.port).rx 1 ∧
  (c < l.freed.length → nth m.freed c = (nth l.freed c + 1) % 256)

/-- The flits that a link has to deliver: sent and not acknowledged, or waiting. -/
def outgoing (s : State) (k : Nat) (half : Bool) : List Flit := (linkAt s k half).replay.map (·.flit) ++ (linkAt s k half).txq

/-- Partition p has a primary route of at least one hop to rank r, over a link of its own. -/
def routeReady (s : State) (p r : Nat) : Bool :=
  !(part s p).lk.alt.contains r && decide (r < (part s p).lk.countEff) && routeHops s p r false != 0 &&
    hopOwned s p (pathEntry (routePath s p r false) 0)

/-- Partition p has sent rank r a flit of a message type with some values of `addr` and `arg`, by the link of its route. -/
def hasSent (s t : State) (p r mtype addr arg : Nat) : Bool :=
  let e := pathEntry (routePath s p r false) 0
  (outgoing t (e % 32) (e.testBit 5)).any (fun g => g.mtype = mtype && g.dst = r && g.addr = addr && g.arg = arg &&
    g.src = (part s p).job.rank && g.epoch = routeEpoch s p r)

/-- A flit of partition p has brought no change but at the links and, where it answers, in what it sends. -/
def memoryStands (s t : State) (p : Nat) : Prop :=
  (part t p).hbm = (part s p).hbm ∧ (part t p).seq = (part s p).seq ∧ (part t p).clusters = (part s p).clusters ∧
  (part t p).st = (part s p).st ∧ ∀ k, k < 12 → k ≠ p → part t k = part s k

/-- Partition p awaits the data of one remote read alone, for a buffer of local cluster l that still holds a READ. -/
def readHere (s : State) (p : Nat) (r : AwaitRead) (l : Nat) : Prop :=
  let c := (part s p).clusters.getD l clusterReset
  (part s p).lk.reads = [r] ∧ localOf s p r.lcl = some l ∧ l < (part s p).clusters.length ∧ r.buf < c.core.dma.bufs.length ∧
  (c.core.dma.bufs.getD r.buf bufferFree).kind = .read ∧ (c.core.dma.bufs.getD r.buf bufferFree).present = false

/-- The lanes that the whole link of an unsplit port uses: its local lanes if none has failed, else the half without a failed lane, else
the lowest pair without one (12, R381, R408). -/
def lanesLeft (failed : BitVec 8) : List Nat :=
  if failed = 0 then List.range 8
  else if failed &&& 0x0F = 0 then [0, 1, 2, 3]
  else if failed &&& 0xF0 = 0 then [4, 5, 6, 7]
  else if failed &&& 0x03 = 0 then [0, 1]
  else if failed &&& 0x0C = 0 then [2, 3]
  else if failed &&& 0x30 = 0 then [4, 5]
  else if failed &&& 0xC0 = 0 then [6, 7] else []

/-- Where a cluster's request wants its answer: partition, logical cluster, buffer, SRAM address, bytes. -/
def answerPlace (r : QpReq) : Option (Nat × Nat × Nat × Nat × Nat) :=
  match r.kind with | .cluster p l b a n _ => some (p, l, b, a, n) | _ => none

/-- Context c has answered the request at its front with a status: the answer is counted, its header kept, and an open SOLVE buffer that
asked has the bytes, cut to its range (14, R473, R476, R484). -/
def solverAnswered (s t : State) (c : Nat) (r : QpReq) (status : Nat) (d : List Byte) (poison : Bool) : Prop :=
  let x := qpCtxAt s c
  let y := qpCtxAt t c
  y.queue = x.queue.drop 1 ∧ y.reqs = satInc x.reqs 1 ∧ y.last = BitVec.ofNat 16 status ∧
  y.header = BitVec.ofNat 512 (leNat (d.take 64)) ∧ leNat (d.take 2) = status ∧ t.beryl.solves = satInc s.beryl.solves 1 ∧
  (answerPlace r).all (fun w => match localOf s w.1 w.2.1 with
    | some i =>
      let b := ((part s w.1).clusters.getD i clusterReset).core.dma.bufs.getD w.2.2.1 bufferFree
      let e := ((part t w.1).clusters.getD i clusterReset).core.dma.bufs.getD w.2.2.1 bufferFree
      !(b.kind = .solve && !b.present && b.fetched.isNone) || decide (e.fetched = some (w.2.2.2.1, d.take w.2.2.2.2, poison))
    | none => true) = true

/-- A cut has failed at partition p: nothing streams, CK_FAILED counts, the flag is up, and job_cut, memory and the sequencer stand
(16, R541, R542). -/
def cutFailed (s t : State) (p : Nat) : Prop :=
  (part t p).ck.stream = none ∧ (part t p).ck.failed = satInc (part s p).ck.failed 1 ∧
  (part t p).ck.status = (part s p).ck.status ||| 0x200 ∧ (part t p).ck.jobCut = (part s p).ck.jobCut ∧
  (part t p).ck.taken = (part s p).ck.taken ∧ (part t p).hbm = (part s p).hbm ∧ (part t p).seq = (part s p).seq

/-- A slot of partition p's buddy area holds an image under a committed record of its own: ward, cut, sequence number, digest
(16, R534, R535, R540). -/
def slotHolds (t : State) (p : Nat) (b : Bool) (cut seq : Nat) (img : List Byte) : Prop :=
  let r := slotRec t p b
  memRead (part t p).hbm (slotOff t p b) img.length = img ∧ ckValid (bits (part t p).ck.wardEff.toNat 0 18) r = true ∧
  ckCommitted r = true ∧ r.cut = cut ∧ r.seq = seq ∧ r.digest = laneDigest img

/-- The host commands: opcode and row (17, commands; 14, R478). -/
def hostRows (a : HostArgs) (key : BitVec 768) (far : Far) : List (Nat × Instr) :=
  [(0x10, .ctxConfig a), (0x11, .ctxClear a), (0x20, .jobStart a far), (0x21, .jobEnd a), (0x22, .jobRelease a), (0x30, .planChange a),
   (0x40, .seedGet a), (0x50, .svLoad a), (0x51, .svClear a), (0x52, .svSolve a), (0x53, .svState a), (0x60, .fwStage a key),
   (0x61, .packInstall a key)]

/-- A function's next command is performed at once: nothing waits, firmware answers, and the ring has a place for it (17, R566). -/
def hostAsks (s : State) (a : HostArgs) : Prop :=
  let f := fnOf s a.fn
  a.fn < 13 ∧ s.host.fns.length = 13 ∧ f.waits = [] ∧ ringsServed s = true ∧ s.host.up = true ∧ s.parts.length = 12 ∧
  (a.mbox = false → f.cmdSize ≠ 0 ∧ f.cmdHead.toNat < f.cmdSize.toNat)

/-- READY or HALTED, and the function and its command well formed (17, R554, R566; 20, R654). -/
def hostSends (s : State) (a : HostArgs) (op : Nat) : Prop :=
  hostAsks s a ∧ fwWorks s = true ∧ a.fn ≤ planCount s ∧ cmdMalformed a op = false

/-- The 16 bytes of the completion of a command: of its entry in the completion ring, or MBOX_CPL (17, R565). -/
def cplOf (s t : State) (a : HostArgs) : List Byte :=
  if a.mbox then leBytes 16 (fnOf t a.fn).mboxCpl.toNat
  else memRead t.host.mem ((fnOf s a.fn).cplBaseEff.toNat + 16 * (fnOf s a.fn).cmdHead.toNat) 16

/-- The command is completed with a status, and with a value where it succeeded; vector 0 is raised, or pending while masked; the ring
index or the mailbox is free for the next one (17, R565, R566). -/
def completed (s t : State) (a : HostArgs) (status value : Nat) : Prop :=
  let b := cplOf s t a
  let f := fnOf s a.fn
  b.take 4 = leBytes 4 a.tag.toNat ∧ (b.drop 4).take 2 = leBytes 2 status ∧ (status = 0 → b.drop 8 = leBytes 8 value) ∧
  (a.mbox = false → b.getD 6 0 = (if f.cplPhase then 1 else 0) ∧
    (fnOf t a.fn).cmdHead.toNat = (f.cmdHead.toNat + 1) % f.cmdSize.toNat) ∧
  (a.mbox = true → (fnOf t a.fn).mboxGo = false ∧ (fnOf t a.fn).cmdHead = f.cmdHead) ∧ (fnOf t a.fn).waits = [] ∧
  (if f.msix.getLsbD 96 then (fnOf t a.fn).pba.getLsbD 0 = true else t.host.irqs.getLast? = some (a.fn, 0))

/-- No partition, no solver context and no queue context has changed. -/
def engineStands (s t : State) : Prop := t.parts = s.parts ∧ t.beryl = s.beryl ∧ t.host.ctxs = s.host.ctxs ∧ t.boot = s.boot

/-- The first step of a job whose start passes every check, if it does (17, R567). -/
def startStep (s : State) (p addr : Nat) (far : Far) : Option Nat :=
  match jobStart s p addr far with | .starts _ n => some n | .fails _ _ => none

/-- The status that refuses a problem image, if one does (14, R458, R459). -/
def loadStatus (s : State) (p off size : Nat) : Option Nat := match qpLoad s p off size with | .error st => some st | .ok _ => none

/-- What FW_STAGE of image bytes b leaves, by the first failing check of R559, 0 where none fails (17, R559, R560). -/
def stageLeft (s t : State) (a : HostArgs) (b : List Byte) (bad : Nat) : Prop :=
  if bad = 0 then
    completed s t a 0 (fieldAt b 8 4) ∧
      (if s.boot.runB then t.boot.bankA else t.boot.bankB) = { bytes := memWrite [] 0 b, result := 1 } ∧
      (if s.boot.runB then t.boot.bankB = s.boot.bankB else t.boot.bankA = s.boot.bankA) ∧ t.life.bankB = !s.boot.runB
  else engineStands s t ∧ completed s t a (if bad = 3 then 0x0205 else 0x0501) 0

/-- The version of the installed test pack, 0 where none is. -/
def packNow (s : State) : Nat := match s.life.pack with | some x => packVersion x | none => 0

/-- What PACK_INSTALL of pack bytes b leaves: whether it is well formed, and signed, and newer (15, R519, R520). -/
def packLeft (s t : State) (a : HostArgs) (b : List Byte) (ok mine : Bool) : Prop :=
  if ok && mine && decide (packNow s < packVersion b) then completed s t a 0 (packVersion b) ∧ t.life.pack = some b
  else completed s t a (if !ok then 0x01B0 else if !mine then 0x05BA else 0x02B1) 0 ∧ t.life.pack = s.life.pack

/-- A new entry of a context's step ring stands there alone, and the partition neither waits for it nor is full (17, R572). -/
def oneEntry (s : State) (p k : Nat) (c : QCtx) : Prop :=
  p < 12 ∧ partOfCtx s k = some p ∧ s.host.up = true ∧ fwWorks s = true ∧ s.host.ctxs.find? (fun c => c.k = k) = some c ∧
  c.head ≠ c.tail ∧ (c.head + 1) % c.size = c.tail ∧ c.fetched.length < 64 ∧ 2 ≤ c.size ∧
  ((part s p).st = .running → (part s p).waiting = false)

/-- The bytes that the last read of the host answered. -/
def answered (t : State) (d : List Byte) : Prop := t.host.lastRead = some (.data d)

/-- Plain 64-bit registers of a function: offset and the value it holds (17). -/
def plainRegs (f : Fn) : List (Nat × Word64) := [(0x100, f.cmdBase), (0x118, f.cplBase), (0x120, f.evtBase)]

/-- A datagram that reaches the port of a powered controller and has the head of a message of this module (18, R583, R586, R587). -/
def arrives (s : State) (m : MsgArgs) (typ : Nat) : Prop :=
  s.supplies.aon = true ∧ s.mgmt.dup = false ∧ 48 ≤ m.bytes.length ∧ m.bytes.length ≤ 1232 ∧
  m.bytes.take 4 = [0x4E, 0x59, 1, BitVec.ofNat 8 typ] ∧ fieldAt m.bytes 16 8 = serialOf s

/-- Its tag is right under the key of its slot (18, R586, R587). -/
def macRight (s : State) (m : MsgArgs) (k : List Byte) : Prop :=
  slotKey s (fieldAt m.bytes 4 1) = some k ∧ fieldAt m.bytes 4 1 ≠ 0xFF ∧
  msgTag k (m.bytes.take (m.bytes.length - 16)) = m.bytes.drop (m.bytes.length - 16)

/-- No collector is STALE. -/
def noStale (s : State) : Prop := ∀ c, c < 4 → (collAt s c).st ≠ 2

/-- The message is authentic and new, and its body is well formed: what it asks for is done in the state after its number is taken
(18, R588, R590). -/
def accepted (s : State) (m : MsgArgs) (typ : Nat) (k : List Byte) : Prop :=
  arrives s m typ ∧ macRight s m k ∧ noStale s ∧ nth s.mgmt.h (fieldAt m.bytes 4 1) < fieldAt m.bytes 8 8 ∧ bodyOk m.bytes = true

/-- The state after the message's number is taken (18, R590). -/
def numbered (s : State) (m : MsgArgs) : State := takeSeq (advance s m.dt) (fieldAt m.bytes 4 1) (fieldAt m.bytes 8 8)

/-- The request of a message. -/
def reqOf (m : MsgArgs) (read : Bool) : MgReq :=
  let body := (m.bytes.drop 32).take (m.bytes.length - 48)
  { read := read, src := m.src, port := m.port.toNat, slot := fieldAt m.bytes 4 1, flags := fieldAt m.bytes 5 1,
    seq := fieldAt m.bytes 8 8, reqId := fieldAt m.bytes 24 4,
    items := if read then readItems body else (writeItems (fieldAt m.bytes 6 2) body).getD [] }

/-- The module answers the sender of a request of type typ, once: items and key (18, R586). -/
def answers (u t : State) (m : MsgArgs) (typ : Nat) (items : List (List Byte)) (k : Option (List Byte)) : Prop :=
  t.mgmt.sent = u.mgmt.sent ++
    [{ dst := m.src, port := m.port.toNat,
       bytes := msgBytes u { msgHead m.bytes with typ := typ } items.length items.flatten k }]

/-- The answer of a read: each item's status, and its value where it has one (18, R586, R594). -/
def readAnswer (s : State) (items : List WrItem) : List (List Byte) :=
  items.map (fun it =>
    rspItem it.index it.sub (itemType it) (readStatus s it) (if readStatus s it = 0 then readObj s it.index it.sub else []))

/-- What the answers may not touch: partitions, host, fuses. -/
def stands (s t : State) : Prop := t.parts = s.parts ∧ t.host = s.host ∧ t.boot = s.boot ∧ t.gov = s.gov

/-- The rows of the four requests on a datagram. -/
def msgRows (m : MsgArgs) : List (Nat × Instr) := [(1, .readReq m), (3, .writeReq m), (6, .eventAck m), (8, .keySet m [])]

/-- A request waits at the head of the queue. -/
def headWaits (s : State) (r : MgReq) : Prop := s.supplies.aon = true ∧ s.mgmt.reqs = [r] ∧ s.mgmt.dup = false

/-- The answer to a waiting request: one more datagram, with the statuses of its items (18, R586, R594). -/
def answersWrite (u t : State) (r : MgReq) (sts : List Nat) : Prop :=
  t.mgmt.sent = u.mgmt.sent ++
    [{ dst := r.src, port := r.port,
       bytes := msgBytes t { typ := 4, slot := r.slot, seq := r.seq, reqId := r.reqId } r.items.length
         ((r.items.zip sts).flatMap (fun e => rspItem e.1.index e.1.sub (itemType e.1) e.2 [])) (slotKey t r.slot) }]

/-- The next EVENT message of a collector: its number, and its records (18, R600, R601). -/
def eventBytes (s : State) (c n : Nat) (ids : List Nat) (k : List Byte) : List Byte :=
  let evs := (s.mgmt.queue.filter (fun r => ids.contains r.id)).map (·.ev)
  msgBytes s { typ := 5, slot := (collAt s c).slot, seq := s.life.boots * 2 ^ 32 + n, reqId := 0 } evs.length (evs.flatMap evBytes)
    (some k)

/-- The rows that receive a flit and say its type. -/
def isFlitRow : Instr → Bool
  | .sendFlit _ | .rwrite _ | .ratomic _ | .ratomicRelaxed _ | .rreadReq _ | .rreadData _ | .reject _ | .ack _ | .nack _ | .routeFail _
  | .collFlit _ | .a2aFlit _ | .arrive _ | .release _ | .abort _ | .ckptReq _ | .ckptDone _ | .time _ | .flitForward _ | .linkIdle _
  | .linkNak _ | .linkTrain _ => true
  | _ => false

/-- The state before anything was configured after reset: what the spec states for it (02, R86; 09, R302; 12, R381; 15, R526; 17; 19, R611,
R645; 20, R648). -/
def freshModule (s : State) : Prop :=
  s.boot.st = .bootRom ∧ s.boot.byFw = false ∧ s.boot.planOn = false ∧ s.boot.fail = 0 ∧ s.parts.all (fun q => q.st = .absent) = true ∧
  s.host.fns.all (fun f => f.cmdSize = 0 && f.evtSize = 0 && f.waits.isEmpty) = true ∧ s.host.ctxs = [] ∧ s.ports.all (fun k => k.enable && !k.split) = true ∧
  s.tiers.lines.all (fun l => l.st = .inv) = true ∧ s.gov.cap = 3000 ∧ s.gov.limit = 1400 ∧ s.supplies.mainOn = true ∧
  s.noise.st = .startup ∧ s.faults.lostHost = 0 ∧ s.faults.lostMgmt = 0

/-- What an event leaves where a function does not get its record: as it was. Where it gets it: the ring and its tail, and the vector
(17, R579). -/
def ringTook (s t : State) (k : Nat) (b : List Byte) : Prop :=
  let f := fnOf s k
  let nx := (f.evtTail.toNat + 1) % f.evtSize.toNat
  if f.evtSize.toNat = 0 ∨ nx = f.evtHead.toNat then
    fnOf t k = { f with status := f.status ||| 2 } ∧ t.host.irqs = s.host.irqs ∧ t.host.mem = s.host.mem ∧
      t.faults.lostHost = satInc s.faults.lostHost 1
  else
    (fnOf t k).evtTail.toNat = nx ∧ memRead t.host.mem (f.evtBaseEff.toNat + 32 * f.evtTail.toNat) 32 = b ∧
      (∀ a, a < f.evtBaseEff.toNat + 32 * f.evtTail.toNat ∨ f.evtBaseEff.toNat + 32 * f.evtTail.toNat + 32 ≤ a →
        memGet t.host.mem a = memGet s.host.mem a) ∧
      (if f.msix.getLsbD 224 then (fnOf t k).pba.getLsbD 1 = true else t.host.irqs = s.host.irqs ++ [(k, 1)]) ∧
      t.faults.lostHost = s.faults.lostHost

end Sys2Proof.Machine
end

