-- ==== Sys2Proof/Certificates/Slice0/Obligations.lean ====
section
/-! DEFINITION. The statements for the provers. A slot command is stated on a calm partition (Calm in Sys2Proof/Safety.lean): the
command answers the next state that the rules give, and everything that the statement does not name is as it was. -/

open Sys2Proof Sys2Proof.Machine

/-- The twenty scalar operations: the twelve that write gd of every cluster whose predicate is 1, and the eight
compares and predicate operations that write pd (06, R203, R204). -/
def Obligations.ScalarOperations : Prop :=
  (∀ (s : State) (p : Nat) (a : ScalarArgs), Calm s p →
     let gives (i : Instr) (v : Word64 → Word64 → Word64) : Prop :=
       exec i s = .next (ranBundle s p (fun _ => putG a v) plainSeq)
     gives (.add p a) (fun x y => x + y) ∧ gives (.sub p a) (fun x y => x - y) ∧ gives (.and p a) (fun x y => x &&& y) ∧
     gives (.or p a) (fun x y => x ||| y) ∧ gives (.xor p a) (fun x y => x ^^^ y) ∧
     gives (.shl p a) (fun x y => x <<< (y &&& 63)) ∧ gives (.shr p a) (fun x y => x >>> (y &&& 63)) ∧
     gives (.sar p a) (fun x y => x.sshiftRight (y &&& 63).toNat) ∧ gives (.mul p a) (fun x y => x * y) ∧
     gives (.addi p a) (fun x _ => x + a.imm.signExtend 64) ∧ gives (.li p a) (fun _ _ => a.imm.signExtend 64) ∧
     gives (.lih p a) (fun x _ => (x &&& 0xFFFFFFFFFF) ||| ((a.imm.setWidth 24).setWidth 64 <<< 40))) ∧
  (∀ (s : State) (p : Nat) (a : ScalarArgs), Calm s p →
     let gives (i : Instr) (v : ScalarUnit → Bool) : Prop :=
       exec i s = .next (ranBundle s p (fun _ => putP a v) plainSeq)
     let ga (u : ScalarUnit) : Word64 := gReg u a.srcA.toNat
     let gb (u : ScalarUnit) : Word64 := gReg u a.srcB.toNat
     let pa (u : ScalarUnit) : Bool := pReg u (a.srcA.setWidth 3).toNat
     let pb (u : ScalarUnit) : Bool := pReg u (a.srcB.setWidth 3).toNat
     gives (.ceq p a) (fun u => ga u == gb u) ∧ gives (.clt p a) (fun u => decide ((ga u).toInt < (gb u).toInt)) ∧
     gives (.cltu p a) (fun u => decide ((ga u).toNat < (gb u).toNat)) ∧
     gives (.ceqi p a) (fun u => ga u == a.imm.signExtend 64) ∧
     gives (.clti p a) (fun u => decide ((ga u).toInt < a.imm.toInt)) ∧ gives (.pand p a) (fun u => pa u && pb u) ∧
     gives (.por p a) (fun u => pa u || pb u) ∧ gives (.pnot p a) (fun u => !pa u))

/-- LD and ST outside held ranges, and every byte of SRAM after ST; CRD and CWR; a hidden register reads 0 (06, R204, R210,
R211; 15, R491; 00, R8 to R11). -/
def Obligations.LoadsStoresAndRegisters : Prop :=
  (∀ (s : State) (p : Nat) (a : ScalarArgs), Calm s p →
     (∀ c ∈ (part s p).clusters, predOn c.core a.pred = true → unheld c (ldAddr a c.core.scalar) 8 = true) →
     exec (.ld p a) s = .next (ranBundle s p (fun _ => ldIssued (part s p).seq.ic a) plainSeq) ∧
     ((∀ c ∈ (part s p).clusters, c.journal.lines.length < 1024) →
       exec (.st p a) s = .next (ranBundle s p (fun _ => stDone a) plainSeq)) ∧
     ∀ (c : Cluster) (x : Nat),
       memGet (stDone a c).sram x =
         let at_ := ldAddr a c.core.scalar
         if predOn c.core a.pred = true ∧ at_ ≤ x ∧ x < at_ + 8 then
           (gReg c.core.scalar a.srcB.toNat >>> (8 * (x - at_))).setWidth 8
         else memGet c.sram x) ∧
  (∀ (s : State) (p : Nat) (a : ScalarArgs), Calm s p →
    exec (.crd p a) s =
      .next (ranBundle s p
        (fun i c => crdDone a (crdValue (envAt s p emptyBundle [] i) c.core (a.imm.toNat % 4096)) c) plainSeq) ∧
    exec (.cwr p a) s = .next (ranBundle s p (fun _ => cwrDone a) plainSeq)) ∧
  ∀ (e : Env) (c : ClusterCore) (i : Nat),
    i ∈ [0x12, 0x13, 0x210, 0x211, 0x603] ∨ (0x700 ≤ i ∧ i < 0x800) → crdValue e c i = 0

/-- JUMP and LOOP outside the delay bundles of a vote (06, R206, R207). The invalid forms are stated outside debug
mode. -/
def Obligations.JumpAndLoop : Prop :=
  ∀ (s : State) (p : Nat), Calm s p → (part s p).seq.votes = [] →
    let a := (part s p).seq.next
    let ls := (part s p).seq.loops
    let same : Nat → Cluster → Cluster := fun _ c => c
    (∀ t : BitVec 13,
      exec (.jump p t) s = .next (ranBundle s p same (fun x => issuedSeq a t.toNat (loopsHolding x t.toNat) [] x))) ∧
    (∀ last : BitVec 13, a + 1 ≤ last.toNat →
      exec (.loop p 0 last) s = .next (ranBundle s p same (issuedSeq a ((last.toNat + 1) % 8192) ls []))) ∧
    (∀ (n : BitVec 20) (last : BitVec 13), n ≠ 0 → a + 1 ≤ last.toNat → ls.length < 4 →
      exec (.loop p n last) s =
        .next (ranBundle s p same (issuedSeq a (a + 1) (ls ++ [{ start := a + 1, last := last.toNat, left := n.toNat }]) []))) ∧
    ((part s p).job.debug = false →
      (∀ (n : BitVec 20) (last : BitVec 13), last.toNat < a + 1 →
        exec (.loop p n last) s = .next (ranBundle s p (fun _ => setSq 4) plainSeq)) ∧
      (∀ (n : BitVec 20) (last : BitVec 13), n ≠ 0 → a + 1 ≤ last.toNat → 4 ≤ ls.length →
        exec (.loop p n last) s = .next (ranBundle s p (fun _ => setSq 8) plainSeq)))

/-- VBR_ANY and VBR_ALL, what the vote decides two bundles later, and control operations in the delay bundles (06,
R206, R208, R209). -/
def Obligations.Votes : Prop :=
  ∀ (s : State) (p : Nat), Calm s p →
    let x := (part s p).seq
    let same : Nat → Cluster → Cluster := fun _ c => c
    let open_ (y : SeqState) (t : BitVec 13) (taken : Bool) : SeqState :=
      { plainSeq y with votes := [{ u := y.ic, pc := y.next, target := t.toNat, taken := taken }] }
    (x.votes = [] → (∀ e ∈ x.loops, e.last ≠ x.next ∧ e.last ≠ x.next + 1) → ∀ (pred : BitVec 3) (t : BitVec 13),
      exec (.vbrAny p pred t) s = .next (ranBundle s p same (fun y => open_ y t ((part s p).clusters.any (fun c => predOn c.core pred)))) ∧
      exec (.vbrAll p pred t) s = .next (ranBundle s p same (fun y => open_ y t ((part s p).clusters.all (fun c => predOn c.core pred))))) ∧
    (∀ v : Vote, x.votes = [v] → v.u + 2 = x.ic → v.taken = true →
      exec (.bufferWait p []) s = .next (ranBundle s p same (fun y => issuedSeq y.next v.target (loopsHolding y v.target) [] y))) ∧
    ((part s p).job.debug = false →
      let void (i : Instr) : Prop := exec i s = .next (ranBundle s p (fun _ => setSq 2) plainSeq)
      (x.votes = [] → (∃ e ∈ x.loops, e.last = x.next ∨ e.last = x.next + 1) → ∀ (pred : BitVec 3) (t : BitVec 13),
        void (.vbrAny p pred t) ∧ void (.vbrAll p pred t)) ∧
      (∀ v : Vote, x.votes = [v] → v.u < x.ic → x.ic ≤ v.u + 2 → ∀ (n : BitVec 20) (pred : BitVec 3) (t : BitVec 13),
        void (.jump p t) ∧ void (.loop p n t) ∧ void (.vbrAny p pred t) ∧ void (.vbrAll p pred t) ∧ void (.stepEnd p) ∧
        void (.halt p)))

/-- Wait fields, `brk`, and a reserved operation code in a slot (01, R36, R39; 06, R205, R221; 08, R274, R276). -/
def Obligations.WaitsAndBreaks : Prop :=
  (∀ (s : State) (p : Nat) (names : List (BitVec 6)), Calm s p → names.length ≤ 4 →
     (∀ c ∈ (part s p).clusters, ∀ n ∈ names,
       let b := c.core.dma.bufs.getD n.toNat bufferFree
       b.poisoned = false ∧ (b.kind ≠ .free → b.claim + 3 ≤ (part s p).seq.ic ∧ b.present = true ∧
         b.presentAt + 3 ≤ (part s p).seq.cclk)) →
     exec (.bufferWait p names) s = .next (ranBundle s p (fun _ => released_ names) plainSeq)) ∧
  (∀ (s : State) (p : Nat), Calm s p →
     let q := part s p
     (q.job.debug = false ∨ q.seq.brkPassed = true → exec (.brk p) s = .next (ranBundle s p (fun _ c => c) plainSeq)) ∧
     (q.job.debug = true → q.seq.brkPassed = false → ∃ t, exec (.brk p) s = .next t ∧
       (part t p).seq.frozen = true ∧ (part t p).seq.next = q.seq.next ∧ (part t p).seq.ic = q.seq.ic ∧
       (part t p).clusters = q.clusters.map (fun c =>
         { c with trap := { valid := true, info := BitVec.ofNat 64 (0x10000 + q.seq.next), cycle := BitVec.ofNat 64 (q.seq.ic - q.seq.ic0),
                            step := BitVec.ofNat 64 q.seq.step, detail := 0, count := c.trap.count } }))) ∧
  (∀ (s : State) (p : Nat) (slot : BitVec 3), Calm s p → (part s p).job.debug = false →
     exec (.reservedOperation p slot) s =
       .next (ranBundle s p (fun _ => if slot = 0 then (fun c => c) else setSq 0x100) plainSeq))

/-- PASS, STALL_LOAD and SHADOW_LOAD in clusters that belong to no gang, outside debug mode and spot-checks, where the
feed path delivers nothing in the first cycle; RETIRE and DRAIN whatever the predicate (04, R140, R142 to R144, R148,
R153; 05, R187, R189; 06, R212). -/
def Obligations.ArrayOperations : Prop :=
  (∀ (s : State) (p : Nat) (a : ArrayArgs) (m : Semi), Calm s p → (part s p).job.debug = false →
     (part s p).se.ctrlEff.getLsbD 0 = false →
     (∀ c ∈ (part s p).clusters, gangShape c.core.array = 0 ∧ c.spot.capture = none) →
     semiOfCode a.mode.toNat = some m →
     let u := (part s p).seq.ic
     let pc := (part s p).seq.next
     exec (.pass p a) s = .next (ranBundle s p (fun _ => passIssued u pc m a) plainSeq) ∧
     exec (.stallLoad p a) s = .next (ranBundle s p (fun _ => loadIssued u pc true a) plainSeq) ∧
     exec (.shadowLoad p a) s = .next (ranBundle s p (fun _ => loadIssued u pc false a) plainSeq)) ∧
  (∀ (s : State) (p : Nat) (pred acc : BitVec 3), Calm s p →
     exec (.retire p pred acc) s = .next (ranBundle s p (fun _ => retired acc) plainSeq) ∧
     exec (.drain p pred acc) s = .next (ranBundle s p (fun _ => drainIssued (part s p).seq.ic acc) plainSeq))

/-- STREAM, STAT and both, with descriptors that name no attribute record, and STORE, outside debug mode (03, R98; 06,
R213, R217, R218, R226). -/
def Obligations.FeedsAndStores : Prop :=
  (∀ (s : State) (p : Nat) (a : FeedArgs), Calm s p → (part s p).job.debug = false →
     (∀ c ∈ (part s p).clusters, (fdescOf (c.core.conv.fdesc.getD a.sdesc.toNat 0)).recEn = false ∧
       (fdescOf (c.core.conv.fdesc.getD a.ldesc.toNat 0)).recEn = false) →
     let u := (part s p).seq.ic
     let pc := (part s p).seq.next
     exec (.stream p a) s = .next (ranBundle s p (fun _ => feedIssued u pc true false a) plainSeq) ∧
     exec (.stat p a) s = .next (ranBundle s p (fun _ => feedIssued u pc false true a) plainSeq) ∧
     exec (.streamStat p a) s = .next (ranBundle s p (fun _ => feedIssued u pc true true a) plainSeq)) ∧
  (∀ (s : State) (p : Nat) (a : StoreArgs), Calm s p → (part s p).job.debug = false →
     exec (.store p a) s = .next (ranBundle s p (fun _ => storeIssued (part s p).seq.ic (part s p).seq.next a) plainSeq))

/-- VLD outside held ranges, VST, VDRN and VDST: the result, its destination and its cycle; VRAND on an Opal pipeline
without reservations, its reserved forms (06, R205, R219; 07, R241, R246; 09, R287 to R290). -/
def Obligations.VectorMoves : Prop :=
  (∀ (s : State) (p : Nat) (a : VecArgs), Calm s p →
     let u := (part s p).seq.ic
     let flies := vecFlies u (part s p).seq.next a
     let port (c : Cluster) : BitVec 4096 := c.core.accum.port
     ((∀ c ∈ (part s p).clusters, predOn c.core a.pred = true → unheld c (vAddr a c) 512 = true) →
       exec (.vld p a) s =
         .next (ranBundle s p (fun _ => whereOn a.pred (fun c =>
           { flies 2 (fun _ => .reg a.vd.toNat) (fun d => BitVec.ofNat 4096 (leNat (sramRead d.sram (vAddr a d) 512)))
               (fun _ => {}) c with journal := journalRead c.journal (linesOf (vAddr a c) 512) })) plainSeq)) ∧
     exec (.vst p a) s =
       .next (ranBundle s p (fun _ => flies 1 (fun c => .sram (vAddr a c)) (fun c => vReg c.core.vec a.va.toNat) (fun _ => {})) plainSeq) ∧
     exec (.vdrn p a) s = .next (ranBundle s p (fun _ => flies 1 (fun _ => .reg a.vd.toNat) port (fun _ => {})) plainSeq) ∧
     exec (.vdst p a) s = .next (ranBundle s p (fun _ => flies 2 (fun c => .sram (vAddr a c)) port (fun _ => {})) plainSeq)) ∧
  (∀ (s : State) (p : Nat) (a : VecArgs), Calm s p →
     let u := (part s p).seq.ic
     let seed (c : Cluster) : Words4 :=
       if a.vext.toNat.testBit 36 then seedWords c.core.opal.altLo.toNat c.core.opal.altHi.toNat else jobSeed (part s p).job.seed
     let lanes (c : Cluster) : List Nat :=
       vrandLanes (seed c) (part s p).seq.step (a.vext.toNat % 2 ^ 32) (a.vext.toNat / 2 ^ 32 % 16)
         (gReg c.core.scalar a.vaddr.toNat).toNat (lanesOf (vReg c.core.vec a.vb.toNat))
     (4 ≤ a.vext.toNat / 2 ^ 32 % 16 → (part s p).job.debug = false →
       exec (.vrand p a) s = .next (ranBundle s p (fun _ => setSq 0x100) plainSeq)) ∧
     (a.vext.toNat / 2 ^ 32 % 16 < 4 → exec (.vrand p a) s =
       .next (ranBundle s p (fun _ c =>
         whereOn a.pred (inOpal (fun o => { o with resv := [{ lo := u, hi := u + 31, vrand := true }], vrandCnt := satInc o.vrandCnt 1 }))
           (vecFlies u (part s p).seq.next a 12 (fun _ => .reg a.vd.toNat) (fun d => rowOf (lanes d)) (fun _ => {}) c)) plainSeq)))

/-- The forty operations that compute a register from lanes, with their latency, and what the lanes of the integer,
logic, move and sign operations hold (07, R241, R246 to R249, R251 to R258). -/
def Obligations.VectorLanes : Prop :=
  (∀ (s : State) (p : Nat) (a : VecArgs), Calm s p →
     let gives (i : Instr) (op : VLaneOp) (latency : Nat) : Prop :=
       let r (c : Cluster) : List Nat × VCount :=
         let v (n : BitVec 4) : List Nat := lanesOf (vReg c.core.vec n.toNat)
         vLanes op a.vext.toNat (v a.va) (v a.vb) (v a.vc)
       exec i s =
         .next (ranBundle s p (fun _ => vecFlies (part s p).seq.ic (part s p).seq.next a latency (fun _ => .reg a.vd.toNat)
           (fun c => rowOf (r c).1) (fun c => (r c).2)) plainSeq)
     (gives (.fadd p a) .fadd 4 ∧ gives (.fsub p a) .fsub 4 ∧ gives (.fmul p a) .fmul 4 ∧ gives (.fma p a) .fma 4 ∧
       gives (.fmin p a) .fmin 2 ∧ gives (.fmax p a) .fmax 2 ∧ gives (.fabs p a) .fabs 1 ∧ gives (.fneg p a) .fneg 1 ∧
       gives (.fcmpeq p a) .fcmpeq 2 ∧ gives (.fcmplt p a) .fcmplt 2 ∧ gives (.fcmple p a) .fcmple 2 ∧ gives (.vsel p a) .vsel 1 ∧
       gives (.fdiv p a) .fdiv 12 ∧ gives (.fsqrt p a) .fsqrt 12 ∧ gives (.cvtfi p a) .cvtfi 3 ∧ gives (.cvtif p a) .cvtif 3) ∧
     (gives (.iadd p a) .iadd 1 ∧ gives (.isub p a) .isub 1 ∧ gives (.vecAnd p a) .vand 1 ∧ gives (.vecOr p a) .vor 1 ∧
       gives (.vecXor p a) .vxor 1 ∧ gives (.shli p a) .shli 1 ∧ gives (.shri p a) .shri 1 ∧ gives (.sari p a) .sari 1 ∧
       gives (.vbcst p a) .vbcst 1 ∧ gives (.vidx p a) .vidx 1 ∧ gives (.vrot p a) .vrot 2 ∧ gives (.vsplat p a) .vsplat 2) ∧
     gives (.exp2 p a) .exp2 8 ∧ gives (.log2 p a) .log2 10 ∧ gives (.rcp p a) .rcp 12 ∧ gives (.rsqrt p a) .rsqrt 8 ∧
     gives (.tanh p a) .tanh 28 ∧ gives (.erf p a) .erf 40 ∧ gives (.gumbel p a) .gumbel 28 ∧ gives (.norminv p a) .norminv 72 ∧
     gives (.rsum p a) .rsum 12 ∧ gives (.rsumsq p a) .rsumsq 16 ∧ gives (.rmax p a) .rmax 10 ∧ gives (.rargmax p a) .rargmax 12) ∧
  (∀ (x y z : BitVec 4096) (vext : Nat) (j : Nat), j < 128 →
     let lane (r : BitVec 4096) (k : Nat) : BitVec 32 := (r >>> (32 * k)).setWidth 32
     let res (op : VLaneOp) : BitVec 32 := lane (rowOf (vLanes op vext (lanesOf x) (lanesOf y) (lanesOf z)).1) j
     let imm : BitVec 32 := BitVec.ofNat 32 vext
     res .iadd = lane x j + lane y j ∧ res .isub = lane x j - lane y j ∧ res .vand = lane x j &&& lane y j ∧
     res .vor = lane x j ||| lane y j ∧ res .vxor = lane x j ^^^ lane y j ∧ res .shli = lane x j <<< (vext % 32) ∧
     res .shri = lane x j >>> (vext % 32) ∧ res .sari = (lane x j).sshiftRight (vext % 32) ∧ res .vbcst = imm ∧
     res .vidx = imm + BitVec.ofNat 32 j ∧ res .vrot = lane x ((j + vext) % 128) ∧ res .vsplat = lane x (vext % 128) ∧
     res .vsel = (if lane z j = 0 then lane y j else lane x j) ∧ res .fabs = lane x j &&& 0x7FFFFFFF ∧
     res .fneg = lane x j ^^^ 0x80000000)

/-- The eleven DMA operations, outside debug mode, where STRICT traps none of them: each cluster claims its buffer or
finds it busy, and what the operations hand out is performed in the order of the clusters (02, R66, R68; 06, R219 to
R227; 09, R304; 13, R424; 14, R471). READ with nothing reported by on-die ECC. -/
def Obligations.DmaOperations : Prop :=
  ∀ (s : State) (p : Nat) (a : DmaArgs), Calm s p → (part s p).job.debug = false →
    let u := (part s p).seq.ic
    let cclk := (part s p).seq.cclk
    let pc := (part s p).seq.next
    let b (op : DmOp) : Bundle := { emptyBundle with dmOp := op, dm := a }
    let gives (i : Instr) (op : DmOp) : Prop :=
      strictTrap s p (b op) = none → exec i s = .next (dmRan s p (b op) (dmIssued u cclk pc op a) (dmSends op a))
    gives (.read p a []) .read ∧ gives (.write p a) .write ∧ gives (.send p a) .send ∧ gives (.atomicAdd p a) (.atomic false) ∧
    gives (.atomicAddRelaxed p a) (.atomic true) ∧ gives (.hostout p a) .hostout ∧ gives (.regread p a) .regread ∧
    gives (.solve p a) .solve ∧ gives (.coll p a) .coll ∧
    (strictTrap s p (b .seed) = none →
      exec (.seed p a) s = .next (dmRan s p (b .seed) (seedIssued u cclk pc a) (dmSends .seed a))) ∧
    exec (.recv p a) s = .next (dmRan s p (b .recv) (recvIssued u cclk pc a) (dmSends .recv a))

/-- STEP_END and HALT at a bare boundary: the step counter advances and the attempt is 1 again, buffers, tiles and
loops clear, the counters of the window take the step in, SRAM, registers and HBM stand, no other partition changes;
HALT then ends the job with status 0 and sets `halted` (02, R78, R86; 05, R192; 06, R232, R677; 17, R571, R576). -/
def Obligations.StepBoundary : Prop :=
  ∀ (s : State) (p : Nat), Calm s p → Bare s p → (part s p).seq.votes = [] →
    let q := part s p
    let after (t : State) : Prop :=
      (part t p).seq.step = q.seq.step + 1 ∧ (part t p).seq.attempt = 1 ∧ (part t p).seq.begun = false ∧ (part t p).seq.loops = [] ∧
      (part t p).seq.ic = q.seq.ic + 1 ∧ (part t p).seq.ic0 = q.seq.ic + 1 ∧ (part t p).stepsDone = satInc q.stepsDone 1 ∧
      (part t p).rep.snap.issued = satInc q.rep.live.issued (q.seq.ic + 1 - q.seq.ic0) ∧
      (part t p).rep.stepSnap = BitVec.ofNat 64 q.seq.step ∧ (part t p).hbm = q.hbm ∧
      List.Forall₂ closedCluster q.clusters (part t p).clusters ∧ ∀ k, k ≠ p → part t k = part s k
    (∃ t, exec (.stepEnd p) s = .next t ∧ after t ∧ (part t p).st = .running ∧ (part t p).waiting = true) ∧
    (∃ t, exec (.halt p) s = .next t ∧ after t ∧ (part t p).st = .ended ∧ (part t p).endWord = 0 ∧
      ∀ c ∈ (part t p).clusters, c.core.scalar.status.getLsbD 12 = true)

/-- LD and vector results reach their registers in the cycle in which they are due: the register holds the value, a
scalar operation of that cycle wins over an LD, g0 stays 0, and the results that are due leave the queue (06, R204,
R210; 07, R241, R242). -/
def Obligations.DueResults : Prop :=
  (∀ (e : Env) (c : ClusterCore) (rs : List (Acc × List Byte)) (evs : List Ev) (w : Cwr) (l : LdPend), c.scalar.ld = [l] → l.due = e.u →
    c.scalar.g.length = 32 → l.dst < 32 → e.b.scOp ≠ .ld →
    let t := scalarCycle e c rs evs w
    t.ld = [] ∧
    (scOn e c = false → gReg t l.dst = if l.dst = 0 then 0 else l.val) ∧
    (scOn e c = true → e.b.sc.dst.toNat ≠ l.dst → gReg t l.dst = if l.dst = 0 then 0 else l.val) ∧
    (∀ v, scOn e c = true → e.b.sc.dst.toNat = l.dst → l.dst ≠ 0 → scResult e c = some v → gReg t l.dst = v)) ∧
  ∀ (e : Env) (c : ClusterCore) (ss : List StoreOp) (rs : List (Acc × List Byte)) (w : Cwr) (x : VecPend) (n : Nat),
    c.vec.flight = [x] → x.due = e.u → x.dst = .reg n → n < 16 → c.vec.v.length = 16 → e.b.vOp = .nop →
    let t := (vecCycle e c ss rs w).1
    t.flight = [] ∧ vReg t n = x.val ∧ (∀ k, k < 16 → k ≠ n → vReg t k = vReg c.vec k) ∧ t.nan = satInc c.vec.nan x.cnt.nan ∧
      t.inf = satInc c.vec.inf x.cnt.inf ∧ t.domain = satInc c.vec.domain x.cnt.dom

/-- The auxiliary input with its levels, and what turns the main domain off and on: what is left of it, and what it
starts with (19, R608 to R614, R620, R635; 20, R648, R650; 21, R671). -/
def Obligations.Inputs : Prop :=
  (∀ (s : State) (mv : BitVec 16), s.supplies.aon = true →
     let reads (aux away : Bool) : State :=
       { s with
         supplies := { s.supplies with
                       aux := aux, auxOver := away, auxMv := mv.toNat, fromMain := s.supplies.main && (!aux || away) } }
     (10500 < mv.toNat → exec (.auxPresent mv) s = .next (reads true (decide (13200 < mv.toNat)))) ∧
     (mv.toNat < 10000 → exec (.auxAbsent mv) s = .next (reads false false)) ∧
     (13200 < mv.toNat → exec (.auxOvervoltage mv) s = .next (reads true true))) ∧
  (∀ s : State, s.supplies.aon = true → s.supplies.mainOn = true →
     (∃ t, exec .surpriseRemoval s = .next t ∧ mainGone s t ∧ t.supplies.mated = false ∧ t.life.removals = s.life.removals + 1) ∧
     (∃ t, exec .thermalTrip s = .next t ∧ mainGone s t ∧ t.gov.trip = true ∧ t.life.trips = s.life.trips + 1) ∧
     (∀ mv : BitVec 16, 62000 < mv.toNat → s.supplies.over_ = false →
       ∃ t, exec (.overVoltage mv) s = .next t ∧ mainGone s t ∧ t.supplies.over_ = true ∧ t.life.overs = s.life.overs + 1) ∧
     (∀ mv : BitVec 16, mv.toNat < 38000 → s.supplies.main = true →
       ∃ t, exec (.mainBelowReset mv) s = .next t ∧ mainGone s t ∧ t.supplies.main = false ∧ t.supplies.started = false ∧
         t.gov.trip = false ∧ t.life.resets = s.life.resets + 1) ∧
     ((∀ p, p < 12 → (part s p).st = .absent ∨ (part s p).st = .idle ∨ (part s p).st = .ended) → s.parts.length = 12 →
       ∃ t, exec .orderlyRemoval s = .next t ∧ mainGone s t ∧ t.supplies.enable = false ∧ t.supplies.safe = true)) ∧
  ((∀ (s : State) (mv : BitVec 16), s.supplies.aon = true → s.supplies.mainOn = false →
     let ok : Bool :=
       decide (40000 < mv.toNat) && s.supplies.enable && !s.gov.trip && !s.supplies.overrun &&
         !(s.supplies.over_ && decide (60500 ≤ mv.toNat))
     ∃ t, exec (.mainEnable mv) s = .next t ∧ t.supplies.mated = true ∧ t.supplies.mainOn = ok ∧ t.boot.fuse = s.boot.fuse ∧
       (ok = true → t.boot.st = .bootRom ∧ t.life.boots = s.life.boots + 1) ∧ (ok = false → t.boot = s.boot ∧ t.life = s.life)) ∧
   ∀ s : State, mayEnable s = true →
     ∃ t, exec .moduleReset s = .next t ∧ t.supplies.mainOn = true ∧ t.boot.st = .bootRom ∧ t.boot.fail = 0 ∧
       t.boot.planOn = false ∧ t.boot.fuse = s.boot.fuse ∧ t.life.boots = s.life.boots + 1 ∧ t.ports = List.replicate 24 lkPortReset ∧
       t.tiers = tiersReset ∧ t.beryl = berylReset ∧ t.noise = noiseReset ∧ t.grid = gridReset ∧ t.host.fns = List.replicate 13 fnReset ∧
       t.host.mem = s.host.mem ∧ t.quartz.ns = 0 ∧ t.pending = s.pending ∧ ∀ p, p < 12 → (part t p).st = .absent)

/-- A supply hold: cause 13 in every partition, released above W + 1.0 V with its length and lowest level in the
event; at the hold limit every job ends with cause 4 and status 0x08E6 (19, R616 to R618; 17, R571). -/
def Obligations.SupplyHold : Prop :=
  ∀ (s : State) (mv low : BitVec 16) (dt : Word64), s.supplies.mainOn = true →
    (mv.toNat < s.supplies.warnMv → s.supplies.supply = .normal →
      ∃ t, exec (.mainBelowWarning mv dt) s = .next t ∧ t.supplies.supply = .hold ∧ t.gov.holds = satInc s.gov.holds 1 ∧
        t.life.holds = s.life.holds + 1 ∧ ∀ p, p < s.parts.length → (part t p).seq.holds = (part s p).seq.holds ||| 0x2000) ∧
    (s.supplies.warnMv + 1000 < mv.toNat → s.supplies.supply = .hold →
      let u := advance s dt
      let us := (u.life.clock - s.supplies.holdAt) / 1000
      exec (.mainAboveResume mv low dt) s =
        .next (sendEvent
          { u with
            parts := s.parts.map (fun q => { q with seq := { q.seq with holds := q.seq.holds &&& 0xDFFF } }),
            supplies := { mainReads mv.toNat u.supplies with supply := .normal } }
          srcPower 15 0x08E5 (us % 2 ^ 32 + min low.toNat s.supplies.holdMv * 2 ^ 32))) ∧
    (s.supplies.supply = .hold → s.parts.length = 12 →
      ∃ t, exec .holdLimitExpiry s = .next t ∧ t.supplies.supply = .halted ∧ t.gov.halts = satInc s.gov.halts 1 ∧
        t.life.halts = s.life.halts + 1 ∧
        ∀ p, p < 12 → jobActive (part s p) = true →
          (part t p).st = .ended ∧ (part t p).endWord = 0x000408E6 ∧ (part t p).hbm = (part s p).hbm)

/-- The run permits with their hysteresis and their state table, and a halt request of the host (17, R571; 19, R622 to
R624, R626). -/
def Obligations.Permits : Prop :=
  ((∀ (s : State) (a b : Int) (dt : Word64), s.supplies.aon = true →
     let reads (was : Bool) (mv : Int) : Bool := if 9000 ≤ mv then true else if mv ≤ 6000 then false else was
     let ra := reads s.supplies.permA a
     let rb := reads s.supplies.permB b
     let u := s.supplies
     ∃ t, exec (.permitSample a b dt) s = .next t ∧ t.supplies.permA = ra ∧ t.supplies.permB = rb ∧
       let got := (t.supplies.permit, t.supplies.permHalt, t.supplies.faults, t.supplies.disagree)
       (u.permit = .run → ra = true → rb = true → got = (.run, u.permHalt, u.faults, u.disagree)) ∧
       (u.permit ≠ .fault → ra = false → rb = false → got = (.stop, u.permit != .stop || u.permHalt, u.faults, u.disagree)) ∧
       (u.permit = .run ∨ u.permit = .stop → ra ≠ rb → got = (.disagree, u.permHalt, u.faults, u.disagree) ∧ t.supplies.t = 1) ∧
       (u.permit = .disagree → ra = true → rb = true → got = (.run, false, u.faults, satInc u.disagree 1)) ∧
       (u.permit = .disagree → ra ≠ rb → u.t + 1 < u.discMs →
         got = (.disagree, u.permHalt, u.faults, u.disagree) ∧ t.supplies.t = u.t + 1) ∧
       (u.permit = .disagree → ra ≠ rb → u.discMs ≤ u.t + 1 → got = (.fault, true, satInc u.faults 1, u.disagree)) ∧
       (u.permit = .stop → ra = true → rb = true → got = (.run, false, u.faults, u.disagree)) ∧
       (u.permit = .fault → (u.clearAsked && ra && rb) = true → got = (.run, false, u.faults, u.disagree)) ∧
       (u.permit = .fault → (u.clearAsked && ra && rb) = false → got = (.fault, u.permHalt, u.faults, u.disagree))) ∧
   ∀ s : State, exec .permitFaultClear s = .next (
     if s.supplies.permit = .fault then { s with supplies := { s.supplies with clearAsked := true, clearDone := none } } else s)) ∧
  ((∀ (s : State) (v : Word32), barFull s = true → s.parts.length = 12 → s.faults.tw = none →
     ∃ t, exec (.haltRequest 0 v) s = .next t ∧ t.gov.halt = v &&& 0x8FFF ∧
       ∀ p, p < 12 →
         let q := part s p
         let asked := v.getLsbD p || v.getLsbD 15 || s.gov.haltMg.getLsbD p || s.gov.haltMg.getLsbD 12 || s.supplies.permHalt
         if asked && jobActive q && q.haltAt.isNone then
           if q.st = .running ∧ q.waiting = true then
             (part t p).st = .ended ∧
               (part t p).endWord = BitVec.ofNat 32 ((q.endReq.getD (2, 0)).2 + (q.endReq.getD (2, 0)).1 * 65536)
           else part t p = { q with haltAt := some s.quartz.ns, endReq := some (q.endReq.getD (2, 0)) }
         else part t p = q) ∧
   ∀ (s : State) (k : Nat) (v : Word32), 0 < k → k < 13 → exec (.haltRequest k v) s = .next s)

/-- The power governor's two paths, and the thermal limit with its trip (19, R630, R631, R633 to R635). -/
def Obligations.PowerAndThermal : Prop :=
  (∀ (s : State) (watts : BitVec 16), s.supplies.mainOn = true →
     let c := min s.gov.cap s.gov.capMg
     let w := watts.toNat
     (∃ t, exec (.fastPathWindow watts) s = .next t ∧ { t with gov := s.gov } = s ∧
       t.gov.duty = (if 97 * c < 100 * w then min 3 (s.gov.duty + 1) else if 100 * w < 94 * c then s.gov.duty - 1 else s.gov.duty) ∧
       (s.gov.duty ≠ 0 ∨ t.gov.duty ≠ 0 → t.gov.suppressed = true)) ∧
     (s.gov.target ≠ 0 → s.gov.replan ≠ .paused → s.gov.suppressed = true →
       ∃ t, exec (.slowPath watts) s = .next t ∧ t.parts = s.parts ∧ t.gov.target ≤ max 48 (s.gov.target - 1) ∧
         (49 ≤ s.gov.target → max 48 (s.gov.target - 1) ≤ limitSteps s.gov →
           t.gov.target = s.gov.target - 1 ∧ t.gov.settle = 16 ∧ t.gov.quiet = 0)) ∧
     (s.gov.target ≠ 0 → s.gov.replan ≠ .paused → s.gov.suppressed = false → s.gov.target ≤ limitSteps s.gov →
       ∃ t, exec (.slowPath watts) s = .next t ∧ t.parts = s.parts ∧
         t.gov.target = s.gov.target + (if 100 * w < 90 * c ∧ 9 ≤ s.gov.quiet ∧ s.gov.target < limitSteps s.gov then 1 else 0))) ∧
  (∀ (s : State) (a : ThermalArgs), s.supplies.mainOn = true →
     let g := s.gov
     let hot := decide (g.tthr ≤ a.junction.toNat) || decide (85 ≤ a.stack.toNat)
     let cool := decide (a.junction.toNat + 5 < g.tthr) && decide (a.stack.toNat < 80)
     let trips := decide (110 ≤ a.junction.toNat) || decide (95 ≤ a.stack.toNat)
     let warm := decide (45 ≤ a.inlet.toNat) || (g.inletCap && decide (43 ≤ a.inlet.toNat))
     ((trips && decide (1 ≤ g.tripN)) = false →
       ∃ t, exec (.thermalAdjust a) s = .next t ∧ t.parts = s.parts ∧
         t.gov.cool = (if cool then min 100 (g.cool + 1) else 0) ∧ t.gov.tripN = (if trips then g.tripN + 1 else 0) ∧
         (let n := if hot then max 48 (g.thermal - 1) else if cool && decide (99 ≤ g.cool) then min 112 (g.thermal + 1) else g.thermal
          t.gov.thermal = (if warm then min 80 n else n)) ∧ t.gov.target = min g.target (limitSteps t.gov)) ∧
     ((trips && decide (1 ≤ g.tripN)) = true →
       ∃ t, exec (.thermalAdjust a) s = .next t ∧ mainGone s t ∧ t.gov.trip = true ∧ t.life.trips = s.life.trips + 1))

/-- A canary trip lowers points of the margin plan and schedules a re-plan; the re-plan holds every partition, pauses,
and relocks (02, R84; 19, R640, R641). -/
def Obligations.MarginPlan : Prop :=
  (∀ (s : State) (slack : BitVec 16), s.boot.st = .ready → slack.toNat < 10 → 49 ≤ s.gov.target → s.gov.replan = .none →
     ∃ t, exec (.canarySample slack) s = .next t ∧ t.parts = s.parts ∧ t.gov.target ≤ s.gov.target - 1 ∧
       t.gov.canary = satInc s.gov.canary 1 ∧ t.life.canary = s.life.canary + 1 ∧ t.gov.replan = .scheduled ∧
       ∀ r, s.gov.plan = some r → ∃ q, t.gov.plan = some q ∧ q.steps.length = r.steps.length ∧
         ∀ k, k < r.steps.length → q.steps.getD k 0 ≤ r.steps.getD k 0 ∧ (k < s.gov.point → q.steps.getD k 0 = r.steps.getD k 0) ∧
           (s.gov.point ≤ k → q.steps.getD k 0 < s.gov.target)) ∧
  (∀ (s : State) (dt : Word64), s.parts.length = 12 →
     let raised (p : Nat) : Partition := withSeq (fun x => { x with holds := x.holds ||| 0x1000 }) (part s p)
     (s.gov.replan = .scheduled → s.gov.replanAt ≤ s.quartz.ns →
       ∃ t, exec .marginReplan s = .next t ∧ t.gov.replanAt = s.quartz.ns ∧ t.gov.target = s.gov.target ∧
         t.gov.replan = (if (List.range 12).all (fun p => replanHeld (raised p)) then .paused else .holding) ∧
         ∀ p, p < 12 → part t p = raised p) ∧
     (s.gov.replan = .holding → s.parts.all replanHeld = false → s.gov.replanAt + 100000000 ≤ s.quartz.ns →
       ∃ t, exec .marginReplan s = .next t ∧ t.gov.replan = .scheduled ∧ t.gov.replanAt = s.quartz.ns + 1000000000 ∧
         t.gov.target = s.gov.target ∧
         ∀ p, p < 12 → part t p = withSeq (fun x => { x with holds := x.holds &&& 0xEFFF }) (part s p)) ∧
     (s.gov.replan = .paused →
       ∃ t, exec (.cclkRelockDone dt) s = .next t ∧ t.gov.replan = .none ∧ t.gov.target = min s.gov.target (limitSteps s.gov) ∧
         ∀ p, p < 12 → (part t p).seq = { (part s p).seq with holds := (part s p).seq.holds &&& 0xEFFF } ∧
           (part t p).st = (part s p).st))

/-- A commit of the life record, and the power-on and the end of the always-on domain (18, R590; 19, R608, R625, R642,
R644; 20, R648). -/
def Obligations.AlwaysOn : Prop :=
  (∀ (s : State) (secs wh : BitVec 32), s.supplies.aon = true →
     ∃ t, exec (.lifeRecordCommit secs wh) s = .next t ∧
       t.life.seconds = s.life.seconds + (if s.supplies.mainOn then secs.toNat else 0) ∧ t.life.energy = s.life.energy + wh.toNat ∧
       t.parts = s.parts ∧ t.boot.fuse = s.boot.fuse ∧
       ∀ c, newestCopy s.copyA s.copyB = some c → newestCopy t.copyA t.copyB = some { seq := c.seq + 1, life := t.life, valid := true } ∧
         (t.copyA = some c ∨ t.copyB = some c)) ∧
  ((∀ (s : State) (a : PowerOnArgs), s.supplies.aon = false →
     ∃ t, exec (.alwaysOnPowerOn a) s = .next t ∧ t.supplies.aon = true ∧ t.supplies.mainOn = false ∧ t.supplies.permit = .stop ∧
       t.supplies.permHalt = true ∧ t.supplies.fromMain = a.main ∧ t.mgmt.keys = s.mgmt.keys ∧ t.mgmt.queue = [] ∧
       t.mgmt.strap = a.straps ∧ t.gov = governorReset ∧ t.boot.fuse = s.boot.fuse ∧ t.pending = s.pending ∧
       (∀ c, newestCopy (checkCopy s.copyA a.badA) (checkCopy s.copyB a.badB) = some c →
         t.mgmt.h = c.life.floors.map (fun n => n + 65536) ∧ t.life.clock = c.life.clock ∧ t.life.gaps = c.life.gaps + 1 ∧
         t.life.seconds = c.life.seconds ∧ t.life.clusters = c.life.clusters) ∧
       (newestCopy (checkCopy s.copyA a.badA) (checkCopy s.copyB a.badB) = none →
         t.life = { lifeEmpty with lost := s.copyA.isSome || s.copyB.isSome } ∧ t.mgmt.h = [65536, 65536, 65536, 65536])) ∧
   ∀ s : State, s.supplies.aon = true → s.supplies.aux = false → s.supplies.main = false →
     ∃ t, exec .alwaysOnHoldUpEnd s = .next t ∧ mainGone s t ∧ t.supplies.aon = false ∧
       ∀ c, newestCopy s.copyA s.copyB = some c → ∃ d, newestCopy t.copyA t.copyB = some d ∧ d.seq = c.seq + 1 ∧
         d.life.clock = c.life.clock ∧ d.life.seconds = c.life.seconds)

/-- From BOOT_ROM to READY or FAILED: the copy of Onyx, the two firmware banks, the margin plan, the disabled set, the
table, the plan entry; log entry 12 for the CCLK at which START ends (01, R23, R24; 17, R559; 19, R634, R638; 20, R650
to R653, R656). -/
def Obligations.StartUp : Prop :=
  (∀ s : State, s.supplies.mainOn = true →
     (s.boot.st = .bootRom →
       exec (.bootRomDone false) s = .next { s with boot := { s.boot with st := .fwVerify, copy := s.boot.fuse } }) ∧
     (s.boot.st = .bootRom →
       ∃ t, exec (.bootRomDone true) s = .next t ∧ t.boot = { s.boot with st := .failed, fail := 0x05F1 } ∧ t.parts = s.parts) ∧
     (∀ phase : BitVec 4,
       (phase = 3 ∧ s.boot.st = .bootRom) ∨ (phase = 4 ∧ s.boot.st = .fwVerify) ∨
         (5 ≤ phase.toNat ∧ phase.toNat ≤ 8 ∧ s.boot.st = .start) →
       ∃ t, exec (.startPhaseTimeout phase) s = .next t ∧ t.boot = { s.boot with st := .failed, fail := 0x04F1 } ∧
         t.parts = s.parts ∧ t.supplies = s.supplies) ∧
     (s.boot.st = .bootRom →
       ∃ t, exec (.startPhaseTimeout 2) s = .next t ∧ mainGone s t ∧ t.supplies.overrun = true ∧ mayEnable t = false)) ∧
  (∀ (s : State) (keyA keyB : BitVec 768), s.boot.st = .fwVerify →
     let pref := s.life.bankB
     let img (isB : Bool) : List Byte := bankImage (if isB then s.boot.bankB else s.boot.bankA)
     let bad (isB : Bool) : Bool := fwCheck s.boot.copy (img isB) (if isB then keyB else keyA) != 0
     let run (isB : Bool) (t : State) : Bool :=
       t.boot.st = .start && t.boot.runB = isB && t.boot.byFw && (if isB then t.boot.bankB else t.boot.bankA).result = 1 &&
         t.boot.fw.toNat = fieldAt (img isB) 8 4 && t.boot.sec = fieldAt (img isB) 12 2
     ∃ t, exec (.fwVerify keyA keyB) s = .next t ∧ t.parts = s.parts ∧ t.boot.fuse = s.boot.fuse ∧ t.boot.copy = s.boot.copy ∧
       (if bad pref then (if bad (!pref) then t.boot.st = .failed ∧ t.boot.fail = 0x0503 else run (!pref) t = true)
        else run pref t = true)) ∧
  (∀ (s : State) (a : StartArgs), s.boot.st = .start → s.supplies.mainOn = true → s.parts.length = 12 →
     let u := startPlan (withBoot (advance s a.dt) (fun b => { b with models := a.models })) a
     let dis := factoryDisabled s.boot.copy ||| u.life.clusters ||| a.failed
     let plans := validPlans s.boot.copy
     ∃ t, exec (.start a) s = .next t ∧ t.boot.fuse = s.boot.fuse ∧ t.boot.models = a.models ∧
       (if planTop u.gov = 0 then t.boot.st = .failed ∧ t.boot.fail = 0x04E0
        else if assignLogical dis = none then t.boot.st = .failed ∧ t.boot.fail = 0x0401
        else if plans = [] then t.boot.st = .failed ∧ t.boot.fail = 0x05F1
        else readyWith s t dis plans))

/-- What ends a job at once, whatever its step does: the watchdog, the host path, the halt bound, the debugger; cause
4 with the status of the event (06, R233; 08, R277, R282; 17, R558, R571; 19, R627). -/
def Obligations.FaultEnds : Prop :=
  ∀ (s : State) (p : Nat), p < 12 → p < s.parts.length → (part s p).st = .running → s.faults.tw = none →
    ((part s p).seq.stallRun ≠ 0 →
      ∃ t, exec (.stallWatchdog p) s = .next t ∧ jobEnded s t p 0x00040220 ∧
        ∀ c ∈ (part t p).clusters, c.core.scalar.status.getLsbD 7 = true ∧ c.core.scalar.status.getLsbD 12 = true) ∧
    ((part s p).seq.hostWait ≠ 0 → ∃ t, exec (.hostPathTimeout p) s = .next t ∧ jobEnded s t p 0x00040403) ∧
    ((part s p).haltAt.isSome = true → ∃ t, exec (.haltBoundExpiry p) s = .next t ∧ jobEnded s t p 0x000408E8) ∧
    ((part s p).seq.frozen = true → ∃ t, exec (.debugEndJob p) s = .next t ∧ jobEnded s t p 0x00040241)

/-- Function Level Reset, PERST, and the PCIe link down and up (17, R557, R558; 20, R649). -/
def Obligations.HostResets : Prop :=
  (∀ s : State, s.parts.length = 12 → s.host.fns.length = 13 → s.faults.tw = none →
     let noRings (f : Fn) : Bool := f.cmdSize = 0 && f.cmdTail = 0 && f.cmdHead = 0 && f.evtSize = 0 && f.evtHead = 0 && f.evtTail = 0 &&
       f.cmdBaseEff = 0 && f.cplBaseEff = 0 && f.evtBaseEff = 0 && f.waits.isEmpty
     (∀ p, p < 12 → ∃ t, exec (.functionLevelReset (p + 1)) s = .next t ∧ noRings (fnOf t (p + 1)) = true ∧ t.boot = s.boot ∧
       t.host.ctxs.all (fun c => partOfCtx s c.k != some p) = true ∧ (part t p).hbm = (part s p).hbm ∧
       (∀ k, k < 12 → k ≠ p → part t k = part s k) ∧
       (jobActive (part s p) = true → jobEnded s t p 0x00030000) ∧ (jobActive (part s p) = false → part t p = part s p)) ∧
     (∃ t, exec .perst s = .next t ∧ exec (.functionLevelReset 0) s = .next t ∧ t.boot = s.boot ∧ t.host.fns.all noRings = true ∧
       t.host.ctxs.all (fun c => (List.range 12).all (fun p => partOfCtx s c.k != some p)) = true ∧
       ∀ p, p < 12 → (part t p).hbm = (part s p).hbm ∧ jobActive (part t p) = false ∧
         (jobActive (part s p) = true → (part t p).endWord = 0x00030000))) ∧
  (∀ s : State,
     exec .pcieLinkDown s = .next { s with host := { s.host with up := false } } ∧
     ∀ ws : List (Nat × List Byte), s.supplies.mainOn = true → s.host.up = false →
       s.host.held = ws.map (fun e => HostWrite.data e.1 e.2) →
       exec .pcieLinkUp s =
         .next { s with
                 host := { s.host with up := true, held := [], mem := ws.foldl (fun m e => memWrite m e.1 e.2) s.host.mem } })

/-- A failed cluster and its spare, an uncorrectable error, and the same error in two attempts (01, R26, R27, R30; 15,
R486, R502 to R507). -/
def Obligations.ClusterErrors : Prop :=
  (∀ (s : State) (l p : Nat), l < 480 → s.faults.tw = none → s.parts.length = 12 → partOfCl s l = some p → s.grid.table.length = 480 →
     let phys := physOf s l
     phys < 512 →
     let bit : BitVec 512 := BitVec.ofNat 512 (2 ^ phys)
     ∃ t, exec (.clusterFail l) s = .next t ∧ t.grid.disabled = s.grid.disabled ||| bit ∧ t.life.clusters = s.life.clusters ||| bit ∧
       t.grid.failed = s.grid.failed + 1 ∧ (∀ k, k < 12 → k ≠ p → part t k = part s k) ∧
       (∀ n, spareFor s phys [] = some n → t.grid.table = s.grid.table.set l n ∧
         (canReplay (part s p) = true → replayTaken s t p ∧ (part t p).se.takeover = true)) ∧
       (spareFor s phys [] = none → t.grid.table = s.grid.table ∧ (jobActive (part s p) = true → jobEnded s t p 0x000404B1))) ∧
  (∀ (s : State) (l p : Nat) (x : BitVec 8) (place : BitVec 32), l < 480 → s.parts.length = 12 → s.faults.tw = none →
     partOfCl s l = some p → s.grid.table.length = 480 → s.faults.health = [] → s.host.up = true →
     let q := part s p
     (x = 0 → jobActive q = true → ∃ t, exec (.uncorrectableError l x place) s = .next t ∧ jobEnded s t p 0x000405BC) ∧
     (1 ≤ x.toNat → x.toNat < 7 → canReplay q = true →
       ∃ t, exec (.uncorrectableError l x place) s = .next t ∧ replayTaken s t p ∧
         (q.se.errs.any (fun e => e.1 != q.seq.attempt && e.2.1 = x.toNat && e.2.2.1 = place.toNat && e.2.2.2 = l) = false →
           t.grid = s.grid ∧ (part t p).se.errs = q.se.errs ++ [(q.seq.attempt, x.toNat, place.toNat, l)] ∧
           (healthOf t (srcCl (physOf s l))).score = 64))) ∧
  (∀ (s : State) (l p : Nat) (x : BitVec 8) (place : BitVec 32), l < 480 → s.parts.length = 12 → s.faults.tw = none →
     partOfCl s l = some p → 1 ≤ x.toNat → x.toNat < 7 → physOf s l < 512 → (part s p).st = .running →
     (∃ e ∈ (part s p).se.errs, e.1 ≠ (part s p).seq.attempt ∧ e.2 = (x.toNat, place.toNat, l)) →
     ∃ t, exec (.uncorrectableError l x place) s = .next t ∧ t.grid.disabled.getLsbD (physOf s l) = true ∧
       t.life.clusters.getLsbD (physOf s l) = true ∧ t.grid.failed = s.grid.failed + 1)

/-- A replay that was asked for: with what it restores at hand the attempt number rises, the sequencer goes back to
the step's entry, the HBM journal goes back newest record first, calls, votes, buffers and contributions of the
attempt are gone; where a restore fails the job ends with 0x05B2. A job of one rank then goes on at once (15, R495,
R497, R498). -/
def Obligations.Replay : Prop :=
  ∀ (s : State) (p : Nat), p < 12 → s.parts.length = 12 → s.faults.tw = none → (part s p).st = .running →
    let q := part s p
    (q.se.asked = true → q.job.ranks ≤ 1 → q.se.takeover = false →
      (∃ t, exec (.replay p false false) s = .next t ∧
        let x := (part t p).seq
        x.attempt = q.seq.attempt + 1 ∧ x.step = q.seq.step ∧ x.next = q.seq.entry ∧ x.loops = q.seq.loops0 ∧ x.begun = false ∧
        x.votes = [] ∧ x.atomics = [] ∧ x.fpLo = 0 ∧ x.fpHi = 0 ∧ (part t p).se.asked = false ∧ (part t p).se.replaying = true ∧
        (part t p).se.journal = [] ∧ (part t p).se.replays = satInc q.se.replays 1 ∧ (part t p).cl.inAttempt = [] ∧
        (q.upd.undo = [] → (part t p).hbm = q.se.journal.foldr (fun r m => memWrite m r.off (leBytes 64 r.old.toNat)) q.hbm) ∧
        ∀ k, k < 12 → k ≠ p → part t k = part s k) ∧
      ∃ t, exec (.replay p true false) s = .next t ∧ jobEnded s t p 0x000405B2) ∧
    (q.se.replaying = true → q.job.ranks ≤ 1 →
      ∃ t, exec (.replayRestart p 0) s = .next t ∧ (part t p).se.replaying = false ∧ (part t p).seq = q.seq ∧
        (part t p).hbm = q.hbm)

/-- Health scores decay; a neighbour link's parity error; a spot-check. A test window opens on the cluster after the one
tested last, with a hold of cause 8 on its partition's next boundary, or is postponed for want of a spare; a failing test
retires the cluster, a pass waits for a boundary to bring it back (01, R28; 04, R166; 15, R502, R509 to R512, R521, R522). -/
def Obligations.HealthAndTests : Prop :=
  ((∀ (s : State) (dt : Word64),
      ∃ t, exec (.healthDecay dt) s = .next t ∧ t.parts = s.parts ∧ t.grid = s.grid ∧
        ∀ h ∈ t.faults.health, ∃ g ∈ s.faults.health, g.die = h.die ∧ g.unit = h.unit ∧ g.index = h.index ∧ g.down = h.down ∧
          (h.unit = 1 ∨ h.unit = 3 ∨ h.unit = 5 ∨ h.unit = 6 → h.score.toNat = g.score.toNat - 1) ∧
          (h.unit = 2 → h.score.toNat = g.score.toNat - 16) ∧ (h.unit = 4 → h.score.toNat = g.score.toNat - 4)) ∧
   (∀ (s : State) (l p : Nat) (hop : BitVec 2), l < 480 → s.parts.length = 12 → partOfCl s l = some p →
      let q := part s p
      let i := l - p * (480 / planCount s)
      i < q.clusters.length →
      canReplay q = true →
      let again := q.se.errs.any (fun e => e.1 != q.seq.attempt && e.2.1 = 256 + hop.toNat && e.2.2.1 = 0 && e.2.2.2 = l)
      let a := (q.clusters.getD i clusterReset).core.array
      ∃ t, exec (.neighbourParityError l hop) s = .next t ∧ replayTaken s t p ∧
        let b := ((part t p).clusters.getD i clusterReset).core.array
        b.status = a.status ||| 0x80 ∧ b.gangPerr = satInc a.gangPerr 1 ∧
        b.relayed = (if again then a.relayed ||| BitVec.ofNat 4 (2 ^ hop.toNat) else a.relayed)) ∧
   (∀ (s : State) (l p : Nat), l < 480 → s.parts.length = 12 → partOfCl s l = some p → s.faults.tw = none →
      let q := part s p
      let i := l - p * (480 / planCount s)
      i < q.clusters.length → canReplay q = true → q.se.missed = [] →
      let cap (t : State) : Option Capture := ((part t p).clusters.getD i clusterReset).spot.capture
      (cap s).isSome = true →
      ((sparesNow s).isEmpty = true → ∀ d : Bool,
        ∃ t, exec (.spotCheckCompare l d) s = .next t ∧ (part t p).se.spotSkip = satInc q.se.spotSkip 1 ∧ cap t = none ∧
          (part t p).seq = q.seq) ∧
      ((sparesNow s).isEmpty = false →
        (∃ t, exec (.spotCheckCompare l false) s = .next t ∧ (part t p).se = { q.se with spotDone := satInc q.se.spotDone 1 } ∧
          cap t = none ∧ (part t p).seq = q.seq ∧ t.grid = s.grid) ∧
        (s.faults.health = [] →
          ∃ t, exec (.spotCheckCompare l true) s = .next t ∧ (part t p).se.spotDone = satInc q.se.spotDone 1 ∧
            (part t p).se.spotMiss = satInc q.se.spotMiss 1 ∧ cap t = none ∧ replayTaken s t p ∧
            (healthOf t (srcCl (physOf s l))).score = 128)))) ∧
  (∀ (s : State) (l p : Nat), s.faults.twCtrl.getLsbD 31 = true → s.faults.tw = none → s.parts.length = 12 →
    twNext s = some l → partOfCl s l = some p →
    ∃ t, exec .testWindowOpen s = .next t ∧ t.grid = s.grid ∧
      (∀ n, spareFor s (physOf s l) [] = some n →
        t.faults.tw = some { lcl := l, phys := physOf s l, stand := n, phase := .waitOpen } ∧
        part t p = { part s p with seq := { (part s p).seq with holds := (part s p).seq.holds ||| 0x100 } }) ∧
      (spareFor s (physOf s l) [] = none →
        t.faults.tw = none ∧ t.faults.twPostponed = satInc s.faults.twPostponed 1 ∧ t.parts = s.parts)) ∧
  ∀ (s : State) (w : TestWindow) (p : Nat), s.faults.tw = some w → w.phase = .testing → partOfCl s w.lcl = some p → s.parts.length = 12 →
    (jobActive (part s p) = true →
      ∃ t, exec (.testWindowClose none) s = .next t ∧ t.faults.tw = some { w with phase := .waitClose } ∧ t.grid = s.grid ∧
        (part t p).seq.holds = (part s p).seq.holds ||| 0x100) ∧
    (jobActive (part s p) = false →
      ∃ t, exec (.testWindowClose none) s = .next t ∧ t.faults.tw = none ∧ t.grid.table = s.grid.table.set w.lcl w.phys ∧
        t.faults.twDone = satInc s.faults.twDone 1 ∧ t.faults.twLast = some w.lcl) ∧
    ∀ k : BitVec 8,
      ∃ t, exec (.testWindowClose (some k)) s = .next t ∧ t.faults.tw = none ∧ t.grid.table = s.grid.table ∧
        t.grid.disabled = s.grid.disabled ||| BitVec.ofNat 512 (2 ^ w.phys) ∧
        t.life.clusters = s.life.clusters ||| BitVec.ofNat 512 (2 ^ w.phys) ∧ t.faults.twState = s.faults.twState ||| 4

/-- Lost lanes, groups and bridges, and failed hub cores (01, R18 to R21, R33; 20, R650). -/
def Obligations.BridgesAndCores : Prop :=
  (∀ (s : State) (b g : Nat), b < 60 → s.grid.bridges.length = 60 → s.parts.length = 12 →
     let gs (t : State) : List BridgeGroup := (t.grid.bridges.getD b (bridgeOf 0)).groups
     let at_ (t : State) (k : Nat) : BridgeGroup := (gs t).getD k { lost := 0, used := false }
     let lastOne : Bool := (gs s).zipIdx.all (fun e => e.2 = g || !e.1.used)
     g < (gs s).length → (at_ s g).used = true →
     ((at_ s g).lost < 2 →
       ∃ t, exec (.bridgeLaneFail b g) s = .next t ∧ at_ t g = { lost := (at_ s g).lost + 1, used := true } ∧
         ∀ p, p < 12 → (part t p).seq = (part s p).seq ∧ (part t p).se = (part s p).se ∧ (part t p).st = (part s p).st) ∧
     (2 ≤ (at_ s g).lost →
       ∃ t, exec (.bridgeLaneFail b g) s = .next t ∧ at_ t g = { lost := (at_ s g).lost + 1, used := false } ∧ allReplay s t) ∧
     (∃ t, exec (.bridgeGroupLoss b g) s = .next t ∧ at_ t g = { lost := (at_ s g).lost, used := false } ∧ allReplay s t ∧
       (∀ k, k < (gs s).length → k ≠ g → at_ t k = at_ s k) ∧
       t.grid.reroute = (if lastOne then s.grid.reroute ++ [b] else s.grid.reroute)) ∧
     ∃ t, exec (.bridgeLoss b) s = .next t ∧ (gs t).all (fun x => !x.used) = true ∧ t.grid.reroute = s.grid.reroute ++ [b] ∧ allReplay s t) ∧
  (∀ (s : State) (core : BitVec 2), s.grid.cores.getLsbD core.toNat = true → s.boot.st = .ready → s.parts.length = 12 →
     let left := ((List.range 4).filter (fun k => s.grid.cores.getLsbD k)).length - 1
     ∃ t, exec (.hubCoreFail core) s = .next t ∧ t.grid.cores = s.grid.cores &&& ~~~((1 : BitVec 4) <<< core.toNat) ∧
       (3 ≤ left → t.boot = s.boot ∧ t.parts = s.parts) ∧
       (left < 3 → t.boot = { s.boot with st := .halted } ∧
         ∀ p, p < 12 → (part t p).hbm = (part s p).hbm ∧ jobActive (part t p) = false ∧
           (jobActive (part s p) = true → (part t p).st = .ended ∧ (part t p).endWord = 0x00040402)))

/-- Placement of the protected region: over any layout of 2 to 8 stacks, two lines of the region never share a place,
a line never lies on its stripe's parity granule, and its stripe's other stacks are those of the layout (10, R318). -/
def Obligations.HbmPlacement : Prop :=
  ∀ (live : List Nat) (base x y : Nat), 2 ≤ live.length → live.length ≤ 8 → live.Nodup → 256 ∣ base → 64 ∣ x → 64 ∣ y →
    let f := mapProt live base x
    let g := mapProt live base y
    (x ≠ y → f.stack ≠ g.stack ∨ f.addr ≠ g.addr) ∧ f.stack ∈ live ∧ base ≤ f.addr ∧ f.others = live.filter (fun k => k != f.stack) ∧
    f.stack ≠ live.getD (live.length - 1 - x / 256 / (live.length - 1) % live.length) 0

/-- The failure of an M-stack, a stripe of a rebuild, and patrol scrub (10, R325, R330 to R338). -/
def Obligations.StackFailure : Prop :=
  (∀ (s : State) (k : BitVec 3), nth s.tiers.hbmStacks k.toNat ≠ 1 → s.tiers.hbmStacks.length = 8 → s.parts.length = 12 →
     let f := ((List.range 8).filter (fun i => nth s.tiers.hbmStacks i = 1)).length + 1
     ∃ t, exec (.stackFail k) s = .next t ∧ t.tiers.hbmStacks = s.tiers.hbmStacks.set k.toNat 1 ∧
       t.life.hbmStacks = s.life.hbmStacks ||| (1 : BitVec 8) <<< k.toNat ∧
       ∀ p, p < 12 → (part t p).seq = (part s p).seq ∧ (part t p).hbm = (part s p).hbm ∧ (part t p).clusters = (part s p).clusters ∧
         (p < planCount s →
           let m := (part s p).mem
           (part t p).mem.state = regionAfter f m ∧
           (m.state = .normal → f < 3 → (7 * m.p + 5) / 6 - m.p ≤ m.v →
             (part t p).mem.ptr = (7 * m.p * 2 ^ 28 + 1535) / 1536 ∧
             (part t p).mem.survivors = m.prot.filter (fun x => x != k.toNat)))) ∧
  (∀ (s : State) (p n : Nat), p < 12 → s.parts.length = 12 → p < planCount s →
     let m := (part s p).mem
     m.state = .rebuilding → m.ptr = n + 1 → s.tiers.poison = [] → m.survivors.length = 7 → m.survivors.all (stackUp s) = true →
     m.survivors.Nodup → m.prot = List.range 8 → (∀ k ∈ m.survivors, k < 8) →
     ∃ t, exec (.rebuildStripe p) s = .next t ∧ (part t p).mem.ptr = n ∧ (part t p).hbm = (part s p).hbm ∧
       (part t p).mem.state = (if n = 0 then .rebuilt else .rebuilding) ∧ t.tiers.hbmStacks = s.tiers.hbmStacks ∧
       ∀ (off len : Nat), hbmBytes t p off len = hbmBytes s p off len) ∧
  (∀ (s : State) (k : BitVec 3) (line : BitVec 30), line.toNat < 805306368 → s.parts.length = 12 →
     let here := k.toNat * 805306368 + line.toNat
     let pass := if here + 1 = 6442450944 then satInc s.tiers.scrubPass 1 else s.tiers.scrubPass
     exec (.patrolScrub k line none) s =
       .next { s with tiers := { s.tiers with scrubAt := (here + 1) % 6442450944, scrubPass := pass } } ∧
     ∀ p, p < planCount s → p < 12 → line.toNat * 64 / (192 / planCount s * 2 ^ 28) = p → granuleOk s (line.toNat * 64) k.toNat = true →
       s.faults.health = [] →
       ∃ t, exec (.patrolScrub k line (some false)) s = .next t ∧ t.tiers.scrubAt = (here + 1) % 6442450944 ∧
         (part t p).mem = { (part s p).mem with corr := satInc (part s p).mem.corr 1 } ∧
         (healthOf t (srcStack k.toNat)).score = 1 ∧ t.tiers.hbmStacks = s.tiers.hbmStacks)

/-- The coherent control space: GetS shares a line that nobody owns, GetM takes it, PutM stores it and leaves it
invalid; a line owned or favoured elsewhere answers RETRY, which MT_CD_RETRY counts; a grant carries the data of the
last completed write; other lines stand; a favoured requester has the owner recalled after 16 FCLK (10, R344, R345).
-/
def Obligations.CoherentLines : Prop :=
  ∀ (s : State) (line : BitVec 15) (req : BitVec 5), req.toNat < 4 ∨ 16 ≤ req.toNat →
    s.tiers.lines.Pairwise (fun a b => a.num < b.num) → (∀ d ∈ s.tiers.lines, d.sharers.Pairwise (· < ·)) →
    let n := line.toNat
    let r := req.toNat
    let d := dirLine s n
    let owned : Bool := d.st = .excl || d.st = .modif
    let elsewhere := (owned && d.owner != r) || d.favoured.any (fun f => f != r)
    (elsewhere = true → ∀ fclk : Word64,
      (∃ t, exec (.gets line req fclk) s = .next t ∧ dirAnswers s t n r true ∧ otherLines s t n ∧
        dirLine t n = { d with favoured := some (d.favoured.getD r) }) ∧
      (∃ t, exec (.getm line req fclk) s = .next t ∧ dirAnswers s t n r true ∧ otherLines s t n ∧
        dirLine t n = { d with favoured := some (d.favoured.getD r) })) ∧
    (elsewhere = false → owned = false → ∀ fclk : Word64,
      (∃ t, exec (.gets line req fclk) s = .next t ∧ dirAnswers s t n r false ∧ otherLines s t n ∧ (dirLine t n).st = .shared ∧
        (∀ x, x < 32 → (x ∈ (dirLine t n).sharers ↔ x = r ∨ x ∈ d.sharers)) ∧ (dirLine t n).data = d.data ∧ (dirLine t n).favoured = none) ∧
      (∃ t, exec (.getm line req fclk) s = .next t ∧ dirAnswers s t n r false ∧ otherLines s t n ∧ (dirLine t n).st = .modif ∧ (dirLine t n).owner = r ∧
        (dirLine t n).sharers = [] ∧ (dirLine t n).data = d.data ∧ (dirLine t n).since = fclk.toNat)) ∧
    (owned = true → d.owner = r → ∀ data : Word512,
      ∃ t, exec (.putm line req data) s = .next t ∧ otherLines s t n ∧ (dirLine t n).st = .inv ∧ (dirLine t n).data = data ∧
        (dirLine t n).favoured = d.favoured ∧ t.tiers.cdRetry = s.tiers.cdRetry) ∧
    (owned = true → d.favoured ≠ none → d.recalled = false → d ∈ s.tiers.lines → ∀ fclk : Word64, d.since + 16 ≤ fclk.toNat →
      ∃ t, exec (.ownerRecall line fclk) s = .next t ∧ otherLines s t n ∧ dirLine t n = { d with recalled := true })

/-- The host's aperture into a slice: a write puts its bytes there and nowhere else and enters no fingerprint, a read
delivers the bytes; outside the slice or in a range private to the engine both are refused, counted and reported, and
a refused write changes no byte (10, R324; 17, R556). -/
def Obligations.HostAperture : Prop :=
  ∀ (s : State) (fn : Nat) (off : Word64) (d : List Byte) (n : BitVec 13), fn < 13 → s.parts.length = 12 →
    off.toNat + d.length ≤ 2 ^ s.host.bar4 → off.toNat + n.toNat ≤ 2 ^ s.host.bar4 → d ≠ [] → 1 ≤ n.toNat → n.toNat ≤ 4096 →
    let p := (aperture s fn off.toNat).1
    let at_ := (aperture s fn off.toNat).2
    (apertureOk s p at_ d.length = true → tierClean s = true →
      ∃ t, exec (.bar4Write fn off d) s = .next t ∧ (part t p).seq = (part s p).seq ∧ (∀ k, k < 12 → k ≠ p → part t k = part s k) ∧
        ∀ a : Nat, memGet (part t p).hbm a =
          if at_ ≤ a ∧ a < at_ + d.length then d.getD (a - at_) 0 else memGet (part s p).hbm a) ∧
    (apertureOk s p at_ n.toNat = true → tierClean s = true →
      exec (.bar4Read fn off n) s =
        .next { s with host := { s.host with lastRead := some (.data (memRead (part s p).hbm at_ n.toNat)) } }) ∧
    (p < 12 → apertureOk s p at_ d.length = false →
      ∃ t, exec (.bar4Write fn off d) s = .next t ∧ (part t p).mem.reject = satInc (part s p).mem.reject 1 ∧
        (part t p).hbm = (part s p).hbm) ∧
    (p < 12 → apertureOk s p at_ n.toNat = false →
      ∃ t, exec (.bar4Read fn off n) s = .next t ∧ (part t p).mem.reject = satInc (part s p).mem.reject 1 ∧
        t.host.lastRead = some .abort)

/-- The true noise source, and SEED_GET of the host (09, R302 to R306). -/
def Obligations.NoiseAndSeeds : Prop :=
  ((∀ s : State, s.noise.st = .startup → s.noise.testing = true →
     ∃ t, exec .noiseStartupTestDone s = .next t ∧ t.noise = { s.noise with st := .ok, testing := false } ∧ t.parts = s.parts) ∧
   (∀ s : State, s.noise.st = .startup →
     exec .trngRestart s = .next { s with noise := { s.noise with testing := true } }) ∧
   (∀ (s : State) (apt : Bool),
     let again : Bool := match s.noise.lastFail with | some t => decide (s.quartz.ns < t + 3600000000000) | none => false
     ∃ t, exec (.trngHealthFail apt 0) s = .next t ∧ t.noise.pool = [] ∧ t.noise.waits = [] ∧ t.noise.testing = false ∧
       t.noise.st = (if again || s.noise.st = .failed then .failed else .startup) ∧
       t.noise.rct = (if apt then s.noise.rct else satInc s.noise.rct 1) ∧
       t.noise.apt = (if apt then satInc s.noise.apt 1 else s.noise.apt)) ∧
   ∀ (s : State) (x : Word512), s.noise.st = .ok →
     let seed := sha256 (sampleBytes x)
     (s.noise.waits = [] → exec (.seedConditioned x) s =
       .next { s with noise := { s.noise with pool := if s.noise.pool.length < 128 then s.noise.pool ++ [seed] else s.noise.pool } }) ∧
     (∀ r : SeedReq, s.noise.waits = [r] → r.who < 12 →
       ∃ t, exec (.seedConditioned x) s = .next t ∧ t.noise.waits = [] ∧ t.noise.served = r.who ∧ t.noise.pool = s.noise.pool ∧
         t.noise.delivered = satInc s.noise.delivered 1)) ∧
  (∀ (s : State) (a : HostArgs), hostSends s a 0x40 → s.noise.waits = [] →
     let addr := argAt a 8 8
     (s.noise.st ≠ .ok → ∃ t, exec (.seedGet a) s = .next t ∧ engineStands s t ∧ completed s t a 0x0450 0) ∧
     (∀ (d : List Byte) (rest : List (List Byte)), s.noise.st = .ok → s.noise.pool = d :: rest → d.length = 32 →
       (addr + 32 ≤ (fnOf s a.fn).cplBaseEff.toNat ∨ a.mbox = true) →
       ∃ t, exec (.seedGet a) s = .next t ∧ engineStands s t ∧ completed s t a 0 0 ∧ memRead t.host.mem addr 32 = d ∧
         t.noise = { s.noise with pool := rest, served := 12, delivered := satInc s.noise.delivered 1 }) ∧
     (s.noise.st = .ok → s.noise.pool = [] →
       ∃ t, exec (.seedGet a) s = .next t ∧ engineStands s t ∧ (fnOf t a.fn).waits.map (fun w => (w.op, w.tag)) = [(0x40, a.tag.toNat)] ∧
         t.noise.waits = [{ who := 12, lcl := 0, buf := 0, fn := a.fn, addr := addr }]))

/-- An item reaches its buffer; the debugger freezes, resumes and peeks (01, R36; 02, R83; 05, R198; 06, R221, R226,
R228; 08, R274, R277, R281, R282). -/
def Obligations.ArrivalsAndDebug : Prop :=
  (∀ (s : State) (l p a : Nat) (i : BitVec 6) (d : List Byte) (bad : Bool) (mark : Option (BitVec 4)), l < 480 → s.parts.length = 12 →
     partOfCl s l = some p → p < 12 →
     let j := l - clBase s p
     let c := (part s p).clusters.getD j clusterReset
     let b := c.core.dma.bufs.getD i.toNat bufferFree
     j < (part s p).clusters.length → c.core.dma.bufs.length = 64 →
     (b.kind = .read ∨ b.kind = .regread ∨ b.kind = .solve ∨ b.kind = .seed ∨ b.kind = .coll) → b.present = false →
     b.fetched = some (a, d, bad) →
     ∃ t, exec (.itemArrival l i mark) s = .next t ∧
       (let e := (part t p).clusters.getD j clusterReset
        (∀ x : Nat, x < 2097152 → memGet e.sram x = if a ≤ x ∧ x < a + d.length then d.getD (x - a) 0 else memGet c.sram x) ∧
        e.core.dma.bufs.getD i.toNat bufferFree =
          { b with present := true, presentAt := (part s p).seq.cclk, mark := strongerMark b.mark (mark.map BitVec.toNat), fetched := none,
                   poisoned := b.poisoned || bad } ∧
        e.core.dma.status.getLsbD 5 = (c.core.dma.status.getLsbD 5 || bad) ∧ e.core.scalar = c.core.scalar ∧ e.core.vec = c.core.vec) ∧
       (∀ k : Nat, k ≠ j → (part t p).clusters.getD k clusterReset = (part s p).clusters.getD k clusterReset) ∧
       (part t p).hbm = (part s p).hbm ∧ ∀ k, k < 12 → k ≠ p → part t k = part s k) ∧
  ((∀ (s : State) (p f : Nat), p < 12 → s.parts.length = 12 → (part s p).st = .running → (part s p).seq.frozen = false →
     (part s p).seq.freezeAt = some f →
     (f ≤ (part s p).seq.ic →
       ∃ t, exec (.debugFreeze p) s = .next t ∧ t.parts = s.parts.set p
         { part s p with seq := { (part s p).seq with frozen := true, freezeAt := none } }) ∧
     ((part s p).seq.ic < f → exec (.debugFreeze p) s = .next s)) ∧
   (∀ (s : State) (p : Nat), p < 12 → s.parts.length = 12 → (part s p).seq.frozen = true → (part s p).seq.replayAtResume = false →
     exec (.debugResume p) s = .next { s with parts := s.parts.set p { part s p with
       clusters := (part s p).clusters.map (fun c => { c with trap := trapReset }),
       seq := { (part s p).seq with frozen := false, replayAtResume := false } } }) ∧
   ∀ (s : State) (p j : Nat) (w : WriteArgs), p < 12 → s.parts.length = 12 → s.supplies.mainOn = true → s.boot.st = .ready →
     let sel := (fnOf s (p + 1)).dbgClSel.toNat
     let v := w.v.toNat % 2 ^ 32
     localOf s p (bits sel 16 9) = some j →
     (bits sel 0 12 = 0x210 → (part s p).job.debug = true → jobActive (part s p) = true →
       exec (.dbgClDataWrite (p + 1) w) s = .next { s with parts := s.parts.set p { part s p with
         clusters := updAt (part s p).clusters j (fun c =>
           { c with core := { c.core with accum := { c.core.accum with peekSel := BitVec.ofNat 64 v } } }) } }) ∧
     (bits sel 0 12 ≠ 0x210 ∨ (part s p).job.debug = false ∨ jobActive (part s p) = false →
       exec (.dbgClDataWrite (p + 1) w) s = .next s))

/-- MEASURE and APPLY: refusals, norm records, the absurd norm, and the undo records (11, R353 to R357, R359, R361,
R363 to R366, R371, R375, R376). -/
def Obligations.UpdatePhases : Prop :=
  (∀ (s : State) (p w l i : Nat) (g : BitVec 6), p < 12 → s.parts.length = 12 → phaseWaits (part s p) 0 g.toNat w l i →
     (∀ c : Nat, updCheck s p g.toNat false = .refused c →
       ∃ t, exec (.measure p g) s = .next t ∧ phaseAnswered s t p 0 g.toNat w l i [c * 2 ^ 48 + 0xFF * 2 ^ 40] false ∧
         hbmStands s t p ∧ (part t p).upd.measured = (part s p).upd.measured) ∧
     (∀ (d : UpdGroup) (ts : List UpdTensor), updCheck s p g.toNat false = .ok d ts → tierClean s = true → (part s p).mem.state = .normal →
       ∃ t, exec (.measure p g) s = .next t ∧ phaseAnswered s t p 0 g.toNat w l i [0] false ∧
         (part t p).upd.measured = (part s p).upd.measured ++ [g.toNat] ∧
         ∀ k, k < ts.length →
           let r := measureTensor s p d (ts.getD k (tensorOf []))
           memRead (part t p).hbm (protOff (d.normOff + 256 * k)) 256 = normRecord r.1 r.2 (ts.getD k (tensorOf [])).n)) ∧
  (∀ (s : State) (p w l i : Nat) (g : BitVec 6), p < 12 → s.parts.length = 12 → phaseWaits (part s p) 1 g.toNat w l i →
     let q := part s p
     (∀ c : Nat, updCheck s p g.toNat true = .refused c →
       ∃ t, exec (.apply p g) s = .next t ∧ phaseAnswered s t p 1 g.toNat w l i [c * 2 ^ 48 + 0xFF * 2 ^ 40] false ∧ hbmStands s t p) ∧
     (∀ (d : UpdGroup) (ts : List UpdTensor), updCheck s p g.toNat true = .ok d ts → tierClean s = true → q.mem.state = .normal →
       let r := recordOf (hbmBytes s p (protOff d.stateOff) 256)
       let accs := (chunksOf 256 d.tensCount (hbmBytes s p (protOff d.normOff) (256 * d.tensCount))).map normOf
       let n := (tensorNorm ((accs.map (·.1)).foldl (· + ·) 0) 0).1
       let absurd := updAbsurd d r n (accs.any (fun a => (tensorNorm a.1 a.2).2))
       let late := q.upd.absurd.any (fun e => decide (e.2 < q.seq.attempt))
       (absurd = true → late = false → canReplay q = true →
         ∃ t, exec (.apply p g) s = .next t ∧ replayTaken s t p ∧ (part t p).upd.normReplays = q.upd.normReplays + 1 ∧
           (part t p).upd.answers = q.upd.answers) ∧
       (absurd = true → late = true →
         ∃ t, exec (.apply p g) s = .next t ∧ phaseAnswered s t p 1 g.toNat w l i [2 * 2 ^ 40 + n] false ∧
           (part t p).upd.normReplays = q.upd.normReplays) ∧
       (absurd = false →
         ∃ t, exec (.apply p g) s = .next t ∧ phaseAnswered s t p 1 g.toNat w l i [2 ^ 40 + n] false ∧
           (part t p).upd.applied = q.upd.applied ++ [g.toNat] ∧
           (q.upd.undo = [] → ∀ a : Nat, a < protOff d.undoOff ∨ protOff (d.undoOff + d.undoBytes) ≤ a →
             memGet ((part t p).upd.undo.foldr (fun u m => memWrite m u.off (leBytes 64 u.old.toNat)) (part t p).hbm) a =
               memGet q.hbm a))))

/-- STATE_DIGEST and VERDICT, and a mismatch of an update engine (15, R489, R502, R505, R513 to R517). -/
def Obligations.Verdicts : Prop :=
  (∀ (s : State) (p w l i : Nat), p < 12 → s.parts.length = 12 → tierClean s = true →
     (phaseWaits (part s p) 2 64 w l i →
       let d := (stateDigest s p).1
       ∃ t, exec (.stateDigest p) s = .next t ∧ phaseAnswered s t p 2 64 w l i d false ∧ hbmStands s t p ∧
         (part t p).se.digest = some (d.map (BitVec.ofNat 64), false)) ∧
     (phaseWaits (part s p) 3 64 w l i →
       let v := (runVerdict s p).1
       ∃ t, exec (.verdict p) s = .next t ∧ phaseAnswered s t p 3 64 w l i [v] false ∧ hbmStands s t p ∧
         (part t p).se.lastVerdict = BitVec.ofNat 64 v ∧
         (replTable s p = none → v = 0x01B1 * 2 ^ 48 + 0xFF * 2 ^ 40) ∧
         (part t p).endReq = (if (part s p).endReq.isSome then (part s p).endReq
           else if bits v 40 8 = 1 then some (4, 0x05B4) else if bits v 40 8 = 2 then some (4, 0x05B5) else none) ∧
         (replTable s p ≠ none → ∀ c : Nat, bits v 40 8 = 1 → bits v 32 8 = c → 0 < c ∧ c < 16))) ∧
  (∀ (s : State) (p : Nat) (die : BitVec 2) (granule : BitVec 48), p < 12 → s.parts.length = 12 → s.faults.tw = none →
     s.faults.health = [] → (part s p).st = .running →
     let q := part s p
     let again := q.se.engErrs.any (fun e => e.1 != q.seq.attempt && e.2.1 = die.toNat && e.2.2 = granule.toNat)
     (again = false → canReplay q = true →
       ∃ t, exec (.updateEngineMismatch p die granule) s = .next t ∧ replayTaken s t p ∧ t.faults.engines = s.faults.engines ∧
         (part t p).se.engErrs = q.se.engErrs ++ [(q.seq.attempt, die.toNat, granule.toNat)] ∧
         (healthOf t (srcEngine die.toNat)).score = 256) ∧
     (again = true →
       ∃ t, exec (.updateEngineMismatch p die granule) s = .next t ∧ t.faults.engines = s.faults.engines ||| 1 <<< die.toNat ∧
         ∀ k, k < 12 → jobActive (part s k) = true → (part t k).st = .ended ∧ (part t k).endWord = 0x000405BD))

/-- A collective call begins or is refused; at T_rel the boundary bundle of a waiting rank issues (13, R420, R426,
R427, R429, R444). -/
def Obligations.CollectivesAndBarriers : Prop :=
  (∀ (s : State) (p : Nat) (id : BitVec 32) (c : CollCall), p < 12 → s.parts.length = 12 → (part s p).st = .running →
     (part s p).se.asked = false → (part s p).se.replaying = false → callOf s p id.toNat = some c → c.begun = false → c.word = none →
     writesDone (part s p) c.u = true →
     let ord := (part s p).cl.inAttempt.findIdx (fun x => x.id = id.toNat)
     (∀ st : Nat, collRefusal s p ord c = some st →
       ∃ t, exec (.collBegin p id) s = .next t ∧ hbmStands s t p ∧
         (part t p).cl.refused = satInc (part s p).cl.refused 1 ∧ (part t p).cl.status = (part s p).cl.status ||| 0x200 ∧
         (callOf t p id.toNat).map (·.word) = some (some (st * 2 ^ 48 + 0xFF * 2 ^ 40)) ∧
         (∀ l i : Nat, c.waiters = [(l, i)] →
           let b := ((part s p).clusters.getD l clusterReset).core.dma.bufs.getD i bufferFree
           b.kind = .coll → b.present = false → b.fetched = none →
           (((part t p).clusters.getD l clusterReset).core.dma.bufs.getD i bufferFree).fetched =
             some ((match b.range with | some r => r.1 | none => 0), leBytes 8 (st * 2 ^ 48 + 0xFF * 2 ^ 40), c.poison))) ∧
     (collRefusal s p ord c = none → ∀ rs : List Nat, groupRanks s p (collDesc c.desc).group = some rs →
       ∃ t, exec (.collBegin p id) s = .next t ∧ (part t p).seq.step = (part s p).seq.step ∧
         (callOf t p id.toNat).map (fun k => (k.begun, k.group, k.pos)) = some (true, rs, rs.idxOf (part s p).job.rank) ∧
         (let d := collDesc c.desc
          let n := d.n * collSize d
          rs.length = 1 → d.op = 1 → nfEn d = false → tierClean s = true → (part s p).mem.state = .normal → c.poison = false →
            (part s p).cl.early = [] →
            (callOf t p id.toNat).map (·.word) = some (some 0) ∧ memRead (part t p).hbm d.dst n = memRead (part s p).hbm d.src n))) ∧
  (∀ (s : State) (p r : Nat), Calm s p → Bare (withPart s p (fun q => { q with job := { q.job with ranks := 1 } })) p →
     isBarrier (part s p) (part s p).seq.step = true → (part s p).ck.nextCut = none → (part s p).seq.votes = [] →
     nextBundle (part s p).seq = { emptyBundle with ctl := .stepEnd false } →
     (part s p).cl.tRel = some r → (part s p).cl.arriveSent = true →
     ∃ t, exec (.barrierReleaseTime p) s = .next t ∧ r ≤ qzFine t ∧ (r ≤ qzFine s → t.quartz = s.quartz) ∧
       (qzFine s < r → qzFine t = r) ∧ (part t p).seq.step = (part s p).seq.step + 1 ∧ (part t p).seq.ic = (part s p).seq.ic + 1 ∧
       (part t p).cl.count = satInc (part s p).cl.count 1 ∧ (part t p).cl.lastRel = BitVec.ofNat 64 (r / 65536) ∧
       (part t p).cl.arriveSent = false ∧ (part t p).cl.tRel = none ∧ (part t p).hbm = (part s p).hbm ∧
       ∀ k, k ≠ p → part t k = part s k)

/-- What every port does with a flit: a row does not take another type's flit; a flit with an uncorrectable codeword
or a wrong CRC is counted and asked for again with one NAK; so is one out of order; a port without a job takes none;
one in order is accepted, its credit freed (12, R387, R390, R393, R395, R399). -/
def Obligations.FlitReceipt : Prop :=
  ∀ (s : State) (a : FlitArgs), a.port < 24 → s.ports.length = 24 → s.parts.length = 12 →
    let f := flitOf (wordBytes a.word)
    let good := !a.bad && flitCrcOk (wordBytes a.word)
    let l := linkAt s a.port a.half
    ∀ e ∈ flitRows a,
      (e.2 f = false → exec e.1 s = .fault .wrongFlit) ∧
      (e.2 f = true → f.ltype = 1 → l.st = .active → hasHalf s a.port a.half = true →
        (good = false → a.unc = 0 →
          ∃ t, exec e.1 s = .next t ∧ t.parts = s.parts ∧ (portAt t a.port).crcErr = satInc (portAt s a.port).crcErr 1 ∧
            (linkAt t a.port a.half).rxSeq = l.rxSeq ∧ (linkAt t a.port a.half).nakSent = true ∧
            (l.nakSent = false → ((linkAt t a.port a.half).ctlq.getLast?.map (·.ltype)) = some 2)) ∧
        (flitComes s a → portTakes s a.port f = false →
          ∃ t, exec e.1 s = .next t ∧ t.parts = s.parts ∧ linkAt t a.port a.half = l) ∧
        (flitComes s a → portTakes s a.port f = true → f.seq ≠ l.rxSeq →
          ∃ t, exec e.1 s = .next t ∧ t.parts = s.parts ∧ (linkAt t a.port a.half).rxSeq = l.rxSeq ∧
            (linkAt t a.port a.half).nakSent = true ∧ (portAt t a.port).rx = (portAt s a.port).rx) ∧
        (flitComes s a → portTakes s a.port f = true → f.seq = l.rxSeq →
          ∃ t, exec e.1 s = .next t ∧ flitTaken s t a))

/-- IDLE, NAK and TRAIN flits, and a flit on its way (12, R388, R390, R392, R393, R396, R398, R403, R404, R406, R410,
R412). -/
def Obligations.ControlAndForward : Prop :=
  (∀ (s : State) (a : FlitArgs), a.port < 24 → s.ports.length = 24 → hasHalf s a.port a.half = true → a.unc = 0 → a.bad = false →
     flitCrcOk (wordBytes a.word) = true →
     let f := flitOf (wordBytes a.word)
     let l := linkAt s a.port a.half
     let n := (f.ack + 65536 - (match l.replay with | e :: _ => e.flit.seq | [] => l.txSeq)) % 65536
     let c := f.cvc % 4
     let gain := (f.ccum + 256 - nth l.ccumRx c) % 256
     (l.st = .active → f.ltype = 0 → l.txq = [] → c < l.credits.length → c < l.ccumRx.length →
       ∃ t, exec (.linkIdle a) s = .next t ∧ t.parts = s.parts ∧
         (linkAt t a.port a.half).replay = (if n ≤ l.replay.length then l.replay.drop n else l.replay) ∧
         nth (linkAt t a.port a.half).credits c = nth l.credits c + gain ∧ nth (linkAt t a.port a.half).ccumRx c = f.ccum) ∧
     (l.st = .active → f.ltype = 2 → l.txq = [] → n ≤ l.replay.length → (∀ e ∈ l.replay, e.tries < 8) →
       ∃ t, exec (.linkNak a) s = .next t ∧ t.parts = s.parts ∧
         (linkAt t a.port a.half).replay = (l.replay.drop n).map (fun e =>
           { flit := { e.flit with mflags := e.flit.mflags ||| 4, ack := l.rxSeq }, tries := e.tries + 1 }) ∧
         (portAt t a.port).replayed = satInc (portAt s a.port).replayed (l.replay.drop n).length) ∧
     (l.st = .param → f.ltype = 3 →
       let serial := leNat (f.payload.take 8)
       let peer := leNat ((f.payload.drop 8).take 1) % 64
       let wrong := ((portAt s a.port).expectId != 0 && (portAt s a.port).expectId.toNat != serial) ||
         ((portAt s a.port).expectPort.getLsbD 8 && bits (portAt s a.port).expectPort.toNat 0 6 != peer)
       ∃ t, exec (.linkTrain a) s = .next t ∧ t.parts = s.parts ∧ (linkAt t a.port a.half).peerId = BitVec.ofNat 64 serial ∧
         (linkAt t a.port a.half).peerPort = peer ∧ (wrong = true → (linkAt t a.port a.half).st = .miswired) ∧
         (wrong = false → (∀ e ∈ l.replay, e.tries < 8) → (linkAt t a.port a.half).st = .active ∧
           (l.kept = false → l.txq = [] → (linkAt t a.port a.half).credits =
             (List.range 4).map (fun i => leNat ((f.payload.drop (10 + 2 * i)).take 2)))))) ∧
  (∀ (s : State) (a : FlitArgs) (p : Nat), flitComes s a → partOfPort s a.port = some p → p < 12 → s.parts.length = 12 →
     (part s p).st = .running →
     let f := flitOf (wordBytes a.word)
     f.seq = (linkAt s a.port a.half).rxSeq → f.ltype = 1 →
     let e := pathEntry f.path (pathHop f)
     (flitMalformed f = false → pathHop f < pathN f → f.mtype ≠ 0x19 →
       (hopOwned s p e = true → (linkAt s (e % 32) (e.testBit 5)).st ≠ .failed →
         ∃ t, exec (.flitForward a) s = .next t ∧ flitTaken s t a ∧ memoryStands s t p ∧ (part t p).lk = (part s p).lk ∧
           (outgoing t (e % 32) (e.testBit 5)).any (fun g => g.path = f.path + 2 ^ 48 && g.payload = f.payload && g.dst = f.dst &&
             g.addr = f.addr && g.mtype = f.mtype) = true) ∧
       (hopOwned s p e = false →
         ∃ t, exec (.flitForward a) s = .next t ∧ flitTaken s t a ∧ memoryStands s t p ∧
           (part t p).lk.routeRej = satInc (part s p).lk.routeRej 1)) ∧
     ((vcOf f.mtype).isNone = true →
       ∃ t, exec (.flitForward a) s = .next t ∧ flitTaken s t a ∧ memoryStands s t p ∧
         (part t p).lk = { (part s p).lk with routeRej := satInc (part s p).lk.routeRej 1 }))

/-- Messages at their destination: a SEND waits at its cluster's port for its RECV; an RWRITE stores its bytes and
nothing else, an RATOMIC is held for the boundary, a relaxed one adds at once; the last flit of each is acknowledged
(06, R225; 10, R341; 12, R389, R405; 13, R439). -/
def Obligations.RemoteWrites : Prop :=
  ∀ (s : State) (a : FlitArgs) (p : Nat), flitHome s a p → tierClean s = true → (part s p).mem.state = .normal →
    let f := flitOf (wordBytes a.word)
    let d := f.payload.take f.plen
    let q := part s p
    let acked (t : State) : Bool := !(flitLast f) || hasSent s t p f.src 0x11 0 (f.step % 2 ^ 32)
    (f.mtype = 1 → ∀ l : Nat, localOf s p (bits f.addr 30 9) = some l → l < q.clusters.length →
      ((q.clusters.getD l clusterReset).core.dma.bufs.getD (bits f.addr 24 6) bufferFree).kind = .free →
      ∃ t, exec (.sendFlit a) s = .next t ∧ flitTaken s t a ∧ (part t p).hbm = q.hbm ∧
        ((part t p).clusters.getD l clusterReset).core.dma.port = (q.clusters.getD l clusterReset).core.dma.port ++
          [{ buf := bits f.addr 24 6, off := bits f.addr 0 24, data := d, poison := flitPoison f, step := f.step,
             attempt := f.attempt, mark := flitMark { f with mflags := if a.fec then f.mflags ||| 8 else f.mflags } }]) ∧
    (f.mtype = 2 → f.addr < 2 ^ 47 → remoteOk s p f.addr d.length = true → flitPoison f = false → routeReady s p f.src = true →
      ∃ t, exec (.rwrite a) s = .next t ∧ flitTaken s t a ∧ acked t = true ∧ (part t p).clusters = q.clusters ∧
        (∀ k, k < 12 → k ≠ p → part t k = part s k) ∧
        ∀ x : Nat, memGet (part t p).hbm x = if f.addr ≤ x ∧ x < f.addr + d.length then d.getD (x - f.addr) 0 else memGet q.hbm x) ∧
    (f.mtype = 5 → remoteOk s p f.addr d.length = true → routeReady s p f.src = true →
      ∃ t, exec (.ratomic a) s = .next t ∧ flitTaken s t a ∧ acked t = true ∧ (part t p).hbm = q.hbm ∧
        (part t p).seq.atomics = q.seq.atomics ++ [{ rank := f.src, lcl := 0, off := f.addr, vals := words32 (d.length / 4) d, bno := ((q.seq.atomics.filter (fun h => h.rank = f.src)).length) }]) ∧
    (f.mtype = 6 → remoteOk s p f.addr d.length = true → flitPoison f = false → routeReady s p f.src = true → d.length % 4 = 0 →
      ∃ t, exec (.ratomicRelaxed a) s = .next t ∧ flitTaken s t a ∧ acked t = true ∧ (part t p).clusters = q.clusters ∧
        (part t p).seq.atomics = q.seq.atomics ∧
        memRead (part t p).hbm f.addr d.length = addElems (memRead q.hbm f.addr d.length) (words32 (d.length / 4) d))

/-- Remote reads and their answers, and the responses ACK, NACK and ROUTE_FAIL (10, R329, R341, R342; 12, R389, R391,
R405, R406, R410, R411, R415, R416). -/
def Obligations.RemoteReads : Prop :=
  (∀ (s : State) (a : FlitArgs) (p : Nat), flitHome s a p → tierClean s = true →
     let f := flitOf (wordBytes a.word)
     let q := part s p
     (f.mtype = 3 → remoteOk s p f.addr f.arg = true → routeReady s p f.src = true → f.arg ≤ 192 →
       ∃ t, exec (.rreadReq a) s = .next t ∧ flitTaken s t a ∧ memoryStands s t p ∧
         (let e := pathEntry (routePath s p f.src false) 0
          (outgoing t (e % 32) (e.testBit 5)).any (fun g => g.mtype = 4 && g.dst = f.src && g.addr = leNat (f.payload.take 8) &&
            g.payload = memRead q.hbm f.addr f.arg && g.plen = f.arg) = true)) ∧
     (f.mtype = 4 → ∀ (r : AwaitRead) (l : Nat), readHere s p r l → f.addr = r.lcl * 2 ^ 30 + r.buf * 2 ^ 24 → r.dst = f.src → r.got = [] →
       f.plen = r.len → r.lcl < 512 → r.buf < 64 → r.len ≤ 192 →
       let b := (q.clusters.getD l clusterReset).core.dma.bufs.getD r.buf bufferFree
       ∃ t, exec (.rreadData a) s = .next t ∧ flitTaken s t a ∧ (part t p).lk.reads = [] ∧ (part t p).hbm = q.hbm ∧
         (let c := (part t p).clusters.getD l clusterReset
          let d := c.core.dma.bufs.getD r.buf bufferFree
          d.present = true ∧ d.poisoned = (b.poisoned || r.poison || flitPoison f) ∧
          d.mark = strongerMark b.mark (strongerMark r.mark (flitMark { f with mflags := if a.fec then f.mflags ||| 8 else f.mflags })) ∧
          ∀ x : Nat, r.sram ≤ x → x < r.sram + r.len → r.sram + r.len ≤ 2097152 → memGet c.sram x = f.payload.getD (x - r.sram) 0)) ∧
     (f.mtype = 0x12 → ∀ (r : AwaitRead) (l : Nat), readHere s p r l → r.dst = f.src → r.addr ≤ f.addr → f.addr < r.addr + max 1 r.len →
       ∃ t, exec (.reject a) s = .next t ∧ flitTaken s t a ∧ (part t p).lk.reads = [] ∧ (part t p).hbm = q.hbm ∧
         (part t p).mem.reject = satInc q.mem.reject 1 ∧
         (((part t p).clusters.getD l clusterReset).core.dma.bufs.getD r.buf bufferFree).present = true ∧
         (((part t p).clusters.getD l clusterReset).core.dma.bufs.getD r.buf bufferFree).poisoned = true)) ∧
  (∀ (s : State) (a : FlitArgs) (p : Nat), flitHome s a p → s.faults.tw = none →
     let f := flitOf (wordBytes a.word)
     let q := part s p
     let is (x : AwaitAck) : Bool := x.dst = f.src && x.tag = f.arg
     let r := f.arg % 2 ^ 18
     (f.mtype = 0x11 →
       ∃ t, exec (.ack a) s = .next t ∧ flitTaken s t a ∧ memoryStands s t p ∧
         (part t p).lk.acks = (match q.lk.acks.findIdx? is with | some i => q.lk.acks.eraseIdx i | none => q.lk.acks)) ∧
     (f.mtype = 0x10 →
       (f.arg % 65536 = routeEpoch s p f.src → ∃ t, exec (.nack a) s = .next t ∧ flitTaken s t a ∧ memoryStands s t p ∧
         (part t p).lk.nackRx = satInc q.lk.nackRx 1) ∧
       (f.arg % 65536 ≠ routeEpoch s p f.src → f.src < q.lk.countEff → canReplay q = true → q.mem.state = .normal → tierClean s = true →
         ∃ t, exec (.nack a) s = .next t ∧ flitTaken s t a ∧ (part t p).lk.nackRx = satInc q.lk.nackRx 1 ∧
           (part t p).se.asked = true ∧ (part t p).seq.attempt = q.seq.attempt ∧ routeEpoch t p f.src = f.arg % 65536)) ∧
     (f.mtype = 0x13 →
       (q.lk.alt.contains r = false → q.lk.altNext.contains r = false → canReplay q = true →
         ∃ t, exec (.routeFail a) s = .next t ∧ flitTaken s t a ∧ replayTaken s t p ∧ (part t p).lk.altNext = q.lk.altNext ++ [r]) ∧
       (q.lk.alt.contains r = true → ∃ t, exec (.routeFail a) s = .next t ∧ flitTaken s t a ∧ jobEnded s t p 0x00040482)))

/-- Collective flits wait for their call; BARRIER flits at their rank (13, R427, R429, R430, R444, R446; 15, R496; 16,
R537, R541). -/
def Obligations.CollectiveAndBarrierFlits : Prop :=
  (∀ (s : State) (a : FlitArgs) (p : Nat), flitHome s a p →
     let f0 := flitOf (wordBytes a.word)
     let f : Flit := { f0 with mflags := if a.fec then f0.mflags ||| 8 else f0.mflags }
     let q := part s p
     let id := f.addr % 2 ^ 32
     ∀ e ∈ [(8, Instr.collFlit a), (9, Instr.a2aFlit a)], f.mtype = e.1 →
     ((callOf s p id = none ∨ (callOf s p id).map (·.begun) = some false) →
       ∃ t, exec e.2 s = .next t ∧ flitTaken s t a ∧ memoryStands s t p ∧ (part t p).cl = { q.cl with early := q.cl.early ++ [f] }) ∧
     (∀ c : CollCall, callOf s p id = some c → c.begun = true → c.sig ≠ f.arg % 65536 → tierClean s = true →
       ∃ t, exec e.2 s = .next t ∧ flitTaken s t a ∧ (part t p).cl.sigMis = satInc q.cl.sigMis 1 ∧
         (part t p).cl.status.getLsbD 8 = true ∧
         (c.word = none → c.broken = false → (callOf t p id).map (fun k => (k.word, k.poison)) = some (some 0, true)))) ∧
  (∀ (s : State) (a : FlitArgs) (p : Nat), flitHome s a p → a.dt = 0 → s.faults.tw = none →
     let f := flitOf (wordBytes a.word)
     let q := part s p
     let rows := treeChildren q.job.rank q.job.ranks
     let now := qzFine s
     f.mtype = 0x18 →
     (f.addr % 256 = 1 → q.job.rank = 0 → q.se.replaying = false →
       ∃ t, exec (.arrive a) s = .next t ∧ flitTaken s t a ∧ memoryStands s t p ∧
         (if q.cl.arriveSent && rows.all (fun r => r = f.src || q.cl.arrived.contains (r, f.step, f.attempt))
          then (part t p).cl.tRel = some (now + q.cl.brLeadEff.toNat * 65536)
          else (part t p).cl.tRel = q.cl.tRel ∧ (part t p).cl.arrived.contains (f.src, f.step, f.attempt) = true)) ∧
     (f.addr % 256 = 2 →
       let r := leNat (f.payload.take 8) * 65536 + leNat ((f.payload.drop 8).take 2)
       let cut := leNat ((f.payload.drop 16).take 8)
       ∃ t, exec (.release a) s = .next t ∧ flitTaken s t a ∧ memoryStands s t p ∧ (part t p).cl.tRel = some r ∧
         (part t p).ck.nextCut = (if cut = 0 then none else some cut) ∧
         (part t p).cl.late = (if r ≤ now then satInc q.cl.late 1 else q.cl.late)) ∧
     (f.addr % 256 = 3 → canReplay q = true →
       ∃ t, exec (.abort a) s = .next t ∧ flitTaken s t a ∧ replayTaken s t p) ∧
     (f.addr % 256 = 4 → q.job.rank = 0 →
       ∃ t, exec (.ckptReq a) s = .next t ∧ flitTaken s t a ∧ memoryStands s t p ∧ (part t p).ck = { q.ck with pending := true }) ∧
     (f.addr % 256 = 5 →
       let old := if q.ck.resultCut = f.step then q.ck.results.filter (fun e => e.1 != f.src) else []
       let all := old ++ [(f.src, decide (f.arg % 2 = 1))]
       ∃ t, exec (.ckptDone a) s = .next t ∧ flitTaken s t a ∧ memoryStands s t p ∧ (part t p).ck.resultCut = f.step ∧
         (part t p).ck.results = (if (q.job.rank :: rows).all (fun r => all.any (fun e => e.1 = r)) then [] else all)))

/-- How a link comes up, narrows and fails, and what its failure does to a partition (12, R381, R386, R396, R398, R407
to R412). -/
def Obligations.Links : Prop :=
  (∀ (s : State) (k : Nat), k < 24 → s.ports.length = 24 → (portAt s k).splitAct = false →
     let x := portAt s k
     let l := x.a
     let left := lanesLeft x.laneFailed
     (l.st = .pmdTrain ∨ l.st = .retrain →
       ∃ t, exec (.linkTrainingComplete k false) s = .next t ∧ t.parts = s.parts ∧
         (portAt t k).a = { l with st := .lock, locked := 0,
                                   width := if left.length = 8 then 3 else if left.length = 4 then 2 else if left.length = 2 then 1 else 0 }) ∧
     (∀ lanes : BitVec 8, l.st = .lock →
       ∃ t, exec (.codewordLock k false lanes) s = .next t ∧ t.parts = s.parts ∧ (portAt t k).a.locked = l.locked ||| lanes ∧
         (portAt t k).a.st = (if left.all (fun i => (l.locked ||| lanes).getLsbD i) then .param else .lock) ∧
         ((portAt t k).a.st = .param → ((portAt t k).a.ctlq.getLast?.map (·.ltype)) = some 3)) ∧
     (∀ lane : BitVec 3,
       ∃ t, exec (.codewordLockLoss k lane) s = .next t ∧ t.parts = s.parts ∧ (portAt t k).a.locked.getLsbD lane.toNat = false ∧
         (portAt t k).a.st = l.st ∧ ∀ i : Nat, i ≠ lane.toNat → (portAt t k).a.locked.getLsbD i = l.locked.getLsbD i) ∧
     (∀ lane : BitVec 3, s.faults.health = [] →
       let rest := lanesLeft (x.laneFailed ||| 1 <<< lane.toNat)
       ∃ t, exec (.laneFail k lane) s = .next t ∧ (portAt t k).laneFailed = x.laneFailed ||| 1 <<< lane.toNat ∧
         (rest = left → (portAt t k).a.st = l.st ∧ t.parts = s.parts) ∧
         (rest ≠ left → rest ≠ [] → l.st = .active →
           (portAt t k).a.st = .retrain ∧ (portAt t k).a.replay.map (·.flit) = l.replay.map (·.flit) ∧ (portAt t k).a.kept = true ∧
           (portAt t k).retrains = satInc x.retrains 1 ∧
           (portAt t k).a.width = (if rest.length = 4 then 2 else 1)) ∧
         (rest = [] → left ≠ [] → l.st = .active → (portAt t k).a.st = .failed)) ∧
     (l.st = .active → l.replay ≠ [] → (∀ e ∈ l.replay, e.tries < 8) →
       ∃ t, exec (.replayTimeout k false) s = .next t ∧ t.parts = s.parts ∧
         (portAt t k).a.replay = l.replay.map (fun e =>
           { flit := { e.flit with mflags := e.flit.mflags ||| 4, ack := l.rxSeq }, tries := e.tries + 1 }) ∧
         (portAt t k).replayed = satInc x.replayed l.replay.length) ∧
     (∃ t, exec (.linkRetrainRequest k) s = .next t ∧ t.parts = s.parts ∧
       (l.st = .failed ∨ l.st = .miswired → (portAt t k).a = { linkDown with st := .pmdTrain }) ∧
       (l.st ≠ .failed → l.st ≠ .miswired → (portAt t k).a = l) ∧ (l.st = .failed → (portAt t k).laneFailed = 0))) ∧
  (∀ (s : State) (k p : Nat), k < 24 → s.ports.length = 24 → (portAt s k).splitAct = false → (portAt s k).a.st = .active →
     partOfPort s k = some p → p < 12 → s.parts.length = 12 → s.faults.tw = none →
     let q := part s p
     let gone (e : Nat) : Bool := e = k || hopFailed s e
     let ranks := (List.range q.lk.countEff).filter (fun r => r != q.job.rank)
     let dead := ranks.any (fun r => gone (pathEntry (routePath s p r false) 0) && gone (pathEntry (routePath s p r true) 0))
     (jobActive q = false → ∃ t, exec (.linkFail k false) s = .next t ∧ (portAt t k).a.st = .failed ∧ t.parts = s.parts) ∧
     (jobActive q = true → dead = true →
       ∃ t, exec (.linkFail k false) s = .next t ∧ (portAt t k).a.st = .failed ∧ jobEnded s t p 0x00040482) ∧
     (dead = false → canReplay q = true →
       ∃ t, exec (.linkFail k false) s = .next t ∧ (portAt t k).a.st = .failed ∧ replayTaken s t p ∧
         ∀ r : Nat, r ∈ (part t p).lk.altNext ↔
           r ∈ q.lk.altNext ∨ (r ∈ ranks ∧ pathEntry (routePath s p r false) 0 = k ∧ r ∉ q.lk.alt)))

/-- Quartz: the exchange, HOLDOVER, the host's load, and TIME flits; the payload of TIME is log entry 34 (13, R440 to
R443). -/
def Obligations.QuartzTime : Prop :=
  ((∀ (s : State) (dt : Word64),
     let u := advance s dt
     let z := s.quartz
     let e := bits z.ctrl.toNat 0 6
     (bits z.ctrl.toNat 8 2 ≠ 2 → exec (.timeExchange dt) s = .next u ∧ exec (.quartzHoldover dt) s = .next u) ∧
     (bits z.ctrl.toNat 8 2 = 2 → e % 32 < s.ports.length →
       ∃ t, exec (.timeExchange dt) s = .next t ∧ t.parts = s.parts ∧
         t.quartz = { u.quartz with sent := some (qzFine u), missed := z.missed + 1 } ∧
         (outgoing t (e % 32) (e.testBit 5)).any (fun g => g.mtype = 0x19 && g.addr = 1) = true) ∧
     (bits z.ctrl.toNat 8 2 = 2 → 16 ≤ z.missed → z.st ≠ 4 →
       ∃ t, exec (.quartzHoldover dt) s = .next t ∧ t.parts = s.parts ∧ t.quartz.st = 4 ∧ t.quartz.rate = z.rate ∧ t.quartz.ns = u.quartz.ns)) ∧
   (∀ (s : State) (v : Word64),
     (barFull s = true → bits s.quartz.ctrl.toNat 8 2 = 1 →
       exec (.qzLoad 0 v) s = .next { s with quartz := { s.quartz with ns := v.toNat, frac := 0 } }) ∧
     (bits s.quartz.ctrl.toNat 8 2 ≠ 1 → exec (.qzLoad 0 v) s = .next s) ∧
     ∀ k, k < 13 → 0 < k → exec (.qzLoad k v) s = .next s)) ∧
  (∀ (s : State) (a : FlitArgs), flitComes s a → a.dt = 0 →
     let f := flitOf (wordBytes a.word)
     let z := s.quartz
     let time (i : Nat) : Int := ((leNat ((f.payload.drop i).take 8) * 65536 + leNat ((f.payload.drop (i + 8)).take 2) : Nat) : Int)
     f.ltype = 1 → f.mtype = 0x19 → flitMalformed f = false → f.seq = (linkAt s a.port a.half).rxSeq →
     (f.addr = 1 →
       ∃ t, exec (.time a) s = .next t ∧ flitTaken s t a ∧ t.parts = s.parts ∧ t.quartz = s.quartz ∧
         (outgoing t a.port a.half).any (fun g => g.mtype = 0x19 && g.addr = 2 && leNat (g.payload.take 8) = s.quartz.ns) = true) ∧
     (f.addr = 2 → bits z.ctrl.toNat 8 2 = 2 → bits z.ctrl.toNat 0 6 = a.port + (if a.half then 32 else 0) → ∀ t1 : Nat, z.sent = some t1 →
       let up := time 0 - (t1 : Int)
       let down := (qzFine s : Int) - time 10
       let off := (up - down) / 2 - signExt 16 z.asym.toNat * 4096
       ∃ t, exec (.time a) s = .next t ∧ flitTaken s t a ∧ t.parts = s.parts ∧ t.quartz.sent = none ∧ t.quartz.missed = 0 ∧
         t.quartz.depth = min 15 (leNat ((f.payload.drop 20).take 1) + 1) ∧ t.quartz.delay = BitVec.ofInt 32 ((up + down) / 2 / 4096) ∧
         t.quartz.offset = BitVec.ofInt 32 (off / 4096) ∧ t.quartz.st = (if off.natAbs ≤ 4096 then 3 else 2) ∧
         ((off.natAbs ≤ 65536000 ∨ anyJob s = true) → qzFine t = qzFine s) ∧
         (65536000 < off.natAbs → anyJob s = false → qzFine t = ((qzFine s : Int) - off).toNat ∧ t.quartz.rate = 0)))

/-- Requests to a solver context: what refuses them, APPLY and SOLVE, and a deadline (14, R454, R456, R472 to R476,
R480, R482, R484). -/
def Obligations.Solver : Prop :=
  (∀ (s : State) (c : BitVec 3) (r : QpReq), (qpCtxAt s c.toNat).queue = [r] → s.beryl.ctxs.length = 8 →
     (answerPlace r).isSome = true →
     let x := qpCtxAt s c.toNat
     let k := qpPacket r.packet
     let i : Instr := if k.op = 2 then .qpApplyRequest c else .qpSolveRequest c
     let tag := if r.poison then 0 else k.tag
     let plain (st : Nat) : List Byte := qpHeader st 0 0 tag 0 0 (if x.enable then x.vals else none)
     (x.poisoned = true →
       ∃ t, exec i s = .next t ∧ solverAnswered s t c.toNat r 0x05A0 (plain 0x05A0) true ∧ (qpCtxAt t c.toNat).vals = x.vals) ∧
     (∀ st : Nat, x.poisoned = false → qpRefusal x r = some st →
       ∃ t, exec i s = .next t ∧ solverAnswered s t c.toNat r st (plain st) r.poison ∧ (qpCtxAt t c.toNat).vals = x.vals)) ∧
  (∀ (s : State) (c : BitVec 3) (r : QpReq) (v : QpVals), (qpCtxAt s c.toNat).queue = [r] → s.beryl.ctxs.length = 8 →
     (answerPlace r).isSome = true →
     let x := qpCtxAt s c.toNat
     let k := qpPacket r.packet
     let w := qpEntries v k
     let run := qpRunSolve .never k.budget w
     let journal := if ctxBoundNow s x then some (match x.saved with | some e => e.1 | none => v) else none
     let old := match x.saved with | some e => e.2.length | none => 0
     x.poisoned = false → qpRefusal x r = none → x.vals = some v →
     (k.op = 2 → (qpKeys k v w).length + old ≤ 65536 →
       ∃ t, exec (.qpApplyRequest c) s = .next t ∧ (qpCtxAt t c.toNat).vals = some w ∧
         solverAnswered s t c.toNat r 0 (qpAnswer k (qpIdle w 0)) false ∧ (qpCtxAt t c.toNat).saved.map (·.1) = journal) ∧
     (k.op = 1 → r.wall = false → (qpKeys k v run.vals).length + old ≤ 65536 →
       ∃ t, exec (.qpSolveRequest c) s = .next t ∧ (qpCtxAt t c.toNat).vals = some run.vals ∧ run.iters ≤ k.budget ∧
         solverAnswered s t c.toNat r run.status (qpAnswer k run) false ∧ (qpCtxAt t c.toNat).saved.map (·.1) = journal ∧
         (qpCtxAt t c.toNat).iters = satInc x.iters run.iters)) ∧
  (∀ (s : State) (c : BitVec 3) (r : QpReq) (v : QpVals) (d : WallAt), (qpCtxAt s c.toNat).queue = [r] → s.beryl.ctxs.length = 8 →
     (answerPlace r).isSome = true → r.wall = true →
     let x := qpCtxAt s c.toNat
     let k := qpPacket r.packet
     let run := qpRunSolve d k.budget (qpEntries v k)
     x.poisoned = false → qpRefusal x r = none → x.vals = some v → k.op = 1 →
     (qpKeys k v run.vals).length + (match x.saved with | some e => e.2.length | none => 0) ≤ 65536 →
     ∃ t, exec (.wallDeadline c d) s = .next t ∧ solverAnswered s t c.toNat r run.status (qpAnswer k run) false ∧
       (qpCtxAt t c.toNat).vals = some run.vals ∧
       (qpCtxAt t c.toNat).deadlines = (if run.status / 256 = 6 then satInc x.deadlines 1 else x.deadlines))

/-- The host's side of the solver: configuration, frame, SRAM error, and the four SV commands (14, R453, R457 to R459,
R478, R479, R482, R484). -/
def Obligations.SolverHost : Prop :=
  ((∀ (s : State) (c : BitVec 3) (v : Word32), barFull s = true → s.beryl.ctxs.length = 8 →
     let x := qpCtxAt s c.toNat
     let idle : Bool := !ctxBoundNow s x && x.queue.isEmpty
     let on := v.getLsbD 31
     let ok := !on || x.enable || qpAllotOk s c.toNat
     let y : QpCtx := { x with cfgErr := x.cfgErr && !v.getLsbD 30 }
     let put (z : QpCtx) : State := { s with beryl := { s.beryl with ctxs := s.beryl.ctxs.set c.toNat z } }
     let made : QpCtx :=
       { y with part := v.extractLsb' 16 4, client := v.extractLsb' 0 9, enable := on && ok, cfgErr := y.cfgErr || !ok, saved := none, vals := if on then x.vals else none, poisoned := x.poisoned && on }
     let sized : QpCtx := if x.enable then { x with cfgErr := true } else { x with size := v.extractLsb' 8 6, base := v.extractLsb' 0 6 }
     (idle = false → exec (.bsCtxCfgWrite 0 c false v) s = .next (put { y with cfgErr := true })) ∧
     (idle = true → exec (.bsCtxCfgWrite 0 c false v) s = .next (put made) ∧ exec (.bsCtxCfgWrite 0 c true v) s = .next (put sized)) ∧
     ∀ k, k < 13 → 0 < k → exec (.bsCtxCfgWrite k c false v) s = .next s ∧ exec (.bsCtxCfgWrite k c true v) s = .next s) ∧
   (∀ (s : State) (v : Word64), barFull s = true →
     let busy (c : Nat) : Bool := decide (c < 8) && (ctxBoundNow s (qpCtxAt s c) || !(qpCtxAt s c).queue.isEmpty)
     let moved := (List.range 16).any (fun i => bits s.beryl.frame.toNat (4 * i) 4 != bits v.toNat (4 * i) 4 &&
       (busy (bits s.beryl.frame.toNat (4 * i) 4) || busy (bits v.toNat (4 * i) 4)))
     exec (.bsFrameWrite 0 v) s =
       .next { s with beryl := if moved then { s.beryl with frameIgnored := true } else { s.beryl with frame := v } }) ∧
   ∀ (s : State) (c : BitVec 3) (r : QpReq), s.beryl.ctxs.length = 8 →
     let x := qpCtxAt s c.toNat
     (x.enable = false → exec (.solverSramUncorrectable c) s = .next s) ∧
     (x.enable = true → x.queue = [r] → (answerPlace r).isSome = true →
       ∃ t, exec (.solverSramUncorrectable c) s = .next t ∧ (qpCtxAt t c.toNat).poisoned = true ∧ (qpCtxAt t c.toNat).queue = [] ∧
         (qpCtxAt t c.toNat).last = 0x05A0 ∧ (qpCtxAt t c.toNat).vals = x.vals)) ∧
  (∀ (s : State) (a : HostArgs), s.beryl.ctxs.length = 8 →
     let c := argAt a 8 4
     (∀ e ∈ [(0x50, Instr.svLoad a), (0x51, Instr.svClear a), (0x52, Instr.svSolve a), (0x53, Instr.svState a)], ∀ st : Nat,
       hostSends s a e.1 → svRefusal s a.fn c = some st → ∃ t, exec e.2 s = .next t ∧ engineStands s t ∧ completed s t a st 0)) ∧
  (∀ (s : State) (a : HostArgs), s.beryl.ctxs.length = 8 →
     let c := argAt a 8 4
     let x := qpCtxAt s c
     (svRefusal s a.fn c = none → x.queue = [] →
       (hostSends s a 0x51 →
         ∃ t, exec (.svClear a) s = .next t ∧ t.parts = s.parts ∧ completed s t a 0 0 ∧
           qpCtxAt t c = { x with vals := none, poisoned := false, saved := none, iters := 0, reqs := 0, refacts := 0, deadlines := 0 }) ∧
       (hostSends s a 0x53 → ∃ t, exec (.svState a) s = .next t ∧ engineStands s t ∧ completed s t a 0 (qpStateWord s x)))) ∧
  (∀ (s : State) (a : HostArgs), s.beryl.ctxs.length = 8 →
     let c := argAt a 8 4
     let x := qpCtxAt s c
     (svRefusal s a.fn c = none → x.queue = [] →
       (hostSends s a 0x50 → ∀ (v : QpVals) (st : Nat),
         ((qpLoad s x.part.toNat (argAt a 16 8) x.size.toNat).toOption = some v →
           ∃ t, exec (.svLoad a) s = .next t ∧ t.parts = s.parts ∧ completed s t a 0 0 ∧ (qpCtxAt t c).vals = some v) ∧
         (loadStatus s x.part.toNat (argAt a 16 8) x.size.toNat = some st → st ≠ 0 →
           ∃ t, exec (.svLoad a) s = .next t ∧ t.parts = s.parts ∧ completed s t a st 0 ∧ qpCtxAt t c = x)) ∧
       (hostSends s a 0x52 →
         let q := part s x.part.toNat
         let off := argAt a 16 8
         let ok : Bool := decide (off < 2 ^ 48) && inSlice q off 64 && decide (argAt a 24 8 < 2 ^ 48) && inSlice q (argAt a 24 8) (argAt a 32 8)
         (ok = false → ∃ t, exec (.svSolve a) s = .next t ∧ engineStands s t ∧ completed s t a 0x01A1 0) ∧
         (ok = true → ∃ t, exec (.svSolve a) s = .next t ∧ t.parts = s.parts ∧
           (qpCtxAt t c).queue.map (·.kind) = [.host a.fn x.part.toNat (argAt a 24 8) (argAt a 32 8)] ∧
           (fnOf t a.fn).waits.map (fun w => (w.op, w.tag, w.arg)) = [(0x52, a.tag.toNat, c)]))))

/-- Cuts of a rank that is its own buddy, requests for a cut, and drains (16, R533 to R537, R540 to R542, R544). -/
def Obligations.Checkpoints : Prop :=
  (∀ (s : State) (p : Nat), p < 12 → s.parts.length = 12 →
     let q := part s p
     (q.job.rank = 0 → q.job.ranks ≤ 1 → ∀ c : CutStream, q.ck.stream = some c →
       (∀ b : Bool, cutReadable s p c = true → buddyIsSelf q = true → openSlotOf s p c.cut = some b → q.mem.state = .normal →
         c.cut < 2 ^ 64 → tierClean s = true →
         ∃ t, exec (.imageCommit p) s = .next t ∧ slotHolds t p b c.cut (slotRec s p b).seq (cutImage s p c) ∧
           (part t p).ck.stream = none ∧ (part t p).ck.ownCut = BitVec.ofNat 64 c.cut ∧
           (part t p).ck.jobCut = BitVec.ofNat 64 c.cut ∧ (part t p).ck.taken = satInc q.ck.taken 1 ∧
           (part t p).clusters = q.clusters ∧ ∀ k, k < 12 → k ≠ p → part t k = part s k) ∧
       (cutReadable s p c = false → ∃ t, exec (.imageCommit p) s = .next t ∧ cutFailed s t p) ∧
       (∃ t, exec (.cutTimeout p) s = .next t ∧ cutFailed s t p ∧ (part t p).ck.openAt0 = false))) ∧
  (∀ (s : State) (p : Nat), p < 12 → s.parts.length = 12 →
     let q := part s p
     (jobActive q = true → q.job.rank = 0 →
       exec (.cutRequest p) s = .next { s with parts := s.parts.set p { q with ck := { q.ck with pending := true } } }) ∧
     (jobActive q = true → q.job.rank ≠ 0 → routeReady s p 0 = true →
       ∃ t, exec (.cutRequest p) s = .next t ∧ t.parts = s.parts ∧ hasSent s t p 0 0x18 4 0 = true)) ∧
  (∀ (s : State) (p : Nat), p < 12 → s.parts.length = 12 →
     let q := part s p
     let put (c : CkRegs) : State := { s with parts := s.parts.set p { q with ck := c } }
     (q.ck.draining = false → slotOfCut s p q.ck.jobCut.toNat = none →
       exec (.ckDrain p) s = .next (put { q.ck with drainCtrl := q.ck.drainCtrl ||| 8 })) ∧
     (∀ b : Bool, slotOfCut s p q.ck.jobCut.toNat = some b →
       (q.ck.draining = false → exec (.ckDrain p) s = .next (put { q.ck with draining := true })) ∧
       (q.ck.draining = true → s.host.up = true →
         let len := min (leNat (hbmBytes s p (slotOff s p b + 24) 8)) q.ck.slotBytesEff.toNat
         let d := hbmBytes s p (protOff (q.ck.areaOffEff.toNat + 64 * b2n b)) 64 ++ hbmBytes s p (slotOff s p b) len
         ∃ t, exec (.ckDrainComplete p) s = .next t ∧
           (part t p) = { q with ck := { q.ck with draining := false, drainCtrl := q.ck.drainCtrl ||| 4 } } ∧
           memRead t.host.mem q.ck.drainAddr.toNat d.length = d)))

/-- What every host command meets first, and how firmware fetches commands (17, R554, R565, R566; 20, R654). -/
def Obligations.HostCommands : Prop :=
  (∀ (s : State) (a : HostArgs) (key : BitVec 768) (far : Far), ∀ e ∈ hostRows a key far,
     (a.fn < 13 → (fnOf s a.fn).waits ≠ [] → exec e.2 s = .next s) ∧
     (hostAsks s a →
       (s.boot.st = .failed → ∃ t, exec e.2 s = .next t ∧ engineStands s t ∧ completed s t a s.boot.fail.toNat 0) ∧
       (s.boot.st = .start → ∃ t, exec e.2 s = .next t ∧ engineStands s t ∧ completed s t a 0x02F3 0) ∧
       (fwWorks s = true → planCount s < a.fn → ∃ t, exec e.2 s = .next t ∧ engineStands s t ∧ completed s t a 0x0202 0) ∧
       (fwWorks s = true → a.fn ≤ planCount s → cmdMalformed a e.1 = true →
         ∃ t, exec e.2 s = .next t ∧ engineStands s t ∧ completed s t a 0x0101 0))) ∧
  (∀ (s : State) (fn : Nat) (v : Word32) (key : BitVec 768) (far : Far), fn < 13 → s.host.fns.length = 13 → ringsServed s = true →
     let f := fnOf s fn
     (f.cmdSize.toNat ≤ v.toNat → exec (.cmdTailWrite fn v key far) s = .next s) ∧
     (v.toNat < f.cmdSize.toNat → f.cmdHead.toNat < f.cmdSize.toNat → s.host.up = true →
       ∃ t, exec (.cmdTailWrite fn v key far) s = .next t ∧ (fnOf t fn).cmdTail = v ∧ t.boot.fuse = s.boot.fuse ∧
         ((fnOf t fn).waits ≠ [] ∨ ((fnOf t fn).cmdHead = v ∧ (fnOf t fn).mboxGo = false))) ∧
     (f.mboxGo = true → exec (.mboxGo fn key far) s = .next s) ∧
     (f.mboxGo = false →
       ∃ t, exec (.mboxGo fn key far) s = .next t ∧ ((fnOf t fn).waits ≠ [] ∨ (fnOf t fn).mboxGo = false)))

/-- Queue contexts and step entries, and a doorbell that is misaligned or comes while firmware does not work (17, R555, R572
to R574; log entries 51, 59, 62). -/
def Obligations.StepQueues : Prop :=
  (∀ (s : State) (a : HostArgs),
     let k := ctxNumber s a
     let n := argAt a 12 4
     let there : Bool := decide (argPart a < planCount s)
     let inRange : Bool := decide (argAt a 8 4 < ctxPer s)
     let sized : Bool := [16, 32, 64, 128, 256, 512, 1024, 2048, 4096, 8192, 16384, 32768, 65536].contains n && decide (argAt a 40 4 ≤ 4096)
     let free := ctxFree s (argPart a) k
     (hostSends s a 0x10 →
       (there = false → ∃ t, exec (.ctxConfig a) s = .next t ∧ engineStands s t ∧ completed s t a 0x0202 0) ∧
       (there = true → (inRange && sized) = false → ∃ t, exec (.ctxConfig a) s = .next t ∧ engineStands s t ∧ completed s t a 0x0105 0) ∧
       (there = true → (inRange && sized) = true → free = false →
         ∃ t, exec (.ctxConfig a) s = .next t ∧ engineStands s t ∧ completed s t a 0x0204 0) ∧
       (there = true → (inRange && sized) = true → free = true →
         ∃ t, exec (.ctxConfig a) s = .next t ∧ t.parts = s.parts ∧ completed s t a 0 0 ∧
           t.host.ctxs.filter (fun c => c.k != k) = s.host.ctxs.filter (fun c => c.k != k) ∧
           t.host.ctxs.find? (fun c => c.k = k) = some
             { k := k, size := n, ring := argAt a 16 8, cpl := argAt a 24 8, table := argAt a 32 8, tableN := argAt a 40 4, tail := 0,
               head := 0, cplIdx := 0, phase := true, prev := none, fetched := [] })) ∧
     (hostSends s a 0x11 → there = true →
       (inRange = false → ∃ t, exec (.ctxClear a) s = .next t ∧ engineStands s t ∧ completed s t a 0x0105 0) ∧
       (inRange = true → free = false → ∃ t, exec (.ctxClear a) s = .next t ∧ engineStands s t ∧ completed s t a 0x0204 0) ∧
       (inRange = true → free = true →
         ∃ t, exec (.ctxClear a) s = .next t ∧ t.parts = s.parts ∧ completed s t a 0 0 ∧ t.host.ctxs.all (fun c => c.k != k) = true))) ∧
  (∀ (s : State) (fn : Nat) (off : BitVec 16) (v : Word64), fn < 13 → off.toNat % 8 ≠ 0 ∨ fwWorks s = false →
     exec (.doorbell fn off v) s = .next (withFn s fn (fun f => { f with dbDrop := satInc f.dbDrop 1 }))) ∧
  (∀ (s : State) (p k : Nat) (c : QCtx), k < 8192 →
     (oneEntry s p k c →
       let b := hostRead s (c.ring + 64 * c.head) 64
       let e := entryOf b
       (entryBad (part s p) c.prev b = false →
         exec (.stepEntryFetch k) s = .next (withCtx s k (fun x =>
           { x with head := c.tail, prev := some (fieldAt b 0 8), fetched := c.fetched ++ [e] }))) ∧
       (entryBad (part s p) c.prev b = true →
         ∃ t, exec (.stepEntryFetch k) s = .next t ∧ t.parts = s.parts ∧
           memRead t.host.mem (c.cpl + 16 * c.cplIdx) 16 =
             leBytes 8 (fieldAt b 16 8) ++ leBytes 2 0x0103 ++ [0, 0] ++ [if c.phase then 1 else 0] ++ [0, 0, 0] ∧
           (t.host.ctxs.find? (fun c => c.k = k)).map (fun x => (x.head, x.fetched, x.cplIdx)) =
             some (c.tail, c.fetched, (c.cplIdx + 1) % c.size))) ∧
     (s.host.up = false ∨ fwWorks s = false ∨ partOfCtx s k = none → exec (.stepEntryFetch k) s = .next s) ∧
     (∀ q : Nat, partOfCtx s k = some q → s.host.up = true → fwWorks s = true →
       s.host.ctxs.find? (fun c => c.k = k) = some c → (c.head = c.tail ∨ 64 ≤ c.fetched.length) →
       ((part s q).st = .running → (part s q).waiting = false) → exec (.stepEntryFetch k) s = .next s))

/-- A doorbell write sets the producer index of its context, or is dropped and counted: where the context is not
configured or belongs to no partition, the offset lies beyond the VF's contexts, or the index is not below the ring size
(17, R555, R573). -/
def Obligations.Doorbells : Prop :=
  ∀ (s : State) (fn : Nat) (off : BitVec 16) (v : Word64), fn < 13 → s.host.fns.length = 13 → fwWorks s = true → off.toNat % 8 = 0 →
    let n := v.toNat % 2 ^ 32
    let j := off.toNat / 8
    let k := if fn = 0 then j else (fn - 1) * ctxPer s + j
    let drop := withFn s fn (fun f => { f with dbDrop := satInc f.dbDrop 1 })
    (planCount s < fn → exec (.doorbell fn off v) s = .next drop) ∧
    (fn = 0 → ctxPer s * planCount s ≤ j → exec (.doorbell fn off v) s = .next drop) ∧
    (0 < fn → ctxPer s ≤ j → exec (.doorbell fn off v) s = .next drop) ∧
    (s.host.ctxs.find? (fun x => x.k = k) = none → exec (.doorbell fn off v) s = .next drop) ∧
    ∀ c : QCtx, s.host.ctxs.find? (fun x => x.k = k) = some c →
      (c.size ≤ n → exec (.doorbell fn off v) s = .next drop) ∧
      (fn ≤ planCount s → j < (if fn = 0 then ctxPer s * planCount s else ctxPer s) → n < c.size →
        exec (.doorbell fn off v) s = .next (withCtx s k (fun y => { y with tail := n })))

/-- JOB_START, JOB_END, JOB_RELEASE, the start of a job that runs, PLAN_CHANGE (10, R313, R320; 17, R567, R570, R571,
R578; 18, R596; 20, R658). -/
def Obligations.Jobs : Prop :=
  (∀ (s : State) (a : HostArgs), s.faults.tw = none →
     let p := argPart a
     (hostSends s a 0x20 → ∀ (far : Far),
       (jobBlock (hostRead s (argAt a 8 8) 256)).ok = false →
         ∃ t, exec (.jobStart a far) s = .next t ∧ engineStands s t ∧ completed s t a 0x0102 0) ∧
     (hostSends s a 0x20 → p < planCount s → ∀ (far : Far) (n : Nat), startStep s p (argAt a 8 8) far = some n →
       ∃ t, exec (.jobStart a far) s = .next t ∧ (part t p).st = .starting ∧ (part t p).seq.attempt = 1 ∧ (part t p).seq.begun = false ∧
         (part t p).seq.step = n ∧ (part t p).rep.live.issued = 0 ∧ (part t p).stepsDone = 0 ∧
         (part t p).job.seed = leNat (jobBlock (hostRead s (argAt a 8 8) 256)).seed ∧
         (fnOf t a.fn).waits.map (fun w => (w.op, w.tag, w.mbox, w.arg, w.val)) = [(0x20, a.tag.toNat, a.mbox, p, n)] ∧
         ∀ k, k < 12 → k ≠ p → part t k = part s k)) ∧
  (∀ (s : State) (a : HostArgs), s.faults.tw = none →
     let p := argPart a
     let q := part s p
     (hostSends s a 0x21 → p < planCount s →
       ∃ t, exec (.jobEnd a) s = .next t ∧ completed s t a 0 0 ∧ (∀ k, k < 12 → k ≠ p → part t k = part s k) ∧
         (q.st = .running → q.waiting = false → part t p = { q with endReq := some (q.endReq.getD (1, 0)) }) ∧
         (q.st = .running → q.waiting = true → q.endReq = none → (part t p).st = .ended ∧ (part t p).endWord = 0x00010000) ∧
         (jobActive q = false → q.endReq = none → part t p = q)) ∧
     (hostSends s a 0x22 → p < planCount s →
       ((q.st = .idle ∨ q.st = .ended) → q.ck.stream = none →
         ∃ t, exec (.jobRelease a) s = .next t ∧ completed s t a 0 0 ∧ (∀ k, k < 12 → k ≠ p → part t k = part s k) ∧
           part t p = { q with st := .idle, hbm := [], clusters := q.clusters.map (fun c => { c with sram := [] }),
                               ck := { q.ck with staged := none } }) ∧
       (q.st ≠ .idle → q.st ≠ .ended → ∃ t, exec (.jobRelease a) s = .next t ∧ engineStands s t ∧ completed s t a 0x0204 0))) ∧
  (∀ (s : State) (p fn : Nat) (w : CmdWait), p < 12 → s.parts.length = 12 → fn < 13 → s.host.fns.length = 13 → (part s p).st = .starting →
     s.faults.tw = none → (fnOf s fn).waits = [w] → (∀ k, k < 13 → k ≠ fn → (fnOf s k).waits = []) → w.op = 0x20 → w.arg = p →
     w.mbox = true → (part s p).endReq = none → s.supplies.supply ≠ .halted → effHalt s p = false →
     ∃ t, exec (.jobRunning p) s = .next t ∧ (part t p).st = .running ∧ (part t p).seq.step = (part s p).seq.step ∧
       (fnOf t fn).waits = [] ∧
       (leBytes 16 (fnOf t fn).mboxCpl.toNat).take 4 = leBytes 4 w.tag ∧
       ((leBytes 16 (fnOf t fn).mboxCpl.toNat).drop 4).take 2 = leBytes 2 0 ∧
       (leBytes 16 (fnOf t fn).mboxCpl.toNat).drop 8 = leBytes 8 w.val ∧ ∀ k, k < 12 → k ≠ p → part t k = part s k) ∧
  (∀ (s : State) (a : HostArgs), hostSends s a 0x30 → s.faults.tw = none →
     let e := argAt a 8 1
     let valid : Bool := decide (e < 16) && planValid (planEntry s.boot.copy e)
     let active := s.parts.any (fun q => q.st = .starting || q.st = .running || q.st = .releasing)
     (valid = false → ∃ t, exec (.planChange a) s = .next t ∧ engineStands s t ∧ completed s t a 0x0104 0) ∧
     (valid = true → active = true → ∃ t, exec (.planChange a) s = .next t ∧ engineStands s t ∧ completed s t a 0x0203 0) ∧
     (valid = true → active = false → planLocked s = true → ∃ t, exec (.planChange a) s = .next t ∧ engineStands s t ∧ completed s t a 0x0302 0) ∧
     (valid = true → active = false → planLocked s = false →
       ∃ t, exec (.planChange a) s = .next t ∧ completed s t a 0 0 ∧ t.boot.plan = e ∧ t.host.ctxs = [] ∧ t.boot.fuse = s.boot.fuse ∧
         t.grid = s.grid ∧ t.beryl.ctxs.all (fun c => !c.enable && c.vals.isNone) = true ∧
         ∀ p, p < 12 → (part t p).st = (if p < planCount t then .idle else .absent) ∧ (part t p).hbm = [] ∧
           (part t p).clusters.length = (if p < planCount t then clPer t else 0) ∧
           (part t p).clusters.all (fun c => c.sram.isEmpty && c.core.accum.tiles.isEmpty) = true))

/-- FW_STAGE and PACK_INSTALL (15, R519, R520; 17, R559, R560). -/
def Obligations.FirmwareAndPacks : Prop :=
  (∀ (s : State) (a : HostArgs) (key : BitVec 768), s.host.staging = false → hostSends s a 0x60 → argAt a 16 8 ≤ 2 ^ 25 →
     let b := hostRead s (argAt a 8 8) (argAt a 16 8)
     ∃ t, exec (.fwStage a key) s = .next t ∧ t.parts = s.parts ∧ stageLeft s t a b (fwCheck s.boot.copy b key)) ∧
  (∀ (s : State) (a : HostArgs) (key : BitVec 768), s.host.staging = false → hostSends s a 0x61 → argAt a 16 8 ≤ 2 ^ 22 →
     let b := hostRead s (argAt a 8 8) (argAt a 16 8)
     ∃ t, exec (.packInstall a key) s = .next t ∧ engineStands s t ∧
       packLeft s t a b (packOk s.boot.fw.toNat b) (packSigned s.boot.copy b key))

/-- BAR0: what is written and what is not, what is read, latched and cleared, ring sizes and the log tail (00, R8; 02,
R81, R87; 12, R417; 17, R562; 19, R645; 20, R654). -/
def Obligations.Registers : Prop :=
  (∀ (s : State) (k : Nat) (off : BitVec 16) (w : WriteArgs), k < 13 → s.host.fns.length = 13 →
     (barFull s = false → s.boot.st ≠ .failed → exec (.registerWrite k off w) s = .next s) ∧
     (off.toNat % 4 ≠ 0 ∨ (w.wide = true ∧ off.toNat % 8 ≠ 0) ∨ off.toNat < 0xC0 → exec (.registerWrite k off w) s = .next s) ∧
     (barFull s = true →
       (off = 0x100 → w.wide = true → exec (.registerWrite k off w) s = .next (withFn s k (fun f => { f with cmdBase := w.v }))) ∧
       (off = 0x118 → w.wide = true → exec (.registerWrite k off w) s = .next (withFn s k (fun f => { f with cplBase := w.v }))) ∧
       (off = 0x120 → w.wide = true → exec (.registerWrite k off w) s = .next (withFn s k (fun f => { f with evtBase := w.v }))) ∧
       (off = 0x120 → w.wide = false → exec (.registerWrite k off w) s =
         .next (withFn s k (fun f => { f with evtBase := (f.evtBase &&& 0xFFFFFFFF00000000) ||| (w.v &&& 0xFFFFFFFF) }))) ∧
       (off = 0x124 → w.wide = false → exec (.registerWrite k off w) s =
         .next (withFn s k (fun f => { f with evtBase := (f.evtBase &&& 0xFFFFFFFF) ||| (w.v <<< 32) }))) ∧
       (off = 0x134 → w.wide = false → exec (.registerWrite k off w) s =
         .next (withFn s k (fun f => { f with evtFilter := BitVec.ofNat 32 (w.v.toNat % 16) }))))) ∧
  (∀ (s : State) (k : Nat) (v : Word64), k < 13 → barFull s = true → s.parts.length = 12 →
     let c := v.toNat % 4096
     let p := winPart s k 3
     let r := winPart s k 5
     let q := part s p
     let x := part s r
     let n := v.toNat % 2 ^ 32
     (1200 ≤ c ∧ c ≤ 3000 → exec (.registerWrite 0 0x1C00 { wide := false, v := v }) s = .next { s with gov := { s.gov with cap := c } }) ∧
     (c < 1200 ∨ 3000 < c → exec (.registerWrite 0 0x1C00 { wide := false, v := v }) s =
       .next { s with gov := { s.gov with status := s.gov.status ||| 0x80000 } }) ∧
     (k ≠ 0 → exec (.registerWrite k 0x1C00 { wide := false, v := v }) s = .next s) ∧
     (p < 12 → ∃ t, exec (.registerWrite k 0x2408 { wide := false, v := v }) s = .next t ∧
       (∀ j, j < 12 → j ≠ p → part t j = part s j) ∧ t.host = s.host ∧ t.ports = s.ports ∧
       part t p = { q with lk := if jobActive q then { q.lk with pflags := q.lk.pflags ||| 1 } else { q.lk with job := BitVec.ofNat 32 (v.toNat % 65536) } }) ∧
     (r < 12 → ∃ t, exec (.registerWrite k 0x180C { wide := false, v := v }) s = .next t ∧
       (∀ j, j < 12 → j ≠ r → part t j = part s j) ∧ t.host = s.host ∧
       part t r = if 1000 ≤ n ∧ n ≤ 3600000 then { x with ck := { x.ck with timeout := BitVec.ofNat 32 n } } else x)) ∧
  (∀ (s : State) (k v : Nat) (off : BitVec 16), k < 13 → s.host.fns.length = 13 → reg64 s k off.toNat = some v → v < 2 ^ 64 →
     regServed s off.toNat = true → off.toNat % 8 = 0 → (∀ h, (fnOf s k).latch = some h → h.1 ≠ off.toNat) →
     ∃ t, exec (.lowHalfRead k off 8) s = .next t ∧ answered t (leBytes 8 v) ∧ t.parts = s.parts) ∧
  (∀ (s : State) (k : Nat), k < 13 → s.host.fns.length = 13 → s.parts.length = 12 →
     (∀ h, (fnOf s k).latch = some h → h.1 ≠ 0x144 ∧ h.1 ≠ 0x148 ∧ h.1 ≠ 0x10F4) →
     let p := winPart s k 0
     (barFull s = true →
       (∃ t, exec (.rcRead k 0x144 4) s = .next t ∧ answered t (leBytes 4 (fnOf s k).conflict.toNat) ∧ t.parts = s.parts ∧
         fnOf t k = { fnOf s k with conflict := 0 }) ∧
       (∃ t, exec (.rcRead k 0x148 8) s = .next t ∧ answered t (leBytes 8 (fnOf s k).dbDrop.toNat) ∧ t.parts = s.parts ∧
         (fnOf t k).dbDrop = 0 ∧ (fnOf t k).conflict = (fnOf s k).conflict) ∧
       (p < 12 → ∃ t, exec (.rcRead k 0x10F4 4) s = .next t ∧ answered t (leBytes 4 (part s p).rep.lost.toNat) ∧
         part t p = { part s p with rep := { (part s p).rep with lost := 0 } } ∧ ∀ j, j < 12 → j ≠ p → part t j = part s j)) ∧
     (barFull s = false → s.boot.st ≠ .failed → ∀ off : BitVec 16, 0x100 ≤ off.toNat →
       (fnOf s k).latch = none → off.toNat % 4 = 0 →
       ∃ t, exec (.rcRead k off 4) s = .next t ∧ answered t [0, 0, 0, 0] ∧ t.parts = s.parts ∧ fnOf t k = fnOf s k)) ∧
  (∀ (s : State) (k : Nat) (v : Word32), k < 13 → s.host.fns.length = 13 →
     let cmd : Bool := [0, 16, 32, 64, 128, 256, 512, 1024, 2048, 4096].contains v.toNat
     let evt : Bool := [0, 64, 128, 256, 512, 1024, 2048, 4096, 8192, 16384, 32768, 65536].contains v.toNat
     (barFull s = true → cmd = true → exec (.ringSizeWrite k false v) s = .next (withFn s k (fun f =>
       { f with cmdSize := v, cmdHead := 0, cmdTail := 0, cplPhase := true, cplBaseEff := f.cplBase,
                cmdBaseEff := f.cmdBase &&& 0xFFFFFFFFFFFFFFC0 }))) ∧
     (barFull s = true → evt = true → exec (.ringSizeWrite k true v) s = .next (withFn s k (fun f =>
       { f with evtSize := v, evtHead := 0, evtTail := 0, evtBaseEff := f.evtBase &&& 0xFFFFFFFFFFFFFFE0 }))) ∧
     (cmd = false → exec (.ringSizeWrite k false v) s = .next s) ∧ (evt = false → exec (.ringSizeWrite k true v) s = .next s)) ∧
  (∀ (s : State) (fn : Nat) (v : Word32), fn < 13 → s.parts.length = 12 → barFull s = true →
     let p := if fn = 0 then ((fnOf s 0).sel.getD 0 0).toNat else fn - 1
     let q := part s p
     p < 12 → ∃ t, exec (.logTailWrite fn v) s = .next t ∧ t.host = s.host ∧ (∀ j, j < 12 → j ≠ p → part t j = part s j) ∧
       part t p = if v.toNat < q.rep.logSizeEff.toNat then { q with rep := { q.rep with tail := v } } else q)

/-- A read of the low half of a 64-bit register latches its high half for the function, and a read of the high half that
follows returns what is latched (02, R87). -/
def Obligations.LatchedHalves : Prop :=
  ∀ (s : State) (k : Nat) (off : BitVec 16), k < 13 → s.host.fns.length = 13 → regServed s off.toNat = true →
    (∀ v : Nat, reg64 s k off.toNat = some v → v < 2 ^ 64 → off.toNat % 8 = 0 → (∀ h, (fnOf s k).latch = some h → h.1 ≠ off.toNat) →
      ∃ t, exec (.lowHalfRead k off 4) s = .next t ∧ answered t (leBytes 4 v) ∧
        (fnOf t k).latch = some (off.toNat + 4, BitVec.ofNat 32 (v / 2 ^ 32)) ∧ (∀ j, j ≠ k → fnOf t j = fnOf s j) ∧
        t.parts = s.parts ∧ t.host.ctxs = s.host.ctxs ∧ t.host.mem = s.host.mem ∧ t.gov = s.gov ∧
        (off ≠ 0x148 → fnOf t k = { fnOf s k with latch := (fnOf t k).latch })) ∧
    (∀ h : Word32, (fnOf s k).latch = some (off.toNat, h) → off.toNat % 8 = 4 → off.toNat ≠ 0x10F4 →
      ∃ t, exec (.lowHalfRead k off 4) s = .next t ∧ answered t (leBytes 4 h.toNat))

/-- Datagrams of the management port: drops, old numbers, READ_REQ and WRITE_REQ (18, R584, R586, R587, R590, R594,
R595). -/
def Obligations.ManagementRequests : Prop :=
  (∀ (s : State) (m : MsgArgs), s.supplies.aon = true → s.mgmt.dup = false →
     let u := advance s m.dt
     let n := m.bytes.length
     ∀ e ∈ msgRows m,
       (n < 48 ∨ 1232 < n →
         exec e.2 s = .next { u with mgmt := { u.mgmt with malformed := satInc u.mgmt.malformed 1 } }) ∧
       (48 ≤ n → n ≤ 1232 → m.bytes.take 3 ≠ [0x4E, 0x59, 1] ∨ ¬ fieldAt m.bytes 3 1 ∈ [1, 3, 6, 8] ∨ fieldAt m.bytes 16 8 ≠ serialOf s →
         exec e.2 s = .next { u with mgmt := { u.mgmt with dropped := satInc u.mgmt.dropped 1 } }) ∧
       (∀ k : List Byte, arrives s m e.1 → fieldAt m.bytes 4 1 ≠ 0xFF →
         (slotKey s (fieldAt m.bytes 4 1) = none ∨
           (slotKey s (fieldAt m.bytes 4 1) = some k ∧ msgTag k (m.bytes.take (n - 16)) ≠ m.bytes.drop (n - 16))) →
         ∃ t, exec e.2 s = .next t ∧ stands u t ∧ t.mgmt.dropped = satInc u.mgmt.dropped 1 ∧ t.mgmt.sent = u.mgmt.sent ∧
           t.mgmt.h = s.mgmt.h ∧ t.mgmt.keys = s.mgmt.keys ∧ t.mgmt.reqs = s.mgmt.reqs)) ∧
  (∀ (s : State) (m : MsgArgs) (k : List Byte), noStale s →
     let u := advance s m.dt
     let slot := fieldAt m.bytes 4 1
     ∀ e ∈ msgRows m, arrives s m e.1 → macRight s m k → fieldAt m.bytes 8 8 ≤ nth s.mgmt.h slot →
       ∃ t, exec e.2 s = .next t ∧ stands u t ∧ t.mgmt.h = s.mgmt.h ∧ t.mgmt.keys = s.mgmt.keys ∧ t.mgmt.reqs = s.mgmt.reqs ∧
         answers u t m (if e.1 = 3 then 4 else if e.1 = 8 then 9 else 2)
           [rspItem 0x1031 (slot + 1) 5 0x02D2 (leBytes 8 (nth s.mgmt.h slot))] (some k)) ∧
  (∀ (s : State) (m : MsgArgs) (k : List Byte), s.mgmt.h.length = 4 → fieldAt m.bytes 4 1 < 4 →
     let v := numbered s m
     let r := reqOf m true
     let w := reqOf m false
     let sts := w.items.map (writeStatus v w.slot (w.flags % 2 = 1))
     (accepted s m 1 k → s.mgmt.reqs = [] → 48 + ((readAnswer v r.items).map (·.length)).sum ≤ 1232 →
       ∃ t, exec (.readReq m) s = .next t ∧ stands v t ∧ nth t.mgmt.h r.slot = r.seq ∧ t.mgmt.reqs = [] ∧
         answers v t m 2 (readAnswer v r.items) (some k)) ∧
     (accepted s m 3 k → s.mgmt.reqs = [] → 48 + 6 * w.items.length ≤ 1232 → sts.all (fun x => x = 0) = false →
       ∃ t, exec (.writeReq m) s = .next t ∧ stands v t ∧ nth t.mgmt.h r.slot = r.seq ∧ t.mgmt.reqs = [] ∧
         answers v t m 4 ((w.items.zip sts).map (fun e => rspItem e.1.index e.1.sub (itemType e.1) (if e.2 = 0 then 0x01D5 else e.2) []))
           (some k)) ∧
     (accepted s m 3 k → s.mgmt.reqs = [] → 48 + 6 * w.items.length ≤ 1232 → sts.all (fun x => x = 0) = true →
       exec (.writeReq m) s = .next { v with mgmt := { v.mgmt with reqs := [w] } }) ∧
     (accepted s m 3 k → s.mgmt.reqs ≠ [] → exec (.writeReq m) s =
       .next (if 64 ≤ s.mgmt.reqs.length then { v with mgmt := { v.mgmt with qDrops := satInc v.mgmt.qDrops 1 } }
              else { v with mgmt := { v.mgmt with reqs := v.mgmt.reqs ++ [w] } })))

/-- What management does: application ticks, fuse burns, EVENT_ACK, KEY_SET, and the collectors (18, R589 to R591,
R594, R598, R600 to R603; 19, R628; 20, R660, R663). -/
def Obligations.ManagementActions : Prop :=
  (∀ (s : State) (r : MgReq) (dt : Word64) (v : BitVec 16),
     let u := advance s dt
     let cap : WrItem := { index := 0x2010, sub := 1, typ := 3, val := leBytes 2 v.toNat }
     (s.mgmt.reqs = [] → exec (.applicationTick dt) s = .next { u with host := { u.host with ordered := [] } }) ∧
     (headWaits s r → r.read = true → 48 + ((readAnswer u r.items).map (·.length)).sum ≤ 1232 →
       ∃ t, exec (.applicationTick dt) s = .next t ∧ t.parts = s.parts ∧ t.gov = u.gov ∧ t.boot = s.boot ∧ t.mgmt.reqs = [] ∧
         t.mgmt.sent = s.mgmt.sent ++
           [{ dst := r.src, port := r.port,
              bytes := msgBytes u { typ := 2, slot := r.slot, seq := r.seq, reqId := r.reqId } r.items.length
                (readAnswer u r.items).flatten (slotKey u r.slot) }]) ∧
     (headWaits s r → r.read = false → r.items = [cap] → r.slot ≠ 3 →
       ∃ t, exec (.applicationTick dt) s = .next t ∧ t.mgmt.reqs = [] ∧ t.parts = s.parts ∧ t.boot = s.boot ∧
         (if 1200 ≤ v.toNat ∧ v.toNat ≤ 3000 then t.gov = { u.gov with capMg := v.toNat } ∧ answersWrite u t r [0]
          else t.gov = u.gov ∧ answersWrite u t r [0x01D3]))) ∧
  (∀ (s : State) (r : MgReq) (i : Nat) (hash : List Byte) (stuck : List (BitVec 12)),
     let at_ := 0x720 + 32 * i
     let item : WrItem := { index := 0x5030, sub := i + 1, typ := 12, val := hash }
     (s.mgmt.reqs = [] → exec (.fuseBurn stuck) s = .next s) ∧
     (headWaits s r → r.read = false → r.slot = 0 → r.flags % 2 = 1 → i < 4 → hash.length = 32 → r.items = [item] →
       writeStatus s 0 true item = 0 →
       ∃ t, exec (.fuseBurn stuck) s = .next t ∧ t.mgmt.reqs = [] ∧ t.parts = s.parts ∧
         memRead t.boot.copy at_ 32 = memRead t.boot.fuse at_ 32 ∧
         (∀ a : Nat, a < at_ ∨ at_ + 32 ≤ a → memGet t.boot.fuse a = memGet s.boot.fuse a) ∧
         (∀ j, j < 32 → memGet t.boot.fuse (at_ + j) =
           if stuck.any (fun x => x.toNat = at_ + j) then memGet s.boot.fuse (at_ + j)
           else memGet s.boot.fuse (at_ + j) ||| hash.getD j 0) ∧
         (stuck = [] → answersWrite s t r [0]))) ∧
  (∀ (s : State) (m : MsgArgs) (k : List Byte), s.mgmt.h.length = 4 → fieldAt m.bytes 4 1 < 4 → s.mgmt.coll.length = 4 →
     let v := numbered s m
     let seq := leNat ((m.bytes.drop 32).take 8)
     (accepted s m 6 k → seq / 2 ^ 32 ≠ s.life.boots → exec (.eventAck m) s = .next v) ∧
     (accepted s m 6 k → seq / 2 ^ 32 = s.life.boots →
       ∃ t, exec (.eventAck m) s = .next t ∧ stands v t ∧ t.mgmt.sent = s.mgmt.sent ∧ t.mgmt.h = v.mgmt.h ∧
         ∀ c, c < 4 →
           if (collAt s c).enable = true ∧ (collAt s c).addr = m.src then
             (collAt t c).open_ = (collAt s c).open_.filter (fun e => decide (seq % 2 ^ 32 < e.1)) ∨
               (collAt s c).open_.all (fun e => decide (seq % 2 ^ 32 < e.1) || e.2.isEmpty) = true
           else (collAt t c).open_ = (collAt s c).open_)) ∧
  (∀ (s : State) (m : MsgArgs) (k : List Byte) (stuck : List (BitVec 12)), s.mgmt.h.length = 4 → accepted s m 8 k →
     let v := numbered s m
     let slot := fieldAt m.bytes 4 1
     let target := fieldAt m.bytes 32 1
     let pad := hmacSha256 k (asciiBytes "NYLYN-KEY" ++ leBytes 8 (fieldAt m.bytes 8 8) ++ leBytes 1 target)
     let key := List.zipWith (· ^^^ ·) ((m.bytes.drop 40).take 32) pad
     let fits : Bool := sha256 key = memRead s.boot.fuse (0x720 + 32 * target) 32 && !slotRevoked s target
     let item (st : Nat) : List Byte := rspItem 0x1030 (target + 1) 2 st []
     (slot ≠ 0 → slot < 4 → ∃ t, exec (.keySet m stuck) s = .next t ∧ stands v t ∧ t.mgmt.keys = s.mgmt.keys ∧ answers v t m 9 [item 0x02D1] (some k)) ∧
     (slot = 0 → fits = false →
       ∃ t, exec (.keySet m stuck) s = .next t ∧ stands v t ∧ t.mgmt.keys = s.mgmt.keys ∧ answers v t m 9 [item 0x05D0] (some k)) ∧
     (slot = 0 → fits = true →
       ∃ t, exec (.keySet m stuck) s = .next t ∧ stands v t ∧ t.mgmt.keys = s.mgmt.keys.set target (some key) ∧
         t.mgmt.sent.length = s.mgmt.sent.length + 1)) ∧
  (∀ (s : State) (c : BitVec 2) (dt : Word64) (k : List Byte), s.supplies.aon = true → s.mgmt.dup = false → s.mgmt.coll.length = 4 →
     let u := advance s dt
     let x := collAt s c.toNat
     let ids := ((s.mgmt.queue.filter (fun r => r.owed.getLsbD c.toNat && decide (x.sentTo < r.id))).map (·.id)).take 32
     let msg (v : State) (n : Nat) (l : List Nat) : Datagram := { dst := x.addr, port := x.port, bytes := eventBytes v c.toNat n l k }
     (x.st ≠ 1 ∨ ids = [] → exec (.eventSend c dt) s = .next u) ∧
     (x.st = 1 → ids ≠ [] → slotKey s x.slot = some k →
       ∃ t, exec (.eventSend c dt) s = .next t ∧ stands u t ∧ t.mgmt.sent = s.mgmt.sent ++ [msg u (x.n + 1) ids] ∧
         t.mgmt.queue = s.mgmt.queue ∧
         collAt t c.toNat = { x with n := x.n + 1, open_ := x.open_ ++ [(x.n + 1, ids)], sentTo := ids.getLast?.getD x.sentTo }) ∧
     (x.open_ = [] → exec (.eventRetransmit c) s = .next s) ∧
     (∀ (n : Nat) (l : List Nat) (rest : List (Nat × List Nat)), x.open_ = (n, l) :: rest → x.st = 1 → slotKey s x.slot = some k →
       exec (.eventRetransmit c) s = .next { s with mgmt := { s.mgmt with sent := s.mgmt.sent ++ [msg s n l] } }) ∧
     (x.st ≠ 1 → exec (.collectorStale c) s = .next s) ∧
     (x.st = 1 → ∃ t, exec (.collectorStale c) s = .next t ∧ (collAt t c.toNat).st = 2 ∧ t.parts = s.parts ∧ t.boot = s.boot) ∧
     (∃ t, exec .announce s = .next t ∧ stands s t ∧
       t.mgmt.sent.map (fun d => (d.dst, d.port, d.bytes.take 5, d.bytes.length)) =
         s.mgmt.sent.map (fun d => (d.dst, d.port, d.bytes.take 5, d.bytes.length)) ++
           [([0xFF, 0x02] ++ List.replicate 13 0 ++ [1], s.mgmt.portNow, [0x4E, 0x59, 1, 7, 0xFF], 78)]))

/-- An event is one record of 32 bytes with its time, step, source, severity, partition, code and detail; a function
that receives it gets it at its ring's tail with vector 1, or counts it lost; one of severity 2 or above enters the
life record (15, R523, R525; 17, R579). -/
def Obligations.Events : Prop :=
  ∀ (s : State) (src : EvSrc) (p code detail : Nat), s.supplies.mainOn = true → s.host.fns.length = 13 →
    let e := mkEvent s src p code detail
    let b := evBytes e
    ((p < 12 ∨ p = 15) → b.length = 32 ∧ b.take 8 = leBytes 8 s.quartz.ns ∧
      (b.drop 8).take 8 = leBytes 8 (if p < 12 then (part s p).seq.step else 0) ∧
      (b.drop 16).take 4 = leBytes 1 src.die ++ leBytes 1 src.unit ++ leBytes 2 src.index ∧
      (b.drop 20).take 2 = leBytes 2 (evSeverity code + 256 * p) ∧ (b.drop 22).take 2 = leBytes 2 code ∧
      (detailGiven code = true → b.drop 24 = leBytes 8 detail)) ∧
    (∀ k, k < 13 → ringTook s (ringEvent k e s) k b) ∧
    (s.host.up = true → ∀ k, k < 13 → fnReceives s e k = false → fnOf (sendEvent s src p code detail) k = fnOf s k) ∧
    (2 ≤ evSeverity code → code < 65536 → evSeverity code < 16 → s.life.log.length < 4096 → (sendEvent s src p code detail).life.log = s.life.log ++ [e]) ∧
    (evSeverity code < 2 → p < 16 → (sendEvent s src p code detail).life = s.life)

/-- A step with a command in front performs that command on the state with the rest of the queue (log entry 1). -/
def Obligations.StepPerforms : Prop :=
  ∀ (s : State) (c : Instr) (rest : List Instr), step { s with pending := c :: rest } = exec c { s with pending := rest }

/-- The reset state has the invariant and an empty queue, and holds what the spec states for it. -/
def Obligations.ResetState : Prop := Inv State.reset ∧ State.reset.pending = [] ∧ freshModule State.reset

/-- No command is refused, and a well-formed one goes on in every state; only a flit of another type than its row
stops (log entry 1). -/
def Obligations.CommandsGoOn : Prop :=
  ∀ (s : State) (c : Instr),
    (∀ r, exec c s ≠ .refused r) ∧
    (c.wf = true → goesOn (exec c s) ∨ (isFlitRow c = true ∧ exec c s = .fault .wrongFlit))

/-- Commands are performed in their order: a step takes the front one and leaves the rest, no command adds one, and
with none waiting a step is one tick, which goes on (log entry 1). -/
def Obligations.QueueOrder : Prop :=
  ((∀ (s t : State) (c : Instr), Inv s → exec c s = .next t → t.pending = s.pending) ∧
   ∀ s t : State, Inv s → step s = .next t → t.pending = s.pending.drop 1) ∧
  (∀ s : State, Inv s → s.pending = [] → ∃ t, step s = .next t ∧ Inv t ∧ t.pending = [] ∧ staysBurned s.boot.fuse t.boot.fuse)

/-- Every step keeps the module's shape: 12 partitions, 24 ports, 13 functions, 4 collectors, and an Onyx array in
canonical form. -/
def Obligations.StepKeepsInv : Prop := ∀ s t : State, Inv s → step s = .next t → Inv t

/-- A burned bit of Onyx stays burned through every step (20, R657). -/
def Obligations.FusesStayBurned : Prop := ∀ s t : State, Inv s → step s = .next t → staysBurned s.boot.fuse t.boot.fuse
end

