-- ==== Sys2Proof/Laws/Memory.lean ====
section
/-! SUPPORT. Sparse spaces: a read after a write, reads elsewhere, and the canonical form that every operation keeps. -/

namespace Sys2Proof.Machine

variable {w : Nat}

/-- A canonical space from a bound lists no address below it. -/
theorem memGet_below {m : Mem w} {lo a : Nat} (h : memWfFrom lo m = true) (ha : a < lo) : memGet m a = 0 := by
  induction m generalizing lo with
  | nil => rfl
  | cons e t ih =>
    obtain ⟨k, v⟩ := e
    simp only [memWfFrom, Bool.and_eq_true, decide_eq_true_eq] at h
    simp only [memGet]
    rw [if_neg (by omega)]
    exact ih h.2 (by omega)

/-- The bound of a canonical space may be lowered. -/
theorem memWfFrom_mono {m : Mem w} {lo lo' : Nat} (h : memWfFrom lo m = true) (hl : lo' ≤ lo) : memWfFrom lo' m = true := by
  cases m with
  | nil => rfl
  | cons e t =>
    simp only [memWfFrom, Bool.and_eq_true, decide_eq_true_eq] at h ⊢
    exact ⟨⟨by omega, h.1.2⟩, h.2⟩

/-- Dropping entries keeps the canonical form. -/
theorem memWfFrom_filter {m : Mem w} {lo : Nat} (f : Nat × BitVec w → Bool) (h : memWfFrom lo m = true) :
    memWfFrom lo (m.filter f) = true := by
  induction m generalizing lo with
  | nil => rfl
  | cons e t ih =>
    simp only [memWfFrom, Bool.and_eq_true, decide_eq_true_eq] at h
    simp only [List.filter_cons]
    split
    · simp only [memWfFrom, Bool.and_eq_true, decide_eq_true_eq]
      exact ⟨h.1, ih h.2⟩
    · exact ih (memWfFrom_mono h.2 (by omega))

/-- Every entry of a canonical space lies at or above its bound. -/
theorem memWfFrom_ge {m : Mem w} {lo : Nat} (h : memWfFrom lo m = true) : ∀ e ∈ m, lo ≤ e.1 := by
  induction m generalizing lo with
  | nil => simp
  | cons e t ih =>
    simp only [memWfFrom, Bool.and_eq_true, decide_eq_true_eq] at h
    intro x hx
    rcases List.mem_cons.1 hx with rfl | hx
    · exact h.1.1
    · have := ih h.2 x hx; omega

/-- Two canonical spaces, the second above the entries of the first, join to a canonical one. -/
theorem memWfFrom_append {m n : Mem w} {lo hi : Nat} (hm : memWfFrom lo m = true) (hb : ∀ e ∈ m, e.1 < hi)
    (hn : memWfFrom hi n = true) (hl : lo ≤ hi) : memWfFrom lo (m ++ n) = true := by
  induction m generalizing lo with
  | nil => exact memWfFrom_mono hn hl
  | cons e t ih =>
    simp only [memWfFrom, Bool.and_eq_true, decide_eq_true_eq] at hm
    simp only [List.cons_append, memWfFrom, Bool.and_eq_true, decide_eq_true_eq]
    have := hb e (by simp)
    exact ⟨hm.1, ih hm.2 (fun x hx => hb x (by simp [hx])) (by omega)⟩

/-- The entries of a run of cells are canonical. -/
theorem memEntries_wf (a : Nat) (xs : List (BitVec w)) : memWfFrom a (memEntries a xs) = true := by
  induction xs generalizing a with
  | nil => rfl
  | cons x t ih =>
    simp only [memEntries]
    split
    · exact memWfFrom_mono (ih (a + 1)) (by omega)
    · rename_i hx
      simp only [memWfFrom, Bool.and_eq_true, decide_eq_true_eq]
      exact ⟨⟨Nat.le_refl _, by simpa using hx⟩, ih (a + 1)⟩

/-- The entries of a run of cells lie in it. -/
theorem memEntries_lt (a : Nat) (xs : List (BitVec w)) : ∀ e ∈ memEntries a xs, e.1 < a + xs.length := by
  induction xs generalizing a with
  | nil => simp [memEntries]
  | cons x t ih =>
    intro e he
    simp only [memEntries] at he
    split at he
    · have := ih (a + 1) e he; simp only [List.length_cons]; omega
    · rcases List.mem_cons.1 he with rfl | he
      · simp
      · have := ih (a + 1) e he; simp only [List.length_cons]; omega

/-- Reading a joined space: the first part where it lists the address, else the second. -/
theorem memGet_append {m n : Mem w} {a : Nat} (h : ∀ e ∈ m, e.1 ≠ a) : memGet (m ++ n) a = memGet n a := by
  induction m with
  | nil => rfl
  | cons e t ih =>
    obtain ⟨k, v⟩ := e
    simp only [List.cons_append, memGet]
    rw [if_neg (h (k, v) (by simp))]
    exact ih (fun x hx => h x (by simp [hx]))

/-- An address that a space does not list reads as zero. -/
theorem memGet_absent {m : Mem w} {a : Nat} (h : ∀ e ∈ m, e.1 ≠ a) : memGet m a = 0 := by
  simpa [memGet] using memGet_append (n := []) h

/-- A read of a joined space that the second part does not list. -/
theorem memGet_append_left {m n : Mem w} {a : Nat} (h : ∀ e ∈ n, e.1 ≠ a) : memGet (m ++ n) a = memGet m a := by
  induction m with
  | nil => simpa [memGet] using memGet_absent h
  | cons e t ih => obtain ⟨k, v⟩ := e; simp only [List.cons_append, memGet, ih]

/-- A filter that keeps every entry of an address keeps what it reads as. -/
theorem memGet_filter {m : Mem w} {f : Nat × BitVec w → Bool} {a : Nat} (h : ∀ v, f (a, v) = true) :
    memGet (m.filter f) a = memGet m a := by
  induction m with
  | nil => rfl
  | cons e t ih =>
    obtain ⟨k, v⟩ := e
    by_cases hk : k = a
    · subst hk; simp [h v, memGet]
    · simp only [List.filter_cons, memGet, if_neg hk]
      split
      · simp only [memGet, if_neg hk, ih]
      · exact ih

/-- Reading a run of entries. -/
theorem memGet_entries (a : Nat) (xs : List (BitVec w)) (i : Nat) (h : i < xs.length) :
    memGet (memEntries a xs) (a + i) = xs[i] := by
  induction xs generalizing a i with
  | nil => simp at h
  | cons x t ih =>
    cases i with
    | zero =>
      simp only [memEntries]
      split
      · rename_i hx
        simp only [Nat.add_zero, List.getElem_cons_zero]
        rw [hx]
        exact memGet_below (memEntries_wf (a + 1) t) (by omega)
      · simp [memGet]
    | succ i =>
      simp only [List.length_cons, Nat.add_lt_add_iff_right] at h
      have e : a + (i + 1) = a + 1 + i := by omega
      simp only [memEntries, List.getElem_cons_succ, e]
      split
      · exact ih (a + 1) i h
      · simp only [memGet]
        rw [if_neg (by omega)]
        exact ih (a + 1) i h

/-- A read after a write of the same cells gives what was written. -/
theorem memGet_memWrite_in (m : Mem w) (a : Nat) (xs : List (BitVec w)) (i : Nat) (h : i < xs.length) :
    memGet (memWrite m a xs) (a + i) = xs[i] := by
  unfold memWrite
  rw [memGet_append_left, memGet_append, memGet_entries a xs i h]
  · intro e he; have := (List.mem_filter.1 he).2; simp only [decide_eq_true_eq] at this; omega
  · intro e he; have := (List.mem_filter.1 he).2; simp only [decide_eq_true_eq] at this; omega

/-- A write leaves every other cell as it was. -/
theorem memGet_memWrite_out (m : Mem w) (a : Nat) (xs : List (BitVec w)) (b : Nat) (h : b < a ∨ a + xs.length ≤ b) :
    memGet (memWrite m a xs) b = memGet m b := by
  have hmid : ∀ e ∈ memEntries a xs, e.1 ≠ b := by
    intro e he hb
    have h1 := memEntries_lt a xs e he
    have h2 := memWfFrom_ge (memEntries_wf a xs) e he
    omega
  unfold memWrite
  rcases h with h | h
  · rw [memGet_append_left, memGet_append_left hmid]
    · exact memGet_filter (by simpa using h)
    · intro e he; have := (List.mem_filter.1 he).2; simp only [decide_eq_true_eq] at this; omega
  · rw [memGet_append]
    · exact memGet_filter (by simpa using h)
    · intro e he
      rcases List.mem_append.1 he with he | he
      · have := (List.mem_filter.1 he).2; simp only [decide_eq_true_eq] at this; omega
      · exact hmid e he

/-- A write keeps the canonical form. -/
theorem memWrite_wf {m : Mem w} (a : Nat) (xs : List (BitVec w)) (h : memWf m = true) : memWf (memWrite m a xs) = true := by
  unfold memWf memWrite at *
  refine memWfFrom_append (hi := a + xs.length) ?_ ?_ ?_ (by omega)
  · refine memWfFrom_append (hi := a) (memWfFrom_filter _ h) ?_ (memEntries_wf a xs) (by omega)
    intro e he; simpa using (List.mem_filter.1 he).2
  · intro e he
    rcases List.mem_append.1 he with he | he
    · have := (List.mem_filter.1 he).2; simp only [decide_eq_true_eq] at this; omega
    · exact memEntries_lt a xs e he
  · generalize a + xs.length = hi
    clear a xs
    generalize hlo : (0 : Nat) = lo at h
    clear hlo
    induction m generalizing lo with
    | nil => rfl
    | cons e t ih =>
      simp only [memWfFrom, Bool.and_eq_true, decide_eq_true_eq] at h
      simp only [List.filter_cons]
      split
      · rename_i hk
        simp only [decide_eq_true_eq] at hk
        simp only [memWfFrom, Bool.and_eq_true, decide_eq_true_eq]
        refine ⟨⟨hk, h.1.2⟩, ?_⟩
        exact memWfFrom_filter _ h.2
      · exact ih _ h.2

/-- Removing cells keeps the canonical form. -/
theorem memClear_wf {m : Mem w} (lo hi : Nat) (h : memWf m = true) : memWf (memClear m lo hi) = true :=
  memWfFrom_filter _ h

/-- A list of writes keeps the canonical form. -/
theorem memSetAll_wf {m : Mem w} (l : List (Nat × BitVec w)) (h : memWf m = true) : memWf (memSetAll m l) = true := by
  unfold memSetAll
  induction l generalizing m with
  | nil => exact h
  | cons e t ih => exact ih (memWrite_wf _ _ h)

/-- Cells of a run read together are the cells read one by one. -/
theorem memRead_eq (m : Mem w) (a n : Nat) : memRead m a n = (List.range n).map (fun i => memGet m (a + i)) := by
  unfold memRead memSlice
  apply List.map_congr_left
  intro i hi
  have hi := List.mem_range.1 hi
  exact memGet_filter (by intro v; simp; omega)

/-- Element changes keep the length of a list. -/
@[simp] theorem updAt_length {α : Type} (l : List α) (n : Nat) (f : α → α) : (updAt l n f).length = l.length := by
  induction l generalizing n with
  | nil => rfl
  | cons x t ih => cases n with
    | zero => rfl
    | succ n => simp [updAt, ih]

end Sys2Proof.Machine
end

