-- ==== Sys2Proof/Laws/State.lean ====
section
/-! SUPPORT. What a change of one partition, function, register group or part of the module leaves of the rest: one lemma for each
field and each change. -/

namespace Sys2Proof.Machine

theorem updAt_getD {α : Type} (l : List α) (n m : Nat) (f : α → α) (d : α) :
    (updAt l n f).getD m d = if n = m ∧ n < l.length then f (l.getD m d) else l.getD m d := by
  induction l generalizing n m with
  | nil => simp [updAt]
  | cons x t ih =>
    cases n with
    | zero => cases m <;> simp [updAt]
    | succ n => cases m with
      | zero => simp [updAt]
      | succ m => simpa [updAt] using ih n m

/-- The partition that changed. -/
@[simp] theorem part_withPart (s : State) (p : Nat) (f : Partition → Partition) (h : p < s.parts.length) :
    part (withPart s p f) p = f (part s p) := by
  unfold part withPart
  rw [updAt_getD, if_pos ⟨rfl, h⟩]

/-- Another partition. -/
theorem part_withPart_ne (s : State) (p q : Nat) (f : Partition → Partition) (h : p ≠ q) :
    part (withPart s p f) q = part s q := by
  unfold part withPart
  rw [updAt_getD, if_neg (fun e => h e.1)]

theorem updAt_updAt {α : Type} (l : List α) (n : Nat) (f g : α → α) : updAt (updAt l n f) n g = updAt l n (fun x => g (f x)) := by
  induction l generalizing n with
  | nil => rfl
  | cons x t ih => cases n with
    | zero => rfl
    | succ n => simp [updAt, ih]

theorem updAt_congr {α : Type} (l : List α) (n : Nat) (f g : α → α) (d : α) (h : f (l.getD n d) = g (l.getD n d)) :
    updAt l n f = updAt l n g := by
  induction l generalizing n with
  | nil => rfl
  | cons x t ih => cases n with
    | zero => simpa [updAt] using h
    | succ n => simp only [updAt]; rw [ih n (by simpa using h)]

theorem updAt_id {α : Type} (l : List α) (n : Nat) : updAt l n (fun x => x) = l := by
  induction l generalizing n with
  | nil => rfl
  | cons x t ih => cases n with
    | zero => rfl
    | succ n => simp [updAt, ih]

/-- Two changes of one partition. -/
theorem withPart_withPart (s : State) (p : Nat) (f g : Partition → Partition) :
    withPart (withPart s p f) p g = withPart s p (fun x => g (f x)) := by
  simp [withPart, updAt_updAt]

/-- Changes that agree on the partition as it stands. -/
theorem withPart_congr (s : State) (p : Nat) (f g : Partition → Partition) (h : f (part s p) = g (part s p)) :
    withPart s p f = withPart s p g := by
  unfold withPart
  rw [updAt_congr s.parts p f g partReset h]

@[simp] theorem withPart_id (s : State) (p : Nat) : withPart s p (fun q => q) = s := by
  simp [withPart, updAt_id]

/-! withPart changes parts alone. -/

@[simp] theorem withPart_pending (s : State) (p : Nat) (f : Partition → Partition) : (withPart s p f).pending = s.pending := rfl
@[simp] theorem withPart_parts (s : State) (p : Nat) (f : Partition → Partition) : (withPart s p f).parts = updAt s.parts p f := rfl
@[simp] theorem withPart_tiers (s : State) (p : Nat) (f : Partition → Partition) : (withPart s p f).tiers = s.tiers := rfl
@[simp] theorem withPart_ports (s : State) (p : Nat) (f : Partition → Partition) : (withPart s p f).ports = s.ports := rfl
@[simp] theorem withPart_quartz (s : State) (p : Nat) (f : Partition → Partition) : (withPart s p f).quartz = s.quartz := rfl
@[simp] theorem withPart_beryl (s : State) (p : Nat) (f : Partition → Partition) : (withPart s p f).beryl = s.beryl := rfl
@[simp] theorem withPart_noise (s : State) (p : Nat) (f : Partition → Partition) : (withPart s p f).noise = s.noise := rfl
@[simp] theorem withPart_grid (s : State) (p : Nat) (f : Partition → Partition) : (withPart s p f).grid = s.grid := rfl
@[simp] theorem withPart_faults (s : State) (p : Nat) (f : Partition → Partition) : (withPart s p f).faults = s.faults := rfl
@[simp] theorem withPart_host (s : State) (p : Nat) (f : Partition → Partition) : (withPart s p f).host = s.host := rfl
@[simp] theorem withPart_mgmt (s : State) (p : Nat) (f : Partition → Partition) : (withPart s p f).mgmt = s.mgmt := rfl
@[simp] theorem withPart_supplies (s : State) (p : Nat) (f : Partition → Partition) : (withPart s p f).supplies = s.supplies := rfl
@[simp] theorem withPart_gov (s : State) (p : Nat) (f : Partition → Partition) : (withPart s p f).gov = s.gov := rfl
@[simp] theorem withPart_life (s : State) (p : Nat) (f : Partition → Partition) : (withPart s p f).life = s.life := rfl
@[simp] theorem withPart_copyA (s : State) (p : Nat) (f : Partition → Partition) : (withPart s p f).copyA = s.copyA := rfl
@[simp] theorem withPart_copyB (s : State) (p : Nat) (f : Partition → Partition) : (withPart s p f).copyB = s.copyB := rfl
@[simp] theorem withPart_boot (s : State) (p : Nat) (f : Partition → Partition) : (withPart s p f).boot = s.boot := rfl

/-! withFn changes host alone. -/

@[simp] theorem withFn_pending (s : State) (k : Nat) (f : Fn → Fn) : (withFn s k f).pending = s.pending := rfl
@[simp] theorem withFn_parts (s : State) (k : Nat) (f : Fn → Fn) : (withFn s k f).parts = s.parts := rfl
@[simp] theorem withFn_tiers (s : State) (k : Nat) (f : Fn → Fn) : (withFn s k f).tiers = s.tiers := rfl
@[simp] theorem withFn_ports (s : State) (k : Nat) (f : Fn → Fn) : (withFn s k f).ports = s.ports := rfl
@[simp] theorem withFn_quartz (s : State) (k : Nat) (f : Fn → Fn) : (withFn s k f).quartz = s.quartz := rfl
@[simp] theorem withFn_beryl (s : State) (k : Nat) (f : Fn → Fn) : (withFn s k f).beryl = s.beryl := rfl
@[simp] theorem withFn_noise (s : State) (k : Nat) (f : Fn → Fn) : (withFn s k f).noise = s.noise := rfl
@[simp] theorem withFn_grid (s : State) (k : Nat) (f : Fn → Fn) : (withFn s k f).grid = s.grid := rfl
@[simp] theorem withFn_faults (s : State) (k : Nat) (f : Fn → Fn) : (withFn s k f).faults = s.faults := rfl
@[simp] theorem withFn_host (s : State) (k : Nat) (f : Fn → Fn) : (withFn s k f).host = { s.host with fns := updAt s.host.fns k f } := rfl
@[simp] theorem withFn_mgmt (s : State) (k : Nat) (f : Fn → Fn) : (withFn s k f).mgmt = s.mgmt := rfl
@[simp] theorem withFn_supplies (s : State) (k : Nat) (f : Fn → Fn) : (withFn s k f).supplies = s.supplies := rfl
@[simp] theorem withFn_gov (s : State) (k : Nat) (f : Fn → Fn) : (withFn s k f).gov = s.gov := rfl
@[simp] theorem withFn_life (s : State) (k : Nat) (f : Fn → Fn) : (withFn s k f).life = s.life := rfl
@[simp] theorem withFn_copyA (s : State) (k : Nat) (f : Fn → Fn) : (withFn s k f).copyA = s.copyA := rfl
@[simp] theorem withFn_copyB (s : State) (k : Nat) (f : Fn → Fn) : (withFn s k f).copyB = s.copyB := rfl
@[simp] theorem withFn_boot (s : State) (k : Nat) (f : Fn → Fn) : (withFn s k f).boot = s.boot := rfl

/-! withPort changes ports alone. -/

@[simp] theorem withPort_pending (s : State) (k : Nat) (f : LkPort → LkPort) : (withPort s k f).pending = s.pending := rfl
@[simp] theorem withPort_parts (s : State) (k : Nat) (f : LkPort → LkPort) : (withPort s k f).parts = s.parts := rfl
@[simp] theorem withPort_tiers (s : State) (k : Nat) (f : LkPort → LkPort) : (withPort s k f).tiers = s.tiers := rfl
@[simp] theorem withPort_ports (s : State) (k : Nat) (f : LkPort → LkPort) : (withPort s k f).ports = updAt s.ports k f := rfl
@[simp] theorem withPort_quartz (s : State) (k : Nat) (f : LkPort → LkPort) : (withPort s k f).quartz = s.quartz := rfl
@[simp] theorem withPort_beryl (s : State) (k : Nat) (f : LkPort → LkPort) : (withPort s k f).beryl = s.beryl := rfl
@[simp] theorem withPort_noise (s : State) (k : Nat) (f : LkPort → LkPort) : (withPort s k f).noise = s.noise := rfl
@[simp] theorem withPort_grid (s : State) (k : Nat) (f : LkPort → LkPort) : (withPort s k f).grid = s.grid := rfl
@[simp] theorem withPort_faults (s : State) (k : Nat) (f : LkPort → LkPort) : (withPort s k f).faults = s.faults := rfl
@[simp] theorem withPort_host (s : State) (k : Nat) (f : LkPort → LkPort) : (withPort s k f).host = s.host := rfl
@[simp] theorem withPort_mgmt (s : State) (k : Nat) (f : LkPort → LkPort) : (withPort s k f).mgmt = s.mgmt := rfl
@[simp] theorem withPort_supplies (s : State) (k : Nat) (f : LkPort → LkPort) : (withPort s k f).supplies = s.supplies := rfl
@[simp] theorem withPort_gov (s : State) (k : Nat) (f : LkPort → LkPort) : (withPort s k f).gov = s.gov := rfl
@[simp] theorem withPort_life (s : State) (k : Nat) (f : LkPort → LkPort) : (withPort s k f).life = s.life := rfl
@[simp] theorem withPort_copyA (s : State) (k : Nat) (f : LkPort → LkPort) : (withPort s k f).copyA = s.copyA := rfl
@[simp] theorem withPort_copyB (s : State) (k : Nat) (f : LkPort → LkPort) : (withPort s k f).copyB = s.copyB := rfl
@[simp] theorem withPort_boot (s : State) (k : Nat) (f : LkPort → LkPort) : (withPort s k f).boot = s.boot := rfl

/-! withGov changes gov alone. -/

@[simp] theorem withGov_pending (s : State) (f : Governor → Governor) : (withGov s f).pending = s.pending := rfl
@[simp] theorem withGov_parts (s : State) (f : Governor → Governor) : (withGov s f).parts = s.parts := rfl
@[simp] theorem withGov_tiers (s : State) (f : Governor → Governor) : (withGov s f).tiers = s.tiers := rfl
@[simp] theorem withGov_ports (s : State) (f : Governor → Governor) : (withGov s f).ports = s.ports := rfl
@[simp] theorem withGov_quartz (s : State) (f : Governor → Governor) : (withGov s f).quartz = s.quartz := rfl
@[simp] theorem withGov_beryl (s : State) (f : Governor → Governor) : (withGov s f).beryl = s.beryl := rfl
@[simp] theorem withGov_noise (s : State) (f : Governor → Governor) : (withGov s f).noise = s.noise := rfl
@[simp] theorem withGov_grid (s : State) (f : Governor → Governor) : (withGov s f).grid = s.grid := rfl
@[simp] theorem withGov_faults (s : State) (f : Governor → Governor) : (withGov s f).faults = s.faults := rfl
@[simp] theorem withGov_host (s : State) (f : Governor → Governor) : (withGov s f).host = s.host := rfl
@[simp] theorem withGov_mgmt (s : State) (f : Governor → Governor) : (withGov s f).mgmt = s.mgmt := rfl
@[simp] theorem withGov_supplies (s : State) (f : Governor → Governor) : (withGov s f).supplies = s.supplies := rfl
@[simp] theorem withGov_gov (s : State) (f : Governor → Governor) : (withGov s f).gov = f s.gov := rfl
@[simp] theorem withGov_life (s : State) (f : Governor → Governor) : (withGov s f).life = s.life := rfl
@[simp] theorem withGov_copyA (s : State) (f : Governor → Governor) : (withGov s f).copyA = s.copyA := rfl
@[simp] theorem withGov_copyB (s : State) (f : Governor → Governor) : (withGov s f).copyB = s.copyB := rfl
@[simp] theorem withGov_boot (s : State) (f : Governor → Governor) : (withGov s f).boot = s.boot := rfl

/-! withSup changes supplies alone. -/

@[simp] theorem withSup_pending (s : State) (f : Supplies → Supplies) : (withSup s f).pending = s.pending := rfl
@[simp] theorem withSup_parts (s : State) (f : Supplies → Supplies) : (withSup s f).parts = s.parts := rfl
@[simp] theorem withSup_tiers (s : State) (f : Supplies → Supplies) : (withSup s f).tiers = s.tiers := rfl
@[simp] theorem withSup_ports (s : State) (f : Supplies → Supplies) : (withSup s f).ports = s.ports := rfl
@[simp] theorem withSup_quartz (s : State) (f : Supplies → Supplies) : (withSup s f).quartz = s.quartz := rfl
@[simp] theorem withSup_beryl (s : State) (f : Supplies → Supplies) : (withSup s f).beryl = s.beryl := rfl
@[simp] theorem withSup_noise (s : State) (f : Supplies → Supplies) : (withSup s f).noise = s.noise := rfl
@[simp] theorem withSup_grid (s : State) (f : Supplies → Supplies) : (withSup s f).grid = s.grid := rfl
@[simp] theorem withSup_faults (s : State) (f : Supplies → Supplies) : (withSup s f).faults = s.faults := rfl
@[simp] theorem withSup_host (s : State) (f : Supplies → Supplies) : (withSup s f).host = s.host := rfl
@[simp] theorem withSup_mgmt (s : State) (f : Supplies → Supplies) : (withSup s f).mgmt = s.mgmt := rfl
@[simp] theorem withSup_supplies (s : State) (f : Supplies → Supplies) : (withSup s f).supplies = f s.supplies := rfl
@[simp] theorem withSup_gov (s : State) (f : Supplies → Supplies) : (withSup s f).gov = s.gov := rfl
@[simp] theorem withSup_life (s : State) (f : Supplies → Supplies) : (withSup s f).life = s.life := rfl
@[simp] theorem withSup_copyA (s : State) (f : Supplies → Supplies) : (withSup s f).copyA = s.copyA := rfl
@[simp] theorem withSup_copyB (s : State) (f : Supplies → Supplies) : (withSup s f).copyB = s.copyB := rfl
@[simp] theorem withSup_boot (s : State) (f : Supplies → Supplies) : (withSup s f).boot = s.boot := rfl

/-! withQz changes quartz alone. -/

@[simp] theorem withQz_pending (s : State) (f : Quartz → Quartz) : (withQz s f).pending = s.pending := rfl
@[simp] theorem withQz_parts (s : State) (f : Quartz → Quartz) : (withQz s f).parts = s.parts := rfl
@[simp] theorem withQz_tiers (s : State) (f : Quartz → Quartz) : (withQz s f).tiers = s.tiers := rfl
@[simp] theorem withQz_ports (s : State) (f : Quartz → Quartz) : (withQz s f).ports = s.ports := rfl
@[simp] theorem withQz_quartz (s : State) (f : Quartz → Quartz) : (withQz s f).quartz = f s.quartz := rfl
@[simp] theorem withQz_beryl (s : State) (f : Quartz → Quartz) : (withQz s f).beryl = s.beryl := rfl
@[simp] theorem withQz_noise (s : State) (f : Quartz → Quartz) : (withQz s f).noise = s.noise := rfl
@[simp] theorem withQz_grid (s : State) (f : Quartz → Quartz) : (withQz s f).grid = s.grid := rfl
@[simp] theorem withQz_faults (s : State) (f : Quartz → Quartz) : (withQz s f).faults = s.faults := rfl
@[simp] theorem withQz_host (s : State) (f : Quartz → Quartz) : (withQz s f).host = s.host := rfl
@[simp] theorem withQz_mgmt (s : State) (f : Quartz → Quartz) : (withQz s f).mgmt = s.mgmt := rfl
@[simp] theorem withQz_supplies (s : State) (f : Quartz → Quartz) : (withQz s f).supplies = s.supplies := rfl
@[simp] theorem withQz_gov (s : State) (f : Quartz → Quartz) : (withQz s f).gov = s.gov := rfl
@[simp] theorem withQz_life (s : State) (f : Quartz → Quartz) : (withQz s f).life = s.life := rfl
@[simp] theorem withQz_copyA (s : State) (f : Quartz → Quartz) : (withQz s f).copyA = s.copyA := rfl
@[simp] theorem withQz_copyB (s : State) (f : Quartz → Quartz) : (withQz s f).copyB = s.copyB := rfl
@[simp] theorem withQz_boot (s : State) (f : Quartz → Quartz) : (withQz s f).boot = s.boot := rfl

/-! withNoise changes noise alone. -/

@[simp] theorem withNoise_pending (s : State) (f : Noise → Noise) : (withNoise s f).pending = s.pending := rfl
@[simp] theorem withNoise_parts (s : State) (f : Noise → Noise) : (withNoise s f).parts = s.parts := rfl
@[simp] theorem withNoise_tiers (s : State) (f : Noise → Noise) : (withNoise s f).tiers = s.tiers := rfl
@[simp] theorem withNoise_ports (s : State) (f : Noise → Noise) : (withNoise s f).ports = s.ports := rfl
@[simp] theorem withNoise_quartz (s : State) (f : Noise → Noise) : (withNoise s f).quartz = s.quartz := rfl
@[simp] theorem withNoise_beryl (s : State) (f : Noise → Noise) : (withNoise s f).beryl = s.beryl := rfl
@[simp] theorem withNoise_noise (s : State) (f : Noise → Noise) : (withNoise s f).noise = f s.noise := rfl
@[simp] theorem withNoise_grid (s : State) (f : Noise → Noise) : (withNoise s f).grid = s.grid := rfl
@[simp] theorem withNoise_faults (s : State) (f : Noise → Noise) : (withNoise s f).faults = s.faults := rfl
@[simp] theorem withNoise_host (s : State) (f : Noise → Noise) : (withNoise s f).host = s.host := rfl
@[simp] theorem withNoise_mgmt (s : State) (f : Noise → Noise) : (withNoise s f).mgmt = s.mgmt := rfl
@[simp] theorem withNoise_supplies (s : State) (f : Noise → Noise) : (withNoise s f).supplies = s.supplies := rfl
@[simp] theorem withNoise_gov (s : State) (f : Noise → Noise) : (withNoise s f).gov = s.gov := rfl
@[simp] theorem withNoise_life (s : State) (f : Noise → Noise) : (withNoise s f).life = s.life := rfl
@[simp] theorem withNoise_copyA (s : State) (f : Noise → Noise) : (withNoise s f).copyA = s.copyA := rfl
@[simp] theorem withNoise_copyB (s : State) (f : Noise → Noise) : (withNoise s f).copyB = s.copyB := rfl
@[simp] theorem withNoise_boot (s : State) (f : Noise → Noise) : (withNoise s f).boot = s.boot := rfl

/-! withLife changes life alone. -/

@[simp] theorem withLife_pending (s : State) (f : Life → Life) : (withLife s f).pending = s.pending := rfl
@[simp] theorem withLife_parts (s : State) (f : Life → Life) : (withLife s f).parts = s.parts := rfl
@[simp] theorem withLife_tiers (s : State) (f : Life → Life) : (withLife s f).tiers = s.tiers := rfl
@[simp] theorem withLife_ports (s : State) (f : Life → Life) : (withLife s f).ports = s.ports := rfl
@[simp] theorem withLife_quartz (s : State) (f : Life → Life) : (withLife s f).quartz = s.quartz := rfl
@[simp] theorem withLife_beryl (s : State) (f : Life → Life) : (withLife s f).beryl = s.beryl := rfl
@[simp] theorem withLife_noise (s : State) (f : Life → Life) : (withLife s f).noise = s.noise := rfl
@[simp] theorem withLife_grid (s : State) (f : Life → Life) : (withLife s f).grid = s.grid := rfl
@[simp] theorem withLife_faults (s : State) (f : Life → Life) : (withLife s f).faults = s.faults := rfl
@[simp] theorem withLife_host (s : State) (f : Life → Life) : (withLife s f).host = s.host := rfl
@[simp] theorem withLife_mgmt (s : State) (f : Life → Life) : (withLife s f).mgmt = s.mgmt := rfl
@[simp] theorem withLife_supplies (s : State) (f : Life → Life) : (withLife s f).supplies = s.supplies := rfl
@[simp] theorem withLife_gov (s : State) (f : Life → Life) : (withLife s f).gov = s.gov := rfl
@[simp] theorem withLife_life (s : State) (f : Life → Life) : (withLife s f).life = f s.life := rfl
@[simp] theorem withLife_copyA (s : State) (f : Life → Life) : (withLife s f).copyA = s.copyA := rfl
@[simp] theorem withLife_copyB (s : State) (f : Life → Life) : (withLife s f).copyB = s.copyB := rfl
@[simp] theorem withLife_boot (s : State) (f : Life → Life) : (withLife s f).boot = s.boot := rfl

/-! withMgmt changes mgmt alone. -/

@[simp] theorem withMgmt_pending (s : State) (f : Mgmt → Mgmt) : (withMgmt s f).pending = s.pending := rfl
@[simp] theorem withMgmt_parts (s : State) (f : Mgmt → Mgmt) : (withMgmt s f).parts = s.parts := rfl
@[simp] theorem withMgmt_tiers (s : State) (f : Mgmt → Mgmt) : (withMgmt s f).tiers = s.tiers := rfl
@[simp] theorem withMgmt_ports (s : State) (f : Mgmt → Mgmt) : (withMgmt s f).ports = s.ports := rfl
@[simp] theorem withMgmt_quartz (s : State) (f : Mgmt → Mgmt) : (withMgmt s f).quartz = s.quartz := rfl
@[simp] theorem withMgmt_beryl (s : State) (f : Mgmt → Mgmt) : (withMgmt s f).beryl = s.beryl := rfl
@[simp] theorem withMgmt_noise (s : State) (f : Mgmt → Mgmt) : (withMgmt s f).noise = s.noise := rfl
@[simp] theorem withMgmt_grid (s : State) (f : Mgmt → Mgmt) : (withMgmt s f).grid = s.grid := rfl
@[simp] theorem withMgmt_faults (s : State) (f : Mgmt → Mgmt) : (withMgmt s f).faults = s.faults := rfl
@[simp] theorem withMgmt_host (s : State) (f : Mgmt → Mgmt) : (withMgmt s f).host = s.host := rfl
@[simp] theorem withMgmt_mgmt (s : State) (f : Mgmt → Mgmt) : (withMgmt s f).mgmt = f s.mgmt := rfl
@[simp] theorem withMgmt_supplies (s : State) (f : Mgmt → Mgmt) : (withMgmt s f).supplies = s.supplies := rfl
@[simp] theorem withMgmt_gov (s : State) (f : Mgmt → Mgmt) : (withMgmt s f).gov = s.gov := rfl
@[simp] theorem withMgmt_life (s : State) (f : Mgmt → Mgmt) : (withMgmt s f).life = s.life := rfl
@[simp] theorem withMgmt_copyA (s : State) (f : Mgmt → Mgmt) : (withMgmt s f).copyA = s.copyA := rfl
@[simp] theorem withMgmt_copyB (s : State) (f : Mgmt → Mgmt) : (withMgmt s f).copyB = s.copyB := rfl
@[simp] theorem withMgmt_boot (s : State) (f : Mgmt → Mgmt) : (withMgmt s f).boot = s.boot := rfl

/-! withBoot changes boot alone. -/

@[simp] theorem withBoot_pending (s : State) (f : Boot → Boot) : (withBoot s f).pending = s.pending := rfl
@[simp] theorem withBoot_parts (s : State) (f : Boot → Boot) : (withBoot s f).parts = s.parts := rfl
@[simp] theorem withBoot_tiers (s : State) (f : Boot → Boot) : (withBoot s f).tiers = s.tiers := rfl
@[simp] theorem withBoot_ports (s : State) (f : Boot → Boot) : (withBoot s f).ports = s.ports := rfl
@[simp] theorem withBoot_quartz (s : State) (f : Boot → Boot) : (withBoot s f).quartz = s.quartz := rfl
@[simp] theorem withBoot_beryl (s : State) (f : Boot → Boot) : (withBoot s f).beryl = s.beryl := rfl
@[simp] theorem withBoot_noise (s : State) (f : Boot → Boot) : (withBoot s f).noise = s.noise := rfl
@[simp] theorem withBoot_grid (s : State) (f : Boot → Boot) : (withBoot s f).grid = s.grid := rfl
@[simp] theorem withBoot_faults (s : State) (f : Boot → Boot) : (withBoot s f).faults = s.faults := rfl
@[simp] theorem withBoot_host (s : State) (f : Boot → Boot) : (withBoot s f).host = s.host := rfl
@[simp] theorem withBoot_mgmt (s : State) (f : Boot → Boot) : (withBoot s f).mgmt = s.mgmt := rfl
@[simp] theorem withBoot_supplies (s : State) (f : Boot → Boot) : (withBoot s f).supplies = s.supplies := rfl
@[simp] theorem withBoot_gov (s : State) (f : Boot → Boot) : (withBoot s f).gov = s.gov := rfl
@[simp] theorem withBoot_life (s : State) (f : Boot → Boot) : (withBoot s f).life = s.life := rfl
@[simp] theorem withBoot_copyA (s : State) (f : Boot → Boot) : (withBoot s f).copyA = s.copyA := rfl
@[simp] theorem withBoot_copyB (s : State) (f : Boot → Boot) : (withBoot s f).copyB = s.copyB := rfl
@[simp] theorem withBoot_boot (s : State) (f : Boot → Boot) : (withBoot s f).boot = f s.boot := rfl

/-! withSeq changes the sequencer alone. -/

@[simp] theorem withSeq_st (f : SeqState → SeqState) (q : Partition) : (withSeq f q).st = q.st := rfl
@[simp] theorem withSeq_endReq (f : SeqState → SeqState) (q : Partition) : (withSeq f q).endReq = q.endReq := rfl
@[simp] theorem withSeq_haltAt (f : SeqState → SeqState) (q : Partition) : (withSeq f q).haltAt = q.haltAt := rfl
@[simp] theorem withSeq_waiting (f : SeqState → SeqState) (q : Partition) : (withSeq f q).waiting = q.waiting := rfl
@[simp] theorem withSeq_stepsDone (f : SeqState → SeqState) (q : Partition) : (withSeq f q).stepsDone = q.stepsDone := rfl
@[simp] theorem withSeq_endWord (f : SeqState → SeqState) (q : Partition) : (withSeq f q).endWord = q.endWord := rfl
@[simp] theorem withSeq_current (f : SeqState → SeqState) (q : Partition) : (withSeq f q).current = q.current := rfl
@[simp] theorem withSeq_job (f : SeqState → SeqState) (q : Partition) : (withSeq f q).job = q.job := rfl
@[simp] theorem withSeq_seq (f : SeqState → SeqState) (q : Partition) : (withSeq f q).seq = f q.seq := rfl
@[simp] theorem withSeq_rep (f : SeqState → SeqState) (q : Partition) : (withSeq f q).rep = q.rep := rfl
@[simp] theorem withSeq_mem (f : SeqState → SeqState) (q : Partition) : (withSeq f q).mem = q.mem := rfl
@[simp] theorem withSeq_se (f : SeqState → SeqState) (q : Partition) : (withSeq f q).se = q.se := rfl
@[simp] theorem withSeq_cl (f : SeqState → SeqState) (q : Partition) : (withSeq f q).cl = q.cl := rfl
@[simp] theorem withSeq_lk (f : SeqState → SeqState) (q : Partition) : (withSeq f q).lk = q.lk := rfl
@[simp] theorem withSeq_upd (f : SeqState → SeqState) (q : Partition) : (withSeq f q).upd = q.upd := rfl
@[simp] theorem withSeq_ck (f : SeqState → SeqState) (q : Partition) : (withSeq f q).ck = q.ck := rfl
@[simp] theorem withSeq_clusters (f : SeqState → SeqState) (q : Partition) : (withSeq f q).clusters = q.clusters := rfl
@[simp] theorem withSeq_hbm (f : SeqState → SeqState) (q : Partition) : (withSeq f q).hbm = q.hbm := rfl

end Sys2Proof.Machine
end

