-- ==== Sys2Proof/Laws/Quiet.lean ====
section
/-! SUPPORT. One issue cycle of a cluster with nothing under way: each unit that the bundle does not use stays as it is. -/

namespace Sys2Proof.Machine

@[simp] theorem satInc_zero {w : Nat} (c : BitVec w) : satInc c 0 = c := by
  unfold satInc
  have := c.isLt
  rw [Nat.add_zero, Nat.min_eq_left (by omega), BitVec.ofNat_toNat, BitVec.setWidth_eq]

theorem mapIdx_same {α : Type} (l : List α) (f : Nat → α → α) (h : ∀ i x, f i x = x) : l.mapIdx f = l := by
  apply List.ext_getElem <;> simp [h]

@[simp] theorem rwReg_none (i : Nat) (m o : Word64) : rwReg none i m o = o := rfl

theorem or_zero64 (x : Word64) : x ||| 0 = x := BitVec.or_zero

@[simp] theorem w1cReg_none (i : Nat) (m o v : Word64) : w1cReg none i m o v = o ||| v := rfl

@[simp] theorem wideReg_none {w : Nat} (b q : Nat) (m o : BitVec w) : wideReg none b q m o = o := rfl

@[simp] theorem genCycle_none (g : Nat) (a : AddrGen) : genCycle none g a = a := rfl

@[simp] theorem bitsOf_nil (f : EvKind → Nat) : bitsOf f [] = 0 := rfl

/-- Without a control-register write every control register stands. -/
theorem regsWritten_none (c : ClusterCore)
    (h : (if c.dma.status.getLsbD 5 then c.dma.status else c.dma.status &&& 0x7F) = c.dma.status) : regsWritten none c = c := by
  have e : dmaRegs none 0 c.dma = c.dma := by
    unfold dmaRegs
    simp only [w1cReg_none, or_zero64, h, wideReg_none, mapIdx_same _ _ (fun _ _ => rfl)]
  simp only [regsWritten, e, w1cReg_none, rwReg_none, wideReg_none, genCycle_none, or_zero64,
    mapIdx_same _ _ (fun _ _ => rfl)]

/-- The feed path with nothing under way and no feed operation. -/
theorem feedCycle_quiet (env : Env) (c : ClusterCore) (rs : List (Acc × List Byte)) (co : Option Int) (lm : Option Nat)
    (q : Quiet c) (h : env.b.fdOp = .nop) (h1 : readOf rs .streamRec env.u = []) (h2 : readOf rs .statRec env.u = []) :
    feedCycle env c rs co lm = { streams := [], stats := [], vec := none, stat := none, strm := {}, stary := {}, inherited := 0,
                                 invalid := 0, evs := [] } := by
  simp [feedCycle, newStream, newStat, h, h1, h2, q.streams, q.stats, cutStreams, cutStats, leNat]

/-- Feed accesses with nothing under way and no feed operation. -/
theorem feedAccs_quiet (env : Env) (c : ClusterCore) (q : Quiet c) (h : env.b.fdOp = .nop) : feedAccs env c = [] := by
  simp [feedAccs, newStream, newStat, h, q.streams, q.stats]

/-- No vector enters a quiet array without a pass. -/
theorem entryCycle_quiet (env : Env) (c : ClusterCore) (v : Option (VecItem × Nat)) (q : Quiet c) (h : env.b.arrOp = .nop) :
    entryCycle env c v = { entered := none, used := false, judged := none, evs := [] } := by
  simp [entryCycle, enteringPass, passesNow, newPass, h, q.passes]

/-- A quiet array without an array or accumulator operation changes its control registers alone. -/
theorem arrayCycle_quiet (env : Env) (c : ClusterCore) (w : Cwr) (crd : Option Nat) (q : Quiet c) (h : env.b.arrOp = .nop)
    (ha : env.b.accOp ≠ .reserved) :
    arrayCycle env c { streams := [], stats := [], vec := none, stat := none, strm := {}, stary := {}, inherited := 0, invalid := 0,
                       evs := [] } w crd =
      ({ (regsWritten w c).array with gangPerr := if crd = some 0x107 then 0 else c.array.gangPerr }, []) := by
  simp [arrayCycle, entryCycle_quiet, q, h, ha, loadNow, newLoad, q.load, loadSets, loadNext, loadDone, arrayEvs, newPass, passesNow,
    q.passes, q.entered, q.flights, q.fwd, b2n, regsWritten]

/-- A quiet accumulator store without an operation changes its control registers alone. -/
theorem accumCycle_quiet (env : Env) (c : ClusterCore) (w : Cwr) (q : Quiet c) (h : env.b.accOp = .none) :
    accumCycle env c w = ((regsWritten w c).accum, []) := by
  simp [accumCycle, rowsDue, drainNow, retireStraddles, h, q.flights, q.drain, q.deliver, b2n, regsWritten]

/-- No store is decided while none is under way. -/
theorem storesDecided_quiet (env : Env) (c : ClusterCore) (sram : Mem 8) (held : List (Nat × Nat × Nat)) (l : List Acc)
    (q : Quiet c) : storesDecided env c sram held l = [] := by
  simp [storesDecided, q.stores]

/-- The store path with nothing under way and no store. -/
theorem storeCycle_quiet (env : Env) (c : ClusterCore) (rs : List (Acc × List Byte)) (h : env.b.stOp = .nop) :
    storeCycle env c [] rs = { stores := [], cnt := {}, committed := false, srRows := 0, placed := none, ended := [], host := [],
                               remote := [], overrun := 0, invalid := 0, refused := 0, evs := [] } := by
  simp [storeCycle, storesKept, newStore, h, b2n]

/-- The feed and store registers with nothing under way. -/
theorem convCycle_quiet (c : ClusterCore) (w : Cwr) (q : Quiet c) :
    convCycle w c.conv { streams := [], stats := [], vec := none, stat := none, strm := {}, stary := {}, inherited := 0, invalid := 0,
                         evs := [] }
      { stores := [], cnt := {}, committed := false, srRows := 0, placed := none, ended := [], host := [], remote := [],
        overrun := 0, invalid := 0, refused := 0, evs := [] } [] = (regsWritten w c).conv := by
  simp [convCycle, regsWritten, q.streams, q.stats, q.stores]

/-- The vector unit with nothing in flight and no vector operation. -/
theorem vecCycle_quiet (env : Env) (c : ClusterCore) (d : List StoreOp) (rs : List (Acc × List Byte)) (w : Cwr) (q : Quiet c)
    (h : env.b.vOp = .nop) : vecCycle env c d rs w = ((regsWritten w c).vec, []) := by
  simp [vecCycle, newVec, vecCollides, vrandOutcome, vecWriteRegs, h, q.flight, b2n, regsWritten]

/-- Opal with no reservation and no VRAND, stochastic store or seed. -/
theorem opalCycle_quiet (env : Env) (c : ClusterCore) (st : StoreOut) (w : Cwr) (q : Quiet c) (h : env.b.vOp ≠ .vrand)
    (h1 : st.refused = 0) (h2 : st.srRows = 0) : opalCycle env c [] st false w = (regsWritten w c).opal := by
  simp [opalCycle, vrandOutcome, resvNow, storesKept, h, h1, h2, q.resv, b2n, regsWritten]

/-- The DMA engine without a DMA operation or a wait. -/
theorem dmaCycle_quiet (env : Env) (c : ClusterCore) (sram : Mem 8) (j : SramJournal) (w : Cwr) (h : env.b.dmOp = .nop)
    (hw : env.b.waits = []) :
    dmaCycle env c sram j w =
      { port := { dma := (regsWritten w c).dma, sram := sram, journal := j, evs := [] }, outs := [], seed := false } := by
  simp [dmaCycle, dmNow, waitLists, h, hw, regsWritten, mapIdx_same]

/-- Spot-checks while nothing enters the array and no results are under way. -/
theorem spotCycle_quiet (env : Env) (c : ClusterCore) (s : SpotSample) (a : ArrayUnit) (q : Quiet c) (h : a.flights = []) :
    spotCycle env c s { entered := none, used := false, judged := none, evs := [] } a = (s, false, false) := by
  simp [spotCycle, h, q.entered]
  rcases s with ⟨n, _ | k⟩
  · rfl
  · rcases k with ⟨j, p, _ | st, i, r, f⟩ <;> rfl

/-- No held queue entry changes while no store ends. -/
@[simp] theorem hbmqEnd_nil (l : List HbmOp) : hbmqEnd [] l = l := by
  unfold hbmqEnd
  rw [List.map_congr_left (g := id), List.map_id]
  intro o _
  cases o <;> rfl

end Sys2Proof.Machine
end

