-- ==== Sys2Proof/Laws/Calm.lean ====
section
/-! SUPPORT. A slot command on a calm partition: its bundle issues in the CCLK that passes, and the next state is known from what the
issue cycle does to each cluster. -/

namespace Sys2Proof.Machine

/-- Partition p of the state with the bundle supplied. -/
theorem part_supplied {s : State} {p : Nat} (b : Bundle) (h : p < s.parts.length) :
    part (supplied s p b) p = withSeq (fun x => { x with stream := x.stream ++ [b] }) (part s p) :=
  part_withPart s p _ h

/-! What a cluster sees in the issue cycle of a supplied bundle. -/

@[simp] theorem envAt_b (s : State) (p : Nat) (b : Bundle) (evs : List Ev) (i : Nat) : (envAt s p b evs i).b = b := rfl
@[simp] theorem envAt_pc (s : State) (p : Nat) (b : Bundle) (evs : List Ev) (i : Nat) :
    (envAt s p b evs i).pc = (part s p).seq.next := rfl
@[simp] theorem envAt_seqEvs (s : State) (p : Nat) (b : Bundle) (evs : List Ev) (i : Nat) : (envAt s p b evs i).seqEvs = evs := rfl

theorem envAt_u {s : State} {p : Nat} (b : Bundle) (evs : List Ev) (i : Nat) (h : p < s.parts.length) :
    (envAt s p b evs i).u = (part s p).seq.ic := by simp only [envAt, envOf]; rw [part_supplied b h]; rfl
theorem envAt_cclk {s : State} {p : Nat} (b : Bundle) (evs : List Ev) (i : Nat) (h : p < s.parts.length) :
    (envAt s p b evs i).cclk = (part s p).seq.cclk := by simp only [envAt, envOf]; rw [part_supplied b h]; rfl
theorem envAt_step {s : State} {p : Nat} (b : Bundle) (evs : List Ev) (i : Nat) (h : p < s.parts.length) :
    (envAt s p b evs i).step = (part s p).seq.step := by simp only [envAt, envOf]; rw [part_supplied b h]; rfl
theorem envAt_debug {s : State} {p : Nat} (b : Bundle) (evs : List Ev) (i : Nat) (h : p < s.parts.length) :
    (envAt s p b evs i).debug = (part s p).job.debug := by simp only [envAt, envOf]; rw [part_supplied b h]; rfl
theorem envAt_seed {s : State} {p : Nat} (b : Bundle) (evs : List Ev) (i : Nat) (h : p < s.parts.length) :
    (envAt s p b evs i).seed = jobSeed (part s p).job.seed := by simp only [envAt, envOf]; rw [part_supplied b h]; rfl
theorem envAt_spot {s : State} {p : Nat} (b : Bundle) (evs : List Ev) (i : Nat) (h : p < s.parts.length) :
    (envAt s p b evs i).spot = (part s p).se.ctrlEff.toNat.testBit 0 := by simp only [envAt, envOf]; rw [part_supplied b h]; rfl

theorem settleOwed_none {s : State} {p : Nat} (h : (part s p).seq.owed = []) : settleOwed s p = s := by
  simp [settleOwed, h]

theorem beginStep_begun {s : State} {p : Nat} (h : (part s p).seq.begun = true) : beginStep s p = s := by
  simp [beginStep, h]

theorem absentItems_none (q : Partition) {b : Bundle} (h : b.waits = []) : absentItems q b = [] := by
  simp [absentItems, h]

theorem poisonedWait_none (q : Partition) {b : Bundle} (h : b.waits = []) : poisonedWait q b = none := by
  simp [poisonedWait, h]

theorem strictTrap_none (s : State) (p : Nat) {b : Bundle} (h : b.dmOp = .nop) : strictTrap s p b = none := by
  simp [strictTrap, h]

theorem countTd_none (s : State) (p : Nat) {b : Bundle} (h : b.dmOp = .nop) : countTd s p b = s := by
  simp [countTd, h]

theorem noteFreeze_none {s : State} {p : Nat} (h : (part s p).job.debug = true → ∀ c ∈ (part s p).clusters, c.trap.valid = false) :
    noteFreeze s p = s := by
  unfold noteFreeze
  by_cases hd : (part s p).job.debug = true
  · have : (part s p).clusters.any (fun c => c.trap.valid) = false := by
      simp only [List.any_eq_false]
      intro c hc; rw [h hd c hc]; simp
    simp [this]
  · simp [hd]

theorem noteUnreplayable_none {s : State} {p : Nat} (h : (part s p).se.unreplayable = false) (hj : (part s p).se.hjBytesEff ≠ 0)
    (hr : ∀ c ∈ (part s p).clusters, c.journal.full = false) : noteUnreplayable s p = s := by
  have e : (part s p).clusters.any (fun c => c.journal.full) = false := by
    simp only [List.any_eq_false]
    intro c hc; rw [hr c hc]; simp
  have e2 : decide ((part s p).se.hjBytesEff = 0) = false := decide_eq_false hj
  unfold noteUnreplayable
  simp only [h, e, e2, Bool.or_false, Bool.not_false, Bool.or_true, if_true]

theorem foldl_id {α β : Type} (l : List α) (g : β → α → β) (b : β) (h : ∀ x ∈ l, g b x = b) : l.foldl g b = b := by
  induction l with
  | nil => rfl
  | cons x t ih => rw [List.foldl_cons, h x (by simp)]; exact ih (fun y hy => h y (by simp [hy]))

/-- Is a queued HBM operation the place of a store. -/
def storePlace (o : HbmOp) : Bool := match o with | .store _ => true | _ => false

theorem drainOps_places (p l : Nat) (c : ConvUnit) (ops kept : List HbmOp) (s : State) (h : ∀ o ∈ ops, storePlace o = true) :
    drainOps p l c ops kept s = (s, kept ++ ops) := by
  induction ops generalizing kept with
  | nil => simp [drainOps]
  | cons o t ih =>
    have ho := h o (by simp)
    cases o <;> simp [storePlace] at ho
    simp only [drainOps, if_true]
    rw [ih _ (fun x hx => h x (by simp [hx]))]
    simp

theorem drainAll_none {s : State} {p : Nat}
    (h : ∀ c ∈ (part s p).clusters, ∀ o ∈ c.core.dma.hbmq, storePlace o = true) : drainAll s p = s := by
  unfold drainAll
  apply foldl_id
  intro l hl
  have hl := List.mem_range.1 hl
  unfold drainHbm
  have e := h ((part s p).clusters.getD l clusterReset)
    (by rw [List.getD_eq_getElem _ _ hl]; exact List.getElem_mem hl)
  simp only []
  split
  · rfl
  · rw [drainOps_places p l _ _ [] s e]
    simp only [List.nil_append]
    unfold withDma
    rw [withPart_congr s p _ (fun q => q)]
    · exact withPart_id s p
    · have : updAt (part s p).clusters l (fun c => { c with core := { c.core with dma := { c.core.dma with
          hbmq := ((part s p).clusters.getD l clusterReset).core.dma.hbmq } } }) = updAt (part s p).clusters l (fun c => c) :=
        updAt_congr _ l _ _ clusterReset rfl
      rw [this, updAt_id]

theorem dispatch_none {p : Nat} (l : List CycleOut) (n : Nat) (s : State) (h : ∀ o ∈ l, o.outs = []) :
    (l.zipIdx n).foldl (fun t e => e.1.outs.foldl (dispatchOut p e.2) t) s = s := by
  apply foldl_id
  intro x hx
  rw [h x.1 (List.fst_mem_of_mem_zipIdx hx)]
  rfl

/-- A supplied bundle on a calm partition that no item, poison, debug trap or STRICT trap stops issues. -/
theorem runTick_calm {s : State} {p : Nat} {b : Bundle} (h : Calm s p) (hw : absentItems (part s p) b = [])
    (hx : poisonedWait (part s p) b = none) (hb : b.brk = false) (ht : strictTrap (supplied s p b) p b = none) (hop : ∀ halt, (ctlNow (part s p).seq (part s p).seq.next b).1 ≠ .stepEnd halt) :
    slotTick p b s =
      { issueBundle (supplied s p b) p (part s p).seq.next b with
        gov :=
          { (issueBundle (supplied s p b) p (part s p).seq.next b).gov with
            settle := (settleTick [p] s).gov.settle, suppress := (settleTick [p] s).gov.suppress } } := by
  have hpart := part_supplied b h.lt
  have hnext : nextBundle (part (supplied s p b) p).seq = b := by
    simp [hpart, withSeq, nextBundle, h.stream]
  have hw' : absentItems (part (supplied s p b) p) b = [] := by rw [hpart]; exact hw
  have hx' : poisonedWait (part (supplied s p b) p) b = none := by rw [hpart]; exact hx
  have hctl : ctlNow (part (supplied s p b) p).seq (part (supplied s p b) p).seq.next b =
      ctlNow (part s p).seq (part s p).seq.next b := by rw [hpart]; rfl
  have hedge : isBoundary (part (supplied s p b) p).seq b = false := by
    unfold isBoundary; rw [hctl]; split
    · exact absurd (by assumption) (hop _)
    · rfl
  have hsup : suppressedNow (supplied s p b) (part (supplied s p b) p) = false := by
    rw [hpart]; exact h.power
  have hh : holdsNow (supplied s p b) p false = [] := by
    unfold holdsNow
    simp only [hsup, Bool.false_and, Bool.false_eq_true, if_false, List.nil_append]
    rw [hpart]
    have := h.hold13
    simp only [withSeq, this]
    rfl
  have hrun : (part (supplied s p b) p).st = .running := by rw [hpart]; exact h.run
  have htick : partTick (supplied s p b) p = issueBundle (supplied s p b) p (part s p).seq.next b := by
    have hclk : cclkSteps (supplied s p b) = cclkSteps s := rfl
    have hrd : readyBundle (supplied s p b) p b = issueBundle (supplied s p b) p (part s p).seq.next b := by
      unfold readyBundle
      simp only [hx', hb, ht, hedge]
      rw [hpart]; rfl
    have hru : runTick (supplied s p b) p = issueBundle (supplied s p b) p (part s p).seq.next b := by
      unfold runTick
      rw [settleOwed_none (by rw [hpart]; exact h.owed)]
      simp only [hnext, hedge, hh, hw', Bool.false_eq_true, if_false, List.append_nil]
      exact hrd
    unfold partTick
    have h0 : (part (supplied s p b) p).seq.frozen = false := by rw [hpart]; exact h.frozen
    have h1 : (part (supplied s p b) p).seq.freezeAt = none := by rw [hpart]; exact h.freezeAt
    have h2 : (part (supplied s p b) p).se.asked = false := by rw [hpart]; exact h.asked
    have h3 : (part (supplied s p b) p).se.replaying = false := by rw [hpart]; exact h.replaying
    have h4 : (part (supplied s p b) p).waiting = false := by rw [hpart]; exact h.waiting
    simp only [hrun, hclk, h.clk, h0, h1, h2, h3, h4, hru]
    simp
  unfold slotTick
  rw [if_neg (by simp [h.run])]
  simp only [show withPart s p (withSeq fun x => { x with stream := x.stream ++ [b] }) = supplied s p b from rfl, htick]

theorem loopTurn_eq (a : Nat) (l : List LoopEnt) : loopEnds a l = loopTurn a l := by
  induction l with
  | nil => rfl
  | cons e t ih =>
    simp only [loopEnds, loopTurn, ih]
    by_cases h : e.last = a
    · simp [h, Nat.succ_le_iff]
    · simp [h]

theorem plainAt_eq (cls : List Cluster) (a : Nat) (x : SeqState) : bumpCycle (seqAfter cls a .nop x) = plainAt a x := by
  have e : seqNext x a .nop = plainNext x a := by
    unfold seqNext plainNext
    simp only [loopTurn_eq]
    cases x.votes.find? (fun v => v.u + 2 = x.ic && v.taken) with
    | some v => rfl
    | none => cases (loopTurn a x.loops.reverse).1 <;> rfl
  simp only [bumpCycle, seqAfter, plainAt, issuedSeq, openVotes, e]

theorem plainSeq_eq (cls : List Cluster) (x : SeqState) : bumpCycle (seqAfter cls x.next .nop x) = plainSeq x :=
  plainAt_eq cls x.next x

theorem countTrue_none {l : List Bool} (h : ∀ b ∈ l, b = false) : countTrue l = 0 := by
  unfold countTrue
  exact foldl_id l _ 0 (by intro b hb; rw [h b hb]; rfl)

/-- A cluster's cycle that hands nothing out and concerns no sample. -/
def quietOut (c : Cluster) (evs : List Ev) : CycleOut := { cl := c, outs := [], evs := evs, clash := false, skipped := false }

/-- One bundle on a calm partition, from what its issue cycle does to each cluster. -/
theorem slotTick_calm {s : State} {p : Nat} {b : Bundle} (h : Calm s p) (hw : absentItems (part s p) b = [])
    (hx : poisonedWait (part s p) b = none) (hb : b.brk = false) (hd : b.dmOp = .nop) (op : CtlOp) (sev : List Ev)
    (hop : ctlNow (part s p).seq (part s p).seq.next b = (op, sev)) (hne : ∀ halt, op ≠ .stepEnd halt)
    (f : Nat → Cluster → Cluster) (evs : Nat → Cluster → List Ev)
    (hf : ∀ i c, (part s p).clusters[i]? = some c →
      clusterCycle (envAt s p b sev i) c = quietOut (f i c) (evs i c))
    (hq : ∀ i c, (part s p).clusters[i]? = some c → (∀ o ∈ (f i c).core.dma.hbmq, storePlace o = true) ∧ (f i c).journal.full = false ∧
      ((part s p).job.debug = true → (f i c).trap.valid = false)) :
    slotTick p b s =
      ranBundle s p f (fun x => bumpCycle (seqAfter ((part s p).clusters.mapIdx f) x.next op x)) := by
  have hpart := part_supplied b h.lt
  have hout : clustersCycle (supplied s p b) p (part s p).seq.next b sev =
      (part s p).clusters.mapIdx (fun i c => quietOut (f i c) (evs i c)) := by
    unfold clustersCycle
    rw [hpart]
    apply List.ext_getElem?
    intro i
    simp only [withSeq_clusters, List.getElem?_mapIdx]
    cases hc : (part s p).clusters[i]? with
    | none => rfl
    | some c => simp only [Option.map_some]; rw [← hf i c hc]; rfl
  have hmem : ∀ c ∈ (part s p).clusters.mapIdx f, (∀ o ∈ c.core.dma.hbmq, storePlace o = true) ∧ c.journal.full = false ∧
      ((part s p).job.debug = true → c.trap.valid = false) := by
    intro c hc
    obtain ⟨i, hi, rfl⟩ := List.mem_mapIdx.1 hc
    exact hq i _ (by simp [hi])
  rw [runTick_calm h hw hx hb (strictTrap_none _ _ hd) (by rw [hop]; exact hne)]
  have hbeg : beginStep (supplied s p b) p = supplied s p b := beginStep_begun (by rw [hpart]; exact h.begun)
  have hctl : ctlNow (part (supplied s p b) p).seq (part s p).seq.next b = (op, sev) := by rw [hpart]; exact hop
  generalize hO : ((part s p).clusters.mapIdx (fun i c => quietOut (f i c) (evs i c))) = O at hout
  have hcl : O.map (·.cl) = (part s p).clusters.mapIdx f := by rw [← hO]; apply List.ext_getElem <;> simp [quietOut]
  have ho : ∀ o ∈ O, o.outs = [] ∧ o.clash = false ∧ o.skipped = false := by
    intro o hoo; rw [← hO] at hoo
    obtain ⟨i, hi, rfl⟩ := List.mem_mapIdx.1 hoo
    exact ⟨rfl, rfl, rfl⟩
  have hclash : O.any (·.clash) = false := by
    simp only [List.any_eq_false]
    intro o hoo; rw [(ho o hoo).2.1]; simp
  have hskip : countTrue (O.map (·.skipped)) = 0 :=
    countTrue_none (by intro x hx; obtain ⟨o, ho', rfl⟩ := List.mem_map.1 hx; exact (ho o ho').2.2)
  have hpeak : ∀ n, O.foldl (fun n o => max n o.cl.journal.lines.length) n =
      ((part s p).clusters.mapIdx f).foldl (fun n c => max n c.journal.lines.length) n := by
    intro n; rw [← hcl, List.foldl_map]
  have htake : takeCycle (supplied s p b) p O =
      withPart (supplied s p b) p (fun q => { q with clusters := O.map (·.cl), se := noteCycle O q.se }) := by
    unfold takeCycle
    have hlt : p < (supplied s p b).parts.length := by simpa [supplied, updAt_length] using h.lt
    have hp1 := part_withPart (supplied s p b) p (fun q => { q with clusters := O.map (·.cl), se := noteCycle O q.se }) hlt
    simp only [dispatch_none O 0 _ (fun o hoo => (ho o hoo).1)]
    rw [drainAll_none (by rw [hp1, hcl]; exact fun c hc => (hmem c hc).1),
      noteFreeze_none (by rw [hp1, hcl, hpart]; exact fun hdg c hc => (hmem c hc).2.2 hdg),
      noteUnreplayable_none (by rw [hp1, hpart]; exact h.replayable) (by rw [hp1, hpart]; exact h.hj)
        (by rw [hp1, hcl]; exact fun c hc => (hmem c hc).2.1)]
  have hissue : issueBundle (supplied s p b) p (part s p).seq.next b =
      withPart (withPart (supplied s p b) p (fun q => { q with clusters := O.map (·.cl), se := noteCycle O q.se })) p
        (withSeq (fun x => bumpCycle { seqAfter (O.map (·.cl)) (part s p).seq.next op x with stream := x.stream.drop 1 })) := by
    unfold issueBundle
    simp only [hbeg, hctl, hout, hclash, Bool.false_eq_true, if_false, countTd_none _ _ hd, htake]
  rw [hissue]
  unfold ranBundle supplied
  simp only [withPart_withPart]
  rw [withPart_congr s p _ (fun q =>
    { q with
      clusters := (part s p).clusters.mapIdx f,
      seq := bumpCycle (seqAfter ((part s p).clusters.mapIdx f) q.seq.next op q.seq),
      se := { q.se with sjPeak := BitVec.ofNat 32 (((part s p).clusters.mapIdx f).foldl
        (fun n c => max n c.journal.lines.length) q.se.sjPeak.toNat) } })]
  · rfl
  · simp only [withSeq, noteCycle, hskip, satInc_zero, hpeak, hcl, h.stream]
    simp [bumpCycle, seqAfter, seqNext, h.stream]

end Sys2Proof.Machine
end

