-- ==== Sys2Proof/Laws/Shape.lean ====
section
/-! SUPPORT. What almost every operation leaves as it is: the waiting commands, Onyx, and how many partitions, ports, functions and
collectors there are. The lemmas of the files Shape… say it of each operation, and later proofs cite them. -/

namespace Sys2Proof.Machine

/-- The parts of a state that almost no operation changes. -/
structure Shape where
  /-- Waiting commands. -/
  pend : List Instr
  /-- Onyx. -/
  fuse : Mem 8
  /-- Partitions. -/
  parts : Nat
  /-- Ports. -/
  ports : Nat
  /-- Functions. -/
  fns : Nat
  /-- Collectors. -/
  coll : Nat

/-- The shape of a state. -/
def shapeOf (s : State) : Shape :=
  ⟨s.pending, s.boot.fuse, s.parts.length, s.ports.length, s.host.fns.length, s.mgmt.coll.length⟩

theorem pend_shape (s : State) : s.pending = (shapeOf s).pend := rfl
theorem fuse_shape (s : State) : s.boot.fuse = (shapeOf s).fuse := rfl
theorem parts_shape (s : State) : s.parts.length = (shapeOf s).parts := rfl
theorem ports_shape (s : State) : s.ports.length = (shapeOf s).ports := rfl
theorem fns_shape (s : State) : s.host.fns.length = (shapeOf s).fns := rfl
theorem coll_shape (s : State) : s.mgmt.coll.length = (shapeOf s).coll := rfl

/-- The shape of a state that is written out. -/
theorem shape_mk (a : List Instr) (b : List Partition) (c : Tiers) (d : List LkPort) (e : Quartz) (f : Beryl) (g : Noise) (h : Grid)
    (i : Faults) (j : HostSide) (k : Mgmt) (l : Supplies) (m : Governor) (n : Life) (o q : Option LifeCopy) (r : Boot) :
    shapeOf ⟨a, b, c, d, e, f, g, h, i, j, k, l, m, n, o, q, r⟩ =
      ⟨a, r.fuse, b.length, d.length, j.fns.length, k.coll.length⟩ := rfl

/-- The fixed sizes of a module. -/
def shapeOk (x : Shape) : Prop := x.parts = 12 ∧ x.ports = 24 ∧ x.fns = 13 ∧ x.coll = 4

/-- The invariant is a matter of the shape. -/
theorem inv_iff (s : State) : Inv s ↔ shapeOk (shapeOf s) ∧ onyxOk (shapeOf s).fuse = true := by
  simp only [Inv, shapeOk, shapeOf, and_assoc]

/-- What a loop's body keeps, the loop keeps. -/
theorem foldl_keeps {α β γ : Type} (f : β → γ) (l : List α) (g : β → α → β) (b : β) (h : ∀ b x, f (g b x) = f b) :
    f (l.foldl g b) = f b := by
  induction l generalizing b with
  | nil => rfl
  | cons x t ih => rw [List.foldl_cons, ih, h]

/-- A loop whose body keeps the shape keeps it. -/
@[simp] theorem foldl_shape {α : Type} (l : List α) (g : State → α → State) (s : State)
    (h : ∀ t x, shapeOf (g t x) = shapeOf t) : shapeOf (l.foldl g s) = shapeOf s := by
  induction l generalizing s with
  | nil => rfl
  | cons x t ih => simp [ih, h]

/-- A loop that carries a state first and whose body keeps its shape keeps it. -/
@[simp] theorem foldl_shape_fst {α β : Type} (l : List α) (g : State × β → α → State × β) (b : State × β)
    (h : ∀ b x, shapeOf (g b x).1 = shapeOf b.1) : shapeOf (l.foldl g b).1 = shapeOf b.1 :=
  foldl_keeps (fun x => shapeOf x.1) l g b h

/-- A loop that carries a state second and whose body keeps its shape keeps it. -/
@[simp] theorem foldl_shape_snd {α β : Type} (l : List α) (g : β × State → α → β × State) (b : β × State)
    (h : ∀ b x, shapeOf (g b x).2 = shapeOf b.2) : shapeOf (l.foldl g b).2 = shapeOf b.2 :=
  foldl_keeps (fun x => shapeOf x.2) l g b h

/-- A loop from the right whose body keeps the shape keeps it. -/
@[simp] theorem foldr_shape {α : Type} (l : List α) (g : α → State → State) (s : State)
    (h : ∀ x t, shapeOf (g x t) = shapeOf t) : shapeOf (l.foldr g s) = shapeOf s := by
  induction l with
  | nil => rfl
  | cons x t ih => simp [ih, h]

@[simp] theorem ite_shape (c : Prop) [Decidable c] (a b : State) :
    shapeOf (if c then a else b) = if c then shapeOf a else shapeOf b := apply_ite shapeOf c a b

@[simp] theorem cond_shape (c : Bool) (a b : State) : shapeOf (bif c then a else b) = bif c then shapeOf a else shapeOf b := by
  cases c <;> rfl

@[simp] theorem ite_shape_fst {β : Type} (c : Prop) [Decidable c] (a b : State × β) :
    shapeOf (if c then a else b).1 = if c then shapeOf a.1 else shapeOf b.1 := by split <;> rfl

@[simp] theorem ite_shape_snd {β : Type} (c : Prop) [Decidable c] (a b : β × State) :
    shapeOf (if c then a else b).2 = if c then shapeOf a.2 else shapeOf b.2 := by split <;> rfl

/-- An outcome that keeps the shape of a state, where it goes on. -/
def KeepsShape (s : State) (o : Out) : Prop := ∀ t, o = .next t → shapeOf t = shapeOf s

@[simp] theorem keeps_next (s t : State) : KeepsShape s (.next t) ↔ shapeOf t = shapeOf s :=
  ⟨fun h => h t rfl, fun h _ e => by injection e with e; rw [← e]; exact h⟩

@[simp] theorem keeps_fault (s : State) (r : Fault) : KeepsShape s (.fault r) ↔ True := ⟨fun _ => trivial, fun _ _ e => by cases e⟩

@[simp] theorem keeps_onUnit (s t : State) (b : Bool) : KeepsShape s (onUnit b t) ↔ (b = true → shapeOf t = shapeOf s) := by
  cases b <;> simp [onUnit]

@[simp] theorem keeps_ite (s : State) (c : Prop) [Decidable c] (a b : Out) :
    KeepsShape s (if c then a else b) ↔ (c → KeepsShape s a) ∧ (¬ c → KeepsShape s b) := by
  split <;> simp_all

end Sys2Proof.Machine
end

