-- ==== Sys2Proof/Laws/ShapeOps.lean ====
section
/-! SUPPORT. The operations of Machine/Ops.lean keep the shape of the state. -/

namespace Sys2Proof.Machine

set_option linter.unusedSimpArgs false
set_option simprocs false

theorem onUnit_shape (ok : Bool) (t : State) : KeepsShape t (onUnit ok t) := by
  unfold onUnit
  simp only [implies_true, ↓keeps_ite, ↓keeps_next, ↓keeps_fault, and_self]

@[simp] theorem withPart_shape (s : State) (p : Nat) (f : Partition → Partition) : shapeOf (withPart s p f) = shapeOf s := by
  unfold withPart
  simp only [↓shape_mk, ↓pend_shape, ↓fuse_shape, ↓parts_shape, ↓ports_shape, ↓fns_shape, ↓coll_shape, updAt_length]

@[simp] theorem withFn_shape (s : State) (k : Nat) (f : Fn → Fn) : shapeOf (withFn s k f) = shapeOf s := by
  unfold withFn
  simp only [↓shape_mk, ↓pend_shape, ↓fuse_shape, ↓parts_shape, ↓ports_shape, ↓fns_shape, ↓coll_shape, updAt_length]

@[simp] theorem advanceFrac_shape (s : State) (d : Nat) : shapeOf (advanceFrac s d) = shapeOf s := by
  unfold advanceFrac
  simp only [↓shape_mk, ↓pend_shape, ↓fuse_shape, ↓parts_shape, ↓ports_shape, ↓fns_shape, ↓coll_shape]

@[simp] theorem advance_shape (s : State) (dt : Word64) : shapeOf (advance s dt) = shapeOf s := by
  unfold advance
  simp only [↓advanceFrac_shape]

@[simp] theorem hostWrite_shape (s : State) (a : Nat) (d : List Byte) : shapeOf (hostWrite s a d) = shapeOf s := by
  unfold hostWrite
  simp only [↓shape_mk, ↓pend_shape, ↓fuse_shape, ↓parts_shape, ↓ports_shape, ↓fns_shape, ↓coll_shape]

@[simp] theorem holdWrite_shape (s : State) (w : HostWrite) : shapeOf (holdWrite s w) = shapeOf s := by
  unfold holdWrite
  simp only [↓shape_mk, ↓pend_shape, ↓fuse_shape, ↓parts_shape, ↓ports_shape, ↓fns_shape, ↓coll_shape]

@[simp] theorem toHost_shape (s : State) (a : Nat) (d : List Byte) : shapeOf (toHost s a d) = shapeOf s := by
  unfold toHost
  simp only [↓ite_shape, ite_self, ↓holdWrite_shape, ↓hostWrite_shape]

@[simp] theorem raiseVector_shape (s : State) (k v : Nat) : shapeOf (raiseVector s k v) = shapeOf s := by
  unfold raiseVector
  simp only [↓shape_mk, ↓pend_shape, ↓fuse_shape, ↓parts_shape, ↓ports_shape, ↓fns_shape, ↓coll_shape, ↓ite_shape, ite_self,
    ↓withFn_shape]

@[simp] theorem ringEvent_shape (k : Nat) (e : EvRec) (s : State) : shapeOf (ringEvent k e s) = shapeOf s := by
  unfold ringEvent
  simp only [↓shape_mk, ↓pend_shape, ↓fuse_shape, ↓parts_shape, ↓ports_shape, ↓fns_shape, ↓coll_shape, ↓ite_shape, ite_self,
    ↓hostWrite_shape, ↓raiseVector_shape, ↓withFn_shape]

@[simp] theorem hostEvent_shape (s : State) (e : EvRec) : shapeOf (hostEvent s e) = shapeOf s := by
  unfold hostEvent
  simp only [↓ite_shape, ite_self, implies_true, ↓foldl_shape, ↓holdWrite_shape, ↓ringEvent_shape]

@[simp] theorem countMissed_length (owed : BitVec 4) (cs : List Collector) :
    (countMissed owed cs).length = cs.length := by simp [countMissed]

@[simp] theorem mgmtEvent_shape (s : State) (e : EvRec) : shapeOf (mgmtEvent s e) = shapeOf s := by
  unfold mgmtEvent
  simp only [↓shape_mk, ↓pend_shape, ↓fuse_shape, ↓parts_shape, ↓ports_shape, ↓fns_shape, ↓coll_shape, ↓ite_shape, ite_self,
    countMissed_length]

@[simp] theorem lifeEvent_shape (s : State) (e : EvRec) : shapeOf (lifeEvent s e) = shapeOf s := by
  unfold lifeEvent
  simp only [↓shape_mk, ↓pend_shape, ↓fuse_shape, ↓parts_shape, ↓ports_shape, ↓fns_shape, ↓coll_shape, ↓ite_shape, ite_self]

@[simp] theorem sendEvent_shape (s : State) (src : EvSrc) (p code detail : Nat) :
    shapeOf (sendEvent s src p code detail) = shapeOf s := by
  unfold sendEvent
  simp only [↓ite_shape, ite_self, ↓hostEvent_shape, ↓lifeEvent_shape, ↓mgmtEvent_shape]

@[simp] theorem setHealth_shape (s : State) (h : Health) : shapeOf (setHealth s h) = shapeOf s := by
  unfold setHealth
  simp only [↓shape_mk, ↓pend_shape, ↓fuse_shape, ↓parts_shape, ↓ports_shape, ↓fns_shape, ↓coll_shape]

@[simp] theorem addHealth_shape (s : State) (u : EvSrc) (w : Nat) : shapeOf (addHealth s u w).1 = shapeOf s := by
  unfold addHealth
  repeat' first
    | with_reducible rfl
    | simp only [↓shape_mk, ↓pend_shape, ↓fuse_shape, ↓parts_shape, ↓ports_shape, ↓fns_shape, ↓coll_shape, ↓ite_shape, ite_self,
    List.length_map, ↓sendEvent_shape, ↓setHealth_shape]
    | refine (foldl_shape _ _ _ fun t x => ?_).trans ?_
    | split

@[simp] theorem spareWarn_shape (s : State) : shapeOf (spareWarn s) = shapeOf s := by
  unfold spareWarn
  simp only [↓shape_mk, ↓pend_shape, ↓fuse_shape, ↓parts_shape, ↓ports_shape, ↓fns_shape, ↓coll_shape, ↓ite_shape, ite_self,
    ↓sendEvent_shape]

@[simp] theorem twReturn_shape (s : State) : shapeOf (twReturn s) = shapeOf s := by
  unfold twReturn
  repeat' first
    | with_reducible rfl
    | simp only [↓shape_mk, ↓pend_shape, ↓fuse_shape, ↓parts_shape, ↓ports_shape, ↓fns_shape, ↓coll_shape]
    | refine (foldl_shape _ _ _ fun t x => ?_).trans ?_
    | split

@[simp] theorem twDone_shape (s : State) (l : Nat) : shapeOf (twDone s l) = shapeOf s := by
  unfold twDone
  simp only [↓shape_mk, ↓pend_shape, ↓fuse_shape, ↓parts_shape, ↓ports_shape, ↓fns_shape, ↓coll_shape]

@[simp] theorem twBoundary_shape (s : State) (p : Nat) : shapeOf (twBoundary s p) = shapeOf s := by
  unfold twBoundary
  repeat' first
    | with_reducible rfl
    | simp only [↓shape_mk, ↓pend_shape, ↓fuse_shape, ↓parts_shape, ↓ports_shape, ↓fns_shape, ↓coll_shape, ↓ite_shape,
    ↓twDone_shape, ↓twReturn_shape, ↓withPart_shape]
    | refine (foldl_shape _ _ _ fun t x => ?_).trans ?_
    | split

@[simp] theorem twJobEnd_shape (s : State) (p : Nat) : shapeOf (twJobEnd s p) = shapeOf s := by
  unfold twJobEnd
  repeat' first
    | with_reducible rfl
    | simp only [↓ite_shape, ↓twDone_shape, ↓twReturn_shape]
    | refine (foldl_shape _ _ _ fun t x => ?_).trans ?_
    | split

end Sys2Proof.Machine
end

