-- ==== Sys2Proof/Laws/ShapeMemTier.lean ====
section
/-! SUPPORT. The operations of Machine/MemTier.lean keep the shape of the state. -/

namespace Sys2Proof.Machine

set_option linter.unusedSimpArgs false
set_option simprocs false

@[simp] theorem withMem_shape (s : State) (p : Nat) (f : MemRegs → MemRegs) : shapeOf (withMem s p f) = shapeOf s := by
  unfold withMem
  simp only [↓withPart_shape]

@[simp] theorem countPoisonRead_shape (s : State) (p n : Nat) : shapeOf (countPoisonRead s p n) = shapeOf s := by
  unfold countPoisonRead
  simp only [↓ite_shape, ite_self, ↓withMem_shape]

@[simp] theorem journalHbm_shape (s : State) (p line : Nat) : shapeOf (journalHbm s p line) = shapeOf s := by
  unfold journalHbm
  simp only [↓withPart_shape]

@[simp] theorem unmark_shape (s : State) (k a : Nat) : shapeOf (unmark s k a) = shapeOf s := by
  unfold unmark
  simp only [↓shape_mk, ↓pend_shape, ↓fuse_shape, ↓parts_shape, ↓ports_shape, ↓fns_shape, ↓coll_shape]

@[simp] theorem markLine_shape (s : State) (k a : Nat) : shapeOf (markLine s k a) = shapeOf s := by
  unfold markLine
  simp only [↓shape_mk, ↓pend_shape, ↓fuse_shape, ↓parts_shape, ↓ports_shape, ↓fns_shape, ↓coll_shape]

@[simp] theorem storeSeg_shape (s : State) (p : Nat) (seg : Nat × Nat × List Byte) :
    shapeOf (storeSeg s p seg) = shapeOf s := by
  unfold storeSeg
  simp only [↓ite_shape, ite_self, implies_true, ↓foldl_shape, ↓markLine_shape, ↓sendEvent_shape, ↓unmark_shape, ↓withMem_shape,
    ↓withPart_shape]

@[simp] theorem hbmStore_shape (k : WKind) (s : State) (p off : Nat) (d : List Byte) :
    shapeOf (hbmStore k s p off d) = shapeOf s := by
  unfold hbmStore
  simp only [↓ite_shape, ite_self, implies_true, ↓foldl_shape, ↓journalHbm_shape, ↓storeSeg_shape, ↓withPart_shape]

@[simp] theorem hbmRuns_shape (k : WKind) (s : State) (p : Nat) (runs : List (Nat × List Byte)) :
    shapeOf (hbmRuns k s p runs) = shapeOf s := by
  unfold hbmRuns
  simp only [implies_true, ↓foldl_shape, ↓hbmStore_shape]

@[simp] theorem zeroSlice_shape (s : State) (p : Nat) : shapeOf (zeroSlice s p) = shapeOf s := by
  unfold zeroSlice
  simp only [↓shape_mk, ↓pend_shape, ↓fuse_shape, ↓parts_shape, ↓ports_shape, ↓fns_shape, ↓coll_shape, ↓withPart_shape]

@[simp] theorem stackFail_shape (s : State) (k : Nat) : shapeOf (stackFail s k) = shapeOf s := by
  unfold stackFail
  simp only [↓shape_mk, ↓pend_shape, ↓fuse_shape, ↓parts_shape, ↓ports_shape, ↓fns_shape, ↓coll_shape, ↓ite_shape, ite_self,
    implies_true, ↓foldl_shape, ↓sendEvent_shape, ↓withMem_shape]

@[simp] theorem addEntry_shape (s : State) (k a : Nat) : shapeOf (addEntry s k a) = shapeOf s := by
  unfold addEntry
  simp only [↓shape_mk, ↓pend_shape, ↓fuse_shape, ↓parts_shape, ↓ports_shape, ↓fns_shape, ↓coll_shape, ↓ite_shape, ite_self,
    ↓markLine_shape, ↓sendEvent_shape, ↓stackFail_shape]

@[simp] theorem poisonLine_shape (s : State) (p k a off : Nat) : shapeOf (poisonLine s p k a off) = shapeOf s := by
  unfold poisonLine
  simp only [↓ite_shape, ite_self, ↓addEntry_shape, ↓addHealth_shape, ↓sendEvent_shape, ↓stackFail_shape, ↓withMem_shape]

@[simp] theorem stackHealth_shape (s : State) (k w : Nat) : shapeOf (stackHealth s k w) = shapeOf s := by
  unfold stackHealth
  simp only [↓ite_shape, ite_self, ↓addHealth_shape, ↓stackFail_shape]

@[simp] theorem lineError_shape (s : State) (e : EccLine) : shapeOf (lineError s e) = shapeOf s := by
  unfold lineError
  repeat' first
    | with_reducible rfl
    | simp only [↓ite_shape, ite_self, ↓addEntry_shape, ↓poisonLine_shape, ↓stackHealth_shape, ↓withMem_shape]
    | refine (foldl_shape _ _ _ fun t x => ?_).trans ?_
    | split

@[simp] theorem rebuildStripe_shape (s : State) (p : Nat) : shapeOf (rebuildStripe s p) = shapeOf s := by
  unfold rebuildStripe
  simp only [↓ite_shape, ite_self, implies_true, ↓foldl_shape, ↓addEntry_shape, ↓sendEvent_shape, ↓unmark_shape, ↓withMem_shape]

@[simp] theorem withdraw_shape (s : State) (die : Nat) : shapeOf (withdraw s die) = shapeOf s := by
  unfold withdraw
  simp only [↓shape_mk, ↓pend_shape, ↓fuse_shape, ↓parts_shape, ↓ports_shape, ↓fns_shape, ↓coll_shape, List.length_map,
    ↓sendEvent_shape]

@[simp] theorem rejectAccess_shape (s : State) (p : Nat) : shapeOf (rejectAccess s p) = shapeOf s := by
  unfold rejectAccess
  simp only [↓sendEvent_shape, ↓withMem_shape]

end Sys2Proof.Machine
end

