-- ==== Sys2Proof/Laws/ShapeFlits.lean ====
section
/-! SUPPORT. The operations of Machine/Flits.lean keep the shape of the state. -/

namespace Sys2Proof.Machine

set_option linter.unusedSimpArgs false
set_option simprocs false

@[simp] theorem withPort_shape (s : State) (k : Nat) (f : LkPort → LkPort) : shapeOf (withPort s k f) = shapeOf s := by
  unfold withPort
  simp only [↓shape_mk, ↓pend_shape, ↓fuse_shape, ↓parts_shape, ↓ports_shape, ↓fns_shape, ↓coll_shape, updAt_length]

@[simp] theorem withLink_shape (s : State) (k : Nat) (half : Bool) (f : Link → Link) :
    shapeOf (withLink s k half f) = shapeOf s := by
  unfold withLink
  simp only [↓withPort_shape]

@[simp] theorem pumpLink_shape (s : State) (k : Nat) (half : Bool) : shapeOf (pumpLink s k half) = shapeOf s := by
  unfold pumpLink
  simp only [↓withLink_shape, ↓withPort_shape]

@[simp] theorem queueFlit_shape (s : State) (k : Nat) (half : Bool) (f : Flit) :
    shapeOf (queueFlit s k half f) = shapeOf s := by
  unfold queueFlit
  simp only [↓pumpLink_shape, ↓withLink_shape]

@[simp] theorem controlFlit_shape (s : State) (k : Nat) (half : Bool) (ltype : Nat) (payload : List Byte) :
    shapeOf (controlFlit s k half ltype payload) = shapeOf s := by
  unfold controlFlit
  simp only [↓withLink_shape]

@[simp] theorem routeAs_shape (s : State) (p r epoch : Nat) (f : Flit) : shapeOf (routeAs s p r epoch f) = shapeOf s := by
  unfold routeAs
  simp only [↓ite_shape, ite_self, ↓queueFlit_shape]

@[simp] theorem routeFlit_shape (s : State) (p r : Nat) (f : Flit) : shapeOf (routeFlit s p r f) = shapeOf s := by
  unfold routeFlit
  simp only [↓routeAs_shape]

@[simp] theorem sendMsg_shape (s : State) (p r mtype addr arg : Nat) (poison : Bool) (d : List Byte) :
    shapeOf (sendMsg s p r mtype addr arg poison d) = shapeOf s := by
  unfold sendMsg
  simp only [implies_true, ↓foldl_shape, ↓routeFlit_shape]

@[simp] theorem sendReply_shape (s : State) (p r mtype addr arg : Nat) :
    shapeOf (sendReply s p r mtype addr arg) = shapeOf s := by
  unfold sendReply
  simp only [↓sendMsg_shape]

@[simp] theorem withLk_shape (s : State) (p : Nat) (f : LkRegs → LkRegs) : shapeOf (withLk s p f) = shapeOf s := by
  unfold withLk
  simp only [↓withPart_shape]

@[simp] theorem sendWrite_shape (s : State) (p r mtype addr : Nat) (src : Option (Nat × Nat)) (poison : Bool) (d : List Byte) :
    shapeOf (sendWrite s p r mtype addr src poison d) = shapeOf s := by
  unfold sendWrite
  simp only [↓sendMsg_shape, ↓withLk_shape]

@[simp] theorem atomicAdd_shape (s : State) (p off : Nat) (vals : List Nat) : shapeOf (atomicAdd s p off vals) = shapeOf s := by
  unfold atomicAdd
  simp only [↓hbmStore_shape]

@[simp] theorem hbmPoison_shape (s : State) (p off n : Nat) : shapeOf (hbmPoison s p off n) = shapeOf s := by
  unfold hbmPoison
  simp only [↓ite_shape, ite_self, implies_true, ↓foldl_shape, ↓hbmStore_shape, ↓poisonLine_shape]

@[simp] theorem rejectAt_shape (s : State) (p l : Nat) : shapeOf (rejectAt s p l) = shapeOf s := by
  unfold rejectAt
  simp only [↓rejectAccess_shape, ↓withPart_shape]

@[simp] theorem withDma_shape (s : State) (p l : Nat) (f : DmaUnit → DmaUnit) : shapeOf (withDma s p l f) = shapeOf s := by
  unfold withDma
  simp only [↓withPart_shape]

@[simp] theorem landItem_shape (s : State) (p l i : Nat) (mark : Option Nat) : shapeOf (landItem s p l i mark) = shapeOf s := by
  unfold landItem
  simp only [↓withPart_shape]

@[simp] theorem landArrival_shape (s : State) (p l : Nat) (a : Arrival) : shapeOf (landArrival s p l a) = shapeOf s := by
  unfold landArrival
  simp only [↓ite_shape, ite_self, ↓landItem_shape, ↓withDma_shape]

end Sys2Proof.Machine
end

