-- ==== Sys2Proof/Laws/ShapeView.lean ====
section
/-! SUPPORT. The operations of Machine/View.lean keep the shape of the state. -/

namespace Sys2Proof.Machine

set_option linter.unusedSimpArgs false
set_option simprocs false

@[simp] theorem pairGangs_shape (s : State) (p : Nat) : shapeOf (pairGangs s p) = shapeOf s := by
  unfold pairGangs
  simp only [↓ite_shape, ite_self, ↓withPart_shape]

end Sys2Proof.Machine
end

