-- ==== Sys2Proof/Laws/ShapeAgate.lean ====
section
/-! SUPPORT. The operations of Machine/Agate.lean keep the shape of the state. -/

namespace Sys2Proof.Machine

set_option linter.unusedSimpArgs false
set_option simprocs false

@[simp] theorem withCk_shape (s : State) (p : Nat) (f : CkRegs → CkRegs) : shapeOf (withCk s p f) = shapeOf s := by
  unfold withCk
  simp only [↓withPart_shape]

@[simp] theorem stageSections_shape (s : State) (p : Nat) (xs : List CkSection) :
    shapeOf (stageSections s p xs) = shapeOf s := by
  unfold stageSections
  simp only [implies_true, ↓foldl_shape, ↓hbmStore_shape]

@[simp] theorem writeRec_shape (s : State) (q : Nat) (slotB committed : Bool) (seq cut : Nat) (digest : List Nat) :
    shapeOf (writeRec s q slotB committed seq cut digest) = shapeOf s := by
  unfold writeRec
  simp only [↓hbmStore_shape]

theorem openSlot_shape (s : State) (q cut len : Nat) : ∀ t, (openSlot s q cut len) = some t → shapeOf t = shapeOf s := by
  unfold openSlot
  intro t h
  simp only [] at h
  split at h
  · cases h
  · cases h
    exact writeRec_shape ..

@[simp] theorem commitSlot_shape (s : State) (q cut : Nat) (digest : List Nat) :
    shapeOf (commitSlot s q cut digest) = shapeOf s := by
  unfold commitSlot
  repeat' first
    | with_reducible rfl
    | simp only [↓writeRec_shape]
    | refine (foldl_shape _ _ _ fun t x => ?_).trans ?_
    | split

@[simp] theorem cutFails_shape (s : State) (p reason : Nat) : shapeOf (cutFails s p reason) = shapeOf s := by
  unfold cutFails
  simp only [↓sendEvent_shape, ↓withCk_shape]

@[simp] theorem drainStart_shape (s : State) (p : Nat) : shapeOf (drainStart s p) = shapeOf s := by
  unfold drainStart
  simp only [↓withCk_shape]

@[simp] theorem drainEnd_shape (s : State) (p : Nat) : shapeOf (drainEnd s p) = shapeOf s := by
  unfold drainEnd
  repeat' first
    | with_reducible rfl
    | simp only [↓sendEvent_shape, ↓toHost_shape, ↓withCk_shape]
    | refine (foldl_shape _ _ _ fun t x => ?_).trans ?_
    | split

@[simp] theorem setJobCut_shape (s : State) (p cut : Nat) : shapeOf (setJobCut s p cut) = shapeOf s := by
  unfold setJobCut
  simp only [↓ite_shape, ite_self, ↓drainStart_shape, ↓withCk_shape]

@[simp] theorem captureCut_shape (s : State) (p cut : Nat) (map : List CkSection) :
    shapeOf (captureCut s p cut map).1 = shapeOf s := by
  unfold captureCut
  simp only [↓stageSections_shape]

@[simp] theorem takeCut_shape (s : State) (p cut : Nat) : shapeOf (takeCut s p cut).1 = shapeOf s := by
  unfold takeCut
  split
  · simp only [↓ite_shape_fst, ↓captureCut_shape, ↓cutFails_shape, ↓sendMsg_shape, ↓withCk_shape]
  · split
    · simp only [↓ite_shape_fst, ↓captureCut_shape, ↓cutFails_shape, ↓sendMsg_shape, ↓withCk_shape]
    · simp only [↓ite_shape_fst, ↓captureCut_shape, ↓cutFails_shape, ↓sendMsg_shape, ↓withCk_shape]
      split
      · split
        · simp only [↓ite_shape_fst, ↓captureCut_shape, ↓cutFails_shape, ↓sendMsg_shape, ↓withCk_shape]
        · rename_i h
          simp only [↓ite_shape_fst, ↓captureCut_shape, ↓cutFails_shape, ↓sendMsg_shape, ↓withCk_shape,
    openSlot_shape _ _ _ _ _ h]
      · simp only [↓ite_shape_fst, ↓captureCut_shape, ↓cutFails_shape, ↓sendMsg_shape, ↓withCk_shape]

@[simp] theorem agateMsg_shape (s : State) (q o : Nat) (d : List Byte) : shapeOf (agateMsg s q o d).1 = shapeOf s := by
  unfold agateMsg
  repeat' first
    | with_reducible rfl
    | simp only [↓shape_mk, ↓pend_shape, ↓fuse_shape, ↓parts_shape, ↓ports_shape, ↓fns_shape, ↓coll_shape, ↓ite_shape,
    ↓ite_shape_fst, ↓ite_shape_snd, ite_self, updAt_length, List.length_map, List.length_mapIdx, List.length_set, implies_true,
    ↓commitSlot_shape, ↓hbmStore_shape]
    | refine (foldl_shape _ _ _ fun t x => ?_).trans ?_
    | (rename_i h; have e := openSlot_shape _ _ _ _ _ h; simp only [↓shape_mk, ↓pend_shape, ↓fuse_shape, ↓parts_shape,
    ↓ports_shape, ↓fns_shape, ↓coll_shape, ↓ite_shape, ↓ite_shape_fst, ↓ite_shape_snd, ite_self, updAt_length, List.length_map,
    List.length_mapIdx, List.length_set, implies_true, ↓commitSlot_shape, ↓hbmStore_shape, e]; done)
    | split

@[simp] theorem commitImage_shape (s : State) (p : Nat) (c : CutStream) : shapeOf (commitImage s p c).1 = shapeOf s := by
  unfold commitImage
  repeat' first
    | with_reducible rfl
    | simp only [↓ite_shape, ↓ite_shape_fst, ↓commitSlot_shape, ↓cutFails_shape, ↓hbmStore_shape, ↓sendEvent_shape,
    ↓sendMsg_shape, ↓withCk_shape]
    | refine (foldl_shape _ _ _ fun t x => ?_).trans ?_
    | split

@[simp] theorem restoreSection_shape (s : State) (p : Nat) (x : CkSection) (d : List Byte) :
    shapeOf (restoreSection s p x d) = shapeOf s := by
  unfold restoreSection
  repeat' first
    | with_reducible rfl
    | simp only [↓shape_mk, ↓pend_shape, ↓fuse_shape, ↓parts_shape, ↓ports_shape, ↓fns_shape, ↓coll_shape, ↓hbmStore_shape,
    ↓withPart_shape]
    | refine (foldl_shape _ _ _ fun t x => ?_).trans ?_
    | split

@[simp] theorem restoreImage_shape (s : State) (p : Nat) (img : List Byte) : shapeOf (restoreImage s p img) = shapeOf s := by
  unfold restoreImage
  simp only [implies_true, ↓foldl_shape, ↓restoreSection_shape]

end Sys2Proof.Machine
end

