-- ==== Sys2Proof/Laws/ShapeBarrier.lean ====
section
/-! SUPPORT. The operations of Machine/Barrier.lean keep the shape of the state. -/

namespace Sys2Proof.Machine

set_option linter.unusedSimpArgs false
set_option simprocs false

@[simp] theorem withCl_shape (s : State) (p : Nat) (f : ClRegs → ClRegs) : shapeOf (withCl s p f) = shapeOf s := by
  unfold withCl
  simp only [↓withPart_shape]

@[simp] theorem withSe_shape (s : State) (p : Nat) (f : SeRegs → SeRegs) : shapeOf (withSe s p f) = shapeOf s := by
  unfold withSe
  simp only [↓withPart_shape]

@[simp] theorem sendBarrier_shape (s : State) (p r kind step attempt arg : Nat) (d : List Byte) :
    shapeOf (sendBarrier s p r kind step attempt arg d) = shapeOf s := by
  unfold sendBarrier
  simp only [↓routeFlit_shape]

@[simp] theorem requestCut_shape (s : State) (p : Nat) : shapeOf (requestCut s p) = shapeOf s := by
  unfold requestCut
  simp only [↓ite_shape, ite_self, ↓sendBarrier_shape, ↓withCk_shape]

@[simp] theorem flushCut_shape (s : State) (p : Nat) : shapeOf (flushCut s p) = shapeOf s := by
  unfold flushCut
  simp only [↓ite_shape, ite_self, ↓requestCut_shape, ↓withCk_shape]

@[simp] theorem sendDown_shape (s : State) (p kind step attempt : Nat) (d : List Byte) :
    shapeOf (sendDown s p kind step attempt d) = shapeOf s := by
  unfold sendDown
  simp only [implies_true, ↓foldl_shape, ↓sendBarrier_shape]

@[simp] theorem takeRelease_shape (s : State) (p tRel nextCut jobCut : Nat) :
    shapeOf (takeRelease s p tRel nextCut jobCut) = shapeOf s := by
  unfold takeRelease
  simp only [↓ite_shape, ite_self, ↓sendEvent_shape, ↓setJobCut_shape, ↓withCk_shape, ↓withCl_shape]

@[simp] theorem rootRelease_shape (s : State) (p step attempt : Nat) : shapeOf (rootRelease s p step attempt) = shapeOf s := by
  unfold rootRelease
  simp only [↓sendDown_shape, ↓takeRelease_shape, ↓withCk_shape]

@[simp] theorem tryArrive_shape (s : State) (p : Nat) : shapeOf (tryArrive s p) = shapeOf s := by
  unfold tryArrive
  simp only [↓ite_shape, ite_self, ↓rootRelease_shape, ↓sendBarrier_shape, ↓withCl_shape]

@[simp] theorem barrierArrive_shape (s : State) (p : Nat) : shapeOf (barrierArrive s p) = shapeOf s := by
  unfold barrierArrive
  simp only [↓ite_shape, ite_self, ↓flushCut_shape, ↓tryArrive_shape, ↓withCl_shape]

@[simp] theorem noteArrive_shape (s : State) (p r step attempt : Nat) :
    shapeOf (noteArrive s p r step attempt) = shapeOf s := by
  unfold noteArrive
  simp only [↓tryArrive_shape, ↓withCl_shape]

@[simp] theorem cutResult_shape (s : State) (p r cut : Nat) (ok : Bool) : shapeOf (cutResult s p r cut ok) = shapeOf s := by
  unfold cutResult
  simp only [↓ite_shape, ite_self, ↓sendBarrier_shape, ↓setJobCut_shape, ↓withCk_shape]

@[simp] theorem boundaryCut_shape (s : State) (p : Nat) : shapeOf (boundaryCut s p) = shapeOf s := by
  unfold boundaryCut
  simp only [↓ite_shape, ite_self, ↓cutResult_shape, ↓takeCut_shape, ↓withCk_shape]

@[simp] theorem stageEnd_shape (s : State) (p : Nat) : shapeOf (stageEnd s p) = shapeOf s := by
  unfold stageEnd
  repeat' first
    | with_reducible rfl
    | simp only [↓ite_shape, ↓captureCut_shape, ↓withCk_shape]
    | refine (foldl_shape _ _ _ fun t x => ?_).trans ?_
    | split

@[simp] theorem periodCut_shape (s : State) (p : Nat) : shapeOf (periodCut s p) = shapeOf s := by
  unfold periodCut
  simp only [↓withPart_shape]

end Sys2Proof.Machine
end

