-- ==== Sys2Proof/Laws/ShapeJobOps.lean ====
section
/-! SUPPORT. The operations of Machine/JobOps.lean keep the shape of the state. -/

namespace Sys2Proof.Machine

set_option linter.unusedSimpArgs false
set_option simprocs false

@[simp] theorem stepDone_shape (s : State) (k : Nat) (e : StepEntry) (status attempts : Nat) :
    shapeOf (stepDone s k e status attempts) = shapeOf s := by
  unfold stepDone
  repeat' first
    | with_reducible rfl
    | simp only [↓shape_mk, ↓pend_shape, ↓fuse_shape, ↓parts_shape, ↓ports_shape, ↓fns_shape, ↓coll_shape, ↓ite_shape, ite_self,
    ↓holdWrite_shape, ↓hostWrite_shape, ↓raiseVector_shape]
    | refine (foldl_shape _ _ _ fun t x => ?_).trans ?_
    | split

@[simp] theorem withCtx_shape (s : State) (k : Nat) (f : QCtx → QCtx) : shapeOf (withCtx s k f) = shapeOf s := by
  unfold withCtx
  simp only [↓shape_mk, ↓pend_shape, ↓fuse_shape, ↓parts_shape, ↓ports_shape, ↓fns_shape, ↓coll_shape]

@[simp] theorem flushCtx_shape (s : State) (k status : Nat) : shapeOf (flushCtx s k status) = shapeOf s := by
  unfold flushCtx
  simp only [implies_true, ↓foldl_shape, ↓stepDone_shape, ↓withCtx_shape]

@[simp] theorem dropWaits_shape (s : State) (p : Nat) : shapeOf (dropWaits s p) = shapeOf s := by
  unfold dropWaits
  simp only [↓shape_mk, ↓pend_shape, ↓fuse_shape, ↓parts_shape, ↓ports_shape, ↓fns_shape, ↓coll_shape]

@[simp] theorem jobEnd_shape (s : State) (p cause status : Nat) : shapeOf (jobEnd s p cause status) = shapeOf s := by
  unfold jobEnd
  repeat' first
    | with_reducible rfl
    | simp only [↓ite_shape, ite_self, implies_true, ↓foldl_shape, ↓dropWaits_shape, ↓flushCtx_shape, ↓sendEvent_shape,
    ↓stepDone_shape, ↓twJobEnd_shape, ↓withPart_shape]
    | refine (foldl_shape _ _ _ fun t x => ?_).trans ?_
    | split

@[simp] theorem faultEnd_shape (s : State) (src : EvSrc) (p code detail : Nat) :
    shapeOf (faultEnd s src p code detail) = shapeOf s := by
  unfold faultEnd
  simp only [↓ite_shape, ite_self, ↓jobEnd_shape, ↓sendEvent_shape]

@[simp] theorem endAtBoundary_shape (s : State) (p cause status : Nat) :
    shapeOf (endAtBoundary s p cause status) = shapeOf s := by
  unfold endAtBoundary
  simp only [↓withPart_shape]

@[simp] theorem noteUnreplayable_shape (s : State) (p : Nat) : shapeOf (noteUnreplayable s p) = shapeOf s := by
  unfold noteUnreplayable
  simp only [↓ite_shape, ite_self, ↓sendEvent_shape, ↓withSe_shape]

@[simp] theorem takeReplay_shape (s : State) (p : Nat) : shapeOf (takeReplay s p) = shapeOf s := by
  unfold takeReplay
  repeat' first
    | with_reducible rfl
    | simp only [↓ite_shape, ↓faultEnd_shape, ↓noteUnreplayable_shape, ↓withSe_shape]
    | refine (foldl_shape _ _ _ fun t x => ?_).trans ?_
    | split

@[simp] theorem requestReplay_shape (s : State) (p : Nat) : shapeOf (requestReplay s p) = shapeOf s := by
  unfold requestReplay
  repeat' first
    | with_reducible rfl
    | simp only [↓ite_shape, ↓faultEnd_shape, ↓noteUnreplayable_shape, ↓sendBarrier_shape, ↓sendDown_shape, ↓takeReplay_shape,
    ↓withPart_shape]
    | refine (foldl_shape _ _ _ fun t x => ?_).trans ?_
    | split

@[simp] theorem takeAbort_shape (s : State) (p step attempt : Nat) : shapeOf (takeAbort s p step attempt) = shapeOf s := by
  unfold takeAbort
  simp only [↓ite_shape, ite_self, ↓faultEnd_shape, ↓sendDown_shape, ↓takeReplay_shape, ↓withCl_shape, ↓withPart_shape]

@[simp] theorem beginAhead_shape (s : State) (p : Nat) : shapeOf (beginAhead s p) = shapeOf s := by
  unfold beginAhead
  repeat' first
    | with_reducible rfl
    | simp only [↓ite_shape, ite_self, ↓takeReplay_shape, ↓withCl_shape, ↓withPart_shape]
    | refine (foldl_shape _ _ _ fun t x => ?_).trans ?_
    | split

@[simp] theorem journalBack_shape (s : State) (p : Nat) (r : HbmRec) : shapeOf (journalBack s p r) = shapeOf s := by
  unfold journalBack
  simp only [↓ite_shape, ite_self, ↓markLine_shape, ↓withPart_shape]

@[simp] theorem abandonAttempt_shape (s : State) (p : Nat) : shapeOf (abandonAttempt s p) = shapeOf s := by
  unfold abandonAttempt
  simp only [↓shape_mk, ↓pend_shape, ↓fuse_shape, ↓parts_shape, ↓ports_shape, ↓fns_shape, ↓coll_shape, implies_true,
    ↓foldr_shape, ↓dropWaits_shape, ↓journalBack_shape, ↓withPart_shape]

@[simp] theorem doReplay_shape (s : State) (p : Nat) (restoreBad copyBad : Bool) :
    shapeOf (doReplay s p restoreBad copyBad) = shapeOf s := by
  unfold doReplay
  simp only [↓ite_shape, ite_self, ↓abandonAttempt_shape, ↓barrierArrive_shape, ↓faultEnd_shape, ↓withSe_shape]

@[simp] theorem replayRestart_shape (s : State) (p : Nat) : shapeOf (replayRestart s p) = shapeOf s := by
  unfold replayRestart
  repeat' first
    | with_reducible rfl
    | simp only [↓shape_mk, ↓pend_shape, ↓fuse_shape, ↓parts_shape, ↓ports_shape, ↓fns_shape, ↓coll_shape, ↓ite_shape, ite_self,
    ↓withPart_shape]
    | refine (foldl_shape _ _ _ fun t x => ?_).trans ?_
    | split

end Sys2Proof.Machine
end

