-- ==== Sys2Proof/Laws/ShapeUpdateEngine.lean ====
section
/-! SUPPORT. The operations of Machine/UpdateEngine.lean keep the shape of the state. -/

namespace Sys2Proof.Machine

set_option linter.unusedSimpArgs false
set_option simprocs false

@[simp] theorem withUpd_shape (s : State) (p : Nat) (f : UpdState → UpdState) : shapeOf (withUpd s p f) = shapeOf s := by
  unfold withUpd
  simp only [↓withPart_shape]

@[simp] theorem runMeasure_shape (s : State) (p gid : Nat) : shapeOf (runMeasure s p gid).1 = shapeOf s := by
  unfold runMeasure
  repeat' first
    | with_reducible rfl
    | simp only [implies_true, ↓foldl_shape, ↓countPoisonRead_shape, ↓hbmStore_shape, ↓withUpd_shape]
    | refine (foldl_shape _ _ _ fun t x => ?_).trans ?_
    | split

@[simp] theorem engineWrite_shape (p undoOff : Nat) (x : State × Nat) (off : Nat) (d : List Byte) :
    shapeOf (engineWrite p undoOff x off d).1 = shapeOf x.1 := by
  unfold engineWrite
  simp only [↓foldl_shape_fst, implies_true, hbmStore_shape, withUpd_shape]

theorem applyTensor_shape (p : Nat) (g : UpdGroup) (c1 c2 : Nat) (r : ApplyRun) (t : UpdTensor) (norm : Nat) :
    shapeOf (applyTensor p g c1 c2 r t norm).s = shapeOf r.s := by
  unfold applyTensor
  simp only [↓apply_ite ApplyRun.s, ↓ite_shape, ↓countPoisonRead_shape, ↓engineWrite_shape, ↓foldl_shape_fst, implies_true,
    ite_self]

@[simp] theorem runApply_shape (s : State) (p gid : Nat) : shapeOf (runApply s p gid).1 = shapeOf s := by
  have hf : ∀ (c1 c2 : Nat) (l : List (UpdTensor × Nat × Bool)) (g : UpdGroup) (r : ApplyRun),
      shapeOf (l.foldl (fun a e => applyTensor p g c1 c2 a e.1 e.2.1) r).s = shapeOf r.s := fun c1 c2 l g r =>
    foldl_keeps (fun a : ApplyRun => shapeOf a.s) l _ r (fun _ _ => applyTensor_shape ..)
  unfold runApply
  split
  · rfl
  · simp only [↓ite_shape, ↓ite_shape_fst, ite_self, ↓countPoisonRead_shape, ↓sendEvent_shape, ↓withUpd_shape]
  · simp only [↓ite_shape, ↓ite_shape_fst, ite_self, ↓countPoisonRead_shape, ↓sendEvent_shape, ↓withUpd_shape, engineWrite_shape,
    hf]

@[simp] theorem answerBuf_shape (s : State) (p l i : Nat) (kind : BufKind) (d : List Byte) (poison : Bool) :
    shapeOf (answerBuf s p l i kind d poison) = shapeOf s := by
  unfold answerBuf
  simp only [↓withDma_shape]

@[simp] theorem giveAnswer_shape (s : State) (p : Nat) (a : UpdAnswer) (w : Nat × Nat × Nat) :
    shapeOf (giveAnswer s p a w) = shapeOf s := by
  unfold giveAnswer
  simp only [↓answerBuf_shape]

@[simp] theorem askPhase_shape (s : State) (p phase group : Nat) (w : Nat × Nat × Nat) :
    shapeOf (askPhase s p phase group w) = shapeOf s := by
  unfold askPhase
  repeat' first
    | with_reducible rfl
    | simp only [↓giveAnswer_shape, ↓withUpd_shape]
    | refine (foldl_shape _ _ _ fun t x => ?_).trans ?_
    | split

@[simp] theorem regread_shape (s : State) (p l i addr : Nat) : shapeOf (regread s p l i addr) = shapeOf s := by
  unfold regread
  simp only [↓ite_shape, ite_self, ↓answerBuf_shape, ↓askPhase_shape, ↓withSe_shape]

@[simp] theorem endPhase_shape (s : State) (p : Nat) (x : UpdPhase) (words : List Nat) (poison : Bool) :
    shapeOf (endPhase s p x words poison) = shapeOf s := by
  unfold endPhase
  simp only [implies_true, ↓foldl_shape, ↓giveAnswer_shape, ↓withUpd_shape]

@[simp] theorem doMeasure_shape (s : State) (p gid : Nat) : shapeOf (doMeasure s p gid) = shapeOf s := by
  unfold doMeasure
  repeat' first
    | with_reducible rfl
    | simp only [↓endPhase_shape, ↓runMeasure_shape]
    | refine (foldl_shape _ _ _ fun t x => ?_).trans ?_
    | split

@[simp] theorem doApply_shape (s : State) (p gid : Nat) : shapeOf (doApply s p gid) = shapeOf s := by
  unfold doApply
  split
  · rfl
  · have e := runApply_shape s p gid
    split <;> (rename_i h; rw [h] at e; simp only [↓endPhase_shape, ↓requestReplay_shape, ↓sendEvent_shape, ↓withUpd_shape, e])

@[simp] theorem doDigest_shape (s : State) (p : Nat) : shapeOf (doDigest s p) = shapeOf s := by
  unfold doDigest
  repeat' first
    | with_reducible rfl
    | simp only [↓countPoisonRead_shape, ↓endPhase_shape, ↓withSe_shape]
    | refine (foldl_shape _ _ _ fun t x => ?_).trans ?_
    | split

@[simp] theorem doVerdict_shape (s : State) (p : Nat) : shapeOf (doVerdict s p) = shapeOf s := by
  unfold doVerdict
  repeat' first
    | with_reducible rfl
    | simp only [↓ite_shape, ite_self, ↓countPoisonRead_shape, ↓endAtBoundary_shape, ↓endPhase_shape, ↓withSe_shape]
    | refine (foldl_shape _ _ _ fun t x => ?_).trans ?_
    | split

@[simp] theorem declareDown_shape (s : State) (u : EvSrc) : shapeOf (declareDown s u) = shapeOf s := by
  unfold declareDown
  simp only [↓shape_mk, ↓pend_shape, ↓fuse_shape, ↓parts_shape, ↓ports_shape, ↓fns_shape, ↓coll_shape, ↓ite_shape, ite_self,
    ↓setHealth_shape]

@[simp] theorem engineMismatch_shape (s : State) (p die granule : Nat) :
    shapeOf (engineMismatch s p die granule) = shapeOf s := by
  unfold engineMismatch
  simp only [↓shape_mk, ↓pend_shape, ↓fuse_shape, ↓parts_shape, ↓ports_shape, ↓fns_shape, ↓coll_shape, ↓ite_shape, ite_self,
    implies_true, ↓foldl_shape, ↓addHealth_shape, ↓declareDown_shape, ↓faultEnd_shape, ↓requestReplay_shape, ↓sendEvent_shape,
    ↓withSe_shape]

theorem execMeasure_shape (p : Nat) (group : BitVec 6) (s : State) : KeepsShape s (execMeasure p group s) := by
  unfold execMeasure
  simp only [implies_true, ↓keeps_onUnit, ↓doMeasure_shape]

theorem execApply_shape (p : Nat) (group : BitVec 6) (s : State) : KeepsShape s (execApply p group s) := by
  unfold execApply
  simp only [implies_true, ↓keeps_onUnit, ↓doApply_shape]

theorem execStateDigest_shape (p : Nat) (s : State) : KeepsShape s (execStateDigest p s) := by
  unfold execStateDigest
  simp only [implies_true, ↓keeps_onUnit, ↓doDigest_shape]

theorem execVerdict_shape (p : Nat) (s : State) : KeepsShape s (execVerdict p s) := by
  unfold execVerdict
  simp only [implies_true, ↓keeps_onUnit, ↓doVerdict_shape]

theorem execUpdateEngineMismatch_shape (p : Nat) (die : BitVec 2) (granule : BitVec 48) (s : State) :
    KeepsShape s (execUpdateEngineMismatch p die granule s) := by
  unfold execUpdateEngineMismatch
  simp only [implies_true, ↓keeps_onUnit, ↓engineMismatch_shape]

end Sys2Proof.Machine
end

