-- ==== Sys2Proof/Laws/ShapeCollect.lean ====
section
/-! SUPPORT. The operations of Machine/Collect.lean keep the shape of the state. -/

namespace Sys2Proof.Machine

set_option linter.unusedSimpArgs false
set_option simprocs false

@[simp] theorem withCall_shape (s : State) (p id : Nat) (f : CollCall → CollCall) :
    shapeOf (withCall s p id f) = shapeOf s := by
  unfold withCall
  simp only [↓withCl_shape]

@[simp] theorem sendColl_shape (s : State) (p : Nat) (c : CollCall) (mtype kind x piece pos : Nat) (poison : Bool) (d : List Byte) :
    shapeOf (sendColl s p c mtype kind x piece pos poison d) = shapeOf s := by
  unfold sendColl
  simp only [↓routeFlit_shape]

@[simp] theorem giveWord_shape (s : State) (p : Nat) (word : Nat) (poison : Bool) (mark : Option Nat) (w : Nat × Nat) :
    shapeOf (giveWord s p word poison mark w) = shapeOf s := by
  unfold giveWord
  simp only [↓answerBuf_shape, ↓withDma_shape]

@[simp] theorem formWord_shape (s : State) (p id word : Nat) : shapeOf (formWord s p id word) = shapeOf s := by
  unfold formWord
  repeat' first
    | with_reducible rfl
    | simp only [↓ite_shape, ite_self, implies_true, ↓foldl_shape, ↓giveWord_shape, ↓withCall_shape]
    | refine (foldl_shape _ _ _ fun t x => ?_).trans ?_
    | split

@[simp] theorem refuseCall_shape (s : State) (p id status : Nat) : shapeOf (refuseCall s p id status) = shapeOf s := by
  unfold refuseCall
  simp only [↓formWord_shape, ↓withCl_shape]

@[simp] theorem notePoisonOut_shape (s : State) (p id : Nat) : shapeOf (notePoisonOut s p id) = shapeOf s := by
  unfold notePoisonOut
  repeat' first
    | with_reducible rfl
    | simp only [↓ite_shape, ite_self, ↓sendEvent_shape, ↓withCall_shape, ↓withCl_shape]
    | refine (foldl_shape _ _ _ fun t x => ?_).trans ?_
    | split

@[simp] theorem collWrite_shape (s : State) (p id off : Nat) (poison : Bool) (d : List Byte) :
    shapeOf (collWrite s p id off poison d) = shapeOf s := by
  unfold collWrite
  simp only [↓ite_shape, ite_self, ↓hbmPoison_shape, ↓hbmStore_shape, ↓notePoisonOut_shape]

@[simp] theorem collCheck_shape (s : State) (p id : Nat) : shapeOf (collCheck s p id) = shapeOf s := by
  unfold collCheck
  repeat' first
    | with_reducible rfl
    | simp only [↓ite_shape, ite_self, ↓formWord_shape, ↓withCl_shape]
    | refine (foldl_shape _ _ _ fun t x => ?_).trans ?_
    | split

@[simp] theorem collDeliver_shape (s : State) (p id src c : Nat) (d : List Byte) (poison : Bool) :
    shapeOf (collDeliver s p id src c d poison) = shapeOf s := by
  unfold collDeliver
  repeat' first
    | with_reducible rfl
    | simp only [↓ite_shape, ite_self, ↓collCheck_shape, ↓collWrite_shape, ↓withCall_shape]
    | refine (foldl_shape _ _ _ fun t x => ?_).trans ?_
    | split

@[simp] theorem nodeDown_shape (p id l i c : Nat) (d : List Byte) (b : Bool) (s : State) :
    shapeOf (nodeDown p id l i c d b s) = shapeOf s := by
  induction l generalizing i s with
  | zero => unfold nodeDown; simp only [↓ite_shape, ite_self, ↓collDeliver_shape, ↓sendColl_shape]
  | succ l ih =>
    unfold nodeDown
    (repeat' split) <;> first
      | rfl
      | (simp only [↓ih, ↓ite_shape, ite_self, ↓sendColl_shape]; done)

@[simp] theorem rootDown_shape (s : State) (p id c : Nat) (d : List Byte) (b : Bool) :
    shapeOf (rootDown s p id c d b) = shapeOf s := by
  unfold rootDown
  repeat' first
    | with_reducible rfl
    | simp only [↓ite_shape, ite_self, implies_true, ↓foldl_shape, ↓collDeliver_shape, ↓nodeDown_shape, ↓sendColl_shape]
    | refine (foldl_shape _ _ _ fun t x => ?_).trans ?_
    | split

@[simp] theorem nodeUp_shape (p id f l i c : Nat) (d : List Byte) (b : Bool) (s : State) :
    shapeOf (nodeUp p id f l i c d b s) = shapeOf s := by
  induction f generalizing l i d b s with
  | zero => rfl
  | succ f ih =>
    unfold nodeUp
    repeat' first
      | with_reducible rfl
      | simp only [↓ite_shape, ↓rootDown_shape, ↓sendColl_shape, ↓withCall_shape, ↓ih]
      | split

@[simp] theorem collSpread_shape (s : State) (p id : Nat) (chunks : List (Nat × List Byte × Bool)) :
    shapeOf (collSpread s p id chunks) = shapeOf s := by
  unfold collSpread
  repeat' first
    | with_reducible rfl
    | simp only [implies_true, ↓foldl_shape, ↓collDeliver_shape, ↓sendColl_shape]
    | refine (foldl_shape _ _ _ fun t x => ?_).trans ?_
    | split

@[simp] theorem collEnter_shape (s : State) (p : Nat) (c : CollCall) : shapeOf (collEnter s p c) = shapeOf s := by
  unfold collEnter
  repeat' first
    | with_reducible rfl
    | simp only [↓ite_shape, ite_self, implies_true, ↓foldl_shape, ↓collSpread_shape, ↓nodeUp_shape]
    | refine (foldl_shape _ _ _ fun t x => ?_).trans ?_
    | split

@[simp] theorem landRow_shape (s : State) (p : Nat) (c : CollCall) (src x e r : Nat) (data : List Byte) (poison : Bool) :
    shapeOf (landRow s p c src x e r data poison) = shapeOf s := by
  unfold landRow
  simp only [↓collWrite_shape, ↓hbmStore_shape]

@[simp] theorem noteDone_shape (s : State) (p id kind src x : Nat) (data : List Byte) :
    shapeOf (noteDone s p id kind src x data) = shapeOf s := by
  unfold noteDone
  simp only [↓withCall_shape]

@[simp] theorem ownerRecords_shape (s : State) (p : Nat) (c : CollCall) : shapeOf (ownerRecords s p c) = shapeOf s := by
  unfold ownerRecords
  simp only [↓ite_shape, ite_self, implies_true, ↓foldl_shape, ↓hbmStore_shape]

@[simp] theorem sourceRecords_shape (s : State) (p : Nat) (c : CollCall) : shapeOf (sourceRecords s p c) = shapeOf s := by
  unfold sourceRecords
  simp only [implies_true, ↓foldl_shape, ↓hbmStore_shape, ↓withCall_shape, ↓withCl_shape]

@[simp] theorem a2aCheck_shape (s : State) (p id : Nat) : shapeOf (a2aCheck s p id) = shapeOf s := by
  unfold a2aCheck
  repeat' first
    | with_reducible rfl
    | simp only [↓ite_shape, ite_self, ↓formWord_shape, ↓noteDone_shape, ↓ownerRecords_shape, ↓sourceRecords_shape, ↓withCl_shape]
    | refine (foldl_shape _ _ _ fun t x => ?_).trans ?_
    | split

@[simp] theorem a2aTell_shape (s : State) (p : Nat) (c : CollCall) (src x : Nat) (placed : Bool) :
    shapeOf (a2aTell s p c src x placed) = shapeOf s := by
  unfold a2aTell
  simp only [↓ite_shape, ite_self, ↓noteDone_shape, ↓sendColl_shape]

@[simp] theorem a2aOwn_shape (s : State) (p id : Nat) (r : CollRow) : shapeOf (a2aOwn s p id r) = shapeOf s := by
  unfold a2aOwn
  repeat' first
    | with_reducible rfl
    | simp only [↓ite_shape, ite_self, ↓a2aTell_shape, ↓landRow_shape, ↓noteDone_shape]
    | refine (foldl_shape _ _ _ fun t x => ?_).trans ?_
    | split

@[simp] theorem a2aRows_shape (s : State) (p id : Nat) : shapeOf (a2aRows s p id) = shapeOf s := by
  unfold a2aRows
  repeat' first
    | with_reducible rfl
    | simp only [implies_true, ↓foldl_shape, ↓a2aCheck_shape, ↓a2aOwn_shape, ↓withCall_shape]
    | refine (foldl_shape _ _ _ fun t x => ?_).trans ?_
    | split

@[simp] theorem a2aSend_shape (s : State) (p id x : Nat) : shapeOf (a2aSend s p id x) = shapeOf s := by
  unfold a2aSend
  repeat' first
    | with_reducible rfl
    | simp only [↓ite_shape, ite_self, implies_true, ↓foldl_shape, ↓sendColl_shape, ↓withCall_shape]
    | refine (foldl_shape _ _ _ fun t x => ?_).trans ?_
    | split

@[simp] theorem a2aGo_shape (s : State) (p id : Nat) : shapeOf (a2aGo s p id) = shapeOf s := by
  unfold a2aGo
  repeat' first
    | with_reducible rfl
    | simp only [↓ite_shape, ite_self, implies_true, ↓foldl_shape, ↓a2aSend_shape]
    | refine (foldl_shape _ _ _ fun t x => ?_).trans ?_
    | split

@[simp] theorem a2aEnter_shape (s : State) (p : Nat) (c : CollCall) : shapeOf (a2aEnter s p c) = shapeOf s := by
  unfold a2aEnter
  repeat' first
    | with_reducible rfl
    | simp only [↓ite_shape, ite_self, implies_true, ↓foldl_shape, ↓a2aCheck_shape, ↓a2aGo_shape, ↓a2aRows_shape, ↓a2aSend_shape,
    ↓collWrite_shape, ↓noteDone_shape, ↓sendColl_shape, ↓withCall_shape]
    | refine (foldl_shape _ _ _ fun t x => ?_).trans ?_
    | split

@[simp] theorem a2aPiece_shape (s : State) (p id kind src x piece need : Nat) (data : List Byte) (poison : Bool) :
    shapeOf (a2aPiece s p id kind src x piece need data poison).1 = shapeOf s := by
  unfold a2aPiece
  repeat' first
    | with_reducible rfl
    | simp only [↓ite_shape_fst, ite_self, ↓withCall_shape]
    | refine (foldl_shape _ _ _ fun t x => ?_).trans ?_
    | split

@[simp] theorem a2aFlit_shape (s : State) (p : Nat) (c : CollCall) (m : CollMsg) : shapeOf (a2aFlit s p c m) = shapeOf s := by
  have e : ∀ n, shapeOf (a2aPiece s p c.id m.kind (c.group.idxOf m.src) m.x m.piece n m.data m.poison).1 = shapeOf s :=
    fun n => a2aPiece_shape ..
  unfold a2aFlit
  split
  · have h := e (chunksIn (4 * ((collDesc c.desc).slots * (collDesc c.desc).k)))
    simp only []
    split <;> (rename_i g; rw [g] at h; simp only [↓a2aCheck_shape, ↓a2aGo_shape, ↓a2aRows_shape, ↓collWrite_shape,
    ↓noteDone_shape, ↓withCall_shape, h])
  · have h := e (chunksIn (collDesc c.desc).d)
    simp only []
    split <;> (rename_i g; rw [g] at h; simp only [↓a2aCheck_shape, ↓a2aGo_shape, ↓a2aRows_shape, ↓collWrite_shape,
    ↓noteDone_shape, ↓withCall_shape, h])
  · simp only [↓a2aCheck_shape, ↓a2aGo_shape, ↓a2aRows_shape, ↓collWrite_shape, ↓noteDone_shape, ↓withCall_shape]
  · have h := e (chunksIn (collDesc c.desc).d)
    simp only []
    split <;> (rename_i g; rw [g] at h; simp only [↓a2aCheck_shape, ↓a2aGo_shape, ↓a2aRows_shape, ↓collWrite_shape,
    ↓noteDone_shape, ↓withCall_shape, h])
  · rfl

@[simp] theorem sigMismatch_shape (s : State) (p : Nat) (c : CollCall) : shapeOf (sigMismatch s p c) = shapeOf s := by
  unfold sigMismatch
  simp only [↓ite_shape, ite_self, implies_true, ↓foldl_shape, ↓formWord_shape, ↓hbmPoison_shape, ↓sendEvent_shape,
    ↓withCall_shape, ↓withCl_shape]

@[simp] theorem collTake_shape (s : State) (p : Nat) (c : CollCall) (f : Flit) : shapeOf (collTake s p c f) = shapeOf s := by
  unfold collTake
  repeat' first
    | with_reducible rfl
    | simp only [↓ite_shape, ite_self, ↓a2aFlit_shape, ↓collDeliver_shape, ↓nodeDown_shape, ↓nodeUp_shape, ↓sigMismatch_shape,
    ↓withCall_shape]
    | refine (foldl_shape _ _ _ fun t x => ?_).trans ?_
    | split

@[simp] theorem collFlit_shape (s : State) (p : Nat) (f : Flit) : shapeOf (collFlit s p f) = shapeOf s := by
  unfold collFlit
  repeat' first
    | with_reducible rfl
    | simp only [↓collTake_shape, ↓withCl_shape]
    | refine (foldl_shape _ _ _ fun t x => ?_).trans ?_
    | split

@[simp] theorem collIssue_shape (s : State) (p l i off : Nat) (relaxed : Bool) (resv : Nat) :
    shapeOf (collIssue s p l i off relaxed resv) = shapeOf s := by
  unfold collIssue
  repeat' first
    | with_reducible rfl
    | simp only [↓countPoisonRead_shape, ↓giveWord_shape, ↓withCall_shape, ↓withCl_shape]
    | refine (foldl_shape _ _ _ fun t x => ?_).trans ?_
    | split

@[simp] theorem countRelaxed_shape (s : State) (p : Nat) : shapeOf (countRelaxed s p) = shapeOf s := by
  unfold countRelaxed
  simp only [↓withCl_shape, ↓withPart_shape]

@[simp] theorem collBegin_shape (s : State) (p id : Nat) : shapeOf (collBegin s p id) = shapeOf s := by
  unfold collBegin
  repeat' first
    | with_reducible rfl
    | simp only [↓ite_shape, ite_self, ↓a2aEnter_shape, ↓collCheck_shape, ↓collEnter_shape, ↓collTake_shape, ↓countRelaxed_shape,
    ↓refuseCall_shape, ↓withCall_shape, ↓withCl_shape]
    | refine (foldl_shape _ _ _ fun t x => ?_).trans ?_
    | split

theorem execCollBegin_shape (p : Nat) (id : BitVec 32) (s : State) : KeepsShape s (execCollBegin p id s) := by
  unfold execCollBegin
  simp only [implies_true, ↓keeps_onUnit, ↓collBegin_shape]

end Sys2Proof.Machine
end

