-- ==== Sys2Proof/Laws/ShapeComplete.lean ====
section
/-! SUPPORT. The operations of Machine/Complete.lean keep the shape of the state. -/

namespace Sys2Proof.Machine

set_option linter.unusedSimpArgs false
set_option simprocs false

@[simp] theorem completeCmd_shape (s : State) (k : Nat) (w : CmdWait) (status value : Nat) :
    shapeOf (completeCmd s k w status value) = shapeOf s := by
  unfold completeCmd
  simp only [↓ite_shape, ite_self, ↓holdWrite_shape, ↓hostWrite_shape, ↓raiseVector_shape, ↓withFn_shape]

@[simp] theorem completeWait_shape (s : State) (k : Nat) (is : CmdWait → Bool) (status : Nat) (value : CmdWait → Nat) :
    shapeOf (completeWait s k is status value) = shapeOf s := by
  unfold completeWait
  repeat' first
    | with_reducible rfl
    | simp only [↓completeCmd_shape]
    | refine (foldl_shape _ _ _ fun t x => ?_).trans ?_
    | split

end Sys2Proof.Machine
end

