-- ==== Sys2Proof/Laws/ShapeBerylOps.lean ====
section
/-! SUPPORT. The operations of Machine/BerylOps.lean keep the shape of the state. -/

namespace Sys2Proof.Machine

set_option linter.unusedSimpArgs false
set_option simprocs false

@[simp] theorem withQp_shape (s : State) (c : Nat) (f : QpCtx → QpCtx) : shapeOf (withQp s c f) = shapeOf s := by
  unfold withQp
  simp only [↓shape_mk, ↓pend_shape, ↓fuse_shape, ↓parts_shape, ↓ports_shape, ↓fns_shape, ↓coll_shape]

@[simp] theorem qpDeliver_shape (s : State) (r : QpReq) (d : List Byte) (poison : Bool) :
    shapeOf (qpDeliver s r d poison) = shapeOf s := by
  unfold qpDeliver
  repeat' first
    | with_reducible rfl
    | simp only [↓ite_shape, ite_self, ↓completeWait_shape, ↓hbmPoison_shape, ↓hbmStore_shape, ↓withDma_shape]
    | refine (foldl_shape _ _ _ fun t x => ?_).trans ?_
    | split

@[simp] theorem qpCount_shape (s : State) (c : Nat) (r : QpRun) (d : List Byte) : shapeOf (qpCount s c r d) = shapeOf s := by
  unfold qpCount
  simp only [↓shape_mk, ↓pend_shape, ↓fuse_shape, ↓parts_shape, ↓ports_shape, ↓fns_shape, ↓coll_shape, ↓withQp_shape]

@[simp] theorem qpRefuse_shape (s : State) (c : Nat) (r : QpReq) (st : Nat) (poison : Bool) :
    shapeOf (qpRefuse s c r st poison) = shapeOf s := by
  unfold qpRefuse
  simp only [↓qpCount_shape, ↓qpDeliver_shape]

@[simp] theorem qpFlush_shape (f : Nat) (s : State) (c : Nat) : shapeOf (qpFlush f s c) = shapeOf s := by
  induction f generalizing s with
  | zero => rfl
  | succ f ih =>
    unfold qpFlush
    repeat' first
      | with_reducible rfl
      | simp only [↓completeWait_shape, ↓withQp_shape, ↓ih]
      | split

@[simp] theorem qpServe_shape (s : State) (c : Nat) (r : QpReq) (dl : WallAt) : shapeOf (qpServe s c r dl) = shapeOf s := by
  unfold qpServe
  repeat' first
    | with_reducible rfl
    | simp only [↓ite_shape, ite_self, ↓qpCount_shape, ↓qpDeliver_shape, ↓qpFlush_shape, ↓qpRefuse_shape, ↓withQp_shape]
    | refine (foldl_shape _ _ _ fun t x => ?_).trans ?_
    | split

@[simp] theorem qpFront_shape (s : State) (c : Nat) (is : QpReq → Bool) (dl : WallAt) :
    shapeOf (qpFront s c is dl) = shapeOf s := by
  unfold qpFront
  repeat' first
    | with_reducible rfl
    | simp only [↓ite_shape, ite_self, ↓qpServe_shape]
    | refine (foldl_shape _ _ _ fun t x => ?_).trans ?_
    | split

@[simp] theorem qpEnqueue_shape (s : State) (r : QpReq) : shapeOf (qpEnqueue s r) = shapeOf s := by
  unfold qpEnqueue
  simp only [↓shape_mk, ↓pend_shape, ↓fuse_shape, ↓parts_shape, ↓ports_shape, ↓fns_shape, ↓coll_shape, ↓ite_shape, ite_self,
    ↓qpDeliver_shape, ↓withQp_shape]

@[simp] theorem svPerform_shape (s : State) (a : HostArgs) (w : CmdWait) : shapeOf (svPerform s a w) = shapeOf s := by
  unfold svPerform
  repeat' first
    | with_reducible rfl
    | simp only [↓ite_shape, ite_self, ↓completeCmd_shape, ↓qpFlush_shape, ↓withFn_shape, ↓withQp_shape]
    | refine (foldl_shape _ _ _ fun t x => ?_).trans ?_
    | split

@[simp] theorem qpConfig_shape (s : State) (k c : Nat) (mem : Bool) (v : Nat) : shapeOf (qpConfig s k c mem v) = shapeOf s := by
  unfold qpConfig
  simp only [↓ite_shape, ite_self, ↓withQp_shape]

@[simp] theorem frameWrite_shape (s : State) (k v : Nat) : shapeOf (frameWrite s k v) = shapeOf s := by
  unfold frameWrite
  simp only [↓shape_mk, ↓pend_shape, ↓fuse_shape, ↓parts_shape, ↓ports_shape, ↓fns_shape, ↓coll_shape, ↓ite_shape, ite_self]

@[simp] theorem qpPoison_shape (s : State) (c : Nat) : shapeOf (qpPoison s c) = shapeOf s := by
  unfold qpPoison
  simp only [↓ite_shape, ite_self, implies_true, ↓foldl_shape, ↓qpFlush_shape, ↓qpRefuse_shape, ↓sendEvent_shape, ↓withQp_shape]

theorem execQpSolveRequest_shape (ctx : BitVec 3) (s : State) : KeepsShape s (execQpSolveRequest ctx s) := by
  unfold execQpSolveRequest
  simp only [↓keeps_next, ↓qpFront_shape]

theorem execQpApplyRequest_shape (ctx : BitVec 3) (s : State) : KeepsShape s (execQpApplyRequest ctx s) := by
  unfold execQpApplyRequest
  simp only [↓keeps_next, ↓qpFront_shape]

theorem execWallDeadline_shape (ctx : BitVec 3) (at_ : WallAt) (s : State) : KeepsShape s (execWallDeadline ctx at_ s) := by
  unfold execWallDeadline
  simp only [↓keeps_next, ↓qpFront_shape]

theorem execSolverSramUncorrectable_shape (ctx : BitVec 3) (s : State) : KeepsShape s (execSolverSramUncorrectable ctx s) := by
  unfold execSolverSramUncorrectable
  simp only [↓keeps_next, ↓qpPoison_shape]

theorem execBsCtxCfgWrite_shape (fn : Nat) (ctx : BitVec 3) (mem : Bool) (v : Word32) (s : State) :
    KeepsShape s (execBsCtxCfgWrite fn ctx mem v s) := by
  unfold execBsCtxCfgWrite
  simp only [↓ite_shape, ite_self, implies_true, ↓keeps_onUnit, ↓qpConfig_shape]

theorem execBsFrameWrite_shape (fn : Nat) (v : Word64) (s : State) : KeepsShape s (execBsFrameWrite fn v s) := by
  unfold execBsFrameWrite
  simp only [↓ite_shape, ite_self, implies_true, ↓keeps_onUnit, ↓frameWrite_shape]

end Sys2Proof.Machine
end

