-- ==== Sys2Proof/Laws/ShapeNoiseOps.lean ====
section
/-! SUPPORT. The operations of Machine/NoiseOps.lean keep the shape of the state. -/

namespace Sys2Proof.Machine

set_option linter.unusedSimpArgs false
set_option simprocs false

@[simp] theorem withNoise_shape (s : State) (f : Noise → Noise) : shapeOf (withNoise s f) = shapeOf s := by
  unfold withNoise
  simp only [↓shape_mk, ↓pend_shape, ↓fuse_shape, ↓parts_shape, ↓ports_shape, ↓fns_shape, ↓coll_shape]

@[simp] theorem seedGive_shape (s : State) (r : SeedReq) (seed : Option (List Byte)) :
    shapeOf (seedGive s r seed) = shapeOf s := by
  unfold seedGive
  repeat' first
    | with_reducible rfl
    | simp only [↓ite_shape, ↓answerBuf_shape, ↓completeWait_shape, ↓toHost_shape]
    | refine (foldl_shape _ _ _ fun t x => ?_).trans ?_
    | split

@[simp] theorem seedPoison_shape (f : Nat) (s : State) : shapeOf (seedPoison f s) = shapeOf s := by
  induction f generalizing s with
  | zero => rfl
  | succ f ih =>
    unfold seedPoison
    split
    · rfl
    · simp only [↓seedGive_shape, ↓withNoise_shape, ↓ih]

@[simp] theorem seedEnter_shape (s : State) (d : List Byte) : shapeOf (seedEnter s d) = shapeOf s := by
  unfold seedEnter
  repeat' first
    | with_reducible rfl
    | simp only [↓seedGive_shape, ↓withNoise_shape]
    | refine (foldl_shape _ _ _ fun t x => ?_).trans ?_
    | split

@[simp] theorem seedAsk_shape (s : State) (r : SeedReq) : shapeOf (seedAsk s r) = shapeOf s := by
  unfold seedAsk
  repeat' first
    | with_reducible rfl
    | simp only [↓ite_shape, ↓seedGive_shape, ↓withNoise_shape]
    | refine (foldl_shape _ _ _ fun t x => ?_).trans ?_
    | split

@[simp] theorem noiseFail_shape (s : State) (apt : Bool) : shapeOf (noiseFail s apt) = shapeOf s := by
  unfold noiseFail
  simp only [↓seedPoison_shape, ↓sendEvent_shape, ↓withNoise_shape]

theorem execTrngHealthFail_shape (apt : Bool) (dt : Word64) (s : State) : KeepsShape s (execTrngHealthFail apt dt s) := by
  unfold execTrngHealthFail
  simp only [↓keeps_next, ↓advance_shape, ↓noiseFail_shape]

theorem execTrngRestart_shape (s : State) : KeepsShape s (execTrngRestart s) := by
  unfold execTrngRestart
  simp only [↓keeps_next, ↓withNoise_shape]

theorem execNoiseStartupTestDone_shape (s : State) : KeepsShape s (execNoiseStartupTestDone s) := by
  unfold execNoiseStartupTestDone
  simp only [↓ite_shape, ite_self, ↓keeps_next, ↓sendEvent_shape, ↓withNoise_shape]

theorem execSeedConditioned_shape (samples : Word512) (s : State) : KeepsShape s (execSeedConditioned samples s) := by
  unfold execSeedConditioned
  simp only [↓ite_shape, ite_self, ↓keeps_next, ↓seedEnter_shape]

end Sys2Proof.Machine
end

