-- ==== Sys2Proof/Laws/ShapeIssue.lean ====
section
/-! SUPPORT. The operations of Machine/Issue.lean keep the shape of the state. -/

namespace Sys2Proof.Machine

set_option linter.unusedSimpArgs false
set_option simprocs false

@[simp] theorem hostRun_shape (p buf : Nat) (s : State) (r : Nat × List Byte) : shapeOf (hostRun p buf s r) = shapeOf s := by
  unfold hostRun
  simp only [↓ite_shape, ite_self, ↓toHost_shape, ↓withPart_shape]

@[simp] theorem hostOut_shape (s : State) (p l buf : Nat) (runs : List (Nat × List Byte)) :
    shapeOf (hostOut s p l buf runs) = shapeOf s := by
  unfold hostOut
  simp only [↓ite_shape, ite_self, implies_true, ↓foldl_shape, ↓hostRun_shape, ↓withDma_shape]

@[simp] theorem poisonSrc_shape (s : State) (p l : Nat) (buf : Option Nat) : shapeOf (poisonSrc s p l buf) = shapeOf s := by
  unfold poisonSrc
  repeat' first
    | with_reducible rfl
    | simp only [↓withDma_shape]
    | refine (foldl_shape _ _ _ fun t x => ?_).trans ?_
    | split

@[simp] theorem sendItem_shape (s : State) (p l : Nat) (f : RemoteFill) (src : Option Nat) :
    shapeOf (sendItem s p l f src) = shapeOf s := by
  unfold sendItem
  repeat' first
    | with_reducible rfl
    | simp only [↓ite_shape, ↓landArrival_shape, ↓poisonSrc_shape, ↓rejectAt_shape, ↓sendMsg_shape, ↓withLk_shape]
    | refine (foldl_shape _ _ _ fun t x => ?_).trans ?_
    | split

@[simp] theorem hbmWrites_shape (s : State) (p l : Nat) (runs : List (Nat × List Byte)) (buf : Option Nat) :
    shapeOf (hbmWrites s p l runs buf) = shapeOf s := by
  unfold hbmWrites
  repeat' first
    | with_reducible rfl
    | simp only [↓ite_shape, ite_self, ↓hbmStore_shape, ↓poisonSrc_shape, ↓rejectAt_shape, ↓sendWrite_shape]
    | refine (foldl_shape _ _ _ fun t x => ?_).trans ?_
    | split

@[simp] theorem setFetched_shape (s : State) (p l buf sram : Nat) (d : List Byte) (poison : Bool) :
    shapeOf (setFetched s p l buf sram d poison) = shapeOf s := by
  unfold setFetched
  simp only [↓withDma_shape]

@[simp] theorem hbmReadOp_shape (s : State) (p l buf off n sram : Nat) :
    shapeOf (hbmReadOp s p l buf off n sram) = shapeOf s := by
  unfold hbmReadOp
  repeat' first
    | with_reducible rfl
    | simp only [↓countPoisonRead_shape, ↓rejectAt_shape, ↓sendMsg_shape, ↓setFetched_shape, ↓withLk_shape]
    | refine (foldl_shape _ _ _ fun t x => ?_).trans ?_
    | split

@[simp] theorem hbmAddNow_shape (s : State) (p l off : Nat) (vals : List Nat) (buf : Nat) :
    shapeOf (hbmAddNow s p l off vals buf) = shapeOf s := by
  unfold hbmAddNow
  repeat' first
    | with_reducible rfl
    | simp only [↓atomicAdd_shape, ↓poisonSrc_shape, ↓rejectAt_shape, ↓sendWrite_shape]
    | refine (foldl_shape _ _ _ fun t x => ?_).trans ?_
    | split

@[simp] theorem hbmAddHeld_shape (s : State) (p l off : Nat) (vals : List Nat) (buf : Nat) :
    shapeOf (hbmAddHeld s p l off vals buf) = shapeOf s := by
  unfold hbmAddHeld
  repeat' first
    | with_reducible rfl
    | simp only [↓poisonSrc_shape, ↓rejectAt_shape, ↓withLk_shape, ↓withPart_shape]
    | refine (foldl_shape _ _ _ fun t x => ?_).trans ?_
    | split

@[simp] theorem dispatchOut_shape (p l : Nat) (s : State) (o : ClOut) : shapeOf (dispatchOut p l s o) = shapeOf s := by
  unfold dispatchOut
  repeat' first
    | with_reducible rfl
    | simp only [↓collIssue_shape, ↓hbmAddHeld_shape, ↓hostOut_shape, ↓qpEnqueue_shape, ↓regread_shape, ↓seedAsk_shape,
    ↓sendItem_shape]
    | refine (foldl_shape _ _ _ fun t x => ?_).trans ?_
    | split

@[simp] theorem hbmDo_shape (s : State) (p l : Nat) (o : HbmOp) : shapeOf (hbmDo s p l o) = shapeOf s := by
  unfold hbmDo
  repeat' first
    | with_reducible rfl
    | simp only [↓hbmAddNow_shape, ↓hbmReadOp_shape, ↓hbmWrites_shape]
    | refine (foldl_shape _ _ _ fun t x => ?_).trans ?_
    | split

@[simp] theorem drainOps_shape (p l : Nat) (c : ConvUnit) (o kept : List HbmOp) (s : State) :
    shapeOf (drainOps p l c o kept s).1 = shapeOf s := by
  induction o generalizing kept s with
  | nil => rfl
  | cons o t ih =>
    unfold drainOps
    (repeat' split) <;> simp only [↓ite_shape_fst, ite_self, ↓hbmDo_shape, ↓ih]

@[simp] theorem drainHbm_shape (p : Nat) (s : State) (l : Nat) : shapeOf (drainHbm p s l) = shapeOf s := by
  unfold drainHbm
  simp only [↓ite_shape, ite_self, ↓drainOps_shape, ↓withDma_shape]

@[simp] theorem drainAll_shape (s : State) (p : Nat) : shapeOf (drainAll s p) = shapeOf s := by
  unfold drainAll
  simp only [implies_true, ↓foldl_shape, ↓drainHbm_shape]

end Sys2Proof.Machine
end

