-- ==== Sys2Proof/Laws/ShapeStall.lean ====
section
/-! SUPPORT. The operations of Machine/Stall.lean keep the shape of the state. -/

namespace Sys2Proof.Machine

set_option linter.unusedSimpArgs false
set_option simprocs false

@[simp] theorem withCluster_shape (s : State) (p i : Nat) (f : Cluster → Cluster) :
    shapeOf (withCluster s p i f) = shapeOf s := by
  unfold withCluster
  simp only [↓withPart_shape]

@[simp] theorem charge_shape (s : State) (p cause n : Nat) : shapeOf (charge s p cause n) = shapeOf s := by
  unfold charge
  simp only [↓ite_shape, ite_self, ↓sendEvent_shape, ↓withPart_shape]

@[simp] theorem settleOwed_shape (s : State) (p : Nat) : shapeOf (settleOwed s p) = shapeOf s := by
  unfold settleOwed
  simp only [↓ite_shape, ite_self, implies_true, ↓foldl_shape, ↓charge_shape, ↓withPart_shape]

@[simp] theorem wdogEnd_shape (s : State) (p : Nat) : shapeOf (wdogEnd s p) = shapeOf s := by
  unfold wdogEnd
  simp only [↓ite_shape, ite_self, ↓faultEnd_shape, ↓sendEvent_shape, ↓withPart_shape]

@[simp] theorem idleCycle_shape (s : State) (p : Nat) : shapeOf (idleCycle s p) = shapeOf s := by
  unfold idleCycle
  simp only [↓withPart_shape]

@[simp] theorem stallCycle_shape (s : State) (p : Nat) (hold : Option Nat) (item : Nat × Nat) :
    shapeOf (stallCycle s p hold item) = shapeOf s := by
  unfold stallCycle
  repeat' first
    | with_reducible rfl
    | simp only [↓ite_shape, ite_self, ↓charge_shape, ↓wdogEnd_shape, ↓withPart_shape]
    | refine (foldl_shape _ _ _ fun t x => ?_).trans ?_
    | split

@[simp] theorem trapStrict_shape (s : State) (p k : Nat) : shapeOf (trapStrict s p k) = shapeOf s := by
  unfold trapStrict
  simp only [↓faultEnd_shape, ↓withPart_shape]

@[simp] theorem countTd_shape (s : State) (p : Nat) (b : Bundle) : shapeOf (countTd s p b) = shapeOf s := by
  unfold countTd
  repeat' first
    | with_reducible rfl
    | simp only [↓ite_shape, ↓withPart_shape]
    | refine (foldl_shape _ _ _ fun t x => ?_).trans ?_
    | split

@[simp] theorem freezePart_shape (s : State) (p : Nat) : shapeOf (freezePart s p) = shapeOf s := by
  unfold freezePart
  simp only [↓sendEvent_shape, ↓withPart_shape]

@[simp] theorem brkFreeze_shape (s : State) (p pc : Nat) : shapeOf (brkFreeze s p pc) = shapeOf s := by
  unfold brkFreeze
  simp only [↓freezePart_shape, ↓withPart_shape]

end Sys2Proof.Machine
end

