-- ==== Sys2Proof/Laws/ShapeBoundary.lean ====
section
/-! SUPPORT. The operations of Machine/Boundary.lean keep the shape of the state. -/

namespace Sys2Proof.Machine

set_option linter.unusedSimpArgs false
set_option simprocs false

@[simp] theorem sendAtomics_shape (s : State) (p : Nat) : shapeOf (sendAtomics s p) = shapeOf s := by
  unfold sendAtomics
  simp only [implies_true, ↓foldl_shape, ↓sendWrite_shape, ↓withLk_shape]

@[simp] theorem applyAtomics_shape (s : State) (p : Nat) : shapeOf (applyAtomics s p) = shapeOf s := by
  unfold applyAtomics
  simp only [implies_true, ↓foldl_shape, ↓atomicAdd_shape, ↓withPart_shape]

@[simp] theorem writeLog_shape (s : State) (p : Nat) : shapeOf (writeLog s p) = shapeOf s := by
  unfold writeLog
  simp only [↓ite_shape, ite_self, ↓hbmStore_shape, ↓sendEvent_shape, ↓withPart_shape]

@[simp] theorem closeVerdict_shape (s : State) (p : Nat) : shapeOf (closeVerdict s p) = shapeOf s := by
  unfold closeVerdict
  repeat' first
    | with_reducible rfl
    | simp only [↓ite_shape, ite_self, ↓sendEvent_shape, ↓withSe_shape]
    | refine (foldl_shape _ _ _ fun t x => ?_).trans ?_
    | split

@[simp] theorem selectEntry_shape (s : State) (p : Nat) : shapeOf (selectEntry s p) = shapeOf s := by
  unfold selectEntry
  repeat' first
    | with_reducible rfl
    | simp only [implies_true, ↓foldl_shape, ↓stepDone_shape, ↓withCtx_shape, ↓withPart_shape]
    | refine (foldl_shape _ _ _ fun t x => ?_).trans ?_
    | split

@[simp] theorem takeReroute_shape (s : State) : shapeOf (takeReroute s) = shapeOf s := by
  unfold takeReroute
  simp only [↓shape_mk, ↓pend_shape, ↓fuse_shape, ↓parts_shape, ↓ports_shape, ↓fns_shape, ↓coll_shape, ↓ite_shape, ite_self]

@[simp] theorem noteFreeze_shape (s : State) (p : Nat) : shapeOf (noteFreeze s p) = shapeOf s := by
  unfold noteFreeze
  simp only [↓ite_shape, ite_self, ↓withPart_shape]

@[simp] theorem closeStep_shape (s : State) (p pc : Nat) (b : Bundle) (halt : Bool) :
    shapeOf (closeStep s p pc b halt) = shapeOf s := by
  unfold closeStep
  repeat' first
    | with_reducible rfl
    | simp only [↓shape_mk, ↓pend_shape, ↓fuse_shape, ↓parts_shape, ↓ports_shape, ↓fns_shape, ↓coll_shape, implies_true,
    ↓foldl_shape, ↓beginAhead_shape, ↓closeVerdict_shape, ↓dispatchOut_shape, ↓drainAll_shape, ↓flushCut_shape, ↓jobEnd_shape,
    ↓noteFreeze_shape, ↓pairGangs_shape, ↓periodCut_shape, ↓selectEntry_shape, ↓stepDone_shape, ↓takeReroute_shape,
    ↓withPart_shape, ↓writeLog_shape]
    | refine (foldl_shape _ _ _ fun t x => ?_).trans ?_
    | split

end Sys2Proof.Machine
end

