-- ==== Sys2Proof/Laws/ShapeTick.lean ====
section
/-! SUPPORT. The operations of Machine/Tick.lean keep the shape of the state. -/

namespace Sys2Proof.Machine

set_option linter.unusedSimpArgs false
set_option simprocs false

@[simp] theorem beginStep_shape (s : State) (p : Nat) : shapeOf (beginStep s p) = shapeOf s := by
  unfold beginStep
  simp only [↓ite_shape, ite_self, ↓noteUnreplayable_shape, ↓withPart_shape]

@[simp] theorem takeCycle_shape (s : State) (p : Nat) (outs : List CycleOut) : shapeOf (takeCycle s p outs) = shapeOf s := by
  unfold takeCycle
  simp only [implies_true, ↓foldl_shape, ↓dispatchOut_shape, ↓drainAll_shape, ↓noteFreeze_shape, ↓noteUnreplayable_shape,
    ↓withPart_shape]

@[simp] theorem issueBundle_shape (s0 : State) (p a : Nat) (b : Bundle) : shapeOf (issueBundle s0 p a b) = shapeOf s0 := by
  unfold issueBundle
  repeat' first
    | with_reducible rfl
    | simp only [↓ite_shape, ↓applyAtomics_shape, ↓beginStep_shape, ↓closeStep_shape, ↓countTd_shape, ↓stallCycle_shape,
    ↓takeCycle_shape, ↓withPart_shape]
    | refine (foldl_shape _ _ _ fun t x => ?_).trans ?_
    | split

@[simp] theorem boundaryWait_shape (s : State) (p : Nat) : shapeOf (boundaryWait s p) = shapeOf s := by
  unfold boundaryWait
  simp only [↓ite_shape, ite_self, ↓sendAtomics_shape, ↓withPart_shape]

@[simp] theorem boundaryArrive_shape (s : State) (p : Nat) : shapeOf (boundaryArrive s p) = shapeOf s := by
  unfold boundaryArrive
  simp only [↓ite_shape, ite_self, ↓barrierArrive_shape, ↓boundaryCut_shape, ↓stageEnd_shape, ↓withPart_shape]

@[simp] theorem readyBundle_shape (s : State) (p : Nat) (b : Bundle) : shapeOf (readyBundle s p b) = shapeOf s := by
  unfold readyBundle
  repeat' first
    | with_reducible rfl
    | simp only [↓ite_shape, ite_self, ↓boundaryArrive_shape, ↓brkFreeze_shape, ↓faultEnd_shape, ↓idleCycle_shape,
    ↓issueBundle_shape, ↓stallCycle_shape, ↓trapStrict_shape]
    | refine (foldl_shape _ _ _ fun t x => ?_).trans ?_
    | split

@[simp] theorem runTick_shape (s0 : State) (p : Nat) : shapeOf (runTick s0 p) = shapeOf s0 := by
  unfold runTick
  repeat' first
    | with_reducible rfl
    | simp only [↓ite_shape, ite_self, ↓boundaryWait_shape, ↓readyBundle_shape, ↓settleOwed_shape, ↓stallCycle_shape,
    ↓twBoundary_shape]
    | refine (foldl_shape _ _ _ fun t x => ?_).trans ?_
    | split

@[simp] theorem partTick_shape (s : State) (p : Nat) : shapeOf (partTick s p) = shapeOf s := by
  unfold partTick
  simp only [↓ite_shape, ite_self, ↓freezePart_shape, ↓idleCycle_shape, ↓runTick_shape]

@[simp] theorem settleTick_shape (ps : List Nat) (s : State) : shapeOf (settleTick ps s) = shapeOf s := by
  unfold settleTick
  simp only [↓shape_mk, ↓pend_shape, ↓fuse_shape, ↓parts_shape, ↓ports_shape, ↓fns_shape, ↓coll_shape]

@[simp] theorem replanCheck_shape (s : State) : shapeOf (replanCheck s) = shapeOf s := by
  unfold replanCheck
  simp only [↓shape_mk, ↓pend_shape, ↓fuse_shape, ↓parts_shape, ↓ports_shape, ↓fns_shape, ↓coll_shape, ↓ite_shape, ite_self]

@[simp] theorem tickAll_shape (s : State) : shapeOf (tickAll s) = shapeOf s := by
  unfold tickAll
  simp only [↓shape_mk, ↓pend_shape, ↓fuse_shape, ↓parts_shape, ↓ports_shape, ↓fns_shape, ↓coll_shape, ↓ite_shape, ite_self,
    implies_true, ↓foldl_shape, ↓advanceFrac_shape, ↓partTick_shape, ↓replanCheck_shape]

@[simp] theorem slotTick_shape (p : Nat) (b : Bundle) (s : State) : shapeOf (slotTick p b s) = shapeOf s := by
  unfold slotTick
  simp only [↓shape_mk, ↓pend_shape, ↓fuse_shape, ↓parts_shape, ↓ports_shape, ↓fns_shape, ↓coll_shape, ↓ite_shape, ite_self,
    ↓partTick_shape, ↓withPart_shape]

theorem slotExec_shape (p : Nat) (b : Bundle) (s : State) : KeepsShape s (slotExec p b s) := by
  unfold slotExec
  simp only [implies_true, ↓keeps_onUnit, ↓slotTick_shape]

end Sys2Proof.Machine
end

