-- ==== Sys2Proof/Laws/ShapeArraySlot.lean ====
section
/-! SUPPORT. The operations of Machine/ArraySlot.lean keep the shape of the state. -/

namespace Sys2Proof.Machine

set_option linter.unusedSimpArgs false
set_option simprocs false

theorem execPass_shape (p : Nat) (a : ArrayArgs) (s : State) : KeepsShape s (execPass p a s) := by
  unfold execPass
  simp only [↓slotExec_shape]

theorem execStallLoad_shape (p : Nat) (a : ArrayArgs) (s : State) : KeepsShape s (execStallLoad p a s) := by
  unfold execStallLoad
  simp only [↓slotExec_shape]

theorem execShadowLoad_shape (p : Nat) (a : ArrayArgs) (s : State) : KeepsShape s (execShadowLoad p a s) := by
  unfold execShadowLoad
  simp only [↓slotExec_shape]

theorem execRetire_shape (p : Nat) (pred acc : BitVec 3) (s : State) : KeepsShape s (execRetire p pred acc s) := by
  unfold execRetire
  simp only [↓slotExec_shape]

theorem execDrain_shape (p : Nat) (pred acc : BitVec 3) (s : State) : KeepsShape s (execDrain p pred acc s) := by
  unfold execDrain
  simp only [↓slotExec_shape]

theorem execStream_shape (p : Nat) (a : FeedArgs) (s : State) : KeepsShape s (execStream p a s) := by
  unfold execStream
  simp only [↓slotExec_shape]

theorem execStat_shape (p : Nat) (a : FeedArgs) (s : State) : KeepsShape s (execStat p a s) := by
  unfold execStat
  simp only [↓slotExec_shape]

theorem execStreamStat_shape (p : Nat) (a : FeedArgs) (s : State) : KeepsShape s (execStreamStat p a s) := by
  unfold execStreamStat
  simp only [↓slotExec_shape]

theorem execStore_shape (p : Nat) (a : StoreArgs) (s : State) : KeepsShape s (execStore p a s) := by
  unfold execStore
  simp only [↓slotExec_shape]

end Sys2Proof.Machine
end

