-- ==== Sys2Proof/Laws/ShapeRunOps.lean ====
section
/-! SUPPORT. The operations of Machine/RunOps.lean keep the shape of the state. -/

namespace Sys2Proof.Machine

set_option linter.unusedSimpArgs false
set_option simprocs false

theorem execItemArrival_shape (l : Nat) (buf : BitVec 6) (mark : Option (BitVec 4)) (s : State) :
    KeepsShape s (execItemArrival l buf mark s) := by
  unfold execItemArrival
  repeat' first
    | with_reducible rfl
    | simp only [implies_true, ↓keeps_onUnit, ↓landItem_shape, ↓noteFreeze_shape]
    | refine (foldl_shape _ _ _ fun t x => ?_).trans ?_
    | split

theorem execStallWatchdog_shape (p : Nat) (s : State) : KeepsShape s (execStallWatchdog p s) := by
  unfold execStallWatchdog
  simp only [↓ite_shape, ite_self, implies_true, ↓keeps_onUnit, ↓wdogEnd_shape]

theorem execDebugFreeze_shape (p : Nat) (s : State) : KeepsShape s (execDebugFreeze p s) := by
  unfold execDebugFreeze
  repeat' first
    | with_reducible rfl
    | simp only [↓ite_shape, ite_self, implies_true, ↓keeps_onUnit, ↓freezePart_shape]
    | refine (foldl_shape _ _ _ fun t x => ?_).trans ?_
    | split

@[simp] theorem resumePart_shape (s : State) (p : Nat) : shapeOf (resumePart s p) = shapeOf s := by
  unfold resumePart
  simp only [↓ite_shape, ite_self, ↓requestReplay_shape, ↓withPart_shape]

theorem execDebugResume_shape (p : Nat) (s : State) : KeepsShape s (execDebugResume p s) := by
  unfold execDebugResume
  simp only [implies_true, ↓keeps_onUnit, ↓resumePart_shape]

@[simp] theorem debugEnd_shape (s : State) (p : Nat) : shapeOf (debugEnd s p) = shapeOf s := by
  unfold debugEnd
  simp only [↓ite_shape, ite_self, ↓faultEnd_shape]

theorem execDebugEndJob_shape (p : Nat) (s : State) : KeepsShape s (execDebugEndJob p s) := by
  unfold execDebugEndJob
  simp only [implies_true, ↓keeps_onUnit, ↓debugEnd_shape]

theorem execHostPathTimeout_shape (p : Nat) (s : State) : KeepsShape s (execHostPathTimeout p s) := by
  unfold execHostPathTimeout
  simp only [↓ite_shape, ite_self, implies_true, ↓keeps_onUnit, ↓faultEnd_shape]

theorem execReplay_shape (p : Nat) (restoreBad copyBad : Bool) (s : State) :
    KeepsShape s (execReplay p restoreBad copyBad s) := by
  unfold execReplay
  simp only [implies_true, ↓keeps_onUnit, ↓doReplay_shape]

theorem execReplayRestart_shape (p : Nat) (dt : Word64) (s : State) : KeepsShape s (execReplayRestart p dt s) := by
  unfold execReplayRestart
  simp only [implies_true, ↓keeps_onUnit, ↓advance_shape, ↓replayRestart_shape]

theorem execBarrierReleaseTime_shape (p : Nat) (s : State) : KeepsShape s (execBarrierReleaseTime p s) := by
  unfold execBarrierReleaseTime
  repeat' first
    | with_reducible rfl
    | simp only [↓shape_mk, ↓pend_shape, ↓fuse_shape, ↓parts_shape, ↓ports_shape, ↓fns_shape, ↓coll_shape, ↓ite_shape, ite_self,
    implies_true, ↓keeps_onUnit, ↓partTick_shape]
    | refine (foldl_shape _ _ _ fun t x => ?_).trans ?_
    | split

@[simp] theorem logTail_shape (s : State) (p : Nat) (v : Word32) : shapeOf (logTail s p v) = shapeOf s := by
  unfold logTail
  simp only [↓withPart_shape]

theorem execLogTailWrite_shape (fn : Nat) (v : Word32) (s : State) : KeepsShape s (execLogTailWrite fn v s) := by
  unfold execLogTailWrite
  simp only [↓ite_shape, ite_self, implies_true, ↓keeps_onUnit, ↓logTail_shape]

@[simp] theorem fetchEntries_shape (p k f : Nat) (s : State) : shapeOf (fetchEntries p k f s) = shapeOf s := by
  induction f generalizing s with
  | zero => rfl
  | succ f ih =>
    unfold fetchEntries
    repeat' first
      | with_reducible rfl
      | simp only [↓ite_shape, ite_self, ↓stepDone_shape, ↓withCtx_shape, ↓ih]
      | split

@[simp] theorem fetchCtx_shape (s : State) (p k : Nat) : shapeOf (fetchCtx s p k) = shapeOf s := by
  unfold fetchCtx
  simp only [↓ite_shape, ite_self, ↓fetchEntries_shape, ↓selectEntry_shape]

theorem execStepEntryFetch_shape (k : Nat) (s : State) : KeepsShape s (execStepEntryFetch k s) := by
  unfold execStepEntryFetch
  repeat' first
    | with_reducible rfl
    | simp only [implies_true, ↓keeps_onUnit, ↓fetchCtx_shape]
    | refine (foldl_shape _ _ _ fun t x => ?_).trans ?_
    | split

end Sys2Proof.Machine
end

