-- ==== Sys2Proof/Laws/ShapeFaultOps.lean ====
section
/-! SUPPORT. The operations of Machine/FaultOps.lean keep the shape of the state. -/

namespace Sys2Proof.Machine

set_option linter.unusedSimpArgs false
set_option simprocs false

@[simp] theorem replayAll_shape (s : State) : shapeOf (replayAll s) = shapeOf s := by
  unfold replayAll
  simp only [implies_true, ↓foldl_shape, ↓requestReplay_shape]

@[simp] theorem twAbort_shape (s : State) : shapeOf (twAbort s) = shapeOf s := by
  unfold twAbort
  simp only [↓shape_mk, ↓pend_shape, ↓fuse_shape, ↓parts_shape, ↓ports_shape, ↓fns_shape, ↓coll_shape, ↓ite_shape, ite_self,
    ↓twReturn_shape]

@[simp] theorem clusterOut_shape (s : State) (phys : Nat) : shapeOf (clusterOut s phys) = shapeOf s := by
  unfold clusterOut
  simp only [↓shape_mk, ↓pend_shape, ↓fuse_shape, ↓parts_shape, ↓ports_shape, ↓fns_shape, ↓coll_shape, ↓declareDown_shape]

@[simp] theorem takeover_shape (s : State) (p : Nat) : shapeOf (takeover s p) = shapeOf s := by
  unfold takeover
  simp only [↓ite_shape, ite_self, ↓requestReplay_shape, ↓withSe_shape]

@[simp] theorem clusterFails_shape (s : State) (l : Nat) : shapeOf (clusterFails s l) = shapeOf s := by
  unfold clusterFails
  repeat' first
    | with_reducible rfl
    | simp only [↓shape_mk, ↓pend_shape, ↓fuse_shape, ↓parts_shape, ↓ports_shape, ↓fns_shape, ↓coll_shape, ↓ite_shape, ite_self,
    ↓clusterOut_shape, ↓faultEnd_shape, ↓sendEvent_shape, ↓spareWarn_shape, ↓takeover_shape, ↓twAbort_shape]
    | refine (foldl_shape _ _ _ fun t x => ?_).trans ?_
    | split

theorem execClusterFail_shape (l : Nat) (s : State) : KeepsShape s (execClusterFail l s) := by
  unfold execClusterFail
  simp only [implies_true, ↓keeps_onUnit, ↓clusterFails_shape]

@[simp] theorem noteError_shape (s : State) (p l structure_ place : Nat) :
    shapeOf (noteError s p l structure_ place) = shapeOf s := by
  unfold noteError
  simp only [↓withSe_shape]

@[simp] theorem uncorrectable_shape (s : State) (l structure_ place : Nat) :
    shapeOf (uncorrectable s l structure_ place) = shapeOf s := by
  unfold uncorrectable
  simp only [↓ite_shape, ite_self, ↓addHealth_shape, ↓clusterFails_shape, ↓faultEnd_shape, ↓noteError_shape,
    ↓requestReplay_shape, ↓sendEvent_shape]

theorem execUncorrectableError_shape (l : Nat) (structure_ : BitVec 8) (place : BitVec 32) (s : State) :
    KeepsShape s (execUncorrectableError l structure_ place s) := by
  unfold execUncorrectableError
  simp only [implies_true, ↓keeps_onUnit, ↓uncorrectable_shape]

theorem execHealthDecay_shape (dt : Word64) (s : State) : KeepsShape s (execHealthDecay dt s) := by
  unfold execHealthDecay
  simp only [↓shape_mk, ↓pend_shape, ↓fuse_shape, ↓parts_shape, ↓ports_shape, ↓fns_shape, ↓coll_shape, ↓keeps_next,
    ↓advance_shape]

@[simp] theorem withArray_shape (s : State) (p i : Nat) (f : ArrayUnit → ArrayUnit) :
    shapeOf (withArray s p i f) = shapeOf s := by
  unfold withArray
  simp only [↓withPart_shape]

@[simp] theorem relayHop_shape (s : State) (p i n : Nat) : shapeOf (relayHop s p i n) = shapeOf s := by
  unfold relayHop
  repeat' first
    | with_reducible rfl
    | simp only [↓withArray_shape]
    | refine (foldl_shape _ _ _ fun t x => ?_).trans ?_
    | split

@[simp] theorem parityError_shape (s : State) (l n : Nat) : shapeOf (parityError s l n) = shapeOf s := by
  unfold parityError
  repeat' first
    | with_reducible rfl
    | simp only [↓ite_shape, ite_self, ↓noteError_shape, ↓relayHop_shape, ↓requestReplay_shape, ↓withArray_shape]
    | refine (foldl_shape _ _ _ fun t x => ?_).trans ?_
    | split

theorem execNeighbourParityError_shape (l : Nat) (hop : BitVec 2) (s : State) :
    KeepsShape s (execNeighbourParityError l hop s) := by
  unfold execNeighbourParityError
  simp only [implies_true, ↓keeps_onUnit, ↓parityError_shape]

@[simp] theorem withSpot_shape (s : State) (p i : Nat) (f : SpotSample → SpotSample) :
    shapeOf (withSpot s p i f) = shapeOf s := by
  unfold withSpot
  simp only [↓withPart_shape]

@[simp] theorem spotMiss_shape (s : State) (p i l j : Nat) (used : List Nat) (checker : Option Nat) :
    shapeOf (spotMiss s p i l j used checker) = shapeOf s := by
  unfold spotMiss
  repeat' first
    | with_reducible rfl
    | simp only [↓ite_shape, ite_self, ↓addHealth_shape, ↓clusterFails_shape, ↓clusterOut_shape, ↓faultEnd_shape,
    ↓requestReplay_shape, ↓sendEvent_shape, ↓withSe_shape, ↓withSpot_shape]
    | refine (foldl_shape _ _ _ fun t x => ?_).trans ?_
    | split

@[simp] theorem spotCompare_shape (s : State) (l : Nat) (differs : Bool) : shapeOf (spotCompare s l differs) = shapeOf s := by
  unfold spotCompare
  repeat' first
    | with_reducible rfl
    | simp only [↓ite_shape, ite_self, ↓spotMiss_shape, ↓withSe_shape, ↓withSpot_shape]
    | refine (foldl_shape _ _ _ fun t x => ?_).trans ?_
    | split

theorem execSpotCheckCompare_shape (l : Nat) (differs : Bool) (s : State) :
    KeepsShape s (execSpotCheckCompare l differs s) := by
  unfold execSpotCheckCompare
  simp only [implies_true, ↓keeps_onUnit, ↓spotCompare_shape]

@[simp] theorem holdBoundary_shape (s : State) (p : Nat) : shapeOf (holdBoundary s p) = shapeOf s := by
  unfold holdBoundary
  simp only [↓withPart_shape]

theorem execTestWindowOpen_shape (s : State) : KeepsShape s (execTestWindowOpen s) := by
  unfold execTestWindowOpen
  simp only [↓shape_mk, ↓pend_shape, ↓fuse_shape, ↓parts_shape, ↓ports_shape, ↓fns_shape, ↓coll_shape, ↓ite_shape, ↓keeps_next,
    ↓holdBoundary_shape, ↓sendEvent_shape]
  (repeat' split) <;> first
    | rfl
    | (simp_all only [↓shape_mk, ↓pend_shape, ↓fuse_shape, ↓parts_shape, ↓ports_shape, ↓fns_shape, ↓coll_shape, ↓ite_shape,
    ↓keeps_next, ↓holdBoundary_shape, ↓sendEvent_shape]; done)

@[simp] theorem twClose_shape (s : State) (w : TestWindow) (fail : Option (BitVec 8)) :
    shapeOf (twClose s w fail) = shapeOf s := by
  unfold twClose
  repeat' first
    | with_reducible rfl
    | simp only [↓shape_mk, ↓pend_shape, ↓fuse_shape, ↓parts_shape, ↓ports_shape, ↓fns_shape, ↓coll_shape, ↓ite_shape, ite_self,
    ↓clusterOut_shape, ↓holdBoundary_shape, ↓sendEvent_shape, ↓spareWarn_shape, ↓twDone_shape, ↓twReturn_shape]
    | refine (foldl_shape _ _ _ fun t x => ?_).trans ?_
    | split

theorem execTestWindowClose_shape (fail : Option (BitVec 8)) (s : State) : KeepsShape s (execTestWindowClose fail s) := by
  unfold execTestWindowClose
  repeat' first
    | with_reducible rfl
    | simp only [↓ite_shape, ite_self, ↓keeps_next, ↓twClose_shape]
    | refine (foldl_shape _ _ _ fun t x => ?_).trans ?_
    | split

@[simp] theorem withBridge_shape (s : State) (b : Nat) (f : Bridge → Bridge) : shapeOf (withBridge s b f) = shapeOf s := by
  unfold withBridge
  simp only [↓shape_mk, ↓pend_shape, ↓fuse_shape, ↓parts_shape, ↓ports_shape, ↓fns_shape, ↓coll_shape]

@[simp] theorem bridgeOut_shape (s : State) (b : Nat) : shapeOf (bridgeOut s b) = shapeOf s := by
  unfold bridgeOut
  repeat' first
    | with_reducible rfl
    | simp only [↓shape_mk, ↓pend_shape, ↓fuse_shape, ↓parts_shape, ↓ports_shape, ↓fns_shape, ↓coll_shape, ↓replayAll_shape,
    ↓withdraw_shape]
    | refine (foldl_shape _ _ _ fun t x => ?_).trans ?_
    | split

@[simp] theorem groupOut_shape (s : State) (b g : Nat) : shapeOf (groupOut s b g) = shapeOf s := by
  unfold groupOut
  simp only [↓ite_shape, ite_self, ↓bridgeOut_shape, ↓replayAll_shape, ↓withBridge_shape]

theorem execBridgeLaneFail_shape (bridge group : Nat) (s : State) : KeepsShape s (execBridgeLaneFail bridge group s) := by
  unfold execBridgeLaneFail
  simp only [↓ite_shape, ite_self, implies_true, ↓keeps_onUnit, ↓addHealth_shape, ↓groupOut_shape, ↓withBridge_shape]

theorem execBridgeGroupLoss_shape (bridge group : Nat) (s : State) : KeepsShape s (execBridgeGroupLoss bridge group s) := by
  unfold execBridgeGroupLoss
  simp only [implies_true, ↓keeps_onUnit, ↓groupOut_shape]

theorem execBridgeLoss_shape (bridge : Nat) (s : State) : KeepsShape s (execBridgeLoss bridge s) := by
  unfold execBridgeLoss
  simp only [↓ite_shape, ite_self, implies_true, ↓keeps_onUnit, ↓bridgeOut_shape, ↓withBridge_shape]

theorem execHubCoreFail_shape (core : BitVec 2) (s : State) : KeepsShape s (execHubCoreFail core s) := by
  unfold execHubCoreFail
  simp only [↓shape_mk, ↓pend_shape, ↓fuse_shape, ↓parts_shape, ↓ports_shape, ↓fns_shape, ↓coll_shape, ↓ite_shape, ite_self,
    implies_true, ↓keeps_ite, ↓keeps_next, and_self, ↓foldl_shape, ↓declareDown_shape, ↓jobEnd_shape, ↓sendEvent_shape]

theorem execStackFail_shape (stack : BitVec 3) (s : State) : KeepsShape s (execStackFail stack s) := by
  unfold execStackFail
  simp only [↓keeps_next, ↓stackFail_shape]

theorem execRebuildStripe_shape (p : Nat) (s : State) : KeepsShape s (execRebuildStripe p s) := by
  unfold execRebuildStripe
  simp only [implies_true, ↓keeps_onUnit, ↓rebuildStripe_shape]

theorem execPatrolScrub_shape (stack : BitVec 3) (line : BitVec 30) (err : Option Bool) (s : State) :
    KeepsShape s (execPatrolScrub stack line err s) := by
  unfold execPatrolScrub
  repeat' first
    | with_reducible rfl
    | simp only [↓shape_mk, ↓pend_shape, ↓fuse_shape, ↓parts_shape, ↓ports_shape, ↓fns_shape, ↓coll_shape, implies_true,
    ↓keeps_onUnit, ↓lineError_shape]
    | refine (foldl_shape _ _ _ fun t x => ?_).trans ?_
    | split

@[simp] theorem setDir_shape (s : State) (d : DirLine) (a : DirAns) : shapeOf (setDir s d a) = shapeOf s := by
  unfold setDir
  simp only [↓shape_mk, ↓pend_shape, ↓fuse_shape, ↓parts_shape, ↓ports_shape, ↓fns_shape, ↓coll_shape]

@[simp] theorem dirRetry_shape (s : State) (d : DirLine) (req : Nat) : shapeOf (dirRetry s d req) = shapeOf s := by
  unfold dirRetry
  simp only [↓setDir_shape]

@[simp] theorem dirGrant_shape (s : State) (d : DirLine) (req : Nat) : shapeOf (dirGrant s d req) = shapeOf s := by
  unfold dirGrant
  simp only [↓setDir_shape]

theorem execGets_shape (line : BitVec 15) (req : BitVec 5) (_fclk : BitVec 64) (s : State) :
    KeepsShape s (execGets line req _fclk s) := by
  unfold execGets
  simp only [↓ite_shape, ite_self, implies_true, ↓keeps_onUnit, ↓dirGrant_shape, ↓dirRetry_shape]

theorem execGetm_shape (line : BitVec 15) (req : BitVec 5) (fclk : BitVec 64) (s : State) :
    KeepsShape s (execGetm line req fclk s) := by
  unfold execGetm
  simp only [↓ite_shape, ite_self, implies_true, ↓keeps_onUnit, ↓dirGrant_shape, ↓dirRetry_shape]

theorem execPutm_shape (line : BitVec 15) (req : BitVec 5) (data : Word512) (s : State) :
    KeepsShape s (execPutm line req data s) := by
  unfold execPutm
  simp only [↓ite_shape, ite_self, implies_true, ↓keeps_onUnit, ↓setDir_shape]

theorem execOwnerRecall_shape (line : BitVec 15) (fclk : BitVec 64) (s : State) :
    KeepsShape s (execOwnerRecall line fclk s) := by
  unfold execOwnerRecall
  simp only [↓shape_mk, ↓pend_shape, ↓fuse_shape, ↓parts_shape, ↓ports_shape, ↓fns_shape, ↓coll_shape, ↓ite_shape, ite_self,
    ↓keeps_next]

end Sys2Proof.Machine
end

