-- ==== Sys2Proof/Laws/ShapeLinkRx.lean ====
section
/-! SUPPORT. The operations of Machine/LinkRx.lean keep the shape of the state. -/

namespace Sys2Proof.Machine

set_option linter.unusedSimpArgs false
set_option simprocs false

@[simp] theorem portHealth_shape (s : State) (k w : Nat) : shapeOf (portHealth s k w) = shapeOf s := by
  unfold portHealth
  simp only [↓ite_shape, ite_self, ↓addHealth_shape]

@[simp] theorem takeHeader_shape (s : State) (k : Nat) (half : Bool) (f : Flit) :
    shapeOf (takeHeader s k half f) = shapeOf s := by
  unfold takeHeader
  simp only [↓pumpLink_shape, ↓withLink_shape]

@[simp] theorem retrainLink_shape (s : State) (k : Nat) (half : Bool) : shapeOf (retrainLink s k half) = shapeOf s := by
  unfold retrainLink
  simp only [↓portHealth_shape, ↓withLink_shape, ↓withPort_shape]

@[simp] theorem retransmit_shape (s : State) (k : Nat) (half : Bool) : shapeOf (retransmit s k half) = shapeOf s := by
  unfold retransmit
  simp only [↓ite_shape, ite_self, ↓retrainLink_shape, ↓sendEvent_shape, ↓withLink_shape, ↓withPort_shape]

@[simp] theorem nakFlit_shape (s : State) (k : Nat) (half : Bool) : shapeOf (nakFlit s k half) = shapeOf s := by
  unfold nakFlit
  simp only [↓ite_shape, ite_self, ↓controlFlit_shape, ↓withLink_shape]

@[simp] theorem countReject_shape (s : State) (p k : Nat) : shapeOf (countReject s p k) = shapeOf s := by
  unfold countReject
  simp only [↓ite_shape, ite_self, ↓sendEvent_shape, ↓withLk_shape]

@[simp] theorem rejectFlit_shape (s : State) (p k : Nat) (f : Flit) : shapeOf (rejectFlit s p k f) = shapeOf s := by
  unfold rejectFlit
  simp only [↓ite_shape, ite_self, ↓countReject_shape, ↓sendReply_shape]

@[simp] theorem forwardFlit_shape (s : State) (p k : Nat) (f : Flit) (fec : Bool) :
    shapeOf (forwardFlit s p k f fec) = shapeOf s := by
  unfold forwardFlit
  simp only [↓ite_shape, ite_self, ↓queueFlit_shape, ↓rejectFlit_shape, ↓sendReply_shape]

@[simp] theorem ackFlit_shape (s : State) (p : Nat) (f : Flit) : shapeOf (ackFlit s p f) = shapeOf s := by
  unfold ackFlit
  simp only [↓ite_shape, ite_self, ↓sendReply_shape]

@[simp] theorem rxSend_shape (s : State) (p k : Nat) (f : Flit) : shapeOf (rxSend s p k f) = shapeOf s := by
  unfold rxSend
  repeat' first
    | with_reducible rfl
    | simp only [↓landArrival_shape, ↓rejectFlit_shape]
    | refine (foldl_shape _ _ _ fun t x => ?_).trans ?_
    | split

@[simp] theorem rxWrite_shape (s : State) (p k : Nat) (f : Flit) : shapeOf (rxWrite s p k f) = shapeOf s := by
  unfold rxWrite
  simp only [↓ite_shape, ite_self, ↓ackFlit_shape, ↓agateMsg_shape, ↓hbmPoison_shape, ↓hbmStore_shape, ↓rejectFlit_shape]

@[simp] theorem rxReadReq_shape (s : State) (p k : Nat) (f : Flit) : shapeOf (rxReadReq s p k f) = shapeOf s := by
  unfold rxReadReq
  simp only [↓ite_shape, ite_self, ↓countPoisonRead_shape, ↓rejectFlit_shape, ↓sendMsg_shape]

@[simp] theorem rxReadData_shape (s : State) (p : Nat) (f : Flit) : shapeOf (rxReadData s p f) = shapeOf s := by
  unfold rxReadData
  repeat' first
    | with_reducible rfl
    | simp only [↓ite_shape, ↓landItem_shape, ↓setFetched_shape, ↓withLk_shape]
    | refine (foldl_shape _ _ _ fun t x => ?_).trans ?_
    | split

@[simp] theorem rxAtomic_shape (s : State) (p k : Nat) (f : Flit) : shapeOf (rxAtomic s p k f) = shapeOf s := by
  unfold rxAtomic
  simp only [↓ite_shape, ite_self, ↓ackFlit_shape, ↓rejectFlit_shape, ↓withPart_shape]

@[simp] theorem rxAtomicNow_shape (s : State) (p k : Nat) (f : Flit) : shapeOf (rxAtomicNow s p k f) = shapeOf s := by
  unfold rxAtomicNow
  simp only [↓ite_shape, ite_self, ↓ackFlit_shape, ↓atomicAdd_shape, ↓hbmPoison_shape, ↓rejectFlit_shape]

@[simp] theorem rxAck_shape (s : State) (p : Nat) (f : Flit) : shapeOf (rxAck s p f) = shapeOf s := by
  unfold rxAck
  simp only [↓withLk_shape]

@[simp] theorem rxNack_shape (s : State) (p k : Nat) (f : Flit) : shapeOf (rxNack s p k f) = shapeOf s := by
  unfold rxNack
  simp only [↓ite_shape, ite_self, ↓hbmStore_shape, ↓requestReplay_shape, ↓sendEvent_shape, ↓withLk_shape]

@[simp] theorem rejectReq_shape (s : State) (p : Nat) (src : Option (Nat × Nat)) : shapeOf (rejectReq s p src) = shapeOf s := by
  unfold rejectReq
  repeat' first
    | with_reducible rfl
    | simp only [↓poisonSrc_shape, ↓rejectAccess_shape, ↓rejectAt_shape]
    | refine (foldl_shape _ _ _ fun t x => ?_).trans ?_
    | split

@[simp] theorem rxReject_shape (s : State) (p : Nat) (f : Flit) : shapeOf (rxReject s p f) = shapeOf s := by
  unfold rxReject
  repeat' first
    | with_reducible rfl
    | simp only [↓landItem_shape, ↓rejectAt_shape, ↓rejectReq_shape, ↓setFetched_shape, ↓withLk_shape]
    | refine (foldl_shape _ _ _ fun t x => ?_).trans ?_
    | split

@[simp] theorem routeLost_shape (s : State) (p k : Nat) : shapeOf (routeLost s p k) = shapeOf s := by
  unfold routeLost
  simp only [↓faultEnd_shape, ↓withLk_shape]

@[simp] theorem rxRouteFail_shape (s : State) (p k : Nat) (f : Flit) : shapeOf (rxRouteFail s p k f) = shapeOf s := by
  unfold rxRouteFail
  simp only [↓ite_shape, ite_self, ↓requestReplay_shape, ↓routeLost_shape, ↓withLk_shape]

@[simp] theorem dropAttempt_shape (s : State) (p : Nat) : shapeOf (dropAttempt s p) = shapeOf s := by
  unfold dropAttempt
  simp only [↓withLk_shape]

@[simp] theorem rxBarrier_shape (s : State) (p : Nat) (f : Flit) : shapeOf (rxBarrier s p f) = shapeOf s := by
  unfold rxBarrier
  repeat' first
    | with_reducible rfl
    | simp only [↓ite_shape, ite_self, ↓cutResult_shape, ↓dropAttempt_shape, ↓noteArrive_shape, ↓sendDown_shape,
    ↓takeAbort_shape, ↓takeRelease_shape, ↓withCk_shape]
    | refine (foldl_shape _ _ _ fun t x => ?_).trans ?_
    | split

@[simp] theorem dropJob_shape (s : State) (p k : Nat) : shapeOf (dropJob s p k) = shapeOf s := by
  unfold dropJob
  simp only [↓ite_shape, ite_self, ↓sendEvent_shape, ↓withLk_shape]

@[simp] theorem dropEpoch_shape (s : State) (p : Nat) (f : Flit) : shapeOf (dropEpoch s p f) = shapeOf s := by
  unfold dropEpoch
  simp only [↓ite_shape, ite_self, ↓routeAs_shape, ↓withLk_shape]

@[simp] theorem deliverFlit_shape (s : State) (p k : Nat) (f : Flit) : shapeOf (deliverFlit s p k f) = shapeOf s := by
  unfold deliverFlit
  repeat' first
    | with_reducible rfl
    | simp only [↓collFlit_shape, ↓rxAck_shape, ↓rxAtomic_shape, ↓rxAtomicNow_shape, ↓rxBarrier_shape, ↓rxNack_shape,
    ↓rxReadData_shape, ↓rxReadReq_shape, ↓rxReject_shape, ↓rxRouteFail_shape, ↓rxSend_shape, ↓rxWrite_shape]
    | refine (foldl_shape _ _ _ fun t x => ?_).trans ?_
    | split

@[simp] theorem routeIn_shape (s : State) (p k : Nat) (f : Flit) (fec : Bool) : shapeOf (routeIn s p k f fec) = shapeOf s := by
  unfold routeIn
  simp only [↓ite_shape, ite_self, ↓countReject_shape, ↓deliverFlit_shape, ↓dropAttempt_shape, ↓dropEpoch_shape, ↓dropJob_shape,
    ↓forwardFlit_shape, ↓rejectFlit_shape, ↓withLk_shape]

@[simp] theorem sendTime_shape (s : State) (k : Nat) (half : Bool) (kind : Nat) (d : List Byte) :
    shapeOf (sendTime s k half kind d) = shapeOf s := by
  unfold sendTime
  simp only [↓queueFlit_shape]

@[simp] theorem qzFollow_shape (s : State) (offset delay : Int) (depth : Nat) :
    shapeOf (qzFollow s offset delay depth) = shapeOf s := by
  unfold qzFollow
  simp only [↓shape_mk, ↓pend_shape, ↓fuse_shape, ↓parts_shape, ↓ports_shape, ↓fns_shape, ↓coll_shape, ↓ite_shape, ite_self,
    ↓sendEvent_shape]

@[simp] theorem rxTime_shape (s : State) (k : Nat) (half : Bool) (f : Flit) : shapeOf (rxTime s k half f) = shapeOf s := by
  unfold rxTime
  repeat' first
    | with_reducible rfl
    | simp only [↓ite_shape, ite_self, ↓qzFollow_shape, ↓sendTime_shape]
    | refine (foldl_shape _ _ _ fun t x => ?_).trans ?_
    | split

@[simp] theorem acceptFlit_shape (s : State) (k : Nat) (half : Bool) (f : Flit) (fec : Bool) :
    shapeOf (acceptFlit s k half f fec) = shapeOf s := by
  unfold acceptFlit
  repeat' first
    | with_reducible rfl
    | simp only [↓ite_shape, ↓controlFlit_shape, ↓routeIn_shape, ↓rxTime_shape, ↓withLink_shape, ↓withPort_shape]
    | refine (foldl_shape _ _ _ fun t x => ?_).trans ?_
    | split

@[simp] theorem rxTrain_shape (s : State) (k : Nat) (half : Bool) (f : Flit) : shapeOf (rxTrain s k half f) = shapeOf s := by
  unfold rxTrain
  simp only [↓ite_shape, ite_self, ↓pumpLink_shape, ↓retransmit_shape, ↓sendEvent_shape, ↓withLink_shape]

@[simp] theorem countCodewords_shape (s : State) (a : FlitArgs) : shapeOf (countCodewords s a) = shapeOf s := by
  unfold countCodewords
  simp only [↓portHealth_shape, ↓withPort_shape]

@[simp] theorem rxFlit_shape (s : State) (a : FlitArgs) : shapeOf (rxFlit s a) = shapeOf s := by
  unfold rxFlit
  simp only [↓ite_shape, ite_self, ↓acceptFlit_shape, ↓advance_shape, ↓countCodewords_shape, ↓nakFlit_shape, ↓retransmit_shape,
    ↓rxTrain_shape, ↓takeHeader_shape, ↓withPort_shape]

theorem flitRow_shape (a : FlitArgs) (is : Flit → Bool) (s : State) : KeepsShape s (flitRow a is s) := by
  unfold flitRow
  simp only [implies_true, ↓keeps_ite, ↓keeps_next, ↓keeps_fault, and_self, ↓rxFlit_shape]

theorem execLinkIdle_shape (a : FlitArgs) (s : State) : KeepsShape s (execLinkIdle a s) := by
  unfold execLinkIdle
  simp only [↓flitRow_shape]

theorem execLinkNak_shape (a : FlitArgs) (s : State) : KeepsShape s (execLinkNak a s) := by
  unfold execLinkNak
  simp only [↓flitRow_shape]

theorem execLinkTrain_shape (a : FlitArgs) (s : State) : KeepsShape s (execLinkTrain a s) := by
  unfold execLinkTrain
  simp only [↓flitRow_shape]

theorem execFlitForward_shape (a : FlitArgs) (s : State) : KeepsShape s (execFlitForward a s) := by
  unfold execFlitForward
  simp only [↓flitRow_shape]

theorem execSendFlit_shape (a : FlitArgs) (s : State) : KeepsShape s (execSendFlit a s) := by
  unfold execSendFlit
  simp only [↓flitRow_shape]

theorem execRwrite_shape (a : FlitArgs) (s : State) : KeepsShape s (execRwrite a s) := by
  unfold execRwrite
  simp only [↓flitRow_shape]

theorem execRreadReq_shape (a : FlitArgs) (s : State) : KeepsShape s (execRreadReq a s) := by
  unfold execRreadReq
  simp only [↓flitRow_shape]

theorem execRreadData_shape (a : FlitArgs) (s : State) : KeepsShape s (execRreadData a s) := by
  unfold execRreadData
  simp only [↓flitRow_shape]

theorem execRatomic_shape (a : FlitArgs) (s : State) : KeepsShape s (execRatomic a s) := by
  unfold execRatomic
  simp only [↓flitRow_shape]

theorem execRatomicRelaxed_shape (a : FlitArgs) (s : State) : KeepsShape s (execRatomicRelaxed a s) := by
  unfold execRatomicRelaxed
  simp only [↓flitRow_shape]

theorem execCollFlit_shape (a : FlitArgs) (s : State) : KeepsShape s (execCollFlit a s) := by
  unfold execCollFlit
  simp only [↓flitRow_shape]

theorem execA2aFlit_shape (a : FlitArgs) (s : State) : KeepsShape s (execA2aFlit a s) := by
  unfold execA2aFlit
  simp only [↓flitRow_shape]

theorem execAck_shape (a : FlitArgs) (s : State) : KeepsShape s (execAck a s) := by
  unfold execAck
  simp only [↓flitRow_shape]

theorem execNack_shape (a : FlitArgs) (s : State) : KeepsShape s (execNack a s) := by
  unfold execNack
  simp only [↓flitRow_shape]

theorem execReject_shape (a : FlitArgs) (s : State) : KeepsShape s (execReject a s) := by
  unfold execReject
  simp only [↓flitRow_shape]

theorem execRouteFail_shape (a : FlitArgs) (s : State) : KeepsShape s (execRouteFail a s) := by
  unfold execRouteFail
  simp only [↓flitRow_shape]

theorem execArrive_shape (a : FlitArgs) (s : State) : KeepsShape s (execArrive a s) := by
  unfold execArrive
  simp only [↓flitRow_shape]

theorem execRelease_shape (a : FlitArgs) (s : State) : KeepsShape s (execRelease a s) := by
  unfold execRelease
  simp only [↓flitRow_shape]

theorem execAbort_shape (a : FlitArgs) (s : State) : KeepsShape s (execAbort a s) := by
  unfold execAbort
  simp only [↓flitRow_shape]

theorem execCkptReq_shape (a : FlitArgs) (s : State) : KeepsShape s (execCkptReq a s) := by
  unfold execCkptReq
  simp only [↓flitRow_shape]

theorem execCkptDone_shape (a : FlitArgs) (s : State) : KeepsShape s (execCkptDone a s) := by
  unfold execCkptDone
  simp only [↓flitRow_shape]

theorem execTime_shape (a : FlitArgs) (s : State) : KeepsShape s (execTime a s) := by
  unfold execTime
  simp only [↓flitRow_shape]

theorem execReplayTimeout_shape (port : Nat) (half : Bool) (s : State) : KeepsShape s (execReplayTimeout port half s) := by
  unfold execReplayTimeout
  simp only [↓ite_shape, ite_self, implies_true, ↓keeps_onUnit, ↓retransmit_shape]

@[simp] theorem linkFails_shape (s : State) (k : Nat) (half : Bool) : shapeOf (linkFails s k half) = shapeOf s := by
  unfold linkFails
  simp only [↓ite_shape, ite_self, ↓requestReplay_shape, ↓routeLost_shape, ↓sendEvent_shape, ↓withLink_shape, ↓withLk_shape]

theorem execLinkFail_shape (port : Nat) (half : Bool) (s : State) : KeepsShape s (execLinkFail port half s) := by
  unfold execLinkFail
  simp only [↓ite_shape, ite_self, implies_true, ↓keeps_onUnit, ↓linkFails_shape]

@[simp] theorem narrowLink_shape (old : List Nat) (s : State) (k : Nat) (half : Bool) :
    shapeOf (narrowLink old s k half) = shapeOf s := by
  unfold narrowLink
  simp only [↓ite_shape, ite_self, ↓linkFails_shape, ↓portHealth_shape, ↓retrainLink_shape, ↓sendEvent_shape, ↓withLink_shape]

theorem execLaneFail_shape (port : Nat) (lane : BitVec 3) (s : State) : KeepsShape s (execLaneFail port lane s) := by
  unfold execLaneFail
  simp only [implies_true, ↓keeps_onUnit, ↓narrowLink_shape, ↓withPort_shape]

@[simp] theorem retrainPort_shape (s : State) (k : Nat) : shapeOf (retrainPort s k) = shapeOf s := by
  unfold retrainPort
  simp only [↓withPort_shape]

theorem execLinkRetrainRequest_shape (port : Nat) (s : State) : KeepsShape s (execLinkRetrainRequest port s) := by
  unfold execLinkRetrainRequest
  simp only [implies_true, ↓keeps_onUnit, ↓retrainPort_shape]

theorem execLinkTrainingComplete_shape (port : Nat) (half : Bool) (s : State) :
    KeepsShape s (execLinkTrainingComplete port half s) := by
  unfold execLinkTrainingComplete
  simp only [↓ite_shape, ite_self, implies_true, ↓keeps_onUnit, ↓withLink_shape]

theorem execCodewordLock_shape (port : Nat) (half : Bool) (lanes : BitVec 8) (s : State) :
    KeepsShape s (execCodewordLock port half lanes s) := by
  unfold execCodewordLock
  simp only [↓ite_shape, ite_self, implies_true, ↓keeps_onUnit, ↓controlFlit_shape, ↓withLink_shape]

theorem execCodewordLockLoss_shape (port : Nat) (lane : BitVec 3) (s : State) :
    KeepsShape s (execCodewordLockLoss port lane s) := by
  unfold execCodewordLockLoss
  simp only [implies_true, ↓keeps_onUnit, ↓withPort_shape]

theorem execTimeExchange_shape (dt : Word64) (s : State) : KeepsShape s (execTimeExchange dt s) := by
  unfold execTimeExchange
  simp only [↓shape_mk, ↓pend_shape, ↓fuse_shape, ↓parts_shape, ↓ports_shape, ↓fns_shape, ↓coll_shape, ↓ite_shape, ite_self,
    ↓keeps_next, ↓advance_shape, ↓sendTime_shape]

theorem execQuartzHoldover_shape (dt : Word64) (s : State) : KeepsShape s (execQuartzHoldover dt s) := by
  unfold execQuartzHoldover
  simp only [↓shape_mk, ↓pend_shape, ↓fuse_shape, ↓parts_shape, ↓ports_shape, ↓fns_shape, ↓coll_shape, ↓ite_shape, ite_self,
    ↓keeps_next, ↓advance_shape, ↓sendEvent_shape]

theorem execQzLoad_shape (fn : Nat) (v : Word64) (s : State) : KeepsShape s (execQzLoad fn v s) := by
  unfold execQzLoad
  simp only [↓shape_mk, ↓pend_shape, ↓fuse_shape, ↓parts_shape, ↓ports_shape, ↓fns_shape, ↓coll_shape, ↓ite_shape, ite_self,
    implies_true, ↓keeps_onUnit]

end Sys2Proof.Machine
end

