-- ==== Sys2Proof/Laws/ShapeCutOps.lean ====
section
/-! SUPPORT. The operations of Machine/CutOps.lean keep the shape of the state. -/

namespace Sys2Proof.Machine

set_option linter.unusedSimpArgs false
set_option simprocs false

theorem execImageCommit_shape (p : Nat) (s : State) : KeepsShape s (execImageCommit p s) := by
  unfold execImageCommit
  repeat' first
    | with_reducible rfl
    | simp only [implies_true, ↓keeps_onUnit, ↓commitImage_shape, ↓cutResult_shape]
    | refine (foldl_shape _ _ _ fun t x => ?_).trans ?_
    | split

theorem execCutTimeout_shape (p : Nat) (s : State) : KeepsShape s (execCutTimeout p s) := by
  unfold execCutTimeout
  repeat' first
    | with_reducible rfl
    | simp only [↓ite_shape, ite_self, implies_true, ↓keeps_onUnit, ↓cutFails_shape, ↓cutResult_shape, ↓withCk_shape]
    | refine (foldl_shape _ _ _ fun t x => ?_).trans ?_
    | split

theorem execCutRequest_shape (p : Nat) (s : State) : KeepsShape s (execCutRequest p s) := by
  unfold execCutRequest
  simp only [implies_true, ↓keeps_onUnit, ↓requestCut_shape]

theorem execCkDrain_shape (p : Nat) (s : State) : KeepsShape s (execCkDrain p s) := by
  unfold execCkDrain
  simp only [implies_true, ↓keeps_onUnit, ↓drainStart_shape]

theorem execCkDrainComplete_shape (p : Nat) (s : State) : KeepsShape s (execCkDrainComplete p s) := by
  unfold execCkDrainComplete
  simp only [↓ite_shape, ite_self, implies_true, ↓keeps_onUnit, ↓drainEnd_shape]

end Sys2Proof.Machine
end

