-- ==== Sys2Proof/Laws/ShapeJobStart.lean ====
section
/-! SUPPORT. The operations of Machine/JobStart.lean keep the shape of the state. -/

namespace Sys2Proof.Machine

set_option linter.unusedSimpArgs false
set_option simprocs false

@[simp] theorem loadSegments_shape (s : State) (p : Nat) (r : Prepared) : shapeOf (loadSegments s p r) = shapeOf s := by
  unfold loadSegments
  simp only [↓ite_shape, ite_self, implies_true, ↓foldl_shape, ↓hbmStore_shape]

@[simp] theorem startSlice_shape (s : State) (p : Nat) : shapeOf (startSlice s p) = shapeOf s := by
  unfold startSlice
  simp only [↓ite_shape, ite_self, ↓withMem_shape, ↓zeroSlice_shape]

@[simp] theorem clearPrev_shape (s : State) (p : Nat) : shapeOf (clearPrev s p) = shapeOf s := by
  unfold clearPrev
  simp only [↓shape_mk, ↓pend_shape, ↓fuse_shape, ↓parts_shape, ↓ports_shape, ↓fns_shape, ↓coll_shape]

@[simp] theorem dropStream_shape (s : State) (p : Nat) : shapeOf (dropStream s p) = shapeOf s := by
  unfold dropStream
  repeat' first
    | with_reducible rfl
    | simp only [↓cutFails_shape, ↓cutResult_shape]
    | refine (foldl_shape _ _ _ fun t x => ?_).trans ?_
    | split

@[simp] theorem startJob_shape (s : State) (p : Nat) (r : Prepared) : shapeOf (startJob s p r) = shapeOf s := by
  unfold startJob
  repeat' first
    | with_reducible rfl
    | simp only [↓ite_shape, ite_self, implies_true, ↓foldl_shape, ↓clearPrev_shape, ↓dropStream_shape, ↓loadSegments_shape,
    ↓restoreSection_shape, ↓sendEvent_shape, ↓startSlice_shape, ↓withPart_shape]
    | refine (foldl_shape _ _ _ fun t x => ?_).trans ?_
    | split

@[simp] theorem noteTorn_shape (f : Nat) (s : State) (p : Nat) : shapeOf (noteTorn f s p) = shapeOf s := by
  induction f generalizing s with
  | zero => rfl
  | succ f ih => unfold noteTorn; simp only [↓sendEvent_shape, ↓withCk_shape, ↓ih]

@[simp] theorem releasePart_shape (s : State) (p : Nat) : shapeOf (releasePart s p) = shapeOf s := by
  unfold releasePart
  simp only [↓dropStream_shape, ↓withPart_shape, ↓zeroSlice_shape]

end Sys2Proof.Machine
end

