-- ==== Sys2Proof/Laws/ShapeGovernors.lean ====
section
/-! SUPPORT. The operations of Machine/Governors.lean keep the shape of the state. -/

namespace Sys2Proof.Machine

set_option linter.unusedSimpArgs false
set_option simprocs false

@[simp] theorem withGov_shape (s : State) (f : Governor → Governor) : shapeOf (withGov s f) = shapeOf s := by
  unfold withGov
  simp only [↓shape_mk, ↓pend_shape, ↓fuse_shape, ↓parts_shape, ↓ports_shape, ↓fns_shape, ↓coll_shape]

@[simp] theorem withSup_shape (s : State) (f : Supplies → Supplies) : shapeOf (withSup s f) = shapeOf s := by
  unfold withSup
  simp only [↓shape_mk, ↓pend_shape, ↓fuse_shape, ↓parts_shape, ↓ports_shape, ↓fns_shape, ↓coll_shape]

@[simp] theorem pwNote_shape (s : State) (bit : Nat) : shapeOf (pwNote s bit) = shapeOf s := by
  unfold pwNote
  simp only [↓withGov_shape]

@[simp] theorem retarget_shape (s : State) : shapeOf (retarget s) = shapeOf s := by
  unfold retarget
  simp only [↓ite_shape, ite_self, ↓withGov_shape]

@[simp] theorem askEnd_shape (s : State) (p cause status : Nat) : shapeOf (askEnd s p cause status) = shapeOf s := by
  unfold askEnd
  repeat' first
    | with_reducible rfl
    | simp only [↓ite_shape, ite_self, ↓endAtBoundary_shape, ↓jobEnd_shape]
    | refine (foldl_shape _ _ _ fun t x => ?_).trans ?_
    | split

@[simp] theorem noteHalt_shape (s : State) (p : Nat) : shapeOf (noteHalt s p) = shapeOf s := by
  unfold noteHalt
  simp only [↓ite_shape, ite_self, ↓askEnd_shape, ↓withPart_shape]

@[simp] theorem noteHalts_shape (s : State) : shapeOf (noteHalts s) = shapeOf s := by
  unfold noteHalts
  simp only [implies_true, ↓foldl_shape, ↓noteHalt_shape]

@[simp] theorem noteConflict_shape (s : State) (k : Nat) : shapeOf (noteConflict s k) = shapeOf s := by
  unfold noteConflict
  simp only [↓withFn_shape]

theorem hostOrder_shape (s : State) (k o : Nat) (f : State → State) (h : ∀ t, shapeOf (f t) = shapeOf t) :
    shapeOf (hostOrder s k o f) = shapeOf s := by
  unfold hostOrder
  simp only [↓shape_mk, ↓pend_shape, ↓fuse_shape, ↓parts_shape, ↓ports_shape, ↓fns_shape, ↓coll_shape, ↓ite_shape, ite_self,
    ↓noteConflict_shape, h]

@[simp] theorem startRuns_shape (s : State) (p : Nat) : shapeOf (startRuns s p) = shapeOf s := by
  unfold startRuns
  repeat' first
    | with_reducible rfl
    | simp only [↓ite_shape, ite_self, ↓jobEnd_shape, ↓pairGangs_shape, ↓periodCut_shape, ↓selectEntry_shape, ↓withPart_shape]
    | refine (foldl_shape _ _ _ fun t x => ?_).trans ?_
    | split

@[simp] theorem startDone_shape (s : State) (p : Nat) : shapeOf (startDone s p) = shapeOf s := by
  unfold startDone
  simp only [implies_true, ↓foldl_shape, ↓completeWait_shape]

theorem execJobRunning_shape (p : Nat) (s : State) : KeepsShape s (execJobRunning p s) := by
  unfold execJobRunning
  simp only [↓ite_shape, ite_self, implies_true, ↓keeps_onUnit, ↓startDone_shape, ↓startRuns_shape]

end Sys2Proof.Machine
end

