-- ==== Sys2Proof/Laws/ShapeFirmware.lean ====
section
/-! SUPPORT. The operations of Machine/Firmware.lean keep the shape of the state. -/

namespace Sys2Proof.Machine

set_option linter.unusedSimpArgs false
set_option simprocs false

@[simp] theorem fwStage_shape (s : State) (b : List Byte) (key : BitVec 768) : shapeOf (fwStage s b key).2.2 = shapeOf s := by
  unfold fwStage
  repeat' first
    | with_reducible rfl
    | simp only [↓shape_mk, ↓pend_shape, ↓fuse_shape, ↓parts_shape, ↓ports_shape, ↓fns_shape, ↓coll_shape]
    | refine (foldl_shape _ _ _ fun t x => ?_).trans ?_
    | split

@[simp] theorem packInstall_shape (s : State) (b : List Byte) (key : BitVec 768) :
    shapeOf (packInstall s b key).2 = shapeOf s := by
  unfold packInstall
  simp only [↓shape_mk, ↓pend_shape, ↓fuse_shape, ↓parts_shape, ↓ports_shape, ↓fns_shape, ↓coll_shape, ↓ite_shape_snd, ite_self]

end Sys2Proof.Machine
end

