-- ==== Sys2Proof/Laws/ShapeCommands.lean ====
section
/-! SUPPORT. The operations of Machine/Commands.lean keep the shape of the state. -/

namespace Sys2Proof.Machine

set_option linter.unusedSimpArgs false
set_option simprocs false

@[simp] theorem dropCtx_shape (s : State) (k : Nat) : shapeOf (dropCtx s k) = shapeOf s := by
  unfold dropCtx
  simp only [↓shape_mk, ↓pend_shape, ↓fuse_shape, ↓parts_shape, ↓ports_shape, ↓fns_shape, ↓coll_shape]

@[simp] theorem putCtx_shape (s : State) (c : QCtx) : shapeOf (putCtx s c) = shapeOf s := by
  unfold putCtx
  simp only [↓shape_mk, ↓pend_shape, ↓fuse_shape, ↓parts_shape, ↓ports_shape, ↓fns_shape, ↓coll_shape]

@[simp] theorem ctxConfig_shape (s : State) (a : HostArgs) : shapeOf (ctxConfig s a).2 = shapeOf s := by
  unfold ctxConfig
  simp only [↓ite_shape_snd, ite_self, ↓putCtx_shape]

@[simp] theorem ctxClear_shape (s : State) (a : HostArgs) : shapeOf (ctxClear s a).2 = shapeOf s := by
  unfold ctxClear
  simp only [↓ite_shape_snd, ite_self, ↓dropCtx_shape, ↓flushCtx_shape]

@[simp] theorem jobRelease_shape (s : State) (p : Nat) : shapeOf (jobRelease s p).2 = shapeOf s := by
  unfold jobRelease
  simp only [↓ite_shape_snd, ite_self, ↓releasePart_shape]

@[simp] theorem layAll_shape (s : State) : shapeOf (layAll s) = shapeOf s := by
  unfold layAll
  simp only [↓ite_shape, ite_self, implies_true, ↓foldl_shape, ↓withMem_shape]

@[simp] theorem putPlan_shape (s : State) (e : Nat) : shapeOf (putPlan s e) = shapeOf s := by
  unfold putPlan
  simp only [↓shape_mk, ↓pend_shape, ↓fuse_shape, ↓parts_shape, ↓ports_shape, ↓fns_shape, ↓coll_shape, List.length_mapIdx,
    ↓layAll_shape]

@[simp] theorem qpDisable_shape (s : State) (c : Nat) : shapeOf (qpDisable s c) = shapeOf s := by
  unfold qpDisable
  simp only [implies_true, ↓foldl_shape, ↓completeWait_shape, ↓withQp_shape]

@[simp] theorem planChange_shape (s : State) (e : Nat) : shapeOf (planChange s e).2 = shapeOf s := by
  unfold planChange
  simp only [↓shape_mk, ↓pend_shape, ↓fuse_shape, ↓parts_shape, ↓ports_shape, ↓fns_shape, ↓coll_shape, ↓ite_shape_snd, ite_self,
    List.length_map, implies_true, ↓foldl_shape, ↓flushCtx_shape, ↓putPlan_shape, ↓qpDisable_shape, ↓releasePart_shape]

/-- The state that a job start answers. -/
def startState : StartEnd → State
  | .fails _ t => t
  | .starts t _ => t

theorem startState_fails (n : Nat) (t : State) : startState (.fails n t) = t := rfl

theorem startState_starts (t : State) (n : Nat) : startState (.starts t n) = t := rfl

@[simp] theorem startState_ite (c : Prop) [Decidable c] (a b : StartEnd) :
    shapeOf (startState (if c then a else b)) = if c then shapeOf (startState a) else shapeOf (startState b) := by
  split <;> rfl

theorem shape_grid (s : State) (g : Grid) : shapeOf { s with grid := g } = shapeOf s := rfl

theorem jobStart_shape (s : State) (p addr : Nat) (far : Far) : shapeOf (startState (jobStart s p addr far)) = shapeOf s := by
  unfold jobStart
  simp only [↓startState_ite, ↓startState_fails]
  generalize (if (jobBlock (hostRead s addr 256)).adopt = true then
    adoptMap s.grid (hostRead s (jobBlock (hostRead s addr 256)).mapAddr 1024) else some s.grid) = m
  cases m with
  | none => simp only [↓startState_fails, ↓shape_grid, ite_self]
  | some g =>
    simp only [↓startState_ite, ↓startState_fails, ↓startState_starts, ↓shape_grid, ↓noteTorn_shape, ↓startJob_shape, ite_self]

@[simp] theorem startCmd_shape (s : State) (a : HostArgs) (w : CmdWait) (far : Far) :
    shapeOf (startCmd s a w far) = shapeOf s := by
  have e := jobStart_shape s (argPart a) (argAt a 8 8) far
  unfold startCmd
  simp only []
  split <;> (rename_i h; rw [h] at e; simp only [startState] at e; simp only [↓completeCmd_shape, ↓withFn_shape, e])

@[simp] theorem seedCmd_shape (s : State) (a : HostArgs) (w : CmdWait) : shapeOf (seedCmd s a w) = shapeOf s := by
  unfold seedCmd
  simp only [↓seedAsk_shape, ↓withFn_shape]

@[simp] theorem cmdPerform_shape (s : State) (a : HostArgs) (w : CmdWait) (key : BitVec 768) (far : Far) :
    shapeOf (cmdPerform s a w key far) = shapeOf s := by
  unfold cmdPerform
  repeat' first
    | with_reducible rfl
    | simp only [↓ite_shape, ↓askEnd_shape, ↓completeCmd_shape, ↓ctxClear_shape, ↓ctxConfig_shape, ↓fwStage_shape,
    ↓jobRelease_shape, ↓packInstall_shape, ↓planChange_shape, ↓seedCmd_shape, ↓startCmd_shape, ↓svPerform_shape]
    | refine (foldl_shape _ _ _ fun t x => ?_).trans ?_
    | split

@[simp] theorem cmdRun_shape (s : State) (a : HostArgs) (w : CmdWait) (key : BitVec 768) (far : Far) :
    shapeOf (cmdRun s a w key far) = shapeOf s := by
  unfold cmdRun
  repeat' first
    | with_reducible rfl
    | simp only [↓ite_shape, ite_self, ↓cmdPerform_shape, ↓completeCmd_shape]
    | refine (foldl_shape _ _ _ fun t x => ?_).trans ?_
    | split

@[simp] theorem entryRun_shape (s : State) (k : Nat) (b : List Byte) (mbox : Bool) (idx : Nat) (key : BitVec 768) (far : Far) :
    shapeOf (entryRun s k b mbox idx key far) = shapeOf s := by
  unfold entryRun
  repeat' first
    | with_reducible rfl
    | simp only [↓ite_shape, ite_self, ↓cmdRun_shape, ↓completeCmd_shape]
    | refine (foldl_shape _ _ _ fun t x => ?_).trans ?_
    | split

@[simp] theorem pump_shape (k : Nat) (key : BitVec 768) (far : Far) (all : Bool) (f : Nat) (s : State) :
    shapeOf (pump k key far all f s) = shapeOf s := by
  induction f generalizing s with
  | zero => rfl
  | succ f ih =>
    unfold pump
    repeat' first
      | with_reducible rfl
      | simp only [↓ite_shape, ite_self, ↓entryRun_shape, ↓withFn_shape, ↓ih]
      | split

@[simp] theorem pumpFn_shape (s : State) (k : Nat) (key : BitVec 768) (far : Far) (all : Bool) :
    shapeOf (pumpFn s k key far all) = shapeOf s := by
  unfold pumpFn
  simp only [↓pump_shape]

@[simp] theorem pumpAll_shape (s : State) : shapeOf (pumpAll s) = shapeOf s := by
  unfold pumpAll
  simp only [implies_true, ↓foldl_shape, ↓pumpFn_shape]

theorem hostCmd_shape (a : HostArgs) (op : Nat) (key : BitVec 768) (far : Far) (s : State) :
    KeepsShape s (hostCmd a op key far s) := by
  unfold hostCmd
  simp only [↓ite_shape, ite_self, implies_true, ↓keeps_onUnit, ↓cmdRun_shape, ↓withFn_shape]

theorem execCtxConfig_shape (a : HostArgs) (s : State) : KeepsShape s (execCtxConfig a s) := by
  unfold execCtxConfig
  simp only [↓hostCmd_shape]

theorem execCtxClear_shape (a : HostArgs) (s : State) : KeepsShape s (execCtxClear a s) := by
  unfold execCtxClear
  simp only [↓hostCmd_shape]

theorem execJobStart_shape (a : HostArgs) (far : Far) (s : State) : KeepsShape s (execJobStart a far s) := by
  unfold execJobStart
  simp only [↓hostCmd_shape]

theorem execJobEnd_shape (a : HostArgs) (s : State) : KeepsShape s (execJobEnd a s) := by
  unfold execJobEnd
  simp only [↓hostCmd_shape]

theorem execJobRelease_shape (a : HostArgs) (s : State) : KeepsShape s (execJobRelease a s) := by
  unfold execJobRelease
  simp only [↓hostCmd_shape]

theorem execPlanChange_shape (a : HostArgs) (s : State) : KeepsShape s (execPlanChange a s) := by
  unfold execPlanChange
  simp only [↓hostCmd_shape]

theorem execSeedGet_shape (a : HostArgs) (s : State) : KeepsShape s (execSeedGet a s) := by
  unfold execSeedGet
  simp only [↓hostCmd_shape]

theorem execSvLoad_shape (a : HostArgs) (s : State) : KeepsShape s (execSvLoad a s) := by
  unfold execSvLoad
  simp only [↓hostCmd_shape]

theorem execSvClear_shape (a : HostArgs) (s : State) : KeepsShape s (execSvClear a s) := by
  unfold execSvClear
  simp only [↓hostCmd_shape]

theorem execSvSolve_shape (a : HostArgs) (s : State) : KeepsShape s (execSvSolve a s) := by
  unfold execSvSolve
  simp only [↓hostCmd_shape]

theorem execSvState_shape (a : HostArgs) (s : State) : KeepsShape s (execSvState a s) := by
  unfold execSvState
  simp only [↓hostCmd_shape]

theorem execFwStage_shape (a : HostArgs) (key : BitVec 768) (s : State) : KeepsShape s (execFwStage a key s) := by
  unfold execFwStage
  simp only [↓hostCmd_shape]

theorem execPackInstall_shape (a : HostArgs) (key : BitVec 768) (s : State) : KeepsShape s (execPackInstall a key s) := by
  unfold execPackInstall
  simp only [↓hostCmd_shape]

@[simp] theorem cmdTail_shape (s : State) (k : Nat) (v : Nat) (key : BitVec 768) (far : Far) (all : Bool) :
    shapeOf (cmdTail s k v key far all) = shapeOf s := by
  unfold cmdTail
  simp only [↓ite_shape, ite_self, ↓pumpFn_shape, ↓withFn_shape]

theorem execCmdTailWrite_shape (fn : Nat) (v : Word32) (key : BitVec 768) (far : Far) (s : State) :
    KeepsShape s (execCmdTailWrite fn v key far s) := by
  unfold execCmdTailWrite
  simp only [↓ite_shape, ite_self, implies_true, ↓keeps_onUnit, ↓cmdTail_shape]

@[simp] theorem mboxGo_shape (s : State) (k : Nat) (key : BitVec 768) (far : Far) (all : Bool) :
    shapeOf (mboxGo s k key far all) = shapeOf s := by
  unfold mboxGo
  simp only [↓ite_shape, ite_self, ↓pumpFn_shape, ↓withFn_shape]

theorem execMboxGo_shape (fn : Nat) (key : BitVec 768) (far : Far) (s : State) : KeepsShape s (execMboxGo fn key far s) := by
  unfold execMboxGo
  simp only [↓ite_shape, ite_self, implies_true, ↓keeps_onUnit, ↓mboxGo_shape]

end Sys2Proof.Machine
end

