-- ==== Sys2Proof/Laws/ShapeControlSlot.lean ====
section
/-! SUPPORT. The operations of Machine/ControlSlot.lean keep the shape of the state. -/

namespace Sys2Proof.Machine

set_option linter.unusedSimpArgs false
set_option simprocs false

theorem execLoop_shape (p : Nat) (count : BitVec 20) (last : BitVec 13) (s : State) :
    KeepsShape s (execLoop p count last s) := by
  unfold execLoop
  simp only [↓slotExec_shape]

theorem execJump_shape (p : Nat) (target : BitVec 13) (s : State) : KeepsShape s (execJump p target s) := by
  unfold execJump
  simp only [↓slotExec_shape]

theorem execVbrAny_shape (p : Nat) (pred : BitVec 3) (target : BitVec 13) (s : State) :
    KeepsShape s (execVbrAny p pred target s) := by
  unfold execVbrAny
  simp only [↓slotExec_shape]

theorem execVbrAll_shape (p : Nat) (pred : BitVec 3) (target : BitVec 13) (s : State) :
    KeepsShape s (execVbrAll p pred target s) := by
  unfold execVbrAll
  simp only [↓slotExec_shape]

theorem execStepEnd_shape (p : Nat) (s : State) : KeepsShape s (execStepEnd p s) := by
  unfold execStepEnd
  simp only [↓slotExec_shape]

theorem execHalt_shape (p : Nat) (s : State) : KeepsShape s (execHalt p s) := by
  unfold execHalt
  simp only [↓slotExec_shape]

theorem execBufferWait_shape (p : Nat) (bufs : List (BitVec 6)) (s : State) : KeepsShape s (execBufferWait p bufs s) := by
  unfold execBufferWait
  simp only [↓slotExec_shape]

theorem execBrk_shape (p : Nat) (s : State) : KeepsShape s (execBrk p s) := by
  unfold execBrk
  simp only [↓slotExec_shape]

theorem execReservedOperation_shape (p : Nat) (slot : BitVec 3) (s : State) :
    KeepsShape s (execReservedOperation p slot s) := by
  unfold execReservedOperation
  simp only [↓slotExec_shape]

end Sys2Proof.Machine
end

