-- ==== Sys2Proof/Laws/ShapeDmaSlot.lean ====
section
/-! SUPPORT. The operations of Machine/DmaSlot.lean keep the shape of the state. -/

namespace Sys2Proof.Machine

set_option linter.unusedSimpArgs false
set_option simprocs false

theorem execRead_shape (p : Nat) (a : DmaArgs) (ecc : List EccLine) (s : State) : KeepsShape s (execRead p a ecc s) := by
  intro t h
  have e := slotExec_shape _ _ _ t h
  rw [e]
  simp only [↓foldl_shape, implies_true, ↓lineError_shape]

theorem execWrite_shape (p : Nat) (a : DmaArgs) (s : State) : KeepsShape s (execWrite p a s) := by
  unfold execWrite
  simp only [↓slotExec_shape]

theorem execSend_shape (p : Nat) (a : DmaArgs) (s : State) : KeepsShape s (execSend p a s) := by
  unfold execSend
  simp only [↓slotExec_shape]

theorem execRecv_shape (p : Nat) (a : DmaArgs) (s : State) : KeepsShape s (execRecv p a s) := by
  unfold execRecv
  simp only [↓slotExec_shape]

theorem execAtomicAdd_shape (p : Nat) (a : DmaArgs) (s : State) : KeepsShape s (execAtomicAdd p a s) := by
  unfold execAtomicAdd
  simp only [↓slotExec_shape]

theorem execAtomicAddRelaxed_shape (p : Nat) (a : DmaArgs) (s : State) : KeepsShape s (execAtomicAddRelaxed p a s) := by
  unfold execAtomicAddRelaxed
  simp only [↓slotExec_shape]

theorem execHostout_shape (p : Nat) (a : DmaArgs) (s : State) : KeepsShape s (execHostout p a s) := by
  unfold execHostout
  simp only [↓slotExec_shape]

theorem execRegread_shape (p : Nat) (a : DmaArgs) (s : State) : KeepsShape s (execRegread p a s) := by
  unfold execRegread
  simp only [↓slotExec_shape]

theorem execSolve_shape (p : Nat) (a : DmaArgs) (s : State) : KeepsShape s (execSolve p a s) := by
  unfold execSolve
  simp only [↓slotExec_shape]

theorem execSeed_shape (p : Nat) (a : DmaArgs) (s : State) : KeepsShape s (execSeed p a s) := by
  unfold execSeed
  simp only [↓slotExec_shape]

theorem execColl_shape (p : Nat) (a : DmaArgs) (s : State) : KeepsShape s (execColl p a s) := by
  unfold execColl
  simp only [↓slotExec_shape]

end Sys2Proof.Machine
end

