-- ==== Sys2Proof/Laws/ShapeHostRegs.lean ====
section
/-! SUPPORT. The operations of Machine/HostRegs.lean keep the shape of the state. -/

namespace Sys2Proof.Machine

set_option linter.unusedSimpArgs false
set_option simprocs false

@[simp] theorem readWord_shape (s : State) (k off : Nat) : shapeOf (readWord s k off).2 = shapeOf s := by
  unfold readWord
  repeat' first
    | with_reducible rfl
    | simp only [↓ite_shape, ↓ite_shape_snd, ite_self, ↓withFn_shape, ↓withPart_shape]
    | refine (foldl_shape _ _ _ fun t x => ?_).trans ?_
    | split

@[simp] theorem barRead_shape (s : State) (k off n : Nat) : shapeOf (barRead s k off n) = shapeOf s := by
  unfold barRead
  repeat' first
    | with_reducible rfl
    | simp only [↓shape_mk, ↓pend_shape, ↓fuse_shape, ↓parts_shape, ↓ports_shape, ↓fns_shape, ↓coll_shape, ↓ite_shape, ite_self,
    ↓readWord_shape]
    | refine (foldl_shape _ _ _ fun t x => ?_).trans ?_
    | split

theorem execRcRead_shape (fn : Nat) (off : BitVec 16) (n : BitVec 4) (s : State) : KeepsShape s (execRcRead fn off n s) := by
  unfold execRcRead
  simp only [implies_true, ↓keeps_onUnit, ↓barRead_shape]

theorem execLowHalfRead_shape (fn : Nat) (off : BitVec 16) (n : BitVec 4) (s : State) :
    KeepsShape s (execLowHalfRead fn off n s) := by
  unfold execLowHalfRead
  simp only [implies_true, ↓keeps_onUnit, ↓barRead_shape]

end Sys2Proof.Machine
end

