-- ==== Sys2Proof/Laws/ShapeHostWrites.lean ====
section
/-! SUPPORT. The operations of Machine/HostWrites.lean keep the shape of the state. -/

namespace Sys2Proof.Machine

set_option linter.unusedSimpArgs false
set_option simprocs false

@[simp] theorem selWrite_shape (s : State) (k win v : Nat) : shapeOf (selWrite s k win v) = shapeOf s := by
  unfold selWrite
  simp only [↓ite_shape, ite_self, ↓withFn_shape]

@[simp] theorem msixUnmask_shape (s : State) (k : Nat) : shapeOf (msixUnmask s k) = shapeOf s := by
  unfold msixUnmask
  simp only [↓ite_shape, ite_self, implies_true, ↓foldl_shape, ↓raiseVector_shape, ↓withFn_shape]

@[simp] theorem ringSize_shape (s : State) (k : Nat) (evt : Bool) (v : Nat) : shapeOf (ringSize s k evt v) = shapeOf s := by
  unfold ringSize
  simp only [↓ite_shape, ite_self, ↓withFn_shape]

@[simp] theorem apWrite_shape (s : State) (k v : Nat) : shapeOf (apWrite s k v) = shapeOf s := by
  unfold apWrite
  simp only [↓ite_shape, ite_self, ↓withFn_shape]

@[simp] theorem fnWrite_shape (s : State) (k off v : Nat) : shapeOf (fnWrite s k off v) = shapeOf s := by
  unfold fnWrite
  repeat' first
    | with_reducible rfl
    | simp only [↓ite_shape, ite_self, ↓cmdTail_shape, ↓mboxGo_shape, ↓msixUnmask_shape, ↓ringSize_shape, ↓withFn_shape]
    | refine (foldl_shape _ _ _ fun t x => ?_).trans ?_
    | split

@[simp] theorem withRep_shape (s : State) (p : Nat) (f : RepRegs → RepRegs) : shapeOf (withRep s p f) = shapeOf s := by
  unfold withRep
  simp only [↓withPart_shape]

@[simp] theorem repWrite_shape (s : State) (k p off v : Nat) : shapeOf (repWrite s k p off v) = shapeOf s := by
  unfold repWrite
  repeat' first
    | with_reducible rfl
    | simp only [↓logTail_shape, ↓selWrite_shape, ↓withRep_shape]
    | refine (foldl_shape _ _ _ fun t x => ?_).trans ?_
    | split

@[simp] theorem seWrite_shape (s : State) (k p off v : Nat) : shapeOf (seWrite s k p off v) = shapeOf s := by
  unfold seWrite
  split
  · simp only [↓shape_mk, ↓pend_shape, ↓fuse_shape, ↓parts_shape, ↓ports_shape, ↓fns_shape, ↓coll_shape, ↓ite_shape, ite_self,
    implies_true, ↓hostOrder_shape, ↓selWrite_shape, ↓withFn_shape, ↓withSe_shape]
  · simp only [↓shape_mk, ↓pend_shape, ↓fuse_shape, ↓parts_shape, ↓ports_shape, ↓fns_shape, ↓coll_shape, ↓ite_shape, ite_self,
    implies_true, ↓hostOrder_shape, ↓selWrite_shape, ↓withFn_shape, ↓withSe_shape]
  · simp only [↓shape_mk, ↓pend_shape, ↓fuse_shape, ↓parts_shape, ↓ports_shape, ↓fns_shape, ↓coll_shape, ↓ite_shape, ite_self,
    implies_true, ↓hostOrder_shape, ↓selWrite_shape, ↓withFn_shape, ↓withSe_shape]
  · repeat' first
      | with_reducible rfl
      | exact hostOrder_shape _ _ _ _ (fun _ => rfl)
      | simp only [↓shape_mk, ↓pend_shape, ↓fuse_shape, ↓parts_shape, ↓ports_shape, ↓fns_shape, ↓coll_shape, ↓ite_shape,
    ite_self, implies_true, ↓hostOrder_shape, ↓selWrite_shape, ↓withFn_shape, ↓withSe_shape]
      | split

@[simp] theorem ckConfig_shape (s : State) (p : Nat) (f : CkRegs → CkRegs) : shapeOf (ckConfig s p f) = shapeOf s := by
  unfold ckConfig
  simp only [↓withCk_shape]

@[simp] theorem ckWrite_shape (s : State) (k p off v : Nat) : shapeOf (ckWrite s k p off v) = shapeOf s := by
  unfold ckWrite
  repeat' first
    | with_reducible rfl
    | simp only [↓ite_shape, ite_self, ↓ckConfig_shape, ↓drainStart_shape, ↓requestCut_shape, ↓selWrite_shape, ↓withCk_shape]
    | refine (foldl_shape _ _ _ fun t x => ?_).trans ?_
    | split

@[simp] theorem haltWrite_shape (s : State) (k v : Nat) : shapeOf (haltWrite s k v) = shapeOf s := by
  unfold haltWrite
  simp only [↓ite_shape, ite_self, ↓noteHalts_shape, ↓withGov_shape]

@[simp] theorem pwWrite_shape (s : State) (k off v : Nat) : shapeOf (pwWrite s k off v) = shapeOf s := by
  unfold pwWrite
  repeat' first
    | with_reducible rfl
    | simp only [↓ite_shape, ite_self, ↓haltWrite_shape, ↓pwNote_shape, ↓retarget_shape, ↓withGov_shape]
    | refine (foldl_shape _ _ _ fun t x => ?_).trans ?_
    | split

@[simp] theorem bsWrite_shape (s : State) (k off v : Nat) : shapeOf (bsWrite s k off v) = shapeOf s := by
  unfold bsWrite
  simp only [↓shape_mk, ↓pend_shape, ↓fuse_shape, ↓parts_shape, ↓ports_shape, ↓fns_shape, ↓coll_shape, ↓ite_shape,
    ↓qpConfig_shape]
  (repeat' split) <;> first
    | rfl
    | (simp_all only [↓shape_mk, ↓pend_shape, ↓fuse_shape, ↓parts_shape, ↓ports_shape, ↓fns_shape, ↓coll_shape, ↓ite_shape,
    ↓qpConfig_shape]; done)

@[simp] theorem portCtrlWrite_shape (s : State) (k n v : Nat) : shapeOf (portCtrlWrite s k n v) = shapeOf s := by
  unfold portCtrlWrite
  simp only [↓ite_shape, ite_self, ↓retrainPort_shape, ↓withLk_shape, ↓withPort_shape]

@[simp] theorem lkConfig_shape (s : State) (p : Nat) (f : LkRegs → LkRegs) : shapeOf (lkConfig s p f) = shapeOf s := by
  unfold lkConfig
  simp only [↓withLk_shape]

@[simp] theorem lkWrite_shape (s : State) (k p off v : Nat) : shapeOf (lkWrite s k p off v) = shapeOf s := by
  unfold lkWrite
  repeat' first
    | with_reducible rfl
    | simp only [↓ite_shape, ite_self, ↓lkConfig_shape, ↓portCtrlWrite_shape, ↓selWrite_shape, ↓withFn_shape, ↓withLk_shape,
    ↓withPort_shape]
    | refine (foldl_shape _ _ _ fun t x => ?_).trans ?_
    | split

@[simp] theorem withQz_shape (s : State) (f : Quartz → Quartz) : shapeOf (withQz s f) = shapeOf s := by
  unfold withQz
  simp only [↓shape_mk, ↓pend_shape, ↓fuse_shape, ↓parts_shape, ↓ports_shape, ↓fns_shape, ↓coll_shape]

@[simp] theorem clWrite_shape (s : State) (k p off v : Nat) : shapeOf (clWrite s k p off v) = shapeOf s := by
  unfold clWrite
  repeat' first
    | with_reducible rfl
    | simp only [↓ite_shape, ite_self, implies_true, ↓hostOrder_shape, ↓selWrite_shape, ↓withCl_shape, ↓withQz_shape]
    | refine (foldl_shape _ _ _ fun t x => ?_).trans ?_
    | split

@[simp] theorem mtConfig_shape (s : State) (p : Nat) (f : MemRegs → MemRegs) : shapeOf (mtConfig s p f) = shapeOf s := by
  unfold mtConfig
  simp only [↓withMem_shape]

@[simp] theorem mtWrite_shape (s : State) (k p off v : Nat) : shapeOf (mtWrite s k p off v) = shapeOf s := by
  unfold mtWrite
  repeat' first
    | with_reducible rfl
    | simp only [↓mtConfig_shape, ↓selWrite_shape, ↓withMem_shape]
    | refine (foldl_shape _ _ _ fun t x => ?_).trans ?_
    | split

@[simp] theorem dbgDataWrite_shape (s : State) (k : Nat) (v : Nat) : shapeOf (dbgDataWrite s k v) = shapeOf s := by
  unfold dbgDataWrite
  repeat' first
    | with_reducible rfl
    | simp only [↓ite_shape, ↓withCluster_shape]
    | refine (foldl_shape _ _ _ fun t x => ?_).trans ?_
    | split

@[simp] theorem dbgWrite_shape (s : State) (k p off v : Nat) : shapeOf (dbgWrite s k p off v) = shapeOf s := by
  unfold dbgWrite
  repeat' first
    | with_reducible rfl
    | simp only [↓ite_shape, ite_self, ↓debugEnd_shape, ↓resumePart_shape, ↓selWrite_shape, ↓withFn_shape]
    | refine (foldl_shape _ _ _ fun t x => ?_).trans ?_
    | split

@[simp] theorem write32_shape (s : State) (k off v : Nat) : shapeOf (write32 s k off v) = shapeOf s := by
  unfold write32
  simp only [↓ite_shape, ite_self, ↓bsWrite_shape, ↓ckWrite_shape, ↓clWrite_shape, ↓dbgWrite_shape, ↓fnWrite_shape,
    ↓lkWrite_shape, ↓mtWrite_shape, ↓pwWrite_shape, ↓repWrite_shape, ↓seWrite_shape]

@[simp] theorem qzLoad_shape (s : State) (k v : Nat) : shapeOf (qzLoad s k v) = shapeOf s := by
  unfold qzLoad
  simp only [↓ite_shape, ite_self, ↓withQz_shape]

@[simp] theorem write64_shape (s : State) (k off v : Nat) : shapeOf (write64 s k off v) = shapeOf s := by
  unfold write64
  repeat' first
    | with_reducible rfl
    | simp only [↓ite_shape, ite_self, ↓apWrite_shape, ↓ckConfig_shape, ↓dbgDataWrite_shape, ↓frameWrite_shape, ↓lkConfig_shape,
    ↓mtConfig_shape, ↓qzLoad_shape, ↓withCk_shape, ↓withFn_shape, ↓withPort_shape, ↓withRep_shape, ↓withSe_shape]
    | refine (foldl_shape _ _ _ fun t x => ?_).trans ?_
    | split

@[simp] theorem writeWord_shape (s : State) (k off v : Nat) : shapeOf (writeWord s k off v) = shapeOf s := by
  unfold writeWord
  repeat' first
    | with_reducible rfl
    | simp only [↓ite_shape, ite_self, ↓write32_shape, ↓write64_shape]
    | refine (foldl_shape _ _ _ fun t x => ?_).trans ?_
    | split

@[simp] theorem barWrite_shape (s : State) (k off : Nat) (w : WriteArgs) : shapeOf (barWrite s k off w) = shapeOf s := by
  unfold barWrite
  repeat' first
    | with_reducible rfl
    | simp only [↓ite_shape, ite_self, ↓write64_shape, ↓writeWord_shape]
    | refine (foldl_shape _ _ _ fun t x => ?_).trans ?_
    | split

theorem execRegisterWrite_shape (fn : Nat) (off : BitVec 16) (w : WriteArgs) (s : State) :
    KeepsShape s (execRegisterWrite fn off w s) := by
  unfold execRegisterWrite
  simp only [implies_true, ↓keeps_onUnit, ↓barWrite_shape]

theorem execRingSizeWrite_shape (fn : Nat) (evt : Bool) (v : Word32) (s : State) :
    KeepsShape s (execRingSizeWrite fn evt v s) := by
  unfold execRingSizeWrite
  simp only [↓ite_shape, ite_self, implies_true, ↓keeps_onUnit, ↓ringSize_shape]

theorem execHaltRequest_shape (fn : Nat) (v : Word32) (s : State) : KeepsShape s (execHaltRequest fn v s) := by
  unfold execHaltRequest
  simp only [↓ite_shape, ite_self, implies_true, ↓keeps_onUnit, ↓haltWrite_shape]

theorem execDbgClDataWrite_shape (fn : Nat) (w : WriteArgs) (s : State) : KeepsShape s (execDbgClDataWrite fn w s) := by
  unfold execDbgClDataWrite
  simp only [implies_true, ↓keeps_onUnit, ↓barWrite_shape]

end Sys2Proof.Machine
end

