-- ==== Sys2Proof/Laws/ShapeHostOps.lean ====
section
/-! SUPPORT. The operations of Machine/HostOps.lean keep the shape of the state. -/

namespace Sys2Proof.Machine

set_option linter.unusedSimpArgs false
set_option simprocs false

@[simp] theorem doorbell_shape (s : State) (k off v : Nat) : shapeOf (doorbell s k off v) = shapeOf s := by
  unfold doorbell
  repeat' first
    | with_reducible rfl
    | simp only [↓ite_shape, ite_self, ↓withCtx_shape, ↓withFn_shape]
    | refine (foldl_shape _ _ _ fun t x => ?_).trans ?_
    | split

theorem execDoorbell_shape (fn : Nat) (off : BitVec 16) (v : Word64) (s : State) : KeepsShape s (execDoorbell fn off v s) := by
  unfold execDoorbell
  simp only [implies_true, ↓keeps_onUnit, ↓doorbell_shape]

@[simp] theorem apertureRefuse_shape (s : State) (p : Nat) : shapeOf (apertureRefuse s p) = shapeOf s := by
  unfold apertureRefuse
  simp only [↓ite_shape, ite_self, ↓rejectAccess_shape, ↓sendEvent_shape]

@[simp] theorem bar4Read_shape (s : State) (k off n : Nat) : shapeOf (bar4Read s k off n) = shapeOf s := by
  unfold bar4Read
  simp only [↓shape_mk, ↓pend_shape, ↓fuse_shape, ↓parts_shape, ↓ports_shape, ↓fns_shape, ↓coll_shape, ↓ite_shape, ite_self,
    ↓apertureRefuse_shape, ↓countPoisonRead_shape]

theorem execBar4Read_shape (fn : Nat) (off : Word64) (n : BitVec 13) (s : State) : KeepsShape s (execBar4Read fn off n s) := by
  unfold execBar4Read
  simp only [implies_true, ↓keeps_onUnit, ↓bar4Read_shape]

@[simp] theorem bar4Write_shape (s : State) (k off : Nat) (d : List Byte) : shapeOf (bar4Write s k off d) = shapeOf s := by
  unfold bar4Write
  simp only [↓ite_shape, ite_self, ↓apertureRefuse_shape, ↓hbmStore_shape]

theorem execBar4Write_shape (fn : Nat) (off : Word64) (data : List Byte) (s : State) :
    KeepsShape s (execBar4Write fn off data s) := by
  unfold execBar4Write
  simp only [implies_true, ↓keeps_onUnit, ↓bar4Write_shape]

@[simp] theorem partLevel_shape (s : State) (p : Nat) : shapeOf (partLevel s p) = shapeOf s := by
  unfold partLevel
  simp only [↓shape_mk, ↓pend_shape, ↓fuse_shape, ↓parts_shape, ↓ports_shape, ↓fns_shape, ↓coll_shape, ↓jobEnd_shape]

@[simp] theorem dropSeeds_shape (s : State) (k : Nat) : shapeOf (dropSeeds s k) = shapeOf s := by
  unfold dropSeeds
  simp only [↓withNoise_shape]

@[simp] theorem functionReset_shape (s : State) (k : Nat) : shapeOf (functionReset s k) = shapeOf s := by
  unfold functionReset
  simp only [↓shape_mk, ↓pend_shape, ↓fuse_shape, ↓parts_shape, ↓ports_shape, ↓fns_shape, ↓coll_shape, ↓ite_shape, ite_self,
    List.length_map, implies_true, ↓foldl_shape, ↓dropSeeds_shape, ↓partLevel_shape, ↓withFn_shape, ↓withNoise_shape]

theorem execFunctionLevelReset_shape (fn : Nat) (s : State) : KeepsShape s (execFunctionLevelReset fn s) := by
  unfold execFunctionLevelReset
  simp only [implies_true, ↓keeps_onUnit, ↓functionReset_shape]

theorem execPerst_shape (s : State) : KeepsShape s (execPerst s) := by
  unfold execPerst
  simp only [↓keeps_next, ↓functionReset_shape]

theorem execPcieLinkDown_shape (s : State) : KeepsShape s (execPcieLinkDown s) := by
  unfold execPcieLinkDown
  simp only [↓shape_mk, ↓pend_shape, ↓fuse_shape, ↓parts_shape, ↓ports_shape, ↓fns_shape, ↓coll_shape, ↓keeps_next]

@[simp] theorem deliverHeld_shape (s : State) (w : HostWrite) : shapeOf (deliverHeld s w) = shapeOf s := by
  unfold deliverHeld
  repeat' first
    | with_reducible rfl
    | simp only [↓hostWrite_shape, ↓raiseVector_shape, ↓ringEvent_shape]
    | refine (foldl_shape _ _ _ fun t x => ?_).trans ?_
    | split

theorem execPcieLinkUp_shape (s : State) : KeepsShape s (execPcieLinkUp s) := by
  unfold execPcieLinkUp
  simp only [↓shape_mk, ↓pend_shape, ↓fuse_shape, ↓parts_shape, ↓ports_shape, ↓fns_shape, ↓coll_shape, ↓ite_shape, ite_self,
    implies_true, ↓keeps_next, ↓foldl_shape, ↓deliverHeld_shape]

end Sys2Proof.Machine
end

