-- ==== Sys2Proof/Laws/ShapeStartOps.lean ====
section
/-! SUPPORT. The operations of Machine/StartOps.lean keep the shape of the state. -/

namespace Sys2Proof.Machine

set_option linter.unusedSimpArgs false
set_option simprocs false

@[simp] theorem commitLife_shape (s : State) : shapeOf (commitLife s) = shapeOf s := by
  unfold commitLife
  simp only [↓shape_mk, ↓pend_shape, ↓fuse_shape, ↓parts_shape, ↓ports_shape, ↓fns_shape, ↓coll_shape, ↓ite_shape, ite_self]

@[simp] theorem withLife_shape (s : State) (f : Life → Life) : shapeOf (withLife s f) = shapeOf s := by
  unfold withLife
  simp only [↓shape_mk, ↓pend_shape, ↓fuse_shape, ↓parts_shape, ↓ports_shape, ↓fns_shape, ↓coll_shape]

theorem withMgmt_shape (s : State) (f : Mgmt → Mgmt) (h : ∀ m, (f m).coll.length = m.coll.length) :
    shapeOf (withMgmt s f) = shapeOf s := by
  simp only [shapeOf, withMgmt, h]

@[simp] theorem mgmtSend_shape (s : State) (src : EvSrc) (code detail : Nat) :
    shapeOf (mgmtSend s src code detail) = shapeOf s := by
  unfold mgmtSend
  simp only [↓lifeEvent_shape, ↓mgmtEvent_shape]

@[simp] theorem sendOwed_shape (s : State) : shapeOf (sendOwed s) = shapeOf s := by
  unfold sendOwed
  simp only [implies_true, ↓foldl_shape, ↓mgmtEvent_shape, ↓withLife_shape]

@[simp] theorem mainReset_shape (s : State) (ok : shapeOk (shapeOf s)) : shapeOf (mainReset s) = shapeOf s := by
  obtain ⟨h1, h2, h3, h4⟩ := ok
  have hp : s.parts.length = 12 := h1
  have hq : s.ports.length = 24 := h2
  have hf : s.host.fns.length = 13 := h3
  simp only [shapeOf, mainReset, bootReset, hostReset, List.length_map, List.length_range, List.length_replicate, hp, hq, hf]

@[simp] theorem mainOff_shape (s : State) (ok : shapeOk (shapeOf s)) : shapeOf (mainOff s) = shapeOf s := by
  unfold mainOff
  simp only [↓mainReset_shape, ↓withSup_shape, ok]

@[simp] theorem mgmtStart_shape (s : State) : shapeOf (mgmtStart s) = shapeOf s := by
  unfold mgmtStart
  simp only [List.length_map, implies_true, ↓withMgmt_shape]

@[simp] theorem moduleReset_shape (s : State) (ok : shapeOk (shapeOf s)) : shapeOf (moduleReset s) = shapeOf s := by
  unfold moduleReset
  simp only [↓commitLife_shape, ↓mainReset_shape, ↓mgmtStart_shape, ↓sendOwed_shape, ↓withLife_shape, ↓withSup_shape, ok]

theorem execModuleReset_shape (s : State) (ok : shapeOk (shapeOf s)) : KeepsShape s (execModuleReset s) := by
  unfold execModuleReset
  simp only [↓ite_shape, ite_self, ↓keeps_next, ↓moduleReset_shape, ok]

theorem withBoot_shape (s : State) (f : Boot → Boot) (h : ∀ b, (f b).fuse = b.fuse) : shapeOf (withBoot s f) = shapeOf s := by
  simp only [shapeOf, withBoot, h]

@[simp] theorem bootFails_shape (s : State) (code : Nat) : shapeOf (bootFails s code) = shapeOf s := by
  unfold bootFails
  simp only [implies_true, ↓withBoot_shape]

theorem execBootRomDone_shape (mismatch : Bool) (s : State) : KeepsShape s (execBootRomDone mismatch s) := by
  unfold execBootRomDone
  simp only [↓ite_shape, ite_self, implies_true, ↓keeps_next, ↓bootFails_shape, ↓mgmtSend_shape, ↓withBoot_shape]

@[simp] theorem bankTry_shape (s : State) (isB : Bool) (key : BitVec 768) : shapeOf (bankTry s isB key).1 = shapeOf s := by
  unfold bankTry
  repeat' first
    | with_reducible rfl
    | simp only [↓ite_shape_fst, ite_self, implies_true, ↓mgmtSend_shape, ↓withBoot_shape]
    | refine (foldl_shape _ _ _ fun t x => ?_).trans ?_
    | split

theorem execFwVerify_shape (keyA keyB : BitVec 768) (s : State) : KeepsShape s (execFwVerify keyA keyB s) := by
  unfold execFwVerify
  simp only [↓ite_shape, ite_self, ↓keeps_next, ↓bankTry_shape, ↓bootFails_shape, ↓mgmtSend_shape]

@[simp] theorem retire_shape (s : State) (c : Nat) : shapeOf (retire s c) = shapeOf s := by
  unfold retire
  simp only [↓sendEvent_shape, ↓withLife_shape]

@[simp] theorem startPlan_shape (s : State) (a : StartArgs) : shapeOf (startPlan s a) = shapeOf s := by
  unfold startPlan
  simp only [implies_true, ↓foldl_shape, ↓retire_shape, ↓sendEvent_shape, ↓withGov_shape, ↓withLife_shape]

@[simp] theorem startMemory_shape (s : State) : shapeOf (startMemory s) = shapeOf s := by
  unfold startMemory
  simp only [↓shape_mk, ↓pend_shape, ↓fuse_shape, ↓parts_shape, ↓ports_shape, ↓fns_shape, ↓coll_shape, List.length_map]

@[simp] theorem startTable_shape (s : State) (a : StartArgs) : shapeOf (startTable s a).2 = shapeOf s := rfl

theorem startTable_some (s t : State) (a : StartArgs) (h : (startTable s a).1 = some t) : shapeOf t = shapeOf s := by
  unfold startTable at h
  simp only [Option.map_eq_some_iff] at h
  obtain ⟨tb, -, rfl⟩ := h
  simp only [↓spareWarn_shape]
  rfl

@[simp] theorem startQuartz_shape (s : State) : shapeOf (startQuartz s) = shapeOf s := by
  unfold startQuartz
  simp only [↓withQz_shape]

@[simp] theorem takeClock_shape (s : State) : shapeOf (takeClock s) = shapeOf s := by
  unfold takeClock
  simp only [↓ite_shape, ite_self, implies_true, ↓withBoot_shape, ↓withLife_shape]

@[simp] theorem startReady_shape (s : State) : shapeOf (startReady s) = shapeOf s := by
  unfold startReady
  repeat' first
    | with_reducible rfl
    | simp only [↓ite_shape, ite_self, implies_true, ↓bootFails_shape, ↓commitLife_shape, ↓putPlan_shape, ↓sendEvent_shape,
    ↓startQuartz_shape, ↓takeClock_shape, ↓withBoot_shape, ↓withGov_shape, ↓withLife_shape]
    | refine (foldl_shape _ _ _ fun t x => ?_).trans ?_
    | split

@[simp] theorem startRun_shape (s : State) (a : StartArgs) : shapeOf (startRun s a) = shapeOf s := by
  have e := startTable_shape (startMemory (startPlan s a)) a
  unfold startRun
  simp only [↓ite_shape, ↓bootFails_shape, ↓sendEvent_shape, ↓startMemory_shape, ↓startPlan_shape, ↓startReady_shape,
    ↓startTable_shape]
  split
  · rfl
  · split
    · simp only [↓ite_shape, ↓bootFails_shape, ↓sendEvent_shape, ↓startMemory_shape, ↓startPlan_shape, ↓startReady_shape,
    ↓startTable_shape]
    · rename_i t h
      simp only [↓ite_shape, ↓bootFails_shape, ↓sendEvent_shape, ↓startMemory_shape, ↓startPlan_shape, ↓startReady_shape,
    ↓startTable_shape, startTable_some _ _ _ h]

theorem execStart_shape (a : StartArgs) (s : State) : KeepsShape s (execStart a s) := by
  unfold execStart
  simp only [↓ite_shape, ite_self, ↓keeps_next, ↓advance_shape, ↓startRun_shape, withBoot_shape _ (fun b => { b with models := a.models }) (fun _ => rfl)]

theorem execStartPhaseTimeout_shape (phase : BitVec 4) (s : State) (ok : shapeOk (shapeOf s)) :
    KeepsShape s (execStartPhaseTimeout phase s) := by
  unfold execStartPhaseTimeout
  simp only [↓ite_shape, ite_self, ↓keeps_next, ↓bootFails_shape, ↓mainOff_shape, ↓mgmtSend_shape, ↓sendEvent_shape,
    ↓withSup_shape, ok]

@[simp] theorem alwaysOnReset_shape (s : State) (a : PowerOnArgs) (ok : shapeOk (shapeOf s)) :
    shapeOf (alwaysOnReset s a) = shapeOf s := by
  have hm : ∀ (m : Mgmt) (u : Supplies) (l : Life) (x y : Option LifeCopy) (g : Governor), m.coll.length = 4 →
      shapeOf (mainReset { s with mgmt := m, supplies := u, life := l, copyA := x, copyB := y, gov := g }) = shapeOf s := by
    intro m u l x y g h
    have e : shapeOf { s with mgmt := m, supplies := u, life := l, copyA := x, copyB := y, gov := g } = shapeOf s := by
      simp only [shapeOf, h, show s.mgmt.coll.length = 4 from ok.2.2.2]
    rw [mainReset_shape _ (by rw [e]; exact ok), e]
  unfold alwaysOnReset
  simp only [↓ite_shape, ↓mgmtSend_shape]
  split <;> exact hm _ _ _ _ _ _ rfl

theorem execAlwaysOnPowerOn_shape (a : PowerOnArgs) (s : State) (ok : shapeOk (shapeOf s)) :
    KeepsShape s (execAlwaysOnPowerOn a s) := by
  unfold execAlwaysOnPowerOn
  simp only [↓ite_shape, ite_self, ↓keeps_next, ↓alwaysOnReset_shape, ok]

theorem execAlwaysOnHoldUpEnd_shape (s : State) (ok : shapeOk (shapeOf s)) : KeepsShape s (execAlwaysOnHoldUpEnd s) := by
  have e : shapeOf { s with life := lifeKept s } = shapeOf s := rfl
  have g := mainOff_shape { s with life := lifeKept s } ok
  unfold execAlwaysOnHoldUpEnd
  simp only [↓keeps_next, ↓ite_shape, ↓withSup_shape, ↓commitLife_shape, g, e, ite_self]

end Sys2Proof.Machine
end

