-- ==== Sys2Proof/Laws/ShapePowerOps.lean ====
section
/-! SUPPORT. The operations of Machine/PowerOps.lean keep the shape of the state. -/

namespace Sys2Proof.Machine

set_option linter.unusedSimpArgs false
set_option simprocs false

theorem execAuxPresent_shape (mv : BitVec 16) (s : State) : KeepsShape s (execAuxPresent mv s) := by
  unfold execAuxPresent
  simp only [↓ite_shape, ite_self, ↓keeps_next, ↓withSup_shape]

theorem execAuxAbsent_shape (mv : BitVec 16) (s : State) : KeepsShape s (execAuxAbsent mv s) := by
  unfold execAuxAbsent
  simp only [↓ite_shape, ite_self, ↓keeps_next, ↓withSup_shape]

theorem execAuxOvervoltage_shape (mv : BitVec 16) (s : State) : KeepsShape s (execAuxOvervoltage mv s) := by
  unfold execAuxOvervoltage
  simp only [↓ite_shape, ite_self, ↓keeps_next, ↓withSup_shape]

theorem execMainEnable_shape (mv : BitVec 16) (s : State) (ok : shapeOk (shapeOf s)) : KeepsShape s (execMainEnable mv s) := by
  unfold execMainEnable
  simp only [↓ite_shape, ite_self, ↓keeps_next, ↓moduleReset_shape, ↓withSup_shape, ok]

theorem execSurpriseRemoval_shape (s : State) (ok : shapeOk (shapeOf s)) : KeepsShape s (execSurpriseRemoval s) := by
  unfold execSurpriseRemoval
  simp only [↓ite_shape, ite_self, ↓keeps_next, ↓commitLife_shape, ↓mainOff_shape, ↓withLife_shape, ↓withSup_shape, ok]

theorem execOverVoltage_shape (mv : BitVec 16) (s : State) (ok : shapeOk (shapeOf s)) :
    KeepsShape s (execOverVoltage mv s) := by
  unfold execOverVoltage
  simp only [↓ite_shape, ite_self, ↓keeps_next, ↓mainOff_shape, ↓mgmtSend_shape, ↓withLife_shape, ↓withSup_shape, ok]

@[simp] theorem setEnable_shape (s : State) (v : Bool) (ok : shapeOk (shapeOf s)) : shapeOf (setEnable s v) = shapeOf s := by
  unfold setEnable
  simp only [↓ite_shape, ite_self, ↓commitLife_shape, ↓mainOff_shape, ↓withGov_shape, ↓withSup_shape, ok]

theorem execOrderlyRemoval_shape (s : State) (ok : shapeOk (shapeOf s)) : KeepsShape s (execOrderlyRemoval s) := by
  unfold execOrderlyRemoval
  simp only [↓ite_shape, ite_self, ↓keeps_next, ↓setEnable_shape, ok]

@[simp] theorem allHolds_shape (s : State) (f : BitVec 16 → BitVec 16) : shapeOf (allHolds s f) = shapeOf s := by
  unfold allHolds
  simp only [↓shape_mk, ↓pend_shape, ↓fuse_shape, ↓parts_shape, ↓ports_shape, ↓fns_shape, ↓coll_shape, List.length_map]

theorem execMainBelowWarning_shape (mv : BitVec 16) (dt : Word64) (s : State) :
    KeepsShape s (execMainBelowWarning mv dt s) := by
  unfold execMainBelowWarning
  simp only [↓ite_shape, ite_self, ↓keeps_next, ↓advance_shape, ↓allHolds_shape, ↓sendEvent_shape, ↓withGov_shape,
    ↓withLife_shape, ↓withSup_shape]

theorem execMainAboveResume_shape (mv low : BitVec 16) (dt : Word64) (s : State) :
    KeepsShape s (execMainAboveResume mv low dt s) := by
  unfold execMainAboveResume
  repeat' first
    | with_reducible rfl
    | simp only [↓ite_shape, ↓keeps_next, ↓advance_shape, ↓allHolds_shape, ↓sendEvent_shape, ↓withSup_shape]
    | refine (foldl_shape _ _ _ fun t x => ?_).trans ?_
    | split

@[simp] theorem orderlyHalt_shape (s : State) (p : Nat) : shapeOf (orderlyHalt s p) = shapeOf s := by
  unfold orderlyHalt
  simp only [↓ite_shape, ite_self, ↓dropStream_shape, ↓jobEnd_shape]

theorem execHoldLimitExpiry_shape (s : State) : KeepsShape s (execHoldLimitExpiry s) := by
  unfold execHoldLimitExpiry
  simp only [↓ite_shape, ite_self, implies_true, ↓keeps_next, ↓foldl_shape, ↓orderlyHalt_shape, ↓pwNote_shape, ↓withGov_shape,
    ↓withLife_shape, ↓withSup_shape]

@[simp] theorem resetEvent_shape (s : State) : shapeOf (resetEvent s) = shapeOf s := by
  unfold resetEvent
  simp only [↓ite_shape, ite_self, ↓lifeEvent_shape, ↓mgmtSend_shape, ↓withLife_shape]

theorem execMainBelowReset_shape (mv : BitVec 16) (s : State) (ok : shapeOk (shapeOf s)) :
    KeepsShape s (execMainBelowReset mv s) := by
  unfold execMainBelowReset
  simp only [↓ite_shape, ite_self, ↓keeps_next, ↓mainOff_shape, ↓resetEvent_shape, ↓withGov_shape, ↓withLife_shape,
    ↓withSup_shape, ok]

@[simp] theorem permitHalt_shape (s : State) : shapeOf (permitHalt s) = shapeOf s := by
  unfold permitHalt
  simp only [↓noteHalts_shape, ↓withSup_shape]

@[simp] theorem permitEvent_shape (s : State) (code : Nat) : shapeOf (permitEvent s code) = shapeOf s := by
  unfold permitEvent
  simp only [↓sendEvent_shape]

@[simp] theorem permitRun_shape (s : State) : shapeOf (permitRun s) = shapeOf s := by
  unfold permitRun
  simp only [↓withSup_shape]

@[simp] theorem permitStop_shape (s : State) : shapeOf (permitStop s) = shapeOf s := by
  unfold permitStop
  simp only [↓permitEvent_shape, ↓permitHalt_shape, ↓withSup_shape]

@[simp] theorem permitFault_shape (s : State) : shapeOf (permitFault s) = shapeOf s := by
  unfold permitFault
  simp only [↓permitEvent_shape, ↓permitHalt_shape, ↓pwNote_shape, ↓withLife_shape, ↓withSup_shape]

@[simp] theorem permitSplit_shape (s : State) (t : Nat) : shapeOf (permitSplit s t) = shapeOf s := by
  unfold permitSplit
  simp only [↓ite_shape, ite_self, ↓permitFault_shape, ↓withSup_shape]

@[simp] theorem permitNext_shape (s : State) (a b : Bool) : shapeOf (permitNext s a b) = shapeOf s := by
  unfold permitNext
  repeat' first
    | with_reducible rfl
    | simp only [↓ite_shape, ite_self, ↓permitEvent_shape, ↓permitRun_shape, ↓permitSplit_shape, ↓permitStop_shape,
    ↓withLife_shape, ↓withSup_shape]
    | refine (foldl_shape _ _ _ fun t x => ?_).trans ?_
    | split

theorem execPermitSample_shape (a b : Int) (dt : Word64) (s : State) : KeepsShape s (execPermitSample a b dt s) := by
  unfold execPermitSample
  simp only [↓ite_shape, ite_self, ↓keeps_next, ↓advance_shape, ↓permitNext_shape, ↓withSup_shape]

@[simp] theorem askClear_shape (s : State) : shapeOf (askClear s) = shapeOf s := by
  unfold askClear
  simp only [↓withSup_shape]

theorem execPermitFaultClear_shape (s : State) : KeepsShape s (execPermitFaultClear s) := by
  unfold execPermitFaultClear
  simp only [↓keeps_next, ↓askClear_shape]

theorem execHaltBoundExpiry_shape (p : Nat) (s : State) : KeepsShape s (execHaltBoundExpiry p s) := by
  unfold execHaltBoundExpiry
  simp only [↓ite_shape, ite_self, implies_true, ↓keeps_onUnit, ↓jobEnd_shape]

theorem execFastPathWindow_shape (watts : BitVec 16) (s : State) : KeepsShape s (execFastPathWindow watts s) := by
  unfold execFastPathWindow
  simp only [↓keeps_next, ↓withGov_shape]

theorem execSlowPath_shape (watts : BitVec 16) (s : State) : KeepsShape s (execSlowPath watts s) := by
  unfold execSlowPath
  simp only [↓ite_shape, ite_self, ↓keeps_next, ↓retarget_shape, ↓withGov_shape, ↓withSup_shape]

@[simp] theorem cycleStep_shape (s : State) (junction : Nat) : shapeOf (cycleStep s junction) = shapeOf s := by
  unfold cycleStep
  simp only [↓ite_shape, ite_self, ↓withGov_shape, ↓withLife_shape]

@[simp] theorem tripNow_shape (s : State) (ok : shapeOk (shapeOf s)) : shapeOf (tripNow s) = shapeOf s := by
  unfold tripNow
  simp only [implies_true, ↓foldl_shape, ↓jobEnd_shape, ↓mainOff_shape, ↓withGov_shape, ↓withLife_shape, ok]

theorem execThermalTrip_shape (s : State) (ok : shapeOk (shapeOf s)) : KeepsShape s (execThermalTrip s) := by
  unfold execThermalTrip
  simp only [↓ite_shape, ite_self, ↓keeps_next, ↓tripNow_shape, ok]

theorem execThermalAdjust_shape (a : ThermalArgs) (s : State) (ok : shapeOk (shapeOf s)) :
    KeepsShape s (execThermalAdjust a s) := by
  unfold execThermalAdjust
  simp only [↓ite_shape, ite_self, ↓keeps_next, ↓cycleStep_shape, ↓pwNote_shape, ↓retarget_shape, ↓sendEvent_shape,
    ↓tripNow_shape, ↓withGov_shape, ok]

@[simp] theorem canaryTrip_shape (s : State) : shapeOf (canaryTrip s) = shapeOf s := by
  unfold canaryTrip
  simp only [↓retarget_shape, ↓withGov_shape, ↓withLife_shape]

theorem execCanarySample_shape (slack : BitVec 16) (s : State) : KeepsShape s (execCanarySample slack s) := by
  unfold execCanarySample
  simp only [↓ite_shape, ite_self, ↓keeps_next, ↓canaryTrip_shape]

@[simp] theorem replanRetry_shape (s : State) : shapeOf (replanRetry s) = shapeOf s := by
  unfold replanRetry
  simp only [↓allHolds_shape, ↓withGov_shape]

theorem execMarginReplan_shape (s : State) : KeepsShape s (execMarginReplan s) := by
  unfold execMarginReplan
  repeat' first
    | with_reducible rfl
    | simp only [↓ite_shape, ite_self, ↓keeps_next, ↓allHolds_shape, ↓replanCheck_shape, ↓replanRetry_shape, ↓withGov_shape]
    | refine (foldl_shape _ _ _ fun t x => ?_).trans ?_
    | split

@[simp] theorem replanRecord_shape (s : State) : shapeOf (replanRecord s) = shapeOf s := by
  unfold replanRecord
  repeat' first
    | with_reducible rfl
    | simp only [↓sendEvent_shape, ↓withGov_shape, ↓withLife_shape]
    | refine (foldl_shape _ _ _ fun t x => ?_).trans ?_
    | split

theorem execCclkRelockDone_shape (dt : Word64) (s : State) : KeepsShape s (execCclkRelockDone dt s) := by
  unfold execCclkRelockDone
  simp only [↓shape_mk, ↓pend_shape, ↓fuse_shape, ↓parts_shape, ↓ports_shape, ↓fns_shape, ↓coll_shape, ↓ite_shape, ite_self,
    List.length_map, ↓keeps_next, ↓advance_shape, ↓allHolds_shape, ↓replanRecord_shape, ↓retarget_shape, ↓withGov_shape]

theorem execLifeRecordCommit_shape (secs wh : BitVec 32) (s : State) : KeepsShape s (execLifeRecordCommit secs wh s) := by
  unfold execLifeRecordCommit
  simp only [↓ite_shape, ite_self, ↓keeps_next, ↓commitLife_shape, ↓takeClock_shape, ↓withGov_shape, ↓withLife_shape]

end Sys2Proof.Machine
end

