-- ==== Sys2Proof/Laws/ShapeDictionary.lean ====
section
/-! SUPPORT. The operations of Machine/Dictionary.lean keep the shape of the state. -/

namespace Sys2Proof.Machine

set_option linter.unusedSimpArgs false
set_option simprocs false

@[simp] theorem withColl_shape (s : State) (c : Nat) (f : Collector → Collector) : shapeOf (withColl s c f) = shapeOf s := by
  unfold withColl
  simp only [updAt_length, implies_true, ↓withMgmt_shape]

theorem mgmtFree_coll (m : Mgmt) : (mgmtFree m).coll.length = m.coll.length :=
  foldl_keeps List.length _ _ m.coll (fun b _ => countMissed_length _ b)

@[simp] theorem collEnable_shape (s : State) (c : Nat) (v : Bool) : shapeOf (collEnable s c v) = shapeOf s := by
  unfold collEnable
  simp only [↓ite_shape, ite_self, implies_true, ↓withColl_shape, ↓withMgmt_shape, ↓mgmtFree_coll]

@[simp] theorem writeColl_shape (s : State) (c : Nat) (it : WrItem) : shapeOf (writeColl s c it) = shapeOf s := by
  unfold writeColl
  repeat' first
    | with_reducible rfl
    | simp only [↓collEnable_shape, ↓withColl_shape]
    | refine (foldl_shape _ _ _ fun t x => ?_).trans ?_
    | split

@[simp] theorem writeComm_shape (s : State) (it : WrItem) : shapeOf (writeComm s it) = shapeOf s := by
  unfold writeComm
  repeat' first
    | with_reducible rfl
    | simp only [↓ite_shape, implies_true, ↓withLife_shape, ↓withMgmt_shape, ↓writeColl_shape]
    | refine (foldl_shape _ _ _ fun t x => ?_).trans ?_
    | split

@[simp] theorem writePower_shape (s : State) (it : WrItem) (ok : shapeOk (shapeOf s)) :
    shapeOf (writePower s it) = shapeOf s := by
  unfold writePower
  repeat' first
    | with_reducible rfl
    | simp only [↓noteHalts_shape, ↓retarget_shape, ↓setEnable_shape, ↓withGov_shape, ↓withSup_shape, ok]
    | refine (foldl_shape _ _ _ fun t x => ?_).trans ?_
    | split

@[simp] theorem setHold_shape (s : State) (it : WrItem) : shapeOf (setHold s it) = shapeOf s := by
  have e : ∀ (o : Option Bool) (t : State) (f : Bool → State), (∀ b, shapeOf (f b) = shapeOf t) →
      shapeOf (o.elim t f) = shapeOf t := by
    intro o t f h
    cases o with
    | none => rfl
    | some b => exact h b
  have w : ∀ (t : State) (f : Mgmt → Mgmt), (∀ m, (f m).coll = m.coll) → shapeOf (withMgmt t f) = shapeOf t :=
    fun t f h => withMgmt_shape t f (fun m => by rw [h])
  unfold setHold
  refine (foldl_shape _ _ _ fun t x => ?_).trans ?_
  · refine e _ _ _ fun b => ?_
    exact w _ _ fun m => rfl
  · refine (e _ _ _ fun b => ?_).trans ?_
    · exact w _ _ fun m => rfl
    · refine e _ _ _ fun b => ?_
      exact w _ _ fun m => rfl

@[simp] theorem writeShared_shape (s : State) (it : WrItem) : shapeOf (writeShared s it) = shapeOf s := by
  unfold writeShared
  repeat' first
    | with_reducible rfl
    | simp only [↓shape_mk, ↓pend_shape, ↓fuse_shape, ↓parts_shape, ↓ports_shape, ↓fns_shape, ↓coll_shape, ↓setHold_shape,
    ↓withQz_shape, ↓withSe_shape]
    | refine (foldl_shape _ _ _ fun t x => ?_).trans ?_
    | split

@[simp] theorem writeOther_shape (s : State) (it : WrItem) : shapeOf (writeOther s it).2 = shapeOf s := by
  unfold writeOther
  repeat' first
    | with_reducible rfl
    | simp only [↓ite_shape, ite_self, implies_true, ↓packInstall_shape, ↓requestCut_shape, ↓withMgmt_shape]
    | refine (foldl_shape _ _ _ fun t x => ?_).trans ?_
    | split

end Sys2Proof.Machine
end

