-- ==== Sys2Proof/Laws/ShapeMgmtOps.lean ====
section
/-! SUPPORT. The operations of Machine/MgmtOps.lean keep the shape of the state. -/

namespace Sys2Proof.Machine

set_option linter.unusedSimpArgs false
set_option simprocs false

@[simp] theorem sendTo_shape (s : State) (dst : List Byte) (port : Nat) (b : List Byte) :
    shapeOf (sendTo s dst port b) = shapeOf s := by
  unfold sendTo
  simp only [↓ite_shape, ite_self, implies_true, ↓withMgmt_shape]

@[simp] theorem respond_shape (s : State) (src : List Byte) (port : Nat) (h : MsgHead) (items : List (List Byte)) :
    shapeOf (respond s src port h items) = shapeOf s := by
  unfold respond
  simp only [↓sendTo_shape]

@[simp] theorem msgDrop_shape (s : State) : shapeOf (msgDrop s) = shapeOf s := by
  unfold msgDrop
  simp only [implies_true, ↓withMgmt_shape]

@[simp] theorem authFail_shape (s : State) : shapeOf (authFail s) = shapeOf s := by
  unfold authFail
  simp only [↓ite_shape, ite_self, implies_true, ↓msgDrop_shape, ↓sendEvent_shape, ↓withMgmt_shape]

@[simp] theorem collWake_shape (src : List Byte) (slot : Nat) (s : State) (c : Nat) :
    shapeOf (collWake src slot s c) = shapeOf s := by
  unfold collWake
  simp only [↓ite_shape, ite_self, ↓sendEvent_shape, ↓withColl_shape]

@[simp] theorem takeSeq_shape (s : State) (slot seq : Nat) : shapeOf (takeSeq s slot seq) = shapeOf s := by
  unfold takeSeq
  simp only [↓ite_shape, ite_self, implies_true, ↓commitLife_shape, ↓withLife_shape, ↓withMgmt_shape]

@[simp] theorem answerOne_shape (s : State) (r : MgReq) (status : Nat) : shapeOf (answerOne s r status) = shapeOf s := by
  unfold answerOne
  simp only [↓respond_shape]

@[simp] theorem answerRead_shape (s : State) (r : MgReq) : shapeOf (answerRead s r) = shapeOf s := by
  unfold answerRead
  simp only [↓ite_shape, ite_self, ↓answerOne_shape, ↓respond_shape]

@[simp] theorem answerWrite_shape (s : State) (r : MgReq) (sts : List Nat) : shapeOf (answerWrite s r sts) = shapeOf s := by
  unfold answerWrite
  simp only [↓respond_shape]

@[simp] theorem refuseWrite_shape (s : State) (r : MgReq) : shapeOf (refuseWrite s r) = shapeOf s := by
  unfold refuseWrite
  simp only [↓ite_shape, ite_self, ↓answerOne_shape, ↓answerWrite_shape]

@[simp] theorem putObject_shape (s : State) (o v : Nat) : shapeOf (putObject s o v) = shapeOf s := by
  unfold putObject
  simp only [↓shape_mk, ↓pend_shape, ↓fuse_shape, ↓parts_shape, ↓ports_shape, ↓fns_shape, ↓coll_shape, ↓ite_shape, ite_self,
    ↓withQz_shape, ↓withSe_shape]

@[simp] theorem settleObject_shape (items : List WrItem) (s : State) (o : Nat) :
    shapeOf (settleObject items s o) = shapeOf s := by
  unfold settleObject
  repeat' first
    | with_reducible rfl
    | simp only [↓shape_mk, ↓pend_shape, ↓fuse_shape, ↓parts_shape, ↓ports_shape, ↓fns_shape, ↓coll_shape, implies_true,
    ↓foldl_shape, ↓noteConflict_shape, ↓putObject_shape]
    | refine (foldl_shape _ _ _ fun t x => ?_).trans ?_
    | split

@[simp] theorem headAsks_shape (s : State) (r : MgReq) : shapeOf (headAsks s r) = shapeOf s := by
  unfold headAsks
  simp only [↓ite_shape, ite_self, implies_true, ↓askClear_shape, ↓withMgmt_shape]

@[simp] theorem popReq_shape (s : State) : shapeOf (popReq s) = shapeOf s := by
  unfold popReq
  simp only [implies_true, ↓withMgmt_shape]

@[simp] theorem collAck_shape (n seq : Nat) (s : State) (c : Nat) : shapeOf (collAck n seq s c) = shapeOf s := by
  unfold collAck
  simp only [↓ite_shape, ite_self, implies_true, ↓withColl_shape, ↓withMgmt_shape, ↓mgmtFree_coll]

@[simp] theorem eventAck_shape (s : State) (src : List Byte) (seq : Nat) : shapeOf (eventAck s src seq) = shapeOf s := by
  unfold eventAck
  simp only [↓ite_shape, ite_self, implies_true, ↓foldl_shape, ↓collAck_shape]

@[simp] theorem installKey_shape (s : State) (k : Nat) (key : List Byte) : shapeOf (installKey s k key) = shapeOf s := by
  unfold installKey
  simp only [implies_true, ↓withMgmt_shape]

@[simp] theorem keyAuth_shape (s : State) (m : MsgArgs) : shapeOf (keyAuth s m) = shapeOf s := by
  unfold keyAuth
  simp only [↓ite_shape, ite_self, ↓installKey_shape, ↓respond_shape]

@[simp] theorem eventMessage_shape (s : State) (c n : Nat) (ids : List Nat) : shapeOf (eventMessage s c n ids) = shapeOf s := by
  unfold eventMessage
  repeat' first
    | with_reducible rfl
    | simp only [List.length_map, ↓sendTo_shape]
    | refine (foldl_shape _ _ _ fun t x => ?_).trans ?_
    | split

@[simp] theorem eventSend_shape (s : State) (c : Nat) : shapeOf (eventSend s c) = shapeOf s := by
  unfold eventSend
  simp only [↓ite_shape, ite_self, ↓eventMessage_shape, ↓withColl_shape]

theorem execEventSend_shape (c : BitVec 2) (dt : Word64) (s : State) : KeepsShape s (execEventSend c dt s) := by
  unfold execEventSend
  simp only [↓keeps_next, ↓advance_shape, ↓eventSend_shape]

theorem execEventRetransmit_shape (c : BitVec 2) (s : State) : KeepsShape s (execEventRetransmit c s) := by
  unfold execEventRetransmit
  repeat' first
    | with_reducible rfl
    | simp only [↓ite_shape, ite_self, ↓keeps_next, ↓eventMessage_shape]
    | refine (foldl_shape _ _ _ fun t x => ?_).trans ?_
    | split

theorem execCollectorStale_shape (c : BitVec 2) (s : State) : KeepsShape s (execCollectorStale c s) := by
  unfold execCollectorStale
  simp only [↓ite_shape, ite_self, implies_true, ↓keeps_next, ↓sendEvent_shape, ↓withColl_shape, ↓withMgmt_shape, ↓mgmtFree_coll]

theorem execAnnounce_shape (s : State) : KeepsShape s (execAnnounce s) := by
  unfold execAnnounce
  simp only [↓keeps_next, ↓sendTo_shape]

end Sys2Proof.Machine
end

