-- ==== Sys2Proof/Laws/Fuse.lean ====
section
/-! SUPPORT. The operations that may burn Onyx: no burned bit clears, the array stays in its canonical form, and the rest of the
shape stands. -/

namespace Sys2Proof.Machine

/-- A state that follows another with the same queue and sizes, a sound fuse array and every burned bit still burned. -/
structure Keeps (s t : State) : Prop where
  /-- All but Onyx stands. -/
  shape : shapeOf t = { shapeOf s with fuse := t.boot.fuse }
  /-- Onyx is sound. -/
  onyx : onyxOk t.boot.fuse = true
  /-- No burned bit clears. -/
  burned : staysBurned s.boot.fuse t.boot.fuse

/-- What keeps the whole shape keeps what Keeps says. -/
theorem Keeps.of_shape {s t : State} (h : Inv s) (e : shapeOf t = shapeOf s) : Keeps s t := by
  have f : t.boot.fuse = s.boot.fuse := congrArg Shape.fuse e
  refine ⟨?_, f ▸ h.2.2.2.2, f ▸ fun _ _ x => x⟩
  rw [e, f]; rfl

theorem Keeps.trans {s t u : State} (a : Keeps s t) (b : Keeps t u) : Keeps s u :=
  ⟨by rw [b.shape, a.shape], b.onyx, fun x i h => b.burned x i (a.burned x i h)⟩

theorem Keeps.refl {s : State} (h : Inv s) : Keeps s s := Keeps.of_shape h rfl

theorem Keeps.ok {s t : State} (h : Inv s) (k : Keeps s t) : shapeOk (shapeOf t) := by
  rw [k.shape]; exact ((inv_iff s).1 h).1

theorem Keeps.inv {s t : State} (h : Inv s) (k : Keeps s t) : Inv t :=
  (inv_iff t).2 ⟨k.ok h, k.onyx⟩

theorem Keeps.pending {s t : State} (k : Keeps s t) : t.pending = s.pending := by
  have e := congrArg Shape.pend k.shape; exact e

/-- An operation that keeps the shape may follow. -/
theorem Keeps.then {s t u : State} (h : Inv s) (k : Keeps s t) (e : shapeOf u = shapeOf t) : Keeps s u :=
  k.trans (.of_shape (k.inv h) e)

/-- A byte of Onyx after a burn holds every bit that it held. -/
theorem burned_stays (f : Mem 8) (a n v : Nat) (stuck : List (BitVec 12)) : staysBurned f (burned f a n v stuck) := by
  intro b i h
  unfold burned
  by_cases hb : b < a ∨ a + n ≤ b
  · rw [memGet_memWrite_out _ _ _ _ (by simpa using hb)]; exact h
  · obtain ⟨j, rfl⟩ : ∃ j, b = a + j := ⟨b - a, by omega⟩
    have hj : j < ((List.range n).map (fun i => let old := memGet f (a + i)
      if stuck.any (fun x => x.toNat = a + i) then old else old ||| BitVec.ofNat 8 (v / 2 ^ (8 * i)))).length := by
      simp only [List.length_map, List.length_range]; omega
    rw [memGet_memWrite_in _ _ _ _ hj]
    simp only [List.getElem_map, List.getElem_range]
    split
    · exact h
    · simp [h]

/-- A burn inside Onyx keeps it sound. -/
theorem burned_ok {f : Mem 8} {a n : Nat} (v : Nat) (stuck : List (BitVec 12)) (h : onyxOk f = true) (hb : a + n ≤ 4096) :
    onyxOk (burned f a n v stuck) = true := by
  simp only [onyxOk, Bool.and_eq_true, List.all_eq_true, decide_eq_true_eq] at h ⊢
  refine ⟨memWrite_wf _ _ h.1, fun e he => ?_⟩
  unfold burned memWrite at he
  rcases List.mem_append.1 he with he | he
  · rcases List.mem_append.1 he with he | he
    · exact h.2 e (List.mem_filter.1 he).1
    · have := memEntries_lt _ _ e he
      simp only [List.length_map, List.length_range] at this
      omega
  · exact h.2 e (List.mem_filter.1 he).1

theorem burn_keeps (s : State) (a n v : Nat) (stuck : List (BitVec 12)) (h : Inv s) (hb : a + n ≤ 4096) :
    Keeps s (burn s a n v stuck).2 := by
  have k : ∀ c : Boot → Mem 8,
      Keeps s (withBoot s (fun b => { b with fuse := burned s.boot.fuse a n v stuck, copy := c b })) := fun _ =>
    ⟨rfl, burned_ok v stuck h.2.2.2.2 hb, burned_stays s.boot.fuse a n v stuck⟩
  unfold burn
  simp only []
  split
  · exact k (fun b => memWrite b.copy a (memRead (burned s.boot.fuse a n v stuck) a n))
  · exact (k (fun b => memWrite b.copy a (memRead (burned s.boot.fuse a n v stuck) a n))).then h (sendEvent_shape ..)

/-- Objects with FUSE access have subindexes up to 16. -/
theorem fuse_sub (i sub : Nat) (r : ObjRow) (h : objInfo i sub = some r) (ha : r.acc = .fuse) : sub ≤ 16 := by
  have all : ∀ r ∈ objRows, r.acc = .fuse → r.hi ≤ 16 := by decide
  unfold objInfo at h
  split at h
  · split at h
    · cases h; cases ha
    · cases h
  · have e := List.find?_some h
    have hm := all r (List.mem_of_find?_eq_some h) ha
    simp only [Bool.and_eq_true, decide_eq_true_eq] at e
    omega

/-- A FUSE object names bytes of Onyx. -/
theorem fuseTarget_bound (it : WrItem) (h : it.sub ≤ 16) : (fuseTarget it).1 + (fuseTarget it).2.1 ≤ 4096 := by
  unfold fuseTarget
  split <;> simp only [] <;> omega

theorem applyItem_keeps (s : State) (stuck : List (BitVec 12)) (it : WrItem) (h : Inv s) : Keeps s (applyItem s stuck it).2 := by
  have ok := ((inv_iff s).1 h).1
  unfold applyItem
  split
  · exact .refl h
  · rename_i r e
    split
    · exact burn_keeps _ _ _ _ _ h (fuseTarget_bound it (fuse_sub _ _ r e ‹_›))
    · (repeat' split) <;> exact .of_shape h (by simp [ok])

theorem applyItems_keeps (stuck : List (BitVec 12)) (l : List WrItem) (s : State) (h : Inv s) :
    Keeps s (applyItems stuck l s).2 := by
  induction l generalizing s with
  | nil => exact .refl h
  | cons it t ih =>
    have k := applyItem_keeps s stuck it h
    exact k.trans (ih _ (k.inv h))

theorem performWrite_keeps (s : State) (r : MgReq) (stuck : List (BitVec 12)) (h : Inv s) : Keeps s (performWrite s r stuck) := by
  have a : Keeps s (sharedObjects.foldl (settleObject r.items) s) := .of_shape h (foldl_shape _ _ _ fun _ _ => settleObject_shape ..)
  unfold performWrite
  split
  · exact .of_shape h (refuseWrite_shape ..)
  · exact ((a.trans (applyItems_keeps stuck r.items _ (a.inv h))).then h (answerWrite_shape ..))

theorem handleAll_keeps (l : List MgReq) (s : State) (h : Inv s) : Keeps s (handleAll l s) := by
  induction l generalizing s with
  | nil => exact .refl h
  | cons r t ih =>
    unfold handleAll
    split
    · exact .of_shape h (headAsks_shape ..)
    · have k : Keeps s (popReq (if r.read then answerRead s r else performWrite s r [])) := by
        split
        · exact .of_shape h (by simp)
        · exact (performWrite_keeps s r [] h).then h (popReq_shape _)
      exact k.trans (ih _ (k.inv h))

theorem execApplicationTick_keeps (dt : Word64) (s t : State) (h : Inv s) (e : execApplicationTick dt s = .next t) : Keeps s t := by
  have k : Keeps s (advance s dt) := .of_shape h (advance_shape ..)
  unfold execApplicationTick at e
  injection e with e
  subst e
  simp only []
  split
  · exact (k.trans (handleAll_keeps _ _ (k.inv h))).then h rfl
  · exact k.then h rfl

theorem execFuseBurn_keeps (stuck : List (BitVec 12)) (s t : State) (h : Inv s) (e : execFuseBurn stuck s = .next t) : Keeps s t := by
  unfold execFuseBurn at e
  injection e with e
  subst e
  split
  · split
    · exact (performWrite_keeps s _ stuck h).then h (popReq_shape _)
    · exact .refl h
  · exact .refl h

@[simp] theorem takeRequest_shape (s : State) (r : MgReq) : shapeOf (takeRequest s r) = shapeOf s := by
  unfold takeRequest
  (repeat' split) <;> simp [withMgmt_shape]

theorem enrolKey_keeps (s : State) (key : List Byte) (stuck : List (BitVec 12)) (h : Inv s) : Keeps s (enrolKey s key stuck).2 := by
  have k := burn_keeps s 0x720 32 (leNat (sha256 key)) stuck h (by decide)
  unfold enrolKey
  simp only []
  split
  · split
    · exact .of_shape h (installKey_shape ..)
    · exact .refl h
  · split
    · exact .refl h
    · split
      · exact .refl h
      · split
        · exact k.then h (installKey_shape ..)
        · exact k

theorem keyUnauth_keeps (s : State) (m : MsgArgs) (stuck : List (BitVec 12)) (h : Inv s) : Keeps s (keyUnauth s m stuck) := by
  unfold keyUnauth
  simp only []
  split
  · exact .of_shape h (authFail_shape _)
  · exact (enrolKey_keeps s _ stuck h).then h (sendTo_shape ..)

@[simp] theorem msgAct_shape (s : State) (m : MsgArgs) : shapeOf (msgAct s m) = shapeOf s := by
  unfold msgAct
  simp only []
  (repeat' split) <;> simp

@[simp] theorem msgAuthentic_shape (s : State) (m : MsgArgs) : shapeOf (msgAuthentic s m) = shapeOf s := by
  unfold msgAuthentic
  simp

theorem datagram_keeps (s : State) (m : MsgArgs) (stuck : List (BitVec 12)) (h : Inv s) : Keeps s (datagram s m stuck) := by
  have k : Keeps s (advance s m.dt) := .of_shape h (advance_shape ..)
  unfold datagram
  simp only []
  split
  · exact k
  · split
    · exact k.then h (withMgmt_shape _ _ fun _ => rfl)
    · split
      · exact k.then h (msgDrop_shape _)
      · split
        · split
          · exact k.trans (keyUnauth_keeps _ m stuck (k.inv h))
          · exact k.then h (authFail_shape _)
        · split
          · exact k.then h (authFail_shape _)
          · split
            · exact k.then h (msgAuthentic_shape ..)
            · exact k.then h (authFail_shape _)

theorem execReadReq_keeps (m : MsgArgs) (s t : State) (h : Inv s) (e : execReadReq m s = .next t) : Keeps s t := by
  injection e with e; exact e ▸ datagram_keeps s m [] h

theorem execWriteReq_keeps (m : MsgArgs) (s t : State) (h : Inv s) (e : execWriteReq m s = .next t) : Keeps s t := by
  injection e with e; exact e ▸ datagram_keeps s m [] h

theorem execEventAck_keeps (m : MsgArgs) (s t : State) (h : Inv s) (e : execEventAck m s = .next t) : Keeps s t := by
  injection e with e; exact e ▸ datagram_keeps s m [] h

theorem execKeySet_keeps (m : MsgArgs) (stuck : List (BitVec 12)) (s t : State) (h : Inv s)
    (e : execKeySet m stuck s = .next t) : Keeps s t := by
  injection e with e; exact e ▸ datagram_keeps s m stuck h

/-- An outcome that keeps the shape keeps what Keeps says. -/
theorem KeepsShape.keeps {s t : State} {o : Out} (k : KeepsShape s o) (h : Inv s) (e : o = .next t) : Keeps s t :=
  .of_shape h (k t e)

end Sys2Proof.Machine
end

