-- ==== Sys2Proof/Laws/ShapeScalarSlot.lean ====
section
/-! SUPPORT. The operations of Machine/ScalarSlot.lean keep the shape of the state. -/

namespace Sys2Proof.Machine

set_option linter.unusedSimpArgs false
set_option simprocs false

theorem execAdd_shape (p : Nat) (a : ScalarArgs) (s : State) : KeepsShape s (execAdd p a s) := by
  unfold execAdd
  simp only [↓slotExec_shape]

theorem execSub_shape (p : Nat) (a : ScalarArgs) (s : State) : KeepsShape s (execSub p a s) := by
  unfold execSub
  simp only [↓slotExec_shape]

theorem execAnd_shape (p : Nat) (a : ScalarArgs) (s : State) : KeepsShape s (execAnd p a s) := by
  unfold execAnd
  simp only [↓slotExec_shape]

theorem execOr_shape (p : Nat) (a : ScalarArgs) (s : State) : KeepsShape s (execOr p a s) := by
  unfold execOr
  simp only [↓slotExec_shape]

theorem execXor_shape (p : Nat) (a : ScalarArgs) (s : State) : KeepsShape s (execXor p a s) := by
  unfold execXor
  simp only [↓slotExec_shape]

theorem execShl_shape (p : Nat) (a : ScalarArgs) (s : State) : KeepsShape s (execShl p a s) := by
  unfold execShl
  simp only [↓slotExec_shape]

theorem execShr_shape (p : Nat) (a : ScalarArgs) (s : State) : KeepsShape s (execShr p a s) := by
  unfold execShr
  simp only [↓slotExec_shape]

theorem execSar_shape (p : Nat) (a : ScalarArgs) (s : State) : KeepsShape s (execSar p a s) := by
  unfold execSar
  simp only [↓slotExec_shape]

theorem execMul_shape (p : Nat) (a : ScalarArgs) (s : State) : KeepsShape s (execMul p a s) := by
  unfold execMul
  simp only [↓slotExec_shape]

theorem execAddi_shape (p : Nat) (a : ScalarArgs) (s : State) : KeepsShape s (execAddi p a s) := by
  unfold execAddi
  simp only [↓slotExec_shape]

theorem execLi_shape (p : Nat) (a : ScalarArgs) (s : State) : KeepsShape s (execLi p a s) := by
  unfold execLi
  simp only [↓slotExec_shape]

theorem execLih_shape (p : Nat) (a : ScalarArgs) (s : State) : KeepsShape s (execLih p a s) := by
  unfold execLih
  simp only [↓slotExec_shape]

theorem execCeq_shape (p : Nat) (a : ScalarArgs) (s : State) : KeepsShape s (execCeq p a s) := by
  unfold execCeq
  simp only [↓slotExec_shape]

theorem execClt_shape (p : Nat) (a : ScalarArgs) (s : State) : KeepsShape s (execClt p a s) := by
  unfold execClt
  simp only [↓slotExec_shape]

theorem execCltu_shape (p : Nat) (a : ScalarArgs) (s : State) : KeepsShape s (execCltu p a s) := by
  unfold execCltu
  simp only [↓slotExec_shape]

theorem execCeqi_shape (p : Nat) (a : ScalarArgs) (s : State) : KeepsShape s (execCeqi p a s) := by
  unfold execCeqi
  simp only [↓slotExec_shape]

theorem execClti_shape (p : Nat) (a : ScalarArgs) (s : State) : KeepsShape s (execClti p a s) := by
  unfold execClti
  simp only [↓slotExec_shape]

theorem execPand_shape (p : Nat) (a : ScalarArgs) (s : State) : KeepsShape s (execPand p a s) := by
  unfold execPand
  simp only [↓slotExec_shape]

theorem execPor_shape (p : Nat) (a : ScalarArgs) (s : State) : KeepsShape s (execPor p a s) := by
  unfold execPor
  simp only [↓slotExec_shape]

theorem execPnot_shape (p : Nat) (a : ScalarArgs) (s : State) : KeepsShape s (execPnot p a s) := by
  unfold execPnot
  simp only [↓slotExec_shape]

theorem execLd_shape (p : Nat) (a : ScalarArgs) (s : State) : KeepsShape s (execLd p a s) := by
  unfold execLd
  simp only [↓slotExec_shape]

theorem execSt_shape (p : Nat) (a : ScalarArgs) (s : State) : KeepsShape s (execSt p a s) := by
  unfold execSt
  simp only [↓slotExec_shape]

theorem execCrd_shape (p : Nat) (a : ScalarArgs) (s : State) : KeepsShape s (execCrd p a s) := by
  unfold execCrd
  simp only [↓slotExec_shape]

theorem execCwr_shape (p : Nat) (a : ScalarArgs) (s : State) : KeepsShape s (execCwr p a s) := by
  unfold execCwr
  simp only [↓slotExec_shape]

end Sys2Proof.Machine
end

