-- ==== Sys2Proof/Laws/ShapeVectorSlot.lean ====
section
/-! SUPPORT. The operations of Machine/VectorSlot.lean keep the shape of the state. -/

namespace Sys2Proof.Machine

set_option linter.unusedSimpArgs false
set_option simprocs false

theorem execVld_shape (p : Nat) (a : VecArgs) (s : State) : KeepsShape s (execVld p a s) := by
  unfold execVld
  simp only [↓slotExec_shape]

theorem execVst_shape (p : Nat) (a : VecArgs) (s : State) : KeepsShape s (execVst p a s) := by
  unfold execVst
  simp only [↓slotExec_shape]

theorem execVdrn_shape (p : Nat) (a : VecArgs) (s : State) : KeepsShape s (execVdrn p a s) := by
  unfold execVdrn
  simp only [↓slotExec_shape]

theorem execVdst_shape (p : Nat) (a : VecArgs) (s : State) : KeepsShape s (execVdst p a s) := by
  unfold execVdst
  simp only [↓slotExec_shape]

theorem execFadd_shape (p : Nat) (a : VecArgs) (s : State) : KeepsShape s (execFadd p a s) := by
  unfold execFadd
  simp only [↓slotExec_shape]

theorem execFsub_shape (p : Nat) (a : VecArgs) (s : State) : KeepsShape s (execFsub p a s) := by
  unfold execFsub
  simp only [↓slotExec_shape]

theorem execFmul_shape (p : Nat) (a : VecArgs) (s : State) : KeepsShape s (execFmul p a s) := by
  unfold execFmul
  simp only [↓slotExec_shape]

theorem execFma_shape (p : Nat) (a : VecArgs) (s : State) : KeepsShape s (execFma p a s) := by
  unfold execFma
  simp only [↓slotExec_shape]

theorem execFmin_shape (p : Nat) (a : VecArgs) (s : State) : KeepsShape s (execFmin p a s) := by
  unfold execFmin
  simp only [↓slotExec_shape]

theorem execFmax_shape (p : Nat) (a : VecArgs) (s : State) : KeepsShape s (execFmax p a s) := by
  unfold execFmax
  simp only [↓slotExec_shape]

theorem execFabs_shape (p : Nat) (a : VecArgs) (s : State) : KeepsShape s (execFabs p a s) := by
  unfold execFabs
  simp only [↓slotExec_shape]

theorem execFneg_shape (p : Nat) (a : VecArgs) (s : State) : KeepsShape s (execFneg p a s) := by
  unfold execFneg
  simp only [↓slotExec_shape]

theorem execFcmpeq_shape (p : Nat) (a : VecArgs) (s : State) : KeepsShape s (execFcmpeq p a s) := by
  unfold execFcmpeq
  simp only [↓slotExec_shape]

theorem execFcmplt_shape (p : Nat) (a : VecArgs) (s : State) : KeepsShape s (execFcmplt p a s) := by
  unfold execFcmplt
  simp only [↓slotExec_shape]

theorem execFcmple_shape (p : Nat) (a : VecArgs) (s : State) : KeepsShape s (execFcmple p a s) := by
  unfold execFcmple
  simp only [↓slotExec_shape]

theorem execVsel_shape (p : Nat) (a : VecArgs) (s : State) : KeepsShape s (execVsel p a s) := by
  unfold execVsel
  simp only [↓slotExec_shape]

theorem execFdiv_shape (p : Nat) (a : VecArgs) (s : State) : KeepsShape s (execFdiv p a s) := by
  unfold execFdiv
  simp only [↓slotExec_shape]

theorem execFsqrt_shape (p : Nat) (a : VecArgs) (s : State) : KeepsShape s (execFsqrt p a s) := by
  unfold execFsqrt
  simp only [↓slotExec_shape]

theorem execCvtfi_shape (p : Nat) (a : VecArgs) (s : State) : KeepsShape s (execCvtfi p a s) := by
  unfold execCvtfi
  simp only [↓slotExec_shape]

theorem execCvtif_shape (p : Nat) (a : VecArgs) (s : State) : KeepsShape s (execCvtif p a s) := by
  unfold execCvtif
  simp only [↓slotExec_shape]

theorem execIadd_shape (p : Nat) (a : VecArgs) (s : State) : KeepsShape s (execIadd p a s) := by
  unfold execIadd
  simp only [↓slotExec_shape]

theorem execIsub_shape (p : Nat) (a : VecArgs) (s : State) : KeepsShape s (execIsub p a s) := by
  unfold execIsub
  simp only [↓slotExec_shape]

theorem execVecAnd_shape (p : Nat) (a : VecArgs) (s : State) : KeepsShape s (execVecAnd p a s) := by
  unfold execVecAnd
  simp only [↓slotExec_shape]

theorem execVecOr_shape (p : Nat) (a : VecArgs) (s : State) : KeepsShape s (execVecOr p a s) := by
  unfold execVecOr
  simp only [↓slotExec_shape]

theorem execVecXor_shape (p : Nat) (a : VecArgs) (s : State) : KeepsShape s (execVecXor p a s) := by
  unfold execVecXor
  simp only [↓slotExec_shape]

theorem execShli_shape (p : Nat) (a : VecArgs) (s : State) : KeepsShape s (execShli p a s) := by
  unfold execShli
  simp only [↓slotExec_shape]

theorem execShri_shape (p : Nat) (a : VecArgs) (s : State) : KeepsShape s (execShri p a s) := by
  unfold execShri
  simp only [↓slotExec_shape]

theorem execSari_shape (p : Nat) (a : VecArgs) (s : State) : KeepsShape s (execSari p a s) := by
  unfold execSari
  simp only [↓slotExec_shape]

theorem execVbcst_shape (p : Nat) (a : VecArgs) (s : State) : KeepsShape s (execVbcst p a s) := by
  unfold execVbcst
  simp only [↓slotExec_shape]

theorem execVidx_shape (p : Nat) (a : VecArgs) (s : State) : KeepsShape s (execVidx p a s) := by
  unfold execVidx
  simp only [↓slotExec_shape]

theorem execVrot_shape (p : Nat) (a : VecArgs) (s : State) : KeepsShape s (execVrot p a s) := by
  unfold execVrot
  simp only [↓slotExec_shape]

theorem execVsplat_shape (p : Nat) (a : VecArgs) (s : State) : KeepsShape s (execVsplat p a s) := by
  unfold execVsplat
  simp only [↓slotExec_shape]

theorem execExp2_shape (p : Nat) (a : VecArgs) (s : State) : KeepsShape s (execExp2 p a s) := by
  unfold execExp2
  simp only [↓slotExec_shape]

theorem execLog2_shape (p : Nat) (a : VecArgs) (s : State) : KeepsShape s (execLog2 p a s) := by
  unfold execLog2
  simp only [↓slotExec_shape]

theorem execRcp_shape (p : Nat) (a : VecArgs) (s : State) : KeepsShape s (execRcp p a s) := by
  unfold execRcp
  simp only [↓slotExec_shape]

theorem execRsqrt_shape (p : Nat) (a : VecArgs) (s : State) : KeepsShape s (execRsqrt p a s) := by
  unfold execRsqrt
  simp only [↓slotExec_shape]

theorem execTanh_shape (p : Nat) (a : VecArgs) (s : State) : KeepsShape s (execTanh p a s) := by
  unfold execTanh
  simp only [↓slotExec_shape]

theorem execErf_shape (p : Nat) (a : VecArgs) (s : State) : KeepsShape s (execErf p a s) := by
  unfold execErf
  simp only [↓slotExec_shape]

theorem execGumbel_shape (p : Nat) (a : VecArgs) (s : State) : KeepsShape s (execGumbel p a s) := by
  unfold execGumbel
  simp only [↓slotExec_shape]

theorem execNorminv_shape (p : Nat) (a : VecArgs) (s : State) : KeepsShape s (execNorminv p a s) := by
  unfold execNorminv
  simp only [↓slotExec_shape]

theorem execVrand_shape (p : Nat) (a : VecArgs) (s : State) : KeepsShape s (execVrand p a s) := by
  unfold execVrand
  simp only [↓slotExec_shape]

theorem execRsum_shape (p : Nat) (a : VecArgs) (s : State) : KeepsShape s (execRsum p a s) := by
  unfold execRsum
  simp only [↓slotExec_shape]

theorem execRsumsq_shape (p : Nat) (a : VecArgs) (s : State) : KeepsShape s (execRsumsq p a s) := by
  unfold execRsumsq
  simp only [↓slotExec_shape]

theorem execRmax_shape (p : Nat) (a : VecArgs) (s : State) : KeepsShape s (execRmax p a s) := by
  unfold execRmax
  simp only [↓slotExec_shape]

theorem execRargmax_shape (p : Nat) (a : VecArgs) (s : State) : KeepsShape s (execRargmax p a s) := by
  unfold execRargmax
  simp only [↓slotExec_shape]

end Sys2Proof.Machine
end

