-- ==== Sys2Proof/Laws/Slots.lean ====
section
/-! SUPPORT. The issue cycle of a quiet cluster for each kind of slot: what it changes, everything else as it was. -/

namespace Sys2Proof.Machine

/-- A bundle with nothing but a control and a scalar operation. -/
structure ScalarOnly (b : Bundle) : Prop where
  arr : b.arrOp = .nop
  acc : b.accOp = .none
  fd : b.fdOp = .nop
  st : b.stOp = .nop
  vec : b.vOp = .nop
  dm : b.dmOp = .nop
  waits : b.waits = []

/-- The store path that does nothing. -/
def noStore : StoreOut :=
  { stores := [], cnt := {}, committed := false, srRows := 0, placed := none, ended := [], host := [], remote := [],
    overrun := 0, invalid := 0, refused := 0, evs := [] }

/-- Two accounts of one issued bundle that agree on the partition's clusters and sequencer. -/
theorem ranBundle_congr {s : State} {p : Nat} {f f' : Nat → Cluster → Cluster} {g g' : SeqState → SeqState}
    (hf : ∀ i c, (part s p).clusters[i]? = some c → f i c = f' i c) (hg : g (part s p).seq = g' (part s p).seq) :
    ranBundle s p f g = ranBundle s p f' g' := by
  have e : (part s p).clusters.mapIdx f = (part s p).clusters.mapIdx f' := by
    apply List.ext_getElem?
    intro i
    simp only [List.getElem?_mapIdx]
    cases hc : (part s p).clusters[i]? with
    | none => rfl
    | some c => simp only [Option.map_some, hf i c hc]
  have e2 : withPart s p (fun q =>
      { q with
        clusters := (part s p).clusters.mapIdx f', seq := g q.seq,
        se := { q.se with sjPeak := BitVec.ofNat 32 (((part s p).clusters.mapIdx f').foldl
          (fun n c => max n c.journal.lines.length) q.se.sjPeak.toNat) } }) =
    withPart s p (fun q =>
      { q with
        clusters := (part s p).clusters.mapIdx f', seq := g' q.seq,
        se := { q.se with sjPeak := BitVec.ofNat 32 (((part s p).clusters.mapIdx f').foldl
          (fun n c => max n c.journal.lines.length) q.se.sjPeak.toNat) } }) := withPart_congr s p _ _ (by simp only [hg])
  unfold ranBundle
  simp only [e, e2]

theorem vecAccs_nop (env : Env) (c : ClusterCore) (q : Quiet c) (h : env.b.vOp = .nop) : vecAccs env c = [] := by
  simp [vecAccs, h, q.flight]

theorem scAccs_none (env : Env) (c : ClusterCore) (h1 : env.b.scOp ≠ .ld) (h2 : env.b.scOp ≠ .st) : scAccs env c = [] := by
  unfold scAccs
  split
  · rfl
  · split <;> simp_all

/-- The scalar slot of a quiet cluster but for LD and ST. -/
theorem clusterCycle_scalar (env : Env) (cl : Cluster) (q : Quiet cl.core) (hb : ScalarOnly env.b)
    (h1 : env.b.scOp ≠ .ld) (h2 : env.b.scOp ≠ .st) (h3 : env.b.scOp ≠ .reserved) :
    clusterCycle env cl =
      quietOut
        { cl with
          core := { regsWritten (cwrNow env cl.core) cl.core with
                    scalar := { (regsWritten (cwrNow env cl.core) cl.core).scalar with
                      g := gNext env cl.core, p := pNext env cl.core,
                      status := w1cReg (cwrNow env cl.core) 0x000 0x3FE cl.core.scalar.status (bitsOf sqBit env.seqEvs) },
                    array := { (regsWritten (cwrNow env cl.core) cl.core).array with
                               gangPerr := if crdNow env cl.core = some 0x107 then 0 else cl.core.array.gangPerr } },
          trap := if env.debug then trapNote env.rel env.step env.seqEvs cl.trap else cl.trap } env.seqEvs := by
  have hsc : scEvs env = [] := by simp [scEvs, h3, hb.dm]
  have hacc : cycleAccs env cl.core [] = [] := by
    simp [cycleAccs, feedAccs_quiet env _ q hb.fd, vecAccs_nop env _ q hb.vec, scAccs_none env _ h1 h2]
  have hdec : storesDecided env cl.core cl.sram (heldRanges cl.core.dma.bufs) (feedAccs env cl.core) = [] :=
    storesDecided_quiet env _ _ _ _ q
  unfold clusterCycle
  simp only [hdec, hacc, accSort, serveAll, List.filter_nil, List.map_nil]
  simp only [feedCycle_quiet env cl.core [] _ _ q hb.fd rfl rfl, entryCycle_quiet env cl.core _ q hb.arr,
    arrayCycle_quiet env cl.core _ _ q hb.arr (by rw [hb.acc]; simp), accumCycle_quiet env cl.core _ q hb.acc,
    storeCycle_quiet env cl.core [] hb.st, convCycle_quiet cl.core _ q, vecCycle_quiet env cl.core _ _ _ q hb.vec, List.foldl_nil, List.append_nil]
  have hop := opalCycle_quiet env cl.core noStore (cwrNow env cl.core) q (by rw [hb.vec]; simp) rfl rfl
  unfold noStore at hop
  simp only [hbmqEnd_nil, Option.toList_none, List.map_nil, List.append_nil, List.flatten_nil, hsc,
    dmaCycle_quiet env _ cl.sram cl.journal _ hb.dm hb.waits, hop]
  simp only [spotCycle_quiet env cl.core cl.spot _ q (show ({ (regsWritten (cwrNow env cl.core) cl.core).array with
    gangPerr := if crdNow env cl.core = some 263 then 0 else cl.core.array.gangPerr } : ArrayUnit).flights = [] from q.flights)]
  simp [quietOut, scalarCycle, h1, q.ld, regsWritten]

/-- A bundle with nothing but an empty control slot and a scalar operation on a calm partition. -/
theorem slot_scalar {s : State} {p : Nat} {b : Bundle} (h : Calm s p) (hb : ScalarOnly b) (hbrk : b.brk = false)
    (hctl : b.ctl = .nop) (h1 : b.scOp ≠ .ld) (h2 : b.scOp ≠ .st) (h3 : b.scOp ≠ .reserved) (f : Nat → Cluster → Cluster)
    (hf : ∀ i c, (part s p).clusters[i]? = some c → Quiet c.core →
      f i c = { c with
        core :=
          let e := envAt s p b [] i
          { regsWritten (cwrNow e c.core) c.core with
            scalar := { (regsWritten (cwrNow e c.core) c.core).scalar with g := gNext e c.core, p := pNext e c.core },
            array := { (regsWritten (cwrNow e c.core) c.core).array with
                       gangPerr := if crdNow e c.core = some 0x107 then 0 else c.core.array.gangPerr } } }) :
    slotTick p b s = ranBundle s p f plainSeq := by
  have hplain : (fun x => bumpCycle (seqAfter ((part s p).clusters.mapIdx f) x.next .nop x)) (part s p).seq =
      plainSeq (part s p).seq := by
    exact plainSeq_eq _ _
  have hmem : ∀ {i c}, (part s p).clusters[i]? = some c → c ∈ (part s p).clusters := fun hc => List.mem_of_getElem? hc
  rw [slotTick_calm h (absentItems_none _ hb.waits) (poisonedWait_none _ hb.waits) hbrk hb.dm .nop [] (by simp [ctlNow, hctl])
    (by simp) f (fun _ _ => []) ?_ ?_]
  · exact ranBundle_congr (fun _ _ _ => rfl) hplain
  · intro i c hc
    have hq := h.quiet c (hmem hc)
    rw [clusterCycle_scalar (envAt s p b [] i) c hq (by exact hb) h1 h2 h3, hf i c hc hq]
    simp [envAt, envOf, trapNote, firstEv, w1cReg, regsWritten, bitsOf_nil]
  · intro i c hc
    have hq := h.quiet c (hmem hc)
    rw [hf i c hc hq]
    exact ⟨by simp [regsWritten, dmaRegs, hq.hbmq], h.room c (hmem hc), fun hd => h.traps hd c (hmem hc)⟩

/-- The same without a control-register operation. -/
theorem slot_scalar_plain {s : State} {p : Nat} {b : Bundle} (h : Calm s p) (hb : ScalarOnly b) (hbrk : b.brk = false)
    (hctl : b.ctl = .nop) (h1 : b.scOp ≠ .ld) (h2 : b.scOp ≠ .st) (h3 : b.scOp ≠ .reserved) (h4 : b.scOp ≠ .cwr)
    (h5 : b.scOp ≠ .crd) (f : Nat → Cluster → Cluster)
    (hf : ∀ i c, (part s p).clusters[i]? = some c → Quiet c.core →
      f i c = inScalar (fun u => { u with g := gNext (envAt s p b [] i) c.core, p := pNext (envAt s p b [] i) c.core }) c) :
    slotTick p b s = ranBundle s p f plainSeq := by
  refine slot_scalar h hb hbrk hctl h1 h2 h3 f ?_
  intro i c hc hq
  have e1 : cwrNow (envAt s p b [] i) c.core = none := by
    unfold cwrNow; rw [if_neg]; simp [envAt, envOf, h4]
  have e2 : crdNow (envAt s p b [] i) c.core = none := by
    unfold crdNow; rw [if_neg]; simp [envAt, envOf, h5]
  rw [hf i c hc hq]
  simp only [e1, e2, regsWritten_none c.core hq.dm]
  rfl

/-- A bundle with an empty control slot on a calm partition, from what its issue cycle does to each cluster. -/
theorem slot_plain {s : State} {p : Nat} {b : Bundle} (h : Calm s p) (hw : b.waits = []) (hb : b.brk = false)
    (hd : b.dmOp = .nop) (hctl : b.ctl = .nop) (f : Nat → Cluster → Cluster) (evs : Nat → Cluster → List Ev)
    (hf : ∀ i c, (part s p).clusters[i]? = some c → Quiet c.core → clusterCycle (envAt s p b [] i) c = quietOut (f i c) (evs i c))
    (hq : ∀ i c, (part s p).clusters[i]? = some c → Quiet c.core → (∀ o ∈ (f i c).core.dma.hbmq, storePlace o = true) ∧
      (f i c).journal.full = c.journal.full ∧ ((part s p).job.debug = true → (f i c).trap = c.trap)) :
    slotTick p b s = ranBundle s p f plainSeq := by
  rw [slotTick_calm h (absentItems_none _ hw) (poisonedWait_none _ hw) hb hd .nop [] (by simp [ctlNow, hctl]) (by simp) f evs]
  · exact ranBundle_congr (fun _ _ _ => rfl) (plainSeq_eq _ _)
  · intro i c hc
    exact hf i c hc (h.quiet c (List.mem_of_getElem? hc))
  · intro i c hc
    have hm := List.mem_of_getElem? hc
    have := hq i c hc (h.quiet c hm)
    exact ⟨this.1, by rw [this.2.1]; exact h.room c hm, fun hd => by rw [this.2.2 hd]; exact h.traps hd c hm⟩

/-- The accumulator operations of a quiet cluster. -/
theorem clusterCycle_accum (env : Env) (cl : Cluster) (q : Quiet cl.core) (h1 : env.b.arrOp = .nop) (h2 : env.b.accOp ≠ .reserved)
    (h3 : env.b.fdOp = .nop) (h4 : env.b.stOp = .nop) (h5 : env.b.vOp = .nop) (h6 : env.b.dmOp = .nop) (h7 : env.b.waits = [])
    (h8 : env.b.scOp = .nop) (h9 : env.seqEvs = []) :
    clusterCycle env cl =
      quietOut (inAccum (fun _ => (accumCycle env cl.core none).1) cl) [] := by
  have hw : cwrNow env cl.core = none := by simp [cwrNow, h8]
  have hc : crdNow env cl.core = none := by simp [crdNow, h8]
  have hsc : scEvs env = [] := by simp [scEvs, h8, h6]
  have hs1 : env.b.scOp ≠ .ld := by rw [h8]; simp
  have hs2 : env.b.scOp ≠ .st := by rw [h8]; simp
  have hacc : cycleAccs env cl.core [] = [] := by
    simp [cycleAccs, feedAccs_quiet env _ q h3, vecAccs_nop env _ q h5, scAccs_none env _ hs1 hs2]
  have hdec : storesDecided env cl.core cl.sram (heldRanges cl.core.dma.bufs) (feedAccs env cl.core) = [] :=
    storesDecided_quiet env _ _ _ _ q
  have hac2 : (accumCycle env cl.core none).2 = [] := by
    simp [accumCycle, retireStraddles, q.passes, q.drain]
  have hg : gNext env cl.core = cl.core.scalar.g := by
    simp [gNext, q.ld, scResult, h8]
  have hp : pNext env cl.core = cl.core.scalar.p := by simp [pNext, scPredResult, h8]
  have hr := regsWritten_none cl.core q.dm
  have hop := opalCycle_quiet env cl.core noStore none q (by rw [h5]; simp) rfl rfl
  unfold noStore at hop
  unfold clusterCycle
  simp only [hw, hc, hdec, hacc, accSort, serveAll, List.filter_nil, List.map_nil]
  simp only [feedCycle_quiet env cl.core [] _ _ q h3 rfl rfl, entryCycle_quiet env cl.core _ q h1,
    arrayCycle_quiet env cl.core _ _ q h1 h2, storeCycle_quiet env cl.core [] h4, convCycle_quiet cl.core _ q,
    vecCycle_quiet env cl.core _ _ _ q h5, List.foldl_nil, List.append_nil]
  simp only [hbmqEnd_nil, Option.toList_none, List.map_nil, List.append_nil, List.flatten_nil, hsc,
    dmaCycle_quiet env _ cl.sram cl.journal _ h6 h7, hop, hac2, h9, hr]
  simp only [spotCycle_quiet env cl.core cl.spot _ q (show ({ cl.core.array with
    gangPerr := if none = some 263 then 0 else cl.core.array.gangPerr } : ArrayUnit).flights = [] from q.flights)]
  simp [quietOut, scalarCycle, inAccum, inCore, hg, hp, h8, trapNote, firstEv, q.ld]
  rw [← q.ld]

/-- The array operations of a quiet cluster. -/
theorem clusterCycle_array (env : Env) (cl : Cluster) (q : Quiet cl.core) (h2 : env.b.accOp = .none)
    (h3 : env.b.fdOp = .nop) (h4 : env.b.stOp = .nop) (h5 : env.b.vOp = .nop) (h6 : env.b.dmOp = .nop) (h7 : env.b.waits = [])
    (h8 : env.b.scOp = .nop) (h9 : env.seqEvs = []) (h10 : env.spot = false) (h11 : env.debug = false) :
    clusterCycle env cl =
      let fd : FeedOut := { streams := [], stats := [], vec := none, stat := none, strm := {}, stary := {}, inherited := 0, invalid := 0, evs := [] }
      let ar := arrayCycle env cl.core fd none none
      quietOut
        { inArray (fun _ => ar.1)
            (inConv (fun x => { x with status := x.status ||| bitsOf cvBit ar.2 }) (setSq (bitsOf sqBit ar.2) cl)) with
          spot := (spotCycle env cl.core cl.spot (entryCycle env cl.core none) ar.1).1 } ar.2 := by
  have hw : cwrNow env cl.core = none := by simp [cwrNow, h8]
  have hc : crdNow env cl.core = none := by simp [crdNow, h8]
  have hsc : scEvs env = [] := by simp [scEvs, h8, h6]
  have hs1 : env.b.scOp ≠ .ld := by rw [h8]; simp
  have hs2 : env.b.scOp ≠ .st := by rw [h8]; simp
  have hacc : cycleAccs env cl.core [] = [] := by
    simp [cycleAccs, feedAccs_quiet env _ q h3, vecAccs_nop env _ q h5, scAccs_none env _ hs1 hs2]
  have hdec : storesDecided env cl.core cl.sram (heldRanges cl.core.dma.bufs) (feedAccs env cl.core) = [] :=
    storesDecided_quiet env _ _ _ _ q
  have hg : gNext env cl.core = cl.core.scalar.g := by
    simp [gNext, q.ld, scResult, h8]
  have hp : pNext env cl.core = cl.core.scalar.p := by simp [pNext, scPredResult, h8]
  have hr := regsWritten_none cl.core q.dm
  have hop := opalCycle_quiet env cl.core noStore none q (by rw [h5]; simp) rfl rfl
  unfold noStore at hop
  have hskip : (spotCycle env cl.core cl.spot (entryCycle env cl.core none) (arrayCycle env cl.core
      { streams := [], stats := [], vec := none, stat := none, strm := {}, stary := {}, inherited := 0, invalid := 0, evs := [] } none none).1).2 = (false, false) := by
    unfold spotCycle
    simp [h10]
    split <;> simp
  have hsk := congrArg Prod.fst hskip
  have hsk2 := congrArg Prod.snd hskip
  unfold clusterCycle
  simp only [hw, hc, hdec, hacc, accSort, serveAll, List.filter_nil, List.map_nil]
  simp only [feedCycle_quiet env cl.core [] _ _ q h3 rfl rfl, accumCycle_quiet env cl.core _ q h2,
    storeCycle_quiet env cl.core [] h4,
    vecCycle_quiet env cl.core _ _ _ q h5, List.foldl_nil, List.append_nil]
  simp only [hbmqEnd_nil, Option.toList_none, List.map_nil, List.append_nil, List.flatten_nil, hsc,
    dmaCycle_quiet env _ cl.sram cl.journal _ h6 h7, hop, h9, hr, hsk, hsk2]
  simp [quietOut, scalarCycle, inArray, inConv, setSq, inScalar, inCore, hg, hp, h8, h11, convCycle, mapIdx_same, q.ld, q.streams,
    q.stats, q.stores]

end Sys2Proof.Machine
end

