-- ==== Sys2Proof/Laws/Step.lean ====
section
/-! SUPPORT. One step, seen from its queue. -/

namespace Sys2Proof.Machine

/-- With a command at the front, a step is that command with the rest of the queue. -/
theorem step_cons (s : State) (c : Instr) (rest : List Instr) :
    step { s with pending := c :: rest } = exec c { s with pending := rest } := rfl

/-- The same for a state whose queue is known. -/
theorem step_of_pending {s : State} {c : Instr} {rest : List Instr} (h : s.pending = c :: rest) :
    step s = exec c { s with pending := rest } := by
  unfold step; rw [h]

/-- With no command, a step is one tick. -/
theorem step_nil {s : State} (h : s.pending = []) : step s = .next (idle s) := by
  unfold step; rw [h]

/-- A tick keeps the shape. -/
@[simp] theorem idle_shape (s : State) : shapeOf (idle s) = shapeOf s := by
  unfold idle; rw [pumpAll_shape, tickAll_shape]

/-- The invariant does not look at the queue. -/
theorem inv_pending (s : State) (q : List Instr) : Inv { s with pending := q } ↔ Inv s := Iff.rfl

end Sys2Proof.Machine
end

