-- ==== Sys2Proof/Tests/Slice0.lean ====
section
/-! SUPPORT. Tests: an ill-formed command for each check of WellFormed; for each statement of Obligations.lean states and operands
that meet the hypotheses of its clauses (test_w_…: w for witness); worked examples of the spec (test_ex_…). -/

open Sys2Proof Sys2Proof.Machine

namespace Sys2Proof.Tests

set_option maxRecDepth 100000
set_option Elab.async false

/-- A module that is READY with a plan of one partition. -/
def okBoot : Boot := { bootReset with st := .ready, byFw := true, copy := fuseReset, planOn := true }

/-- A partition that runs, with one cluster. -/
def runPart : Partition :=
  { partReset with
    st := .running, clusters := [clusterReset], seq := { seqReset with begun := true }, se := { seRegsReset with hjBytesEff := 128, ctrlEff := 0 },
    rep := { repRegsReset with ctrlEff := 0 },
    mem := { memRegsReset with u := 8, live := List.range 8 }, job := { jobNone with ranks := 1 } }

/-- The module with a changed partition 0. -/
def on (f : Partition → Partition) : State :=
  { State.reset with
    boot := okBoot, gov := { governorReset with target := 48 }, parts := f runPart :: List.replicate 11 partReset,
    host := { hostReset with up := true } }

/-- The module with its partition 0 as it is. -/
def run0 : State := on id

/-- The module with a changed sequencer. -/
def onSeq (f : SeqState → SeqState) : State := on (withSeq f)

/-- The module with a changed cluster. -/
def onCl (f : Cluster → Cluster) : State := on (fun q => { q with clusters := q.clusters.map f })

/-! Witnesses of the slot statements. -/

def sc0 : ScalarArgs := { pred := 0, dst := 1, srcA := 2, srcB := 3, imm := 0 }
def ar0 : ArrayArgs := { pred := 0, mode := 0, statHi := false, transpose := false, swap := false, first := true, acc := 0, len := 127 }
def dm0 : DmaArgs := { pred := 0, desc := 0, buf := 63, aoff := 0, soff := 0, len := 64 }
def vc0 : VecArgs := { pred := 0, vd := 15, va := 1, vb := 2, vc := 3, vaddr := 0, vimm := 0, vext := 0 }

theorem quiet_reset : Quiet clusterReset.core := by constructor <;> decide

/-- A state whose partition 0 may be calm: its sequencer, debug mode and cluster are given; outside debug mode the job is
of class RELAXED. -/
def calmAt (x : SeqState) (d : Bool) (c : Cluster) : State :=
  on (fun q => { q with seq := x, job := { q.job with debug := d, relaxed := !d }, clusters := [c] })

/-- It is calm where the sequencer is ready to issue and the cluster is quiet. -/
theorem calm_at (x : SeqState) (d : Bool) (c : Cluster) (hs : x.stream = []) (ho : x.owed = []) (hb : x.begun = true)
    (hf : x.frozen = false) (ha : x.freezeAt = none) (hh : x.holds.getLsbD 13 = false) (hq : Quiet c.core)
    (hj : c.journal.full = false) (ht : c.trap.valid = false) : Calm (calmAt x d c) 0 where
  lt := Nat.succ_pos _
  twelve := by decide
  run := rfl
  clk := show (48 : Nat) ≠ 0 by decide
  stream := hs
  owed := ho
  begun := hb
  frozen := hf
  freezeAt := ha
  asked := rfl
  replaying := rfl
  waiting := rfl
  power := rfl
  hold13 := hh
  replayable := rfl
  hj := show (128 : Word64) ≠ 0 by decide
  quiet := fun e he => by
    have h : e = c := List.mem_singleton.mp he
    exact h ▸ hq
  room := fun e he => by
    have h : e = c := List.mem_singleton.mp he
    exact h ▸ hj
  traps := fun _ e he => by
    have h : e = c := List.mem_singleton.mp he
    exact h ▸ ht

/-- A sequencer in a begun step. -/
def seq0 : SeqState := { seqReset with begun := true }

/-- A calm state. -/
def calm0 : State := calmAt seq0 false clusterReset

theorem test_w_calm : Calm calm0 0 := calm_at _ _ _ rfl rfl rfl rfl rfl rfl quiet_reset rfl rfl

/-- LoadsStoresAndRegisters: no buffer is held, and the journal has a place left. -/
theorem test_w_load_store : (∀ c ∈ (part calm0 0).clusters, predOn c.core sc0.pred = true ∧
    unheld c (ldAddr sc0 c.core.scalar) 8 = true ∧ c.journal.lines.length < 1024) := by decide

/-- JumpAndLoop: LOOP at address 0 with no iteration, with one and the smallest body, with a body that ends before it, and with a full
stack. -/
def loops4 : SeqState := { seq0 with loops := List.replicate 4 { start := 5, last := 8190, left := 1 } }
theorem test_w_jump_loop : Calm (calmAt loops4 false clusterReset) 0 ∧ seq0.votes = [] ∧ loops4.votes = [] ∧
    seq0.next + 1 ≤ (1 : BitVec 13).toNat ∧ (1 : BitVec 20) ≠ 0 ∧ seq0.loops.length < 4 ∧ (0 : BitVec 13).toNat < seq0.next + 1 ∧
    4 ≤ loops4.loops.length :=
  ⟨calm_at _ _ _ rfl rfl rfl rfl rfl rfl quiet_reset rfl rfl, by decide⟩

/-- Votes: none open; one taken and due now; one open in its delay bundles; a loop that ends at the vote. -/
def voteDue : SeqState := { seq0 with ic := 9, votes := [{ u := 7, pc := 3, target := 100, taken := true }] }
def voteOpen : SeqState := { seq0 with ic := 8, votes := [{ u := 7, pc := 3, target := 100, taken := false }] }
def loopHere : SeqState := { seq0 with loops := [{ start := 0, last := 1, left := 2 }] }
theorem test_w_votes : Calm (calmAt voteDue false clusterReset) 0 ∧ Calm (calmAt voteOpen false clusterReset) 0 ∧
    Calm (calmAt loopHere false clusterReset) 0 ∧ (∀ e ∈ seq0.loops, e.last ≠ seq0.next ∧ e.last ≠ seq0.next + 1) ∧
    (∃ e ∈ loopHere.loops, e.last = loopHere.next ∨ e.last = loopHere.next + 1) ∧ voteOpen.ic ≤ 7 + 2 :=
  ⟨calm_at _ _ _ rfl rfl rfl rfl rfl rfl quiet_reset rfl rfl, calm_at _ _ _ rfl rfl rfl rfl rfl rfl quiet_reset rfl rfl,
    calm_at _ _ _ rfl rfl rfl rfl rfl rfl quiet_reset rfl rfl, by decide⟩

/-- WaitsAndBreaks: a buffer that is present for three cycles and one that is free; debug mode with `brk` not passed. -/
def withBuf (b : Buffer) : Cluster :=
  { clusterReset with core := { clusterReset.core with dma := { clusterReset.core.dma with bufs := b :: List.replicate 63 bufferFree } } }
theorem test_w_waits : Calm (calmAt { seq0 with ic := 9, cclk := 9 } false (withBuf { bufferFree with kind := .read, claim := 6, present := true, presentAt := 6 })) 0 ∧
    Calm (calmAt seq0 true clusterReset) 0 ∧ seq0.brkPassed = false ∧
    (∀ n ∈ [(0 : BitVec 6), 63], let b := (withBuf { bufferFree with kind := .read, claim := 6, present := true, presentAt := 6 }).core.dma.bufs.getD n.toNat bufferFree
      b.poisoned = false ∧ (b.kind ≠ .free → b.claim + 3 ≤ 9 ∧ b.present = true ∧ b.presentAt + 3 ≤ 9)) :=
  ⟨calm_at _ _ _ rfl rfl rfl rfl rfl rfl (by constructor <;> decide) rfl rfl, calm_at _ _ _ rfl rfl rfl rfl rfl rfl quiet_reset rfl rfl,
    by decide⟩

/-- ArrayOperations, FeedsAndStores: a cluster in no gang, without a sample, with descriptors that name no record. -/
theorem test_w_array : (part calm0 0).se.ctrlEff.getLsbD 0 = false ∧ semiOfCode ar0.mode.toNat = some .mac ∧
    (∀ c ∈ (part calm0 0).clusters, gangShape c.core.array = 0 ∧ c.spot.capture = none ∧
      (fdescOf (c.core.conv.fdesc.getD 15 0)).recEn = false) := by decide

/-- VectorMoves: a VLD address outside held ranges; a seed form of VRAND that is reserved, and one that is not. -/
theorem test_w_vector : (∀ c ∈ (part calm0 0).clusters, unheld c (vAddr vc0 c) 512 = true) ∧
    4 ≤ (0x400000000 : BitVec 48).toNat / 2 ^ 32 % 16 ∧ (0x300000000 : BitVec 48).toNat / 2 ^ 32 % 16 < 4 := by decide

/-- DmaOperations: STRICT traps none in a job of class RELAXED. -/
theorem test_w_dma : strictTrap calm0 0 { emptyBundle with dmOp := .seed, dm := dm0 } = none ∧
    strictTrap calm0 0 { emptyBundle with dmOp := .atomic true, dm := dm0 } = none ∧ (part calm0 0).job.debug = false := by decide

/-- StepBoundary: a bare boundary. -/
theorem test_w_bare : Bare calm0 0 ∧ (part calm0 0).seq.votes = [] := by
  refine ⟨?_, rfl⟩
  constructor <;> decide

/-- DueResults: an LD and a vector result due in cycle 5, with a scalar operation to the same register, to another, and none. -/
theorem test_w_due :
    (let e := envAt calm0 0 { emptyBundle with scOp := .li, sc := sc0 } [] 0
     scOn e clusterReset.core = true ∧ (scResult e clusterReset.core).isSome = true ∧ e.u = 0) ∧
    scOn (envAt calm0 0 { emptyBundle with scOp := .li, sc := { sc0 with pred := 1 } } [] 0) clusterReset.core = false ∧
    clusterReset.core.scalar.g.length = 32 ∧ clusterReset.core.vec.v.length = 16 ∧ emptyBundle.vOp = .nop := by decide

/-! Witnesses of the statements on supplies, governors and start-up. -/

/-- State.reset with changed supplies. -/
def sup (f : Supplies → Supplies) : State := { State.reset with supplies := f suppliesReset }
/-- run0 with a changed governor. -/
def gov (f : Governor → Governor) : State := { run0 with gov := f run0.gov }
/-- run0 with a changed start-up. -/
def boot (f : Boot → Boot) : State := { run0 with boot := f okBoot }

theorem test_w_inputs : State.reset.supplies.aon = true ∧ 10500 < (10501 : BitVec 16).toNat ∧ (9999 : BitVec 16).toNat < 10000 ∧
    13200 < (13201 : BitVec 16).toNat ∧ State.reset.supplies.mainOn = true ∧ 62000 < (62001 : BitVec 16).toNat ∧
    State.reset.supplies.over_ = false ∧ (37999 : BitVec 16).toNat < 38000 ∧ State.reset.supplies.main = true ∧
    (∀ p, p < 12 → (part State.reset p).st = .absent) ∧ State.reset.parts.length = 12 ∧
    (let s := sup (fun u => { u with mainOn := false, enable := true }); s.supplies.aon = true ∧ s.supplies.mainOn = false ∧
      40000 < (40001 : BitVec 16).toNat ∧ s.supplies.enable = true ∧ s.gov.trip = false ∧ s.supplies.overrun = false ∧ mayEnable s = true) := by
  decide

theorem test_w_supply_hold : (10 : BitVec 16).toNat < State.reset.supplies.warnMv ∧ State.reset.supplies.supply = .normal ∧
    (let s := { run0 with supplies := { suppliesReset with supply := .hold } }
     s.supplies.mainOn = true ∧ s.supplies.warnMv + 1000 < (60000 : BitVec 16).toNat ∧ s.supplies.supply = .hold ∧ s.parts.length = 12 ∧
       jobActive (part s 0) = true) := by decide

/-- The readings of a permit sample above and below their levels, with u.t at the last millisecond of `discMs` and before it. -/
theorem test_w_permits : (∀ p : Permit, p ∈ [Permit.run, .stop, .disagree, .fault] → (sup (fun u => { u with permit := p })).supplies.permit = p ∧
      (sup (fun u => { u with permit := p })).supplies.aon = true) ∧
    (let u := { suppliesReset with permit := .disagree, t := suppliesReset.discMs - 1 }; u.discMs ≤ u.t + 1) ∧
    (let u := { suppliesReset with permit := .disagree, t := suppliesReset.discMs - 2 }; u.t + 1 < u.discMs) ∧
    (let u := { suppliesReset with permit := .fault, clearAsked := true }; (u.clearAsked && true && true) = true) ∧
    (suppliesReset.clearAsked && true && true) = false ∧
    barFull run0 = true ∧ run0.parts.length = 12 ∧ run0.faults.tw = none := by decide

theorem test_w_power_thermal : (gov (fun g => { g with suppressed := true })).supplies.mainOn = true ∧
    run0.gov.target ≠ 0 ∧ run0.gov.replan ≠ .paused ∧ run0.gov.suppressed = false ∧ run0.gov.target ≤ limitSteps run0.gov ∧
    (let s := gov (fun g => { g with suppressed := true, target := 49 }); 49 ≤ s.gov.target ∧ max 48 (s.gov.target - 1) ≤ limitSteps s.gov) ∧
    (let a : ThermalArgs := { junction := 110, stack := 94, inlet := 45, outlet := 0 }
     decide (110 ≤ a.junction.toNat) = true ∧ (decide (1 ≤ run0.gov.tripN)) = false ∧
       decide (1 ≤ (gov (fun g => { g with tripN := 1 })).gov.tripN) = true) := by decide

/-- A margin plan of nine points. -/
def plan9 : PlanRec := { time := 0, w := 0, wLast := 0, g := 50, reason := 0, steps := [60, 64, 68, 72, 76, 80, 84, 88, 92] }

theorem test_w_margin : (let s := gov (fun g => { g with target := 49, plan := some plan9, point := 8 })
      s.boot.st = .ready ∧ (9 : BitVec 16).toNat < 10 ∧ 49 ≤ s.gov.target ∧ s.gov.replan = .none ∧ s.gov.plan = some plan9) ∧
    (let s := gov (fun g => { g with replan := .scheduled }); s.parts.length = 12 ∧ s.gov.replan = .scheduled ∧ s.gov.replanAt ≤ s.quartz.ns) ∧
    (let s := { gov (fun g => { g with replan := .holding }) with quartz := { quartzReset with ns := 100000000 } }
     s.parts.all replanHeld = false ∧ s.gov.replanAt + 100000000 ≤ s.quartz.ns) ∧
    (gov (fun g => { g with replan := .paused })).gov.replan = .paused := by decide

/-- A flash copy of the life record. -/
def copy1 : LifeCopy := { seq := 7, life := lifeEmpty, valid := true }

theorem test_w_always_on : (let s := { State.reset with copyA := some copy1 }; s.supplies.aon = true ∧ newestCopy s.copyA s.copyB = some copy1) ∧
    (let s := { sup (fun u => { u with aon := false }) with copyA := some copy1 }
     s.supplies.aon = false ∧ newestCopy (checkCopy s.copyA false) (checkCopy s.copyB true) = some copy1 ∧
       newestCopy (checkCopy s.copyA true) (checkCopy s.copyB true) = none) ∧
    (let s := sup (fun u => { u with aux := false, main := false }); s.supplies.aon = true ∧ s.supplies.aux = false ∧ s.supplies.main = false) := by
  decide

theorem test_w_boot : State.reset.supplies.mainOn = true ∧ State.reset.boot.st = .bootRom ∧
    (boot (fun b => { b with st := .fwVerify })).boot.st = .fwVerify ∧ (boot (fun b => { b with st := .start })).boot.st = .start ∧
    (3 : BitVec 4) = 3 ∧ 5 ≤ (8 : BitVec 4).toNat ∧ (8 : BitVec 4).toNat ≤ 8 := by decide

theorem test_w_fault_ends : (∀ s ∈ [onSeq (fun x => { x with stallRun := 1 }), onSeq (fun x => { x with hostWait := 1 }),
      on (fun q => { q with haltAt := some 0 }), onSeq (fun x => { x with frozen := true })],
      0 < s.parts.length ∧ (part s 0).st = .running ∧ s.faults.tw = none) ∧
    (part (onSeq (fun x => { x with stallRun := 1 })) 0).seq.stallRun ≠ 0 ∧
    (part (onSeq (fun x => { x with hostWait := 1 })) 0).seq.hostWait ≠ 0 ∧
    (part (on (fun q => { q with haltAt := some 0 })) 0).haltAt.isSome = true ∧
    (part (onSeq (fun x => { x with frozen := true })) 0).seq.frozen = true := by decide

theorem test_w_host_resets : run0.parts.length = 12 ∧ run0.host.fns.length = 13 ∧ run0.faults.tw = none ∧ jobActive (part run0 0) = true ∧
    jobActive (part run0 11) = false ∧
    (let s := { run0 with host := { run0.host with up := false, held := [.data 64 [1, 2]] } }
     s.supplies.mainOn = true ∧ s.host.up = false ∧ s.host.held = [((64 : Nat), ([1, 2] : List Byte))].map (fun e => HostWrite.data e.1 e.2)) := by decide

/-! Witnesses of the statements on errors, memory and noise. -/

/-- run0 with its clusters at their places. -/
def grid0 (f : Grid → Grid) (g : Partition → Partition) : State := { on g with grid := f { gridReset with table := List.range 480 } }
/-- run0 with changed fault records. -/
def flt (f : Faults → Faults) : State := { grid0 id id with faults := f faultsReset }

theorem test_w_cluster_errors : (let s := grid0 (fun g => { g with disabled := BitVec.allOnes 512 >>> 1 }) id
      partOfCl s 0 = some 0 ∧ partOfCl s 479 = some 0 ∧ s.grid.table.length = 480 ∧ physOf s 479 < 512 ∧ s.faults.tw = none ∧
        s.parts.length = 12 ∧ canReplay (part s 0) = true ∧ spareFor s (physOf s 479) [] = some 511 ∧ s.faults.health = [] ∧ s.host.up = true ∧
        jobActive (part s 0) = true ∧ (6 : BitVec 8).toNat < 7) ∧
    (let s := grid0 (fun g => { g with disabled := BitVec.allOnes 512 }) id; spareFor s (physOf s 0) [] = none ∧ jobActive (part s 0) = true) ∧
    (let s := grid0 id (fun q => { q with se := { q.se with errs := [(0, 1, 77, 0)] } })
     ∃ e ∈ (part s 0).se.errs, e.1 ≠ (part s 0).seq.attempt ∧ e.2 = (1, 77, 0)) := by decide +kernel

theorem test_w_replay : (let s := on (fun q => { q with se := { q.se with asked := true } })
      s.parts.length = 12 ∧ s.faults.tw = none ∧ (part s 0).st = .running ∧ (part s 0).se.asked = true ∧ (part s 0).job.ranks ≤ 1 ∧
        (part s 0).se.takeover = false ∧ (part s 0).upd.undo = []) ∧
    (part (on (fun q => { q with se := { q.se with replaying := true } })) 0).se.replaying = true := by decide +kernel

/-- A sample that a spot-check compares. -/
def sample0 : Capture :=
  { j := 0, pass := passOver 0 0 .mac ar0 setCfgReset, set := none, items := [], received := [], formed := [] }

theorem test_w_health : (let s := grid0 (fun g => { g with disabled := BitVec.allOnes 512 >>> 1 }) (fun q => { q with clusters := q.clusters.map (fun c => { c with spot := { c.spot with capture := some sample0 } }) })
      let i := 0 - 0 * (480 / planCount s)
      i < (part s 0).clusters.length ∧ canReplay (part s 0) = true ∧ (part s 0).se.missed = [] ∧ partOfCl s 0 = some 0 ∧
        ((part s 0).clusters.getD i clusterReset).spot.capture.isSome = true ∧ (sparesNow s).isEmpty = false ∧ s.faults.health = [] ∧
        (sparesNow { s with grid := { s.grid with disabled := BitVec.allOnes 512 } }).isEmpty = true) ∧
    (part (grid0 id (fun q => { q with se := { q.se with errs := [(0, 256, 0, 0)] } })) 0).se.errs.any
      (fun e => e.1 != 1 && e.2.1 = 256 + (0 : BitVec 2).toNat && e.2.2.1 = 0 && e.2.2.2 = 0) = true := by decide +kernel

theorem test_w_test_windows : (let s := flt (fun f => { f with twCtrl := 0x80000384 })
      s.faults.twCtrl.getLsbD 31 = true ∧ s.faults.tw = none ∧ s.parts.length = 12 ∧
        twNext s = some 0 ∧ partOfCl s 0 = some 0 ∧
        spareFor { s with grid := { s.grid with disabled := BitVec.allOnes 512 >>> 1 } } (physOf s 0) [] = some 511 ∧
        spareFor { s with grid := { s.grid with disabled := BitVec.allOnes 512 } } (physOf s 0) [] = none) ∧
    (let s := flt (fun f => { f with tw := some { lcl := 5, phys := 5, stand := 481, phase := .testing } })
     partOfCl s 5 = some 0 ∧ jobActive (part s 0) = true ∧ s.parts.length = 12 ∧
       jobActive (part { s with parts := List.replicate 12 partReset } 0) = false) := by decide +kernel

theorem test_w_bridges_cores : (∀ n ∈ [1, 2],
      let s := grid0 (fun g => { g with bridges := updAt g.bridges 59 (fun b => { b with groups := updAt b.groups 0 (fun x => { x with lost := n }) }) }) id
      let gs := (s.grid.bridges.getD 59 (bridgeOf 0)).groups
      s.grid.bridges.length = 60 ∧ 0 < gs.length ∧ (gs.getD 0 { lost := 0, used := false }).used = true ∧
        (gs.getD 0 { lost := 0, used := false }).lost = n) ∧
    (∀ c ∈ [(15 : BitVec 4), 7], let s := grid0 (fun g => { g with cores := c }) id
      s.grid.cores.getLsbD (0 : BitVec 2).toNat = true ∧ s.boot.st = .ready ∧
        (3 ≤ ((List.range 4).filter (fun k => s.grid.cores.getLsbD k)).length - 1 ↔ c = 15)) := by decide +kernel

/-- HbmPlacement: two stacks and eight, two lines of one stripe and of two. -/
theorem test_w_placement : 2 ≤ [6, 3].length ∧ [6, 3].Nodup ∧ (List.range 8).length ≤ 8 ∧ (List.range 8).Nodup ∧ 256 ∣ 0 ∧ 64 ∣ 64 ∧
    (0 : Nat) ≠ 64 := by decide +kernel

/-- run0 with changed memory tiers. -/
def tier (f : Tiers → Tiers) (g : MemRegs → MemRegs) : State :=
  { on (fun q => { q with mem := g q.mem }) with tiers := f tiersReset }

theorem test_w_stack_failure : (let s := tier id (fun m => { m with p := 12, v := 96 })
      nth s.tiers.hbmStacks (7 : BitVec 3).toNat ≠ 1 ∧ s.tiers.hbmStacks.length = 8 ∧ s.parts.length = 12 ∧ 0 < planCount s ∧
        (part s 0).mem.state = .normal ∧ ((List.range 8).filter (fun i => nth s.tiers.hbmStacks i = 1)).length + 1 < 3 ∧
        (7 * (part s 0).mem.p + 5) / 6 - (part s 0).mem.p ≤ (part s 0).mem.v) ∧
    (let s := tier (fun t => { t with hbmStacks := t.hbmStacks.set 7 1 })
        (fun m => { m with state := .rebuilding, ptr := 1, survivors := List.range 7, prot := List.range 8 })
     let m := (part s 0).mem
     m.state = .rebuilding ∧ m.ptr = 0 + 1 ∧ s.tiers.poison = [] ∧ m.survivors.length = 7 ∧ m.survivors.all (stackUp s) = true ∧
       m.survivors.Nodup ∧ m.prot = List.range 8 ∧ (∀ k ∈ m.survivors, k < 8) ∧ 0 < planCount s) ∧
    (let line : BitVec 30 := 805306367
     line.toNat < 805306368 ∧ granuleOk run0 ((0 : BitVec 30).toNat * 64) (0 : BitVec 3).toNat = true ∧
       (0 : BitVec 30).toNat * 64 / (192 / planCount run0 * 2 ^ 28) = 0 ∧ run0.faults.health = []) := by decide +kernel

/-- A directory line. -/
def dir0 : DirLine := { num := 5, st := .modif, owner := 16, sharers := [], data := 9, favoured := some 1, since := 0, recalled := false }

theorem test_w_coherent : (let s := tier (fun t => { t with lines := [dir0] }) id
      s.tiers.lines.Pairwise (fun a b => a.num < b.num) ∧ (∀ d ∈ s.tiers.lines, d.sharers.Pairwise (· < ·)) ∧
        ((3 : BitVec 5).toNat < 4 ∨ 16 ≤ (3 : BitVec 5).toNat) ∧ 16 ≤ (16 : BitVec 5).toNat ∧ dirLine s (5 : BitVec 15).toNat = dir0 ∧
        dir0.favoured ≠ none ∧ dir0.recalled = false ∧ dir0 ∈ s.tiers.lines ∧ dir0.since + 16 ≤ (16 : Word64).toNat ∧
        (dirLine s 6).st = .inv ∧ (dirLine s 6).favoured = none) := by decide +kernel

theorem test_w_aperture : (let s := tier id id
      let a := aperture s 1 0
      a = (0, 0) ∧ s.parts.length = 12 ∧ (0 : Word64).toNat + [(1 : Byte)].length ≤ 2 ^ s.host.bar4 ∧ apertureOk s a.1 a.2 1 = true ∧
        tierClean s = true ∧ (4096 : BitVec 13).toNat ≤ 4096 ∧ apertureOk s a.1 a.2 4096 = true) ∧
    (let s := tier id (fun m => { m with u := 0 }); apertureOk s 0 (aperture s 1 0).2 1 = false ∧ (aperture s 1 0).1 < 12) := by decide +kernel

/-- run0 with a changed noise source. -/
def noise (f : Noise → Noise) : State := { run0 with noise := f noiseReset }

/-- Arguments of a host command: byte offset, bytes, value. -/
def argsOf (l : List (Nat × Nat × Nat)) : BitVec 448 := BitVec.ofNat 448 ((l.map (fun e => e.2.2 * 2 ^ (8 * (e.1 - 8)))).foldl (· + ·) 0)
/-- A mailbox command of a function. -/
def host0 (fn : Nat) (l : List (Nat × Nat × Nat)) : HostArgs := { fn := fn, mbox := true, tag := 7, args := argsOf l }
/-- One of its ring. -/
def ring0 (fn : Nat) (l : List (Nat × Nat × Nat)) : HostArgs := { host0 fn l with mbox := false }

theorem test_w_noise : (noise (fun x => { x with testing := true })).noise.st = .startup ∧
    (let s := noise (fun x => { x with st := .ok }); s.noise.st = .ok ∧ s.noise.waits = []) ∧
    (let s := noise (fun x => { x with st := .ok, waits := [{ who := 11, lcl := 0, buf := 3, fn := 0, addr := 0 }] }); s.noise.waits.length = 1) := by
  decide +kernel

theorem test_w_seed_get : (∀ s ∈ [noise id, noise (fun x => { x with st := .ok, pool := [List.replicate 32 1] }), noise (fun x => { x with st := .ok })],
      hostSends s (host0 0 [(8, 8, 64)]) 0x40 ∧ s.noise.waits = []) ∧ (noise id).noise.st ≠ .ok ∧ (List.replicate 32 (1 : Byte)).length = 32 := by
  unfold hostSends hostAsks
  decide +kernel

/-! Witnesses of the statements on the step, updates, collectives and the debugger. -/

/-- A buffer that a request waits for at SRAM address 4,096. -/
def openBuf (k : BufKind) (f : Option (Nat × List Byte × Bool)) : Buffer :=
  { bufferFree with kind := k, claim := 3, range := some (4096, 8), fetched := f }
/-- A cluster whose buffer 63 it is. -/
def bufCl (b : Buffer) : Cluster :=
  { clusterReset with core := { clusterReset.core with dma := { clusterReset.core.dma with bufs := List.replicate 63 bufferFree ++ [b] } } }
/-- run0 with that cluster, its clusters at their places, and more. -/
def bufAt (b : Buffer) (f : Partition → Partition) : State := grid0 id (fun q => f { q with clusters := [bufCl b] })

theorem test_w_arrival : (let b := openBuf .read (some (4096, [1, 2, 3, 4, 5, 6, 7, 8], true))
      let s := bufAt b id
      s.parts.length = 12 ∧ partOfCl s 0 = some 0 ∧ (0 : Nat) - clBase s 0 < (part s 0).clusters.length ∧
        (bufCl b).core.dma.bufs.length = 64 ∧ (bufCl b).core.dma.bufs.getD (63 : BitVec 6).toNat bufferFree = b ∧ b.kind = .read ∧
        b.present = false) := by decide +kernel

theorem test_w_debug : (∀ f ∈ [0, 1], let s := onSeq (fun x => { x with freezeAt := some f })
      s.parts.length = 12 ∧ (part s 0).st = .running ∧ (part s 0).seq.frozen = false ∧ (f ≤ (part s 0).seq.ic ↔ f = 0)) ∧
    (let s := onSeq (fun x => { x with frozen := true }); (part s 0).seq.frozen = true ∧ (part s 0).seq.replayAtResume = false) ∧
    (let s := on (fun q => { q with job := { q.job with debug := true } })
     let t := { s with host := { s.host with fns := s.host.fns.map (fun f => { f with dbgClSel := 0x210 }) } }
     t.supplies.mainOn = true ∧ t.boot.st = .ready ∧ (fnOf t 1).dbgClSel.toNat = 0x210 ∧ localOf t 0 (bits 0x210 16 9) = some 0 ∧
       jobActive (part t 0) = true ∧ jobActive (part { t with parts := [partReset] } 0) = false ∧ bits 0x20F 0 12 ≠ 0x210 ∧
       localOf t 0 (bits 0x20F 16 9) = some 0) := by decide +kernel

/-- A group with one tensor, and a tensor of four elements whose scales both hold the given code. -/
def upGroup : List Byte := leBytes 8 0x2000 ++ leBytes 4 1 ++ leBytes 2 3 ++ leBytes 2 1 ++ leBytes 8 0x3000 ++ leBytes 8 0x4000 ++
  leBytes 8 0x5000 ++ leBytes 8 1152 ++ leBytes 4 0x3C800000 ++ leBytes 4 0x3D800000 ++ leBytes 4 0x3F000000 ++ leBytes 4 0x3F000000 ++
  leBytes 4 0x3F400000 ++ leBytes 4 0x3E800000 ++ leBytes 4 0x35800000 ++ leBytes 4 0x3F800000 ++ leBytes 4 0x44800000 ++ leBytes 4 0x42800000
def upTensor : List Byte := leBytes 8 4 ++ leBytes 8 0x6000 ++ leBytes 8 0x7000 ++ leBytes 8 0 ++ leBytes 8 0 ++ leBytes 1 1 ++ leBytes 1 0 ++
  leBytes 1 7 ++ leBytes 1 0 ++ leBytes 4 0x3F200000
/-- HBM with a group; its last norm makes the running mean 1; the tensor's norm record holds the sum of squares 16 or 2^60. -/
def upHbm (big : Bool) : Mem 8 :=
  memWrite (memWrite (memWrite (memWrite (memWrite (memWrite [] (protOff 0x1000) upGroup) (protOff 0x2000) upTensor)
    (protOff 0x3008) (leBytes 4 0x3F800000 ++ leBytes 4 0x3F800000)) (protOff 0x6000) (leBytes 4 0x3F800000 ++ leBytes 4 0xC0000000))
    (protOff 0x7000) (leBytes 4 0x40800000)) (protOff 0x4000) (normRecord (if big then 2 ^ 356 else 16 * 2 ^ 296) 0 4)
/-- run0 with the head of its update queue at a phase of group 0, or of group 64. -/
def upd0 (phase : Nat) (dir big late : Bool) : State :=
  bufAt (openBuf .regread none) (fun q => { q with
    hbm := upHbm big, job := { q.job with updDir := if dir then some 0x1000 else none }, seq := { q.seq with attempt := 2 }, mem := { q.mem with u := 1, p := 1, prot := List.range 8 },
    upd := { q.upd with queue := [{ u := 3, group := if phase < 2 then 0 else 64, phase := phase, waiters := [(0, 0, 63)] }],
                        measured := if phase = 1 then [0] else [], absurd := if late then [(0, 1)] else [] } })

/-- The phase at the head of the queue may begin. -/
theorem upd_waits (d b l : Bool) : phaseWaits (part (upd0 0 d b l) 0) 0 (0 : BitVec 6).toNat 0 0 63 ∧
    phaseWaits (part (upd0 1 d b l) 0) 1 (0 : BitVec 6).toNat 0 0 63 ∧ phaseWaits (part (upd0 2 d b l) 0) 2 64 0 0 63 ∧
    phaseWaits (part (upd0 3 d b l) 0) 3 64 0 0 63 :=
  ⟨⟨rfl, rfl, rfl, rfl⟩, ⟨rfl, rfl, rfl, rfl⟩, ⟨rfl, rfl, rfl, rfl⟩, ⟨rfl, rfl, rfl, rfl⟩⟩

theorem test_w_measure : (∀ dir ∈ [false, true], let s := upd0 0 dir false false
      s.parts.length = 12 ∧ tierClean s = true ∧ (part s 0).mem.state = .normal) ∧
    (match updCheck (upd0 0 false false false) 0 0 false with | .refused c => c == 0x170 | _ => false) = true ∧
    (match updCheck (upd0 0 true false false) 0 0 false with | .ok _ ts => ts.length == 1 | _ => false) = true := by
  decide +kernel

theorem test_w_apply : (∀ s ∈ [upd0 1 false false false, upd0 1 true false false, upd0 1 true true false, upd0 1 true true true],
      tierClean s = true ∧ (part s 0).mem.state = .normal ∧
        canReplay (part s 0) = true ∧ (part s 0).upd.undo = []) ∧
    (match updCheck (upd0 1 false false false) 0 0 true with | .refused c => c == 0x170 | _ => false) = true ∧
    (∀ e ∈ [(false, false), (true, false), (true, true)], let s := upd0 1 true e.1 e.2
      (match updCheck s 0 0 true with
        | .ok d _ =>
          let accs := (chunksOf 256 d.tensCount (hbmBytes s 0 (protOff d.normOff) (256 * d.tensCount))).map normOf
          updAbsurd d (recordOf (hbmBytes s 0 (protOff d.stateOff) 256)) (tensorNorm ((accs.map (·.1)).foldl (· + ·) 0) 0).1
            (accs.any (fun a => (tensorNorm a.1 a.2).2)) == e.1
        | _ => false) = true ∧
      (part s 0).upd.absurd.any (fun x => decide (x.2 < (part s 0).seq.attempt)) = e.2) := by
  decide +kernel

theorem test_w_verdicts : (let s := upd0 2 false false false; tierClean s = true) ∧
    (let s := upd0 3 false false false; tierClean s = true ∧ (replTable s 0).isNone = true) ∧
    (let s := { run0 with parts := run0.parts.map (fun q => { q with
        job := { q.job with ranks := 3 }, mem := { q.mem with p := 1 }, se := { q.se with replOffEff := 0x8000 },
        hbm := memWrite (memWrite [] (protOff 0x8000) (leBytes 4 3 ++ leBytes 4 1 ++ leBytes 4 4 ++ leBytes 4 0 ++ leBytes 8 0x100))
          (protOff 0x8040) (leBytes 4 0 ++ leBytes 4 1 ++ leBytes 4 2) }) }
     (replTable s 0).isSome = true) ∧
    (∀ e ∈ [([], false), ([(7, 3, 12345)], true)], let s := on (fun q => { q with se := { q.se with engErrs := e.1 } })
      s.faults.tw = none ∧ s.faults.health = [] ∧ canReplay (part s 0) = true ∧ jobActive (part s 0) = true ∧
        (part s 0).se.engErrs.any (fun x => x.1 != (part s 0).seq.attempt && x.2.1 = (3 : BitVec 2).toNat && x.2.2 = (12345 : BitVec 48).toNat) = e.2) := by
  decide +kernel

/-- A collective call of group 0 by the request in buffer 63; its descriptor holds an operation. -/
def call0 (op : Nat) : CollCall :=
  { id := 77, desc := leBytes 4 77 ++ leBytes 1 op ++ leBytes 1 1 ++ leBytes 2 0 ++ leBytes 8 0x200 ++ leBytes 8 0x300 ++ leBytes 8 8 ++ leBytes 8 5 ++ leBytes 88 0,
    relaxed := false, resv := 0, u := 2, begun := false, group := [], pos := 0, sig := 0, src := [], etab := [], nodes := [], done := [], nf := 0,
    rows := [], lists := [], broken := false, poison := false, mark := none, word := none, waiters := [(0, 63)] }
/-- run0 with it. -/
def coll0 (op : Nat) : State :=
  bufAt (openBuf .coll none) (fun q => { q with
    cl := { q.cl with inAttempt := [call0 op] }, hbm := memWrite [] 0x200 (leBytes 4 1 ++ leBytes 8 0) })

theorem test_w_collectives : (∀ op ∈ [0, 1], let s := coll0 op
      s.parts.length = 12 ∧ (part s 0).se.asked = false ∧ (part s 0).se.replaying = false ∧ callOf s 0 (77 : BitVec 32).toNat = some (call0 op) ∧
        writesDone (part s 0) (call0 op).u = true ∧ (call0 op).waiters = [(0, 63)] ∧ ((collRefusal s 0 0 (call0 op)).isSome = true ↔ op = 0) ∧
        groupRanks s 0 (collDesc (call0 op).desc).group = some [0] ∧ tierClean s = true ∧ (part s 0).mem.state = .normal) ∧
    (let d := collDesc (call0 1).desc; d.op = 1 ∧ nfEn d = false) := by decide +kernel

/-- A sequencer whose next bundle is STEP_END, and a rank of two that waits at the barrier of its step for T_rel. -/
def seqEnd : SeqState := { seq0 with bundles := [(0, BitVec.ofNat 512 (5 * 2 ^ 476))] }
def barrier0 (r : Nat) : State :=
  on (fun q => { q with
    seq := seqEnd, job := { q.job with ranks := 2, relaxed := true }, clusters := [clusterReset],
    cl := { q.cl with brCtrlEff := 0x10001, tRel := some r, arriveSent := true } })

theorem barrier_calm (r : Nat) : Calm (barrier0 r) 0 where
  lt := Nat.succ_pos _
  twelve := by decide
  run := rfl
  clk := show (48 : Nat) ≠ 0 by decide
  stream := rfl
  owed := rfl
  begun := rfl
  frozen := rfl
  freezeAt := rfl
  asked := rfl
  replaying := rfl
  waiting := rfl
  power := rfl
  hold13 := show seqEnd.holds.getLsbD 13 = false by decide
  replayable := rfl
  hj := show (128 : Word64) ≠ 0 by decide
  quiet := fun e he => by
    have h : e = clusterReset := List.mem_singleton.mp he
    exact h ▸ quiet_reset
  room := fun e he => by
    have h : e = clusterReset := List.mem_singleton.mp he
    exact h ▸ rfl
  traps := fun _ e he => by
    have h : e = clusterReset := List.mem_singleton.mp he
    exact h ▸ rfl

/-- CollectivesAndBarriers: the bare boundary, with T_rel now and after now. -/
theorem test_w_barrier : (∀ r, Calm (barrier0 r) 0) ∧
    Bare (withPart (barrier0 0) 0 (fun q => { q with job := { q.job with ranks := 1 } })) 0 ∧
    (∀ r ∈ [0, 5000000], isBarrier (part (barrier0 r) 0) (part (barrier0 r) 0).seq.step = true ∧ (part (barrier0 r) 0).ck.nextCut = none ∧
      nextBundle (part (barrier0 r) 0).seq = { emptyBundle with ctl := .stepEnd false } ∧ (part (barrier0 r) 0).cl.tRel = some r ∧
      (r ≤ qzFine (barrier0 r) ↔ r = 0)) := by
  refine ⟨barrier_calm, ?_, ?_⟩
  · constructor <;> decide +kernel
  · decide +kernel

/-! Witnesses of the statements on flits, links and time. -/

/-- A flit at its destination: rank 1 to rank 0. -/
def flit0 : Flit :=
  { flitNone with
    seq := 5, ack := 1, ltype := 1, cvc := 1, ccum := 9, mtype := 2, mflags := 1, epoch := 2, srcEpoch := 3, job := 7, dst := 0, src := 1,
    path := 3 + 2 ^ 48 + 2 ^ 52, addr := 0x300, step := 9, plen := 8, attempt := 1, arg := 9,
    payload := (List.range 192).map (fun i => BitVec.ofNat 8 (i + 1)) }
/-- A message of a type with its `addr` and `arg`. -/
def msg (mtype addr arg : Nat) : Flit := { flit0 with mtype := mtype, addr := addr, arg := arg }
/-- A flit as it comes to port 0. -/
def wire (f : Flit) : FlitArgs :=
  { port := 0, half := false, word := BitVec.ofNat 2048 (leNat (flitBytes f)), bad := false, fec := false, unc := 0, sym := [], dt := 0 }
/-- An ACTIVE link with two flits not yet acknowledged. -/
def link0 : Link :=
  { linkDown with
    st := .active, width := 3, txSeq := 3, rxSeq := 5, replay := (List.range 2).map (fun i => { flit := { flit0 with seq := i }, tries := 1 }),
    credits := [20, 20, 20, 20], freed := [1, 2, 255, 4], ccumRx := [3, 5, 6, 7], ccumTx := [0, 0, 0, 0] }
/-- A cluster in which buffers 60 and 63 wait for a READ and a RECV. -/
def wireCl : Cluster :=
  { clusterReset with core := { clusterReset.core with dma := { clusterReset.core.dma with
      bufs := List.replicate 60 bufferFree ++ [openBuf .read none, bufferFree, bufferFree, openBuf .recv none] } } }
/-- A read whose data buffer 60 awaits. -/
def read0 : AwaitRead := { lcl := 0, buf := 60, sram := 4096, dst := 1, addr := 0x400, got := [], len := 8, poison := false, mark := none }
/-- Rank 0 of three in step 9, with routes to ranks 1 and 2 over port 1. -/
def wire0 (g : Partition → Partition) (h : Link → Link) : State :=
  { grid0 id (fun q => g { q with
      clusters := [wireCl], mem := { q.mem with u := 1, p := 1, prot := List.range 8 }, job := { q.job with ranks := 3 },
      hbm := memWrite [] (protOff 0x9000) (List.replicate 16 0 ++ (leBytes 6 1 ++ leBytes 1 17 ++ leBytes 1 0 ++ leBytes 6 2 ++ leBytes 2 3) ++
        (leBytes 6 1 ++ leBytes 1 1 ++ leBytes 1 0 ++ leBytes 6 0 ++ leBytes 2 4)),
      seq := { q.seq with step := 9, attempt := 1 },
      lk := { q.lk with jobEff := 7, epochEff := 2, baseEff := 0x9000, countEff := 3,
                        acks := [{ dst := 1, tag := 9, src := none, addr := 0, len := 1 }], reads := [read0] } }) with
    ports := List.replicate 24 { lkPortReset with a := h link0 } }
/-- Without changes. -/
def wires : State := wire0 id id

/-- A SEND to a free buffer, an RWRITE to the last lines below 2^47, requests, responses, and what collectives and barriers bring. -/
def home0 : List Flit :=
  [msg 1 (61 * 2 ^ 24) 0, msg 2 0x300 9, msg 3 0x400 192, msg 4 (60 * 2 ^ 24) 0, msg 5 0x300 9, msg 6 0x300 9, msg 8 77 9, msg 9 77 9,
   msg 0x10 0x300 3, msg 0x10 0x300 6, msg 0x11 0x300 9, msg 0x12 0x407 0, msg 0x13 0x300 1, msg 0x18 1 0, msg 0x18 2 0, msg 0x18 3 0,
   msg 0x18 4 0, msg 0x18 5 1]

theorem test_w_home : ∀ f ∈ home0, flitHome wires (wire f) 0 ∧ flitOf (wordBytes (wire f).word) = f := by
  unfold flitHome flitComes
  decide +kernel

/-- FlitReceipt: a row of another type; a flit with an uncorrectable codeword, one with a wrong CRC; no job takes one; one out of order;
one in order. -/
theorem test_w_receipt : wires.ports.length = 24 ∧ wires.parts.length = 12 ∧ (wire (msg 2 0x300 9)).unc = 0 ∧
    hasHalf wires 0 false = true ∧ flitCrcOk (wordBytes ((wire (msg 2 0x300 9)).word ^^^ 1)) = false ∧
    (flitOf (wordBytes ((wire (msg 2 0x300 9)).word ^^^ 1))).mtype = 2 ∧
    portTakes wires 0 (msg 2 0x300 9) = true ∧ portTakes (wire0 (fun q => { q with st := .ended }) id) 0 (msg 2 0x300 9) = false ∧
    (flitOf (wordBytes (wire { flit0 with seq := 9 }).word)).seq ≠ (linkAt wires 0 false).rxSeq ∧
    (let a := wire { flit0 with seq := 9 }; flitComes wires a ∧ portTakes wires 0 (flitOf (wordBytes a.word)) = true) ∧
    (let t := wire0 (fun q => { q with st := .ended }) id; flitComes t (wire flit0)) := by
  unfold flitComes
  decide +kernel

/-- ControlFlits: IDLE, NAK and TRAIN, the peer expected and not; ForwardFlit: at hop 1 of 2 by an owned port and by one that is not, and
a reserved type. -/
def train0 : Flit :=
  { flit0 with ltype := 3, payload := leBytes 8 77 ++ leBytes 1 3 ++ leBytes 1 3 ++ leBytes 2 100 ++ leBytes 2 101 ++ leBytes 2 102 ++ leBytes 2 103 ++ List.replicate 174 0 }
theorem test_w_control : (∀ f ∈ [{ flit0 with ltype := 0 }, { flit0 with ltype := 2 }, train0],
      flitCrcOk (wordBytes (wire f).word) = true ∧ (flitOf (wordBytes (wire f).word)).ltype = f.ltype) ∧
    (let l := linkAt wires 0 false; hasHalf wires 0 false = true ∧ l.st = .active ∧ l.txq = [] ∧ flit0.cvc % 4 < l.credits.length ∧
      flit0.cvc % 4 < l.ccumRx.length ∧ (∀ e ∈ l.replay, e.tries < 8) ∧ flit0.ack - 0 ≤ l.replay.length) ∧
    (let t := wire0 id (fun l => { l with st := .param }); (linkAt t 0 false).st = .param ∧ (portAt t 0).expectId = 0 ∧
      (linkAt t 0 false).kept = false) ∧
    (∀ e ∈ [(2, true), (23, true), (31, false)], let f := { flit0 with path := 3 + 64 * e.1 + 2 ^ 48 + 2 * 2 ^ 52 }
      let a := wire f
      flitComes wires a ∧ partOfPort wires 0 = some 0 ∧ flitOf (wordBytes a.word) = f ∧ flitMalformed f = false ∧ pathHop f < pathN f ∧
        pathEntry f.path (pathHop f) = e.1 ∧ hopOwned wires 0 e.1 = e.2) ∧
    (linkAt wires 2 false).st ≠ .failed ∧
    (let a := wire (msg 0x30 0 0); flitComes wires a ∧ (vcOf 0x30).isNone = true) := by
  unfold flitComes
  decide +kernel

theorem test_w_remote_writes : tierClean wires = true ∧ (part wires 0).mem.state = .normal ∧ localOf wires 0 (bits (61 * 2 ^ 24) 30 9) = some 0 ∧
    (wireCl.core.dma.bufs.getD (bits (61 * 2 ^ 24) 24 6) bufferFree).kind = .free ∧ remoteOk wires 0 0x300 8 = true ∧
    routeReady wires 0 1 = true ∧ flitPoison flit0 = false ∧ (flit0.payload.take flit0.plen).length % 4 = 0 := by decide +kernel

theorem test_w_remote_reads : remoteOk wires 0 0x400 192 = true ∧ readHere wires 0 read0 0 ∧ read0.dst = flit0.src ∧ flit0.plen = read0.len ∧
    60 * 2 ^ 24 = read0.lcl * 2 ^ 30 + read0.buf * 2 ^ 24 ∧ read0.addr ≤ 0x407 ∧ 0x407 < read0.addr + max 1 read0.len := by
  unfold readHere
  decide +kernel

theorem test_w_responses : wires.faults.tw = none ∧ routeEpoch wires 0 1 = 3 ∧ 6 % 65536 ≠ routeEpoch wires 0 1 ∧
    flit0.src < (part wires 0).lk.countEff ∧ canReplay (part wires 0) = true ∧ (part wires 0).lk.alt.contains 1 = false ∧
    (part wires 0).lk.altNext.contains 1 = false ∧
    (let t := wire0 (fun q => { q with lk := { q.lk with alt := [1] } }) id; (part t 0).lk.alt.contains 1 = true ∧ flitHome t (wire (msg 0x13 0x300 1)) 0) := by
  unfold flitHome flitComes
  decide +kernel

/-- CollectiveFlits: a call that has not begun, one that has with another signature. -/
theorem test_w_collective_flits : callOf wires 0 (77 % 2 ^ 32) = none ∧
    (let t := wire0 (fun q => { q with cl := { q.cl with inAttempt := [{ call0 1 with begun := true, sig := 10 }] } }) id
     (callOf t 0 77).isSome = true ∧ ((callOf t 0 77).map (fun c => (c.begun, c.sig)) = some (true, 10)) ∧ tierClean t = true ∧
       (callOf t 0 77).all (fun c => c.word.isNone && !c.broken) = true ∧ flitHome t (wire (msg 8 77 9)) 0 ∧ flitHome t (wire (msg 9 77 9)) 0) := by
  unfold flitHome flitComes
  decide +kernel

/-- BarrierFlits: rank 0 of three, with its own arrival sent and that of rank 2 held, and without. -/
theorem test_w_barrier_flits : (part wires 0).job.rank = 0 ∧ (part wires 0).se.replaying = false ∧ (part wires 0).cl.arriveSent = false ∧
    canReplay (part wires 0) = true ∧
    (let t := wire0 (fun q => { q with cl := { q.cl with arriveSent := true, arrived := [(2, 9, 1)] } }) id
     (treeChildren 0 3).all (fun r => r = flit0.src || (part t 0).cl.arrived.contains (r, 9, 1)) = true) := by decide +kernel

/-- run0 with a changed port 23. -/
def port0 (f : LkPort) : State := { grid0 id id with ports := List.replicate 23 lkPortReset ++ [f] }
theorem test_w_links : (∀ st ∈ [LinkSt.pmdTrain, .retrain, .lock, .active, .failed], let s := port0 { lkPortReset with a := { link0 with st := st } }
      s.ports.length = 24 ∧ (portAt s 23).splitAct = false ∧ (portAt s 23).a.st = st ∧ s.faults.health = []) ∧
    lanesLeft 0 = List.range 8 ∧ lanesLeft (0 ||| 1 <<< 7) ≠ lanesLeft 0 ∧ lanesLeft (0x55 ||| 1 <<< 7) = [] ∧ lanesLeft 0x55 = [] ∧
    lanesLeft 0x54 = [0, 1] ∧ lanesLeft (0x54 ||| 1 <<< 0) = [] ∧ lanesLeft (0xF0 ||| 1 <<< 7) = lanesLeft 0xF0 ∧ link0.replay ≠ [] := by decide +kernel

/-- LinkFailure: a link off every route, with and without a job; one on both routes of a rank. -/
theorem test_w_link_failure : (portAt wires 1).splitAct = false ∧ (portAt wires 1).a.st = .active ∧ partOfPort wires 1 = some 0 ∧
    partOfPort wires 23 = some 0 ∧ jobActive (part wires 0) = true ∧ canReplay (part wires 0) = true ∧
    (let t := wire0 (fun q => { q with st := .ended }) id; jobActive (part t 0) = false) ∧
    (let dead (s : State) (k : Nat) : Bool := ((List.range (part s 0).lk.countEff).filter (fun r => r != (part s 0).job.rank)).any (fun r =>
      (pathEntry (routePath s 0 r false) 0 = k || hopFailed s (pathEntry (routePath s 0 r false) 0)) &&
      (pathEntry (routePath s 0 r true) 0 = k || hopFailed s (pathEntry (routePath s 0 r true) 0)))
     dead wires 23 = false ∧ dead wires 1 = false ∧ dead { wires with ports := wires.ports.set 0 { lkPortReset with a := { link0 with st := .failed } } } 1 = true) := by
  decide +kernel

/-- run0 with a changed Quartz. -/
def quartz0 (f : Quartz → Quartz) : State := { wires with quartz := f quartzReset, boot := wires.boot }
theorem test_w_quartz : bits quartzReset.ctrl.toNat 8 2 ≠ 2 ∧
    (let s := quartz0 (fun z => { z with ctrl := 0x200, missed := 16 }); bits s.quartz.ctrl.toNat 8 2 = 2 ∧
      bits s.quartz.ctrl.toNat 0 6 % 32 < s.ports.length ∧ 16 ≤ s.quartz.missed ∧ s.quartz.st ≠ 4) ∧
    (let s := quartz0 (fun z => { z with ctrl := 0x100 }); barFull s = true ∧ bits s.quartz.ctrl.toNat 8 2 = 1) := by decide +kernel

/-- TimeFlits: a request, and an answer that is 100 ns early, and one 10 s early. -/
def answer0 (ns : Nat) : Flit :=
  { msg 0x19 2 0 with payload := leBytes 8 ns ++ leBytes 2 0 ++ leBytes 8 (ns + 5) ++ leBytes 2 0 ++ leBytes 1 2 ++ List.replicate 171 0, plen := 21 }
theorem test_w_time : (∀ f ∈ [msg 0x19 1 0, answer0 5100, answer0 10000000000],
      let s := quartz0 (fun z => { z with ctrl := 0x200, ns := 5010, sent := some (5000 * 65536) })
      flitComes s (wire f) ∧ flitOf (wordBytes (wire f).word) = f ∧ f.ltype = 1 ∧ f.mtype = 0x19 ∧ flitMalformed f = false ∧
        f.seq = (linkAt s 0 false).rxSeq ∧ (wire f).dt = 0) ∧
    bits (0x200 : BitVec 32).toNat 0 6 = 0 ∧ anyJob run0 = true ∧ anyJob { run0 with parts := List.replicate 12 partReset } = false := by
  unfold flitComes
  decide +kernel

/-! Witnesses of the statements on the solver, checkpoints and host commands. -/

/-- A problem of one variable and one row, 0 ≤ x ≤ 1/2, with its settings and start. -/
def prob0 : QpProblem :=
  { n := 1, m := 1, p := [{ row := 0, col := 0, val := qPow2 (-1) }], a := [{ row := 0, col := 0, val := qOne }], q := [qNeg qOne], l := [0],
    u := [qPow2 (-1)], perm := [0, 1], pats := [] }
def vals0 : QpVals :=
  { prob := { prob0 with pats := qpPatterns prob0 },
    set := [qPow2 (-1), 0, qOne, qPow2 (-10), qPow2 (-10), qPow2 (-13), qPow2 (-13), qOne, qPow2 5, qPow2 3, qPow2 (-20)],
    pe := 0, evec := [0], x := [0], z := [0], y := [0], buf0 := ⟨[], []⟩, buf1 := ⟨[], []⟩, fbuf := false, stale := true }
/-- A packet with one entry, and the request of cluster 0 that sends it. -/
def packet0 (op flags n budget wall : Nat) : List Byte :=
  leBytes 1 op ++ leBytes 1 7 ++ leBytes 1 flags ++ leBytes 1 0 ++ leBytes 4 n ++ leBytes 4 budget ++ leBytes 4 wall ++ leBytes 8 0x1234 ++
    leBytes 40 0 ++ (List.replicate n (leBytes 4 0x30000000 ++ leBytes 4 0 ++ leBytes 8 qOne)).flatten
def req0 (b : List Byte) (wall : Bool) : QpReq := { kind := .cluster 0 0 63 4096 80 9, packet := b, wall := wall, resv := 0, poison := false }
/-- run0 with a changed context 7. -/
def ctx0 (f : QpCtx → QpCtx) : State :=
  let s := bufAt (openBuf .solve none) id
  { s with beryl := { s.beryl with ctxs := List.replicate 7 qpCtxReset ++ [f { qpCtxReset with enable := true, client := 0, size := 8, vals := some vals0 }] } }
/-- With one request. -/
def ctxAsks (b : List Byte) (wall : Bool) : State := ctx0 (fun x => { x with queue := [req0 b wall] })

theorem test_w_solver_requests : (∀ op ∈ [1, 2], let s := ctxAsks (packet0 op 0 0 0 0) false
      (qpCtxAt s (7 : BitVec 3).toNat).queue = [req0 (packet0 op 0 0 0 0) false] ∧ s.beryl.ctxs.length = 8 ∧
        (answerPlace (req0 (packet0 op 0 0 0 0) false)).isSome = true ∧ (qpPacket (packet0 op 0 0 0 0)).op = op) ∧
    (let s := ctx0 (fun x => { x with queue := [req0 (packet0 2 0 0 0 0) false], poisoned := true }); (qpCtxAt s 7).poisoned = true ∧
      (qpCtxAt s 7).queue.length = 1) ∧
    (qpRefusal (qpCtxAt (ctxAsks (packet0 2 0 0 5 0) false) 7) (req0 (packet0 2 0 0 5 0) false)).isSome = true ∧
    (qpCtxAt (ctxAsks (packet0 2 0 0 5 0) false) 7).poisoned = false := by decide +kernel

theorem test_w_solver_runs : (∀ b ∈ [packet0 2 0 1 0 0, packet0 1 6 1 3 0], let s := ctxAsks b false
      qpRefusal (qpCtxAt s 7) (req0 b false) = none ∧ (qpCtxAt s 7).vals = some vals0 ∧ (qpCtxAt s 7).poisoned = false ∧
        (match (qpCtxAt s 7).saved with | some e => e.2.length | none => 0) = 0) ∧
    (let k := qpPacket (packet0 2 0 1 0 0); (qpKeys k vals0 (qpEntries vals0 k)).length ≤ 65536) ∧
    (let k := qpPacket (packet0 1 6 1 3 0); (qpKeys k vals0 (qpRunSolve .never k.budget (qpEntries vals0 k)).vals).length ≤ 65536) := by
  decide +kernel

theorem test_w_solver_deadline : (let b := packet0 1 14 0 3 9
     let s := ctxAsks b true
     (qpCtxAt s 7).queue = [req0 b true] ∧ qpRefusal (qpCtxAt s 7) (req0 b true) = none ∧ (qpPacket b).op = 1 ∧
       ∀ d ∈ [WallAt.queued, .factor, .boundary 1, .during 0, .never],
         (qpKeys (qpPacket b) vals0 (qpRunSolve d (qpPacket b).budget (qpEntries vals0 (qpPacket b))).vals).length ≤ 65536) := by decide +kernel

/-- The host's side: an idle context, one with a request; the words that enable, disable and clear; a frame that moves no context. -/
theorem test_w_solver_setup : barFull run0 = true ∧ run0.beryl.ctxs.length = 8 ∧
    (let s := ctx0 id; barFull s = true ∧ ctxBoundNow s (qpCtxAt s 7) = true) ∧
    (let s := ctx0 (fun x => { x with enable := false }); ctxBoundNow s (qpCtxAt s 7) = false ∧ (qpCtxAt s 7).queue = [] ∧ (qpCtxAt s 7).enable = false) ∧
    (let s := ctxAsks (packet0 2 0 0 0 0) false; (qpCtxAt s 7).enable = true ∧ (qpCtxAt s 7).queue = [req0 (packet0 2 0 0 0 0) false]) := by
  decide +kernel

/-- The module with partition 0 idle, the rings of function 0 and 12 with two places, and the last one next. -/
def host1 (g : Partition → Partition) (h : HostSide → HostSide) : State :=
  let s := on (fun q => g { q with st := .idle, clusters := [clusterReset] })
  { s with
    host := h { s.host with fns := s.host.fns.map (fun f => { f with cmdSize := 2, cmdHead := 1, cmdBaseEff := 0x40000, cplBaseEff := 0x50000 }) } }
/-- Without changes. -/
def hosts : State := host1 id id

/-- Commands of the function itself and of its ring and mailbox reach the firmware; each solver command is well formed. -/
theorem test_w_solver_commands : (∀ op ∈ [0x50, 0x51, 0x52, 0x53], hostSends hosts (ring0 0 [(8, 4, 7)]) op ∧ hostSends hosts (host0 0 [(8, 4, 8)]) op) ∧
    svRefusal hosts 0 8 = some 0x0101 ∧
    (let s := { hosts with beryl := (ctx0 id).beryl }
     svRefusal s 0 7 = none ∧ (qpCtxAt s 7).queue = [] ∧ hostSends s (ring0 0 [(8, 4, 7)]) 0x51 ∧ s.beryl.ctxs.length = 8) := by
  unfold hostSends hostAsks
  refine ⟨?_, ?_, ?_⟩ <;> decide +kernel

/-- SolverLoad: at HBM offset 0x10000 the image of a problem of one variable and no row, all of whose arrays are the zeros at 0x10100; at 64 none. -/
def load0 : State :=
  { host1 (fun q => { q with hbm := memWrite [] 0x10000 (leBytes 4 0x4D495051 ++ leBytes 4 1 ++ List.replicate 16 0 ++
      (List.replicate 10 (leBytes 8 0x100)).flatten ++ List.replicate 88 0xFF) }) id with beryl := (ctx0 id).beryl }
theorem test_w_solver_load : (∀ a ∈ [ring0 0 [(8, 4, 7), (16, 8, 0x10000)], ring0 0 [(8, 4, 7), (16, 8, 64)]], hostSends load0 a 0x50 ∧
      svRefusal load0 0 (argAt a 8 4) = none ∧
      (match qpLoad load0 (qpCtxAt load0 7).part.toNat (argAt a 16 8) (qpCtxAt load0 7).size.toNat with
        | .ok v => v.prob.n == 1 && argAt a 16 8 == 0x10000 | .error st => st == 0x01A0 && argAt a 16 8 == 64) = true) ∧
    (∀ e ∈ [(2 ^ 48, false), (0x100, true)], let a := ring0 0 [(8, 4, 7), (16, 8, e.1), (24, 8, 0x400), (32, 8, 80)]
      hostSends load0 a 0x52 ∧
        (decide (argAt a 16 8 < 2 ^ 48) && inSlice (part load0 0) (argAt a 16 8) 64 && decide (argAt a 24 8 < 2 ^ 48) &&
          inSlice (part load0 0) (argAt a 24 8) (argAt a 32 8)) = e.2) := by
  unfold hostSends hostAsks
  decide +kernel

/-- A rank that is its own buddy, with one region of 64 bytes and an area for its images. -/
def cut0 (g : CkRegs → CkRegs) : State :=
  host1 (fun q => { q with
    st := .running, clusters := [], mem := { q.mem with u := 1, p := 1, prot := List.range 8 },
    hbm := memWrite (memWrite [] (protOff 0x8000) (leBytes 4 1 ++ leBytes 12 0 ++ (leBytes 1 1 ++ leBytes 7 0 ++ leBytes 8 0x200 ++ leBytes 8 64 ++
      leBytes 8 0))) 0x200 (leBytes 8 0x1122334455667788),
    ck := g { q.ck with mapOffEff := 0x8000, areaOffEff := 0x20000, slotBytesEff := 0x1000, wardEff := 0, buddyEff := 0, jobCut := 9 } }) id
/-- With the cut of step 9 taken, and committed. -/
def cut1 : State := (takeCut (cut0 id) 0 9).1
def cut2 : State := match (part cut1 0).ck.stream with | some c => (commitImage cut1 0 c).1 | none => cut1
theorem test_w_cuts : (part cut1 0).job.rank = 0 ∧ (part cut1 0).job.ranks ≤ 1 ∧ cut1.parts.length = 12 ∧
    (part cut1 0).ck.stream.any (fun c => cutReadable cut1 0 c && c.cut == 9) = true ∧ buddyIsSelf (part cut1 0) = true ∧
    (openSlotOf cut1 0 9).isSome = true ∧ (part cut1 0).mem.state = .normal ∧ tierClean cut1 = true ∧
    (let s := { cut1 with tiers := { cut1.tiers with poison := memSet [] (lineKey (placeOf cut1 0 0x200).stack (placeOf cut1 0 0x200).addr) 1 } }
     (part s 0).ck.stream.any (fun c => !cutReadable s 0 c) = true) := by decide +kernel
theorem test_w_cut_requests : jobActive (part (cut0 id) 0) = true ∧ (part (cut0 id) 0).job.rank = 0 ∧
    (let s := wire0 (fun q => { q with job := { q.job with rank := 2 }, lk := { q.lk with baseEff := 0x9010 } }) id
     jobActive (part s 0) = true ∧ (part s 0).job.rank ≠ 0 ∧ routeReady s 0 0 = true) := by decide +kernel
theorem test_w_drains : (part (cut0 id) 0).ck.draining = false ∧ slotOfCut (cut0 id) 0 9 = none ∧
    (slotOfCut cut2 0 (part cut2 0).ck.jobCut.toNat).isSome = true ∧ (part cut2 0).ck.draining = false ∧ cut2.host.up = true ∧
    (let s := withCk cut2 0 (fun c => { c with draining := true })
     (part s 0).ck.draining = true ∧ (slotOfCut s 0 (part s 0).ck.jobCut.toNat).isSome = true) := by decide +kernel

/-- A host command in each of the states that answer it at once. -/
theorem test_w_command_gate : (∀ a ∈ [host0 12 [], ring0 12 []], hostAsks hosts a) ∧ fwWorks hosts = true ∧ planCount hosts < 12 ∧
    (∀ st ∈ [BootSt.failed, .start], let s := { hosts with boot := { hosts.boot with st := st } }; hostAsks s (ring0 12 []) ∧ s.boot.st = st) ∧
    cmdMalformed (ring0 0 [(57, 1, 1)]) 0x40 = true ∧ hostAsks hosts (ring0 0 [(57, 1, 1)]) ∧ (0 : Nat) ≤ planCount hosts ∧
    (let s := host1 id (fun x => { x with fns := x.fns.map (fun f => { f with waits := [{ op := 0x20, tag := 5, mbox := true, idx := 0, arg := 0, val := 33 }] }) })
     (fnOf s 12).waits ≠ []) := by
  unfold hostAsks
  decide +kernel
theorem test_w_command_fetch : hosts.host.fns.length = 13 ∧ ringsServed hosts = true ∧ (fnOf hosts 12).cmdSize.toNat ≤ (2 : Word32).toNat ∧
    (1 : Word32).toNat < (fnOf hosts 12).cmdSize.toNat ∧ (fnOf hosts 12).cmdHead.toNat < (fnOf hosts 12).cmdSize.toNat ∧
    hosts.host.up = true ∧ (fnOf hosts 12).mboxGo = false ∧
    (let s := host1 id (fun x => { x with fns := x.fns.map (fun f => { f with mboxGo := true }) }); (fnOf s 12).mboxGo = true) := by decide +kernel

/-- A queue context with one entry to fetch; the entry is of step 7, or all zeros. -/
def qctx0 (k : Nat) : QCtx :=
  { k := k, size := 16, ring := 0x8000, cpl := 0x20000, table := 0, tableN := 0, tail := 0, head := 15, cplIdx := 15, phase := true, prev := none,
    fetched := [] }
def queue0 (st : PState) (c : QCtx) : State := host1 (fun q => { q with st := st }) (fun x => { x with ctxs := [c] })

theorem test_w_contexts : (∀ a ∈ [ring0 0 [(8, 4, 8191), (12, 4, 16), (40, 4, 4096)], ring0 0 [(8, 4, 8191), (12, 4, 17)], ring0 0 [(56, 1, 15)]], hostSends hosts a 0x10) ∧
    (∀ a ∈ [ring0 0 [(8, 4, 8191)], ring0 0 [(8, 4, 8192)]], hostSends hosts a 0x11) ∧ ctxPer hosts = 8192 ∧ planCount hosts = 1 ∧
    argPart (ring0 0 [(56, 1, 15)]) = 15 ∧ ctxFree hosts 0 8191 = true ∧
    (let s := queue0 .running { qctx0 8191 with fetched := [{ step := 3, entry := 0, image := 0, raise := false, user := 77 }] }
     ctxFree s 0 8191 = false ∧ hostSends s (ring0 0 [(8, 4, 8191), (12, 4, 16)]) 0x10 ∧ hostSends s (ring0 0 [(8, 4, 8191)]) 0x11) := by
  unfold hostSends hostAsks
  refine ⟨?_, ?_, ?_, ?_, ?_, ?_, ?_⟩ <;> decide +kernel
/-- Doorbells: the last context and the first, an index at the ring size and one below it, a VF that is absent, and the offsets just
beyond the contexts of two and of three partitions. -/
theorem test_w_doorbells : (let s := queue0 .idle (qctx0 8191)
      s.host.fns.length = 13 ∧ fwWorks s = true ∧ (65528 : BitVec 16).toNat % 8 = 0 ∧ (65528 : BitVec 16).toNat / 8 < ctxPer s * planCount s ∧
        s.host.ctxs.find? (fun x => x.k = 65528 / 8) = some (qctx0 8191) ∧ s.host.ctxs.find? (fun x => x.k = 0) = none ∧
        (qctx0 8191).size ≤ (16 : Word64).toNat % 2 ^ 32 ∧ (15 : Word64).toNat % 2 ^ 32 < (qctx0 8191).size ∧ planCount s < 2 ∧ 1 ≤ planCount s ∧
        (65528 : BitVec 16).toNat / 8 < ctxPer s) ∧
    (let s (e : Nat) : State := { hosts with boot := { hosts.boot with plan := e } }
     ctxPer (s 1) = 4096 ∧ ctxPer (s 1) ≤ (32768 : BitVec 16).toNat / 8 ∧ fwWorks (s 1) = true ∧ (s 1).host.fns.length = 13 ∧
       ctxPer (s 2) * planCount (s 2) = 8190 ∧ 8190 ≤ (65520 : BitVec 16).toNat / 8 ∧ fwWorks (s 2) = true) := by decide +kernel
theorem test_w_doorbells_dropped : (65535 : BitVec 16).toNat % 8 ≠ 0 ∧ fwWorks State.reset = false := by decide +kernel
theorem test_w_entries : (let s := queue0 .idle (qctx0 8191); oneEntry s 0 8191 (qctx0 8191) ∧
      entryBad (part s 0) none (hostRead s (0x8000 + 64 * 15) 64) = true) ∧
    (let s := queue0 .running (qctx0 8191)
     let t := withPart s 0 (fun q => { q with job := { q.job with images := [{ count := 1, special := false, foreign := false, bundles := [] }] } })
     oneEntry t 0 8191 (qctx0 8191) ∧ entryBad (part t 0) none (hostRead t (0x8000 + 64 * 15) 64) = false) ∧
    (let s := queue0 .idle { qctx0 8191 with head := 0 }; partOfCtx s 8191 = some 0 ∧ ({ qctx0 8191 with head := 0 } : QCtx).head = 0) ∧
    partOfCtx hosts 8192 = none := by
  unfold oneEntry
  decide +kernel

/-- A job block, and an image without sections for the fuses and the firmware of `hosts`. -/
def block0 : List Byte :=
  leBytes 3 0 ++ leBytes 1 1 ++ leBytes 4 0 ++ leBytes 8 (2 ^ 64 - 1) ++ leBytes 32 0 ++ leBytes 32 5 ++ leBytes 16 77 ++ leBytes 32 0 ++
    leBytes 8 0x6000 ++ leBytes 4 320 ++ leBytes 4 0 ++ leBytes 112 0
def jobImage0 : List Byte :=
  leBytes 4 0x4D495141 ++ leBytes 2 1 ++ [0x42, 0] ++ leBytes 1 okBoot.plan ++ [0xFF, 0, 0] ++ leBytes 4 okBoot.fw.toNat ++ leBytes 4 1 ++
    leBytes 4 0 ++ leBytes 4 0 ++ leBytes 228 0 ++ leBytes 64 0
def start0 : State :=
  let s := host1 id (fun x => { x with mem := memWrite (memWrite [] 0x4000 block0) 0x6000 jobImage0 })
  { s with boot := { s.boot with models := [0] } }
theorem test_w_job_start : hostSends start0 (ring0 0 [(8, 8, 0x4000)]) 0x20 ∧ (startStep start0 0 0x4000 farNone).isSome = true ∧
    hostSends start0 (ring0 0 [(8, 8, 0x7000)]) 0x20 ∧ (jobBlock (hostRead start0 0x7000 256)).ok = false ∧ start0.faults.tw = none ∧
    argPart (ring0 0 [(8, 8, 0x4000)]) < planCount start0 := by
  unfold hostSends hostAsks
  decide +kernel
theorem test_w_job_end : (∀ q ∈ [{ runPart with waiting := true }, runPart, { runPart with st := .ended }, { runPart with st := .idle }],
      let s := host1 (fun _ => q) id
      hostSends s (ring0 0 []) 0x21 ∧ hostSends s (ring0 0 []) 0x22 ∧ part s 0 = q ∧ q.endReq = none ∧ q.ck.stream = none) := by
  unfold hostSends hostAsks
  decide +kernel
theorem test_w_job_running : (let w : CmdWait := { op := 0x20, tag := 5, mbox := true, idx := 0, arg := 0, val := 33 }
     let s0 := host1 (fun q => { q with st := .starting }) (fun x => { x with fns := updAt x.fns 12 (fun f => { f with waits := [w] }) })
     let s := { s0 with supplies := { s0.supplies with permHalt := false } }
     s.parts.length = 12 ∧ s.host.fns.length = 13 ∧ (part s 0).st = .starting ∧ s.faults.tw = none ∧ (fnOf s 12).waits = [w] ∧
       (∀ k, k < 13 → k ≠ 12 → (fnOf s k).waits = []) ∧ (part s 0).endReq = none ∧ s.supplies.supply ≠ .halted ∧ effHalt s 0 = false) := by decide +kernel
theorem test_w_plan_change : (∀ s ∈ [hosts, host1 (fun q => { q with st := .starting }) id, { hosts with mgmt := { hosts.mgmt with planLock := true } }],
      hostSends s (ring0 0 [(8, 1, 0)]) 0x30 ∧ hostSends s (ring0 0 [(8, 1, 255)]) 0x30) ∧
    planValid (planEntry hosts.boot.copy 0) = true ∧ planLocked hosts = false ∧ planLocked { hosts with mgmt := { hosts.mgmt with planLock := true } } = true ∧
    hosts.parts.any (fun q => q.st = .starting || q.st = .running || q.st = .releasing) = false := by
  unfold hostSends hostAsks
  decide +kernel
theorem test_w_firmware : hosts.host.staging = false ∧ hostSends hosts (ring0 0 [(8, 8, 64), (16, 8, 2 ^ 25)]) 0x60 ∧
    hostSends hosts (host0 0 [(8, 8, 64), (16, 8, 2 ^ 22)]) 0x61 := by
  unfold hostSends hostAsks
  decide +kernel

/-! Witnesses of the statements on registers, management and events. -/

theorem test_w_registers : hosts.host.fns.length = 13 ∧ hosts.parts.length = 12 ∧ barFull hosts = true ∧ winPart hosts 0 3 < 12 ∧
    winPart hosts 12 5 < 12 ∧ winPart hosts 12 0 < 12 ∧ barFull State.reset = false ∧ State.reset.boot.st ≠ .failed ∧
    reg64 hosts 12 0x100 = some 0 ∧ regServed hosts 0x100 = true ∧ (fnOf hosts 12).latch = none ∧ (fnOf State.reset 12).latch = none ∧
    (∀ fn ∈ [0, 12], (if fn = 0 then ((fnOf hosts 0).sel.getD 0 0).toNat else fn - 1) < 12) ∧
    (0 : Word32).toNat < (part (host1 (fun q => { q with rep := { q.rep with logSizeEff := 4096 } }) id) 0).rep.logSizeEff.toNat := by decide +kernel
/-- LatchedHalves: a register that a read clears, the first and the last 64-bit register of the window, and a latched half. -/
theorem test_w_latched_halves : (∀ off ∈ [0x8, 0x148, 0x14B8, 0x1C60], (reg64 hosts 0 off).any (fun v => decide (v < 2 ^ 64)) = true ∧
      regServed hosts off = true ∧ off % 8 = 0) ∧ (fnOf hosts 0).latch = none ∧
    (let s := host1 id (fun x => { x with fns := x.fns.map (fun f => { f with latch := some (0x104, 7) }) })
     (fnOf s 12).latch = some (0x104, 7) ∧ regServed s 0x104 = true) := by decide +kernel

/-- The key of a slot. -/
def key0 (i : Nat) : List Byte := List.replicate 31 0xA5 ++ [BitVec.ofNat 8 i]
/-- A message of a type to this module from fe80::3, authentic under the key of its slot. -/
def letter (typ slot flags n seq : Nat) (body : List Byte) : MsgArgs :=
  let m := leBytes 2 0x594E ++ [1] ++ leBytes 1 typ ++ leBytes 1 slot ++ leBytes 1 flags ++ leBytes 2 n ++ leBytes 8 seq ++ leBytes 8 0 ++
    leBytes 4 0x99 ++ leBytes 4 0 ++ body
  { src := [0xFE, 0x80] ++ List.replicate 13 0 ++ [3], port := 500, bytes := m ++ msgTag (key0 slot) m, dt := 0 }
/-- run0 with three keys and the last accepted number 7 of each slot. -/
def mgmt0 (f : Mgmt → Mgmt) : State :=
  { run0 with
    supplies := { run0.supplies with aon := true }, life := { run0.life with boots := 3 },
    mgmt := f { run0.mgmt with dup := false, keys := [some (key0 0), some (key0 1), some (key0 2), none], h := [7, 7, 7, 7],
                               coll := (List.range 4).map (fun c => { collectorReset with addr := [0xFE, 0x80] ++ List.replicate 13 0 ++ [BitVec.ofNat 8 c], port := 7, enable := true, st := c % 3, n := 2, open_ := [(2, [5])], sentTo := 5 }),
                               queue := [{ id := 6, ev := { time := 5, step := 0, die := 1, unit := 2, index := 0, cls := 3, code := 4, detail := 5 }, owed := 15 }] } }

theorem test_w_read : (let m := letter 1 1 0 1 8 (leBytes 2 0x2010 ++ leBytes 1 1 ++ leBytes 1 0)
     let s := mgmt0 (fun x => { x with coll := List.replicate 4 collectorReset })
     accepted s m 1 (key0 1) ∧ s.mgmt.h.length = 4 ∧ s.mgmt.reqs = [] ∧ 48 + ((readAnswer s (readItems ((m.bytes.drop 32).take 4))).map (·.length)).sum ≤ 1232) := by
  unfold accepted arrives macRight noStale
  decide +kernel
/-- No collector is STALE here. -/
def calmMail (reqs : List MgReq) : State := mgmt0 (fun x => { x with coll := x.coll.map (fun c => { c with st := c.st % 2 }), reqs := reqs })
/-- A request that waits. -/
def wait0 (read : Bool) (items : List WrItem) : MgReq := { read := read, src := [1], port := 4, slot := 0, flags := 1, seq := 5, reqId := 6, items := items }
/-- The item of a write. -/
def item0 (index sub typ : Nat) (val : List Byte) : WrItem := { index := index, sub := sub, typ := typ, val := val }
/-- The clock cap, 2,000 or 200 MHz. -/
def capItem (v : Nat) : List Byte := leBytes 2 0x2010 ++ leBytes 1 1 ++ leBytes 1 3 ++ leBytes 2 v

/-- ManagementRequests: too short, of another protocol, under the key of another slot and under a slot without a key, and with an old
number. -/
theorem test_w_datagrams : (let s := calmMail []
     s.supplies.aon = true ∧ s.mgmt.dup = false ∧ (letter 1 0 0 0 8 []).bytes.length = 48 ∧
       (let m := letter 1 0 0 0 8 []
        arrives s m 1 ∧ fieldAt m.bytes 4 1 ≠ 0xFF ∧ slotKey s 0 = some (key0 0) ∧
          msgTag (key0 0) ((m.bytes.take 32) ++ [1]) ≠ (m.bytes.drop 32) ∧ slotKey s 3 = none) ∧
       (let m := letter 1 0 0 0 7 []; arrives s m 1 ∧ macRight s m (key0 0) ∧ fieldAt m.bytes 8 8 ≤ nth s.mgmt.h 0) ∧ noStale s) := by
  unfold arrives macRight noStale
  decide +kernel
theorem test_w_writes : (∀ e ∈ [(2000, true), (200, false)], let m := letter 3 0 0 1 8 (capItem e.1)
     let s := calmMail []
     accepted s m 3 (key0 0) ∧ (reqOf m false).items.length = 1 ∧
       (((reqOf m false).items.map (writeStatus (numbered s m) 0 false)).all (fun x => x = 0) = e.2)) ∧
    (calmMail [wait0 true []]).mgmt.reqs ≠ [] := by
  unfold accepted arrives macRight noStale
  decide +kernel

theorem test_w_ticks : headWaits (calmMail [wait0 true [item0 0x1000 1 5 []]]) (wait0 true [item0 0x1000 1 5 []]) ∧
    48 + ((readAnswer (calmMail []) [item0 0x1000 1 5 []]).map (·.length)).sum ≤ 1232 ∧
    headWaits (calmMail [wait0 false [item0 0x2010 1 3 (leBytes 2 1200)]]) (wait0 false [item0 0x2010 1 3 (leBytes 2 1200)]) ∧
    (1200 : BitVec 16).toNat ≤ 3000 ∧ (calmMail []).mgmt.reqs = [] := by
  unfold headWaits
  decide +kernel
theorem test_w_burn : (let r := wait0 false [item0 0x5030 4 12 (key0 9)]
     let s := calmMail [r]
     headWaits s r ∧ r.flags % 2 = 1 ∧ (key0 9).length = 32 ∧ writeStatus s 0 true (item0 0x5030 4 12 (key0 9)) = 0) := by
  unfold headWaits
  decide +kernel
theorem test_w_acks : (∀ e ∈ [3, 4], let m := letter 6 0 0 0 8 (leBytes 8 (e * 2 ^ 32 + 2))
     let s := calmMail []
     accepted s m 6 (key0 0) ∧ s.mgmt.coll.length = 4 ∧ leNat ((m.bytes.drop 32).take 8) / 2 ^ 32 = e ∧ s.life.boots = 3) ∧
    (collAt (calmMail []) 3).addr = (letter 6 0 0 0 8 []).src ∧ (collAt (calmMail []) 0).addr ≠ (letter 6 0 0 0 8 []).src := by
  unfold accepted arrives macRight noStale
  decide +kernel
/-- The body of a KEY_SET of key 9 for a slot, by a slot, with number 8. -/
def keyBody (slot target : Nat) : List Byte :=
  leBytes 1 target ++ leBytes 7 0 ++
    List.zipWith (· ^^^ ·) (key0 9) (hmacSha256 (key0 slot) (asciiBytes "NYLYN-KEY" ++ leBytes 8 8 ++ leBytes 1 target))
/-- With the hash of key 9 in the fuses of slot 3. -/
def keys0 : State :=
  let s := calmMail []
  let fu := memWrite fuseReset (0x720 + 96) (sha256 (key0 9))
  { s with boot := { s.boot with fuse := fu, copy := fu } }
theorem test_w_keys : (∀ e ∈ [(0, 3, true), (0, 1, false), (1, 3, true)], let m := letter 8 e.1 0 1 8 (keyBody e.1 e.2.1)
     accepted keys0 m 8 (key0 e.1) ∧ fieldAt m.bytes 32 1 = e.2.1 ∧
       (sha256 (key0 9) = memRead keys0.boot.fuse (0x720 + 32 * e.2.1) 32 ↔ e.2.2 = true) ∧ slotRevoked keys0 e.2.1 = false) := by
  unfold accepted arrives macRight noStale
  decide +kernel
theorem test_w_collectors : (let s := mgmt0 id
     s.mgmt.coll.length = 4 ∧ (∀ e ∈ [(0, 0), (1, 1), (2, 2), (3, 0)], (collAt s e.1).st = e.2) ∧
       (((s.mgmt.queue.filter (fun r => r.owed.getLsbD 1 && decide ((collAt s 1).sentTo < r.id))).map (·.id)).take 32) = [6] ∧
       (slotKey s (collAt s 1).slot).isSome = true ∧ (collAt s 1).open_ = [(2, [5])]) ∧
    (let s := mgmt0 (fun x => { x with queue := [], coll := x.coll.map (fun c => { c with open_ := [] }) })
     (collAt s 1).open_ = [] ∧ s.mgmt.queue = []) := by decide +kernel

/-- Events: one of severity 2 that a function receives, one of severity below 2. -/
theorem test_w_events : hosts.supplies.mainOn = true ∧ 2 ≤ evSeverity 0x05BD ∧ evSeverity 0x05BD < 16 ∧ hosts.life.log.length < 4096 ∧
    evSeverity 0x02E0 < 2 ∧ fnReceives hosts (mkEvent hosts srcFw 0 0x05BD 0) 12 = false := by decide +kernel

/-- CommandsGoOn, QueueOrder, StepKeepsInv, FusesStayBurned: a module whose fuses are blank, with a command that waits. -/
def small0 : State := { State.reset with boot := { bootReset with fuse := [], copy := [] }, pending := [.retire 0 0 7] }
theorem test_w_commands : (Instr.retire 11 7 7).wf = true ∧ Sys2Proof.Machine.Inv small0 ∧ (∃ t, step small0 = .next t) ∧
    Sys2Proof.Machine.Inv { small0 with pending := [] } :=
  ⟨by decide, by unfold Sys2Proof.Machine.Inv; decide +kernel, ⟨_, rfl⟩, by unfold Sys2Proof.Machine.Inv; decide +kernel⟩

/-! Well-formedness: one ill-formed command for each check, and what exec says of one. -/

theorem test_wf_units : (Instr.stepEnd 12).wf = false ∧ (Instr.clusterFail 480).wf = false ∧ (Instr.laneFail 24 0).wf = false ∧
    (Instr.logTailWrite 13 0).wf = false ∧ (Instr.bridgeLoss 60).wf = false ∧ (Instr.bridgeLaneFail 0 4).wf = false ∧
    (Instr.stepEntryFetch 8192).wf = false := by decide
theorem test_wf_lengths : (Instr.time { wire flit0 with sym := [0] }).wf = false ∧ (Instr.readReq { src := [], port := 0, bytes := [], dt := 0 }).wf = false ∧
    (Instr.startPhaseTimeout 9).wf = false ∧ (Instr.gets 0 4 0).wf = false ∧ (Instr.rcRead 0 0x144 2).wf = false ∧
    (Instr.bar4Read 0 0 0).wf = false ∧ (Instr.bar4Write 0 0 []).wf = false ∧
    (Instr.svLoad { fn := 13, mbox := true, tag := 0, args := 0 }).wf = false := by decide +kernel
theorem test_wf_start : startOk { rings := [], thetas := [], vmins := [], failed := 0, packKey := 0, models := [], dt := 0 } = false := by decide
theorem test_wf_faults : exec (.stepEnd 12) State.reset = .fault .noSuchUnit ∧ exec (.laneFail 24 0) State.reset = .fault .noSuchUnit :=
  ⟨rfl, rfl⟩

/-! Worked examples of the spec. -/

/-- 09, after R284: the block of the zero counter and key. -/
theorem test_ex_philox : philox { w0 := 0, w1 := 0, w2 := 0, w3 := 0 } 0 0 =
    { w0 := 0x6627E8D5, w1 := 0xE169C58D, w2 := 0xBC57AC4C, w3 := 0x9B00DBD8 } := by decide +kernel

/-- 04, a convolution: vector 37 of tap (1, 2) of tile 1; vector 0 of tap (0, 0) of tile 0 has no element. -/
theorem test_ex_walk :
    (let w := agWalk { base := 0x0006000000040000, loop := 0x0001000100080010, pitch := 0x0100080001000080, coord := 0x0010001000080001, stride := 0 } 0 37 8 32
     w.addr = 0x45300 ∧ w.saddr = 0x60298 ∧ w.valid = true) ∧
    (agWalk { base := 0x0006000000040000, loop := 0x0001000100080010, pitch := 0x0100080001000080, coord := 0x00100010FFFFFFFF, stride := 0 } 0 0 8 32).valid = false := by
  decide +kernel

/-- 12, the route example: the hops of 0xB89 are port 9 and half-port 14b, and the second is entry 1. -/
theorem test_ex_path : pathEntry 0xB89 0 = 9 ∧ pathEntry 0xB89 1 = 0x2E ∧ pathEntry 0x140CA 1 = 3 ∧ pathEntry 0x140CA 2 = 20 ∧
    (let f := { flit0 with path := 0x0021000000000B89 }; pathHop f = 1 ∧ pathN f = 2) := by decide

/-- 12, the route example: the intermediate module sends the flit on by half-port 14b with `hop` 2. -/
theorem test_ex_forward : (let f := { flit0 with path := 0x0021000000000B89 }
     match exec (.flitForward (wire f)) { wires with ports := List.replicate 24 { lkPortReset with splitAct := true, a := link0, b := link0 } } with
     | .next t => (outgoing t 14 true).any (fun g => g.path == 0x0022000000000B89 && g.payload == f.payload) | _ => false) = true := by decide +kernel

/-- 11, one update: the group of four elements, with its gradients, and with the norm that MEASURE leaves. -/
def update0 (phase : Nat) : State :=
  let put (m : Mem 8) (e : Nat × List Byte) : Mem 8 := memWrite m (protOff e.1) e.2
  let s := upd0 phase true false false
  { s with parts := s.parts.map (fun q => { q with hbm :=
      [(0x1000, upGroup), (0x2000, leBytes 8 4 ++ leBytes 8 0x6000 ++ leBytes 8 0x7000 ++ leBytes 8 0x80000 ++ leBytes 8 0 ++ leBytes 1 1 ++
          leBytes 1 0 ++ leBytes 2 7 ++ leBytes 4 0x3F200000),
        (0x3008, leBytes 4 0x3F800000 ++ leBytes 4 0x3F800000), (0x4000, if phase = 1 then normRecord (25 * 2 ^ 298) 0 4 else []),
        (0x6000, leBytes 4 0x3F800000 ++ leBytes 4 0xC0000000 ++ leBytes 4 0x3F000000),
        (0x7000, leBytes 4 0x40800000 ++ leBytes 4 0xC0400000)].foldl put [] }) }
def after (i : Instr) (s : State) (f : Partition → Bool) : Bool := match exec i s with | .next t => f (part t 0) | _ => false
/-- MEASURE adds 25·2^298: limb 7 holds 0x640000; `nonfin` 0, `elems` 4. -/
theorem test_ex_measure : after (.measure 0 0) (update0 0) (fun q =>
    memRead q.hbm (protOff 0x4000 + 56) 8 == leBytes 8 0x640000 && memRead q.hbm (protOff 0x4000 + 128) 16 == leBytes 8 0 ++ leBytes 8 4) = true := by
  decide +kernel
/-- APPLY: the answer, the four masters, their BF16 copies, and the record's norm, history and clip count. -/
theorem test_ex_apply : after (.apply 0 0) (update0 1) (fun q =>
    (q.upd.answers.map (fun (a : UpdAnswer) => a.words) == [[0x0000010040A00000]]) &&
    (words32 4 (memRead q.hbm (protOff 0x6000) 16) == [0x3F7BC000, 0xBFFDC000, 0x3EFFC000, 0]) &&
    (memRead q.hbm 0x80000 8 == leBytes 2 0x3F7C ++ leBytes 2 0xBFFE ++ leBytes 2 0x3F00 ++ leBytes 2 0) &&
    (memRead q.hbm (protOff 0x3000) 16 == leBytes 8 1 ++ leBytes 4 0x3F000000 ++ leBytes 4 0x3F400000) &&
    (memRead q.hbm (protOff 0x3000 + 32) 12 == leBytes 4 0x40A00000 ++ leBytes 4 1 ++ leBytes 4 0x40A00000)) = true := by
  decide +kernel

/-- 19, after R639: points 8 and 4 of the plan, and the cluster of wear 1,400. -/
theorem test_ex_plan : planPoint 8 1520 82 27 650 = 112 ∧ planPoint 4 1060 82 27 650 = 80 ∧ worn 1520 1400 - 27 = 974 := by decide +kernel

/-- 19, three dips: the release at 9.604 ms after a hold at 4 µs with 41.8 V as the lowest; its event has detail 0xA348_0000_2580. -/
theorem test_ex_dip : (let s := host1 id (fun x => { x with fns := x.fns.map (fun f => { f with evtSize := 64, evtBaseEff := 0x60000 }) })
     match exec (.mainAboveResume 45001 41800 0) { s with
       supplies := { s.supplies with supply := .hold, holdAt := 4000, holdMv := 43900, warnMv := 44000 }, life := { s.life with clock := 9604000 } } with
     | .next t => (decide (t.supplies.supply = .normal)) && (memRead t.host.mem 0x60016 10 == leBytes 2 0x08E5 ++ leBytes 8 0xA34800002580)
     | _ => false) = true := by decide +kernel

/-- 00, the notation: -7 >> 1, -7 // 2 and 300 wrapped to 8 bits. -/
theorem test_ex_numbers : shrInt (-7) 1 = -4 ∧ wrapU 8 300 = 44 := by decide +kernel

/-- ADD of the largest value and 1 gives 0 and leaves its sources. -/
theorem test_add_wraps : after (.add 0 sc0)
    (onCl (fun c => { c with core := { c.core with scalar := { c.core.scalar with g := (c.core.scalar.g.set 2 (BitVec.allOnes 64)).set 3 1 } } }))
    (fun q => q.clusters.all (fun c => c.core.scalar.g.getD 1 7 == 0 && c.core.scalar.g.getD 3 0 == 1)) = true := by decide +kernel

end Sys2Proof.Tests
end

section
/-! SUPPORT. Outcomes of commands: a command that names a unit of the module goes on, another stops (log entry 18). -/

namespace Sys2Proof.Machine

/-- A command that names a unit of the module goes on. -/
theorem onUnit_of_true {b : Bool} (h : b = true) (t : State) : onUnit b t = .next t := by
  rw [h]; rfl

/-- A command that names no unit of the module stops. -/
theorem onUnit_of_false {b : Bool} (h : b = false) (t : State) : onUnit b t = .fault .noSuchUnit := by
  rw [h]; rfl

/-- A bridge command stops where its group lies beyond those of its bridge (01, R18). -/
theorem exec_bridgeGroupLoss_noSuchUnit {s : State} {b g : Nat} (h : (s.grid.bridges.getD b (bridgeOf 0)).groups.length ≤ g) :
    exec (.bridgeGroupLoss b g) s = .fault .noSuchUnit := onUnit_of_false (decide_eq_false (Nat.not_lt.2 h)) _

/-- Refutes O57: bridge 59 is one of the T-die ring, which has one group (01, R18), and a well-formed BRIDGE_GROUP_LOSS may
name any of groups 0 to 3. In the reset state the one that names group 3 of bridge 59 stops with noSuchUnit. -/
theorem not_commandsGoOn : ¬ Obligations.CommandsGoOn := by
  unfold Obligations.CommandsGoOn
  intro h
  have hwf : (Instr.bridgeGroupLoss 59 3).wf = true := by decide
  have hgroups : (State.reset.grid.bridges.getD 59 (bridgeOf 0)).groups.length ≤ 3 := by decide
  have hfault := exec_bridgeGroupLoss_noSuchUnit hgroups
  rcases (h State.reset (.bridgeGroupLoss 59 3)).2 hwf with ⟨t, hnext⟩ | ⟨hrow, _⟩
  · rw [hfault] at hnext
    cases hnext
  · cases hrow

end Sys2Proof.Machine
end

section
/-! SUPPORT. Words: halves of a 64-bit register, and the legal sizes of a ring. -/

namespace Sys2Proof.Machine

/-- The bits of a number whose low half is replaced. -/
theorem testBit_setBits_low (x v i : Nat) : (setBits x 0 32 v).testBit i = if i < 32 then v.testBit i else x.testBit i := by
  have hparts : setBits x 0 32 v = 2 ^ 32 * (x / 2 ^ 32) + v % 2 ^ 32 := by
    unfold setBits bits
    omega
  rw [hparts, Nat.testBit_two_pow_mul_add _ (Nat.mod_lt _ (by decide)), Nat.testBit_mod_two_pow, Nat.testBit_div_two_pow]
  split
  · rename_i h; rw [decide_eq_true h, Bool.true_and]
  · rw [show i - 32 + 32 = i by omega]

/-- The bits of a 64-bit number whose high half is replaced. -/
theorem testBit_setBits_high {x : Nat} (hx : x < 2 ^ 64) (v i : Nat) :
    (setBits x 32 32 v).testBit i = if i < 32 then x.testBit i else decide (i - 32 < 32) && v.testBit (i - 32) := by
  have hparts : setBits x 32 32 v = 2 ^ 32 * (v % 2 ^ 32) + x % 2 ^ 32 := by
    unfold setBits bits
    omega
  rw [hparts, Nat.testBit_two_pow_mul_add _ (Nat.mod_lt _ (by decide)), Nat.testBit_mod_two_pow, Nat.testBit_mod_two_pow]
  split
  · rename_i h; rw [decide_eq_true h, Bool.true_and]
  · rfl

theorem getLsbD_lowMask (i : Nat) : (BitVec.ofNat 64 (2 ^ 32 - 1)).getLsbD i = decide (i < 32) := by
  rw [BitVec.getLsbD_ofNat, Nat.testBit_two_pow_sub_one, ← Bool.decide_and, decide_eq_decide]
  omega

theorem getLsbD_highMask (i : Nat) : (BitVec.ofNat 64 ((2 ^ 32 - 1) <<< 32)).getLsbD i = decide (32 ≤ i ∧ i < 64) := by
  rw [BitVec.getLsbD_ofNat, Nat.testBit_shiftLeft, Nat.testBit_two_pow_sub_one, ← Bool.decide_and, ← Bool.decide_and,
    decide_eq_decide]
  omega

/-- A 64-bit register whose low half is written keeps its high half. -/
theorem ofNat_setBits_low (x v : Word64) :
    BitVec.ofNat 64 (setBits x.toNat 0 32 (v.toNat % 2 ^ 32)) = (x &&& 0xFFFFFFFF00000000) ||| (v &&& 0xFFFFFFFF) := by
  change _ = (x &&& BitVec.ofNat 64 ((2 ^ 32 - 1) <<< 32)) ||| (v &&& BitVec.ofNat 64 (2 ^ 32 - 1))
  apply BitVec.eq_of_getLsbD_eq
  intro i hi
  rw [BitVec.getLsbD_ofNat, testBit_setBits_low, Nat.testBit_mod_two_pow, BitVec.getLsbD_or, BitVec.getLsbD_and,
    BitVec.getLsbD_and, getLsbD_lowMask, getLsbD_highMask]
  by_cases h : i < 32
  · simp [h, hi, Nat.not_le.2 h, BitVec.getLsbD]
  · simp [h, hi, Nat.not_lt.1 h, BitVec.getLsbD]

/-- A 64-bit register whose high half is written keeps its low half. -/
theorem ofNat_setBits_high (x v : Word64) :
    BitVec.ofNat 64 (setBits x.toNat 32 32 (v.toNat % 2 ^ 32)) = (x &&& 0xFFFFFFFF) ||| (v <<< 32) := by
  change _ = (x &&& BitVec.ofNat 64 (2 ^ 32 - 1)) ||| (v <<< 32)
  apply BitVec.eq_of_getLsbD_eq
  intro i hi
  rw [BitVec.getLsbD_ofNat, testBit_setBits_high x.isLt, Nat.testBit_mod_two_pow, BitVec.getLsbD_or, BitVec.getLsbD_and,
    getLsbD_lowMask, BitVec.getLsbD_shiftLeft]
  by_cases h : i < 32
  · simp [h, hi, BitVec.getLsbD]
  · have hhigh : i - 32 < 32 := by omega
    simp [h, hi, hhigh, BitVec.getLsbD]

/-- The powers of two between two powers of two, with the exponent counted from the lower one. -/
theorem pow2In_iff (v a n : Nat) : pow2In v (2 ^ a) (2 ^ (a + n)) = true ↔ ∃ e, e ≤ n ∧ v = 2 ^ (a + e) := by
  unfold pow2In
  simp only [Bool.and_eq_true, decide_eq_true_eq, and_assoc]
  constructor
  · rintro ⟨hlo, hhi, hv⟩
    rw [← hv] at hlo hhi
    have h1 := (Nat.pow_le_pow_iff_right (by decide)).1 hlo
    have h2 := (Nat.pow_le_pow_iff_right (by decide)).1 hhi
    exact ⟨Nat.log2 v - a, by omega, by rw [show a + (Nat.log2 v - a) = Nat.log2 v by omega, hv]⟩
  · rintro ⟨e, he, rfl⟩
    exact ⟨Nat.pow_le_pow_right (by decide) (by omega), Nat.pow_le_pow_right (by decide) (by omega), by rw [Nat.log2_two_pow]⟩

/-- Zero and the powers of two from 2^a to 2^(a + n). -/
def ringSizes (a n : Nat) : List Nat := 0 :: (List.range (n + 1)).map (fun e => 2 ^ (a + e))

/-- The legal sizes of a ring are the ones listed. -/
theorem ringSize_legal (v a n : Nat) :
    (decide (v = 0) || pow2In v (2 ^ a) (2 ^ (a + n))) = (ringSizes a n).contains v := by
  rw [Bool.eq_iff_iff]
  simp only [Bool.or_eq_true, decide_eq_true_eq, pow2In_iff, ringSizes, List.contains_iff_mem, List.mem_cons, List.mem_map,
    List.mem_range, Nat.lt_succ_iff]
  simp only [eq_comm]

theorem cmdSize_legal (v : Nat) :
    (decide (v = 0) || pow2In v 16 4096) = [0, 16, 32, 64, 128, 256, 512, 1024, 2048, 4096].contains v := ringSize_legal v 4 8

theorem evtSize_legal (v : Nat) :
    (decide (v = 0) || pow2In v 64 65536) =
      [0, 64, 128, 256, 512, 1024, 2048, 4096, 8192, 16384, 32768, 65536].contains v := ringSize_legal v 6 10

end Sys2Proof.Machine
end

section
/-! SUPPORT. BAR0 registers: one rule for each register that a write or a read reaches, and O50 from them. -/

namespace Sys2Proof.Machine

/-! ## A function's record and a partition after a change -/

/-- Two changes of a function that agree on its record as it stands. -/
theorem withFn_congr (s : State) (k : Nat) (f g : Fn → Fn) (h : f (fnOf s k) = g (fnOf s k)) : withFn s k f = withFn s k g := by
  unfold withFn
  rw [updAt_congr s.host.fns k f g fnReset h]

/-- The function that changed. -/
theorem fnOf_withFn {s : State} {k : Nat} (hk : k < s.host.fns.length) (f : Fn → Fn) :
    fnOf (withFn s k f) k = f (fnOf s k) := by
  unfold fnOf withFn
  rw [updAt_getD, if_pos ⟨rfl, hk⟩]

/-- Two changes of one function. -/
theorem withFn_withFn (s : State) (k : Nat) (f g : Fn → Fn) : withFn (withFn s k f) k g = withFn s k (fun x => g (f x)) := by
  simp only [withFn, updAt_updAt]

/-- What a change of one of the twelve partitions gives: that one as changed, the others as they were. -/
theorem withPart_changes {s : State} {p : Nat} (hp : p < 12) (hs : s.parts.length = 12) (f : Partition → Partition) :
    (∀ j, j < 12 → j ≠ p → part (withPart s p f) j = part s j) ∧ part (withPart s p f) p = f (part s p) :=
  ⟨fun j _ hj => part_withPart_ne s p j f hj.symm, part_withPart s p f (hs ▸ hp)⟩

/-! ## Which offsets are served (20, R654) -/

/-- Firmware that answers every register answers the rings. -/
theorem ringsServed_of_barFull {s : State} (h : barFull s = true) : ringsServed s = true := by
  unfold ringsServed
  rw [h, Bool.true_or]

theorem mainOn_of_barFull {s : State} (h : barFull s = true) : s.supplies.mainOn = true := by
  unfold barFull at h
  exact (Bool.and_eq_true_iff.1 h).1

theorem regServed_of_barFull {s : State} (h : barFull s = true) (off : Nat) : regServed s off = true := by
  unfold regServed
  rw [mainOn_of_barFull h, h, Bool.or_true, Bool.true_or, Bool.true_and]

/-- Before firmware answers, and outside FAILED, nothing above the identity range is served. -/
theorem regServed_eq_false {s : State} (h : barFull s = false) (hf : s.boot.st ≠ .failed) {off : Nat} (ho : 0x100 ≤ off) :
    regServed s off = false := by
  unfold regServed
  simp only [h, hf, Nat.not_lt.2 ho, decide_false, Bool.or_false, Bool.false_and, Bool.and_false]

/-! ## BAR0 writes (17, R562) -/

theorem exec_registerWrite {k : Nat} (hk : k < 13) (s : State) (off : BitVec 16) (w : WriteArgs) :
    exec (.registerWrite k off w) s = .next (barWrite s k off.toNat w) := onUnit_of_true (decide_eq_true hk) _

/-- Nothing is written where firmware does not answer. -/
theorem barWrite_of_not_barFull {s : State} (h : barFull s = false) (hf : s.boot.st ≠ .failed) (k off : Nat) (w : WriteArgs) :
    barWrite s k off w = s := by
  unfold barWrite
  simp only [h, hf, decide_false, Bool.or_false, Bool.and_false, Bool.not_false, if_true]

/-- The identity range takes no write. -/
theorem barWrite_identity {off : Nat} (ho : off < 0xC0) (s : State) (k : Nat) (w : WriteArgs) : barWrite s k off w = s := by
  unfold barWrite
  simp only [Nat.not_le.2 ho, decide_false, Bool.false_and, Bool.and_false, Bool.not_false, if_true]

/-- A misaligned write is ignored (log entry 59). -/
theorem barWrite_misaligned {off : Nat} {w : WriteArgs} (h : off % 4 ≠ 0 ∨ (w.wide = true ∧ off % 8 ≠ 0)) (s : State) (k : Nat) :
    barWrite s k off w = s := by
  unfold barWrite
  cases hw : w.wide with
  | false =>
    have h4 : off % 4 ≠ 0 := by simpa [hw] using h
    simp only [Bool.not_false, if_true, h4, if_false, ite_self]
  | true =>
    have h8 : (off % 8 != 0) = true := by
      simp only [hw, true_and] at h
      simp only [bne_iff_ne, ne_eq]
      omega
    simp only [Bool.not_true, Bool.false_eq_true, if_false, h8, if_true, ite_self]

/-- A write of 8 bytes to a 64-bit register. -/
theorem barWrite_wide {s : State} (h : barFull s = true) {k off x : Nat} (ho : 0xC0 ≤ off) (h8 : off % 8 = 0)
    (hr : reg64 s k off = some x) {w : WriteArgs} (hw : w.wide = true) : barWrite s k off w = write64 s k off w.v.toNat := by
  unfold barWrite
  simp [regServed_of_barFull h, h, ho, h8, hr, hw]

/-- A write of 4 bytes. -/
theorem barWrite_narrow {s : State} (h : barFull s = true) {k off : Nat} (ho : 0xC0 ≤ off) (h4 : off % 4 = 0)
    {w : WriteArgs} (hw : w.wide = false) : barWrite s k off w = writeWord s k off (w.v.toNat % 2 ^ 32) := by
  unfold barWrite
  simp only [regServed_of_barFull h, h, ho, h4, hw, decide_true, Bool.true_or, Bool.and_self, Bool.not_true, Bool.not_false,
    Bool.false_eq_true, if_false, if_true]

/-- A write of 4 bytes to the low half of a 64-bit register. -/
theorem writeWord_low {s : State} {k off x : Nat} (hr : reg64 s k off = some x) (v : Nat) :
    writeWord s k off v = write64 s k off (setBits (otherHalf s k off) 0 32 v) := by
  unfold writeWord
  rw [hr]

/-- A write of 4 bytes to the high half of the 64-bit register at `off`. -/
theorem writeWord_high {s : State} {k off x : Nat} (hr : reg64 s k off = some x) (hn : reg64 s k (off + 4) = none)
    (h8 : off % 8 = 0) (v : Nat) :
    writeWord s k (off + 4) v = write64 s k off (setBits (otherHalf s k off) 32 32 v) := by
  have h4 : (off + 4) % 8 = 4 := by omega
  unfold writeWord
  simp [hn, h4, hr]

/-- A write of 4 bytes to a 32-bit register. -/
theorem writeWord_plain {s : State} {k off : Nat} (hn : reg64 s k off = none) (hl : off % 8 = 4 → reg64 s k (off - 4) = none)
    (v : Nat) : writeWord s k off v = write32 s k off v := by
  have hhigh : (decide (off % 8 = 4) && (reg64 s k (off - 4)).isSome) = false := by
    by_cases h : off % 8 = 4
    · rw [hl h, Option.isSome_none, Bool.and_false]
    · rw [decide_eq_false h, Bool.false_and]
  unfold writeWord
  simp only [hn, hhigh, Bool.false_eq_true, if_false]

/-- A write of 4 bytes by a function to a 32-bit register of the emulated window. -/
theorem exec_registerWrite_reg32 {s : State} (h : barFull s = true) {k : Nat} (hk : k < 13) {off : BitVec 16}
    (ho : 0xC0 ≤ off.toNat) (h4 : off.toNat % 4 = 0) (hn : reg64 s k off.toNat = none)
    (hl : off.toNat % 8 = 4 → reg64 s k (off.toNat - 4) = none) {w : WriteArgs} (hw : w.wide = false) :
    exec (.registerWrite k off w) s = .next (write32 s k off.toNat (w.v.toNat % 2 ^ 32)) := by
  rw [exec_registerWrite hk, barWrite_narrow h ho h4 hw, writeWord_plain hn hl]

/-- A write of 8 bytes by a function to a 64-bit register of the emulated window. -/
theorem exec_registerWrite_reg64 {s : State} (h : barFull s = true) {k x : Nat} (hk : k < 13) {off : BitVec 16}
    (ho : 0xC0 ≤ off.toNat) (h8 : off.toNat % 8 = 0) (hr : reg64 s k off.toNat = some x) {w : WriteArgs} (hw : w.wide = true) :
    exec (.registerWrite k off w) s = .next (write64 s k off.toNat w.v.toNat) := by
  rw [exec_registerWrite hk, barWrite_wide h ho h8 hr hw]

/-! ### The registers of a function -/

section
variable {s : State} {k : Nat} {w : WriteArgs} (h : barFull s = true) (hk : k < 13)
include h hk

theorem exec_write_cmdBase (hw : w.wide = true) :
    exec (.registerWrite k 0x100 w) s = .next (withFn s k (fun f => { f with cmdBase := w.v })) := by
  rw [exec_registerWrite_reg64 h hk (by decide) (by decide) (x := (fnOf s k).cmdBase.toNat) rfl hw]
  change Host.Outcome.next (withFn s k _) = _
  rw [BitVec.ofNat_toNat, BitVec.setWidth_eq]

theorem exec_write_cplBase (hw : w.wide = true) :
    exec (.registerWrite k 0x118 w) s = .next (withFn s k (fun f => { f with cplBase := w.v })) := by
  rw [exec_registerWrite_reg64 h hk (by decide) (by decide) (x := (fnOf s k).cplBase.toNat) rfl hw]
  change Host.Outcome.next (withFn s k _) = _
  rw [BitVec.ofNat_toNat, BitVec.setWidth_eq]

theorem exec_write_evtBase (hw : w.wide = true) :
    exec (.registerWrite k 0x120 w) s = .next (withFn s k (fun f => { f with evtBase := w.v })) := by
  rw [exec_registerWrite_reg64 h hk (by decide) (by decide) (x := (fnOf s k).evtBase.toNat) rfl hw]
  change Host.Outcome.next (withFn s k _) = _
  rw [BitVec.ofNat_toNat, BitVec.setWidth_eq]

/-- A write of the low half of EVT_BASE keeps its high half. -/
theorem exec_write_evtBase_low (hw : w.wide = false) :
    exec (.registerWrite k 0x120 w) s =
      .next (withFn s k (fun f => { f with evtBase := (f.evtBase &&& 0xFFFFFFFF00000000) ||| (w.v &&& 0xFFFFFFFF) })) := by
  have hr : reg64 s k 0x120 = some (fnOf s k).evtBase.toNat := rfl
  rw [exec_registerWrite hk]
  change Host.Outcome.next (barWrite s k 0x120 w) = _
  rw [barWrite_narrow h (by decide) (by decide) hw, writeWord_low hr]
  refine congrArg Host.Outcome.next (withFn_congr s k _ _ ?_)
  rw [← ofNat_setBits_low]
  rfl

/-- A write of the high half of EVT_BASE keeps its low half. -/
theorem exec_write_evtBase_high (hw : w.wide = false) :
    exec (.registerWrite k 0x124 w) s =
      .next (withFn s k (fun f => { f with evtBase := (f.evtBase &&& 0xFFFFFFFF) ||| (w.v <<< 32) })) := by
  have hr : reg64 s k 0x120 = some (fnOf s k).evtBase.toNat := rfl
  rw [exec_registerWrite hk]
  change Host.Outcome.next (barWrite s k (0x120 + 4) w) = _
  rw [barWrite_narrow h (by decide) (by decide) hw, writeWord_high hr rfl (by decide)]
  refine congrArg Host.Outcome.next (withFn_congr s k _ _ ?_)
  rw [← ofNat_setBits_high]
  rfl

theorem exec_write_evtFilter (hw : w.wide = false) :
    exec (.registerWrite k 0x134 w) s =
      .next (withFn s k (fun f => { f with evtFilter := BitVec.ofNat 32 (w.v.toNat % 16) })) := by
  rw [exec_registerWrite_reg32 h hk (by decide) (by decide) rfl (fun _ => rfl) hw]
  change Host.Outcome.next (withFn s k (fun f => { f with evtFilter := BitVec.ofNat 32 (w.v.toNat % 2 ^ 32 % 16) })) = _
  rw [Nat.mod_mod_of_dvd _ (by decide : 16 ∣ 2 ^ 32)]

/-! ### PW_CAP, LK_JOB and CK_TIMEOUT -/

/-- A write of PW_CAP, as the power window takes it. -/
theorem exec_write_cap (v : Word64) :
    exec (.registerWrite k 0x1C00 { wide := false, v := v }) s = .next (pwWrite s k 0x1C00 (v.toNat % 2 ^ 32)) :=
  exec_registerWrite_reg32 h hk (by decide) (by decide) rfl (fun _ => rfl) rfl

/-- A write of LK_JOB: ignored, and noted, under an active job (12, R417). -/
theorem exec_write_lkJob (v : Word64) :
    exec (.registerWrite k 0x2408 { wide := false, v := v }) s = .next (withPart s (winPart s k 3) (fun q =>
      { q with
        lk := if jobActive (part s (winPart s k 3)) then { q.lk with pflags := q.lk.pflags ||| 1 }
              else { q.lk with job := BitVec.ofNat 32 (v.toNat % 65536) } })) := by
  have hmod : v.toNat % 2 ^ 32 % 2 ^ 16 = v.toNat % 65536 := Nat.mod_mod_of_dvd _ (by decide : 2 ^ 16 ∣ 2 ^ 32)
  rw [exec_registerWrite_reg32 h hk (by decide) (by decide) rfl (fun _ => rfl) rfl, ← hmod]
  rfl

/-- A write of CK_TIMEOUT: ignored outside its range (16, R551; log entry 59). -/
theorem exec_write_ckTimeout (v : Word64) :
    exec (.registerWrite k 0x180C { wide := false, v := v }) s =
      .next (if 1000 ≤ v.toNat % 2 ^ 32 ∧ v.toNat % 2 ^ 32 ≤ 3600000 then
          withCk s (winPart s k 5) (fun c => { c with timeout := BitVec.ofNat 32 (v.toNat % 2 ^ 32) })
        else s) := by
  rw [exec_registerWrite_reg32 h hk (by decide) (by decide) rfl (fun _ => rfl) rfl]
  change Host.Outcome.next (ckWrite s k (winPart s k 5) 0x180C (v.toNat % 2 ^ 32)) = _
  simp only [ckWrite, Bool.and_eq_true, decide_eq_true_eq]

end

/-- PW_CAP takes a cap from 1,200 W to 3,000 W (19, R645). -/
theorem pwWrite_cap_inRange (s : State) (v : Nat) (hc : 1200 ≤ v % 4096 ∧ v % 4096 ≤ 3000) :
    pwWrite s 0 0x1C00 v = withGov s (fun g => { g with cap := v % 4096 }) := by
  simp [pwWrite, hc]

/-- A cap outside the range is refused with a note in PW_STATUS (19, R645). -/
theorem pwWrite_cap_outOfRange (s : State) (v : Nat) (hc : v % 4096 < 1200 ∨ 3000 < v % 4096) :
    pwWrite s 0 0x1C00 v = withGov s (fun g => { g with status := g.status ||| 0x80000 }) := by
  have hn : ¬ (1200 ≤ v % 4096 ∧ v % 4096 ≤ 3000) := by omega
  simp [pwWrite, hn, pwNote]

/-- The power window takes no write of a virtual function (19, R645). -/
theorem pwWrite_virtual {k : Nat} (hk : k ≠ 0) (s : State) (off v : Nat) : pwWrite s k off v = s := by
  unfold pwWrite
  rw [if_pos (bne_iff_ne.2 hk)]

/-! ## BAR0 reads (02, R87; 17, R562) -/

theorem exec_lowHalfRead {k : Nat} (hk : k < 13) (s : State) (off : BitVec 16) (n : BitVec 4) :
    exec (.lowHalfRead k off n) s = .next (barRead s k off.toNat n.toNat) := onUnit_of_true (decide_eq_true hk) _

theorem exec_rcRead {k : Nat} (hk : k < 13) (s : State) (off : BitVec 16) (n : BitVec 4) :
    exec (.rcRead k off n) s = .next (barRead s k off.toNat n.toNat) := onUnit_of_true (decide_eq_true hk) _

/-- The state after a read has answered. -/
def withAnswer (s : State) (d : List Byte) : State := { s with host := { s.host with lastRead := some (.data d) } }

theorem answered_withAnswer (s : State) (d : List Byte) : answered (withAnswer s d) d := rfl
theorem fnOf_withAnswer (s : State) (d : List Byte) (k : Nat) : fnOf (withAnswer s d) k = fnOf s k := rfl

/-- A read of 4 aligned bytes answers the word. -/
theorem barRead_four {off : Nat} (h4 : off % 4 = 0) (s : State) (k : Nat) :
    barRead s k off 4 = withAnswer (readWord s k off).2 (leBytes 4 (readWord s k off).1) := by
  have hoff : off / 4 * 4 = off := by omega
  unfold barRead
  simp [h4, hoff, withAnswer, leBytes]

/-- A read of 8 bytes of a 64-bit register answers its value. -/
theorem barRead_eight {s : State} {k off v : Nat} (h8 : off % 8 = 0) (hr : reg64 s k off = some v)
    (hs : regServed s off = true) : barRead s k off 8 = withAnswer (readWord s k off).2 (leBytes 8 v) := by
  unfold barRead
  simp [h8, hr, hs, withAnswer]

/-- A word that is not served reads as 0, and the read does nothing, whatever is latched. -/
theorem readWord_unserved {s : State} {off : Nat} (hs : regServed s off = false) (k : Nat) : readWord s k off = (0, s) := by
  unfold readWord
  simp only [hs, Bool.not_false, if_true]

/-- The value of a word that is not the latched half. -/
theorem readWord_value {s : State} {k off : Nat} (hs : regServed s off = true)
    (hl : ∀ h, (fnOf s k).latch = some h → h.1 ≠ off) : (readWord s k off).1 = regWord s k off := by
  unfold readWord
  simp only [hs, Bool.not_true, Bool.false_eq_true, if_false]
  split
  · rename_i o x hx
    rw [if_neg (hl (o, x) hx)]
  · rfl

/-- A read of any register but REP_LOG_LOST leaves the partitions as they are. -/
theorem readWord_parts {off : Nat} (ho : off ≠ 0x10F4) (s : State) (k : Nat) : (readWord s k off).2.parts = s.parts := by
  cases hs : regServed s off with
  | false => rw [readWord_unserved hs]
  | true =>
    unfold readWord
    simp only [hs, Bool.not_true, Bool.false_eq_true, if_false, ho]
    cases reg64 s k off <;> simp only [apply_ite State.parts, withFn_parts, ite_self]

/-- The value of a served word outside every 64-bit register. -/
theorem regWord_reg32 {s : State} {k off : Nat} (hs : regServed s off = true) (hn : reg64 s k off = none)
    (hl : off % 8 = 4 → reg64 s k (off - 4) = none) : regWord s k off = reg32 s k off := by
  have hhigh : (if off % 8 = 4 then reg64 s k (off - 4) else none) = none := by
    split
    · next h => exact hl h
    · rfl
  unfold regWord
  simp only [hs, Bool.not_true, Bool.false_eq_true, if_false, hn, hhigh]

/-- The value of a served 32-bit register whose offset is not latched. -/
theorem readWord_reg32 {s : State} {k off : Nat} (hs : regServed s off = true) (hl : ∀ h, (fnOf s k).latch = some h → h.1 ≠ off)
    (hn : reg64 s k off = none) (hlow : off % 8 = 4 → reg64 s k (off - 4) = none) : (readWord s k off).1 = reg32 s k off := by
  rw [readWord_value hs hl, regWord_reg32 hs hn hlow]

/-- A read of FN_CONFLICT answers the register and clears it (00, R8). -/
theorem exec_read_conflict {s : State} (h : barFull s = true) {k : Nat} (hk : k < 13)
    (hl : ∀ x, (fnOf s k).latch = some x → x.1 ≠ 0x144) :
    exec (.rcRead k 0x144 4) s =
      .next (withAnswer (withFn s k (fun f => { f with conflict := 0 })) (leBytes 4 (fnOf s k).conflict.toNat)) := by
  have hval : (readWord s k 0x144).1 = (fnOf s k).conflict.toNat :=
    readWord_reg32 (regServed_of_barFull h _) hl rfl (fun _ => rfl)
  have hstate : (readWord s k 0x144).2 = withFn s k (fun f => { f with conflict := 0 }) := by
    have hn : reg64 s k 0x144 = none := rfl
    unfold readWord
    simp [regServed_of_barFull h, hn]
  rw [exec_rcRead hk, ← hstate, ← hval]
  exact congrArg Host.Outcome.next (barRead_four (by decide) s k)

/-- A read of FN_DB_DROP answers all 8 bytes and clears them; the high half is latched (00, R8; 02, R87). -/
theorem exec_read_dbDrop {s : State} (h : barFull s = true) {k : Nat} (hk : k < 13) :
    exec (.rcRead k 0x148 8) s =
      .next (withAnswer (withFn s k (fun f =>
          { f with latch := some (0x14C, BitVec.ofNat 32 (natWord (fnOf s k).dbDrop.toNat 1)), dbDrop := 0 }))
        (leBytes 8 (fnOf s k).dbDrop.toNat)) := by
  have hr : reg64 s k 0x148 = some (fnOf s k).dbDrop.toNat := rfl
  have hstate : (readWord s k 0x148).2 = withFn s k (fun f =>
      { f with latch := some (0x14C, BitVec.ofNat 32 (natWord (fnOf s k).dbDrop.toNat 1)), dbDrop := 0 }) := by
    unfold readWord
    simp [regServed_of_barFull h, hr, withFn_withFn]
  rw [exec_rcRead hk, ← hstate]
  exact congrArg Host.Outcome.next (barRead_eight (by decide) hr (regServed_of_barFull h _))

/-- A read of REP_LOG_LOST answers the register of the partition that the window shows, and clears it (00, R8; 02, R81). -/
theorem exec_read_logLost {s : State} (h : barFull s = true) {k : Nat} (hk : k < 13)
    (hl : ∀ x, (fnOf s k).latch = some x → x.1 ≠ 0x10F4) :
    exec (.rcRead k 0x10F4 4) s =
      .next (withAnswer (withPart s (winPart s k 0) (fun q => { q with rep := { q.rep with lost := 0 } }))
        (leBytes 4 (part s (winPart s k 0)).rep.lost.toNat)) := by
  have hval : (readWord s k 0x10F4).1 = (part s (winPart s k 0)).rep.lost.toNat :=
    readWord_reg32 (regServed_of_barFull h _) hl rfl (fun _ => rfl)
  have hstate : (readWord s k 0x10F4).2 = withPart s (winPart s k 0) (fun q => { q with rep := { q.rep with lost := 0 } }) := by
    have hn : reg64 s k 0x10F4 = none := rfl
    unfold readWord
    simp [regServed_of_barFull h, hn]
  rw [exec_rcRead hk, ← hstate, ← hval]
  exact congrArg Host.Outcome.next (barRead_four (by decide) s k)

/-- A read of a register that nothing serves answers four zero bytes and does nothing else. -/
theorem exec_read_unserved {s : State} {off : BitVec 16} (hs : regServed s off.toNat = false) (h4 : off.toNat % 4 = 0) {k : Nat}
    (hk : k < 13) : exec (.rcRead k off 4) s = .next (withAnswer s [0, 0, 0, 0]) := by
  have hzero : leBytes 4 0 = [0, 0, 0, 0] := by decide
  have hread := barRead_four h4 s k
  rw [readWord_unserved hs, hzero] at hread
  rw [exec_rcRead hk]
  exact congrArg Host.Outcome.next hread

/-- A read of 8 bytes of a served 64-bit register answers its value. -/
theorem exec_read_eight {s : State} {k v : Nat} {off : BitVec 16} (h8 : off.toNat % 8 = 0) (hr : reg64 s k off.toNat = some v)
    (hs : regServed s off.toNat = true) (hk : k < 13) :
    exec (.lowHalfRead k off 8) s = .next (withAnswer (readWord s k off.toNat).2 (leBytes 8 v)) := by
  rw [exec_lowHalfRead hk]
  exact congrArg Host.Outcome.next (barRead_eight h8 hr hs)

/-! ## Ring sizes and the log tail -/

theorem exec_ringSizeWrite {k : Nat} (hk : k < 13) (s : State) (evt : Bool) (v : Word32) :
    exec (.ringSizeWrite k evt v) s = .next (if ringsServed s then ringSize s k evt v.toNat else s) :=
  onUnit_of_true (decide_eq_true hk) _

/-- A size of the command ring: a legal one empties the ring and puts its bases in force, another is ignored. -/
theorem ringSize_cmd (s : State) (k : Nat) (v : Word32) :
    ringSize s k false v.toNat =
      if [0, 16, 32, 64, 128, 256, 512, 1024, 2048, 4096].contains v.toNat then
        withFn s k (fun f =>
          { f with
            cmdSize := v, cmdHead := 0, cmdTail := 0, cplPhase := true, cplBaseEff := f.cplBase,
            cmdBaseEff := f.cmdBase &&& 0xFFFFFFFFFFFFFFC0 })
      else s := by
  have hv : BitVec.ofNat 32 v.toNat = v := by rw [BitVec.ofNat_toNat, BitVec.setWidth_eq]
  unfold ringSize
  rw [← cmdSize_legal, hv]
  rfl

/-- A size of the event ring, likewise. -/
theorem ringSize_evt (s : State) (k : Nat) (v : Word32) :
    ringSize s k true v.toNat =
      if [0, 64, 128, 256, 512, 1024, 2048, 4096, 8192, 16384, 32768, 65536].contains v.toNat then
        withFn s k (fun f =>
          { f with evtSize := v, evtHead := 0, evtTail := 0, evtBaseEff := f.evtBase &&& 0xFFFFFFFFFFFFFFE0 })
      else s := by
  have hv : BitVec.ofNat 32 v.toNat = v := by rw [BitVec.ofNat_toNat, BitVec.setWidth_eq]
  unfold ringSize
  rw [← evtSize_legal, hv]
  rfl

theorem exec_logTailWrite {fn : Nat} (hfn : fn < 13) {s : State} (h : barFull s = true) (v : Word32) :
    exec (.logTailWrite fn v) s = .next (logTail s (winPart s fn 0) v) := by
  change onUnit _ (if barFull s then _ else _) = _
  rw [onUnit_of_true (decide_eq_true hfn), if_pos h]

/-- Settles O50: clause by clause, each register by its own rule above. -/
theorem registers : Obligations.Registers := by
  unfold Obligations.Registers
  refine ⟨?_, ?_, ?_, ?_, ?_, ?_⟩
  · intro s k off w hk _
    refine ⟨fun h hf => ?_, fun hbad => ?_, fun h => ⟨?_, ?_, ?_, ?_, ?_, ?_⟩⟩
    · rw [exec_registerWrite hk, barWrite_of_not_barFull h hf]
    · rw [exec_registerWrite hk]
      rcases hbad with h4 | h8 | hlow
      · rw [barWrite_misaligned (.inl h4)]
      · rw [barWrite_misaligned (.inr h8)]
      · rw [barWrite_identity hlow]
    · rintro rfl hw; exact exec_write_cmdBase h hk hw
    · rintro rfl hw; exact exec_write_cplBase h hk hw
    · rintro rfl hw; exact exec_write_evtBase h hk hw
    · rintro rfl hw; exact exec_write_evtBase_low h hk hw
    · rintro rfl hw; exact exec_write_evtBase_high h hk hw
    · rintro rfl hw; exact exec_write_evtFilter h hk hw
  · intro s k v hk h hs c p r q x n
    have hc : v.toNat % 2 ^ 32 % 4096 = c := Nat.mod_mod_of_dvd _ (by decide : 4096 ∣ 2 ^ 32)
    refine ⟨fun hin => ?_, fun hout => ?_, fun hvf => ?_, fun hp => ?_, fun hr => ?_⟩
    · rw [exec_write_cap h (by decide), pwWrite_cap_inRange s _ (hc ▸ hin), hc]
      rfl
    · rw [exec_write_cap h (by decide), pwWrite_cap_outOfRange s _ (hc ▸ hout)]
      rfl
    · rw [exec_write_cap h hk, pwWrite_virtual hvf]
    · obtain ⟨hothers, hown⟩ := withPart_changes hp hs _
      exact ⟨_, exec_write_lkJob h hk v, hothers, rfl, rfl, hown⟩
    · refine ⟨_, exec_write_ckTimeout h hk v, ?_⟩
      by_cases hin : 1000 ≤ n ∧ n ≤ 3600000
      · rw [if_pos hin, if_pos hin]
        obtain ⟨hothers, hown⟩ := withPart_changes hr hs _
        exact ⟨hothers, rfl, hown⟩
      · rw [if_neg hin, if_neg hin]
        exact ⟨fun _ _ _ => rfl, rfl, rfl⟩
  · intro s k v off hk _ hreg _ hserved h8 _
    have hoff : off.toNat ≠ 0x10F4 := by omega
    exact ⟨_, exec_read_eight h8 hreg hserved hk, answered_withAnswer _ _, readWord_parts hoff s k⟩
  · intro s k hk hfns hs hlatch p
    have hk' : k < s.host.fns.length := hfns ▸ hk
    refine ⟨fun h => ⟨?_, ?_, fun hp => ?_⟩, fun h hf off ho _ h4 => ?_⟩
    · exact ⟨_, exec_read_conflict h hk (fun x hx => (hlatch x hx).1), answered_withAnswer _ _, rfl, fnOf_withFn hk' _⟩
    · refine ⟨_, exec_read_dbDrop h hk, answered_withAnswer _ _, rfl, ?_⟩
      rw [fnOf_withAnswer, fnOf_withFn hk']
      exact ⟨rfl, rfl⟩
    · obtain ⟨hothers, hown⟩ := withPart_changes hp hs _
      exact ⟨_, exec_read_logLost h hk (fun x hx => (hlatch x hx).2.2), answered_withAnswer _ _, hown, hothers⟩
    · exact ⟨_, exec_read_unserved (regServed_eq_false h hf ho) h4 hk, answered_withAnswer _ _, rfl, rfl⟩
  · intro s k v hk _ cmd evt
    rw [exec_ringSizeWrite hk, exec_ringSizeWrite hk, ringSize_cmd, ringSize_evt]
    refine ⟨fun h hv => ?_, fun h hv => ?_, fun hv => ?_, fun hv => ?_⟩
    · rw [if_pos (ringsServed_of_barFull h), if_pos hv]
    · rw [if_pos (ringsServed_of_barFull h), if_pos hv]
    · rw [if_neg (Bool.eq_false_iff.1 hv), ite_self]
    · rw [if_neg (Bool.eq_false_iff.1 hv), ite_self]
  · intro s fn v hfn hs h p q hp
    obtain ⟨hothers, hown⟩ := withPart_changes hp hs _
    exact ⟨_, exec_logTailWrite hfn h v, rfl, hothers, hown⟩

end Sys2Proof.Machine
end

section
/-! SUPPORT. Every command and every tick keeps the sizes of the module and a sound Onyx array. -/

namespace Sys2Proof.Machine

/-- What any command that goes on keeps: all but the six rows that may burn Onyx keep the whole shape. -/
theorem exec_keeps {s t : State} (c : Instr) (h : Inv s) (e : exec c s = .next t) : Keeps s t := by
  have ok := ((inv_iff s).1 h).1
  cases c with
  | moduleReset => exact (execModuleReset_shape s ok).keeps h e
  | bootRomDone mismatch => exact (execBootRomDone_shape mismatch s).keeps h e
  | fwVerify keyA keyB => exact (execFwVerify_shape keyA keyB s).keeps h e
  | start a => exact (execStart_shape a s).keeps h e
  | startPhaseTimeout phase => exact (execStartPhaseTimeout_shape phase s ok).keeps h e
  | perst => exact (execPerst_shape s).keeps h e
  | functionLevelReset fn => exact (execFunctionLevelReset_shape fn s).keeps h e
  | pcieLinkDown => exact (execPcieLinkDown_shape s).keeps h e
  | hostPathTimeout p => exact (execHostPathTimeout_shape p s).keeps h e
  | bridgeLaneFail bridge group => exact (execBridgeLaneFail_shape bridge group s).keeps h e
  | bridgeGroupLoss bridge group => exact (execBridgeGroupLoss_shape bridge group s).keeps h e
  | bridgeLoss bridge => exact (execBridgeLoss_shape bridge s).keeps h e
  | clusterFail l => exact (execClusterFail_shape l s).keeps h e
  | hubCoreFail core => exact (execHubCoreFail_shape core s).keeps h e
  | itemArrival l buf mark => exact (execItemArrival_shape l buf mark s).keeps h e
  | stallWatchdog p => exact (execStallWatchdog_shape p s).keeps h e
  | bufferWait p bufs => exact (execBufferWait_shape p bufs s).keeps h e
  | brk p => exact (execBrk_shape p s).keeps h e
  | debugFreeze p => exact (execDebugFreeze_shape p s).keeps h e
  | debugResume p => exact (execDebugResume_shape p s).keeps h e
  | debugEndJob p => exact (execDebugEndJob_shape p s).keeps h e
  | dbgClDataWrite fn w => exact (execDbgClDataWrite_shape fn w s).keeps h e
  | loop p count last => exact (execLoop_shape p count last s).keeps h e
  | jump p target => exact (execJump_shape p target s).keeps h e
  | vbrAny p pred target => exact (execVbrAny_shape p pred target s).keeps h e
  | vbrAll p pred target => exact (execVbrAll_shape p pred target s).keeps h e
  | stepEnd p => exact (execStepEnd_shape p s).keeps h e
  | halt p => exact (execHalt_shape p s).keeps h e
  | add p a => exact (execAdd_shape p a s).keeps h e
  | sub p a => exact (execSub_shape p a s).keeps h e
  | and p a => exact (execAnd_shape p a s).keeps h e
  | or p a => exact (execOr_shape p a s).keeps h e
  | xor p a => exact (execXor_shape p a s).keeps h e
  | shl p a => exact (execShl_shape p a s).keeps h e
  | shr p a => exact (execShr_shape p a s).keeps h e
  | sar p a => exact (execSar_shape p a s).keeps h e
  | mul p a => exact (execMul_shape p a s).keeps h e
  | addi p a => exact (execAddi_shape p a s).keeps h e
  | li p a => exact (execLi_shape p a s).keeps h e
  | lih p a => exact (execLih_shape p a s).keeps h e
  | ceq p a => exact (execCeq_shape p a s).keeps h e
  | clt p a => exact (execClt_shape p a s).keeps h e
  | cltu p a => exact (execCltu_shape p a s).keeps h e
  | ceqi p a => exact (execCeqi_shape p a s).keeps h e
  | clti p a => exact (execClti_shape p a s).keeps h e
  | pand p a => exact (execPand_shape p a s).keeps h e
  | por p a => exact (execPor_shape p a s).keeps h e
  | pnot p a => exact (execPnot_shape p a s).keeps h e
  | ld p a => exact (execLd_shape p a s).keeps h e
  | st p a => exact (execSt_shape p a s).keeps h e
  | crd p a => exact (execCrd_shape p a s).keeps h e
  | cwr p a => exact (execCwr_shape p a s).keeps h e
  | pass p a => exact (execPass_shape p a s).keeps h e
  | stallLoad p a => exact (execStallLoad_shape p a s).keeps h e
  | shadowLoad p a => exact (execShadowLoad_shape p a s).keeps h e
  | retire p pred acc => exact (execRetire_shape p pred acc s).keeps h e
  | drain p pred acc => exact (execDrain_shape p pred acc s).keeps h e
  | stream p a => exact (execStream_shape p a s).keeps h e
  | stat p a => exact (execStat_shape p a s).keeps h e
  | streamStat p a => exact (execStreamStat_shape p a s).keeps h e
  | store p a => exact (execStore_shape p a s).keeps h e
  | vld p a => exact (execVld_shape p a s).keeps h e
  | vst p a => exact (execVst_shape p a s).keeps h e
  | vdrn p a => exact (execVdrn_shape p a s).keeps h e
  | vdst p a => exact (execVdst_shape p a s).keeps h e
  | fadd p a => exact (execFadd_shape p a s).keeps h e
  | fsub p a => exact (execFsub_shape p a s).keeps h e
  | fmul p a => exact (execFmul_shape p a s).keeps h e
  | fma p a => exact (execFma_shape p a s).keeps h e
  | fmin p a => exact (execFmin_shape p a s).keeps h e
  | fmax p a => exact (execFmax_shape p a s).keeps h e
  | fabs p a => exact (execFabs_shape p a s).keeps h e
  | fneg p a => exact (execFneg_shape p a s).keeps h e
  | fcmpeq p a => exact (execFcmpeq_shape p a s).keeps h e
  | fcmplt p a => exact (execFcmplt_shape p a s).keeps h e
  | fcmple p a => exact (execFcmple_shape p a s).keeps h e
  | vsel p a => exact (execVsel_shape p a s).keeps h e
  | fdiv p a => exact (execFdiv_shape p a s).keeps h e
  | fsqrt p a => exact (execFsqrt_shape p a s).keeps h e
  | cvtfi p a => exact (execCvtfi_shape p a s).keeps h e
  | cvtif p a => exact (execCvtif_shape p a s).keeps h e
  | iadd p a => exact (execIadd_shape p a s).keeps h e
  | isub p a => exact (execIsub_shape p a s).keeps h e
  | vecAnd p a => exact (execVecAnd_shape p a s).keeps h e
  | vecOr p a => exact (execVecOr_shape p a s).keeps h e
  | vecXor p a => exact (execVecXor_shape p a s).keeps h e
  | shli p a => exact (execShli_shape p a s).keeps h e
  | shri p a => exact (execShri_shape p a s).keeps h e
  | sari p a => exact (execSari_shape p a s).keeps h e
  | vbcst p a => exact (execVbcst_shape p a s).keeps h e
  | vidx p a => exact (execVidx_shape p a s).keeps h e
  | vrot p a => exact (execVrot_shape p a s).keeps h e
  | vsplat p a => exact (execVsplat_shape p a s).keeps h e
  | exp2 p a => exact (execExp2_shape p a s).keeps h e
  | log2 p a => exact (execLog2_shape p a s).keeps h e
  | rcp p a => exact (execRcp_shape p a s).keeps h e
  | rsqrt p a => exact (execRsqrt_shape p a s).keeps h e
  | tanh p a => exact (execTanh_shape p a s).keeps h e
  | erf p a => exact (execErf_shape p a s).keeps h e
  | gumbel p a => exact (execGumbel_shape p a s).keeps h e
  | norminv p a => exact (execNorminv_shape p a s).keeps h e
  | vrand p a => exact (execVrand_shape p a s).keeps h e
  | rsum p a => exact (execRsum_shape p a s).keeps h e
  | rsumsq p a => exact (execRsumsq_shape p a s).keeps h e
  | rmax p a => exact (execRmax_shape p a s).keeps h e
  | rargmax p a => exact (execRargmax_shape p a s).keeps h e
  | read p a ecc => exact (execRead_shape p a ecc s).keeps h e
  | write p a => exact (execWrite_shape p a s).keeps h e
  | send p a => exact (execSend_shape p a s).keeps h e
  | recv p a => exact (execRecv_shape p a s).keeps h e
  | atomicAdd p a => exact (execAtomicAdd_shape p a s).keeps h e
  | atomicAddRelaxed p a => exact (execAtomicAddRelaxed_shape p a s).keeps h e
  | hostout p a => exact (execHostout_shape p a s).keeps h e
  | regread p a => exact (execRegread_shape p a s).keeps h e
  | solve p a => exact (execSolve_shape p a s).keeps h e
  | seed p a => exact (execSeed_shape p a s).keeps h e
  | coll p a => exact (execColl_shape p a s).keeps h e
  | collBegin p id => exact (execCollBegin_shape p id s).keeps h e
  | measure p group => exact (execMeasure_shape p group s).keeps h e
  | apply p group => exact (execApply_shape p group s).keeps h e
  | stateDigest p => exact (execStateDigest_shape p s).keeps h e
  | verdict p => exact (execVerdict_shape p s).keeps h e
  | updateEngineMismatch p die granule => exact (execUpdateEngineMismatch_shape p die granule s).keeps h e
  | uncorrectableError l structure_ place => exact (execUncorrectableError_shape l structure_ place s).keeps h e
  | replay p restoreBad copyBad => exact (execReplay_shape p restoreBad copyBad s).keeps h e
  | replayRestart p dt => exact (execReplayRestart_shape p dt s).keeps h e
  | healthDecay dt => exact (execHealthDecay_shape dt s).keeps h e
  | neighbourParityError l hop => exact (execNeighbourParityError_shape l hop s).keeps h e
  | spotCheckCompare l differs => exact (execSpotCheckCompare_shape l differs s).keeps h e
  | testWindowOpen => exact (execTestWindowOpen_shape s).keeps h e
  | testWindowClose fail => exact (execTestWindowClose_shape fail s).keeps h e
  | stackFail stack => exact (execStackFail_shape stack s).keeps h e
  | rebuildStripe p => exact (execRebuildStripe_shape p s).keeps h e
  | patrolScrub stack line err => exact (execPatrolScrub_shape stack line err s).keeps h e
  | bar4Read fn off n => exact (execBar4Read_shape fn off n s).keeps h e
  | bar4Write fn off data => exact (execBar4Write_shape fn off data s).keeps h e
  | gets line req fclk => exact (execGets_shape line req fclk s).keeps h e
  | getm line req fclk => exact (execGetm_shape line req fclk s).keeps h e
  | putm line req data => exact (execPutm_shape line req data s).keeps h e
  | ownerRecall line fclk => exact (execOwnerRecall_shape line fclk s).keeps h e
  | linkIdle a => exact (execLinkIdle_shape a s).keeps h e
  | linkNak a => exact (execLinkNak_shape a s).keeps h e
  | linkTrain a => exact (execLinkTrain_shape a s).keeps h e
  | flitForward a => exact (execFlitForward_shape a s).keeps h e
  | sendFlit a => exact (execSendFlit_shape a s).keeps h e
  | rwrite a => exact (execRwrite_shape a s).keeps h e
  | rreadReq a => exact (execRreadReq_shape a s).keeps h e
  | rreadData a => exact (execRreadData_shape a s).keeps h e
  | ratomic a => exact (execRatomic_shape a s).keeps h e
  | ratomicRelaxed a => exact (execRatomicRelaxed_shape a s).keeps h e
  | collFlit a => exact (execCollFlit_shape a s).keeps h e
  | a2aFlit a => exact (execA2aFlit_shape a s).keeps h e
  | ack a => exact (execAck_shape a s).keeps h e
  | nack a => exact (execNack_shape a s).keeps h e
  | reject a => exact (execReject_shape a s).keeps h e
  | routeFail a => exact (execRouteFail_shape a s).keeps h e
  | replayTimeout port half => exact (execReplayTimeout_shape port half s).keeps h e
  | laneFail port lane => exact (execLaneFail_shape port lane s).keeps h e
  | linkFail port half => exact (execLinkFail_shape port half s).keeps h e
  | linkRetrainRequest port => exact (execLinkRetrainRequest_shape port s).keeps h e
  | arrive a => exact (execArrive_shape a s).keeps h e
  | release a => exact (execRelease_shape a s).keeps h e
  | barrierReleaseTime p => exact (execBarrierReleaseTime_shape p s).keeps h e
  | abort a => exact (execAbort_shape a s).keeps h e
  | ckptReq a => exact (execCkptReq_shape a s).keeps h e
  | ckptDone a => exact (execCkptDone_shape a s).keeps h e
  | time a => exact (execTime_shape a s).keeps h e
  | timeExchange dt => exact (execTimeExchange_shape dt s).keeps h e
  | quartzHoldover dt => exact (execQuartzHoldover_shape dt s).keeps h e
  | qzLoad fn v => exact (execQzLoad_shape fn v s).keeps h e
  | qpSolveRequest ctx => exact (execQpSolveRequest_shape ctx s).keeps h e
  | qpApplyRequest ctx => exact (execQpApplyRequest_shape ctx s).keeps h e
  | wallDeadline ctx at_ => exact (execWallDeadline_shape ctx at_ s).keeps h e
  | solverSramUncorrectable ctx => exact (execSolverSramUncorrectable_shape ctx s).keeps h e
  | bsCtxCfgWrite fn ctx mem v => exact (execBsCtxCfgWrite_shape fn ctx mem v s).keeps h e
  | bsFrameWrite fn v => exact (execBsFrameWrite_shape fn v s).keeps h e
  | trngHealthFail apt dt => exact (execTrngHealthFail_shape apt dt s).keeps h e
  | trngRestart => exact (execTrngRestart_shape s).keeps h e
  | seedConditioned samples => exact (execSeedConditioned_shape samples s).keeps h e
  | imageCommit p => exact (execImageCommit_shape p s).keeps h e
  | cutTimeout p => exact (execCutTimeout_shape p s).keeps h e
  | cutRequest p => exact (execCutRequest_shape p s).keeps h e
  | ckDrain p => exact (execCkDrain_shape p s).keeps h e
  | ckDrainComplete p => exact (execCkDrainComplete_shape p s).keeps h e
  | ctxConfig a => exact (execCtxConfig_shape a s).keeps h e
  | ctxClear a => exact (execCtxClear_shape a s).keeps h e
  | jobStart a far => exact (execJobStart_shape a far s).keeps h e
  | jobRunning p => exact (execJobRunning_shape p s).keeps h e
  | jobEnd a => exact (execJobEnd_shape a s).keeps h e
  | jobRelease a => exact (execJobRelease_shape a s).keeps h e
  | planChange a => exact (execPlanChange_shape a s).keeps h e
  | seedGet a => exact (execSeedGet_shape a s).keeps h e
  | svLoad a => exact (execSvLoad_shape a s).keeps h e
  | svClear a => exact (execSvClear_shape a s).keeps h e
  | svSolve a => exact (execSvSolve_shape a s).keeps h e
  | svState a => exact (execSvState_shape a s).keeps h e
  | fwStage a key => exact (execFwStage_shape a key s).keeps h e
  | packInstall a key => exact (execPackInstall_shape a key s).keeps h e
  | cmdTailWrite fn v key far => exact (execCmdTailWrite_shape fn v key far s).keeps h e
  | mboxGo fn key far => exact (execMboxGo_shape fn key far s).keeps h e
  | ringSizeWrite fn evt v => exact (execRingSizeWrite_shape fn evt v s).keeps h e
  | doorbell fn off v => exact (execDoorbell_shape fn off v s).keeps h e
  | stepEntryFetch k => exact (execStepEntryFetch_shape k s).keeps h e
  | logTailWrite fn v => exact (execLogTailWrite_shape fn v s).keeps h e
  | rcRead fn off n => exact (execRcRead_shape fn off n s).keeps h e
  | lowHalfRead fn off n => exact (execLowHalfRead_shape fn off n s).keeps h e
  | registerWrite fn off w => exact (execRegisterWrite_shape fn off w s).keeps h e
  | readReq m => exact execReadReq_keeps m s t h e
  | writeReq m => exact execWriteReq_keeps m s t h e
  | eventAck m => exact execEventAck_keeps m s t h e
  | keySet m stuck => exact execKeySet_keeps m stuck s t h e
  | applicationTick dt => exact execApplicationTick_keeps dt s t h e
  | fuseBurn stuck => exact execFuseBurn_keeps stuck s t h e
  | eventSend c dt => exact (execEventSend_shape c dt s).keeps h e
  | eventRetransmit c => exact (execEventRetransmit_shape c s).keeps h e
  | collectorStale c => exact (execCollectorStale_shape c s).keeps h e
  | announce => exact (execAnnounce_shape s).keeps h e
  | auxPresent mv => exact (execAuxPresent_shape mv s).keeps h e
  | auxAbsent mv => exact (execAuxAbsent_shape mv s).keeps h e
  | mainEnable mv => exact (execMainEnable_shape mv s ok).keeps h e
  | surpriseRemoval => exact (execSurpriseRemoval_shape s ok).keeps h e
  | overVoltage mv => exact (execOverVoltage_shape mv s ok).keeps h e
  | orderlyRemoval => exact (execOrderlyRemoval_shape s ok).keeps h e
  | mainBelowWarning mv dt => exact (execMainBelowWarning_shape mv dt s).keeps h e
  | mainAboveResume mv low dt => exact (execMainAboveResume_shape mv low dt s).keeps h e
  | holdLimitExpiry => exact (execHoldLimitExpiry_shape s).keeps h e
  | mainBelowReset mv => exact (execMainBelowReset_shape mv s ok).keeps h e
  | permitSample a b dt => exact (execPermitSample_shape a b dt s).keeps h e
  | permitFaultClear => exact (execPermitFaultClear_shape s).keeps h e
  | haltRequest fn v => exact (execHaltRequest_shape fn v s).keeps h e
  | haltBoundExpiry p => exact (execHaltBoundExpiry_shape p s).keeps h e
  | fastPathWindow watts => exact (execFastPathWindow_shape watts s).keeps h e
  | slowPath watts => exact (execSlowPath_shape watts s).keeps h e
  | thermalAdjust a => exact (execThermalAdjust_shape a s ok).keeps h e
  | thermalTrip => exact (execThermalTrip_shape s ok).keeps h e
  | canarySample slack => exact (execCanarySample_shape slack s).keeps h e
  | marginReplan => exact (execMarginReplan_shape s).keeps h e
  | lifeRecordCommit secs wh => exact (execLifeRecordCommit_shape secs wh s).keeps h e
  | reservedOperation p slot => exact (execReservedOperation_shape p slot s).keeps h e
  | pcieLinkUp => exact (execPcieLinkUp_shape s).keeps h e
  | linkTrainingComplete port half => exact (execLinkTrainingComplete_shape port half s).keeps h e
  | codewordLock port half lanes => exact (execCodewordLock_shape port half lanes s).keeps h e
  | codewordLockLoss port lane => exact (execCodewordLockLoss_shape port lane s).keeps h e
  | noiseStartupTestDone => exact (execNoiseStartupTestDone_shape s).keeps h e
  | alwaysOnPowerOn a => exact (execAlwaysOnPowerOn_shape a s ok).keeps h e
  | alwaysOnHoldUpEnd => exact (execAlwaysOnHoldUpEnd_shape s ok).keeps h e
  | cclkRelockDone dt => exact (execCclkRelockDone_shape dt s).keeps h e
  | auxOvervoltage mv => exact (execAuxOvervoltage_shape mv s).keeps h e

/-- What a step keeps, with the queue it leaves to its command: the tick keeps the whole shape (log entry 1). -/
theorem step_inv {s t : State} (h : Inv s) (e : step s = .next t) : Inv t := by
  match hq : s.pending with
  | [] =>
    rw [step_nil hq] at e
    injection e with e
    exact e ▸ (Keeps.of_shape h (idle_shape s)).inv h
  | c :: rest =>
    rw [step_of_pending hq] at e
    have h' : Inv { s with pending := rest } := (inv_pending s rest).2 h
    exact (exec_keeps c h' e).inv h'

/-- Settles O59: each command keeps the shape or, where it may burn Onyx, all of the shape but Onyx and a sound array. -/
theorem stepKeepsInv : Obligations.StepKeepsInv := fun _ _ h e => step_inv h e

end Sys2Proof.Machine
end

section
/-! SUPPORT. What an event, a flit and the end of a job leave as it is: everything but the paths out of the module, and for the end
of a job everything but its own partition and an open test window. -/

namespace Sys2Proof.Machine

/-! ## The module without its paths outward -/

/-- A state without what lies on a path out of the module: ports, host interface, Beryl and the noise source, the management
queue, the counts of lost records, and the log of the life record. -/
def inward (s : State) : State :=
  { s with
    ports := [], beryl := berylReset, noise := noiseReset, host := hostReset,
    mgmt := { s.mgmt with coll := [], queue := [], lastId := 0 }, faults := { s.faults with lostHost := 0, lostMgmt := 0 },
    life := { s.life with log := [], over_ := 0 } }

theorem inward_withPart (s : State) (p : Nat) (f : Partition → Partition) : inward (withPart s p f) = withPart (inward s) p f := rfl

/-- A loop whose body keeps the insides of the module keeps them. -/
theorem inward_foldl {α : Type} (l : List α) (g : State → α → State) (s : State) (h : ∀ t x, inward (g t x) = inward t) :
    inward (l.foldl g s) = inward s := foldl_keeps inward l g s h

/-- A choice between two states with the same insides. -/
theorem inward_ite {c : Prop} [Decidable c] {a b s : State} (ha : inward a = inward s) (hb : inward b = inward s) :
    inward (if c then a else b) = inward s := by split <;> assumption

theorem inward_raiseVector (s : State) (k v : Nat) : inward (raiseVector s k v) = inward s :=
  inward_ite rfl rfl

theorem inward_ringEvent (k : Nat) (e : EvRec) (s : State) : inward (ringEvent k e s) = inward s :=
  inward_ite rfl (inward_raiseVector _ k 1)

theorem inward_hostEvent (s : State) (e : EvRec) : inward (hostEvent s e) = inward s :=
  inward_foldl _ _ s (fun t k => inward_ite (inward_ringEvent k e t) rfl)

theorem inward_mgmtEvent (s : State) (e : EvRec) : inward (mgmtEvent s e) = inward s :=
  inward_ite rfl (inward_ite rfl rfl)

theorem inward_lifeEvent (s : State) (e : EvRec) : inward (lifeEvent s e) = inward s :=
  inward_ite rfl rfl

/-- An event changes nothing inside the module (15, R525). -/
@[simp] theorem inward_sendEvent (s : State) (src : EvSrc) (p code detail : Nat) :
    inward (sendEvent s src p code detail) = inward s := by
  unfold sendEvent
  simp only [inward_lifeEvent, inward_mgmtEvent]
  exact inward_ite (inward_hostEvent s _) rfl

/-- Neither does an event for the management network alone. -/
@[simp] theorem inward_mgmtSend (s : State) (src : EvSrc) (code detail : Nat) :
    inward (mgmtSend s src code detail) = inward s := by
  unfold mgmtSend
  simp only [inward_lifeEvent, inward_mgmtEvent]

/-- What reads the insides of a module alone reads the same of two states with the same insides. -/
theorem of_inward {α : Type} (f : State → α) (hf : ∀ u, f (inward u) = f u) {s t : State} (h : inward t = inward s) : f t = f s := by
  rw [← hf t, h, hf s]

theorem part_of_inward {s t : State} (h : inward t = inward s) (k : Nat) : part t k = part s k :=
  of_inward (part · k) (fun _ => rfl) h
theorem grid_of_inward {s t : State} (h : inward t = inward s) : t.grid = s.grid := of_inward State.grid (fun _ => rfl) h
theorem boot_of_inward {s t : State} (h : inward t = inward s) : t.boot = s.boot := of_inward State.boot (fun _ => rfl) h

@[simp] theorem part_sendEvent (s : State) (src : EvSrc) (p code detail k : Nat) :
    part (sendEvent s src p code detail) k = part s k := part_of_inward (inward_sendEvent ..) k
@[simp] theorem sendEvent_parts (s : State) (src : EvSrc) (p code detail : Nat) :
    (sendEvent s src p code detail).parts = s.parts := of_inward State.parts (fun _ => rfl) (inward_sendEvent ..)
@[simp] theorem sendEvent_grid (s : State) (src : EvSrc) (p code detail : Nat) :
    (sendEvent s src p code detail).grid = s.grid := grid_of_inward (inward_sendEvent ..)
@[simp] theorem sendEvent_boot (s : State) (src : EvSrc) (p code detail : Nat) :
    (sendEvent s src p code detail).boot = s.boot := boot_of_inward (inward_sendEvent ..)
@[simp] theorem sendEvent_gov (s : State) (src : EvSrc) (p code detail : Nat) :
    (sendEvent s src p code detail).gov = s.gov := of_inward State.gov (fun _ => rfl) (inward_sendEvent ..)

/-! ## Flits -/

theorem inward_routeAs (s : State) (p r epoch : Nat) (f : Flit) : inward (routeAs s p r epoch f) = inward s :=
  inward_ite rfl rfl

/-- A BARRIER flit that goes out changes nothing inside the module. -/
@[simp] theorem inward_sendBarrier (s : State) (p r kind step attempt arg : Nat) (d : List Byte) :
    inward (sendBarrier s p r kind step attempt arg d) = inward s := inward_routeAs ..

@[simp] theorem inward_sendDown (s : State) (p kind step attempt : Nat) (d : List Byte) :
    inward (sendDown s p kind step attempt d) = inward s :=
  inward_foldl _ _ s (fun _ _ => inward_sendBarrier ..)

/-! ## The end of a job -/

theorem inward_stepDone (s : State) (k : Nat) (e : StepEntry) (status attempts : Nat) :
    inward (stepDone s k e status attempts) = inward s := by
  unfold stepDone
  split
  · rfl
  · exact inward_ite rfl (inward_ite (inward_raiseVector _ _ 2) rfl)

theorem inward_flushCtx (s : State) (k status : Nat) : inward (flushCtx s k status) = inward s := by
  unfold flushCtx
  simp only []
  rw [inward_foldl _ _ _ (fun t e => inward_stepDone t k e status 0)]
  rfl

theorem inward_dropWaits (s : State) (p : Nat) : inward (dropWaits s p) = inward s := rfl

/-- A test window's account of a job that ends looks at the insides of the module alone. -/
theorem inward_twJobEnd (s : State) (p : Nat) : inward (twJobEnd s p) = twJobEnd (inward s) p := by
  have htw : (inward s).faults.tw = s.faults.tw := rfl
  have hpart : ∀ l, partOfCl (inward s) l = partOfCl s l := fun _ => rfl
  unfold twJobEnd
  simp only [htw, hpart]
  cases htw' : s.faults.tw with
  | none => rfl
  | some w =>
    simp only []
    split
    · rfl
    · cases w.phase <;> simp only [twReturn, twDone, htw, htw'] <;> rfl

/-- A partition whose job ends with a cause and a status (17, R571, R577). -/
def endedPart (cause status : Nat) (x : Partition) : Partition :=
  { x with
    st := .ended, endReq := none, haltAt := none, waiting := false, current := none,
    endWord := BitVec.ofNat 32 (status + cause * 65536),
    seq := { x.seq with
             frozen := false, freezeAt := none, replayAtResume := false, atomics := [], stream := [], votes := [], holds := 0 },
    se := { x.se with asked := false, replaying := false, takeover := false, journal := [] },
    cl := { x.cl with inAttempt := [], early := [], arriveSent := false, tRel := none, ahead := none },
    upd := { x.upd with queue := [], undo := [] },
    lk := { x.lk with acks := [], reads := [], sends := [], outAtomics := [] },
    ck := { x.ck with nextCut := none, pending := false },
    clusters := x.clusters.map (fun c => { c with
      core := { c.core with scalar := { c.core.scalar with status :=
        if cause = 0 || cause = 4 then c.core.scalar.status ||| 0x1000 else c.core.scalar.status } } }) }

/-- The end of an active job: its partition has ended, and a window that waited for its boundary goes (15, R522; 17, R571). -/
theorem inward_jobEnd {s : State} {p : Nat} (h : jobActive (part s p) = true) (cause status : Nat) :
    inward (jobEnd s p cause status) = withPart (twJobEnd (inward s) p) p (endedPart cause status) := by
  unfold jobEnd
  simp only [h, Bool.not_true, Bool.false_eq_true, if_false]
  rw [inward_dropWaits, inward_withPart, inward_twJobEnd, inward_foldl _ _ _ (fun _ _ => inward_flushCtx ..)]
  cases (part s p).current with
  | none => rw [inward_sendEvent]; rfl
  | some x => rw [inward_ite (inward_sendEvent ..) ((inward_stepDone ..).trans (inward_sendEvent ..))]; rfl

theorem jobEnd_inactive {s : State} {p : Nat} (h : jobActive (part s p) = false) (cause status : Nat) :
    jobEnd s p cause status = s := by
  unfold jobEnd
  simp only [h, Bool.not_false, if_true]

/-- A fault ends an active job with cause 4 (17, R571). -/
theorem inward_faultEnd {s : State} {p : Nat} (h : jobActive (part s p) = true) (src : EvSrc) (code detail : Nat) :
    inward (faultEnd s src p code detail) = withPart (twJobEnd (inward s) p) p (endedPart 4 code) := by
  unfold faultEnd
  simp only [h, Bool.not_true, Bool.false_eq_true, if_false]
  rw [inward_jobEnd (by rw [part_sendEvent]; exact h), inward_sendEvent]

/-- A partition with an active job is one of the module's. -/
theorem lt_of_active {s : State} {p : Nat} (h : jobActive (part s p) = true) : p < s.parts.length := by
  by_contra hp
  rw [part, List.getD_eq_default _ _ (Nat.not_lt.1 hp)] at h
  cases h

theorem twJobEnd_parts (s : State) (p : Nat) : (twJobEnd s p).parts = s.parts := by
  unfold twJobEnd
  cases htw : s.faults.tw with
  | none => rfl
  | some w =>
    simp only []
    split
    · rfl
    · cases w.phase <;> simp only [twReturn, twDone, htw]

/-- The partition of a job that ends (17, R571, R577). -/
theorem part_jobEnd {s : State} {p : Nat} (h : jobActive (part s p) = true) (cause status : Nat) :
    part (jobEnd s p cause status) p = endedPart cause status (part s p) := by
  have hpart : part (jobEnd s p cause status) p = part (withPart (twJobEnd s p) p (endedPart cause status)) p :=
    part_of_inward (by rw [inward_jobEnd h, inward_withPart, inward_twJobEnd]) p
  rw [hpart, part_withPart _ _ _ (by rw [twJobEnd_parts]; exact lt_of_active h), part, twJobEnd_parts]
  rfl

theorem part_faultEnd {s : State} {p : Nat} (h : jobActive (part s p) = true) (src : EvSrc) (code detail : Nat) :
    part (faultEnd s src p code detail) p = endedPart 4 code (part s p) := by
  have hpart : part (faultEnd s src p code detail) p = part (withPart (twJobEnd s p) p (endedPart 4 code)) p :=
    part_of_inward (by rw [inward_faultEnd h, inward_withPart, inward_twJobEnd]) p
  rw [hpart, part_withPart _ _ _ (by rw [twJobEnd_parts]; exact lt_of_active h), part, twJobEnd_parts]
  rfl

/-! ## A partition that takes up a replay -/

/-- A partition that runs is one of the module's. -/
theorem lt_of_running {s : State} {p : Nat} (h : (part s p).st = .running) : p < s.parts.length := by
  by_contra hp
  rw [part, List.getD_eq_default _ _ (Nat.not_lt.1 hp)] at h
  cases h

/-- What canReplay says, part by part. -/
structure Replayable (q : Partition) : Prop where
  run : q.st = .running
  asked : q.se.asked = false
  replaying : q.se.replaying = false
  frozen : q.seq.frozen = false
  unreplayable : q.se.unreplayable = false
  hj : q.se.hjBytesEff ≠ 0
  room : ∀ c ∈ q.clusters, c.journal.full = false
  attempt : q.seq.attempt < maxAttempts q
  root : q.job.ranks ≤ 1 ∨ q.job.rank = 0

theorem canReplay_iff (q : Partition) : canReplay q = true ↔ Replayable q := by
  unfold canReplay
  simp only [Bool.and_eq_true, Bool.or_eq_true, decide_eq_true_eq, Bool.not_eq_true', bne_iff_ne, List.all_eq_true]
  constructor
  · rintro ⟨⟨⟨⟨⟨⟨⟨⟨h1, h2⟩, h3⟩, h4⟩, h5⟩, h6⟩, h7⟩, h8⟩, h9⟩
    exact ⟨h1, h2, h3, h4, h5, h6, h7, h8, h9⟩
  · rintro ⟨h1, h2, h3, h4, h5, h6, h7, h8, h9⟩
    exact ⟨⟨⟨⟨⟨⟨⟨⟨h1, h2⟩, h3⟩, h4⟩, h5⟩, h6⟩, h7⟩, h8⟩, h9⟩

theorem jobActive_of_running {q : Partition} (h : q.st = .running) : jobActive q = true := by
  simp [jobActive, h]

/-- A partition that can take up a replay takes it up: it stops issuing, and nothing else changes inside the module (15, R489, R496). -/
theorem inward_takeReplay {s : State} {p : Nat} (h : Replayable (part s p)) :
    inward (takeReplay s p) = inward (withSe s p (fun x => { x with asked := true, replayFrom := s.quartz.ns })) := by
  have hnote : noteUnreplayable s p = s := noteUnreplayable_none h.unreplayable h.hj h.room
  have hrefused : replayRefused s p = none := by
    simp [replayRefused, h.unreplayable, h.attempt]
  unfold takeReplay
  simp [h.run, h.asked, h.replaying, hnote, hrefused]

/-- A request for a replay at a partition that can take it up itself (15, R489, R496). -/
theorem inward_requestReplay {s : State} {p : Nat} (h : Replayable (part s p)) :
    inward (requestReplay s p) = inward (withSe s p (fun x => { x with asked := true, replayFrom := s.quartz.ns })) := by
  unfold requestReplay
  simp only [h.run, h.asked, h.replaying, h.frozen, bne_self_eq_false, Bool.or_false, Bool.false_eq_true, if_false]
  split
  · exact inward_takeReplay h
  · have hroot : (part s p).job.rank = 0 := h.root.resolve_left (by assumption)
    have hdown := inward_sendDown s p 3 (part s p).seq.step (part s p).seq.attempt []
    have hq : (sendDown s p 3 (part s p).seq.step (part s p).seq.attempt []).quartz = s.quartz :=
      of_inward State.quartz (fun _ => rfl) hdown
    rw [if_pos hroot, inward_takeReplay (by rw [part_of_inward hdown]; exact h), hq]
    unfold withSe
    rw [inward_withPart, hdown, inward_withPart]

/-- The partition that takes up a replay, field by field. -/
theorem replayTaken_requestReplay {s : State} {p : Nat} (h : Replayable (part s p)) :
    part (requestReplay s p) p =
      { part s p with se := { (part s p).se with asked := true, replayFrom := s.quartz.ns } } := by
  rw [part_of_inward (inward_requestReplay h), withSe, part_withPart _ _ _ (lt_of_running h.run)]

/-! ## What another partition's replay or end leaves -/

/-- The insides of the module without partition p and without what the end of its job may do to an open test window. -/
def apart (p : Nat) (s : State) : State :=
  let u := inward s
  { u with
    parts := updAt u.parts p (fun _ => partReset), grid := { u.grid with table := [] },
    faults := { u.faults with tw := none, twDone := 0, twLast := none } }

/-- What looks neither at partition p nor at the test window reads the same of two states that agree apart from them. -/
theorem of_apart {α : Type} {p : Nat} (f : State → α) (hf : ∀ u, f (apart p u) = f u) {s t : State} (h : apart p t = apart p s) :
    f t = f s := by
  rw [← hf t, h, hf s]

theorem part_apart {p k : Nat} (hk : k ≠ p) (u : State) : part (apart p u) k = part u k := by
  unfold part apart
  rw [updAt_getD, if_neg (fun e => hk e.1.symm)]
  rfl

theorem part_of_apart {p k : Nat} (hk : k ≠ p) {s t : State} (h : apart p t = apart p s) : part t k = part s k :=
  of_apart (part · k) (part_apart hk) h

theorem apart_of_inward {p : Nat} {s t : State} (h : inward t = inward s) : apart p t = apart p s := by
  unfold apart
  rw [h]

theorem apart_withPart (s : State) (p : Nat) (f : Partition → Partition) : apart p (withPart s p f) = apart p s := by
  unfold apart
  simp only [inward_withPart, withPart_parts, updAt_updAt]
  rfl

theorem apart_twJobEnd (s : State) (p : Nat) : apart p (twJobEnd s p) = apart p s := by
  unfold twJobEnd
  cases htw : s.faults.tw with
  | none => rfl
  | some w =>
    simp only []
    split
    · rfl
    · cases w.phase <;> simp only [twReturn, twDone, htw] <;> rfl

theorem apart_jobEnd (s : State) (p cause status : Nat) : apart p (jobEnd s p cause status) = apart p s := by
  cases h : jobActive (part s p) with
  | false => rw [jobEnd_inactive h]
  | true =>
    have hend : inward (jobEnd s p cause status) = inward (withPart (twJobEnd s p) p (endedPart cause status)) := by
      rw [inward_jobEnd h, inward_withPart, inward_twJobEnd]
    rw [apart_of_inward hend, apart_withPart, apart_twJobEnd]

theorem apart_faultEnd (s : State) (src : EvSrc) (p code detail : Nat) : apart p (faultEnd s src p code detail) = apart p s := by
  unfold faultEnd
  split
  · rfl
  · rw [apart_jobEnd, apart_of_inward (inward_sendEvent ..)]

theorem apart_noteUnreplayable (s : State) (p : Nat) : apart p (noteUnreplayable s p) = apart p s := by
  unfold noteUnreplayable
  simp only []
  split
  · rfl
  · split
    · exact apart_withPart ..
    · rw [apart_of_inward (inward_sendEvent ..)]; exact apart_withPart ..

theorem apart_takeReplay (s : State) (p : Nat) : apart p (takeReplay s p) = apart p s := by
  unfold takeReplay
  simp only []
  split
  · rfl
  · split
    · rw [apart_faultEnd, apart_noteUnreplayable]
    · rw [withSe, apart_withPart, apart_noteUnreplayable]

/-- A request for a replay of one partition touches no other one (15, R489). -/
theorem apart_requestReplay (s : State) (p : Nat) : apart p (requestReplay s p) = apart p s := by
  unfold requestReplay
  simp only []
  split
  · rfl
  · split
    · exact apart_withPart ..
    · split
      · exact apart_takeReplay ..
      · split
        · rw [apart_takeReplay, apart_of_inward (inward_sendDown ..)]
        · split
          · rw [apart_faultEnd, apart_noteUnreplayable]
          · rw [apart_of_inward (inward_sendBarrier ..), apart_noteUnreplayable]

end Sys2Proof.Machine
end

section
/-! SUPPORT. Bundles in which no slot performs an operation: wait fields, `brk` and reserved operation codes (01, R36; 06, R205,
R221; 08, R274). -/

namespace Sys2Proof.Machine

/-! ## One issue cycle of a quiet cluster -/

/-- A bundle each of whose slots but the control slot is empty or carries a reserved operation code. -/
structure Unperformed (b : Bundle) : Prop where
  sc : b.scOp = .nop ∨ b.scOp = .reserved
  arr : b.arrOp = .nop ∨ b.arrOp = .reserved
  acc : b.accOp = .none
  fd : b.fdOp = .nop ∨ b.fdOp = .reserved
  st : b.stOp = .nop ∨ b.stOp = .reserved
  vec : b.vOp = .nop ∨ b.vOp = .reserved
  dm : b.dmOp = .nop ∨ b.dmOp = .reserved

/-- The slot_invalid event of a slot that carries a reserved operation code. -/
def invalidIn (reserved : Prop) [Decidable reserved] (slot pc : Nat) : List Ev :=
  if reserved then [{ kind := .slotInvalid, slot := slot, pc := pc, detail := 0 }] else []

theorem kind_of_mem_invalidIn {c : Prop} [Decidable c] {slot pc : Nat} {e : Ev} (h : e ∈ invalidIn c slot pc) :
    e.kind = .slotInvalid := by
  unfold invalidIn at h
  split at h
  · rw [List.mem_singleton.1 h]
  · cases h

/-- Events that have no bit in a status register leave it. -/
theorem bitsOf_eq_zero {f : EvKind → Nat} {evs : List Ev} (h : ∀ e ∈ evs, f e.kind = 0) : bitsOf f evs = 0 :=
  foldl_id evs _ 0 (fun e he => by simp [h e he])

theorem bitsOf_invalidIn (f : EvKind → Nat) (h : f .slotInvalid = 0) (c : Prop) [Decidable c] (slot pc : Nat) :
    bitsOf f (invalidIn c slot pc) = 0 :=
  bitsOf_eq_zero (fun e he => by rw [kind_of_mem_invalidIn he, h])

/-- What the feed path of a quiet cluster does with a feed slot that starts nothing. -/
def feedIdle (env : Env) : FeedOut :=
  { streams := [], stats := [], vec := none, stat := none, strm := {}, stary := {}, inherited := 0, invalid := 0,
    evs := invalidIn (env.b.fdOp = .reserved) 5 env.pc }

/-- What the store path of a quiet cluster does with a store slot that starts nothing. -/
def storeIdle (env : Env) : StoreOut :=
  { noStore with evs := invalidIn (env.b.stOp = .reserved) 6 env.pc }

variable {env : Env} {c : ClusterCore}

theorem newStream_unperformed (h : Unperformed env.b) : newStream env c = none := by
  rcases h.fd with e | e <;> simp only [newStream, e]

theorem newStat_unperformed (h : Unperformed env.b) : newStat env c = none := by
  rcases h.fd with e | e <;> simp only [newStat, e]

theorem newPass_unperformed (h : Unperformed env.b) : newPass env c = none := by
  rcases h.arr with e | e <;> simp [newPass, e]

theorem newLoad_unperformed (h : Unperformed env.b) : newLoad env c = none := by
  rcases h.arr with e | e <;> simp [newLoad, e]

theorem newStore_unperformed (h : Unperformed env.b) : newStore env c = none := by
  rcases h.st with e | e <;> simp [newStore, e]

theorem newVec_unperformed (h : Unperformed env.b) (d : List StoreOp) (rs : List (Acc × List Byte)) :
    newVec env c d rs = none := by
  rcases h.vec with e | e <;> simp [newVec, e]

theorem vrandOutcome_unperformed (h : Unperformed env.b) (d : List StoreOp) : vrandOutcome env c d = none := by
  rcases h.vec with e | e <;> simp [vrandOutcome, e]

theorem dmNow_unperformed (h : Unperformed env.b) : dmNow env c = none := by
  rcases h.dm with e | e <;> simp [dmNow, e]

theorem cwrNow_unperformed (h : Unperformed env.b) : cwrNow env c = none := by
  rcases h.sc with e | e <;> simp [cwrNow, e]

theorem crdNow_unperformed (h : Unperformed env.b) : crdNow env c = none := by
  rcases h.sc with e | e <;> simp [crdNow, e]

theorem gNext_unperformed (h : Unperformed env.b) (q : Quiet c) : gNext env c = c.scalar.g := by
  rcases h.sc with e | e <;> simp [gNext, scResult, e, q.ld]

theorem pNext_unperformed (h : Unperformed env.b) : pNext env c = c.scalar.p := by
  rcases h.sc with e | e <;> simp [pNext, scPredResult, e]

theorem cycleAccs_unperformed (h : Unperformed env.b) (q : Quiet c) : cycleAccs env c [] = [] := by
  have hfeed : feedAccs env c = [] := by
    simp [feedAccs, newStream_unperformed h, newStat_unperformed h, q.streams, q.stats]
  have hvec : vecAccs env c = [] := by
    rcases h.vec with e | e <;> simp [vecAccs, e, q.flight]
  have hsc : scAccs env c = [] := by
    rcases h.sc with e | e <;> simp [scAccs, e]
  simp [cycleAccs, hfeed, hvec, hsc]

theorem feedCycle_unperformed (h : Unperformed env.b) (q : Quiet c) (co : Option Int) (lm : Option Nat) :
    feedCycle env c [] co lm = feedIdle env := by
  simp [feedCycle, newStream_unperformed h, newStat_unperformed h, q.streams, q.stats, cutStreams, cutStats, leNat, readOf,
    feedIdle, invalidIn]

theorem entryCycle_unperformed (h : Unperformed env.b) (q : Quiet c) (v : Option (VecItem × Nat)) :
    entryCycle env c v = { entered := none, used := false, judged := none, evs := [] } := by
  simp [entryCycle, enteringPass, passesNow, newPass_unperformed h, q.passes]

theorem arrayCycle_unperformed (h : Unperformed env.b) (q : Quiet c) :
    arrayCycle env c (feedIdle env) none none = (c.array, invalidIn (env.b.arrOp = .reserved) 3 env.pc) := by
  have hevs : arrayEvs env c { entered := none, used := false, judged := none, evs := [] } false false false false env.pc =
      invalidIn (env.b.arrOp = .reserved) 3 env.pc := by
    simp [arrayEvs, newPass_unperformed h, newLoad_unperformed h, loadNow, q.load, h.acc, invalidIn]
  have hset : arrayEvs env c (entryCycle env c none) false false false false env.pc =
      invalidIn (env.b.arrOp = .reserved) 3 env.pc := by rw [entryCycle_unperformed h q, hevs]
  simp [arrayCycle, feedIdle, entryCycle_unperformed h q, hevs, loadNow, newLoad_unperformed h, q.load, loadSets, loadNext,
    loadDone, passesNow, newPass_unperformed h, q.passes, q.entered, q.flights, q.fwd, b2n, mapIdx_same,
    bitsOf_invalidIn taBit rfl]
  rw [← q.load, ← q.passes, ← q.entered, ← q.flights, ← q.fwd]

theorem accumCycle_unperformed (h : Unperformed env.b) (q : Quiet c) : accumCycle env c none = (c.accum, []) := by
  rw [accumCycle_quiet env c none q h.acc, regsWritten_none c q.dm]

theorem storeCycle_unperformed (h : Unperformed env.b) : storeCycle env c [] [] = storeIdle env := by
  simp [storeCycle, storesKept, newStore_unperformed h, b2n, storeIdle, noStore, invalidIn]

theorem convCycle_unperformed (q : Quiet c) :
    convCycle none c.conv (feedIdle env) (storeIdle env) (invalidIn (env.b.arrOp = .reserved) 3 env.pc) = c.conv := by
  have hevs : bitsOf cvBit (invalidIn (env.b.fdOp = .reserved) 5 env.pc ++ (invalidIn (env.b.arrOp = .reserved) 3 env.pc ++
      invalidIn (env.b.stOp = .reserved) 6 env.pc)) = 0 := by
    refine bitsOf_eq_zero (fun e he => ?_)
    have hkind : e.kind = .slotInvalid := by
      simp only [List.mem_append] at he
      rcases he with he | he | he <;> exact kind_of_mem_invalidIn he
    rw [hkind]
    rfl
  simp [convCycle, feedIdle, storeIdle, noStore, hevs, mapIdx_same]
  rw [← q.streams, ← q.stats, ← q.stores]

theorem vecCycle_unperformed (h : Unperformed env.b) (q : Quiet c) :
    vecCycle env c [] [] none = (c.vec, invalidIn (env.b.vOp = .reserved) 4 env.pc) := by
  have hbits := bitsOf_invalidIn vuBit rfl (env.b.vOp = .reserved) 4 env.pc
  unfold invalidIn at hbits
  simp [vecCycle, newVec_unperformed h, vrandOutcome_unperformed h, vecCollides, vecWriteRegs, q.flight, b2n, invalidIn, hbits]
  rw [← q.flight]

theorem opalCycle_unperformed (h : Unperformed env.b) (q : Quiet c) :
    opalCycle env c [] (storeIdle env) false none = c.opal := by
  simp [opalCycle, vrandOutcome_unperformed h, resvNow, storesKept, storeIdle, noStore, q.resv, b2n, mapIdx_same]
  rw [← q.resv]

/-- Buffers that the wait fields of a bundle name are held for three issue cycles already, where they are held (06, R221). -/
def waitsRipe (env : Env) (bufs : List Buffer) : Prop :=
  ∀ n ∈ env.b.waits, (bufs.getD n.toNat bufferFree).kind ≠ .free → (bufs.getD n.toNat bufferFree).claim + 3 ≤ env.u

/-- The buffers of a cluster after the releases of some wait fields (06, R221). -/
def freedBy (names : List (BitVec 6)) (bufs : List Buffer) : List Buffer :=
  bufs.mapIdx (fun i b => if b.kind != .free && names.any (fun n => n.toNat = i) then bufferFree else b)

theorem freedBy_nil (bufs : List Buffer) : freedBy [] bufs = bufs := by
  simp [freedBy, mapIdx_same]

theorem waitLists_early {bufs : List Buffer} (hw : waitsRipe env bufs) : (waitLists env bufs).1 = [] := by
  simp only [waitLists, List.filter_eq_nil_iff, List.mem_filter, List.mem_map]
  rintro i ⟨⟨n, hn, rfl⟩, hkind⟩
  simpa using hw n hn (by simpa using hkind)

theorem mem_waitLists_released {bufs : List Buffer} (hw : waitsRipe env bufs) (i : Nat) :
    i ∈ (waitLists env bufs).2 ↔ (bufs.getD i bufferFree).kind ≠ .free ∧ ∃ n ∈ env.b.waits, n.toNat = i := by
  simp only [waitLists, List.mem_filter, List.mem_map, decide_eq_true_eq, bne_iff_ne]
  constructor
  · rintro ⟨⟨hn, hkind⟩, -⟩
    exact ⟨hkind, hn⟩
  · rintro ⟨hkind, n, hn, rfl⟩
    exact ⟨⟨⟨n, hn, rfl⟩, hkind⟩, hw n hn hkind⟩

theorem waitLists_released {bufs : List Buffer} (hw : waitsRipe env bufs) :
    bufs.mapIdx (fun i b => if (waitLists env bufs).2.contains i then bufferFree else b) = freedBy env.b.waits bufs := by
  apply List.ext_getElem (by simp [freedBy])
  intro i hi _
  have hi : i < bufs.length := by simpa using hi
  have hmem := mem_waitLists_released hw i
  rw [List.getD_eq_getElem _ _ hi] at hmem
  simp only [freedBy, List.getElem_mapIdx, List.contains_iff_mem, hmem, Bool.and_eq_true, bne_iff_ne, List.any_eq_true,
    decide_eq_true_eq]

theorem dmaCycle_unperformed (h : Unperformed env.b) (q : Quiet c) (hw : waitsRipe env c.dma.bufs) (sram : Mem 8) (j : SramJournal) :
    dmaCycle env c sram j none =
      { port := { dma := { c.dma with bufs := freedBy env.b.waits c.dma.bufs }, sram := sram, journal := j, evs := [] },
        outs := [], seed := false } := by
  have hregs : dmaRegs none (bitsOf dmBit []) c.dma = c.dma := congrArg ClusterCore.dma (regsWritten_none c q.dm)
  unfold dmaCycle
  simp only [dmNow_unperformed h, waitLists_early hw, List.append_nil, List.map_nil, hregs, waitLists_released hw]

/-- The slot_invalid events of a bundle's own slots, in the order in which the units raise them (06, R205). -/
def invalidEvs (env : Env) : List Ev :=
  invalidIn (env.b.fdOp = .reserved) 5 env.pc ++ invalidIn (env.b.arrOp = .reserved) 3 env.pc ++
    invalidIn (env.b.stOp = .reserved) 6 env.pc ++ invalidIn (env.b.vOp = .reserved) 4 env.pc ++ scEvs env

/-- A cluster after a bundle that performs nothing: flags for its events, and the buffers that its wait fields name released. -/
def idled (env : Env) (evs : List Ev) (cl : Cluster) : Cluster :=
  { inDma (fun m => { m with bufs := freedBy env.b.waits m.bufs }) (setSq (bitsOf sqBit evs) cl) with
    trap := if env.debug then trapNote env.rel env.step evs cl.trap else cl.trap }

/-- One issue cycle of a quiet cluster under a bundle that performs nothing (06, R205, R221). -/
theorem clusterCycle_unperformed {cl : Cluster} (h : Unperformed env.b) (q : Quiet cl.core) (hw : waitsRipe env cl.core.dma.bufs) :
    clusterCycle env cl = quietOut (idled env (env.seqEvs ++ invalidEvs env) cl) (env.seqEvs ++ invalidEvs env) := by
  have hdec : storesDecided env cl.core cl.sram (heldRanges cl.core.dma.bufs) (feedAccs env cl.core) = [] :=
    storesDecided_quiet env _ _ _ _ q
  have hspot := spotCycle_quiet env cl.core cl.spot cl.core.array q q.flights
  have hserve : serveAll (accSort []) [] = [] := rfl
  unfold clusterCycle
  simp only [hdec, cycleAccs_unperformed h q, hserve, List.filter_nil, List.map_nil, List.foldl_nil, List.append_nil,
    cwrNow_unperformed h, crdNow_unperformed h, feedCycle_unperformed h q, arrayCycle_unperformed h q,
    accumCycle_unperformed h q, storeCycle_unperformed h, vecCycle_unperformed h q]
  have hplaced : (feedIdle env).vec = none := rfl
  have hst : (storeIdle env).placed = none ∧ (storeIdle env).ended = [] ∧ (storeIdle env).host = [] ∧ (storeIdle env).remote = [] :=
    ⟨rfl, rfl, rfl, rfl⟩
  obtain ⟨hst1, hst2, hst3, hst4⟩ := hst
  simp only [hplaced, hst1, hst2, hst3, hst4, entryCycle_unperformed h q, hspot, convCycle_unperformed q, hbmqEnd_nil,
    Option.toList_none, List.map_nil, List.append_nil, List.flatten_nil, dmaCycle_unperformed h q hw,
    opalCycle_unperformed h q]
  have hevs : env.seqEvs ++ (feedIdle env).evs ++ invalidIn (env.b.arrOp = .reserved) 3 env.pc ++ (storeIdle env).evs ++
      invalidIn (env.b.vOp = .reserved) 4 env.pc ++ scEvs env = env.seqEvs ++ invalidEvs env := by
    simp only [feedIdle, storeIdle, invalidEvs, List.append_assoc]
  simp only [hevs]
  have hsc : scalarCycle env cl.core [] (env.seqEvs ++ invalidEvs env) none =
      { cl.core.scalar with status := cl.core.scalar.status ||| bitsOf sqBit (env.seqEvs ++ invalidEvs env) } := by
    have hld : env.b.scOp ≠ .ld := by rcases h.sc with e | e <;> rw [e] <;> decide
    simp [scalarCycle, gNext_unperformed h q, pNext_unperformed h, q.ld, hld]
  rw [hsc]
  rfl

/-! ## The CCLK of a calm partition that takes such a bundle -/

section Calm

variable {s : State} {p : Nat} {b : Bundle}

/-- The state after a tick that has settled the governor's own counts (19, R630, R631). -/
def governed (s : State) (p : Nat) (t : State) : State :=
  { t with gov := { t.gov with settle := (settleTick [p] s).gov.settle, suppress := (settleTick [p] s).gov.suppress } }

/-- A bundle supplied to a calm partition is ready in the CCLK that passes: no item is absent, and it is no boundary. -/
theorem slotTick_ready (h : Calm s p) (hw : absentItems (part s p) b = []) (hedge : isBoundary (part s p).seq b = false) :
    slotTick p b s = governed s p (readyBundle (supplied s p b) p b) := by
  have hpart := part_supplied b h.lt
  have hnext : nextBundle (part (supplied s p b) p).seq = b := by simp [hpart, withSeq, nextBundle, h.stream]
  have hw' : absentItems (part (supplied s p b) p) b = [] := by rw [hpart]; exact hw
  have hedge' : isBoundary (part (supplied s p b) p).seq b = false := by rw [hpart]; exact hedge
  have hholds : holdsNow (supplied s p b) p false = [] := by
    have hsup : suppressedNow (supplied s p b) (part (supplied s p b) p) = false := by rw [hpart]; exact h.power
    have h13 : (part (supplied s p b) p).seq.holds.getLsbD 13 = false := by rw [hpart]; exact h.hold13
    simp only [holdsNow, hsup, h13, Bool.false_and, Bool.false_eq_true, if_false, List.append_nil]
  have hrun : runTick (supplied s p b) p = readyBundle (supplied s p b) p b := by
    unfold runTick
    rw [settleOwed_none (by rw [hpart]; exact h.owed)]
    simp only [hnext, hedge', hholds, hw', Bool.false_eq_true, if_false, List.append_nil]
  have htick : partTick (supplied s p b) p = readyBundle (supplied s p b) p b := by
    have hst : (part (supplied s p b) p).st = .running := by rw [hpart]; exact h.run
    have hclk : cclkSteps (supplied s p b) ≠ 0 := h.clk
    have hfrozen : (part (supplied s p b) p).seq.frozen = false := by rw [hpart]; exact h.frozen
    have hfreezeAt : (part (supplied s p b) p).seq.freezeAt = none := by rw [hpart]; exact h.freezeAt
    have hasked : (part (supplied s p b) p).se.asked = false := by rw [hpart]; exact h.asked
    have hreplaying : (part (supplied s p b) p).se.replaying = false := by rw [hpart]; exact h.replaying
    have hwaiting : (part (supplied s p b) p).waiting = false := by rw [hpart]; exact h.waiting
    simp [partTick, hst, hclk, hfrozen, hfreezeAt, hasked, hreplaying, hwaiting, hrun]
  unfold slotTick
  rw [if_neg (by simp [h.run])]
  simp only [show withPart s p (withSeq fun x => { x with stream := x.stream ++ [b] }) = supplied s p b from rfl, htick]
  rfl

/-- The control slot does nothing: it is empty, or its code is reserved (06, R205). -/
def ctlIdle (b : Bundle) : Prop := b.ctl = .nop ∨ b.ctl = .reserved

theorem ctlNow_idle (hctl : ctlIdle b) (x : SeqState) (a : Nat) :
    ctlNow x a b = (.nop, invalidIn (b.ctl = .reserved) 1 a) := by
  rcases hctl with e | e <;> simp [ctlNow, e, invalidIn]

theorem isBoundary_idle (hctl : ctlIdle b) (x : SeqState) : isBoundary x b = false := by
  simp [isBoundary, ctlNow_idle hctl]

/-- Every buffer that a bundle's wait fields name is unpoisoned and, where it is held, three issue cycles old and present for three
CCLK (01, R36, R39). -/
def waitsMet (q : Partition) (b : Bundle) : Prop :=
  ∀ c ∈ q.clusters, ∀ n ∈ b.waits,
    let x := c.core.dma.bufs.getD n.toNat bufferFree
    x.poisoned = false ∧ (x.kind ≠ .free → x.claim + 3 ≤ q.seq.ic ∧ x.present = true ∧ x.presentAt + 3 ≤ q.seq.cclk)

theorem absentItems_met {q : Partition} (h : waitsMet q b) : absentItems q b = [] := by
  unfold absentItems
  split
  · rfl
  · simp only [List.flatMap_eq_nil_iff, List.map_eq_nil_iff, List.filter_eq_nil_iff, List.mem_filter, List.contains_iff_mem,
      List.mem_map]
    rintro ⟨c, i⟩ hc j ⟨-, n, hn, rfl⟩
    have hmet := h c (List.fst_mem_of_mem_zipIdx hc) n hn
    simp only [bufAbsent, Bool.and_eq_true, bne_iff_ne, decide_eq_true_eq, Bool.not_eq_true', Bool.and_eq_false_iff,
      decide_eq_false_iff_not, not_and, not_or]
    intro hheld
    obtain ⟨-, hpresent, hat⟩ := hmet.2 hheld.1
    exact ⟨by rw [hpresent]; decide, fun hlate => hlate hat⟩

theorem poisonedWait_met {q : Partition} (h : waitsMet q b) : poisonedWait q b = none := by
  unfold poisonedWait
  rw [List.findSome?_eq_none_iff]
  rintro ⟨c, i⟩ hc
  rw [Option.map_eq_none_iff, List.find?_eq_none]
  intro j hj
  obtain ⟨n, hn, rfl⟩ := List.mem_map.1 hj
  rw [(h c (List.fst_mem_of_mem_zipIdx hc) n hn).1]
  decide

theorem strictTrap_unperformed (hb : Unperformed b) (s : State) (p : Nat) : strictTrap s p b = none := by
  have hnone : ∀ i, dmNow (envOf s p 0 b [] i) (clAt (part s p) i).core = none := fun i =>
    dmNow_unperformed (env := envOf s p 0 b [] i) hb
  unfold strictTrap
  simp only [hnone, Option.bind_none, List.findSome?_eq_none_iff.2 (fun _ _ => rfl), ite_self]

theorem countTd_unperformed (hb : Unperformed b) (s : State) (p : Nat) : countTd s p b = s := by
  have hnone : ∀ i, dmNow (envOf s p 0 b [] i) (clAt (part s p) i).core = none := fun i =>
    dmNow_unperformed (env := envOf s p 0 b [] i) hb
  unfold countTd
  simp only [hnone, List.filterMap_eq_nil_iff.2 (fun _ _ => rfl)]
  split <;> rfl

/-- The events of a supplied bundle that performs nothing: slot_invalid for each slot with a reserved code (06, R205). -/
def idleEvs (s : State) (p : Nat) (b : Bundle) (i : Nat) : List Ev :=
  invalidIn (b.ctl = .reserved) 1 (part s p).seq.next ++
    invalidEvs (envAt s p b (invalidIn (b.ctl = .reserved) 1 (part s p).seq.next) i)

/-- A cluster after a supplied bundle that performs nothing. -/
def idleCluster (s : State) (p : Nat) (b : Bundle) (i : Nat) : Cluster → Cluster :=
  idled (envAt s p b (invalidIn (b.ctl = .reserved) 1 (part s p).seq.next) i) (idleEvs s p b i)

/-- In debug mode the bundle raises no event that a trap records (08, R276). -/
def untrapped (s : State) (p : Nat) (b : Bundle) : Prop := (part s p).job.debug = true → ∀ i, idleEvs s p b i = []

theorem idleCluster_hbmq (i : Nat) (c : Cluster) : (idleCluster s p b i c).core.dma.hbmq = c.core.dma.hbmq := rfl

theorem idleCluster_trap (hev : untrapped s p b) (hdebug : (part s p).job.debug = true) (i : Nat) (c : Cluster) :
    (idleCluster s p b i c).trap = c.trap := by
  simp [idleCluster, idled, hev hdebug i, trapNote, firstEv]

theorem clustersCycle_idle (h : Calm s p) (hb : Unperformed b) (hw : waitsMet (part s p) b) :
    clustersCycle (supplied s p b) p (part s p).seq.next b (invalidIn (b.ctl = .reserved) 1 (part s p).seq.next) =
      (part s p).clusters.mapIdx (fun i c => quietOut (idleCluster s p b i c) (idleEvs s p b i)) := by
  unfold clustersCycle
  rw [part_supplied b h.lt, withSeq_clusters]
  apply List.ext_getElem?
  intro i
  simp only [List.getElem?_mapIdx]
  cases hc : (part s p).clusters[i]? with
  | none => rfl
  | some c =>
    have hmem := List.mem_of_getElem? hc
    have hripe : waitsRipe (envAt s p b (invalidIn (b.ctl = .reserved) 1 (part s p).seq.next) i) c.core.dma.bufs := by
      intro n hn hheld
      rw [envAt_u b _ i h.lt]
      exact ((hw c hmem n hn).2 hheld).1
    exact congrArg some (clusterCycle_unperformed hb (h.quiet c hmem) hripe)

/-- The clusters of a calm partition take a cycle in which nothing is performed. -/
theorem takeCycle_idle (h : Calm s p) (hev : untrapped s p b) :
    let outs := (part s p).clusters.mapIdx (fun i c => quietOut (idleCluster s p b i c) (idleEvs s p b i))
    takeCycle (supplied s p b) p outs =
      withPart (supplied s p b) p (fun q => { q with clusters := outs.map (·.cl), se := noteCycle outs q.se }) := by
  intro outs
  have hpart := part_supplied b h.lt
  have hlt : p < (supplied s p b).parts.length := by simpa [supplied, updAt_length] using h.lt
  have hp := part_withPart (supplied s p b) p (fun q => { q with clusters := outs.map (·.cl), se := noteCycle outs q.se }) hlt
  have hout : ∀ o ∈ outs, o.outs = [] := by
    intro o ho
    obtain ⟨i, hi, rfl⟩ := List.mem_mapIdx.1 ho
    rfl
  have hcl : ∀ x ∈ outs.map (·.cl), ∃ i, ∃ c ∈ (part s p).clusters, x = idleCluster s p b i c := by
    intro x hx
    obtain ⟨o, ho, rfl⟩ := List.mem_map.1 hx
    obtain ⟨i, hi, rfl⟩ := List.mem_mapIdx.1 ho
    exact ⟨i, _, List.getElem_mem hi, rfl⟩
  have hdrain : ∀ x ∈ outs.map (·.cl), ∀ o ∈ x.core.dma.hbmq, storePlace o = true := by
    intro x hx o ho
    obtain ⟨i, c, hc, rfl⟩ := hcl x hx
    rw [idleCluster_hbmq, (h.quiet c hc).hbmq] at ho
    cases ho
  have htrap : (part s p).job.debug = true → ∀ x ∈ outs.map (·.cl), x.trap.valid = false := by
    intro hdebug x hx
    obtain ⟨i, c, hc, rfl⟩ := hcl x hx
    rw [idleCluster_trap hev hdebug]
    exact h.traps hdebug c hc
  have hfull : ∀ x ∈ outs.map (·.cl), x.journal.full = false := by
    intro x hx
    obtain ⟨i, c, hc, rfl⟩ := hcl x hx
    exact h.room c hc
  unfold takeCycle
  simp only [dispatch_none outs 0 _ hout]
  rw [drainAll_none (by rw [hp]; exact hdrain), noteFreeze_none (by rw [hp, hpart]; exact htrap),
    noteUnreplayable_none (by rw [hp, hpart]; exact h.replayable) (by rw [hp, hpart]; exact h.hj) (by rw [hp]; exact hfull)]

/-- A supplied bundle that performs nothing issues: its events and releases, and the sequencer one bundle on. -/
theorem issueBundle_idle (h : Calm s p) (hb : Unperformed b) (hctl : ctlIdle b) (hw : waitsMet (part s p) b)
    (hev : untrapped s p b) :
    governed s p (issueBundle (supplied s p b) p (part s p).seq.next b) = ranBundle s p (idleCluster s p b) plainSeq := by
  have hpart := part_supplied b h.lt
  have hbeg : beginStep (supplied s p b) p = supplied s p b := beginStep_begun (by rw [hpart]; exact h.begun)
  unfold issueBundle
  simp only [hbeg, ctlNow_idle hctl, clustersCycle_idle h hb hw, countTd_unperformed hb, takeCycle_idle h hev]
  generalize hO : (part s p).clusters.mapIdx (fun i c => quietOut (idleCluster s p b i c) (idleEvs s p b i)) = outs
  have hcl : outs.map (·.cl) = (part s p).clusters.mapIdx (idleCluster s p b) := by
    rw [← hO]; apply List.ext_getElem <;> simp [quietOut]
  have hquiet : ∀ o ∈ outs, o.clash = false ∧ o.skipped = false := by
    intro o ho
    rw [← hO] at ho
    obtain ⟨i, hi, rfl⟩ := List.mem_mapIdx.1 ho
    exact ⟨rfl, rfl⟩
  have hclash : outs.any (·.clash) = false := List.any_eq_false.2 (fun o ho => by rw [(hquiet o ho).1]; decide)
  have hskip : countTrue (outs.map (·.skipped)) = 0 :=
    countTrue_none (fun x hx => by obtain ⟨o, ho, rfl⟩ := List.mem_map.1 hx; exact (hquiet o ho).2)
  have hpeak : ∀ n, outs.foldl (fun n o => max n o.cl.journal.lines.length) n =
      ((part s p).clusters.mapIdx (idleCluster s p b)).foldl (fun n c => max n c.journal.lines.length) n := by
    intro n; rw [← hcl, List.foldl_map]
  simp only [hclash, Bool.false_eq_true, if_false]
  unfold ranBundle governed supplied
  simp only [withPart_withPart]
  rw [withPart_congr s p _ (fun q =>
    { q with
      clusters := (part s p).clusters.mapIdx (idleCluster s p b), seq := plainSeq q.seq,
      se := { q.se with sjPeak := BitVec.ofNat 32 (((part s p).clusters.mapIdx (idleCluster s p b)).foldl
        (fun n c => max n c.journal.lines.length) q.se.sjPeak.toNat) } })]
  · rfl
  · simp only [withSeq, noteCycle, hskip, satInc_zero, hpeak, hcl,
      ← plainSeq_eq ((part s p).clusters.mapIdx (idleCluster s p b)) (part s p).seq]
    simp [bumpCycle, seqAfter, seqNext, h.stream]

/-- A bundle that performs nothing, supplied to a calm partition whose named buffers are present (01, R36; 06, R205, R221). -/
theorem slotTick_idle (h : Calm s p) (hb : Unperformed b) (hctl : ctlIdle b) (hw : waitsMet (part s p) b)
    (hbrk : b.brk = false ∨ (part s p).job.debug = false ∨ (part s p).seq.brkPassed = true) (hev : untrapped s p b) :
    slotTick p b s = ranBundle s p (idleCluster s p b) plainSeq := by
  have hpart := part_supplied b h.lt
  have hready : readyBundle (supplied s p b) p b = issueBundle (supplied s p b) p (part s p).seq.next b := by
    have hpoison : poisonedWait (part (supplied s p b) p) b = none := by rw [hpart]; exact poisonedWait_met hw
    have hstop : (b.brk && (part (supplied s p b) p).job.debug && !(part (supplied s p b) p).seq.brkPassed) = false := by
      rw [hpart]
      rcases hbrk with e | e | e <;> simp [withSeq, e]
    unfold readyBundle
    simp only [hpoison, hstop, strictTrap_unperformed hb, isBoundary_idle hctl, Bool.false_eq_true, if_false, Bool.not_false,
      if_true]
    rw [hpart]
    rfl
  rw [slotTick_ready h (absentItems_met hw) (isBoundary_idle hctl _), hready, issueBundle_idle h hb hctl hw hev]

/-- A cluster after a bundle without events: the buffers that its wait fields name are released (06, R221). -/
theorem idled_nil (env : Env) (c : Cluster) : idled env [] c = released_ env.b.waits c := by
  have hflags : setSq (bitsOf sqBit []) c = c := by
    simp only [setSq, inScalar, inCore, bitsOf_nil, or_zero64]
  have htrap : trapNote env.rel env.step [] c.trap = c.trap := rfl
  simp only [idled, hflags, htrap, ite_self]
  rfl

/-- A supplied bundle that raises no event releases what its wait fields name, and does nothing else. -/
theorem slotTick_silent (h : Calm s p) (hb : Unperformed b) (hctl : ctlIdle b) (hw : waitsMet (part s p) b)
    (hbrk : b.brk = false ∨ (part s p).job.debug = false ∨ (part s p).seq.brkPassed = true) (hev : ∀ i, idleEvs s p b i = []) :
    slotTick p b s = ranBundle s p (fun _ => released_ b.waits) plainSeq := by
  rw [slotTick_idle h hb hctl hw hbrk (fun _ => hev)]
  refine ranBundle_congr (fun i c _ => ?_) rfl
  rw [idleCluster, hev i, idled_nil]
  rfl

/-! ## BUFFER_WAIT, BRK and RESERVED_OPERATION -/

/-- The bundle of BUFFER_WAIT and of BRK: wait fields and `brk`, and an empty slot everywhere. -/
def headerBundle (waits : List (BitVec 6)) (brk : Bool) : Bundle := { emptyBundle with waits := waits, brk := brk }

theorem unperformed_header (waits : List (BitVec 6)) (brk : Bool) : Unperformed (headerBundle waits brk) :=
  ⟨.inl rfl, .inl rfl, rfl, .inl rfl, .inl rfl, .inl rfl, .inl rfl⟩

theorem idleEvs_header (waits : List (BitVec 6)) (brk : Bool) (i : Nat) : idleEvs s p (headerBundle waits brk) i = [] := rfl

theorem released_nil : released_ [] = fun c => c := by
  funext c
  simp [released_, inDma, inCore, mapIdx_same]

/-- A slot command of a calm partition is one of its twelve. -/
theorem slotExec_calm (h : Calm s p) (b : Bundle) : slotExec p b s = .next (slotTick p b s) :=
  onUnit_of_true (decide_eq_true h.twelve) _

/-- BUFFER_WAIT on buffers that are present releases them (01, R36; 06, R221). -/
theorem execBufferWait_calm {names : List (BitVec 6)} (h : Calm s p) (hlen : names.length ≤ 4)
    (hw : waitsMet (part s p) (headerBundle names false)) :
    execBufferWait p names s = .next (ranBundle s p (fun _ => released_ names) plainSeq) := by
  rw [execBufferWait, List.take_of_length_le hlen, slotExec_calm h]
  exact congrArg _ (slotTick_silent h (unperformed_header names false) (.inl rfl) hw (.inl rfl) (idleEvs_header names false))

theorem waitsMet_nil {q : Partition} (h : b.waits = []) : waitsMet q b := by
  intro c _ n hn
  rw [h] at hn
  cases hn

/-- BRK outside debug mode, and at a bundle that was passed after a resume, does nothing (08, R272, R274; log entry 27). -/
theorem execBrk_passes (h : Calm s p) (hpass : (part s p).job.debug = false ∨ (part s p).seq.brkPassed = true) :
    execBrk p s = .next (ranBundle s p (fun _ c => c) plainSeq) := by
  rw [execBrk, slotExec_calm h, ← released_nil]
  exact congrArg _ (slotTick_silent h (unperformed_header [] true) (.inl rfl) (waitsMet_nil rfl) (.inr hpass) (idleEvs_header [] true))

theorem unperformed_reserved {n : Nat} (hn : n < 8) : Unperformed (reservedBundle n) ∧ ctlIdle (reservedBundle n) := by
  interval_cases n <;> exact ⟨by constructor <;> decide, by unfold ctlIdle; decide⟩

/-- A reserved code in any slot but the header raises slot_invalid and nothing else (06, R205). -/
theorem bitsOf_reserved {n : Nat} (hn : n < 8) (i : Nat) :
    bitsOf sqBit (idleEvs s p (reservedBundle n) i) = if n = 0 then 0 else 0x100 := by
  have hone : ∀ slot pc : Nat, bitsOf sqBit [{ kind := .slotInvalid, slot := slot, pc := pc, detail := 0 }] = 0x100 :=
    fun _ _ => by simp [bitsOf, sqBit]
  interval_cases n <;> simp [idleEvs, invalidEvs, invalidIn, scEvs, reservedBundle, emptyBundle, hone]

theorem reservedBundle_waits (n : Nat) : (reservedBundle n).waits = [] := by
  unfold reservedBundle
  split <;> rfl

theorem reservedBundle_brk (n : Nat) : (reservedBundle n).brk = false := by
  unfold reservedBundle
  split <;> rfl

/-- RESERVED_OPERATION outside debug mode sets slot_invalid, and for the header nothing (06, R205). -/
theorem execReservedOperation_calm (h : Calm s p) (hdebug : (part s p).job.debug = false) (slot : BitVec 3) :
    execReservedOperation p slot s =
      .next (ranBundle s p (fun _ => if slot = 0 then (fun c => c) else setSq 0x100) plainSeq) := by
  have hn : slot.toNat < 8 := slot.isLt
  obtain ⟨hb, hctl⟩ := unperformed_reserved hn
  rw [execReservedOperation, slotExec_calm h,
    slotTick_idle h hb hctl (waitsMet_nil (reservedBundle_waits _)) (.inl (reservedBundle_brk _))
      (fun e => by rw [hdebug] at e; cases e)]
  refine congrArg _ (ranBundle_congr (fun i c _ => ?_) rfl)
  have hzero : slot.toNat = 0 ↔ slot = 0 := (BitVec.toNat_eq (y := 0)).symm
  have hfree : ∀ m : DmaUnit, { m with bufs := freedBy [] m.bufs } = m := fun m => by rw [freedBy_nil]
  have henv : (envAt s p (reservedBundle slot.toNat) (invalidIn ((reservedBundle slot.toNat).ctl = .reserved) 1
      (part s p).seq.next) i).debug = false := (envAt_debug _ _ i h.lt).trans hdebug
  simp only [idleCluster, idled, henv, bitsOf_reserved hn, hzero, envAt_b, reservedBundle_waits, hfree, Bool.false_eq_true,
    if_false]
  split
  · simp only [setSq, inDma, inScalar, inCore, or_zero64]
  · rfl

/-! ## The freeze of BRK in debug mode -/

/-- The event of `brk` at a bundle address (08, R274). -/
def brkEv (pc : Nat) : Ev := { kind := .brk, slot := 0, pc := pc, detail := 0 }

/-- The trap record that `brk` leaves in a cluster whose record is free (08, R274, R276, R279). -/
def brkTrap (q : Partition) (t : TrapUnit) : TrapUnit :=
  { valid := true, info := BitVec.ofNat 64 (0x10000 + q.seq.next), cycle := BitVec.ofNat 64 (q.seq.ic - q.seq.ic0),
    step := BitVec.ofNat 64 q.seq.step, detail := 0, count := t.count }

theorem trapNote_brk (q : Partition) {t : TrapUnit} (h : t.valid = false) :
    trapNote (q.seq.ic - q.seq.ic0) q.seq.step [brkEv q.seq.next] t = brkTrap q t := by
  simp [trapNote, firstEv, h, brkTrap, brkEv, evCause]

/-- A partition that `brk` has frozen before its bundle issued (08, R274, R276). -/
def brkFrozen (q : Partition) (b : Bundle) : Partition :=
  { q with
    seq := { q.seq with stream := q.seq.stream ++ [b], brkPassed := true, frozen := true, freezeAt := none, cclk := q.seq.cclk + 1 },
    clusters := q.clusters.map (fun c => { c with trap := brkTrap q c.trap }) }

/-- In debug mode a bundle with `brk` that was not passed before freezes the partition instead of issuing (08, R274, R276). -/
theorem part_slotTick_brk (h : Calm s p) (hdebug : (part s p).job.debug = true) (hnew : (part s p).seq.brkPassed = false) :
    part (slotTick p (headerBundle [] true) s) p = brkFrozen (part s p) (headerBundle [] true) := by
  have hpart := part_supplied (headerBundle [] true) h.lt
  have hlen : p < (supplied s p (headerBundle [] true)).parts.length := by simpa [supplied, updAt_length] using h.lt
  have hready : readyBundle (supplied s p (headerBundle [] true)) p (headerBundle [] true) =
      idleCycle (brkFreeze (supplied s p (headerBundle [] true)) p (part s p).seq.next) p := by
    have hpoison : poisonedWait (part (supplied s p (headerBundle [] true)) p) (headerBundle [] true) = none :=
      poisonedWait_met (waitsMet_nil rfl)
    have hstop : ((headerBundle [] true).brk && (part (supplied s p (headerBundle [] true)) p).job.debug &&
        !(part (supplied s p (headerBundle [] true)) p).seq.brkPassed) = true := by
      rw [hpart]; simp [withSeq, headerBundle, hdebug, hnew]
    unfold readyBundle
    simp only [hpoison, hstop, if_true]
    rw [hpart]
    rfl
  rw [slotTick_ready h (absentItems_met (waitsMet_nil rfl)) (isBoundary_idle (.inl rfl) _), hready]
  change part (idleCycle _ p) p = _
  unfold idleCycle brkFreeze freezePart
  rw [part_withPart _ _ _ (by simpa using hlen), part_sendEvent, part_withPart _ _ _ (by simpa using hlen),
    part_withPart _ _ _ hlen, hpart]
  have htrap : (part s p).clusters.map (fun c =>
      { c with trap := trapNote ((part s p).seq.ic - (part s p).seq.ic0) (part s p).seq.step [brkEv (part s p).seq.next] c.trap }) =
      (part s p).clusters.map (fun c => { c with trap := brkTrap (part s p) c.trap }) :=
    List.map_congr_left (fun c hc => by rw [trapNote_brk _ (h.traps hdebug c hc)])
  unfold brkEv at htrap
  simp only [withSeq, htrap, brkFrozen]

theorem execBrk_freezes (h : Calm s p) (hdebug : (part s p).job.debug = true) (hnew : (part s p).seq.brkPassed = false) :
    ∃ t, execBrk p s = .next t ∧ part t p = brkFrozen (part s p) (headerBundle [] true) :=
  ⟨_, slotExec_calm h _, part_slotTick_brk h hdebug hnew⟩

end Calm

/-- Settles O5: a slot command of a calm partition that performs nothing raises the events of its reserved codes and releases the
buffers that it names; `brk` in debug mode freezes before the issue. -/
theorem waitsAndBreaks : Obligations.WaitsAndBreaks := by
  unfold Obligations.WaitsAndBreaks
  refine ⟨fun s p names h hlen hw => execBufferWait_calm h hlen hw, fun s p h => ⟨execBrk_passes h, fun hdebug hnew => ?_⟩,
    fun s p slot h hdebug => execReservedOperation_calm h hdebug slot⟩
  obtain ⟨t, hnext, hpart⟩ := execBrk_freezes h hdebug hnew
  exact ⟨t, hnext, by rw [hpart]; exact ⟨rfl, rfl, rfl, rfl⟩⟩

end Sys2Proof.Machine
end

section
/-! SUPPORT. Health scores, failed units and spares: what each operation changes (01, R26 to R30; 15, R502 to R507). -/

namespace Sys2Proof.Machine

/-! ## Health scores -/

/-- A partition whose rank is to ask for a checkpoint, if a job is active there (15, R503; 16, R537). -/
def askCut (q : Partition) : Partition := if jobActive q then { q with ck := { q.ck with pending := true } } else q

/-- What a score, an event, the life record and the request for a checkpoint keep, a change of a health score keeps. -/
theorem addHealth_keeps {α : Type} (f : State → α) (hset : ∀ t h, f (setHealth t h) = f t)
    (hevent : ∀ t src p code detail, f (sendEvent t src p code detail) = f t) (hlife : ∀ t x, f { t with life := x } = f t)
    (hask : ∀ t, f { t with parts := t.parts.map askCut } = f t) (s : State) (u : EvSrc) (w : Nat) :
    f (addHealth s u w).1 = f s := by
  have hwarn : ∀ (t : State) (l : Life), f { t with life := l, parts := t.parts.map askCut } = f t := fun t l =>
    (hlife { t with parts := t.parts.map askCut } l).trans (hask t)
  unfold addHealth
  split
  · rfl
  · extract_lets h sc warns fails s1 t src s2 src'
    have h1 : f s1 = f s := hset ..
    have h2 : f s2 = f s := by
      show f (if warns = true then _ else s1) = f s
      split
      · exact (hwarn _ _).trans ((hevent ..).trans h1)
      · exact h1
    dsimp only
    split
    · exact (hlife ..).trans h2
    · exact h2

@[simp] theorem addHealth_grid (s : State) (u : EvSrc) (w : Nat) : (addHealth s u w).1.grid = s.grid :=
  addHealth_keeps State.grid (fun _ _ => rfl) sendEvent_grid (fun _ _ => rfl) (fun _ => rfl) s u w

@[simp] theorem addHealth_tw (s : State) (u : EvSrc) (w : Nat) : (addHealth s u w).1.faults.tw = s.faults.tw :=
  addHealth_keeps (fun t => t.faults.tw) (fun _ _ => rfl)
    (fun _ _ _ _ _ => of_inward (fun t => t.faults.tw) (fun _ => rfl) (inward_sendEvent ..)) (fun _ _ => rfl) (fun _ => rfl) s u w

/-- A partition but for the request for a checkpoint. -/
def cutless (q : Partition) : Partition := { q with ck := { q.ck with pending := false } }

theorem cutless_askCut (q : Partition) : cutless (askCut q) = cutless q := by
  unfold askCut
  split <;> rfl

/-- A change of a health score touches of a partition the request for a checkpoint alone. -/
theorem cutless_addHealth (s : State) (u : EvSrc) (w k : Nat) :
    cutless (part (addHealth s u w).1 k) = cutless (part s k) := by
  refine addHealth_keeps (fun t => cutless (part t k)) (fun _ _ => rfl) (fun t _ _ _ _ => by rw [part_sendEvent])
    (fun _ _ => rfl) (fun t => ?_) s u w
  unfold part
  by_cases hk : k < t.parts.length
  · rw [List.getD_eq_getElem _ _ hk, List.getD_eq_getElem _ _ (by simpa using hk), List.getElem_map, cutless_askCut]
  · rw [List.getD_eq_default _ _ (Nat.not_lt.1 hk), List.getD_eq_default _ _ (by simpa using hk)]

theorem jobActive_cutless {q r : Partition} (h : cutless q = cutless r) : jobActive q = jobActive r := by
  have hst := congrArg Partition.st h
  unfold jobActive
  rw [show q.st = r.st from hst]

/-- A score that stays below the warning and failure levels of its unit is kept, and nothing else changes (15, R502). -/
theorem addHealth_below {s : State} {u : EvSrc} {w warn decay : Nat} {fail : Option Nat}
    (hlev : healthLevels u.unit = some (warn, fail, decay)) (hwarn : (satInc (healthOf s u).score w).toNat < warn)
    (hfail : ∀ f, fail = some f → warn ≤ f) :
    addHealth s u w = (setHealth s { healthOf s u with score := satInc (healthOf s u).score w }, false) := by
  have hnot : ∀ f, fail = some f → ¬ f ≤ (satInc (healthOf s u).score w).toNat := fun f hf =>
    Nat.not_le.2 (lt_of_lt_of_le hwarn (hfail f hf))
  unfold addHealth
  rw [hlev]
  cases fail with
  | none => simp [Nat.not_le.2 hwarn]
  | some f => simp [Nat.not_le.2 hwarn, hnot f rfl]

/-! ## Failed units and spares -/

/-- Declaring a unit failed is a matter of its score entry and of the life record (15, R503). -/
theorem declareDown_keeps {α : Type} (f : State → α)
    (hf : ∀ t h x, f { setHealth t h with life := x } = f t) (s : State) (u : EvSrc) : f (declareDown s u) = f s := by
  unfold declareDown
  simp only []
  split
  · rfl
  · exact hf ..

@[simp] theorem declareDown_parts (s : State) (u : EvSrc) : (declareDown s u).parts = s.parts :=
  declareDown_keeps State.parts (fun _ _ _ => rfl) s u
@[simp] theorem declareDown_grid (s : State) (u : EvSrc) : (declareDown s u).grid = s.grid :=
  declareDown_keeps State.grid (fun _ _ _ => rfl) s u
@[simp] theorem declareDown_boot (s : State) (u : EvSrc) : (declareDown s u).boot = s.boot :=
  declareDown_keeps State.boot (fun _ _ _ => rfl) s u
@[simp] theorem declareDown_tw (s : State) (u : EvSrc) : (declareDown s u).faults.tw = s.faults.tw :=
  declareDown_keeps (fun t => t.faults.tw) (fun _ _ _ => rfl) s u
@[simp] theorem declareDown_twState (s : State) (u : EvSrc) : (declareDown s u).faults.twState = s.faults.twState :=
  declareDown_keeps (fun t => t.faults.twState) (fun _ _ _ => rfl) s u
@[simp] theorem declareDown_clusters (s : State) (u : EvSrc) : (declareDown s u).life.clusters = s.life.clusters := by
  unfold declareDown
  simp only []
  split <;> rfl

/-- A warning that spares run low changes nothing inside the module but its own note (01, R30). -/
theorem inward_spareWarn (s : State) : ∃ low, inward (spareWarn s) = inward { s with grid := { s.grid with spareLow := low } } := by
  have hlow : ∀ (t : State) (low : Bool), inward t = inward s →
      inward { t with grid := { t.grid with spareLow := low } } = inward { s with grid := { s.grid with spareLow := low } } :=
    fun t low h => congrArg (fun u => { u with grid := { u.grid with spareLow := low } }) h
  exact ⟨_, hlow _ _ (inward_ite (inward_sendEvent ..) rfl)⟩

/-- What looks at the insides of the module but for that note is kept by a warning that spares run low. -/
theorem of_spareWarn {α : Type} (f : State → α) (hf : ∀ u, f (inward u) = f u)
    (hlow : ∀ u low, f { u with grid := { u.grid with spareLow := low } } = f u) (s : State) : f (spareWarn s) = f s := by
  obtain ⟨low, h⟩ := inward_spareWarn s
  exact (of_inward f hf h).trans (hlow s low)

@[simp] theorem part_spareWarn (s : State) (k : Nat) : part (spareWarn s) k = part s k :=
  of_spareWarn (part · k) (fun _ => rfl) (fun _ _ => rfl) s

/-- With every cluster disabled no spare is free. -/
theorem spareFor_none {s : State} (h : ∀ c < 512, s.grid.disabled.getLsbD c = true) (phys : Nat) (skip : List Nat) :
    spareFor s phys skip = none := by
  have hfree : freeSpares s.grid = [] := by
    unfold freeSpares
    rw [List.filter_eq_nil_iff]
    intro c hc
    rw [h c (List.mem_range.1 hc)]
    simp
  have hnow : sparesNow s = [] := by rw [sparesNow, hfree, List.filter_nil]
  unfold spareFor
  rw [hnow]
  rfl

end Sys2Proof.Machine
end

section
/-! SUPPORT. A cluster that fails without a spare ends the job of its partition, also where the failure is an error seen in an earlier
attempt of the step (01, R26, R30; 15, R505). -/

namespace Sys2Proof.Machine

/-- A cluster that leaves service is disabled (01, R26). -/
theorem clusterOut_disabled (s : State) (phys : Nat) :
    (clusterOut s phys).grid.disabled = s.grid.disabled ||| BitVec.ofNat 512 (2 ^ phys) := by
  unfold clusterOut
  simp only [declareDown_grid]

theorem part_clusterOut (s : State) (phys k : Nat) : part (clusterOut s phys) k = part s k :=
  congrArg (fun l => l.getD k partReset) (declareDown_parts s (srcCl phys))

theorem clusterOut_tw (s : State) (phys : Nat) : (clusterOut s phys).faults.tw = s.faults.tw :=
  declareDown_tw s (srcCl phys)

theorem clusterOut_table (s : State) (phys : Nat) : (clusterOut s phys).grid.table = s.grid.table :=
  congrArg (fun g => g.table) (declareDown_grid s (srcCl phys))

/-- A disabled set over every cluster stays one where one more leaves service, so no spare stands in. -/
theorem spareFor_clusterOut_none {s : State} (h : ∀ c < 512, s.grid.disabled.getLsbD c = true) (phys : Nat) :
    spareFor (clusterOut s phys) phys [] = none :=
  spareFor_none (fun c hc => by rw [clusterOut_disabled, BitVec.getLsbD_or, h c hc, Bool.true_or]) phys []

/-- A failed cluster for which no spare is free ends the job of its partition (01, R30). -/
theorem clusterFails_ends {s : State} {l p : Nat} (htw : s.faults.tw = none) (hp : partOfCl s l = some p)
    (hout : ∀ c < 512, s.grid.disabled.getLsbD c = true) (hjob : jobActive (part s p) = true) :
    (part (clusterFails s l) p).st = .ended := by
  have habort : twAbort s = s := by rw [twAbort, htw]; rfl
  have hmoved : physOf (clusterOut s (physOf s l)) l = physOf s l := by rw [physOf, clusterOut_table]; rfl
  have hjob' : jobActive (part (spareWarn (clusterOut s (physOf s l))) p) = true := by
    rw [part_spareWarn, part_clusterOut, hjob]
  unfold clusterFails
  simp only [habort, hmoved, hp, Option.getD_some, bne_self_eq_false, Bool.false_eq_true, if_false, spareFor_clusterOut_none hout,
    hjob', if_true]
  rw [part_faultEnd hjob']
  rfl

/-- No change of a health score starts or ends a job. -/
theorem jobActive_addHealth {s : State} (u : EvSrc) (w k : Nat) : jobActive (part (addHealth s u w).1 k) = jobActive (part s k) :=
  jobActive_cutless (cutless_addHealth s u w k)

theorem addHealth_boot (s : State) (u : EvSrc) (w : Nat) : (addHealth s u w).1.boot = s.boot :=
  addHealth_keeps State.boot (fun _ _ => rfl) sendEvent_boot (fun _ _ => rfl) (fun _ => rfl) s u w

theorem partOfCl_of_boot {s t : State} (h : t.boot = s.boot) (l : Nat) : partOfCl t l = partOfCl s l := by
  unfold partOfCl clPer planCount
  rw [h]

/-- The same error in two attempts of a step fails the cluster; with no spare free that ends the job (01, R30; 15, R505). -/
theorem uncorrectable_again_ends {s : State} {l p x place : Nat} (hx : 1 ≤ x) (hx7 : x < 7) (htw : s.faults.tw = none)
    (hp : partOfCl s l = some p) (hout : ∀ c < 512, s.grid.disabled.getLsbD c = true) (hrun : (part s p).st = .running)
    (hagain : errorAgain (part s p) l x place = true) :
    (part (uncorrectable s l x place) p).st = .ended := by
  unfold uncorrectable
  simp only [hp, Option.getD_some, hagain, Bool.true_or, if_true]
  rw [if_neg (by omega), if_neg (by omega)]
  have hnoted : jobActive (part (noteError (sendEvent s (srcCl (physOf s l)) p 0x05B0 (x + l * 2 ^ 16 + place * 2 ^ 32)) p l x place) p)
      = true := by
    rw [noteError, withSe, part_withPart _ _ _ (by simpa using lt_of_running hrun), part_sendEvent]
    exact jobActive_of_running hrun
  apply clusterFails_ends
  · rw [addHealth_tw]
    exact (of_inward (fun t => t.faults.tw) (fun _ => rfl) (inward_sendEvent ..)).trans htw
  · rw [partOfCl_of_boot (addHealth_boot ..), ← hp]
    exact partOfCl_of_boot (sendEvent_boot ..) l
  · rw [addHealth_grid]
    show ∀ c < 512, (sendEvent s _ _ _ _).grid.disabled.getLsbD c = true
    rw [sendEvent_grid]
    exact hout
  · rw [jobActive_addHealth, hnoted]

/-! ## The counterexample: a repeated error while no spare is left -/

/-- A partition that runs and saw an error in structure 1 of its cluster 0 in attempt 1, and is in attempt 2. -/
def erredPart : Partition :=
  { partReset with
    st := .running, seq := { seqReset with attempt := 2 }, se := { partReset.se with hjBytesEff := 128, errs := [(1, 1, 0, 0)] } }

/-- A module with one partition in plan entry 0, where erredPart runs and every cluster is disabled. -/
def sparelessState : State :=
  { State.reset with
    boot := { bootReset with copy := fuseReset, planOn := true }, parts := erredPart :: List.replicate 11 partReset,
    grid := { gridReset with disabled := BitVec.allOnes 512 }, host := { hostReset with up := true } }

theorem sparelessState_partOfCl : partOfCl sparelessState 0 = some 0 := by decide

theorem sparelessState_table : sparelessState.grid.table.length = 480 := by simp [sparelessState, gridReset]

theorem canReplay_erredPart : canReplay erredPart = true := by decide

theorem sparelessState_disabled (c : Nat) (hc : c < 512) : sparelessState.grid.disabled.getLsbD c = true := by
  have h : sparelessState.grid.disabled = BitVec.allOnes 512 := by rw [sparelessState]
  rw [h, BitVec.getLsbD_allOnes, decide_eq_true hc]

/-- The error of sparelessState comes again: the job ends, and no replay is taken up. -/
theorem sparelessState_ends : (part (uncorrectable sparelessState 0 1 0) 0).st = .ended :=
  uncorrectable_again_ends (s := sparelessState) (le_refl 1) (by decide) rfl sparelessState_partOfCl sparelessState_disabled rfl
    (by decide)

/-- Refutes O22: the clause on an uncorrectable error wants a replay also of an error that another attempt saw; where no spare is
free, such an error ends the job (15, R505; 01, R30). -/
theorem not_clusterErrors : ¬ Obligations.ClusterErrors := by
  unfold Obligations.ClusterErrors
  rintro ⟨-, hunc, -⟩
  obtain ⟨-, hreplay⟩ := hunc sparelessState 0 0 1 0 (by decide) rfl rfl sparelessState_partOfCl sparelessState_table rfl rfl
  obtain ⟨t, hnext, ⟨-, hrun, -⟩, -⟩ := hreplay (by decide) (by decide) canReplay_erredPart
  have ht : uncorrectable sparelessState 0 1 0 = t := by injection hnext
  rw [← ht, sparelessState_ends] at hrun
  cases hrun

end Sys2Proof.Machine
end

section
/-! SUPPORT. Notes about a partition that leave its replay to it, the arrays of its clusters, spot-checks and test windows (04, R166;
15, R509 to R512, R521, R522). -/

namespace Sys2Proof.Machine

/-! ## Notes that a replay does not look at -/

/-- What the request for a replay looks at: a partition without the records of errors and spot-checks and without its clusters'
contents but for their SRAM journals. -/
def replayView (q : Partition) : Partition :=
  { q with
    se := { q.se with errs := [], missed := [], status := 0, spotDone := 0, spotSkip := 0, spotMiss := 0 },
    clusters := q.clusters.map (fun c => { clusterReset with journal := c.journal }) }

theorem replayable_replayView {q : Partition} (h : Replayable q) : Replayable (replayView q) := by
  obtain ⟨hrun, hasked, hreplaying, hfrozen, hun, hhj, hroom, hattempt, hroot⟩ := h
  refine ⟨hrun, hasked, hreplaying, hfrozen, hun, hhj, fun c hc => ?_, hattempt, hroot⟩
  obtain ⟨d, hd, rfl⟩ := List.mem_map.1 hc
  exact hroom d hd

theorem replayable_of_replayView {q : Partition} (h : Replayable (replayView q)) : Replayable q := by
  obtain ⟨hrun, hasked, hreplaying, hfrozen, hun, hhj, hroom, hattempt, hroot⟩ := h
  exact ⟨hrun, hasked, hreplaying, hfrozen, hun, hhj,
    fun c hc => hroom { clusterReset with journal := c.journal } (List.mem_map.2 ⟨c, hc, rfl⟩), hattempt, hroot⟩

theorem Replayable.of_view {q r : Partition} (hq : Replayable q) (h : replayView r = replayView q) : Replayable r :=
  replayable_of_replayView (h ▸ replayable_replayView hq)

/-- A partition that could replay, of which only notes were made, takes a replay up (15, R489). -/
theorem replayTaken_of_view {s u : State} {p : Nat} (hs : Replayable (part s p))
    (h : replayView (part u p) = replayView (part s p)) : replayTaken s (requestReplay u p) p := by
  have hu := hs.of_view h
  unfold replayTaken
  rw [replayTaken_requestReplay hu]
  have hseq : (replayView (part u p)).seq = (replayView (part s p)).seq := congrArg Partition.seq h
  have hhbm : (replayView (part u p)).hbm = (replayView (part s p)).hbm := congrArg Partition.hbm h
  exact ⟨rfl, hu.run, hseq, hhbm⟩

theorem replayView_noteError (s : State) (p l x place k : Nat) :
    replayView (part (noteError s p l x place) k) = replayView (part s k) := by
  unfold noteError withSe part withPart
  rw [updAt_getD]
  split <;> rfl

/-- An entry's change that a function of the entries does not see. -/
theorem map_updAt {α β : Type} (l : List α) (n : Nat) (f : α → α) (g : α → β) (h : ∀ x, g (f x) = g x) :
    (updAt l n f).map g = l.map g := by
  induction l generalizing n with
  | nil => rfl
  | cons x xs ih =>
    cases n with
    | zero => simp [updAt, h]
    | succ n => simp [updAt, ih]

/-- A change inside a cluster that spares its journal is a note. -/
theorem replayView_withCluster (s : State) (p i k : Nat) (f : Cluster → Cluster) (hf : ∀ c, (f c).journal = c.journal) :
    replayView (part (withPart s p (fun q => { q with clusters := updAt q.clusters i f })) k) = replayView (part s k) := by
  unfold part withPart
  rw [updAt_getD]
  split
  · unfold replayView
    rw [map_updAt _ _ _ _ (fun c => by rw [hf])]
  · rfl

theorem replayView_withArray (s : State) (p i k : Nat) (f : ArrayUnit → ArrayUnit) :
    replayView (part (withArray s p i f) k) = replayView (part s k) :=
  replayView_withCluster s p i k _ (fun _ => rfl)

theorem replayView_withSpot (s : State) (p i k : Nat) (f : SpotSample → SpotSample) :
    replayView (part (withSpot s p i f) k) = replayView (part s k) :=
  replayView_withCluster s p i k _ (fun _ => rfl)

/-! ## The arrays of clusters -/

/-- The array of local cluster i of partition p. -/
def clusterArray (s : State) (p i : Nat) : ArrayUnit := ((part s p).clusters.getD i clusterReset).core.array

theorem clusterArray_withArray {s : State} {p i : Nat} (hp : p < s.parts.length) (hi : i < (part s p).clusters.length)
    (f : ArrayUnit → ArrayUnit) : clusterArray (withArray s p i f) p i = f (clusterArray s p i) := by
  unfold clusterArray withArray
  rw [part_withPart _ _ _ hp]
  simp only [updAt_getD, hi, and_self, if_true]

/-- What a change of an array keeps of an array, it keeps of every cluster's. -/
theorem clusterArray_withArray_keeps {α : Type} (g : ArrayUnit → α) (f : ArrayUnit → ArrayUnit) (h : ∀ a, g (f a) = g a) (s : State)
    (p j i : Nat) : g (clusterArray (withArray s p j f) p i) = g (clusterArray s p i) := by
  unfold clusterArray withArray part withPart
  rw [updAt_getD]
  split
  · simp only [updAt_getD]
    split
    · exact h _
    · rfl
  · rfl

theorem clusters_length_withArray (s : State) (p j k : Nat) (f : ArrayUnit → ArrayUnit) :
    (part (withArray s p j f) k).clusters.length = (part s k).clusters.length := by
  unfold withArray part withPart
  rw [updAt_getD]
  split
  · simp
  · rfl

/-- A relayed hop: what does not look at the route byte sees the hop marked at the cluster, and nothing more (04, R166). -/
theorem clusterArray_relayHop {α : Type} (g : ArrayUnit → α) (hg : ∀ a r, g { a with gangRoute := r } = g a) {s : State} {p i : Nat}
    (hp : p < s.parts.length) (hi : i < (part s p).clusters.length) (n : Nat) :
    g (clusterArray (relayHop s p i n) p i) =
      g { clusterArray s p i with relayed := (clusterArray s p i).relayed ||| BitVec.ofNat 4 (2 ^ n) } := by
  unfold relayHop
  dsimp only
  split
  · rw [clusterArray_withArray_keeps g _ (fun a => hg a _), clusterArray_withArray_keeps g _ (fun a => hg a _),
      clusterArray_withArray hp hi]
  · rw [clusterArray_withArray_keeps g _ (fun a => hg a _), clusterArray_withArray hp hi]

theorem replayView_relayHop (s : State) (p i n k : Nat) : replayView (part (relayHop s p i n) k) = replayView (part s k) := by
  unfold relayHop
  dsimp only
  split <;> simp only [replayView_withArray]

/-! ## The decay of health scores -/

/-- A score after its second's decay, unit by unit (15, R502). -/
theorem decayed_score (h : Health) :
    (h.unit = 1 ∨ h.unit = 3 ∨ h.unit = 5 ∨ h.unit = 6 → (decayed h).score.toNat = h.score.toNat - 1) ∧
    (h.unit = 2 → (decayed h).score.toNat = h.score.toNat - 16) ∧ (h.unit = 4 → (decayed h).score.toNat = h.score.toNat - 4) := by
  have hle : ∀ d, (BitVec.ofNat 32 (h.score.toNat - d)).toNat = h.score.toNat - d := fun d => by
    rw [BitVec.toNat_ofNat, Nat.mod_eq_of_lt (lt_of_le_of_lt (Nat.sub_le _ _) h.score.isLt)]
  unfold decayed
  refine ⟨?_, fun h2 => ?_, fun h4 => ?_⟩
  · rintro (hu | hu | hu | hu) <;> rw [hu] <;> exact hle 1
  · rw [h2]; exact hle 16
  · rw [h4]; exact hle 4

/-- The decay touches the score and the armed warning alone. -/
theorem decayed_names (h : Health) :
    (decayed h).die = h.die ∧ (decayed h).unit = h.unit ∧ (decayed h).index = h.index ∧ (decayed h).down = h.down := by
  unfold decayed
  split <;> exact ⟨rfl, rfl, rfl, rfl⟩

/-! ## A neighbour link's parity error -/

/-- The state of a parity error before its partition is asked to replay (04, R166). -/
def parityNoted (s : State) (p i l n : Nat) : State :=
  noteError (withArray s p i (fun a => { a with status := a.status ||| 128, gangPerr := satInc a.gangPerr 1 })) p l (256 + n) 0

theorem parityError_eq {s : State} {l p : Nat} (hp : partOfCl s l = some p) (n : Nat) :
    parityError s l n =
      requestReplay (if errorAgain (part s p) l (256 + n) 0 then relayHop (parityNoted s p (l - clBase s p) l n) p (l - clBase s p) n
        else parityNoted s p (l - clBase s p) l n) p := by
  unfold parityError
  rw [hp]
  rfl

theorem clusterArray_noteError (s : State) (p l x place i : Nat) :
    clusterArray (noteError s p l x place) p i = clusterArray s p i := by
  unfold clusterArray noteError withSe part withPart
  rw [updAt_getD]
  split <;> rfl

theorem clusters_length_noteError (s : State) (p l x place k : Nat) :
    (part (noteError s p l x place) k).clusters.length = (part s k).clusters.length := by
  unfold noteError withSe part withPart
  rw [updAt_getD]
  split <;> rfl

theorem clusterArray_parityNoted {s : State} {p i : Nat} (hp : p < s.parts.length) (hi : i < (part s p).clusters.length) (l n : Nat) :
    clusterArray (parityNoted s p i l n) p i =
      { clusterArray s p i with
        status := (clusterArray s p i).status ||| 128, gangPerr := satInc (clusterArray s p i).gangPerr 1 } := by
  rw [parityNoted, clusterArray_noteError, clusterArray_withArray hp hi]

theorem replayView_parityNoted (s : State) (p i l n k : Nat) :
    replayView (part (parityNoted s p i l n) k) = replayView (part s k) := by
  rw [parityNoted, replayView_noteError, replayView_withArray]

/-- A request for a replay that is taken up touches no cluster. -/
theorem clusterArray_requestReplay {s : State} {p : Nat} (h : Replayable (part s p)) (i : Nat) :
    clusterArray (requestReplay s p) p i = clusterArray s p i := by
  unfold clusterArray
  rw [replayTaken_requestReplay h]

/-- A parity error asks for a replay, and shows at the cluster; where another attempt saw it, the hop goes through the relay (04,
R166, R170). -/
theorem parityError_replays {s : State} {l p : Nat} (hp : partOfCl s l = some p) (h : Replayable (part s p))
    (hi : l - clBase s p < (part s p).clusters.length) (n : Nat) :
    replayTaken s (parityError s l n) p ∧
      let a := clusterArray s p (l - clBase s p)
      let b := clusterArray (parityError s l n) p (l - clBase s p)
      b.status = a.status ||| 128 ∧ b.gangPerr = satInc a.gangPerr 1 ∧
        b.relayed = if errorAgain (part s p) l (256 + n) 0 then a.relayed ||| BitVec.ofNat 4 (2 ^ n) else a.relayed := by
  have hlen := lt_of_running h.run
  have hnoted := clusterArray_parityNoted hlen hi l n
  have hview : ∀ k, replayView (part (parityNoted s p (l - clBase s p) l n) k) = replayView (part s k) :=
    replayView_parityNoted s p _ l n
  rw [parityError_eq hp]
  split
  · have hview' : replayView (part (relayHop (parityNoted s p (l - clBase s p) l n) p (l - clBase s p) n) p) =
        replayView (part s p) := by rw [replayView_relayHop, hview]
    have hlen' : p < (parityNoted s p (l - clBase s p) l n).parts.length := by
      simpa [parityNoted, noteError, withSe, withArray] using hlen
    have hi' : l - clBase s p < (part (parityNoted s p (l - clBase s p) l n) p).clusters.length := by
      rw [parityNoted, clusters_length_noteError, clusters_length_withArray]
      exact hi
    have hrelay : ∀ {α : Type} (g : ArrayUnit → α) (_ : ∀ a r, g { a with gangRoute := r } = g a), _ :=
      fun g hg => clusterArray_relayHop g hg hlen' hi' n
    refine ⟨replayTaken_of_view h hview', ?_⟩
    rw [clusterArray_requestReplay (h.of_view hview')]
    refine ⟨?_, ?_, ?_⟩
    · rw [hrelay ArrayUnit.status (fun _ _ => rfl), hnoted]
    · rw [hrelay ArrayUnit.gangPerr (fun _ _ => rfl), hnoted]
    · rw [hrelay ArrayUnit.relayed (fun _ _ => rfl), hnoted]
  · refine ⟨replayTaken_of_view h (hview p), ?_⟩
    rw [clusterArray_requestReplay (h.of_view (hview p)), hnoted]
    exact ⟨rfl, rfl, rfl⟩

/-! ## Spot-checks -/

/-- The captured sample of local cluster i of partition p. -/
def sampleAt (s : State) (p i : Nat) : Option Capture := ((part s p).clusters.getD i clusterReset).spot.capture

/-- The sample of a cluster is done with. -/
def dropSample (s : State) (p i : Nat) : State := withSpot s p i (fun x => { x with capture := none })

theorem part_dropSample {s : State} {p : Nat} (hp : p < s.parts.length) (i : Nat) :
    part (dropSample s p i) p =
      { part s p with clusters := updAt (part s p).clusters i (fun c => { c with spot := { c.spot with capture := none } }) } := by
  rw [dropSample, withSpot, part_withPart _ _ _ hp]

theorem sampleAt_dropSample {s : State} {p i : Nat} (hp : p < s.parts.length) (hi : i < (part s p).clusters.length) :
    sampleAt (dropSample s p i) p i = none := by
  unfold sampleAt
  rw [part_dropSample hp]
  simp only [updAt_getD, hi, and_self, if_true]

/-- A compared sample is counted. -/
def spotCounted (s : State) (p : Nat) : State := withSe s p (fun x => { x with spotDone := satInc x.spotDone 1 })

/-- A first mismatch is noted: the count, the status bit and the sample that is checked again on another spare (15, R512). -/
def missNoted (s : State) (p l j : Nat) (checker : Option Nat) : State :=
  withSe s p (fun x =>
    { x with
      spotMiss := satInc x.spotMiss 1, status := x.status ||| 4,
      missed := x.missed.filter (fun e => !(e.1 = l && e.2.1 = j)) ++ [(l, j, checker.toList)] })

/-- A first mismatch where no unit has a score: the cluster's score is 128 (15, R502, R512). -/
def missScored (s : State) (p l j : Nat) (checker : Option Nat) : State :=
  setHealth (missNoted s p l j checker) { healthOf s (srcCl (physOf s l)) with score := 128 }

theorem healthOf_of_no_scores {s : State} (h : s.faults.health = []) (u : EvSrc) :
    healthOf s u = { die := u.die, unit := u.unit, index := u.index, score := 0, warned := false, down := false } := by
  rw [healthOf, h]
  rfl

theorem healthOf_sendEvent (s : State) (src : EvSrc) (p code detail : Nat) (u : EvSrc) :
    healthOf (sendEvent s src p code detail) u = healthOf s u :=
  of_inward (healthOf · u) (fun _ => rfl) (inward_sendEvent ..)

theorem healthOf_requestReplay {s : State} {p : Nat} (h : Replayable (part s p)) (u : EvSrc) :
    healthOf (requestReplay s p) u = healthOf s u := by
  rw [of_inward (healthOf · u) (fun _ => rfl) (inward_requestReplay h)]
  rfl

theorem healthOf_setHealth {s : State} {u : EvSrc} (h : Health) (hs : s.faults.health = []) (hdie : h.die = u.die)
    (hunit : h.unit = u.unit) (hindex : h.index = u.index) (hscore : h.score ≠ 0) : healthOf (setHealth s h) u = h := by
  have hkept : ¬ (h.score = 0 && !h.warned && !h.down) = true := by simp only [hscore, decide_false, Bool.false_and]; decide
  unfold healthOf setHealth
  simp only [hs, List.filter_nil, if_neg hkept]
  simp [hdie, hunit, hindex]

theorem score_missScored {s : State} (h : s.faults.health = []) (p l j : Nat) (checker : Option Nat) :
    (healthOf (missScored s p l j checker) (srcCl (physOf s l))).score = 128 := by
  rw [missScored, healthOf_of_no_scores h, healthOf_setHealth (s := missNoted s p l j checker) (u := srcCl (physOf s l)) _ h rfl rfl rfl
    (by simp)]

theorem addHealth_missNoted {s : State} (hhealth : s.faults.health = []) (p l j : Nat) (checker : Option Nat) :
    addHealth (missNoted s p l j checker) (srcCl (physOf s l)) 128 = (missScored s p l j checker, false) := by
  have hscore : healthOf (missNoted s p l j checker) (srcCl (physOf s l)) = healthOf s (srcCl (physOf s l)) := rfl
  have hzero : (healthOf s (srcCl (physOf s l))).score = 0 := by rw [healthOf_of_no_scores hhealth]
  have hsum : satInc (healthOf s (srcCl (physOf s l))).score 128 = 128 := by rw [hzero]; rfl
  rw [addHealth_below (warn := 256) (fail := some 1024) (decay := 1) rfl (by rw [hscore, hsum]; decide)
    (fun f hf => by injection hf; omega), hscore, hsum]
  rfl

/-- A first mismatch is reported, and its partition replays. -/
theorem spotMiss_first {s : State} (hhealth : s.faults.health = []) (p i l j : Nat) (checker : Option Nat) :
    spotMiss s p i l j [] checker =
      requestReplay (sendEvent (dropSample (missScored s p l j checker) p i) (srcCl (physOf s l)) p 0x05B6 (l + j * 2 ^ 32)) p := by
  have hnoted : withSe s p _ = missNoted s p l j checker := rfl
  unfold spotMiss
  simp only [List.nil_append]
  rw [hnoted, addHealth_missNoted hhealth]
  rfl

/-- The compared sample of a running partition: skipped without a spare, else counted, and on a mismatch reported (15, R509 to R512). -/
theorem spotCompare_eq {s : State} {l p : Nat} {cap : Capture} (hp : partOfCl s l = some p) (hrun : (part s p).st = .running)
    (hcap : sampleAt s p (l - clBase s p) = some cap) (hmissed : (part s p).se.missed = []) (differs : Bool) :
    spotCompare s l differs =
      if (sparesNow s).isEmpty then
        dropSample (withSe s p (fun x => { x with spotSkip := satInc x.spotSkip 1 })) p (l - clBase s p)
      else if differs then
        spotMiss (spotCounted s p) p (l - clBase s p) l cap.j []
          (spareFor s (physOf s l) [])
      else dropSample (spotCounted s p) p (l - clBase s p) := by
  unfold sampleAt at hcap
  unfold spotCompare
  simp only [hp, hcap, hrun, hmissed, List.find?_nil, bne_self_eq_false, Bool.false_eq_true, if_false]
  rfl

theorem part_withSe {s : State} {p : Nat} (hp : p < s.parts.length) (f : SeRegs → SeRegs) :
    part (withSe s p f) p = { part s p with se := f (part s p).se } := by
  rw [withSe, part_withPart _ _ _ hp]

/-- A sample that is done with after a note among the partition's records. -/
theorem part_dropSample_withSe {s : State} {p : Nat} (hp : p < s.parts.length) (f : SeRegs → SeRegs) (i : Nat) :
    part (dropSample (withSe s p f) p i) p =
      { part s p with
        se := f (part s p).se,
        clusters := updAt (part s p).clusters i (fun c => { c with spot := { c.spot with capture := none } }) } := by
  rw [part_dropSample (by simpa [withSe] using hp), part_withSe hp]

theorem sampleAt_dropSample_withSe {s : State} {p i : Nat} (hp : p < s.parts.length) (hi : i < (part s p).clusters.length)
    (f : SeRegs → SeRegs) : sampleAt (dropSample (withSe s p f) p i) p i = none :=
  sampleAt_dropSample (by simpa [withSe] using hp) (by rw [part_withSe hp]; exact hi)

theorem replayView_dropSample (s : State) (p i k : Nat) : replayView (part (dropSample s p i) k) = replayView (part s k) :=
  replayView_withSpot ..

/-- Counting a compared sample and its first mismatch makes notes alone. -/
theorem replayView_missNoted {s : State} {p : Nat} (hp : p < s.parts.length) (l j : Nat) (checker : Option Nat) :
    replayView (part (missNoted (spotCounted s p) p l j checker) p) =
      replayView (part s p) := by
  rw [missNoted, part_withSe (by simpa [spotCounted, withSe] using hp), spotCounted, part_withSe hp]
  rfl

/-- The state in which a first mismatch of a sample is reported. -/
def missReported (s : State) (p i l j : Nat) (checker : Option Nat) : State :=
  dropSample (missScored (spotCounted s p) p l j checker) p i

theorem spotMiss_counted {s : State} (h : s.faults.health = []) (p i l j : Nat) (checker : Option Nat) :
    spotMiss (spotCounted s p) p i l j [] checker =
      requestReplay (sendEvent (missReported s p i l j checker) (srcCl (physOf s l)) p 0x05B6 (l + j * 2 ^ 32)) p :=
  spotMiss_first (s := spotCounted s p) h p i l j checker

theorem part_missReported {s : State} {p : Nat} (hp : p < s.parts.length) (i l j : Nat) (checker : Option Nat) :
    part (missReported s p i l j checker) p =
      { part s p with
        se :=
          { (part s p).se with
            spotDone := satInc (part s p).se.spotDone 1, spotMiss := satInc (part s p).se.spotMiss 1,
            status := (part s p).se.status ||| 4,
            missed := (part s p).se.missed.filter (fun e => !(e.1 = l && e.2.1 = j)) ++ [(l, j, checker.toList)] },
        clusters := updAt (part s p).clusters i (fun c => { c with spot := { c.spot with capture := none } }) } := by
  have hp' : p < (spotCounted s p).parts.length := by simpa [spotCounted, withSe] using hp
  have hscored : part (missScored (spotCounted s p) p l j checker) p =
      part (missNoted (spotCounted s p) p l j checker) p := rfl
  rw [missReported, part_dropSample (by simpa [missScored, setHealth, missNoted, spotCounted, withSe] using hp), hscored, missNoted,
    part_withSe hp', spotCounted, part_withSe hp]

/-- A first mismatch of a sample: counted and reported, and its partition replays (15, R489, R509 to R512). -/
theorem requestReplay_missReported {s t : State} {p i l j : Nat} {checker : Option Nat} (h : Replayable (part s p))
    (hi : i < (part s p).clusters.length) (hhealth : s.faults.health = []) {src : EvSrc} {code detail : Nat}
    (ht : t = requestReplay (sendEvent (missReported s p i l j checker) src p code detail) p) :
    (part t p).se.spotDone = satInc (part s p).se.spotDone 1 ∧ (part t p).se.spotMiss = satInc (part s p).se.spotMiss 1 ∧
      sampleAt t p i = none ∧ replayTaken s t p ∧ (healthOf t (srcCl (physOf s l))).score = 128 := by
  have hp := lt_of_running h.run
  have hpart : part (sendEvent (missReported s p i l j checker) src p code detail) p = part (missReported s p i l j checker) p :=
    part_sendEvent ..
  have hview : replayView (part (sendEvent (missReported s p i l j checker) src p code detail) p) = replayView (part s p) := by
    rw [hpart, missReported, replayView_dropSample]
    exact replayView_missNoted hp l j checker
  have hscore : (healthOf t (srcCl (physOf s l))).score = 128 := by
    rw [ht, healthOf_requestReplay (h.of_view hview), healthOf_sendEvent]
    exact score_missScored (s := spotCounted s p) hhealth p l j checker
  subst ht
  refine ⟨?_, ?_, ?_, replayTaken_of_view h hview, hscore⟩
  · rw [replayTaken_requestReplay (h.of_view hview), hpart, part_missReported hp]
  · rw [replayTaken_requestReplay (h.of_view hview), hpart, part_missReported hp]
  · rw [sampleAt, replayTaken_requestReplay (h.of_view hview), hpart, part_missReported hp]
    simp only [updAt_getD, hi, and_self, if_true]

/-! ## Test windows -/

/-- The partition of the cluster that is tested next has an active job (15, R521). -/
theorem active_of_twNext {s : State} {l p : Nat} (h : twNext s = some l) (hp : partOfCl s l = some p) : jobActive (part s p) = true := by
  have hfound := List.find?_some h
  simpa only [hp] using hfound

section
variable {s : State} {l p : Nat} (hon : s.faults.twCtrl.getLsbD 31 = true) (hnone : s.faults.tw = none) (hl : twNext s = some l)
include hon hnone hl

/-- A window opens, with a hold on the next boundary of its partition (15, R521 step 1). -/
theorem execTestWindowOpen_opens {n : Nat} (hn : spareFor s (physOf s l) [] = some n) (hp : partOfCl s l = some p) :
    execTestWindowOpen s = .next (holdBoundary { s with faults := { s.faults with
      tw := some { lcl := l, phys := physOf s l, stand := n, phase := .waitOpen } } } p) := by
  unfold execTestWindowOpen
  simp only [hon, hnone, hl, hn, hp, Option.isSome_none, Bool.not_true, Bool.or_self, Bool.false_eq_true, if_false, Option.getD_some]

/-- A window without a spare to stand in is postponed (15, R521 step 1). -/
theorem execTestWindowOpen_postponed (hn : spareFor s (physOf s l) [] = none) :
    execTestWindowOpen s = .next
      (sendEvent { s with faults := { s.faults with twPostponed := satInc s.faults.twPostponed 1 } } srcFw 15 0x04B4 0) := by
  unfold execTestWindowOpen
  simp only [hon, hnone, hl, hn, Option.isSome_none, Bool.not_true, Bool.or_self, Bool.false_eq_true, if_false]

end

theorem execTestWindowClose_eq {s : State} {w : TestWindow} (hw : s.faults.tw = some w) (hphase : w.phase = .testing)
    (fail : Option (BitVec 8)) : execTestWindowClose fail s = .next (twClose s w fail) := by
  unfold execTestWindowClose
  simp only [hw, hphase, if_true]

/-- A test that fails takes its cluster out of service (01, R28; 15, R522). -/
theorem twClose_fails (s : State) (w : TestWindow) (k : BitVec 8) :
    let t := twClose s w (some k)
    t.faults.tw = none ∧ t.grid.table = s.grid.table ∧ t.grid.disabled = s.grid.disabled ||| BitVec.ofNat 512 (2 ^ w.phys) ∧
      t.life.clusters = s.life.clusters ||| BitVec.ofNat 512 (2 ^ w.phys) ∧ t.faults.twState = s.faults.twState ||| 4 := by
  have hkept : ∀ {α : Type} (f : State → α) (_ : ∀ u, f (inward u) = f u)
      (_ : ∀ u low, f { u with grid := { u.grid with spareLow := low } } = f u) (_ : ∀ u l, f (twDone u l) = f u),
      f (twClose s w (some k)) =
        f (clusterOut { s with faults := { s.faults with tw := none, twState := s.faults.twState ||| 4 } } w.phys) :=
    fun f hin hlow hdone => (of_spareWarn f hin hlow _).trans ((hdone ..).trans (of_inward f hin (inward_sendEvent ..)))
  refine ⟨?_, ?_, ?_, ?_, ?_⟩
  · rw [hkept (fun t => t.faults.tw) (fun _ => rfl) (fun _ _ => rfl) (fun _ _ => rfl), clusterOut_tw]
  · rw [hkept (fun t => t.grid.table) (fun _ => rfl) (fun _ _ => rfl) (fun _ _ => rfl), clusterOut_table]
  · rw [hkept (fun t => t.grid.disabled) (fun _ => rfl) (fun _ _ => rfl) (fun _ _ => rfl), clusterOut_disabled]
  · rw [hkept (fun t => t.life.clusters) (fun _ => rfl) (fun _ _ => rfl) (fun _ _ => rfl), clusterOut]
    simp only [declareDown_clusters]
  · rw [hkept (fun t => t.faults.twState) (fun _ => rfl) (fun _ _ => rfl) (fun _ _ => rfl), clusterOut]
    simp only [declareDown_twState]

/-- A test that passes: under a job the cluster waits for a boundary, else it comes back at once (15, R521 steps 2 and 3). -/
theorem twClose_passes_active {s : State} {w : TestWindow} {p : Nat} (hp : partOfCl s w.lcl = some p)
    (h : jobActive (part s p) = true) :
    twClose s w none = holdBoundary { s with faults := { s.faults with tw := some { w with phase := .waitClose } } } p := by
  unfold twClose
  simp only [hp, Option.getD_some, h, if_true]

theorem twClose_passes_inactive {s : State} {w : TestWindow} {p : Nat} (hp : partOfCl s w.lcl = some p)
    (h : jobActive (part s p) = false) : twClose s w none = twDone (twReturn s) w.lcl := by
  unfold twClose
  simp only [hp, Option.getD_some, h, Bool.false_eq_true, if_false]

theorem part_holdBoundary {s : State} {p : Nat} (hp : p < s.parts.length) :
    part (holdBoundary s p) p = withSeq (fun x => { x with holds := x.holds ||| 0x100 }) (part s p) := by
  rw [holdBoundary, part_withPart _ _ _ hp]

/-! ## The obligation -/

theorem execHealthDecay_decays (s : State) (dt : Word64) :
    ∃ t, execHealthDecay dt s = .next t ∧ t.parts = s.parts ∧ t.grid = s.grid ∧
      ∀ h ∈ t.faults.health, ∃ g ∈ s.faults.health, h = decayed g := by
  refine ⟨_, rfl, rfl, rfl, fun h hh => ?_⟩
  obtain ⟨g, hg, rfl⟩ := List.mem_map.1 (List.mem_filter.1 hh).1
  exact ⟨g, hg, rfl⟩

/-- Settles O24: a replay that a parity error or a spot-check asks for is taken up because their notes leave what canReplay looks
at; a test window opens, waits and closes by its phase. The stand-in is the one that spareFor names. -/
theorem healthAndTests : Obligations.HealthAndTests := by
  unfold Obligations.HealthAndTests
  refine ⟨⟨fun s dt => ?_, fun s l p hop hl hlen hp hi hcan => ?_, fun s l p hl hlen hp htw hi hcan hmissed hcap => ?_⟩,
    fun s l p hon hnone hlen hnext hp => ?_, fun s w p hw hphase hp hlen => ⟨fun hjob => ?_, fun hjob => ?_, fun k => ?_⟩⟩
  case refine_1 =>
    obtain ⟨t, ht, hparts, hgrid, hall⟩ := execHealthDecay_decays s dt
    refine ⟨t, ht, hparts, hgrid, fun h hh => ?_⟩
    obtain ⟨g, hg, rfl⟩ := hall h hh
    obtain ⟨hdie, hunit, hindex, hdown⟩ := decayed_names g
    rw [hdie, hunit, hindex, hdown]
    exact ⟨g, hg, rfl, rfl, rfl, rfl, decayed_score g⟩
  case refine_2 =>
    have hrep := (canReplay_iff _).1 hcan
    exact ⟨_, onUnit_of_true (decide_eq_true hl) _, parityError_replays hp hrep hi hop.toNat⟩
  case refine_3 =>
    have hrep := (canReplay_iff _).1 hcan
    have hlt := lt_of_running hrep.run
    obtain ⟨cap, hsample⟩ := Option.isSome_iff_exists.1 hcap
    have hexec : ∀ d, exec (.spotCheckCompare l d) s = .next (spotCompare s l d) := fun d => onUnit_of_true (decide_eq_true hl) _
    have hcompare := spotCompare_eq hp hrep.run hsample hmissed
    refine ⟨fun hnone d => ⟨_, hexec d, ?_⟩, fun hsome => ⟨⟨_, hexec false, ?_⟩, fun hhealth => ⟨_, hexec true, ?_⟩⟩⟩
    · rw [hcompare, if_pos hnone]
      have hpart := part_dropSample_withSe hlt (fun x => { x with spotSkip := satInc x.spotSkip 1 }) (l - clBase s p)
      exact ⟨by rw [hpart], sampleAt_dropSample_withSe hlt hi _, by rw [hpart]⟩
    · rw [hcompare, if_neg (by rw [hsome]; decide), if_neg (by decide)]
      have hpart := part_dropSample_withSe hlt (fun x => { x with spotDone := satInc x.spotDone 1 }) (l - clBase s p)
      rw [spotCounted]
      exact ⟨by rw [hpart], sampleAt_dropSample_withSe hlt hi _, by rw [hpart], rfl⟩
    · rw [hcompare, if_neg (by rw [hsome]; decide), if_pos rfl]
      exact requestReplay_missReported hrep hi hhealth (spotMiss_counted hhealth p _ l cap.j _)
  case refine_4 =>
    have hlt := lt_of_active (active_of_twNext hnext hp)
    cases hn : spareFor s (physOf s l) [] with
    | some n =>
      refine ⟨_, execTestWindowOpen_opens hon hnone hnext hn hp, rfl, ?_, fun h => nomatch h⟩
      rintro m ⟨⟩
      exact ⟨rfl, part_holdBoundary hlt⟩
    | none =>
      have hopen := execTestWindowOpen_postponed hon hnone hnext hn
      refine ⟨_, hopen, ?_, (fun n h => nomatch h), fun _ => ⟨?_, ?_, ?_⟩⟩
      · exact sendEvent_grid ..
      · exact (of_inward (fun t => t.faults.tw) (fun _ => rfl) (inward_sendEvent ..)).trans hnone
      · exact of_inward (fun t => t.faults.twPostponed) (fun _ => rfl) (inward_sendEvent ..)
      · exact sendEvent_parts ..
  case refine_5 =>
    refine ⟨_, execTestWindowClose_eq hw hphase none, ?_⟩
    rw [twClose_passes_active hp hjob]
    exact ⟨rfl, rfl, congrArg (fun q => q.seq.holds) (part_holdBoundary (lt_of_active hjob))⟩
  case refine_6 =>
    refine ⟨_, execTestWindowClose_eq hw hphase none, ?_⟩
    rw [twClose_passes_inactive hp hjob]
    simp [twDone, twReturn, hw, hphase]
  case refine_7 => exact ⟨_, execTestWindowClose_eq hw hphase (some k), twClose_fails s w k⟩

end Sys2Proof.Machine
end

section
/-! SUPPORT. Replays and ends of the jobs of all partitions, and the groups of a bridge (01, R18 to R21, R33; 20, R650). -/

namespace Sys2Proof.Machine

/-! ## An action on one partition after another -/

section
variable {g : State → Nat → State} (hg : ∀ t k, apart k (g t k) = apart k t)
include hg

/-- Actions on other partitions leave a partition as it is. -/
theorem part_foldl_of_notMem {l : List Nat} {p : Nat} (hp : p ∉ l) (s : State) : part (l.foldl g s) p = part s p := by
  induction l generalizing s with
  | nil => rfl
  | cons k ks ih =>
    rw [List.mem_cons, not_or] at hp
    rw [List.foldl_cons, ih hp.2, part_of_apart hp.1 (hg s k)]

/-- Of actions on one partition after another, the one on p alone shows at p, and it finds p as it was. -/
theorem part_foldl_of_mem {l : List Nat} (hl : l.Nodup) {p : Nat} (hp : p ∈ l) (s : State) :
    ∃ u, part u p = part s p ∧ part (l.foldl g s) p = part (g u p) p := by
  induction l generalizing s with
  | nil => cases hp
  | cons k ks ih =>
    obtain ⟨hk, hks⟩ := List.nodup_cons.1 hl
    rw [List.foldl_cons]
    rcases List.mem_cons.1 hp with rfl | hmem
    · exact ⟨s, rfl, part_foldl_of_notMem hg hk _⟩
    · obtain ⟨u, hu, hfold⟩ := ih hks hmem (g s k)
      exact ⟨u, hu.trans (part_of_apart (ne_of_mem_of_not_mem hmem hk) (hg s k)), hfold⟩

/-- What looks at no partition and at no test window is kept by actions on all partitions. -/
theorem foldl_of_apart {α : Type} (f : State → α) (hf : ∀ k u, f (apart k u) = f u) (l : List Nat) (s : State) :
    f (l.foldl g s) = f s :=
  foldl_keeps f l g s (fun t k => of_apart f (hf k) (hg t k))

end

/-- Every partition that can takes a replay up (01, R20, R21). -/
theorem allReplay_replayAll {s u : State} (h : u.parts = s.parts) : allReplay s (replayAll u) := by
  intro p hp hcan
  obtain ⟨v, hv, hfold⟩ := part_foldl_of_mem apart_requestReplay List.nodup_range (List.mem_range.2 hp) u
  have hpart : part u p = part s p := congrArg (fun l => l.getD p partReset) h
  have hrep := (canReplay_iff _).1 hcan
  rw [← hpart, ← hv] at hrep
  have htaken := replayTaken_of_view (s := v) hrep rfl
  unfold replayTaken at htaken ⊢
  rw [← hpart, ← hv, replayAll, hfold]
  exact htaken

theorem replayAll_bridges (s : State) : (replayAll s).grid.bridges = s.grid.bridges := by
  unfold replayAll
  exact foldl_of_apart apart_requestReplay (fun t => t.grid.bridges) (fun _ _ => rfl) _ s

theorem replayAll_reroute (s : State) : (replayAll s).grid.reroute = s.grid.reroute := by
  unfold replayAll
  exact foldl_of_apart apart_requestReplay (fun t => t.grid.reroute) (fun _ _ => rfl) _ s

/-- Withdrawn stacks show in a partition's memory registers alone (10, R339). -/
theorem part_withdraw {α : Type} (f : Partition → α) (hf : ∀ q m, f { q with mem := m } = f q) (s : State) (die p : Nat) :
    f (part (withdraw s die) p) = f (part s p) := by
  unfold withdraw
  rw [part_sendEvent]
  unfold part
  by_cases hp : p < s.parts.length
  · rw [List.getD_eq_getElem _ _ hp, List.getD_eq_getElem _ _ (by simpa using hp), List.getElem_map]
    exact hf _ _
  · rw [List.getD_eq_default _ _ (Nat.not_lt.1 hp), List.getD_eq_default _ _ (by simpa using hp)]

theorem withdraw_grid (s : State) (die : Nat) : (withdraw s die).grid = s.grid := sendEvent_grid ..

theorem allReplay_withdraw {s t : State} (h : allReplay s t) (die : Nat) : allReplay s (withdraw t die) := by
  intro p hp hcan
  have hasked := part_withdraw (fun q => q.se.asked) (fun _ _ => rfl) t die p
  have hst := part_withdraw Partition.st (fun _ _ => rfl) t die p
  have hseq := part_withdraw Partition.seq (fun _ _ => rfl) t die p
  have hhbm := part_withdraw Partition.hbm (fun _ _ => rfl) t die p
  unfold replayTaken
  rw [hasked, hst, hseq, hhbm]
  exact h p hp hcan

/-- What two partitions share that differ in the request for a checkpoint alone. -/
theorem of_cutless {q r : Partition} (h : cutless q = cutless r) : q.seq = r.seq ∧ q.se = r.se ∧ q.st = r.st := by
  have hseq := congrArg Partition.seq h
  have hse := congrArg Partition.se h
  have hst := congrArg Partition.st h
  exact ⟨hseq, hse, hst⟩

/-! ## Bridges and their groups -/

/-- The groups of a bridge. -/
def groupsOf (s : State) (b : Nat) : List BridgeGroup := (s.grid.bridges.getD b (bridgeOf 0)).groups

/-- A group of a bridge. -/
def groupAt (s : State) (b g : Nat) : BridgeGroup := (groupsOf s b).getD g { lost := 0, used := false }

theorem groupsOf_withBridge {s : State} {b : Nat} (hb : b < s.grid.bridges.length) (f : Bridge → Bridge) :
    groupsOf (withBridge s b f) b = (f (s.grid.bridges.getD b (bridgeOf 0))).groups := by
  unfold groupsOf withBridge
  simp only [updAt_getD, hb, and_self, if_true]

theorem groupsOf_of_bridges {s t : State} (h : t.grid.bridges = s.grid.bridges) (b : Nat) : groupsOf t b = groupsOf s b := by
  unfold groupsOf
  rw [h]

/-- A bridge that lost its last group: routes avoid it, every partition replays, and its groups stand (01, R21). -/
theorem bridgeOut_keeps {s u : State} (h : u.parts = s.parts) (b : Nat) :
    allReplay s (bridgeOut u b) ∧ (bridgeOut u b).grid.bridges = u.grid.bridges ∧
      (bridgeOut u b).grid.reroute = u.grid.reroute ++ [b] := by
  have hall : allReplay s (replayAll { u with grid := { u.grid with reroute := u.grid.reroute ++ [b] } }) := allReplay_replayAll h
  unfold bridgeOut
  dsimp only
  split
  · rw [withdraw_grid]
    exact ⟨allReplay_withdraw hall _, replayAll_bridges _, replayAll_reroute _⟩
  · exact ⟨hall, replayAll_bridges _, replayAll_reroute _⟩

/-- A place before a list's first number is none of its places. -/
theorem all_zipIdx_of_lt {α : Type} (p : α → Bool) (l : List α) {g n : Nat} (h : g < n) :
    (l.zipIdx n).all (fun e => decide (e.2 = g) || p e.1) = l.all p := by
  induction l generalizing n with
  | nil => rfl
  | cons x xs ih =>
    rw [List.zipIdx_cons, List.all_cons, List.all_cons, ih (Nat.lt_succ_of_lt h), decide_eq_false (by omega), Bool.false_or]

/-- Without group g, no group is in use just where every other one is out of use. -/
theorem all_unused_updAt (l : List BridgeGroup) (g n : Nat) :
    (updAt l g (fun y => { y with used := false })).all (fun x => !x.used) =
      (l.zipIdx n).all (fun e => decide (e.2 = n + g) || !e.1.used) := by
  induction l generalizing g n with
  | nil => rfl
  | cons x xs ih =>
    cases g with
    | zero =>
      have hrest : (xs.zipIdx (n + 1)).all (fun e => decide (e.2 = n + 0) || !e.1.used) = xs.all (fun y => !y.used) :=
        all_zipIdx_of_lt (fun y => !y.used) xs (Nat.lt_succ_self n)
      rw [List.zipIdx_cons, List.all_cons, hrest]
      simp [updAt]
    | succ g =>
      rw [updAt, List.all_cons, List.zipIdx_cons, List.all_cons, ih g (n + 1), decide_eq_false (by omega), Bool.false_or]
      simp only [Nat.add_assoc, Nat.add_comm 1 g]

/-- A bridge is dead without group g just where its other groups are out of use. -/
theorem bridgeDead_withBridge {s : State} {b : Nat} (hb : b < s.grid.bridges.length) (g : Nat) :
    bridgeDead (withBridge s b (fun x => { x with groups := updAt x.groups g (fun y => { y with used := false }) })).grid b =
      (groupsOf s b).zipIdx.all (fun e => decide (e.2 = g) || !e.1.used) := by
  have hgroups := groupsOf_withBridge hb (fun x => { x with groups := updAt x.groups g (fun y => { y with used := false }) })
  have hall := all_unused_updAt (groupsOf s b) g 0
  rw [Nat.zero_add] at hall
  rw [← hall]
  exact congrArg (fun l : List BridgeGroup => l.all (fun x => !x.used)) hgroups

/-- A group that goes out of use: its partitions replay, and with the last group the bridge goes (01, R20, R21). -/
theorem groupOut_used {s : State} {b g : Nat} (hb : b < s.grid.bridges.length) (hused : (groupAt s b g).used = true)
    {r : State} (hr : s.parts = r.parts) :
    allReplay r (groupOut s b g) ∧ groupsOf (groupOut s b g) b = updAt (groupsOf s b) g (fun y => { y with used := false }) ∧
      (groupOut s b g).grid.reroute =
        if (groupsOf s b).zipIdx.all (fun e => decide (e.2 = g) || !e.1.used) then s.grid.reroute ++ [b] else s.grid.reroute := by
  have hgroups := groupsOf_withBridge hb (fun x => { x with groups := updAt x.groups g (fun y => { y with used := false }) })
  have hnot : (!(groupAt s b g).used) = false := by rw [hused]; rfl
  unfold groupAt groupsOf at hnot
  unfold groupOut
  simp only [hnot, Bool.false_eq_true, if_false, bridgeDead_withBridge hb]
  split
  · obtain ⟨hall, hbridges, hroute⟩ := bridgeOut_keeps (s := r)
      (u := withBridge s b (fun x => { x with groups := updAt x.groups g (fun y => { y with used := false }) })) hr b
    exact ⟨hall, (groupsOf_of_bridges hbridges b).trans hgroups, hroute⟩
  · exact ⟨allReplay_replayAll hr, (groupsOf_of_bridges (replayAll_bridges _) b).trans hgroups, replayAll_reroute _⟩

/-- One lane more of a group is lost (01, R19). -/
def laneLost (s : State) (b g : Nat) : State :=
  withBridge s b (fun x => { x with groups := updAt x.groups g (fun y => { y with lost := y.lost + 1 }) })

theorem groupsOf_laneLost {s : State} {b : Nat} (hb : b < s.grid.bridges.length) (g : Nat) :
    groupsOf (laneLost s b g) b = updAt (groupsOf s b) g (fun y => { y with lost := y.lost + 1 }) := by
  rw [laneLost, groupsOf_withBridge hb]
  rfl

theorem groupAt_laneLost {s : State} {b g : Nat} (hb : b < s.grid.bridges.length) (hg : g < (groupsOf s b).length) :
    groupAt (laneLost s b g) b g = { lost := (groupAt s b g).lost + 1, used := (groupAt s b g).used } := by
  rw [groupAt, groupsOf_laneLost hb, updAt_getD, if_pos ⟨rfl, hg⟩]
  rfl

/-- What a failed lane does with a group in use: a spare lane, or the end of the group (01, R19, R20). -/
theorem execBridgeLaneFail_used {s : State} {b g : Nat} (hg : g < (groupsOf s b).length) (hused : (groupAt s b g).used = true) :
    execBridgeLaneFail b g s = .next (if 2 ≤ (groupAt s b g).lost then groupOut (laneLost s b g) b g
      else (addHealth (laneLost s b g) (srcBridge b g) 256).1) := by
  have hnot : (!(groupAt s b g).used) = false := by rw [hused]; rfl
  unfold groupAt groupsOf at *
  unfold execBridgeLaneFail
  rw [onUnit_of_true (decide_eq_true hg), hnot]
  rfl

/-- A bridge that is lost whole: no group of it stays in use (01, R21). -/
theorem bridgeOut_allGroups {s : State} {b : Nat} (hb : b < s.grid.bridges.length) :
    let t := bridgeOut (withBridge s b (fun x => { x with groups := x.groups.map (fun y => { y with used := false }) })) b
    (groupsOf t b).all (fun x => !x.used) = true ∧ t.grid.reroute = s.grid.reroute ++ [b] ∧ allReplay s t := by
  obtain ⟨hall, hbridges, hroute⟩ := bridgeOut_keeps (s := s)
    (u := withBridge s b (fun x => { x with groups := x.groups.map (fun y => { y with used := false }) })) rfl b
  refine ⟨?_, hroute, hall⟩
  rw [groupsOf_of_bridges hbridges, groupsOf_withBridge hb]
  simp

theorem not_bridgeDead {s : State} {b g : Nat} (hg : g < (groupsOf s b).length) (hused : (groupAt s b g).used = true) :
    bridgeDead s.grid b = false := by
  rw [groupAt, List.getD_eq_getElem _ _ hg] at hused
  refine Bool.eq_false_iff.2 fun hdead => ?_
  have hunused := List.all_eq_true.1 (show (groupsOf s b).all (fun x => !x.used) = true from hdead) _ (List.getElem_mem hg)
  simp [hused] at hunused

section
variable {s : State} {b g : Nat} (hb : b < s.grid.bridges.length) (hg : g < (groupsOf s b).length)
  (hused : (groupAt s b g).used = true)
include hb hg hused

/-- While a spare lane is left, a failed lane touches of a partition the request for a checkpoint alone (01, R19). -/
theorem bridgeLaneFail_spare (hspare : (groupAt s b g).lost < 2) :
    ∃ t, execBridgeLaneFail b g s = .next t ∧ groupAt t b g = { lost := (groupAt s b g).lost + 1, used := true } ∧
      ∀ p, (part t p).seq = (part s p).seq ∧ (part t p).se = (part s p).se ∧ (part t p).st = (part s p).st := by
  have hlane := execBridgeLaneFail_used hg hused
  rw [if_neg (Nat.not_le.2 hspare)] at hlane
  have hgrid := addHealth_grid (laneLost s b g) (srcBridge b g) 256
  refine ⟨_, hlane, ?_, fun p => ?_⟩
  · rw [groupAt, groupsOf_of_bridges (congrArg Grid.bridges hgrid) b]
    exact (groupAt_laneLost hb hg).trans (by rw [hused])
  · exact of_cutless (cutless_addHealth (laneLost s b g) (srcBridge b g) 256 p)

/-- Without a spare lane a failed lane takes its group out of use (01, R20). -/
theorem bridgeLaneFail_out (hfew : 2 ≤ (groupAt s b g).lost) :
    ∃ t, execBridgeLaneFail b g s = .next t ∧ groupAt t b g = { lost := (groupAt s b g).lost + 1, used := false } ∧
      allReplay s t := by
  have hlane := execBridgeLaneFail_used hg hused
  rw [if_pos hfew] at hlane
  have hlost := groupAt_laneLost hb hg
  have hb' : b < (laneLost s b g).grid.bridges.length := by simpa [laneLost, withBridge] using hb
  have hg' : g < (groupsOf (laneLost s b g) b).length := by rw [groupsOf_laneLost hb, updAt_length]; exact hg
  obtain ⟨hall, hgroups, -⟩ := groupOut_used hb' (g := g) (by rw [hlost, hused]) (r := s) rfl
  refine ⟨_, hlane, ?_, hall⟩
  rw [groupAt, hgroups, updAt_getD, if_pos ⟨rfl, hg'⟩]
  exact congrArg (fun y : BridgeGroup => { y with used := false }) hlost

/-- A lost group goes out of use, the others stay (01, R20). -/
theorem bridgeGroupLoss_out :
    ∃ t, execBridgeGroupLoss b g s = .next t ∧ groupAt t b g = { lost := (groupAt s b g).lost, used := false } ∧ allReplay s t ∧
      (∀ k, k < (groupsOf s b).length → k ≠ g → groupAt t b k = groupAt s b k) ∧
      t.grid.reroute =
        if (groupsOf s b).zipIdx.all (fun e => decide (e.2 = g) || !e.1.used) then s.grid.reroute ++ [b] else s.grid.reroute := by
  obtain ⟨hall, hgroups, hroute⟩ := groupOut_used hb hused (r := s) rfl
  refine ⟨_, onUnit_of_true (decide_eq_true hg) _, ?_, hall, fun k hk hne => ?_, hroute⟩
  · rw [groupAt, hgroups, updAt_getD, if_pos ⟨rfl, hg⟩]
    rfl
  · rw [groupAt, hgroups, updAt_getD, if_neg (fun e => hne e.1.symm)]
    rfl

/-- A lost bridge with a group in use (01, R21). -/
theorem bridgeLoss_out (hb60 : b < 60) :
    ∃ t, execBridgeLoss b s = .next t ∧ (groupsOf t b).all (fun x => !x.used) = true ∧ t.grid.reroute = s.grid.reroute ++ [b] ∧
      allReplay s t := by
  refine ⟨_, onUnit_of_true (decide_eq_true hb60) _, ?_⟩
  rw [if_neg (by rw [not_bridgeDead hg hused]; decide)]
  exact bridgeOut_allGroups hb

end

/-! ## Hub cores -/

/-- Hub cores in service after one of them has failed. -/
theorem countTrue_cores (cores : BitVec 4) (core : BitVec 2) (h : cores.getLsbD core.toNat = true) :
    countTrue ((List.range 4).map (fun k => (cores &&& ~~~(BitVec.ofNat 4 (2 ^ core.toNat))).getLsbD k)) =
      ((List.range 4).filter (fun k => cores.getLsbD k)).length - 1 := by
  revert h cores core
  decide

/-- The end of every job with one cause, partition by partition. -/
def endAllJobs (s : State) (cause status : Nat) : State := (List.range 12).foldl (fun u p => jobEnd u p cause status) s

theorem endAllJobs_boot (s : State) (cause status : Nat) : (endAllJobs s cause status).boot = s.boot := by
  unfold endAllJobs
  exact foldl_of_apart (fun t k => apart_jobEnd t k cause status) State.boot (fun _ _ => rfl) _ s

theorem endAllJobs_cores (s : State) (cause status : Nat) : (endAllJobs s cause status).grid.cores = s.grid.cores := by
  unfold endAllJobs
  exact foldl_of_apart (fun t k => apart_jobEnd t k cause status) (fun t => t.grid.cores) (fun _ _ => rfl) _ s

/-- A partition under the end of every job: an active one has ended, another stays. -/
theorem part_endAllJobs {s : State} {p : Nat} (hp : p < 12) (cause status : Nat) :
    part (endAllJobs s cause status) p = if jobActive (part s p) then endedPart cause status (part s p) else part s p := by
  obtain ⟨u, hu, hfold⟩ :=
    part_foldl_of_mem (fun t k => apart_jobEnd t k cause status) List.nodup_range (List.mem_range.2 hp) s
  rw [endAllJobs, hfold, ← hu]
  split
  next h => exact part_jobEnd h cause status
  next h => rw [jobEnd_inactive (Bool.eq_false_iff.2 h)]

/-- The module after a hub core has been declared failed. -/
def coreDown (s : State) (core : BitVec 2) : State :=
  declareDown { s with grid := { s.grid with cores := s.grid.cores &&& ~~~(BitVec.ofNat 4 (2 ^ core.toNat)) } } (srcCore core.toNat)

/-- The module with too few hub cores reported by 0x0402, halted (01, R33; 20, R650). -/
def coresHalted (s : State) (core : BitVec 2) : State :=
  { sendEvent (coreDown s core) srcFw 15 0x0402 0 with boot := { s.boot with st := .halted } }

theorem coreDown_grid (s : State) (core : BitVec 2) :
    (coreDown s core).grid = { s.grid with cores := s.grid.cores &&& ~~~(BitVec.ofNat 4 (2 ^ core.toNat)) } :=
  declareDown_grid _ _

theorem coreDown_parts (s : State) (core : BitVec 2) : (coreDown s core).parts = s.parts := declareDown_parts _ _

theorem coreDown_boot (s : State) (core : BitVec 2) : (coreDown s core).boot = s.boot := declareDown_boot _ _

theorem coresHalted_grid (s : State) (core : BitVec 2) : (coresHalted s core).grid = (coreDown s core).grid :=
  sendEvent_grid (coreDown s core) ..

theorem part_coresHalted (s : State) (core : BitVec 2) (k : Nat) : part (coresHalted s core) k = part s k := by
  have hparts : (coresHalted s core).parts = s.parts := (sendEvent_parts (coreDown s core) ..).trans (coreDown_parts s core)
  rw [part, hparts]
  rfl

/-- The bit of a hub core. -/
theorem coreBit (core : BitVec 2) : BitVec.ofNat 4 (2 ^ core.toNat) = (1 : BitVec 4) <<< core.toNat := by
  revert core
  decide

/-- A hub core that fails at READY: with three left the module goes on, with fewer every job ends (01, R33). -/
theorem execHubCoreFail_ready {s : State} {core : BitVec 2} (hcore : s.grid.cores.getLsbD core.toNat = true)
    (hready : s.boot.st = .ready) :
    execHubCoreFail core s = .next
      (if ((List.range 4).filter (fun k => s.grid.cores.getLsbD k)).length - 1 < 3 then endAllJobs (coresHalted s core) 4 0x0402
        else coreDown s core) := by
  have hboot := coreDown_boot s core
  have hgrid := coreDown_grid s core
  unfold coreDown at hboot hgrid
  unfold execHubCoreFail
  simp only [hcore, Bool.not_true, Bool.false_eq_true, if_false, hboot, hgrid, hready, countTrue_cores _ _ hcore, decide_true,
    Bool.and_true, decide_eq_true_eq]
  rfl

/-! ## The obligation -/

/-- Settles O25: a lost lane, group or bridge by the groups left in use, with a replay of every partition that can; a failed hub core
by the cores left. -/
theorem bridgesAndCores : Obligations.BridgesAndCores := by
  unfold Obligations.BridgesAndCores
  refine ⟨fun s b g hb hlen hparts => ?_, fun s core hcore hready hparts => ?_⟩
  case refine_1 =>
    intro gs at_ lastOne hg hused
    have hb' : b < s.grid.bridges.length := hlen ▸ hb
    refine ⟨fun hspare => ?_, bridgeLaneFail_out hb' hg hused, bridgeGroupLoss_out hb' hg hused, bridgeLoss_out hb' hg hused hb⟩
    obtain ⟨t, hnext, hlost, hpart⟩ := bridgeLaneFail_spare hb' hg hused hspare
    exact ⟨t, hnext, hlost, fun p _ => hpart p⟩
  case refine_2 =>
    refine ⟨_, execHubCoreFail_ready hcore hready, ?_, fun h3 => ?_, fun h3 => ?_⟩
    · rw [← coreBit]
      split
      · rw [endAllJobs_cores, coresHalted_grid, coreDown_grid]
      · rw [coreDown_grid]
    · rw [if_neg (Nat.not_lt.2 h3)]
      exact ⟨coreDown_boot .., coreDown_parts ..⟩
    · rw [if_pos h3]
      refine ⟨endAllJobs_boot .., fun p hp => ?_⟩
      rw [part_endAllJobs hp, part_coresHalted]
      split
      next h => exact ⟨rfl, rfl, fun _ => ⟨rfl, rfl⟩⟩
      next h => exact ⟨rfl, Bool.eq_false_iff.2 h, fun hjob => absurd hjob h⟩

end Sys2Proof.Machine
end

section
/-! SUPPORT. Start-up: the boot ROM's banks, the phases that run late, and the steps of START (17, R559; 19, R634, R638; 20, R650 to
R658). -/

namespace Sys2Proof.Machine

/-! ## Events for the management network -/

theorem boot_mgmtSend (s : State) (src : EvSrc) (code detail : Nat) : (mgmtSend s src code detail).boot = s.boot :=
  boot_of_inward (inward_mgmtSend ..)

theorem parts_mgmtSend (s : State) (src : EvSrc) (code detail : Nat) : (mgmtSend s src code detail).parts = s.parts :=
  of_inward State.parts (fun _ => rfl) (inward_mgmtSend ..)

theorem supplies_mgmtSend (s : State) (src : EvSrc) (code detail : Nat) : (mgmtSend s src code detail).supplies = s.supplies :=
  of_inward State.supplies (fun _ => rfl) (inward_mgmtSend ..)

/-- An event for the management network alone does not reach the host. -/
theorem host_mgmtSend (s : State) (src : EvSrc) (code detail : Nat) : (mgmtSend s src code detail).host = s.host := by
  have hlife : ∀ t e, (lifeEvent t e).host = t.host := fun t e => by unfold lifeEvent; split <;> rfl
  have hmgmt : ∀ t e, (mgmtEvent t e).host = t.host := fun t e => by
    unfold mgmtEvent
    dsimp only
    split
    · rfl
    · split <;> rfl
  unfold mgmtSend
  rw [hlife, hmgmt]

/-! ## The boot ROM -/

theorem execBootRomDone_copies {s : State} (hon : s.supplies.mainOn = true) (hst : s.boot.st = .bootRom) :
    execBootRomDone false s = .next { s with boot := { s.boot with st := .fwVerify, copy := s.boot.fuse } } := by
  unfold execBootRomDone
  simp [hon, hst, withBoot]

theorem execBootRomDone_fails {s : State} (hon : s.supplies.mainOn = true) (hst : s.boot.st = .bootRom) :
    execBootRomDone true s = .next (mgmtSend (bootFails s 0x05F1) srcFw 0x05F1 0) := by
  unfold execBootRomDone
  simp [hon, hst]

/-! ## Phases that run late -/

/-- A late phase 3 or 4 is reported to the management network, a later one by firmware; start-up fails (20, R650, R652). -/
theorem execStartPhaseTimeout_fails {s : State} {phase : BitVec 4}
    (h : (phase = 3 ∧ s.boot.st = .bootRom) ∨ (phase = 4 ∧ s.boot.st = .fwVerify) ∨
      (5 ≤ phase.toNat ∧ phase.toNat ≤ 8 ∧ s.boot.st = .start)) :
    ∃ t, execStartPhaseTimeout phase s = .next t ∧ inward t = inward (bootFails s 0x04F1) := by
  rcases h with ⟨rfl, hst⟩ | ⟨rfl, hst⟩ | ⟨h5, h8, hst⟩
  · refine ⟨_, by unfold execStartPhaseTimeout; simp [hst]; rfl, inward_mgmtSend ..⟩
  · refine ⟨_, by unfold execStartPhaseTimeout; simp [hst]; rfl, inward_mgmtSend ..⟩
  · refine ⟨sendEvent (bootFails s 0x04F1) srcFw 15 0x04F1 phase.toNat, ?_, inward_sendEvent ..⟩
    have h1 : phase.toNat ≠ 1 := by omega
    have h2 : phase.toNat ≠ 2 := by omega
    unfold execStartPhaseTimeout
    simp [h1, h2, h5, h8, hst]

/-- The main domain turned off for good by a late phase 2 (20, R650). -/
def overrunOff (s : State) : State := withSup (mainOff s) (fun u => { u with overrun := true })

/-- Phase 2 runs late while the domain is on: it turns off and stays off (20, R650; log entry 43). -/
theorem execStartPhaseTimeout_two {s : State} (hst : s.boot.st = .bootRom) :
    execStartPhaseTimeout 2 s =
      .next (mgmtSend (overrunOff s) srcPower 0x04F1 2) := by
  unfold execStartPhaseTimeout
  simp [hst, overrunOff]

theorem part_mainOff (s : State) {p : Nat} (hp : p < 12) :
    (part (mainOff s) p).st = .absent ∧ (part (mainOff s) p).clusters = [] ∧ (part (mainOff s) p).hbm = [] := by
  have hpart : part (mainOff s) p =
      if s.mgmt.seHeld.getLsbD p then { partReset with se := { partReset.se with ctrl := (part s p).se.ctrl } } else partReset := by
    unfold mainOff mainReset withSup part
    rw [List.getD_eq_getElem _ _ (by simpa using hp)]
    simp
  rw [hpart]
  split <;> exact ⟨rfl, rfl, rfl⟩

/-- The main domain is gone after a late phase 2, and its turn-on is barred. -/
theorem mainGone_phaseTwo (s : State) :
    let t := mgmtSend (overrunOff s) srcPower 0x04F1 2
    mainGone s t ∧ t.supplies.overrun = true ∧ mayEnable t = false := by
  have hin := inward_mgmtSend (overrunOff s) srcPower 0x04F1 2
  have hsup := supplies_mgmtSend (overrunOff s) srcPower 0x04F1 2
  refine ⟨⟨?_, ?_, ?_, ?_, fun p hp => ?_⟩, ?_, ?_⟩
  · rw [hsup]; rfl
  · have hpending := of_inward State.pending (fun _ => rfl) hin
    exact hpending
  · rw [boot_mgmtSend]; rfl
  · rw [host_mgmtSend]; rfl
  · rw [part_of_inward hin]; exact part_mainOff s hp
  · rw [hsup]; rfl
  · unfold mayEnable
    rw [hsup]
    simp [overrunOff, withSup]

/-! ## The two firmware banks -/

/-- A bank by its side. -/
def bootBank (b : Boot) (isB : Bool) : FwBank := if isB then b.bankB else b.bankA

/-- The answer of the boot ROM's check of a bank; 0 where it passes. -/
def bankCheck (b : Boot) (isB : Bool) (key : BitVec 768) : Nat := fwCheck b.copy (bankImage (bootBank b isB)) key

/-- The result of a check is noted at its bank. -/
def bankNoted (b : Boot) (isB : Bool) (r : BitVec 2) : Boot :=
  if isB then { b with bankB := { b.bankB with result := r } } else { b with bankA := { b.bankA with result := r } }

/-- Start-up goes on with the firmware of a bank (17, R559). -/
def bankRuns (b : Boot) (isB : Bool) : Boot :=
  { bankNoted b isB 1 with
    st := .start, runB := isB, fw := BitVec.ofNat 32 (fieldAt (bankImage (bootBank b isB)) 8 4),
    sec := fieldAt (bankImage (bootBank b isB)) 12 2, byFw := true }

theorem bankTry_passes {s : State} {isB : Bool} {key : BitVec 768} (h : bankCheck s.boot isB key = 0) :
    bankTry s isB key = ({ s with boot := bankRuns s.boot isB }, true) := by
  have hcheck : fwCheck s.boot.copy (bankImage (if isB then s.boot.bankB else s.boot.bankA)) key = 0 := h
  unfold bankTry
  simp only [hcheck, if_true]
  cases isB <;> rfl

theorem bankTry_fails {s : State} {isB : Bool} {key : BitVec 768} (h : bankCheck s.boot isB key ≠ 0) :
    (bankTry s isB key).2 = false ∧ inward (bankTry s isB key).1 = inward { s with boot := bankNoted s.boot isB 2 } := by
  have hcheck : ¬ fwCheck s.boot.copy (bankImage (if isB then s.boot.bankB else s.boot.bankA)) key = 0 := h
  unfold bankTry
  simp only [hcheck, if_false, inward_mgmtSend, true_and]
  cases isB <;> rfl

/-- A failed check of one bank changes neither the copy of Onyx nor the other bank. -/
theorem bankCheck_bankNoted (b : Boot) (isB : Bool) (r : BitVec 2) (key : BitVec 768) :
    bankCheck (bankNoted b isB r) (!isB) key = bankCheck b (!isB) key := by
  cases isB <;> rfl

theorem bootBank_bankNoted (b : Boot) (isB : Bool) (r : BitVec 2) : bootBank (bankNoted b isB r) (!isB) = bootBank b (!isB) := by
  cases isB <;> rfl

theorem bankNoted_onyx (b : Boot) (isB : Bool) (r : BitVec 2) :
    (bankNoted b isB r).fuse = b.fuse ∧ (bankNoted b isB r).copy = b.copy := by
  cases isB <;> exact ⟨rfl, rfl⟩

/-- Of states that differ in their start-up alone, one start-up makes one state. -/
theorem inward_boot_of {s t : State} {b : Boot} (h : inward t = inward { s with boot := b }) (b' : Boot) :
    inward { t with boot := b' } = inward { s with boot := b' } :=
  congrArg (fun u => { u with boot := b' }) h

theorem inward_bootFails_of {s t : State} {b : Boot} (h : inward t = inward { s with boot := b }) (code : Nat) :
    inward (bootFails t code) = inward { s with boot := { b with st := .failed, fail := BitVec.ofNat 16 code } } :=
  congrArg (fun u => bootFails u code) h

/-- What FW_VERIFY does to start-up: the preferred bank, the other one, or failure (17, R559; 20, R650). -/
def verified (b : Boot) (pref : Bool) (key other : BitVec 768) : Boot :=
  if bankCheck b pref key = 0 then bankRuns b pref
  else if bankCheck b (!pref) other = 0 then bankRuns (bankNoted b pref 2) (!pref)
  else { bankNoted (bankNoted b pref 2) (!pref) 2 with st := .failed, fail := 0x0503 }

theorem execFwVerify_verified {s : State} (hst : s.boot.st = .fwVerify) (keyA keyB : BitVec 768) :
    ∃ t, execFwVerify keyA keyB s = .next t ∧
      inward t = inward { s with
        boot := verified s.boot s.life.bankB (if s.life.bankB then keyB else keyA) (if s.life.bankB then keyA else keyB) } := by
  unfold execFwVerify verified
  simp only [hst, bne_self_eq_false, Bool.false_eq_true, if_false]
  refine ⟨_, rfl, ?_⟩
  by_cases hpref : bankCheck s.boot s.life.bankB (if s.life.bankB then keyB else keyA) = 0
  · rw [bankTry_passes hpref, if_pos rfl, if_pos hpref]
  · obtain ⟨hfirst, hin⟩ := bankTry_fails hpref
    have hboot := boot_of_inward hin
    rw [if_neg (by rw [hfirst]; decide), if_neg hpref]
    by_cases hother : bankCheck s.boot (!s.life.bankB) (if s.life.bankB then keyA else keyB) = 0
    · rw [bankTry_passes (by rw [hboot, bankCheck_bankNoted]; exact hother), if_pos rfl, if_pos hother, hboot]
      exact inward_boot_of hin _
    · obtain ⟨hsecond, hin'⟩ := bankTry_fails (s := (bankTry s s.life.bankB (if s.life.bankB then keyB else keyA)).1)
        (isB := !s.life.bankB) (key := if s.life.bankB then keyA else keyB) (by rw [hboot, bankCheck_bankNoted]; exact hother)
      rw [if_neg (by rw [hsecond]; decide), if_neg hother, inward_mgmtSend]
      rw [hboot] at hin'
      exact inward_bootFails_of (hin'.trans (inward_boot_of hin _)) _

/-- A number of n bytes. -/
theorem leNat_lt (l : List Byte) : leNat l < 2 ^ (8 * l.length) := by
  induction l with
  | nil => decide
  | cons x xs ih =>
    have hx := x.isLt
    rw [leNat, List.length_cons, Nat.mul_add, Nat.pow_add]
    omega

theorem fieldAt_lt (l : List Byte) (lo n : Nat) : fieldAt l lo n < 2 ^ (8 * n) :=
  lt_of_lt_of_le (leNat_lt _) (Nat.pow_le_pow_right (by decide) (Nat.mul_le_mul_left 8 (List.length_take_le _ _)))

/-- Start-up runs the firmware of a bank that passed (17, R559). -/
structure RunsBank (b : Boot) (isB : Bool) (img : List Byte) : Prop where
  st : b.st = .start
  runB : b.runB = isB
  byFw : b.byFw = true
  result : (bootBank b isB).result = 1
  fw : b.fw.toNat = fieldAt img 8 4
  sec : b.sec = fieldAt img 12 2

/-- The same as one Boolean. -/
theorem RunsBank.all {b : Boot} {isB : Bool} {img : List Byte} (h : RunsBank b isB img) :
    (decide (b.st = .start) && decide (b.runB = isB) && b.byFw && decide ((if isB then b.bankB else b.bankA).result = 1) &&
      decide (b.fw.toNat = fieldAt img 8 4) && decide (b.sec = fieldAt img 12 2)) = true := by
  have hresult : (if isB then b.bankB else b.bankA).result = 1 := h.result
  rw [h.byFw, decide_eq_true h.st, decide_eq_true h.runB, decide_eq_true hresult, decide_eq_true h.fw, decide_eq_true h.sec]
  rfl

theorem bankRuns_fw (b : Boot) (isB : Bool) :
    (bankRuns b isB).fw.toNat = fieldAt (bankImage (bootBank b isB)) 8 4 := by
  rw [bankRuns, BitVec.toNat_ofNat, Nat.mod_eq_of_lt (fieldAt_lt _ _ _)]

theorem bankRuns_result (b : Boot) (isB : Bool) : (bootBank (bankRuns b isB) isB).result = 1 := by
  cases isB <;> rfl

theorem runsBank_bankRuns (b : Boot) (isB : Bool) : RunsBank (bankRuns b isB) isB (bankImage (bootBank b isB)) := by
  refine ⟨?_, ?_, ?_, bankRuns_result b isB, bankRuns_fw b isB, ?_⟩
  all_goals rfl

/-- Onyx and its copy stand through the checks of the banks. -/
theorem verified_onyx (b : Boot) (pref : Bool) (key other : BitVec 768) :
    (verified b pref key other).fuse = b.fuse ∧ (verified b pref key other).copy = b.copy := by
  unfold verified bankRuns
  split
  · exact bankNoted_onyx ..
  · split
    · exact ⟨(bankNoted_onyx ..).1.trans (bankNoted_onyx ..).1, (bankNoted_onyx ..).2.trans (bankNoted_onyx ..).2⟩
    · exact ⟨(bankNoted_onyx ..).1.trans (bankNoted_onyx ..).1, (bankNoted_onyx ..).2.trans (bankNoted_onyx ..).2⟩

theorem verified_runs (b : Boot) (pref : Bool) (key other : BitVec 768) :
    (bankCheck b pref key = 0 → RunsBank (verified b pref key other) pref (bankImage (bootBank b pref))) ∧
    (bankCheck b pref key ≠ 0 → bankCheck b (!pref) other = 0 →
      RunsBank (verified b pref key other) (!pref) (bankImage (bootBank b (!pref)))) ∧
    (bankCheck b pref key ≠ 0 → bankCheck b (!pref) other ≠ 0 →
      (verified b pref key other).st = .failed ∧ (verified b pref key other).fail = 0x0503) := by
  unfold verified
  refine ⟨fun h => ?_, fun h h' => ?_, fun h h' => ?_⟩
  · rw [if_pos h]
    exact runsBank_bankRuns b pref
  · rw [if_neg h, if_pos h', ← bootBank_bankNoted b pref 2]
    exact runsBank_bankRuns _ (!pref)
  · rw [if_neg h, if_neg h']
    exact ⟨rfl, rfl⟩

/-- The key that goes with a bank. -/
def bankKey (keyA keyB : BitVec 768) (isB : Bool) : BitVec 768 := if isB then keyB else keyA

/-- A choice by the checks of two banks, 0 where a check passes. -/
theorem if_bad {c d : Nat} {P Q R : Prop} (hfirst : c = 0 → R) (hother : c ≠ 0 → d = 0 → Q) (hneither : c ≠ 0 → d ≠ 0 → P) :
    if (c != 0) = true then (if (d != 0) = true then P else Q) else R := by
  by_cases hc : c = 0
  · simpa [hc] using hfirst hc
  · by_cases hd : d = 0
    · simpa [hc, hd] using hother hc hd
    · simpa [hc, hd] using hneither hc hd

/-- FW_VERIFY with the key of each bank's slot (17, R559; 20, R650). -/
theorem execFwVerify_keys {s : State} (hst : s.boot.st = .fwVerify) (keyA keyB : BitVec 768) :
    ∃ t, execFwVerify keyA keyB s = .next t ∧ t.parts = s.parts ∧
      t.boot = verified s.boot s.life.bankB (bankKey keyA keyB s.life.bankB) (bankKey keyA keyB (!s.life.bankB)) := by
  obtain ⟨t, hnext, hin⟩ := execFwVerify_verified hst keyA keyB
  have hparts := of_inward State.parts (fun _ => rfl) hin
  have hother : bankKey keyA keyB (!s.life.bankB) = if s.life.bankB then keyA else keyB := by
    unfold bankKey
    cases s.life.bankB <;> rfl
  refine ⟨t, hnext, hparts, ?_⟩
  rw [boot_of_inward hin, hother, bankKey]

/-! ## The logical machine -/

/-- What looks at the insides of the module alone, and neither at the life record nor at the governors, is kept by the margin plan. -/
theorem startPlan_keeps {α : Type} (f : State → α) (hin : ∀ u, f (inward u) = f u) (hlife : ∀ t x, f { t with life := x } = f t)
    (hgov : ∀ t x, f { t with gov := x } = f t) (s : State) (a : StartArgs) : f (startPlan s a) = f s := by
  have hretire : ∀ t c, f (retire t c) = f t := fun t c => (of_inward f hin (inward_sendEvent ..)).trans (hlife ..)
  unfold startPlan
  dsimp only
  rw [of_inward f hin (inward_sendEvent ..)]
  exact (hgov ..).trans ((hlife ..).trans ((foldl_keeps f _ retire _ hretire).trans (hgov ..)))

/-- Thermal control at the start: 1,000 MHz, and T_thr by the operating hours (19, R634). -/
theorem startPlan_thermal (s : State) (a : StartArgs) :
    (startPlan s a).gov.thermal = 80 ∧ (startPlan s a).gov.tthr = tthrOf s.life := by
  have hretire : ∀ t c, (retire t c).gov = t.gov := fun t c => sendEvent_gov ..
  unfold startPlan
  dsimp only
  rw [sendEvent_gov]
  have hgone : ∀ l t, (List.foldl retire t l).gov = t.gov := fun l t => foldl_keeps State.gov l retire t hretire
  simp only [withGov, withLife, hgone, and_self]

/-- What looks at no memory registers keeps its value when every region is laid out afresh. -/
theorem layAll_keeps {α : Type} (f : State → α) (hf : ∀ t p g, f (withMem t p g) = f t) (s : State) : f (layAll s) = f s := by
  unfold layAll
  refine foldl_keeps f _ _ s (fun t p => ?_)
  split
  · exact hf ..
  · exact hf ..

/-- A change of memory registers shows in them alone. -/
theorem part_withMem_keeps {α : Type} (f : Partition → α) (hf : ∀ q m, f { q with mem := m } = f q) (s : State) (p k : Nat)
    (g : MemRegs → MemRegs) : f (part (withMem s p g) k) = f (part s k) := by
  unfold withMem part withPart
  rw [updAt_getD]
  split
  · exact hf ..
  · rfl

/-- A plan that is put in force: its partitions are idle, the others absent, and slices are empty (01, R42, R45). -/
theorem part_putPlan {s : State} {p : Nat} (hp : p < s.parts.length) (e : Nat) :
    (part (putPlan s e) p).st = (if p < planCount (putPlan s e) then .idle else .absent) ∧ (part (putPlan s e) p).hbm = [] := by
  have hcount : planCount (putPlan s e) = planCount { s with boot := { s.boot with plan := e, planOn := true } } := by
    unfold putPlan
    exact layAll_keeps planCount (fun _ _ _ => rfl) _
  rw [hcount]
  unfold putPlan
  refine ⟨?_, ?_⟩
  · rw [layAll_keeps (fun t => (part t p).st) (fun t k g => part_withMem_keeps Partition.st (fun _ _ => rfl) t k p g)]
    simp only [part]
    rw [List.getD_eq_getElem _ _ (by simpa using hp), List.getElem_mapIdx]
  · rw [layAll_keeps (fun t => (part t p).hbm) (fun t k g => part_withMem_keeps Partition.hbm (fun _ _ => rfl) t k p g)]
    simp only [part]
    rw [List.getD_eq_getElem _ _ (by simpa using hp), List.getElem_mapIdx]

theorem putPlan_boot (s : State) (e : Nat) : (putPlan s e).boot = { s.boot with plan := e, planOn := true } := by
  unfold putPlan
  exact layAll_keeps State.boot (fun _ _ _ => rfl) _

theorem putPlan_grid (s : State) (e : Nat) : (putPlan s e).grid = s.grid := by
  unfold putPlan
  exact layAll_keeps State.grid (fun _ _ _ => rfl) _

theorem putPlan_gov (s : State) (e : Nat) : (putPlan s e).gov = s.gov := by
  unfold putPlan
  exact layAll_keeps State.gov (fun _ _ _ => rfl) _

/-- The life clock's change touches the life record and its own note alone (19, R644). -/
theorem takeClock_keeps {α : Type} (f : State → α)
    (hf : ∀ t x b, f { t with life := x, boot := { t.boot with clockSet := b } } = f t) (s : State) : f (takeClock s) = f s := by
  unfold takeClock
  dsimp only
  split
  · exact hf s _ true
  · rfl

/-- The module with a plan in force, its Quartz started and its CCLK at the start's frequency, READY (20, R651, R656; log entry 12). -/
def readied (s : State) (e : Nat) : State :=
  withBoot (withGov (takeClock (startQuartz (putPlan s e))) (fun g => setTarget g (min 48 (limitSteps g))))
    (fun b => { b with st := .ready })

/-- The plan entry that START puts in force: the boot plan where it is valid, else the lowest valid one (20, R656). -/
def startEntry (s : State) : Nat :=
  if (validPlans s.boot.copy).contains s.mgmt.bootPlan then s.mgmt.bootPlan else (validPlans s.boot.copy).headD 0

/-- A commit of the life record writes one of its flash copies (19, R642). -/
theorem commitLife_keeps {α : Type} (f : State → α) (ha : ∀ t c, f { t with copyA := c } = f t)
    (hb : ∀ t c, f { t with copyB := c } = f t) (s : State) : f (commitLife s) = f s := by
  unfold commitLife
  extract_lets n c aNewest
  cases aNewest
  · exact ha ..
  · exact hb ..

/-- What START's last steps show: the readied module, but for the life record and its flash copies. -/
theorem startReady_keeps {α : Type} (f : State → α) (hin : ∀ u, f (inward u) = f u) (hlife : ∀ t x, f { t with life := x } = f t)
    (ha : ∀ t c, f { t with copyA := c } = f t) (hb : ∀ t c, f { t with copyB := c } = f t) {s : State}
    (hplans : validPlans s.boot.copy ≠ []) :
    ∃ u, inward u = inward s ∧ f (startReady s) = f (readied u (startEntry s)) := by
  unfold startReady startEntry
  cases hval : validPlans s.boot.copy with
  | nil => exact absurd hval hplans
  | cons e0 rest =>
    refine ⟨if (if (e0 :: rest).contains s.mgmt.bootPlan then s.mgmt.bootPlan else e0) = s.mgmt.bootPlan then s
      else sendEvent s srcFw 15 0x02F5 0, inward_ite rfl (inward_sendEvent ..), ?_⟩
    exact (commitLife_keeps f ha hb _).trans ((of_inward f hin (inward_sendEvent ..)).trans (hlife ..))

theorem startReady_failed {s : State} (hplans : validPlans s.boot.copy = []) :
    startReady s = sendEvent (bootFails s 0x05F1) srcFw 15 0x05F1 0 := by
  unfold startReady
  rw [hplans]

theorem takeClock_boot (s : State) : ∃ b, (takeClock s).boot = { s.boot with clockSet := b } := by
  unfold takeClock
  dsimp only
  split
  · exact ⟨true, rfl⟩
  · exact ⟨s.boot.clockSet, rfl⟩

theorem startQuartz_boot (s : State) : (startQuartz s).boot = s.boot := rfl

theorem startQuartz_grid (s : State) : (startQuartz s).grid = s.grid := rfl

theorem startQuartz_gov (s : State) : (startQuartz s).gov = s.gov := rfl

theorem part_startQuartz (s : State) (k : Nat) : part (startQuartz s) k = part s k := rfl

theorem takeClock_grid (s : State) : (takeClock s).grid = s.grid := takeClock_keeps State.grid (fun _ _ _ => rfl) s

theorem takeClock_gov (s : State) : (takeClock s).gov = s.gov := takeClock_keeps State.gov (fun _ _ _ => rfl) s

theorem part_takeClock (s : State) (k : Nat) : part (takeClock s) k = part s k := takeClock_keeps (part · k) (fun _ _ _ => rfl) s

/-- Start-up's last changes of its own state. -/
theorem ready_boot (s : State) (f : Governor → Governor) (g : Boot → Boot) : (withBoot (withGov s f) g).boot = g s.boot := rfl

theorem ready_grid (s : State) (f : Governor → Governor) (g : Boot → Boot) : (withBoot (withGov s f) g).grid = s.grid := rfl

theorem ready_gov (s : State) (f : Governor → Governor) (g : Boot → Boot) : (withBoot (withGov s f) g).gov = f s.gov := rfl

theorem part_ready (s : State) (f : Governor → Governor) (g : Boot → Boot) (k : Nat) :
    part (withBoot (withGov s f) g) k = part s k := rfl

/-- The readied module: what its plan, its Quartz and its CCLK leave of start-up, and the plan itself. -/
theorem readied_boot (s : State) (e : Nat) :
    ∃ b, (readied s e).boot = { s.boot with plan := e, planOn := true, clockSet := b, st := .ready } := by
  obtain ⟨b, hb⟩ := takeClock_boot (startQuartz (putPlan s e))
  exact ⟨b, by rw [readied, ready_boot, hb, startQuartz_boot, putPlan_boot]⟩

theorem readied_grid (s : State) (e : Nat) : (readied s e).grid = s.grid := by
  rw [readied, ready_grid, takeClock_grid, startQuartz_grid, putPlan_grid]

/-- The CCLK at which START ends is 600 MHz: the effective limit is never lower (19, R628; log entry 12). -/
theorem setTarget_start (g : Governor) : (setTarget g (min 48 (limitSteps g))).target = 48 := by
  have h48 : min 48 (limitSteps g) = 48 := Nat.min_eq_left (Nat.le_max_left _ _)
  unfold setTarget
  rw [h48]
  split
  · exact (by assumption : 48 = g.target).symm
  · rfl

theorem setTarget_thermal (g : Governor) (n : Nat) : (setTarget g n).thermal = g.thermal ∧ (setTarget g n).tthr = g.tthr := by
  unfold setTarget
  split <;> exact ⟨rfl, rfl⟩

theorem readied_gov (s : State) (e : Nat) : (readied s e).gov = setTarget s.gov (min 48 (limitSteps s.gov)) := by
  rw [readied, ready_gov, takeClock_gov, startQuartz_gov, putPlan_gov]

theorem planCount_of_boot {s t : State} (hcopy : t.boot.copy = s.boot.copy) (hplan : t.boot.plan = s.boot.plan)
    (hon : t.boot.planOn = s.boot.planOn) : planCount t = planCount s := by
  unfold planCount
  rw [hcopy, hplan, hon]

theorem part_readied {s : State} {p : Nat} (hp : p < s.parts.length) (e : Nat) :
    (part (readied s e) p).st = (if p < planCount (readied s e) then .idle else .absent) ∧ (part (readied s e) p).hbm = [] := by
  obtain ⟨b, hb⟩ := readied_boot s e
  have hboot := putPlan_boot s e
  have hcount : planCount (readied s e) = planCount (putPlan s e) :=
    planCount_of_boot (by rw [hb, hboot]) (by rw [hb, hboot]) (by rw [hb, hboot])
  rw [hcount, readied, part_ready, part_takeClock, part_startQuartz]
  exact part_putPlan hp e

/-- The disabled set of a start: the factory's, the life record's and what the test packs found (01, R23; 20, R651 step 5). -/
def startDisabled (s : State) (a : StartArgs) : BitVec 512 := factoryDisabled s.boot.copy ||| s.life.clusters ||| a.failed

/-- The module whose test packs have run, without its table. -/
def packTested (s : State) (a : StartArgs) : State :=
  { s with
    faults := { s.faults with packUsed := packVerifies s a.packKey },
    grid := { s.grid with
              testFailed := a.failed &&& ~~~(factoryDisabled s.boot.copy ||| s.life.clusters), disabled := startDisabled s a } }

theorem or_and_not_self (x y : BitVec 512) : x ||| (y &&& ~~~x) = x ||| y := by
  apply BitVec.eq_of_getLsbD_eq
  intro i hi
  simp only [BitVec.getLsbD_or, BitVec.getLsbD_and, BitVec.getLsbD_not, hi, decide_true, Bool.true_and]
  cases x.getLsbD i <;> simp

/-- A start that found a table for its disabled set. -/
def tabled (s : State) (a : StartArgs) (tb : List Nat) : State :=
  spareWarn { packTested s a with grid := { (packTested s a).grid with table := tb } }

theorem startTable_eq (s : State) (a : StartArgs) :
    startTable s a = ((assignLogical (startDisabled s a)).map (tabled s a), packTested s a) := by
  unfold startTable tabled packTested startDisabled
  simp only [or_and_not_self]

/-- The module of a table, but for the warning that spares run low. -/
theorem tabled_shows (s : State) (a : StartArgs) (tb : List Nat) :
    (tabled s a tb).boot = s.boot ∧ (tabled s a tb).gov = s.gov ∧ (tabled s a tb).parts = s.parts ∧
      (tabled s a tb).mgmt.bootPlan = s.mgmt.bootPlan ∧ (tabled s a tb).grid.table = tb ∧
      (tabled s a tb).grid.disabled = startDisabled s a := by
  unfold tabled
  refine ⟨?_, ?_, ?_, ?_, ?_, ?_⟩
  · exact of_spareWarn State.boot (fun _ => rfl) (fun _ _ => rfl) _
  · exact of_spareWarn State.gov (fun _ => rfl) (fun _ _ => rfl) _
  · exact of_spareWarn State.parts (fun _ => rfl) (fun _ _ => rfl) _
  · exact of_spareWarn (fun t => t.mgmt.bootPlan) (fun _ => rfl) (fun _ _ => rfl) _
  · exact of_spareWarn (fun t => t.grid.table) (fun _ => rfl) (fun _ _ => rfl) _
  · exact of_spareWarn (fun t => t.grid.disabled) (fun _ => rfl) (fun _ _ => rfl) _

theorem boot_bootFails (s : State) (code : Nat) :
    (bootFails s code).boot = { s.boot with st := .failed, fail := BitVec.ofNat 16 code } := rfl

/-- The module at the margin plan of its start (20, R651 steps 1 and 2). -/
def planned (s : State) (a : StartArgs) : State := startPlan (withBoot (advance s a.dt) (fun b => { b with models := a.models })) a

theorem planned_shows (s : State) (a : StartArgs) :
    (planned s a).boot = { s.boot with models := a.models } ∧ (planned s a).parts = s.parts ∧
      (planned s a).mgmt.bootPlan = s.mgmt.bootPlan ∧ (planned s a).gov.thermal = 80 ∧
      (planned s a).gov.tthr = if s.life.seconds < 3600 then 85 else 95 := by
  obtain ⟨hthermal, htthr⟩ := startPlan_thermal (withBoot (advance s a.dt) (fun b => { b with models := a.models })) a
  refine ⟨?_, ?_, ?_, hthermal, htthr⟩
  · exact startPlan_keeps State.boot (fun _ => rfl) (fun _ _ => rfl) (fun _ _ => rfl) _ a
  · exact startPlan_keeps State.parts (fun _ => rfl) (fun _ _ => rfl) (fun _ _ => rfl) _ a
  · exact startPlan_keeps (fun t => t.mgmt.bootPlan) (fun _ => rfl) (fun _ _ => rfl) (fun _ _ => rfl) _ a

theorem execStart_runs {s : State} {a : StartArgs} (hst : s.boot.st = .start) (hon : s.supplies.mainOn = true) :
    execStart a s = .next (startRun (withBoot (advance s a.dt) (fun b => { b with models := a.models })) a) := by
  unfold execStart
  simp [hst, hon]

/-- START stops where no point of the margin plan is usable (20, R651). -/
theorem startRun_noPlan {s : State} {a : StartArgs} (h : planTop (startPlan s a).gov = 0) :
    startRun s a = sendEvent (bootFails (startPlan s a) 0x04E0) srcFw 15 0x04E0 0 := by
  unfold startRun
  simp only [h, if_true]

/-- START stops where no table can be made of the clusters left (01, R24). -/
theorem startRun_noTable {s : State} {a : StartArgs} (hplan : planTop (startPlan s a).gov ≠ 0)
    (h : assignLogical (startDisabled (startMemory (startPlan s a)) a) = none) :
    ∃ n, startRun s a = sendEvent (bootFails (packTested (startMemory (startPlan s a)) a) 0x0401) srcFw 15 0x0401 n := by
  unfold startRun
  simp only [hplan, if_false, startTable_eq, h, Option.map_none]
  exact ⟨_, rfl⟩

theorem startRun_table {s : State} {a : StartArgs} {tb : List Nat} (hplan : planTop (startPlan s a).gov ≠ 0)
    (h : assignLogical (startDisabled (startMemory (startPlan s a)) a) = some tb) :
    startRun s a = startReady (tabled (startMemory (startPlan s a)) a tb) := by
  unfold startRun
  simp only [hplan, if_false, startTable_eq, h, Option.map_some]

/-- What START's last steps show of start-up, of the grid, of the governors and of the partitions. -/
theorem startReady_shows {s : State} (hplans : validPlans s.boot.copy ≠ []) (hlen : s.parts.length = 12) :
    let t := startReady s
    (∃ b, t.boot = { s.boot with plan := startEntry s, planOn := true, clockSet := b, st := .ready }) ∧ t.grid = s.grid ∧
      t.gov = setTarget s.gov (min 48 (limitSteps s.gov)) ∧
      ∀ p, p < 12 → (part t p).st = (if p < planCount t then .idle else .absent) ∧ (part t p).hbm = [] := by
  intro t
  obtain ⟨u, hin, hshow⟩ := startReady_keeps (fun t => (t.boot, t.grid, t.gov, t.parts)) (fun _ => rfl) (fun _ _ => rfl)
    (fun _ _ => rfl) (fun _ _ => rfl) hplans
  obtain ⟨hboot, hgrid, hgov, hparts⟩ : t.boot = (readied u (startEntry s)).boot ∧ t.grid = (readied u (startEntry s)).grid ∧
      t.gov = (readied u (startEntry s)).gov ∧ t.parts = (readied u (startEntry s)).parts := by
    simpa only [Prod.mk.injEq] using hshow
  have hugov : u.gov = s.gov := of_inward State.gov (fun _ => rfl) hin
  have huparts : u.parts = s.parts := of_inward State.parts (fun _ => rfl) hin
  have hcount : planCount t = planCount (readied u (startEntry s)) := by
    unfold planCount
    rw [hboot]
  refine ⟨?_, ?_, ?_, fun p hp => ?_⟩
  · rw [hboot, ← boot_of_inward hin]
    exact readied_boot u _
  · rw [hgrid, readied_grid, grid_of_inward hin]
  · rw [hgov, readied_gov, hugov]
  · rw [hcount, part, hparts]
    exact part_readied (by rw [huparts, hlen]; exact hp) _

/-- A start that found its plan, its table and a valid plan entry is READY (20, R651, R656). -/
theorem readyWith_startReady {s : State} {a : StartArgs} {tb : List Nat}
    (htb : assignLogical (startDisabled (startMemory (planned s a)) a) = some tb) (hplans : validPlans s.boot.copy ≠ [])
    (hlen : s.parts.length = 12) :
    let t := startReady (tabled (startMemory (planned s a)) a tb)
    t.boot.fuse = s.boot.fuse ∧ t.boot.models = a.models ∧
      readyWith s t (startDisabled (startMemory (planned s a)) a) (validPlans s.boot.copy) := by
  intro t
  obtain ⟨hboot, hparts, hplan, hthermal, htthr⟩ := planned_shows s a
  obtain ⟨hboot', hgov', hparts', hplan', htable', hdis'⟩ := tabled_shows (startMemory (planned s a)) a tb
  have hcopy : (tabled (startMemory (planned s a)) a tb).boot = { s.boot with models := a.models } := hboot'.trans hboot
  have hwant : (tabled (startMemory (planned s a)) a tb).mgmt.bootPlan = s.mgmt.bootPlan := hplan'.trans hplan
  obtain ⟨⟨b, htboot⟩, htgrid, htgov, htpart⟩ := startReady_shows (s := tabled (startMemory (planned s a)) a tb)
    (by rw [hcopy]; exact hplans) ((congrArg List.length (hparts'.trans hparts)).trans hlen)
  have hentry : startEntry (tabled (startMemory (planned s a)) a tb) =
      if (validPlans s.boot.copy).contains s.mgmt.bootPlan then s.mgmt.bootPlan else (validPlans s.boot.copy).headD 0 := by
    rw [startEntry, hcopy, hwant]
  obtain ⟨hth, htt⟩ := setTarget_thermal (tabled (startMemory (planned s a)) a tb).gov
    (min 48 (limitSteps (tabled (startMemory (planned s a)) a tb).gov))
  refine ⟨?_, ?_, ?_, ?_, ?_, ?_, ?_, ?_, ?_, fun _ => ?_, htpart⟩
  · rw [htboot, hcopy]
  · rw [htboot, hcopy]
  · rw [htboot]
  · rw [htgrid, htable', htb]
  · rw [htgrid, hdis']
  · rw [htboot]
  · rw [htboot]; exact hentry
  · rw [htgov, hth, hgov']; exact hthermal
  · rw [htgov, htt, hgov']; exact htthr
  · rw [htgov]; exact setTarget_start _

theorem startDisabled_planned (s : State) (a : StartArgs) : startDisabled (startMemory (planned s a)) a =
    factoryDisabled s.boot.copy ||| (planned s a).life.clusters ||| a.failed := by
  obtain ⟨hboot, -⟩ := planned_shows s a
  have hmemory : (startMemory (planned s a)).boot = (planned s a).boot := rfl
  rw [startDisabled, hmemory, hboot]
  rfl

/-- A start that fails after its models were taken. -/
theorem failedStart {s t : State} {a : StartArgs} (ht : t.boot = { s.boot with models := a.models }) (code n : Nat) :
    (sendEvent (bootFails t code) srcFw 15 code n).boot =
      { s.boot with models := a.models, st := .failed, fail := BitVec.ofNat 16 code } := by
  rw [sendEvent_boot, boot_bootFails, ht]

/-- The run of START over the disabled set and the valid plan entries (01, R24; 20, R650, R651, R656). -/
theorem startRun_outcome (s : State) (a : StartArgs) (hlen : s.parts.length = 12) :
    let t := startRun (withBoot (advance s a.dt) (fun b => { b with models := a.models })) a
    let dis := startDisabled (startMemory (planned s a)) a
    t.boot.fuse = s.boot.fuse ∧ t.boot.models = a.models ∧
      (if planTop (planned s a).gov = 0 then t.boot.st = .failed ∧ t.boot.fail = 0x04E0
        else if assignLogical dis = none then t.boot.st = .failed ∧ t.boot.fail = 0x0401
        else if validPlans s.boot.copy = [] then t.boot.st = .failed ∧ t.boot.fail = 0x05F1
        else readyWith s t dis (validPlans s.boot.copy)) := by
  intro t dis
  obtain ⟨hboot, -⟩ := planned_shows s a
  by_cases hplan : planTop (planned s a).gov = 0
  · have hrun : t = _ := startRun_noPlan hplan
    have ht := failedStart hboot 0x04E0 0
    rw [planned, ← hrun] at ht
    rw [if_pos hplan, ht]
    exact ⟨rfl, rfl, rfl, rfl⟩
  rw [if_neg hplan]
  cases htb : assignLogical dis with
  | none =>
    obtain ⟨n, hrun⟩ : ∃ n, t = sendEvent (bootFails (packTested (startMemory (planned s a)) a) 0x0401) srcFw 15 0x0401 n :=
      startRun_noTable hplan htb
    have hpacked : (packTested (startMemory (planned s a)) a).boot = (planned s a).boot := rfl
    have ht := failedStart (hpacked.trans hboot) 0x0401 n
    rw [← hrun] at ht
    rw [if_pos rfl, ht]
    exact ⟨rfl, rfl, rfl, rfl⟩
  | some tb =>
    have hrun : t = startReady (tabled (startMemory (planned s a)) a tb) := startRun_table hplan htb
    have htboot : (tabled (startMemory (planned s a)) a tb).boot = { s.boot with models := a.models } :=
      (tabled_shows ..).1.trans hboot
    rw [if_neg (by simp)]
    by_cases hval : validPlans s.boot.copy = []
    · have hready := startReady_failed (s := tabled (startMemory (planned s a)) a tb) (by rw [htboot]; exact hval)
      have ht := failedStart htboot 0x05F1 0
      rw [← hready, ← hrun] at ht
      rw [if_pos hval, ht]
      exact ⟨rfl, rfl, rfl, rfl⟩
    · obtain ⟨hfuse, hmodels, hready⟩ := readyWith_startReady htb hval hlen
      rw [if_neg hval, hrun]
      exact ⟨hfuse, hmodels, hready⟩

/-! ## The obligation -/

/-- Settles O19: each phase of start-up by its own branch, and READY by what every step of START leaves of the steps before it. -/
theorem startUp : Obligations.StartUp := by
  unfold Obligations.StartUp
  refine ⟨fun s hon => ⟨fun hst => execBootRomDone_copies hon hst, fun hst => ?_, fun phase h => ?_, fun hst => ?_⟩,
    fun s keyA keyB hst => ?_, fun s a hst hon hlen => ?_⟩
  case refine_1 =>
    exact ⟨_, execBootRomDone_fails hon hst, boot_mgmtSend .., parts_mgmtSend ..⟩
  case refine_2 =>
    obtain ⟨t, hnext, hin⟩ := execStartPhaseTimeout_fails h
    have hparts := of_inward State.parts (fun _ => rfl) hin
    have hsup := of_inward State.supplies (fun _ => rfl) hin
    exact ⟨t, hnext, boot_of_inward hin, hparts, hsup⟩
  case refine_3 => exact ⟨_, execStartPhaseTimeout_two hst, mainGone_phaseTwo s⟩
  case refine_4 =>
    intro pref img bad run
    obtain ⟨t, hnext, hparts, hboot⟩ := execFwVerify_keys hst keyA keyB
    obtain ⟨hfuse, hcopy⟩ := verified_onyx s.boot pref (bankKey keyA keyB pref) (bankKey keyA keyB (!pref))
    obtain ⟨hfirst, hother, hneither⟩ := verified_runs s.boot pref (bankKey keyA keyB pref) (bankKey keyA keyB (!pref))
    rw [← hboot] at hfuse hcopy hfirst hother hneither
    have hbad : ∀ isB, bad isB = (bankCheck s.boot isB (bankKey keyA keyB isB) != 0) := fun _ => rfl
    have hrun : ∀ isB, RunsBank t.boot isB (bankImage (bootBank s.boot isB)) → run isB t = true := fun isB h => h.all
    clear_value bad run
    refine ⟨t, hnext, hparts, hfuse, hcopy, ?_⟩
    rw [hbad, hbad]
    generalize bankCheck s.boot pref (bankKey keyA keyB pref) = c at hfirst hother hneither ⊢
    generalize bankCheck s.boot (!pref) (bankKey keyA keyB (!pref)) = d at hother hneither ⊢
    exact if_bad (fun h => hrun _ (hfirst h)) (fun h h' => hrun _ (hother h h')) hneither
  case refine_5 =>
    intro u dis plans
    have houtcome := startRun_outcome s a hlen
    rw [startDisabled_planned] at houtcome
    exact ⟨_, execStart_runs hst hon, houtcome⟩

end Sys2Proof.Machine
end

section
/-! SUPPORT. A 64-bit register read in halves: the latch of a function, and O51 from it (02, R87). -/

namespace Sys2Proof.Machine

theorem fnOf_withFn_ne (s : State) {k j : Nat} (h : j ≠ k) (f : Fn → Fn) : fnOf (withFn s k f) j = fnOf s j := by
  unfold fnOf withFn
  rw [updAt_getD, if_neg (fun e => h e.1.symm)]

/-- The bytes of the low half of a register are the low 4 bytes of its value. -/
theorem leBytes_lowHalf (v : Nat) : leBytes 4 (natWord v 0) = leBytes 4 v := by
  have hbyte : ∀ x y : Nat, x % 2 ^ 8 = y % 2 ^ 8 → BitVec.ofNat 8 x = BitVec.ofNat 8 y := fun x y h =>
    BitVec.eq_of_toNat_eq (by rw [BitVec.toNat_ofNat, BitVec.toNat_ofNat, h])
  have hlow : natWord v 0 = v % 2 ^ 32 := by simp [natWord, bits]
  rw [hlow]
  simp only [leBytes, List.cons.injEq, and_true]
  refine ⟨hbyte _ _ ?_, hbyte _ _ ?_, hbyte _ _ ?_, hbyte _ _ ?_⟩ <;> omega

/-- The high half of a register as a word. -/
theorem ofNat_highHalf (v : Nat) : BitVec.ofNat 32 (natWord v 1) = BitVec.ofNat 32 (v / 2 ^ 32) :=
  BitVec.eq_of_toNat_eq (by simp [natWord, bits])

/-- The value of a served low half. -/
theorem regWord_low {s : State} {k off v : Nat} (hs : regServed s off = true) (hr : reg64 s k off = some v) :
    regWord s k off = natWord v 0 := by
  unfold regWord
  simp only [hs, Bool.not_true, Bool.false_eq_true, if_false, hr]

/-- What the read of a low half leaves: the high half latched; FN_DB_DROP is cleared (00, R8; 02, R87). -/
def latchHigh (s : State) (k off v : Nat) : State :=
  withFn s k (fun f =>
    { f with
      latch := some (off + 4, BitVec.ofNat 32 (v / 2 ^ 32)), dbDrop := if off = 0x148 then 0 else f.dbDrop })

/-- A read of the low half of a 64-bit register latches its high half (02, R87). -/
theorem readWord_low {s : State} {k off v : Nat} (hs : regServed s off = true) (hr : reg64 s k off = some v) (h8 : off % 8 = 0) :
    (readWord s k off).2 = latchHigh s k off v := by
  have hconflict : off ≠ 0x144 := by omega
  have hlost : off ≠ 0x10F4 := by omega
  unfold readWord latchHigh
  simp only [hs, hr, hconflict, hlost, Bool.not_true, Bool.false_eq_true, if_false, ofNat_highHalf]
  split <;> simp only [withFn_withFn]

/-- A read of the latched half answers what is latched (02, R87). -/
theorem readWord_latched {s : State} {k off : Nat} {h : Word32} (hs : regServed s off = true)
    (hl : (fnOf s k).latch = some (off, h)) : (readWord s k off).1 = h.toNat := by
  unfold readWord
  simp only [hs, hl, Bool.not_true, Bool.false_eq_true, if_false, if_true]

/-- Settles O51: a read of a low half is one change of the function's own record, and a latched half is answered as it is. -/
theorem latchedHalves : Obligations.LatchedHalves := by
  unfold Obligations.LatchedHalves
  intro s k off hk hfns hs
  have hk' : k < s.host.fns.length := hfns ▸ hk
  refine ⟨fun v hr _ h8 hl => ?_, fun h hl h4 _ => ?_⟩
  · have hnext : exec (.lowHalfRead k off 4) s = .next (withAnswer (latchHigh s k off.toNat v) (leBytes 4 v)) := by
      have hread := barRead_four (show off.toNat % 4 = 0 by omega) s k
      rw [readWord_low hs hr h8, readWord_value hs hl, regWord_low hs hr, leBytes_lowHalf] at hread
      rw [exec_lowHalfRead hk]
      exact congrArg Host.Outcome.next hread
    refine ⟨_, hnext, answered_withAnswer .., ?_, fun j hj => ?_, rfl, rfl, rfl, rfl, fun hoff => ?_⟩
    · rw [fnOf_withAnswer, latchHigh, fnOf_withFn hk']
    · rw [fnOf_withAnswer, latchHigh, fnOf_withFn_ne s hj]
    · have hdrop : off.toNat ≠ 0x148 := fun h => hoff (BitVec.eq_of_toNat_eq h)
      rw [fnOf_withAnswer, latchHigh, fnOf_withFn hk']
      simp only [hdrop, if_false]
  · have hread := barRead_four (show off.toNat % 4 = 0 by omega) s k
    rw [readWord_latched hs hl] at hread
    exact ⟨_, (exec_lowHalfRead hk s off 4).trans (congrArg Host.Outcome.next hread), answered_withAnswer ..⟩

end Sys2Proof.Machine
end

section
/-! SUPPORT. Canary trips and the in-service re-plan: the governor and the holds of every partition (02, R84; 19, R640, R641), and O17
from them. -/

namespace Sys2Proof.Machine

/-! ## A frequency step -/

theorem setTarget_target (g : Governor) (n : Nat) : (setTarget g n).target = n := by
  unfold setTarget
  split
  · next h => exact h.symm
  · rfl

/-- A frequency step leaves what does not look at target, point and settle time. -/
theorem setTarget_keeps {α : Type} (f : Governor → α) (hf : ∀ g a b c, f { g with target := a, point := b, settle := c } = f g)
    (g : Governor) (n : Nat) : f (setTarget g n) = f g := by
  unfold setTarget
  split
  · rfl
  · exact hf ..

/-- A lowered limit changes the governor alone. -/
theorem retarget_eq (s : State) :
    retarget s = withGov s (fun g => if limitSteps g < g.target then setTarget g (limitSteps g) else g) := by
  unfold retarget
  split
  · next h => simp only [withGov, h, if_true]
  · next h => simp only [withGov, h, if_false]

/-- The target after a lowered limit is the lower of the two (19, R631). -/
theorem retarget_target (s : State) : (retarget s).gov.target = min s.gov.target (limitSteps s.gov) := by
  rw [retarget_eq, withGov_gov]
  split
  · next h => rw [setTarget_target, Nat.min_eq_right h.le]
  · next h => exact (Nat.min_eq_left (Nat.not_lt.1 h)).symm

/-- What a lowered limit leaves of the governor. -/
theorem retarget_keeps {α : Type} (f : Governor → α) (hf : ∀ g a b c, f { g with target := a, point := b, settle := c } = f g)
    (s : State) : f (retarget s).gov = f s.gov := by
  rw [retarget_eq, withGov_gov]
  split
  · exact setTarget_keeps f hf ..
  · rfl

/-! ## A canary trip -/

/-- A canary trip at a target above 600 MHz lowers the point in use and every higher one below the target, and no other (19, R640). -/
theorem trippedPlan_steps {g : Governor} (hg : 49 ≤ g.target) (r : PlanRec) :
    (trippedPlan g r).steps.length = r.steps.length ∧
      ∀ k, k < r.steps.length → (trippedPlan g r).steps.getD k 0 ≤ r.steps.getD k 0 ∧
        (k < g.point → (trippedPlan g r).steps.getD k 0 = r.steps.getD k 0) ∧
        (g.point ≤ k → (trippedPlan g r).steps.getD k 0 < g.target) := by
  have hn : ¬ g.target - 1 < 48 := by omega
  refine ⟨by simp [trippedPlan], fun k hk => ?_⟩
  have hlow : (trippedPlan g r).steps.getD k 0 = if g.point ≤ k then min (r.steps.getD k 0) (g.target - 1) else r.steps.getD k 0 := by
    simp [trippedPlan, hn, List.getD_eq_getElem?_getD, hk]
  rw [hlow]
  split <;> omega

/-- CANARY_SAMPLE below 10 ps at READY is a trip. -/
theorem execCanarySample_trips {s : State} {slack : BitVec 16} (hst : s.boot.st = .ready) (hslack : slack.toNat < 10)
    (htarget : s.gov.target ≠ 0) : exec (.canarySample slack) s = .next (canaryTrip s) := by
  have hon : (isReady s && s.gov.target != 0 && decide (slack.toNat < 10)) = true := by simp [isReady, hst, htarget, hslack]
  exact congrArg Host.Outcome.next (if_pos hon)

/-- The governor of a trip before the limit is judged anew (19, R640). -/
def tripped (s : State) (g : Governor) : Governor :=
  { setTarget { g with plan := g.plan.map (trippedPlan g), canary := satInc g.canary 1 } (max 48 (g.target - 1)) with
    replan := if g.replan = .none then .scheduled else g.replan,
    replanAt := if g.replan = .none then s.quartz.ns else g.replanAt }

theorem canaryTrip_eq (s : State) :
    canaryTrip s = retarget (withLife (withGov s (tripped s)) (fun l => { l with canary := l.canary + 1 })) := rfl

theorem canaryTrip_parts (s : State) : (canaryTrip s).parts = s.parts := by
  rw [canaryTrip_eq, retarget_eq]
  rfl

theorem canaryTrip_life (s : State) : (canaryTrip s).life.canary = s.life.canary + 1 := by
  rw [canaryTrip_eq, retarget_eq]
  rfl

/-- A canary trip takes the target at least one step down (19, R640). -/
theorem canaryTrip_target (s : State) : (canaryTrip s).gov.target ≤ max 48 (s.gov.target - 1) := by
  rw [canaryTrip_eq, retarget_target]
  exact (Nat.min_le_left ..).trans (le_of_eq (setTarget_target ..))

/-- What a canary trip does to the plan, its own count and the re-plan (19, R640). -/
theorem canaryTrip_gov (s : State) :
    (canaryTrip s).gov.plan = s.gov.plan.map (trippedPlan s.gov) ∧ (canaryTrip s).gov.canary = satInc s.gov.canary 1 ∧
      (canaryTrip s).gov.replan = if s.gov.replan = .none then .scheduled else s.gov.replan := by
  rw [canaryTrip_eq]
  refine ⟨?_, ?_, ?_⟩
  · exact (retarget_keeps Governor.plan (fun _ _ _ _ => rfl) _).trans (setTarget_keeps Governor.plan (fun _ _ _ _ => rfl) ..)
  · exact (retarget_keeps Governor.canary (fun _ _ _ _ => rfl) _).trans (setTarget_keeps Governor.canary (fun _ _ _ _ => rfl) ..)
  · exact retarget_keeps Governor.replan (fun _ _ _ _ => rfl) _

/-! ## The holds of every partition -/

/-- A partition whose holds are changed. -/
def heldPart (f : BitVec 16 → BitVec 16) : Partition → Partition := withSeq (fun x => { x with holds := f x.holds })

theorem allHolds_eq (s : State) (f : BitVec 16 → BitVec 16) : allHolds s f = { s with parts := s.parts.map (heldPart f) } := rfl

/-- A change of every partition, seen at one of them. -/
theorem getD_map_of_lt {f : Partition → Partition} {l : List Partition} {p : Nat} (hp : p < l.length) :
    (l.map f).getD p partReset = f (l.getD p partReset) := by
  simp [List.getD_eq_getElem?_getD, hp]

theorem part_allHolds {s : State} {p : Nat} (hp : p < s.parts.length) (f : BitVec 16 → BitVec 16) :
    part (allHolds s f) p = heldPart f (part s p) := getD_map_of_lt hp

/-- A test of every partition is a test of each by its number. -/
theorem all_parts {s : State} (hlen : s.parts.length = 12) {g : Nat → Partition} (hg : ∀ p, p < 12 → part s p = g p)
    (f : Partition → Bool) : s.parts.all f = (List.range 12).all (fun p => f (g p)) := by
  have hmap : s.parts = (List.range 12).map g := by
    apply List.ext_getElem (by simp [hlen])
    intro i hi _
    simp [← hg i (hlen ▸ hi), part, hi]
  rw [hmap, List.all_map]
  rfl

theorem replanCheck_parts (s : State) : (replanCheck s).parts = s.parts := by
  unfold replanCheck
  split <;> rfl

/-- A check of a re-plan that holds: CCLK pauses once every partition is held (19, R641). -/
theorem replanCheck_gov {s : State} (h : s.gov.replan = .holding) (hat : s.gov.replanAt = s.quartz.ns) :
    (replanCheck s).gov = { s.gov with replan := if s.parts.all replanHeld then .paused else .holding } := by
  unfold replanCheck
  cases hall : s.parts.all replanHeld with
  | true => simp [h, ← hat]
  | false => simp [← h]

/-! ## MARGIN_REPLAN -/

/-- A scheduled re-plan whose time has come raises the hold of cause 12 in every partition (19, R641). -/
theorem execMarginReplan_scheduled {s : State} (h : s.gov.replan = .scheduled) (hat : s.gov.replanAt ≤ s.quartz.ns) :
    exec .marginReplan s = .next (replanCheck (withGov (allHolds s (fun x => x ||| 0x1000)) (fun g =>
      { g with replan := .holding, replanAt := s.quartz.ns }))) := by
  change execMarginReplan s = _
  unfold execMarginReplan
  simp only [h, Nat.not_lt.2 hat, if_false]

/-- A re-plan that has held for 100 ms while a partition is not held gives its holds back and waits for 1 s (19, R641). -/
theorem execMarginReplan_late {s : State} (h : s.gov.replan = .holding) (hnot : s.parts.all replanHeld = false)
    (hat : s.gov.replanAt + 100000000 ≤ s.quartz.ns) : exec .marginReplan s = .next (replanRetry s) := by
  have hcheck : replanCheck s = s := by
    unfold replanCheck
    simp only [hnot, Bool.and_false, Bool.false_eq_true, if_false]
  change execMarginReplan s = _
  unfold execMarginReplan
  simp only [hcheck, h, hat, decide_true, Bool.and_self, if_true]

/-! ## CCLK_RELOCK_DONE -/

/-- A running partition counts the pause (02, R84). -/
def notePause (ns : Nat) (q : Partition) : Partition :=
  if q.st = .running then { q with rep := { q.rep with live := { q.rep.live with pauseNs := satInc q.rep.live.pauseNs ns } } } else q

theorem notePause_seq (ns : Nat) (q : Partition) : (notePause ns q).seq = q.seq := by unfold notePause; split <;> rfl
theorem notePause_st (ns : Nat) (q : Partition) : (notePause ns q).st = q.st := by unfold notePause; split <;> rfl

/-- A relocked module before its plan is recorded: the holds are given back, the pause is counted, and the point in use is judged anew
(02, R84; 19, R641). -/
def relocked (s : State) (dt : Word64) : State :=
  withGov { advance s dt with
            parts := (s.parts.map (heldPart (fun x => x &&& 0xEFFF))).map (notePause ((advance s dt).quartz.ns - s.gov.replanAt)) }
    (fun g => { g with replan := .none, point := pointFor g g.target })

theorem part_relocked {s : State} {p : Nat} (hp : p < s.parts.length) (dt : Word64) :
    part (relocked s dt) p =
      notePause ((advance s dt).quartz.ns - s.gov.replanAt) (heldPart (fun x => x &&& 0xEFFF) (part s p)) := by
  have hmap := getD_map_of_lt (f := notePause ((advance s dt).quartz.ns - s.gov.replanAt))
    (l := s.parts.map (heldPart (fun x => x &&& 0xEFFF))) (p := p) (by rw [List.length_map]; exact hp)
  rw [getD_map_of_lt hp] at hmap
  exact hmap

theorem execCclkRelockDone_paused {s : State} (h : s.gov.replan = .paused) (dt : Word64) :
    exec (.cclkRelockDone dt) s = .next (retarget (replanRecord (relocked s dt))) :=
  congrArg Host.Outcome.next (if_neg (by rw [h]; decide))

theorem replanRecord_parts (s : State) : (replanRecord s).parts = s.parts := by
  unfold replanRecord
  cases s.gov.plan with
  | none => rfl
  | some r => exact sendEvent_parts ..

/-- The record of a re-plan changes no step of the plan: what looks at the governor without the rest of its plan stands. -/
theorem replanRecord_gov (s : State) :
    (replanRecord s).gov = s.gov ∨
      ∃ r n, s.gov.plan = some r ∧ n.steps = r.steps ∧ (replanRecord s).gov = { s.gov with plan := some n } := by
  unfold replanRecord
  cases hplan : s.gov.plan with
  | none => exact .inl rfl
  | some r =>
    refine .inr ⟨r, { r with time := BitVec.ofNat 64 s.quartz.ns, wLast := r.w, reason := 1 }, rfl, rfl, ?_⟩
    exact (sendEvent_gov _ srcFw 15 0x02E0 _).trans rfl

/-- The record of a re-plan leaves the target, the state of the re-plan and the limit (19, R638, R641). -/
theorem replanRecord_limit (s : State) :
    (replanRecord s).gov.target = s.gov.target ∧ (replanRecord s).gov.replan = s.gov.replan ∧
      limitSteps (replanRecord s).gov = limitSteps s.gov := by
  rcases replanRecord_gov s with h | ⟨r, n, hplan, hsteps, h⟩
  · rw [h]
    exact ⟨rfl, rfl, rfl⟩
  · rw [h]
    refine ⟨rfl, rfl, ?_⟩
    simp only [limitSteps, planTop, hplan, hsteps]

/-! ## The obligation -/

/-- Settles O17: a trip by the rule of R640 on the plan, and each state of a re-plan by its own branch. -/
theorem marginPlan : Obligations.MarginPlan := by
  unfold Obligations.MarginPlan
  constructor
  · intro s slack hst hslack htarget hnone
    obtain ⟨hplan, hcount, hreplan⟩ := canaryTrip_gov s
    refine ⟨_, execCanarySample_trips hst hslack (by omega), canaryTrip_parts s, ?_, hcount, canaryTrip_life s, ?_, fun r hr => ?_⟩
    · exact (canaryTrip_target s).trans (by omega)
    · rw [hreplan, if_pos hnone]
    · obtain ⟨hlength, hsteps⟩ := trippedPlan_steps htarget r
      exact ⟨_, by rw [hplan, hr]; rfl, hlength, hsteps⟩
  · intro s dt hlen raised
    refine ⟨fun h hat => ?_, fun h hnot hat => ?_, fun h => ?_⟩
    · have hheld : ∀ p, p < 12 → part (allHolds s (fun x => x ||| 0x1000)) p = raised p := fun p hp =>
        part_allHolds (hlen ▸ hp) _
      have hall : (allHolds s (fun x => x ||| 0x1000)).parts.all replanHeld =
          (List.range 12).all (fun p => replanHeld (raised p)) := all_parts (by simp [allHolds_eq, hlen]) hheld _
      have hgov := replanCheck_gov (s := withGov (allHolds s (fun x => x ||| 0x1000)) (fun g =>
        { g with replan := .holding, replanAt := s.quartz.ns })) rfl rfl
      rw [show (withGov (allHolds s (fun x => x ||| 0x1000)) _).parts.all replanHeld = _ from hall] at hgov
      refine ⟨_, execMarginReplan_scheduled h hat, by rw [hgov]; rfl, by rw [hgov]; rfl, by rw [hgov], fun p hp => ?_⟩
      rw [part, replanCheck_parts, ← hheld p hp]
      rfl
    · refine ⟨_, execMarginReplan_late h hnot hat, rfl, rfl, rfl, fun p hp => ?_⟩
      exact part_allHolds (s := s) (hlen ▸ hp) (fun x => x &&& 0xEFFF)
    · obtain ⟨htarget, hreplan, hlimit⟩ := replanRecord_limit (relocked s dt)
      refine ⟨_, execCclkRelockDone_paused h dt, ?_, ?_, fun p hp => ?_⟩
      · exact (retarget_keeps Governor.replan (fun _ _ _ _ => rfl) _).trans hreplan
      · rw [retarget_target, htarget, hlimit]
        rfl
      · have hpart : part (retarget (replanRecord (relocked s dt))) p = part (relocked s dt) p := by
          rw [part, retarget_eq, withGov_parts, replanRecord_parts]
          rfl
        rw [hpart, part_relocked (hlen ▸ hp), notePause_seq, notePause_st]
        exact ⟨rfl, rfl⟩

end Sys2Proof.Machine
end

section
/-! SUPPORT. A boundary bundle under the hold of a re-plan waits: neither a calm partition nor a bare boundary excludes that hold, which
refutes O11 (02, R83; 19, R641). -/

namespace Sys2Proof.Machine

/-- The bundle of STEP_END (06, R232). -/
def stepEndBundle : Bundle := { emptyBundle with ctl := .stepEnd false }

theorem exec_stepEnd {p : Nat} (hp : p < 12) (s : State) : exec (.stepEnd p) s = .next (slotTick p stepEndBundle s) :=
  onUnit_of_true (decide_eq_true hp) _

/-- A partition with one cluster, whose step has begun, under the hold of cause 12 that a re-plan raises (19, R641). -/
def replanPart : Partition :=
  { partReset with
    st := .running, clusters := [clusterReset], seq := { seqReset with begun := true, holds := 0x1000 },
    rep := { repRegsReset with ctrlEff := 0 }, se := { seRegsReset with hjBytesEff := 128 }, job := { jobNone with ranks := 1 } }

/-- A module at 600 MHz whose re-plan holds its partitions; partition 0 runs. -/
def replanState : State :=
  { State.reset with
    boot := { bootReset with st := .ready, byFw := true, copy := fuseReset, planOn := true },
    gov := { governorReset with target := 48, replan := .holding },
    parts := replanPart :: List.replicate 11 partReset, host := { hostReset with up := true } }

theorem quiet_clusterReset : Quiet clusterReset.core := by constructor <;> decide

/-- Of the holds a calm partition excludes that of cause 13 alone. -/
theorem calm_replanState : Calm replanState 0 where
  lt := Nat.succ_pos _
  twelve := by decide
  run := rfl
  clk := by decide
  stream := rfl
  owed := rfl
  begun := rfl
  frozen := rfl
  freezeAt := rfl
  asked := rfl
  replaying := rfl
  waiting := rfl
  power := rfl
  hold13 := by decide
  replayable := rfl
  hj := by decide
  quiet := fun c hc => by
    obtain rfl : c = clusterReset := List.mem_singleton.1 hc
    exact quiet_clusterReset
  room := by decide
  traps := by decide

theorem bare_replanState : Bare replanState 0 := by constructor <;> decide

/-- The boundary bundle is held, so its CCLK is a stalled one: the step stands, and cause 12 is charged (02, R83). -/
theorem replanState_stalls :
    (part (slotTick 0 stepEndBundle replanState) 0).seq.step = (part replanState 0).seq.step ∧
      nth (part (slotTick 0 stepEndBundle replanState) 0).seq.stalls 12 = 1 := by decide

/-- Refutes O11: a partition may be calm at a bare boundary while a re-plan holds it (cause 12; 19, R641). Its STEP_END then waits, and
the step counter does not advance. -/
theorem not_stepBoundary : ¬ Obligations.StepBoundary := by
  unfold Obligations.StepBoundary
  intro h
  obtain ⟨⟨t, hnext, ⟨hstep, -⟩, -⟩, -⟩ := h replanState 0 calm_replanState bare_replanState rfl
  rw [exec_stepEnd (by decide)] at hnext
  have ht : slotTick 0 stepEndBundle replanState = t := by injection hnext
  rw [← ht, replanState_stalls.1] at hstep
  exact absurd hstep (Nat.succ_ne_self _).symm

end Sys2Proof.Machine
end

section
/-! SUPPORT. The DMA slot of a quiet cluster: claims, flags and what goes out (06, R219 to R227). -/

namespace Sys2Proof.Machine

/-- A bundle with nothing but a DMA operation. -/
def dmBundle (op : DmOp) (a : DmaArgs) : Bundle := { emptyBundle with dmOp := op, dm := a }

/-- The operation code names an operation (06, R205, R219). -/
def IsDmOp (op : DmOp) : Prop := op ≠ .nop ∧ op ≠ .reserved

section
variable {env : Env} {op : DmOp} {a : DmaArgs} (hb : env.b = dmBundle op a) (hop : IsDmOp op)
include hb

include hop in
/-- The operation of a cycle, with the operands of the cluster, where the cluster's predicate is 1. -/
theorem dmNow_bundle (c : Cluster) : dmNow env c.core = if predOn c.core a.pred then some (dmOperands op a c) else none := by
  unfold dmNow
  rw [hb]
  cases hon : predOn c.core a.pred with
  | false => simp [dmBundle, hon]
  | true => simp [dmBundle, hon, hop.1, hop.2, dmOperands]

theorem waitLists_bundle (bufs : List Buffer) : waitLists env bufs = ([], []) := by
  simp [waitLists, hb, dmBundle, emptyBundle]

end

/-- The flags of a quiet DMA engine: `poison_buf` stays zero while `poison_in` is clear (06, R238). -/
theorem dmaRegs_flags {m : DmaUnit} (hm : (if m.status.getLsbD 5 then m.status else m.status &&& 0x7F) = m.status) {set : Word64}
    (h5 : set.getLsbD 5 = false) (h7 : set &&& 0x7F = set) : dmaRegs none set m = { m with status := m.status ||| set } := by
  have hstatus : (if (m.status ||| set).getLsbD 5 then m.status ||| set else (m.status ||| set) &&& 0x7F) = m.status ||| set := by
    rw [BitVec.getLsbD_or, h5, Bool.or_false, BitVec.and_or_distrib_right, h7]
    split at hm
    · next h => rw [if_pos h]
    · next h => rw [if_neg h, hm]
  simp only [dmaRegs, w1cReg_none, wideReg_none, mapIdx_same _ _ (fun _ _ => rfl)]
  exact congrArg (fun x => { m with status := x }) hstatus

/-- The events of an operation that finds its buffer busy (06, R224). -/
def busyEvs (pc : Nat) (d : DmNow) : List Ev := [{ kind := .bufBusy, slot := 7, pc := pc, detail := d.buf }]

/-- The events of an operation that claims its buffer: over the quota, or an address outside the map (06, R220, R227). -/
def claimEvs (pc : Nat) (c : ClusterCore) (d : DmNow) : List Ev :=
  (if dmOverQuota c d then [{ kind := .atomicQuota, slot := 7, pc := pc, detail := 0 }] else []) ++
    (if d.op = .regread && !regreadMapped d.addr then [{ kind := .regreadUnmapped, slot := 7, pc := pc, detail := d.addr }] else [])

theorem bitsOf_busyEvs (pc : Nat) (c : Cluster) (d : DmNow) : bitsOf dmBit (busyEvs pc d) = dmFlags true c d := by
  simp [busyEvs, bitsOf, dmBit, dmFlags]

theorem bitsOf_claimEvs (pc : Nat) (c : Cluster) (d : DmNow) : bitsOf dmBit (claimEvs pc c.core d) = dmFlags false c d := by
  unfold claimEvs dmFlags
  cases dmOverQuota c.core d <;> cases d.op = .regread && !regreadMapped d.addr <;> simp [bitsOf, dmBit]

/-- The flags of an operation are flags that the engine keeps. -/
theorem dmFlags_kept (busy : Bool) (c : Cluster) (d : DmNow) :
    (dmFlags busy c d).getLsbD 5 = false ∧ dmFlags busy c d &&& 0x7F = dmFlags busy c d := by
  unfold dmFlags
  generalize dmOverQuota c.core d = quota
  generalize (decide (d.op = .regread) && !regreadMapped d.addr) = unmapped
  revert busy quota unmapped
  decide

/-- A claim keeps nothing of the buffer as it was (06, R221). -/
theorem dmClaim_eq (env : Env) (d : DmNow) (present : Bool) (armed : Nat) :
    dmClaim env d present armed = fun _ =>
      { bufferFree with
        kind := dmKind d.op, claim := env.u, range := if d.n = 0 then none else some (d.sram, d.n), answer := dmAnswer d,
        present := present, presentAt := env.cclk, armed := armed, pc := env.pc } := rfl

/-! ## The DMA engine -/

section
variable {env : Env} {op : DmOp} {a : DmaArgs} {c : Cluster} (hb : env.b = dmBundle op a) (hop : IsDmOp op) (q : Quiet c.core)
include hb hop q

/-- Where the predicate is 0 the engine does nothing. -/
theorem dmaCycle_off (hon : predOn c.core a.pred = false) :
    dmaCycle env c.core c.sram c.journal none =
      { port := { dma := c.core.dma, sram := c.sram, journal := c.journal, evs := [] }, outs := [], seed := false } := by
  have hregs : dmaRegs none (bitsOf dmBit []) c.core.dma = c.core.dma := congrArg ClusterCore.dma (regsWritten_none c.core q.dm)
  unfold dmaCycle
  simp only [dmNow_bundle hb hop, hon, waitLists_bundle hb, List.append_nil, List.map_nil, hregs, List.contains_nil,
    Bool.false_eq_true, if_false, mapIdx_same _ _ (fun _ _ => rfl)]

/-- An operation whose buffer is held, or a range of which meets a held one, sets `buf_busy` alone (06, R224). -/
theorem dmaCycle_busy (hon : predOn c.core a.pred = true) (hbusy : dmBusy c.core.dma.bufs (dmOperands op a c) = true) :
    dmaCycle env c.core c.sram c.journal none =
      { port := { dma := (dmIssued env.u env.cclk env.pc op a c).core.dma, sram := c.sram, journal := c.journal,
                  evs := busyEvs env.pc (dmOperands op a c) },
        outs := [], seed := false } := by
  have hregs := dmaRegs_flags q.dm (dmFlags_kept true c (dmOperands op a c)).1 (dmFlags_kept true c (dmOperands op a c)).2
  have hdone : (dmIssued env.u env.cclk env.pc op a c).core.dma =
      { c.core.dma with status := c.core.dma.status ||| dmFlags true c (dmOperands op a c) } := by
    simp [dmIssued, whereOn, hon, hbusy, inDma, inCore]
  rw [← bitsOf_busyEvs env.pc] at hregs hdone
  unfold busyEvs at *
  unfold dmaCycle
  simp only [dmNow_bundle hb hop, hon, hbusy, waitLists_bundle hb, if_true, List.append_nil, List.map_nil, List.nil_append,
    Bool.not_true, Bool.false_and, Bool.false_eq_true, if_false, List.contains_nil, mapIdx_same _ _ (fun _ _ => rfl), hregs, hdone]

/-- An operation whose buffer is free claims it (06, R221). -/
theorem dmaCycle_claims (hon : predOn c.core a.pred = true) (hfree : dmBusy c.core.dma.bufs (dmOperands op a c) = false) :
    dmaCycle env c.core c.sram c.journal none =
      (let x := dmIssued env.u env.cclk env.pc op a c
       let p : Port := { dma := x.core.dma, sram := c.sram, journal := x.journal, evs := claimEvs env.pc c.core (dmOperands op a c) }
       { port := if op = .recv then deliverPort env.cclk p else p, outs := dmSends op a c, seed := op = .seed }) := by
  have hregs := dmaRegs_flags q.dm (dmFlags_kept false c (dmOperands op a c)).1 (dmFlags_kept false c (dmOperands op a c)).2
  have hbits := bitsOf_claimEvs env.pc c (dmOperands op a c)
  have hname : (dmOperands op a c).op = op := rfl
  have hsends : dmSends op a c =
      if dmEnds c (dmOperands op a c) then [] else dmOut (dmOperands op a c) (dmBytes c (dmOperands op a c)) := by
    cases hends : dmEnds c (dmOperands op a c) <;> simp [dmSends, hon, hfree, hends]
  have hnames : (env.b.waits.map BitVec.toNat) = [] := by rw [hb]; rfl
  unfold dmaCycle
  simp only [dmNow_bundle hb hop, hon, hfree, waitLists_bundle hb, hnames, if_true, List.append_nil, List.map_nil, List.nil_append,
    Bool.not_false, Bool.true_and, Bool.false_eq_true, if_false, List.contains_nil, mapIdx_same _ _ (fun _ _ => rfl), hname]
  unfold claimEvs at *
  simp only [hname] at hbits ⊢
  simp only [hregs, q.hbmq, List.nil_append, dmClaim_eq, hsends, dmEnds, dmBytes, hon, hfree, hname, dmIssued, whereOn, inDma, inCore,
    if_true, Bool.false_eq_true, if_false, hbits]

end

/-! ## Events of the DMA slot -/

/-- The events of DMA operations have no bit in SQ_STATUS (06, R235, R238). -/
theorem sqBit_claimEvs (pc : Nat) (c : ClusterCore) (d : DmNow) : ∀ e ∈ claimEvs pc c d, sqBit e.kind = 0 := by
  intro e he
  unfold claimEvs at he
  rcases List.mem_append.1 he with he | he <;> split at he <;> simp_all [sqBit]

/-- An arrival raises `recv_overflow` at most (06, R225). -/
theorem acceptArrival_evs (cclk : Nat) (p : Port) (a : Arrival) :
    (acceptArrival cclk p a).evs = p.evs ∨
      ∃ pc, (acceptArrival cclk p a).evs = p.evs ++ [{ kind := .recvOverflow, slot := 7, pc := pc, detail := a.buf }] := by
  unfold acceptArrival portWrite
  simp only [apply_ite Port.evs, ite_self]
  split
  · exact .inr ⟨_, rfl⟩
  · exact .inl rfl

theorem sqBit_acceptArrival {cclk : Nat} {p : Port} (h : ∀ e ∈ p.evs, sqBit e.kind = 0) (a : Arrival) :
    ∀ e ∈ (acceptArrival cclk p a).evs, sqBit e.kind = 0 := by
  rcases acceptArrival_evs cclk p a with hevs | ⟨pc, hevs⟩
  · rw [hevs]; exact h
  · rw [hevs]
    intro e he
    rcases List.mem_append.1 he with he | he
    · exact h e he
    · rw [List.mem_singleton.1 he]; rfl

/-- So do the arrivals that wait at the port. -/
theorem sqBit_deliverPort (cclk : Nat) (p : Port) (h : ∀ e ∈ p.evs, sqBit e.kind = 0) :
    ∀ e ∈ (deliverPort cclk p).evs, sqBit e.kind = 0 := by
  unfold deliverPort
  simp only []
  refine List.foldlRecOn (motive := fun (x : Port) => ∀ e ∈ x.evs, sqBit e.kind = 0) _ _ ?_ (fun _ hx a _ => sqBit_acceptArrival hx a)
  exact h

section
variable {env : Env} {op : DmOp} {a : DmaArgs} {c : Cluster} (hb : env.b = dmBundle op a) (hop : IsDmOp op) (q : Quiet c.core)
include hb hop q

theorem sqBit_dmaCycle : ∀ e ∈ (dmaCycle env c.core c.sram c.journal none).port.evs, sqBit e.kind = 0 := by
  cases hon : predOn c.core a.pred with
  | false => rw [dmaCycle_off hb hop q hon]; exact fun e he => absurd he List.not_mem_nil
  | true =>
    cases hbusy : dmBusy c.core.dma.bufs (dmOperands op a c) with
    | true => rw [dmaCycle_busy hb hop q hon hbusy]; exact fun e he => by rw [List.mem_singleton.1 he]; rfl
    | false =>
      rw [dmaCycle_claims hb hop q hon hbusy]
      have hclaim := sqBit_claimEvs env.pc c.core (dmOperands op a c)
      simp only []
      split
      · exact sqBit_deliverPort env.cclk _ hclaim
      · exact hclaim

/-- One issue cycle of a quiet cluster under a bundle with a DMA operation alone: what the DMA engine does, and a sent SEED counted by
Opal. -/
theorem clusterCycle_dma (hdebug : env.debug = false) (hseq : env.seqEvs = []) :
    let dm := dmaCycle env c.core c.sram c.journal none
    clusterCycle env c =
      { cl := { c with
                core := { c.core with opal := { c.core.opal with seedCnt := satInc c.core.opal.seedCnt (b2n dm.seed) }, dma := dm.port.dma },
                sram := dm.port.sram, journal := dm.port.journal },
        outs := dm.outs, evs := dm.port.evs, clash := false, skipped := false } := by
  intro dm
  have hsq : bitsOf sqBit dm.port.evs = 0 := bitsOf_eq_zero (sqBit_dmaCycle hb hop q)
  have hdm : dmaCycle env c.core c.sram c.journal none = dm := rfl
  clear_value dm
  have hslots : env.b.fdOp = .nop ∧ env.b.vOp = .nop ∧ env.b.scOp = .nop ∧ env.b.arrOp = .nop ∧ env.b.accOp = .none ∧
      env.b.stOp = .nop := by rw [hb]; exact ⟨rfl, rfl, rfl, rfl, rfl, rfl⟩
  obtain ⟨hfd, hvec, hsc, harr, hacc, hst⟩ := hslots
  have hcwr : cwrNow env c.core = none := by simp [cwrNow, hsc]
  have hcrd : crdNow env c.core = none := by simp [crdNow, hsc]
  have hevs : scEvs env = [] := by
    have hdm : env.b.dmOp ≠ .reserved := by rw [hb]; exact hop.2
    simp [scEvs, hsc, hdm]
  have haccs : cycleAccs env c.core [] = [] := by
    simp [cycleAccs, feedAccs_quiet env _ q hfd, vecAccs_nop env _ q hvec, scAccs_none env c.core (by simp [hsc]) (by simp [hsc])]
  have hdec : storesDecided env c.core c.sram (heldRanges c.core.dma.bufs) (feedAccs env c.core) = [] :=
    storesDecided_quiet env _ _ _ _ q
  have hserve : serveAll (accSort []) [] = [] := rfl
  have hregs := regsWritten_none c.core q.dm
  have hopal : opalCycle env c.core [] noStore dm.seed none =
      { c.core.opal with seedCnt := satInc c.core.opal.seedCnt (b2n dm.seed) } := by
    simp [opalCycle, vrandOutcome, resvNow, storesKept, noStore, hvec, q.resv, b2n, mapIdx_same]
  unfold noStore at hopal
  have hscalar : scalarCycle env c.core [] dm.port.evs none = c.core.scalar := by
    simp [scalarCycle, gNext, pNext, scResult, scPredResult, hsc, q.ld, hsq]
    rw [← q.ld]
  have harray : arrayCycle env c.core (feedIdle env) none none = (c.core.array, []) := by
    have hfeed : feedIdle env = { streams := [], stats := [], vec := none, stat := none, strm := {}, stary := {}, inherited := 0,
                                  invalid := 0, evs := [] } := by simp [feedIdle, invalidIn, hfd]
    rw [hfeed, arrayCycle_quiet env c.core _ _ q harr (by rw [hacc]; decide), hregs]
    rfl
  unfold feedIdle invalidIn at harray
  rw [if_neg (by rw [hfd]; decide)] at harray
  have hspot := spotCycle_quiet env c.core c.spot c.core.array q q.flights
  unfold clusterCycle
  simp only [hdec, haccs, hserve, List.filter_nil, List.map_nil, hcwr, hcrd]
  simp only [feedCycle_quiet env c.core [] _ _ q hfd rfl rfl, entryCycle_quiet env c.core _ q harr,
    harray, accumCycle_quiet env c.core _ q hacc,
    storeCycle_quiet env c.core [] hst, convCycle_quiet c.core _ q, vecCycle_quiet env c.core _ _ _ q hvec, List.foldl_nil,
    List.append_nil, hbmqEnd_nil, Option.toList_none, List.map_nil, List.flatten_nil, hevs, hregs, hdebug, hseq, List.nil_append, hspot,
    hdm, hscalar, hopal]
  rfl

end

/-! ## What an operation does to a cluster -/

/-- A cluster after a DMA operation: RECV delivers what waits at the port, and Opal counts a SEED (06, R219 to R227; 09, R309). -/
def dmDone (u cclk pc : Nat) (op : DmOp) (a : DmaArgs) : Cluster → Cluster :=
  match op with
  | .recv => recvIssued u cclk pc a
  | .seed => seedIssued u cclk pc a
  | op => dmIssued u cclk pc op a

theorem dmDone_plain {op : DmOp} (hrecv : op ≠ .recv) (hseed : op ≠ .seed) (u cclk pc : Nat) (a : DmaArgs) (c : Cluster) :
    dmDone u cclk pc op a c = dmIssued u cclk pc op a c := by
  unfold dmDone
  split
  · exact absurd rfl hrecv
  · exact absurd rfl hseed
  · rfl

/-- An operation that does nothing in a cluster, or finds its buffer busy there, sets flags at most. -/
theorem dmDone_of_not_claimed {op : DmOp} {a : DmaArgs} {c : Cluster}
    (h : (predOn c.core a.pred && !dmBusy c.core.dma.bufs (dmOperands op a c)) = false) (u cclk pc : Nat) :
    dmDone u cclk pc op a c = dmIssued u cclk pc op a c ∧ dmSends op a c = [] := by
  refine ⟨?_, ?_⟩
  · cases op <;> simp [dmDone, recvIssued, seedIssued, h]
  · simp [dmSends, h]

/-- An operation changes the DMA engine and the journal alone. -/
theorem dmIssued_eq (u cclk pc : Nat) (op : DmOp) (a : DmaArgs) (c : Cluster) :
    dmIssued u cclk pc op a c =
      { c with
        core := { c.core with dma := (dmIssued u cclk pc op a c).core.dma }, journal := (dmIssued u cclk pc op a c).journal } := by
  simp only [dmIssued, whereOn, inDma, inCore]
  split
  · split <;> rfl
  · rfl

/-- What an operation that claims its buffer does to a cluster, from what it does to the DMA engine. -/
theorem dmDone_of_claimed {op : DmOp} {a : DmaArgs} {c : Cluster} (hon : predOn c.core a.pred = true)
    (hfree : dmBusy c.core.dma.bufs (dmOperands op a c) = false) (u cclk pc : Nat) :
    (let x := dmIssued u cclk pc op a c
     let p : Port := { dma := x.core.dma, sram := c.sram, journal := x.journal, evs := claimEvs pc c.core (dmOperands op a c) }
     let y := if op = .recv then deliverPort cclk p else p
     { c with
       core := { c.core with opal := { c.core.opal with seedCnt := satInc c.core.opal.seedCnt (b2n (op = .seed)) }, dma := y.dma },
       sram := y.sram, journal := y.journal }) = dmDone u cclk pc op a c := by
  have hx := dmIssued_eq u cclk pc op a c
  by_cases hrecv : op = .recv
  · subst hrecv
    have hevs : claimEvs pc c.core (dmOperands .recv a c) = [] := rfl
    simp only [dmDone, recvIssued, hon, hfree, hevs, Bool.not_false, Bool.and_self, if_true]
    rw [hx]
    simp [inDma, inCore, b2n]
  · by_cases hseed : op = .seed
    · subst hseed
      simp only [dmDone, seedIssued, hon, hfree, Bool.not_false, Bool.and_self, if_true]
      rw [hx]
      simp [inOpal, inCore, b2n]
    · rw [dmDone_plain hrecv hseed, hx]
      simp [hrecv, hseed, b2n]

section
variable {env : Env} {op : DmOp} {a : DmaArgs} {c : Cluster} (hb : env.b = dmBundle op a) (hop : IsDmOp op) (q : Quiet c.core)
include hb hop q

/-- One issue cycle of a quiet cluster under a DMA operation. -/
theorem clusterCycle_dmDone (hdebug : env.debug = false) (hseq : env.seqEvs = []) :
    (clusterCycle env c).cl = dmDone env.u env.cclk env.pc op a c ∧ (clusterCycle env c).outs = dmSends op a c ∧
      (clusterCycle env c).clash = false ∧ (clusterCycle env c).skipped = false := by
  rw [clusterCycle_dma hb hop q hdebug hseq]
  refine ⟨?_, ?_, rfl, rfl⟩
  · cases hon : predOn c.core a.pred with
    | false =>
      rw [dmaCycle_off hb hop q hon, (dmDone_of_not_claimed (by rw [hon]; rfl) ..).1]
      simp [dmIssued, whereOn, hon, b2n]
    | true =>
      cases hbusy : dmBusy c.core.dma.bufs (dmOperands op a c) with
      | true =>
        rw [dmaCycle_busy hb hop q hon hbusy, (dmDone_of_not_claimed (by rw [hbusy, hon]; rfl) ..).1]
        simp [dmIssued, whereOn, hon, hbusy, b2n, inDma, inCore]
      | false =>
        rw [dmaCycle_claims hb hop q hon hbusy]
        exact dmDone_of_claimed hon hbusy ..
  · cases hon : predOn c.core a.pred with
    | false => rw [dmaCycle_off hb hop q hon, (dmDone_of_not_claimed (by rw [hon]; rfl) 0 0 0).2]
    | true =>
      cases hbusy : dmBusy c.core.dma.bufs (dmOperands op a c) with
      | true => rw [dmaCycle_busy hb hop q hon hbusy, (dmDone_of_not_claimed (by rw [hbusy, hon]; rfl) 0 0 0).2]
      | false => rw [dmaCycle_claims hb hop q hon hbusy]

end

end Sys2Proof.Machine
end

section
/-! SUPPORT. A DMA operation on a calm partition: its bundle issues, what the clusters hand out is performed in their order, and O10 from it
(02, R66, R68; 06, R219 to R227). -/

namespace Sys2Proof.Machine

section
variable {op : DmOp} (hop : IsDmOp op) (a : DmaArgs)
include hop

/-- What STRICT traps is seen from the operands of the clusters alone (02, R66). -/
theorem strictTrap_bundle (s : State) (p : Nat) :
    strictTrap s p (dmBundle op a) =
      if (part s p).job.relaxed then none
      else (List.range (part s p).clusters.length).findSome? (fun i =>
        (if predOn (clAt (part s p) i).core a.pred then some (dmOperands op a (clAt (part s p) i)) else none).bind tdKind) := by
  have hnop : (dmBundle op a).dmOp ≠ .nop := hop.1
  unfold strictTrap
  simp only [dmNow_bundle (env := envOf s p 0 (dmBundle op a) [] _) rfl hop, hnop, decide_false, Bool.or_false]

theorem strictTrap_supplied {s : State} {p : Nat} (hp : p < s.parts.length) :
    strictTrap (supplied s p (dmBundle op a)) p (dmBundle op a) = strictTrap s p (dmBundle op a) := by
  rw [strictTrap_bundle hop, strictTrap_bundle hop, part_supplied _ hp]
  rfl

end

/-- STRICT traps no RECV (02, R65, R66). -/
theorem strictTrap_recv (s : State) (p : Nat) (a : DmaArgs) : strictTrap s p (dmBundle .recv a) = none := by
  rw [strictTrap_bundle ⟨by decide, by decide⟩]
  split
  · rfl
  · refine List.findSome?_eq_none_iff.2 (fun i _ => ?_)
    split <;> rfl

/-- A loop over a list whose members each give a list of outputs, in order. -/
theorem foldl_outputs {α β : Type} (p : Nat) (l : List α) (m : List β) (f : α → List ClOut) (g : β → List ClOut)
    (h : l.map f = m.map g) (s : State) :
    l.zipIdx.foldl (fun t e => (f e.1).foldl (dispatchOut p e.2) t) s =
      m.zipIdx.foldl (fun t e => (g e.1).foldl (dispatchOut p e.2) t) s := by
  have hzip : ∀ {γ : Type} (k : List γ) (r : γ → List ClOut), k.zipIdx.foldl (fun t e => (r e.1).foldl (dispatchOut p e.2) t) s =
      (k.map r).zipIdx.foldl (fun t e => e.1.foldl (dispatchOut p e.2) t) s := by
    intro γ k r
    rw [List.zipIdx_map, List.foldl_map]
    rfl
  rw [hzip l f, hzip m g, h]

/-- The sequencer after a bundle with an empty control slot, its supplied bundle taken. -/
theorem plainAt_nextStream (cls : List Cluster) (a : Nat) (x : SeqState) :
    bumpCycle { seqAfter cls a .nop x with stream := x.stream.drop 1 } = { plainAt a x with stream := x.stream.drop 1 } := by
  rw [← plainAt_eq cls]
  rfl

section
variable {s : State} {p : Nat} {op : DmOp} {a : DmaArgs} (h : Calm s p) (hdebug : (part s p).job.debug = false) (hop : IsDmOp op)
include h hdebug hop

/-- The clusters of a calm partition in the issue cycle of a DMA operation. -/
theorem clustersCycle_dma :
    let f := dmDone (part s p).seq.ic (part s p).seq.cclk (part s p).seq.next op a
    let outs := clustersCycle (supplied s p (dmBundle op a)) p (part s p).seq.next (dmBundle op a) []
    outs.map (·.cl) = (part s p).clusters.map f ∧ outs.map (·.outs) = (part s p).clusters.map (dmSends op a) ∧
      ∀ o ∈ outs, o.clash = false ∧ o.skipped = false := by
  intro f outs
  have hcl : (part (supplied s p (dmBundle op a)) p).clusters = (part s p).clusters := by rw [part_supplied _ h.lt]; rfl
  have houts : outs = (part s p).clusters.mapIdx (fun i c => clusterCycle (envAt s p (dmBundle op a) [] i) c) := by
    change (part (supplied s p (dmBundle op a)) p).clusters.mapIdx _ = _
    rw [hcl]
    rfl
  have hcycle : ∀ i, ∀ c ∈ (part s p).clusters, (clusterCycle (envAt s p (dmBundle op a) [] i) c).cl = f c ∧
      (clusterCycle (envAt s p (dmBundle op a) [] i) c).outs = dmSends op a c ∧
      (clusterCycle (envAt s p (dmBundle op a) [] i) c).clash = false ∧
      (clusterCycle (envAt s p (dmBundle op a) [] i) c).skipped = false := by
    intro i c hc
    have hone := clusterCycle_dmDone (env := envAt s p (dmBundle op a) [] i) rfl hop (h.quiet c hc)
      ((envAt_debug _ _ _ h.lt).trans hdebug) rfl
    rw [envAt_u _ _ _ h.lt, envAt_cclk _ _ _ h.lt] at hone
    exact hone
  clear_value outs
  rw [houts]
  refine ⟨?_, ?_, fun o ho => ?_⟩
  · refine List.ext_getElem (by simp) (fun i hi _ => ?_)
    simp [(hcycle i _ (List.getElem_mem _)).1]
  · refine List.ext_getElem (by simp) (fun i hi _ => ?_)
    simp [(hcycle i _ (List.getElem_mem _)).2.1]
  · obtain ⟨i, hi, rfl⟩ := List.mem_mapIdx.1 ho
    exact (hcycle i _ (List.getElem_mem hi)).2.2

/-- A DMA operation on a calm partition outside debug mode, where STRICT does not trap it (06, R219 to R227). -/
theorem slotTick_dma (hstrict : strictTrap s p (dmBundle op a) = none) :
    slotTick p (dmBundle op a) s =
      dmRan s p (dmBundle op a) (dmDone (part s p).seq.ic (part s p).seq.cclk (part s p).seq.next op a) (dmSends op a) := by
  have hpart := part_supplied (dmBundle op a) h.lt
  obtain ⟨hcl, hsends, hcalm⟩ := clustersCycle_dma (a := a) h hdebug hop
  have hctl : ∀ x, ctlNow x (part s p).seq.next (dmBundle op a) = (.nop, []) := fun _ => rfl
  have hbegun : beginStep (supplied s p (dmBundle op a)) p = supplied s p (dmBundle op a) :=
    beginStep_begun (by rw [hpart]; exact h.begun)
  rw [runTick_calm h (absentItems_none _ rfl) (poisonedWait_none _ rfl) rfl ((strictTrap_supplied hop a h.lt).trans hstrict)
    (by rw [hctl]; simp)]
  unfold issueBundle dmRan
  simp only [hbegun, hctl]
  generalize clustersCycle (supplied s p (dmBundle op a)) p (part s p).seq.next (dmBundle op a) [] = outs at hcl hsends hcalm ⊢
  have hclash : outs.any (·.clash) = false := List.any_eq_false.2 (fun o ho => by rw [(hcalm o ho).1]; decide)
  have hskip : countTrue (outs.map (·.skipped)) = 0 :=
    countTrue_none (fun x hx => by obtain ⟨o, ho, rfl⟩ := List.mem_map.1 hx; exact (hcalm o ho).2)
  have hpeak : ∀ n, outs.foldl (fun n o => max n o.cl.journal.lines.length) n =
      (outs.map (·.cl)).foldl (fun n c => max n c.journal.lines.length) n := fun n => by rw [List.foldl_map]
  simp only [hclash, Bool.false_eq_true, if_false, takeCycle, noteCycle, hskip, satInc_zero, hpeak, hcl,
    foldl_outputs p outs _ (·.outs) _ hsends, plainAt_nextStream]

end

theorem slotExec_dma {s : State} {p : Nat} (h : Calm s p) (op : DmOp) (a : DmaArgs) :
    slotExec p { emptyBundle with dmOp := op, dm := a } s = .next (slotTick p (dmBundle op a) s) :=
  onUnit_of_true (decide_eq_true h.twelve) _

/-- Settles O10: one bundle of a calm partition for every operation; RECV and SEED by what they do besides their claim, and RECV never
trapped by STRICT. -/
theorem dmaOperations : Obligations.DmaOperations := by
  unfold Obligations.DmaOperations
  intro s p a h hdebug u cclk pc b gives
  have hop : ∀ op, IsDmOp op → strictTrap s p (b op) = none →
      slotExec p (b op) s = .next (dmRan s p (b op) (dmDone u cclk pc op a) (dmSends op a)) := fun op hop hstrict =>
    (slotExec_dma h op a).trans (congrArg Host.Outcome.next (slotTick_dma h hdebug hop hstrict))
  refine ⟨hop .read ?_, hop .write ?_, hop .send ?_, hop (.atomic false) ?_, hop (.atomic true) ?_, hop .hostout ?_, hop .regread ?_,
    hop .solve ?_, hop .coll ?_, hop .seed ?_, hop .recv ?_ (strictTrap_recv s p a)⟩
  all_goals exact ⟨by decide, by decide⟩

end Sys2Proof.Machine
end

section
/-! SUPPORT. The feed slot and the store slot of a quiet cluster in their issue cycle, and O7 from it: what STREAM, STAT and STORE
start, and a descriptor that is invalid (03, R98; 06, R213, R217, R218, R226). -/

namespace Sys2Proof.Machine

/-! ## The issue cycle of a stream and of a stationary feed -/

section
variable {env : Env} {c : ClusterCore}

theorem newStream_issued {o : StreamOp} (h : newStream env c = some o) : o.v = env.u ∧ env.u < o.last := by
  unfold newStream at h
  split at h
  · split at h
    · cases h
    · obtain rfl := Option.some.inj h
      exact ⟨rfl, by simp only []; omega⟩
  · cases h

theorem newStat_issued {t : StatOp} (h : newStat env c = some t) : t.v = env.u ∧ env.u < t.last := by
  unfold newStat at h
  split at h
  · split at h
    · cases h
    · obtain rfl := Option.some.inj h
      exact ⟨rfl, by simp only []; omega⟩
  · cases h

end

/-- A stream reads its first vector in the cycle after its issue (06, R213). -/
theorem streamStep_issue {o : StreamOp} {u : Nat} (h : o.v = u) : streamStep o u = none := by
  simp [streamStep, h]

theorem streamRead_issue {o : StreamOp} {u : Nat} (h : o.v = u) (rs : List (Acc × List Byte)) : streamRead rs u o = o := by
  simp [streamRead, streamStep_issue h]

theorem streamAlignEvs_issue {o : StreamOp} {u : Nat} (h : o.v = u) : streamAlignEvs u o = [] := by
  simp [streamAlignEvs, streamStep_issue h]

theorem streamDeliver_issue {o : StreamOp} {u : Nat} (h : o.v = u) (keep : Bool) (common : Option Int) :
    streamDeliver keep common u o = (o, none, {}) := by
  simp [streamDeliver, h]

theorem statRead_issue {t : StatOp} {u : Nat} (h : t.v = u) (rs : List (Acc × List Byte)) : statRead rs u t = t := by
  simp [statRead, h]

theorem statDeliver_issue {t : StatOp} {u : Nat} (h : t.v = u) (keep : Bool) (mode : Option Nat) :
    statDeliver keep mode u t = (t, none, {}) := by
  have hearly : u < statFirst t := by unfold statFirst; omega
  unfold statDeliver
  exact if_pos (by simp only [hearly, decide_true, Bool.true_or])

theorem streamAccs_issue {o : StreamOp} {u : Nat} (h : o.v = u) (hrec : o.desc.recEn = false) : streamAccs o u = [] := by
  simp [streamAccs, streamStep_issue h, hrec]

theorem statAccs_issue {t : StatOp} {u : Nat} (h : t.v = u) (hrec : t.desc.recEn = false) : statAccs t u = [] := by
  simp [statAccs, h, hrec]

/-! ## What the feed path and the store path start -/

/-- The desc_invalid events of a feed slot: descriptor and bundle address of each operation whose descriptor is invalid (03, R98). -/
def feedDescEvs (env : Env) (c : ClusterCore) : List Ev :=
  ((newStream env c).toList.filter (·.bad)).map
      (fun o => { kind := .descInvalid, slot := 5, pc := o.pc, detail := env.b.fd.sdesc.toNat }) ++
    ((newStat env c).toList.filter (·.bad)).map
      (fun t => { kind := .descInvalid, slot := 5, pc := t.pc, detail := env.b.fd.ldesc.toNat })

/-- What the feed path of a quiet cluster does in the issue cycle of a feed slot: its operations start, and nothing is delivered yet
(06, R213). -/
def feedStarted (env : Env) (c : ClusterCore) : FeedOut :=
  { streams := (newStream env c).toList, stats := (newStat env c).toList, vec := none, stat := none, strm := {}, stary := {},
    inherited := 0, invalid := (feedDescEvs env c).length, evs := feedDescEvs env c }

/-- The store that a store slot starts: the one issued, if its descriptor is valid (03, R98). -/
def goodStore (env : Env) (c : ClusterCore) : Option StoreOp := (newStore env c).filter (fun o => !sdescInvalid o.desc)

/-- The desc_invalid event of a store slot (03, R98). -/
def storeDescEvs (env : Env) (c : ClusterCore) : List Ev :=
  ((newStore env c).toList.filter (fun o => sdescInvalid o.desc)).map
    (fun o => { kind := .descInvalid, slot := 6, pc := o.pc, detail := o.num })

/-- What the store path of a quiet cluster does in the issue cycle of a store slot: a store with a valid descriptor starts, and takes
its place in the cluster's order where it goes toward HBM (06, R217, R226). -/
def storeStart (env : Env) (c : ClusterCore) : StoreOut :=
  { noStore with
    stores := (goodStore env c).toList, placed := ((goodStore env c).filter (fun o => o.desc.dest = 0)).map (·.s),
    invalid := (storeDescEvs env c).length, evs := storeDescEvs env c }

section
variable {env : Env} {c : ClusterCore}

/-- Operations that name no record make no feed access in a quiet cluster in their issue cycle (03, R124; 06, R213). -/
theorem feedAccs_issue (q : Quiet c) (hs : ∀ o, newStream env c = some o → o.desc.recEn = false)
    (ht : ∀ t, newStat env c = some t → t.desc.recEn = false) : feedAccs env c = [] := by
  have hstream : ∀ o ∈ (newStream env c).toList, streamAccs o env.u = [] := fun o ho =>
    have ho := Option.mem_toList.1 ho
    streamAccs_issue (newStream_issued ho).1 (hs o ho)
  have hstat : ∀ t ∈ (newStat env c).toList, statAccs t env.u = [] := fun t ht' =>
    have ht' := Option.mem_toList.1 ht'
    statAccs_issue (newStat_issued ht').1 (ht t ht')
  simp only [feedAccs, q.streams, q.stats, List.nil_append, List.map_congr_left hstream, List.map_congr_left hstat]
  simp

/-- The feed path of a quiet cluster starts what its slot issues. -/
theorem feedCycle_started (q : Quiet c) (h : env.b.fdOp ≠ .reserved) (co : Option Int) (lm : Option Nat) :
    feedCycle env c [] co lm = feedStarted env c := by
  have hsv : ∀ o, newStream env c = some o → o.v = env.u := fun _ h => (newStream_issued h).1
  have hsl : ∀ o, newStream env c = some o → env.u < o.last := fun _ h => (newStream_issued h).2
  have htv : ∀ t, newStat env c = some t → t.v = env.u := fun _ h => (newStat_issued h).1
  have htl : ∀ t, newStat env c = some t → env.u < t.last := fun _ h => (newStat_issued h).2
  unfold feedCycle feedStarted feedDescEvs
  cases hs : newStream env c <;> cases ht : newStat env c
  all_goals simp [q.streams, q.stats, cutStreams, cutStats, readOf, leNat, h, hs, ht, hsv, hsl, htv, htl, streamRead_issue,
    streamDeliver_issue, streamAlignEvs_issue, statRead_issue, statDeliver_issue, feedCountAdd,
    Function.comp_def]

/-- The store path of a quiet cluster starts what its slot issues. -/
theorem storeCycle_started (h : env.b.stOp ≠ .reserved) : storeCycle env c [] [] = storeStart env c := by
  unfold storeCycle storeStart goodStore storeDescEvs
  cases newStore env c with
  | none => simp [storesKept, noStore, h, b2n]
  | some o => cases hbad : sdescInvalid o.desc <;> simp [storesKept, noStore, h, b2n, hbad, Option.filter]

/-- What the feed and store slots start raises no flag of a cluster: desc_invalid has no status bit (06, R235, R237). -/
theorem bitsOf_descInvalid {f : EvKind → Nat} (h : f .descInvalid = 0) : bitsOf f (feedDescEvs env c ++ storeDescEvs env c) = 0 := by
  refine bitsOf_eq_zero (fun e he => ?_)
  have hkind : e.kind = .descInvalid := by
    simp only [feedDescEvs, storeDescEvs, List.mem_append, List.mem_map] at he
    obtain (⟨_, _, rfl⟩ | ⟨_, _, rfl⟩) | ⟨_, _, rfl⟩ := he <;> rfl
  rw [hkind, h]

end

/-! ## One issue cycle of a quiet cluster -/

/-- A bundle with nothing but a feed and a store operation. -/
structure ConvOnly (b : Bundle) : Prop where
  sc : b.scOp = .nop
  arr : b.arrOp = .nop
  acc : b.accOp = .none
  fd : b.fdOp ≠ .reserved
  st : b.stOp ≠ .reserved
  vec : b.vOp = .nop
  dm : b.dmOp = .nop
  waits : b.waits = []

/-- A cluster after what its feed and store slots start: feeds and stores, invalid descriptors counted, and the place of a store toward
HBM (03, R98; 06, R213, R217, R226). -/
def convStarted (env : Env) (cl : Cluster) : Cluster :=
  inConv (fun x =>
    { x with
      streams := (newStream env cl.core).toList, stats := (newStat env cl.core).toList, stores := (goodStore env cl.core).toList,
      descInvalid := satInc x.descInvalid ((feedDescEvs env cl.core).length + (storeDescEvs env cl.core).length) })
    (inDma (fun m => { m with hbmq := m.hbmq ++ (storeStart env cl.core).placed.toList.map (fun s => .store s) }) cl)

section
variable {env : Env} {c : ClusterCore}

/-- A quiet array without an operation stands while the feed path delivers nothing. -/
theorem arrayCycle_undelivered (h : ConvOnly env.b) (q : Quiet c) {fd : FeedOut} (hv : fd.vec = none) (hs : fd.stat = none) :
    arrayCycle env c fd none none = (c.array, []) := by
  have hquiet := arrayCycle_quiet env c none none q h.arr (by rw [h.acc]; decide)
  rw [regsWritten_none c q.dm] at hquiet
  refine Eq.trans ?_ hquiet
  unfold arrayCycle
  rw [hv, hs]

/-- A quiet scalar unit without an operation stands, whatever the events that have no bit in SQ_STATUS (06, R235). -/
theorem scalarCycle_unused (h : ConvOnly env.b) (q : Quiet c) {evs : List Ev} (hevs : bitsOf sqBit evs = 0) :
    scalarCycle env c [] evs none = c.scalar := by
  simp [scalarCycle, gNext, pNext, scResult, scPredResult, h.sc, q.ld, hevs]
  rw [← q.ld]

/-- The feed and store paths take what their slots start, and count invalid descriptors. -/
theorem convCycle_started :
    convCycle none c.conv (feedStarted env c) (storeStart env c) [] =
      { c.conv with
        streams := (newStream env c).toList, stats := (newStat env c).toList, stores := (goodStore env c).toList,
        descInvalid := satInc c.conv.descInvalid ((feedDescEvs env c).length + (storeDescEvs env c).length) } := by
  have hflags : bitsOf cvBit (feedDescEvs env c ++ storeDescEvs env c) = 0 := bitsOf_descInvalid rfl
  simp [convCycle, feedStarted, storeStart, noStore, hflags, mapIdx_same]

/-- The DMA engine without an operation: a store toward HBM has joined its queue. -/
theorem dmaCycle_placed (h : ConvOnly env.b) (q : Quiet c) (l : List HbmOp) (sram : Mem 8) (j : SramJournal) :
    dmaCycle env { c with dma := { c.dma with hbmq := l } } sram j none =
      { port := { dma := { c.dma with hbmq := l }, sram := sram, journal := j, evs := [] }, outs := [], seed := false } := by
  rw [dmaCycle_quiet env _ sram j none h.dm h.waits, regsWritten_none { c with dma := { c.dma with hbmq := l } } q.dm]

end

/-- One issue cycle of a quiet cluster under a bundle with feed and store operations alone, whose feeds name no record: they start,
and nothing else changes. -/
theorem clusterCycle_conv {env : Env} {cl : Cluster} (h : ConvOnly env.b) (q : Quiet cl.core) (hseq : env.seqEvs = [])
    (hdebug : env.debug = false) (hfeed : feedAccs env cl.core = []) :
    clusterCycle env cl = quietOut (convStarted env cl) (feedDescEvs env cl.core ++ storeDescEvs env cl.core) := by
  have hcwr : cwrNow env cl.core = none := by simp [cwrNow, h.sc]
  have hcrd : crdNow env cl.core = none := by simp [crdNow, h.sc]
  have hscEvs : scEvs env = [] := by simp [scEvs, h.sc, h.dm]
  have haccs : cycleAccs env cl.core [] = [] := by
    simp [cycleAccs, hfeed, vecAccs_nop env _ q h.vec, scAccs_none env cl.core (by simp [h.sc]) (by simp [h.sc])]
  have hdec : storesDecided env cl.core cl.sram (heldRanges cl.core.dma.bufs) (feedAccs env cl.core) = [] :=
    storesDecided_quiet env _ _ _ _ q
  have hserve : serveAll (accSort []) [] = [] := rfl
  have hregs := regsWritten_none cl.core q.dm
  have hopal : opalCycle env cl.core [] (storeStart env cl.core) false none = cl.core.opal := by
    rw [opalCycle_quiet env cl.core _ none q (by rw [h.vec]; decide) rfl rfl, hregs]
  have hscalar := scalarCycle_unused h q (evs := feedDescEvs env cl.core ++ storeDescEvs env cl.core) (bitsOf_descInvalid rfl)
  have harray := arrayCycle_undelivered h q (fd := feedStarted env cl.core) rfl rfl
  have hspot := spotCycle_quiet env cl.core cl.spot cl.core.array q q.flights
  have hfdOut : (feedStarted env cl.core).vec = none ∧ (feedStarted env cl.core).evs = feedDescEvs env cl.core := ⟨rfl, rfl⟩
  have hstOut : (storeStart env cl.core).ended = [] ∧ (storeStart env cl.core).host = [] ∧
      (storeStart env cl.core).remote = [] ∧ (storeStart env cl.core).evs = storeDescEvs env cl.core := ⟨rfl, rfl, rfl, rfl⟩
  unfold clusterCycle
  simp only [hdec, haccs, hserve, List.filter_nil, List.map_nil, hcwr, hcrd, feedCycle_started q h.fd, storeCycle_started h.st,
    harray, hfdOut, hstOut, entryCycle_quiet env cl.core none q h.arr, accumCycle_quiet env cl.core _ q h.acc, vecCycle_quiet env cl.core _ _ _ q h.vec,
    List.foldl_nil, List.append_nil, List.flatten_nil, hbmqEnd_nil, dmaCycle_placed h q, hscEvs, hseq, hdebug, List.nil_append,
    hregs, hspot, hopal, convCycle_started, hscalar]
  rfl

/-! ## STREAM, STAT, both, and STORE -/

/-- The store that a STORE issued in cycle u starts where its descriptor is valid, its descriptor and offsets latched (06, R217, R218). -/
def storeStarted (u pc : Nat) (a : StoreArgs) (c : Cluster) : StoreOp :=
  let d := sdescOf (c.core.conv.sdesc.getD a.desc.toNat 0)
  let g (r : BitVec 5) : Nat := (gReg c.core.scalar r.toNat).toNat
  let off (base add : Nat) : Nat := if d.dest = 3 then base / 2 ^ 15 * 2 ^ 15 + (base + add) % 2 ^ 15 else (base + add) % 2 ^ 48
  { s := u, num := a.desc.toNat, desc := d, n := a.rows.toNat + 1, src := (d.src + g a.srcOff) % 2 ^ 23,
    dst := off d.dst (g a.dstOff), sdst := off d.sdst (g a.sdstOff), idx := (c.core.opal.srIdx.getD a.desc.toNat 0).toNat,
    str := (c.core.opal.srStr.getD a.desc.toNat 0).toNat, started := false, firstScale := false, block := false, xs := 0,
    amax := 0, curMax := 0, record := none, rows := [], out := [], pc := pc }

theorem storeIssued_eq (u pc : Nat) (a : StoreArgs) (c : Cluster) :
    storeIssued u pc a c = whereOn a.pred (fun c =>
      let o := storeStarted u pc a c
      if sdescInvalid o.desc then inConv (fun x => { x with descInvalid := satInc x.descInvalid 1 }) c
      else
        inConv (fun x => { x with stores := [o] })
          (if o.desc.dest = 0 then inDma (fun m => { m with hbmq := [.store u] }) c else c)) c := rfl

section
variable {env : Env} {cl : Cluster}

theorem newStream_run {stream stat : Bool} (h : env.b.fdOp = .run stream stat) :
    newStream env cl.core =
      if stream && predOn cl.core env.b.fd.pred then some (streamStarted env.u env.pc env.b.fd cl) else none := by
  unfold newStream
  rw [h]
  cases stream <;> cases predOn cl.core env.b.fd.pred <;> rfl

theorem wrapU_nat (n x : Nat) : wrapU n (x : Int) = x % 2 ^ n := by
  unfold wrapU
  rw [← Int.natCast_emod, Int.toNat_natCast]

theorem newStat_run {stream stat : Bool} (h : env.b.fdOp = .run stream stat) :
    newStat env cl.core =
      if stat && predOn cl.core env.b.fd.pred then some (statStarted env.u env.pc env.b.fd cl) else none := by
  unfold newStat
  rw [h]
  cases stat
  · rfl
  · cases predOn cl.core env.b.fd.pred
    · rfl
    · simp only [← Nat.cast_add, wrapU_nat]
      rfl

/-- A quiet cluster makes no feed access in the issue cycle of feed operations whose descriptors name no record. -/
theorem feedAccs_run (q : Quiet cl.core) {stream stat : Bool} (h : env.b.fdOp = .run stream stat)
    (hs : (fdescOf (cl.core.conv.fdesc.getD env.b.fd.sdesc.toNat 0)).recEn = false)
    (ht : (fdescOf (cl.core.conv.fdesc.getD env.b.fd.ldesc.toNat 0)).recEn = false) : feedAccs env cl.core = [] := by
  refine feedAccs_issue q (fun o ho => ?_) (fun t ho => ?_)
  · rw [newStream_run h] at ho
    obtain ⟨-, ho⟩ := Option.ite_none_right_eq_some.1 ho
    rw [← Option.some.inj ho]
    exact hs
  · rw [newStat_run h] at ho
    obtain ⟨-, ho⟩ := Option.ite_none_right_eq_some.1 ho
    rw [← Option.some.inj ho]
    exact ht

theorem newStore_store (h : env.b.stOp = .store) :
    newStore env cl.core = if predOn cl.core env.b.st.pred then some (storeStarted env.u env.pc env.b.st cl) else none := by
  unfold newStore
  rw [h]
  cases predOn cl.core env.b.st.pred <;> rfl

/-- A quiet cluster in which no feed and no store is issued stands. -/
theorem convStarted_nothing (q : Quiet cl.core) (hs : newStream env cl.core = none) (ht : newStat env cl.core = none)
    (ho : newStore env cl.core = none) : convStarted env cl = cl := by
  simp only [convStarted, storeStart, goodStore, feedDescEvs, storeDescEvs, hs, ht, ho, inConv, inDma, inCore,
    Option.filter_none, Option.map_none, Option.toList_none, List.filter_nil, List.map_nil, List.append_nil, List.length_nil,
    Nat.add_zero, satInc_zero]
  rw [← q.streams, ← q.stats, ← q.stores]

/-- A feed slot without a store slot starts its feed operations and nothing else. -/
theorem convStarted_feed (q : Quiet cl.core) {stream stat : Bool} (hfd : env.b.fdOp = .run stream stat) (hst : env.b.stOp = .nop) :
    convStarted env cl = feedIssued env.u env.pc stream stat env.b.fd cl := by
  have hstore : newStore env cl.core = none := by simp [newStore, hst]
  cases hon : predOn cl.core env.b.fd.pred with
  | false =>
    rw [convStarted_nothing q (by simp [newStream_run hfd, hon]) (by simp [newStat_run hfd, hon]) hstore]
    simp [feedIssued, whereOn, hon]
  | true =>
    simp only [convStarted, storeStart, goodStore, feedDescEvs, storeDescEvs, newStream_run hfd, newStat_run hfd, hstore, hon,
      feedIssued, whereOn, inConv, inDma, inCore]
    cases stream <;> cases stat <;> simp [q.stores]

/-- A store slot without a feed slot starts its store, or counts its invalid descriptor. -/
theorem convStarted_store (q : Quiet cl.core) (hfd : env.b.fdOp = .nop) (hst : env.b.stOp = .store) :
    convStarted env cl = storeIssued env.u env.pc env.b.st cl := by
  have hstream : newStream env cl.core = none := by simp [newStream, hfd]
  have hstat : newStat env cl.core = none := by simp [newStat, hfd]
  have hstore := newStore_store (cl := cl) hst
  rw [storeIssued_eq]
  cases hon : predOn cl.core env.b.st.pred with
  | false =>
    rw [convStarted_nothing q hstream hstat (by simp [hstore, hon])]
    simp [whereOn, hon]
  | true =>
    rw [hon, if_pos rfl] at hstore
    have hu : (storeStarted env.u env.pc env.b.st cl).s = env.u := rfl
    simp only [whereOn, hon, if_true]
    generalize storeStarted env.u env.pc env.b.st cl = o at hstore hu ⊢
    simp only [convStarted, storeStart, goodStore, feedDescEvs, storeDescEvs, hstream, hstat, hstore, inConv, inDma, inCore]
    cases hbad : sdescInvalid o.desc with
    | true => simp [hbad, Option.filter, q.streams, q.stats, q.stores]
    | false =>
      by_cases hdest : o.desc.dest = 0
      · simp [hbad, hdest, Option.filter, q.streams, q.stats, q.hbmq, hu]
      · simp [hbad, hdest, Option.filter, q.streams, q.stats]

end

/-- A store that starts takes a place in the queue of HBM operations, and nothing else joins it. -/
theorem storePlace_convStarted {env : Env} {cl : Cluster} (q : Quiet cl.core) :
    ∀ o ∈ (convStarted env cl).core.dma.hbmq, storePlace o = true := by
  intro o ho
  simp only [convStarted, inConv, inDma, inCore, q.hbmq, List.nil_append, List.mem_map] at ho
  obtain ⟨u, -, rfl⟩ := ho
  rfl

section
variable {s : State} {p : Nat} {b : Bundle} (h : Calm s p) (hdebug : (part s p).job.debug = false)
include h hdebug

/-- A bundle with feed and store operations alone, whose feeds name no record, on a calm partition outside debug mode. -/
theorem slotExec_conv (hb : ConvOnly b) (hbrk : b.brk = false) (hctl : b.ctl = .nop)
    (hfeed : ∀ i, ∀ c ∈ (part s p).clusters, feedAccs (envAt s p b [] i) c.core = []) {f : Cluster → Cluster}
    (hf : ∀ i, ∀ c ∈ (part s p).clusters, convStarted (envAt s p b [] i) c = f c) :
    slotExec p b s = .next (ranBundle s p (fun _ => f) plainSeq) := by
  rw [slotExec_calm h]
  refine congrArg _ (slot_plain h hb.waits hbrk hb.dm hctl (fun _ => f)
    (fun i c => feedDescEvs (envAt s p b [] i) c.core ++ storeDescEvs (envAt s p b [] i) c.core) ?_ ?_)
  · intro i c hc q
    have hmem := List.mem_of_getElem? hc
    rw [clusterCycle_conv hb q rfl ((envAt_debug b [] i h.lt).trans hdebug) (hfeed i c hmem), hf i c hmem]
  · intro i c hc q
    simp only [← hf i c (List.mem_of_getElem? hc)]
    exact ⟨storePlace_convStarted q, rfl, fun _ => rfl⟩

/-- STREAM, STAT and both start their operations where the predicate is 1 (06, R213). -/
theorem slotExec_feed (a : FeedArgs) (hrec : ∀ c ∈ (part s p).clusters,
      (fdescOf (c.core.conv.fdesc.getD a.sdesc.toNat 0)).recEn = false ∧
      (fdescOf (c.core.conv.fdesc.getD a.ldesc.toNat 0)).recEn = false) (stream stat : Bool) :
    slotExec p { emptyBundle with fdOp := .run stream stat, fd := a } s =
      .next (ranBundle s p (fun _ => feedIssued (part s p).seq.ic (part s p).seq.next stream stat a) plainSeq) := by
  refine slotExec_conv h hdebug ⟨rfl, rfl, rfl, by simp, by simp [emptyBundle], rfl, rfl, rfl⟩ rfl rfl (fun i c hc => ?_)
    (fun i c hc => ?_)
  · exact feedAccs_run (h.quiet c hc) rfl (hrec c hc).1 (hrec c hc).2
  · rw [convStarted_feed (h.quiet c hc) rfl rfl, envAt_u _ _ i h.lt]
    rfl

/-- STORE starts its store, or counts its invalid descriptor, where the predicate is 1 (06, R217). -/
theorem slotExec_store (a : StoreArgs) :
    slotExec p { emptyBundle with stOp := .store, st := a } s =
      .next (ranBundle s p (fun _ => storeIssued (part s p).seq.ic (part s p).seq.next a) plainSeq) := by
  refine slotExec_conv h hdebug ⟨rfl, rfl, rfl, by simp [emptyBundle], by simp, rfl, rfl, rfl⟩ rfl rfl
    (fun i c hc => feedAccs_quiet _ _ (h.quiet c hc) rfl) (fun i c hc => ?_)
  rw [convStarted_store (h.quiet c hc) rfl rfl, envAt_u _ _ i h.lt]
  rfl

end

/-- Settles O7: in its issue cycle a feed or store operation makes no access, so that a quiet cluster only takes up what starts, counts an
invalid descriptor and gives a store toward HBM its place. -/
theorem feedsAndStores : Obligations.FeedsAndStores := by
  unfold Obligations.FeedsAndStores
  refine ⟨fun s p a h hdebug hrec => ?_, fun s p a h hdebug => slotExec_store h hdebug a⟩
  have hfeed := slotExec_feed h hdebug a hrec
  exact ⟨hfeed true false, hfeed false true, hfeed true true⟩

end Sys2Proof.Machine
end

section
/-! SUPPORT. The array slot and the accumulator operations of a quiet cluster in their issue cycle, and O6 from it: what PASS, the loads,
RETIRE and DRAIN start (04, R137 to R148, R153; 05, R187, R189; 06, R212). -/

namespace Sys2Proof.Machine

/-! ## RETIRE and DRAIN -/

section
variable {env : Env} {c : ClusterCore}

/-- RETIRE in a quiet cluster straddles nothing: it exchanges the tiles of its index (05, R187, R194). -/
theorem accumCycle_retire (q : Quiet c) (h : env.b.accOp = .retire) :
    (accumCycle env c none).1 = { c.accum with frontSel := c.accum.frontSel ^^^ (1 <<< env.b.accIdx.toNat) } := by
  simp [accumCycle, rowsDue, drainNow, h, q.flights, q.drain, q.deliver, retireStraddles, q.passes, b2n]

/-- The physical tile that is the back tile of an index (05, R187). -/
theorem tileOf_back (sel : BitVec 8) (t : Nat) : tileOf sel t false = 2 * t + (if sel.getLsbD t then 0 else 1) := by
  unfold tileOf
  cases sel.getLsbD t <;> rfl

/-- DRAIN in a quiet cluster aborts no drain: row 0 of the back tile is read, to be delivered in the next cycle (05, R189, R191). -/
theorem accumCycle_drain (q : Quiet c) (h : env.b.accOp = .drain) :
    (accumCycle env c none).1 =
      { c.accum with
        drain := some { u := env.u, t := env.b.accIdx.toNat }, drainIndex := env.b.accIdx,
        deliver := some (memGet c.accum.tiles
          (128 * (2 * env.b.accIdx.toNat + (if c.accum.frontSel.getLsbD env.b.accIdx.toNat then 0 else 1)))) } := by
  simp [accumCycle, rowsDue, drainNow, h, q.flights, q.drain, q.deliver, retireStraddles, b2n, tileOf_back]

end

/-- A bundle with an accumulator operation alone, on a calm partition: what it does to each cluster's accumulator store. -/
theorem slotExec_accum {s : State} {p : Nat} (h : Calm s p) (op : AccOp) (hop : op ≠ .reserved) (t : BitVec 3) (r : ArrayArgs)
    {f : AccumUnit → AccumUnit}
    (hf : ∀ env : Env, env.b.accOp = op → env.b.accIdx = t → env.u = (part s p).seq.ic →
      ∀ c, Quiet c → (accumCycle env c none).1 = f c.accum) :
    slotExec p { emptyBundle with accOp := op, accIdx := t, arr := r } s =
      .next (ranBundle s p (fun _ => inAccum f) plainSeq) := by
  rw [slotExec_calm h]
  refine congrArg _ (slot_plain h rfl rfl rfl rfl (fun _ => inAccum f) (fun _ _ => []) ?_ ?_)
  · intro i c _ q
    rw [clusterCycle_accum _ _ q rfl hop rfl rfl rfl rfl rfl rfl rfl, hf _ rfl rfl (envAt_u _ _ i h.lt) _ q]
    rfl
  · intro i c _ q
    exact ⟨fun o ho => absurd (q.hbmq ▸ ho) List.not_mem_nil, rfl, fun _ => rfl⟩

/-! ## The issue cycle of an array slot without a feed -/

/-- The feed path of a cluster in which nothing is fed. -/
def noFeed : FeedOut :=
  { streams := [], stats := [], vec := none, stat := none, strm := {}, stary := {}, inherited := 0, invalid := 0, evs := [] }

/-- A bundle with nothing but an array operation. -/
structure ArrayOnly (b : Bundle) : Prop where
  sc : b.scOp = .nop
  acc : b.accOp = .none
  fd : b.fdOp = .nop
  st : b.stOp = .nop
  vec : b.vOp = .nop
  dm : b.dmOp = .nop
  waits : b.waits = []

/-- A cluster after the issue cycle of an array slot: its array, and the flags that the array's events set. -/
def arrayTaken (env : Env) (cl : Cluster) : Cluster :=
  let ar := arrayCycle env cl.core noFeed none none
  inArray (fun _ => ar.1) (inConv (fun x => { x with status := x.status ||| bitsOf cvBit ar.2 }) (setSq (bitsOf sqBit ar.2) cl))

/-- Without spot-checks and without a sample a cycle of the array leaves the cluster's sampling alone (15, R509). -/
theorem spotCycle_off {env : Env} {c : ClusterCore} {k : SpotSample} (hspot : env.spot = false) (hk : k.capture = none)
    (en : EntryOut) (a : ArrayUnit) : (spotCycle env c k en a).1 = k := by
  obtain ⟨n, cap⟩ := k
  subst hk
  unfold spotCycle
  cases en.judged <;> simp [hspot]

theorem clusterCycle_arrayTaken {env : Env} {cl : Cluster} (h : ArrayOnly env.b) (q : Quiet cl.core) (hseq : env.seqEvs = [])
    (hspot : env.spot = false) (hdebug : env.debug = false) (hcap : cl.spot.capture = none) :
    clusterCycle env cl = quietOut (arrayTaken env cl) (arrayCycle env cl.core noFeed none none).2 := by
  rw [clusterCycle_array env cl q h.acc h.fd h.st h.vec h.dm h.waits h.sc hseq hspot hdebug]
  simp only [spotCycle_off hspot hcap]
  rfl

/-- A cluster that belongs to no gang: no delay on entry, and its own slice of the streaming operand (04, R160 to R164). -/
structure Ungrouped (env : Env) (a : ArrayUnit) : Prop where
  shape : gangShape a = 0
  north : env.hopsN = 0
  west : env.hopsW = 0

theorem hopsFrom_ungrouped {s : State} {p i : Nat} (h : gangShape (arrayAt (part s p) i) = 0) (d : Hop) (n : Nat) :
    hopsFrom s p d n i = 0 := by
  cases n with
  | zero => rfl
  | succ n => simp [hopsFrom, pairedHop, h]

theorem ungrouped_envAt {s : State} {p : Nat} (b : Bundle) (hlt : p < s.parts.length) {i : Nat} {c : Cluster}
    (hc : (part s p).clusters[i]? = some c) (h : gangShape c.core.array = 0) : Ungrouped (envAt s p b [] i) c.core.array := by
  have harr : arrayAt (part (supplied s p b) p) i = c.core.array := by
    simp [arrayAt, part_supplied b hlt, withSeq, List.getD_eq_getElem?_getD, hc]
  have hshape : gangShape (arrayAt (part (supplied s p b) p) i) = 0 := by rw [harr, h]
  exact ⟨h, hopsFrom_ungrouped hshape .north 3, hopsFrom_ungrouped hshape .west 3⟩

/-- A bundle with an array operation alone, on a calm partition outside debug mode and spot-checks. -/
theorem slotExec_array {s : State} {p : Nat} {b : Bundle} (h : Calm s p) (hdebug : (part s p).job.debug = false)
    (hspot : (part s p).se.ctrlEff.getLsbD 0 = false)
    (hcl : ∀ c ∈ (part s p).clusters, gangShape c.core.array = 0 ∧ c.spot.capture = none) (hb : ArrayOnly b)
    (hbrk : b.brk = false) (hctl : b.ctl = .nop) {f : Cluster → Cluster}
    (hf : ∀ env : Env, env.b = b → env.u = (part s p).seq.ic → env.pc = (part s p).seq.next →
      ∀ c, Quiet c.core → Ungrouped env c.core.array → arrayTaken env c = f c) :
    slotExec p b s = .next (ranBundle s p (fun _ => f) plainSeq) := by
  have htaken : ∀ i c, (part s p).clusters[i]? = some c → Quiet c.core → arrayTaken (envAt s p b [] i) c = f c :=
    fun i c hc q => hf _ rfl (envAt_u b [] i h.lt) rfl c q (ungrouped_envAt b h.lt hc (hcl c (List.mem_of_getElem? hc)).1)
  rw [slotExec_calm h]
  refine congrArg _ (slot_plain h hb.waits hbrk hb.dm hctl (fun _ => f)
    (fun i c => (arrayCycle (envAt s p b [] i) c.core noFeed none none).2) ?_ ?_)
  · intro i c hc q
    rw [clusterCycle_arrayTaken hb q rfl ((envAt_spot b [] i h.lt).trans hspot) ((envAt_debug b [] i h.lt).trans hdebug)
      (hcl c (List.mem_of_getElem? hc)).2, htaken i c hc q]
  · intro i c hc q
    simp only [← htaken i c hc q]
    exact ⟨fun o ho => absurd (q.hbmq ▸ ho) List.not_mem_nil, rfl, fun _ => rfl⟩

/-! ## Events of the array -/

theorem bitsOf_concat (f : EvKind → Nat) (l : List Ev) (e : Ev) : bitsOf f (l ++ [e]) = bitsOf f l ||| BitVec.ofNat 64 (f e.kind) := by
  simp only [bitsOf, List.foldl_concat]

theorem bitsOf_append (f : EvKind → Nat) (l m : List Ev) : bitsOf f (l ++ m) = bitsOf f l ||| bitsOf f m := by
  induction m using List.reverseRecOn with
  | nil => simp
  | append_singleton m e ih => rw [← List.append_assoc, bitsOf_concat, bitsOf_concat, ih, BitVec.or_assoc]

/-- The flags that an event raises where its condition holds. -/
theorem bitsOf_ite (f : EvKind → Nat) (c : Prop) [Decidable c] (e : Ev) :
    bitsOf f (if c then [e] else []) = if c then BitVec.ofNat 64 (f e.kind) else 0 := by
  split
  · exact BitVec.zero_or
  · rfl

section
variable {env : Env} {c : ClusterCore}

/-- The events of a quiet array in a cycle without a feed: those of the entry, an early swap, and a stationary row that is missing. A
cut span, an aborted load and a pass in a stall each need a pass or a load under way. -/
theorem arrayEvs_quiet (q : Quiet c) (harr : env.b.arrOp ≠ .reserved) (hacc : env.b.accOp = .none) (en : EntryOut)
    (early missing : Bool) (pc : Nat) :
    arrayEvs env c en early missing false false pc =
      en.evs ++ (if early then [{ kind := .earlySwap, slot := 3, pc := env.pc, detail := 0 }] else []) ++
        (if missing then
          [{ kind := .feedUnderrun, slot := 3, pc := (loadNow env c).elim 0 (·.pc), detail := 0 }]
        else []) := by
  unfold arrayEvs
  cases newPass env c <;> cases newLoad env c <;> cases loadNow env c <;>
    simp [harr, hacc, q.passes, q.load, q.entered]

end

/-! ## PASS -/

/-- The pass that a PASS issues in cycle u, performed or suppressed, before its first entry (06, R212). -/
def passAsked (u pc : Nat) (m : Semi) (a : ArrayArgs) (on : Bool) : PassOp :=
  { u := u, n := a.len.toNat + 1, performed := on, mode := m, args := a, limb := 0, ok := false, pc := pc }

/-- What the first entry of a PASS over a set finds where no vector is delivered (04, R148, R153; 06, R212). -/
def passEntryEvs (pc : Nat) (m : Semi) (a : ArrayArgs) (st : SetCfg) : List Ev :=
  [{ kind := .feedUnderrun, slot := 3, pc := pc, detail := 0 }] ++
    (if !(st.valid && st.mode = a.mode.toNat) then [{ kind := .setMismatch, slot := 3, pc := pc, detail := 0 }] else []) ++
    (if a.transpose && (st.limb = 2 || (m = .mac && !st.square)) then
      [{ kind := .xposeInvalid, slot := 3, pc := pc, detail := 0 }] else [])

/-- The configuration of the set that is active for the first vector of a PASS, after its own swap (04, R144). -/
def passCfg (arr : ArrayUnit) (a : ArrayArgs) : SetCfg := (setOf arr (if a.swap then !arr.active else arr.active)).cfg

/-- A PASS that swaps meets the set that was inactive (04, R144). -/
theorem passCfg_of_swap {arr : ArrayUnit} {a : ArrayArgs} (h : a.swap = true) :
    passCfg arr a = (if arr.active then arr.set0 else arr.set1).cfg := by
  unfold passCfg setOf
  rw [h]
  cases arr.active <;> rfl

@[simp] theorem passAsked_u (u pc : Nat) (m : Semi) (a : ArrayArgs) (on : Bool) : (passAsked u pc m a on).u = u := rfl
@[simp] theorem passOver_u (u pc : Nat) (m : Semi) (a : ArrayArgs) (st : SetCfg) : (passOver u pc m a st).u = u := rfl
@[simp] theorem passOver_args (u pc : Nat) (m : Semi) (a : ArrayArgs) (st : SetCfg) : (passOver u pc m a st).args = a := rfl
@[simp] theorem passOver_limb (u pc : Nat) (m : Semi) (a : ArrayArgs) (st : SetCfg) : (passOver u pc m a st).limb = st.limb := rfl

theorem semiCode_of_semiOfCode {n : Nat} {m : Semi} (h : semiOfCode n = some m) : semiCode m = n := by
  unfold semiOfCode at h
  split at h <;> cases h <;> rfl

/-- A mode that has a meaning is not the reserved one (04, R132). -/
theorem ne_reserved_of_semiOfCode {n : Nat} {m : Semi} (h : semiOfCode n = some m) : n ≠ 7 := by
  rintro rfl
  cases h

section
variable {env : Env} {c : ClusterCore} {m : Semi}

theorem newPass_pass (h : env.b.arrOp = .pass) (hm : semiOfCode env.b.arr.mode.toNat = some m) :
    newPass env c = some (passAsked env.u env.pc m env.b.arr (predOn c env.b.arr.pred)) := by
  simp only [newPass, h, hm, passAsked]

theorem newLoad_pass (h : env.b.arrOp = .pass) : newLoad env c = none := by
  simp only [newLoad, h]

theorem entryDelay_ungrouped (g : Ungrouped env c.array) (t : Bool) : entryDelay env t = 0 := by
  cases t <;> simp [entryDelay, g.north, g.west]

theorem passesNow_pass (q : Quiet c) (h : env.b.arrOp = .pass) (hm : semiOfCode env.b.arr.mode.toNat = some m) :
    passesNow env c = [passAsked env.u env.pc m env.b.arr (predOn c env.b.arr.pred)] := by
  simp only [passesNow, newPass_pass h hm, q.passes, cutPasses, List.map_nil, List.nil_append]

/-- In a cluster of no gang a PASS enters its first vector in its issue cycle (04, R137, R163). -/
theorem enteringPass_pass (q : Quiet c) (g : Ungrouped env c.array) (h : env.b.arrOp = .pass)
    (hm : semiOfCode env.b.arr.mode.toNat = some m) :
    enteringPass env c = some (passAsked env.u env.pc m env.b.arr (predOn c env.b.arr.pred), 0) := by
  simp [enteringPass, passesNow_pass q h hm, entryDelay_ungrouped g, passAsked]

/-- A suppressed PASS enters no vector (06, R212). -/
theorem entryCycle_suppressed (q : Quiet c) (g : Ungrouped env c.array) (h : env.b.arrOp = .pass)
    (hm : semiOfCode env.b.arr.mode.toNat = some m) (hoff : predOn c env.b.arr.pred = false) :
    entryCycle env c none = { entered := none, used := false, judged := none, evs := [] } := by
  simp [entryCycle, enteringPass_pass q g h hm, passAsked, hoff]

/-- A PASS that is performed while nothing is delivered enters a masked vector, and is judged on the set that it meets
(04, R144, R148, R153; 06, R212). -/
theorem entryCycle_performed (q : Quiet c) (g : Ungrouped env c.array) (h : env.b.arrOp = .pass)
    (hm : semiOfCode env.b.arr.mode.toNat = some m) (hon : predOn c env.b.arr.pred = true) :
    entryCycle env c none =
      let p := passOver env.u env.pc m env.b.arr (passCfg c.array env.b.arr)
      { entered := some { e := env.u, m := 0, pass := p, item := maskedVec p.limb }, used := false, judged := some p,
        evs := passEntryEvs env.pc m env.b.arr (passCfg c.array env.b.arr) } := by
  have hset : entrySet c.array (passAsked env.u env.pc m env.b.arr true) 0 =
      setOf c.array (if env.b.arr.swap then !c.array.active else c.array.active) := by
    simp [entrySet, passAsked]
  have hfits : ∀ st : SetCfg, passCompatible (passAsked env.u env.pc m env.b.arr true) st.limb st =
      (st.valid && st.mode = env.b.arr.mode.toNat) := fun st => by
    simp [passCompatible, passAsked, semiCode_of_semiOfCode hm, eq_comm]
  have hown : ∀ t, ownSlice c.array t = true := fun t => by simp [ownSlice, g.shape]
  unfold entryCycle
  simp only [enteringPass_pass q g h hm, hon, hset, hown, if_true, Option.map_none, hfits]
  rfl

/-- A pass is of account in its issue cycle. -/
theorem passLives_issued {p : PassOp} (h : p.u = env.u) : passLives env p = true := by
  unfold passLives
  rw [h]
  exact decide_eq_true (by omega)

/-- A quiet array under a suppressed PASS takes the entry span (06, R212). -/
theorem arrayCycle_suppressed (q : Quiet c) (g : Ungrouped env c.array) (h : env.b.arrOp = .pass) (hacc : env.b.accOp = .none)
    (hm : semiOfCode env.b.arr.mode.toNat = some m) (hoff : predOn c env.b.arr.pred = false) :
    arrayCycle env c noFeed none none = ({ c.array with passes := [passAsked env.u env.pc m env.b.arr false] }, []) := by
  have hlives : passLives env (passAsked env.u env.pc m env.b.arr false) = true := passLives_issued rfl
  have hload : loadNow env c = none := by simp only [loadNow, newLoad_pass h, q.load]
  simp [arrayCycle, noFeed, entryCycle_suppressed q g h hm hoff, hload, loadSets, loadNext, loadDone, passesNow_pass q h hm, hoff,
    hlives, arrayEvs_quiet q (by rw [h]; decide) hacc, q.load, q.entered, q.flights, q.fwd, b2n, mapIdx_same]

/-- The events of a PASS that is performed while nothing is delivered (04, R144, R148, R153; 06, R212). -/
def passEvs (pc : Nat) (m : Semi) (a : ArrayArgs) (st : SetCfg) : List Ev :=
  passEntryEvs pc m a st ++ (if a.swap && !st.complete then [{ kind := .earlySwap, slot := 3, pc := pc, detail := 0 }] else [])

/-- A quiet array under a PASS that is performed while nothing is delivered: the sets change places where it swaps, and a masked
vector enters (04, R137, R144, R157; 06, R212). -/
theorem arrayCycle_performed (q : Quiet c) (g : Ungrouped env c.array) (h : env.b.arrOp = .pass) (hacc : env.b.accOp = .none)
    (hm : semiOfCode env.b.arr.mode.toNat = some m) (hon : predOn c env.b.arr.pred = true) :
    arrayCycle env c noFeed none none =
      let st := passCfg c.array env.b.arr
      let p := passOver env.u env.pc m env.b.arr st
      let evs := passEvs env.pc m env.b.arr st
      ({ c.array with
          active := if env.b.arr.swap then !c.array.active else c.array.active, passes := [p],
          entered := [{ e := env.u, m := 0, pass := p, item := maskedVec st.limb }],
          fwd := [(env.u, env.b.arr.transpose, maskedVec st.limb)], vecCnt := satInc c.array.vecCnt 1,
          status := c.array.status ||| bitsOf taBit evs }, evs) := by
  have hlives : ∀ st, passLives env (passOver env.u env.pc m env.b.arr st) = true := fun _ => passLives_issued rfl
  have hload : loadNow env c = none := by simp only [loadNow, newLoad_pass h, q.load]
  have hearly : (env.b.arr.swap = true ∧ (if c.array.active then c.array.set0 else c.array.set1).cfg.complete = false) ↔
      (env.b.arr.swap = true ∧ (passCfg c.array env.b.arr).complete = false) :=
    and_congr_right (fun hswap => by rw [passCfg_of_swap hswap])
  simp [arrayCycle, noFeed, entryCycle_performed q g h hm hon, hload, loadSets, loadNext, loadDone, passesNow_pass q h hm, hon,
    hlives, arrayEvs_quiet q (by rw [h]; decide) hacc, q.load, q.entered, q.flights, q.fwd, b2n, mapIdx_same, hearly, passEvs]

theorem bitsOf_passEvs (f : EvKind → Nat) (pc : Nat) (a : ArrayArgs) (st : SetCfg) :
    bitsOf f (passEvs pc m a st) =
      BitVec.ofNat 64 (f .feedUnderrun) |||
        (if !(st.valid && st.mode = a.mode.toNat) then BitVec.ofNat 64 (f .setMismatch) else 0) |||
        (if a.transpose && (st.limb = 2 || (m = .mac && !st.square)) then BitVec.ofNat 64 (f .xposeInvalid) else 0) |||
        (if a.swap && !st.complete then BitVec.ofNat 64 (f .earlySwap) else 0) := by
  have hone : ∀ e : Ev, bitsOf f [e] = BitVec.ofNat 64 (f e.kind) := fun e => BitVec.zero_or
  simp only [passEvs, passEntryEvs, bitsOf_append, bitsOf_ite, hone]

end

/-- PASS in a quiet cluster of no gang where nothing is delivered (04, R137, R144, R148, R157; 06, R212). -/
theorem arrayTaken_pass {env : Env} {cl : Cluster} {m : Semi} (q : Quiet cl.core) (g : Ungrouped env cl.core.array)
    (h : env.b.arrOp = .pass) (hacc : env.b.accOp = .none) (hm : semiOfCode env.b.arr.mode.toNat = some m) :
    arrayTaken env cl = passIssued env.u env.pc m env.b.arr cl := by
  unfold passIssued arrayTaken
  cases hon : predOn cl.core env.b.arr.pred with
  | false =>
    simp only [arrayCycle_suppressed q g h hacc hm hon, bitsOf_nil, inArray, inConv, setSq, inScalar, inCore, or_zero64]
    rfl
  | true =>
    have hsq : ∀ st, bitsOf sqBit (passEvs env.pc m env.b.arr st) = 0 := fun st => by
      simp [bitsOf_passEvs, sqBit]
    have hcv : ∀ st, bitsOf cvBit (passEvs env.pc m env.b.arr st) = 0x20 := fun st => by
      simp [bitsOf_passEvs, cvBit]
    have hta : ∀ st, bitsOf taBit (passEvs env.pc m env.b.arr st) =
        (if !(st.valid && st.mode = env.b.arr.mode.toNat) then 0x10 else 0) |||
        (if env.b.arr.transpose && (st.limb = 2 || (m = .mac && !st.square)) then 0x20 else 0) |||
        (if env.b.arr.swap && !st.complete then 4 else 0) := fun st => by
      simp [bitsOf_passEvs, taBit]
    simp only [arrayCycle_performed q g h hacc hm hon, hsq, hcv, hta, inArray, inConv, setSq, inScalar, inCore, or_zero64]
    rfl

/-! ## STALL_LOAD and SHADOW_LOAD -/

theorem listRow_zeros (w : Nat) {l : List Nat} (h : ∀ x ∈ l, x = 0) : listRow w l = 0 := by
  induction l with
  | nil => rfl
  | cons x t ih =>
    obtain ⟨hx, ht⟩ := List.forall_mem_cons.1 h
    simp [listRow, hx, ih ht]

/-- A row of no cells is zero (04, R140). -/
theorem loadRow_nil (cfg : SetCfg) (r : Nat) : loadRow cfg r [] = 0 := by
  unfold loadRow
  refine listRow_zeros 16 (fun x hx => ?_)
  obtain ⟨n, -, rfl⟩ := List.mem_map.1 hx
  simp [nth]

/-- A set after the first row of a load for which no stationary row is delivered (04, R140, R142). -/
def rowZeroed (mode : Nat) (x : RegSet) : RegSet :=
  { rows := memSet x.rows 0 0, exps := x.exps, cfg := { setCfgReset with mode := mode, valid := true, complete := false } }

theorem loadSet_first (l : LoadOp) (exps : List Int) (x : RegSet) : loadSet l 0 none exps x = rowZeroed l.mode x := by
  simp [loadSet, loadRow_nil, rowZeroed]

/-- The load that a bundle issues in cycle u, performed or suppressed (04, R142, R143; 06, R212). -/
def loadAsked (u pc : Nat) (stall : Bool) (a : ArrayArgs) (active on : Bool) : LoadOp :=
  { u := u, stall := stall, target := if stall then active else !active, performed := on, mode := a.mode.toNat, exps := [], pc := pc }

section
variable {env : Env} {c : ClusterCore} {stall : Bool}

theorem newPass_load (h : env.b.arrOp = .load stall) : newPass env c = none := by
  simp only [newPass, h]

theorem loadNow_load (h : env.b.arrOp = .load stall) :
    loadNow env c = some (loadAsked env.u env.pc stall env.b.arr c.array.active (predOn c env.b.arr.pred)) := by
  simp only [loadNow, newLoad, h, loadAsked]

/-- Nothing enters a quiet array under a load. -/
theorem entryCycle_load (q : Quiet c) (h : env.b.arrOp = .load stall) (v : Option (VecItem × Nat)) :
    entryCycle env c v = { entered := none, used := false, judged := none, evs := [] } := by
  simp [entryCycle, enteringPass, passesNow, newPass_load h, q.passes]

/-- The array after the issue cycle of a load for which nothing is delivered: the load takes its span, and where it is performed row 0
of its target is zero (04, R140, R142, R143; 06, R212). -/
def loadStarted (l : LoadOp) (x : ArrayUnit) : ArrayUnit :=
  { x with
    load := some l, set0 := if l.performed && !l.target then rowZeroed l.mode x.set0 else x.set0,
    set1 := if l.performed && l.target then rowZeroed l.mode x.set1 else x.set1 }

theorem loadSets_issued {l : LoadOp} (h : l.u = env.u) (x : ArrayUnit) :
    loadSets env x (some l) none = ((loadStarted l x).set0, (loadStarted l x).set1) := by
  cases hon : l.performed <;> cases htarget : l.target <;> simp [loadSets, loadStarted, h, hon, htarget, loadSet_first]

/-- A load goes on for 128 cycles (04, R142, R143). -/
theorem loadNext_issued {l : LoadOp} (h : l.u = env.u) (hexps : l.exps = []) : loadNext env (some l) none = some l := by
  cases l
  subst h hexps
  simp [loadNext, loadExps]

theorem loadDone_issued {l : LoadOp} (h : l.u = env.u) : loadDone env (some l) = false := by
  simp [loadDone, h]

/-- The feed_underrun event of a load that is performed (04, R142). -/
def loadEvs (l : LoadOp) : List Ev :=
  if l.performed then [{ kind := .feedUnderrun, slot := 3, pc := l.pc, detail := 0 }] else []

theorem bitsOf_loadEvs (f : EvKind → Nat) (l : LoadOp) :
    bitsOf f (loadEvs l) = if l.performed then BitVec.ofNat 64 (f .feedUnderrun) else 0 :=
  bitsOf_ite f _ _

theorem arrayCycle_load (q : Quiet c) (h : env.b.arrOp = .load stall) (hacc : env.b.accOp = .none) :
    arrayCycle env c noFeed none none =
      let l := loadAsked env.u env.pc stall env.b.arr c.array.active (predOn c env.b.arr.pred)
      (loadStarted l c.array, loadEvs l) := by
  have hnow := loadNow_load (c := c) h
  have hu : (loadAsked env.u env.pc stall env.b.arr c.array.active (predOn c env.b.arr.pred)).u = env.u := rfl
  have hexps : (loadAsked env.u env.pc stall env.b.arr c.array.active (predOn c env.b.arr.pred)).exps = [] := rfl
  generalize loadAsked env.u env.pc stall env.b.arr c.array.active (predOn c env.b.arr.pred) = l at hnow hu hexps ⊢
  have hevs : bitsOf taBit (loadEvs l) = 0 := by simp [bitsOf_loadEvs, taBit]
  unfold loadEvs at hevs
  simp [arrayCycle, noFeed, entryCycle_load q h, hnow, loadSets_issued hu, loadNext_issued hu hexps, loadDone_issued hu, passesNow,
    newPass_load h, q.passes, arrayEvs_quiet q (by rw [h]; simp) hacc, q.entered, q.flights, q.fwd, b2n, mapIdx_same, hevs,
    loadStarted, loadEvs]

end

theorem loadIssued_eq (u pc : Nat) (stall : Bool) (a : ArrayArgs) (cl : Cluster) :
    loadIssued u pc stall a cl =
      let l := loadAsked u pc stall a cl.core.array.active (predOn cl.core a.pred)
      inConv (fun x => { x with status := x.status ||| if l.performed then 0x20 else 0 }) (inArray (loadStarted l) cl) := by
  unfold loadIssued loadAsked
  generalize (if stall then cl.core.array.active else !cl.core.array.active) = target
  cases predOn cl.core a.pred
  · simp only [inConv, inArray, inCore, loadStarted, Bool.false_and, Bool.false_eq_true, if_false, Bool.not_false, if_true,
      or_zero64]
  · cases target <;> rfl

/-- A load in a quiet cluster where no stationary row is delivered (04, R140, R142, R143; 06, R212). -/
theorem arrayTaken_load {env : Env} {cl : Cluster} {stall : Bool} (q : Quiet cl.core) (h : env.b.arrOp = .load stall)
    (hacc : env.b.accOp = .none) : arrayTaken env cl = loadIssued env.u env.pc stall env.b.arr cl := by
  have hsq : ∀ l, bitsOf sqBit (loadEvs l) = 0 := fun l => by simp [bitsOf_loadEvs, sqBit]
  have hcv : ∀ l, bitsOf cvBit (loadEvs l) = if l.performed then 0x20 else 0 := fun l => by simp [bitsOf_loadEvs, cvBit]
  rw [loadIssued_eq]
  simp only [arrayTaken, arrayCycle_load q h hacc, hsq, hcv, setSq, inArray, inConv, inScalar, inCore, or_zero64]

/-! ## The five commands -/

section
variable {s : State} {p : Nat} (h : Calm s p) (hdebug : (part s p).job.debug = false)
  (hspot : (part s p).se.ctrlEff.getLsbD 0 = false)
  (hcl : ∀ c ∈ (part s p).clusters, gangShape c.core.array = 0 ∧ c.spot.capture = none)
include h hdebug hspot hcl

theorem slotExec_pass {a : ArrayArgs} {m : Semi} (hm : semiOfCode a.mode.toNat = some m) :
    slotExec p { emptyBundle with arrOp := .pass, arr := a } s =
      .next (ranBundle s p (fun _ => passIssued (part s p).seq.ic (part s p).seq.next m a) plainSeq) := by
  refine slotExec_array h hdebug hspot hcl ⟨rfl, rfl, rfl, rfl, rfl, rfl, rfl⟩ rfl rfl (fun env hb hu hpc c q g => ?_)
  rw [arrayTaken_pass q g (by rw [hb]) (by rw [hb]; rfl) (by rw [hb]; exact hm), hb, hu, hpc]

theorem slotExec_load (stall : Bool) (a : ArrayArgs) :
    slotExec p { emptyBundle with arrOp := .load stall, arr := a } s =
      .next (ranBundle s p (fun _ => loadIssued (part s p).seq.ic (part s p).seq.next stall a) plainSeq) := by
  refine slotExec_array h hdebug hspot hcl ⟨rfl, rfl, rfl, rfl, rfl, rfl, rfl⟩ rfl rfl (fun env hb hu hpc c q g => ?_)
  rw [arrayTaken_load q (by rw [hb]) (by rw [hb]; rfl), hb, hu, hpc]

end

/-- The array operation of a command whose mode is not the reserved one. -/
theorem arrOfCode_of_mode {mode : Nat} (h : mode ≠ 7) :
    arrOfCode 1 mode = .pass ∧ arrOfCode 2 mode = .load true ∧ arrOfCode 3 mode = .load false :=
  ⟨if_neg h, if_neg h, if_neg h⟩

/-- Settles O6: an array operation takes effect in its issue cycle through the array's own cycle alone, where no feed delivers; RETIRE and
DRAIN through the accumulator store's. -/
theorem arrayOperations : Obligations.ArrayOperations := by
  unfold Obligations.ArrayOperations
  refine ⟨fun s p a m h hdebug hspot hcl hm => ?_, fun s p pred acc h => ⟨?_, ?_⟩⟩
  · have hload := slotExec_load h hdebug hspot hcl
    obtain ⟨hcode1, hcode2, hcode3⟩ := arrOfCode_of_mode (ne_reserved_of_semiOfCode hm)
    intro u pc
    change execPass p a s = _ ∧ execStallLoad p a s = _ ∧ execShadowLoad p a s = _
    rw [execPass, execStallLoad, execShadowLoad, hcode1, hcode2, hcode3]
    exact ⟨slotExec_pass h hdebug hspot hcl hm, hload true a, hload false a⟩
  · refine slotExec_accum h .retire (by decide) acc _ (fun env hop ht _ c q => ?_)
    rw [accumCycle_retire q hop, ht]
  · refine slotExec_accum h .drain (by decide) acc _ (fun env hop ht hu c q => ?_)
    rw [accumCycle_drain q hop, ht, hu]

end Sys2Proof.Machine
end

section
/-! SUPPORT. The scalar slot on a calm partition, and O1 from it: what an operation computes, and its destination (06, R203, R204). -/

namespace Sys2Proof.Machine

/-! ## Immediates, shift amounts and predicate numbers -/

/-- The sign extension of a field, read as an integer. -/
theorem signExt_toNat {n : Nat} (hn : 0 < n) (x : BitVec n) : signExt n x.toNat = x.toInt := by
  have hpow : 2 ^ n = 2 * 2 ^ (n - 1) := by rw [← pow_succ', Nat.sub_add_cancel hn]
  have hlt := x.isLt
  unfold signExt
  rw [Nat.mod_eq_of_lt hlt, BitVec.toInt_eq_toNat_cond]
  split <;> split <;> omega

/-- The immediate of a scalar slot is sign-extended to 64 bits (06, R203). -/
theorem ofInt_immS (env : Env) : BitVec.ofInt 64 (immS env) = env.b.sc.imm.signExtend 64 := by
  rw [immS, signExt_toNat (by decide), BitVec.signExtend]

/-- A shift amount is the low six bits of its register (06, scalar operations). -/
theorem and_63_eq_mod (n : Nat) : n &&& 63 = n % 64 := Nat.and_two_pow_sub_one_eq_mod n 6

theorem toNat_setWidth_3 (r : BitVec 5) : (r.setWidth 3).toNat = r.toNat % 8 := BitVec.toNat_setWidth 3 r

theorem pWrite_eq_setP (p : BitVec 8) (r : BitVec 5) (v : Bool) : pWrite p (r.toNat % 8) v = setP p (r.setWidth 3) v := by
  have hzero : r.toNat % 8 = 0 ↔ r.setWidth 3 = 0 := by
    rw [← toNat_setWidth_3]
    exact (BitVec.toNat_eq (y := (0 : BitVec 3))).symm
  have hbit : ∀ k : Nat, BitVec.ofNat 8 (1 <<< k) = (1 : BitVec 8) <<< k := fun _ => rfl
  have hset : ∀ m : BitVec 8, (p &&& ~~~m) ||| m = p ||| m := fun m => by
    ext i hi
    simp only [BitVec.getElem_or, BitVec.getElem_and, BitVec.getElem_not]
    cases p[i] <;> cases m[i] <;> rfl
  unfold pWrite setP
  simp only [hzero, toNat_setWidth_3]
  cases v <;> simp [hset, hbit]

/-- The immediate of LIH is its low 24 bits (06, scalar operations). -/
theorem ofNat_bits_24 (x : BitVec 40) : BitVec.ofNat 64 (bits x.toNat 0 24) = (x.setWidth 24).setWidth 64 := by
  apply BitVec.eq_of_toNat_eq
  simp [bits]

/-! ## One scalar operation -/

/-- The bundle of a scalar operation. -/
def scBundle (op : ScOp) (a : ScalarArgs) : Bundle := { emptyBundle with scOp := op, sc := a }

theorem scalarOnly_scBundle (op : ScOp) (a : ScalarArgs) : ScalarOnly (scBundle op a) := ⟨rfl, rfl, rfl, rfl, rfl, rfl, rfl⟩

/-- Without an LD due, the g registers change by the operation of the cycle alone (06, R203, R210). -/
theorem gNext_of_ld_nil {env : Env} {c : ClusterCore} (h : c.scalar.ld = []) :
    gNext env c =
      if scOn env c then (scResult env c).elim c.scalar.g (gWrite c.scalar.g env.b.sc.dst.toNat) else c.scalar.g := by
  unfold gNext
  rw [h]
  cases scResult env c <;> rfl

/-- The operations that read and write nothing but the registers and predicates of the scalar unit (06, R203). -/
def computes (op : ScOp) : Bool := op != .ld && op != .st && op != .crd && op != .cwr && op != .reserved

section
variable {s : State} {p : Nat} (h : Calm s p) {op : ScOp} (hop : computes op = true) (a : ScalarArgs)
include h hop

/-- A computing operation on a calm partition gives each cluster the registers and predicates of its result. -/
theorem slotExec_computes {f : Cluster → Cluster}
    (hf : ∀ env : Env, env.b = scBundle op a → ∀ c : Cluster, Quiet c.core →
      f c = inScalar (fun u => { u with g := gNext env c.core, p := pNext env c.core }) c) :
    slotExec p (scBundle op a) s = .next (ranBundle s p (fun _ => f) plainSeq) := by
  simp only [computes, Bool.and_eq_true, bne_iff_ne] at hop
  obtain ⟨⟨⟨⟨hld, hst⟩, hcrd⟩, hcwr⟩, hres⟩ := hop
  rw [slotExec_calm h]
  exact congrArg _ (slot_scalar_plain h (scalarOnly_scBundle op a) rfl rfl hld hst hres hcwr hcrd (fun _ => f)
    (fun i c _ q => hf (envAt s p (scBundle op a) [] i) rfl c q))

/-- The operations with a g register as their destination (06, R203, R204). -/
theorem slotExec_putG {v : Word64 → Word64 → Word64}
    (hv : ∀ env : Env, env.b = scBundle op a → ∀ c,
      scResult env c = some (v (scA env c) (scB env c)) ∧ scPredResult env c = none) :
    slotExec p (scBundle op a) s = .next (ranBundle s p (fun _ => putG a v) plainSeq) := by
  refine slotExec_computes h hop a (fun env hb c q => ?_)
  have hargs : env.b.sc = a := by rw [hb]; rfl
  have hzero : a.dst.toNat = 0 ↔ a.dst = 0 := (BitVec.toNat_eq (y := (0 : BitVec 5))).symm
  have hpred : pNext env c.core = c.core.scalar.p := by simp only [pNext, (hv env hb c.core).2, ite_self]
  simp only [hpred, gNext_of_ld_nil q.ld, scOn, (hv env hb c.core).1, Option.elim_some, gWrite, scA, scB, hargs, hzero, putG,
    whereOn, inScalar, inCore]
  split
  · split <;> rfl
  · rfl

/-- The operations with a predicate as their destination (06, R203, R204). -/
theorem slotExec_putP {v : ScalarUnit → Bool}
    (hv : ∀ env : Env, env.b = scBundle op a → ∀ c, scPredResult env c = some (v c.scalar) ∧ scResult env c = none) :
    slotExec p (scBundle op a) s = .next (ranBundle s p (fun _ => putP a v) plainSeq) := by
  refine slotExec_computes h hop a (fun env hb c q => ?_)
  have hargs : env.b.sc = a := by rw [hb]; rfl
  have hregs : gNext env c.core = c.core.scalar.g := by
    simp only [gNext_of_ld_nil q.ld, (hv env hb c.core).2, Option.elim_none, ite_self]
  simp only [hregs, pNext, scOn, (hv env hb c.core).1, hargs, pWrite_eq_setP, putP, whereOn, inScalar, inCore]
  split <;> rfl

end

/-- Settles O1: each operation by its result in one issue cycle of a quiet cluster. -/
theorem scalarOperations : Obligations.ScalarOperations := by
  unfold Obligations.ScalarOperations
  refine ⟨fun s p a h => ?_, fun s p a h => ?_⟩
  · have hgives : ∀ op v, computes op = true → _ := fun op v hop => slotExec_putG (v := v) h (op := op) hop a
    refine ⟨hgives .add _ rfl ?_, hgives .sub _ rfl ?_, hgives .and _ rfl ?_, hgives .or _ rfl ?_, hgives .xor _ rfl ?_,
      hgives .shl _ rfl ?_, hgives .shr _ rfl ?_, hgives .sar _ rfl ?_, hgives .mul _ rfl ?_, hgives .addi _ rfl ?_,
      hgives .li _ rfl ?_, hgives .lih _ rfl ?_⟩
    all_goals
      intro env hb c
      simp [scResult, scPredResult, ofInt_immS, hb, scBundle, and_63_eq_mod, ofNat_bits_24]
  · have hgives : ∀ op v, computes op = true → _ := fun op v hop => slotExec_putP (v := v) h (op := op) hop a
    refine ⟨hgives .ceq _ rfl ?_, hgives .clt _ rfl ?_, hgives .cltu _ rfl ?_, hgives .ceqi _ rfl ?_, hgives .clti _ rfl ?_,
      hgives .pand _ rfl ?_, hgives .por _ rfl ?_, hgives .pnot _ rfl ?_⟩
    all_goals
      intro env hb c
      simp [scResult, scPredResult, ofInt_immS, hb, scBundle, scA, scB, BitVec.slt, BitVec.ult,
        BitVec.toInt_signExtend_of_le (x := a.imm) (v := 64) (by decide)]

end Sys2Proof.Machine
end

section
/-! SUPPORT. The scalar and vector slots of a quiet cluster in their issue cycle where they touch SRAM, and O2 from it: LD, ST, CRD and CWR
(06, R204, R210, R211, R219, R229, R230; 15, R491). -/

namespace Sys2Proof.Machine

/-! ## Addresses -/

/-- The low 23 bits of a register plus a signed offset. -/
theorem wrapU_add (x : Word64) (n : Int) : wrapU 23 (x.toNat + n) = (x + BitVec.ofInt 64 n).toNat % 2 ^ 23 := by
  unfold wrapU
  rw [BitVec.toNat_add, BitVec.toNat_ofInt]
  omega

theorem scAddr_eq_ldAddr {env : Env} {op : ScOp} {a : ScalarArgs} (hb : env.b = scBundle op a) (c : ClusterCore) :
    scAddr env c = ldAddr a c.scalar := by
  unfold scAddr ldAddr
  rw [wrapU_add, ofInt_immS, scA, hb]
  rfl

/-- 64 times a signed field. -/
theorem ofInt_mul_64 (x : BitVec 16) : BitVec.ofInt 64 (64 * x.toInt) = x.signExtend 64 <<< 6 := by
  rw [BitVec.ofInt_mul, BitVec.shiftLeft_eq_mul_twoPow, BitVec.mul_comm]
  rfl

theorem vecAddr_eq_vAddr (env : Env) (c : Cluster) : vecAddr env c.core = vAddr env.b.vec c := by
  unfold vecAddr vAddr
  rw [wrapU_add, signExt_toNat (by decide), ofInt_mul_64]

/-! ## One access of a cluster in a cycle -/

/-- What the accesses of a cycle read, where one access at most is made and it touches no held range. -/
def readNow (sram : Mem 8) (acc : Option Acc) : List (Acc × List Byte) :=
  (acc.toList.filter (·.data.isNone)).map (fun a => (a, sramRead sram a.addr a.len))

/-- SRAM after the cycle. -/
def sramNow (sram : Mem 8) (acc : Option Acc) : Mem 8 :=
  match acc.bind (fun a => a.data.map (fun d => (a.addr, d))) with
  | some (addr, d) => sramWrite sram addr d
  | none => sram

/-- The SRAM journal after the cycle (15, R491). -/
def journalNow (sram : Mem 8) (j : SramJournal) (acc : Option Acc) : SramJournal :=
  match acc with
  | some a => if a.data.isNone then journalRead j (linesOf a.addr a.len) else journalWrite sram j (linesOf a.addr a.len)
  | none => j

/-- An access that stands alone in its cycle is served whole (06, R230). -/
def servedWhole (a : Acc) : Served := { acc := a, won := linesOf a.addr a.len, lost := [] }

theorem serveAll_single (a : Acc) : serveAll (accSort [a]) [] = [servedWhole a] := by
  simp [accSort, accInsert, serveAll, lineFree, servedWhole]

section
variable {held : List (Nat × Nat × Nat)} {a : Acc} (h : heldTouched held a = [])
include h

theorem readBytes_whole (sram : Mem 8) : readBytes sram held (servedWhole a) = sramRead sram a.addr a.len := by
  simp [readBytes, servedWhole, h]

theorem accEvents_whole : accEvents held (servedWhole a) = [] := by
  simp [accEvents, servedWhole, h]

theorem journalLines_whole : journalLines held (servedWhole a) = linesOf a.addr a.len := by
  simp [journalLines, servedWhole, h]

theorem applyWrite_whole (sram : Mem 8) {d : List Byte} (hd : a.data = some d) :
    applyWrite held sram (servedWhole a) = sramWrite sram a.addr d := by
  simp [applyWrite, servedWhole, h, hd]

end

/-- An address range that meets no held range touches none (06, R221). -/
theorem heldTouched_unheld {c : Cluster} {a : Acc} (h : unheld c a.addr a.len = true) :
    heldTouched (heldRanges c.core.dma.bufs) a = [] := by
  unfold unheld at h
  simp only [heldTouched, List.map_eq_nil_iff, List.filter_eq_nil_iff]
  intro x hx
  have := List.all_eq_true.1 h x hx
  simpa using this

/-! ## One issue cycle -/

/-- A bundle with nothing but an LD or ST, or a vector operation. -/
structure MoveOnly (b : Bundle) : Prop where
  arr : b.arrOp = .nop
  acc : b.accOp = .none
  fd : b.fdOp = .nop
  st : b.stOp = .nop
  dm : b.dmOp = .nop
  waits : b.waits = []
  sc : b.scOp = .nop ∨ b.scOp = .ld ∨ b.scOp = .st

/-- A cluster after its scalar and vector slots, with the access that one of them makes. -/
def moved (env : Env) (acc : Option Acc) (cl : Cluster) : Cluster :=
  { cl with
    core := { cl.core with
              scalar := scalarCycle env cl.core (readNow cl.sram acc) [] none,
              vec := (vecCycle env cl.core [] (readNow cl.sram acc) none).1,
              opal := opalCycle env cl.core [] noStore false none },
    sram := sramNow cl.sram acc, journal := journalNow cl.sram cl.journal acc }

/-- The vector and scalar slots use the port of their own unit, and not the scale port (06, R229). -/
theorem moveAcc_port {env : Env} {c : ClusterCore} {a : Acc} (h : a ∈ vecAccs env c ++ scAccs env c) :
    a.scale = false ∧ a.kind ≠ .streamRec ∧ a.kind ≠ .statRec := by
  rcases List.mem_append.1 h with h | h
  · rcases List.mem_append.1 h with h | h
    · split at h
      · rw [List.mem_singleton.1 h]; exact ⟨rfl, by simp, by simp⟩
      · cases h
    · obtain ⟨x, -, hx⟩ := List.mem_filterMap.1 h
      split at hx <;> cases hx
      exact ⟨rfl, by simp, by simp⟩
  · unfold scAccs at h
    split at h
    · cases h
    · split at h
      · rw [List.mem_singleton.1 h]; exact ⟨rfl, by simp, by simp⟩
      · rw [List.mem_singleton.1 h]; exact ⟨rfl, by simp, by simp⟩
      · cases h

/-- What no access reads is not there. -/
theorem readOf_readNow_ne {sram : Mem 8} {acc : Option Acc} {k : AccKind} (h : ∀ a ∈ acc, a.kind ≠ k) (u : Nat) :
    readOf (readNow sram acc) k u = [] := by
  have hnone : (readNow sram acc).find? (fun r => r.1.kind = k && r.1.iss = u) = none := by
    rw [List.find?_eq_none]
    intro r hr
    obtain ⟨a, ha, rfl⟩ := List.mem_map.1 hr
    simp [h a (Option.mem_toList.1 (List.mem_filter.1 ha).1)]
  unfold readOf
  rw [hnone]

/-- What a cluster's one access does in its cycle: what it reads, and SRAM and journal after it. -/
theorem served_whole {held : List (Nat × Nat × Nat)} {acc : Option Acc} (hfree : ∀ a ∈ acc, heldTouched held a = [])
    (hscale : ∀ a ∈ acc, a.scale = false) (sram : Mem 8) (j : SramJournal) :
    let served := serveAll (accSort acc.toList) []
    let reads := served.filter (fun s => s.acc.data.isNone)
    let writes := served.filter (fun s => s.acc.data.isSome)
    let ordered := writes.filter (fun s => !s.acc.scale) ++ writes.filter (fun s => s.acc.scale)
    reads.map (fun s => (s.acc, readBytes sram held s)) = readNow sram acc ∧ ordered.foldl (applyWrite held) sram = sramNow sram acc ∧
      ordered.foldl (fun j s => journalWrite sram j (journalLines held s))
        (reads.foldl (fun j s => journalRead j (journalLines held s)) j) = journalNow sram j acc ∧
      (served.map (accEvents held)).flatten = [] := by
  cases acc with
  | none => exact ⟨rfl, rfl, rfl, rfl⟩
  | some a =>
    have hf := hfree a rfl
    have hs : (servedWhole a).acc.scale = false := hscale a rfl
    have hname : (servedWhole a).acc = a := rfl
    simp only [Option.toList_some, serveAll_single]
    cases hd : a.data with
    | none => simp [hname, hd, readNow, sramNow, journalNow, readBytes_whole hf, journalLines_whole hf, accEvents_whole hf]
    | some d =>
      rw [hname] at hs
      simp [hname, hd, hs, readNow, sramNow, journalNow, applyWrite_whole hf sram hd, journalLines_whole hf, accEvents_whole hf]

/-- The scalar and vector slots of a cluster make one access at most, to bytes that no buffer holds, raise no event and leave the journal
its room. -/
structure OneAccess (env : Env) (cl : Cluster) (acc : Option Acc) : Prop where
  accs : vecAccs env cl.core ++ scAccs env cl.core = acc.toList
  free : ∀ a ∈ acc, heldTouched (heldRanges cl.core.dma.bufs) a = []
  evs : (vecCycle env cl.core [] (readNow cl.sram acc) none).2 = []
  room : (journalNow cl.sram cl.journal acc).full = cl.journal.full

/-- One issue cycle of a quiet cluster that makes one access at most. -/
theorem clusterCycle_moved {env : Env} {cl : Cluster} (h : MoveOnly env.b) (q : Quiet cl.core) (hseq : env.seqEvs = [])
    {acc : Option Acc} (one : OneAccess env cl acc) : clusterCycle env cl = quietOut (moved env acc cl) [] := by
  obtain ⟨hacc, hfree, hvec, -⟩ := one
  have hcwr : cwrNow env cl.core = none := by rcases h.sc with e | e | e <;> simp [cwrNow, e]
  have hcrd : crdNow env cl.core = none := by rcases h.sc with e | e | e <;> simp [crdNow, e]
  have hscEvs : scEvs env = [] := by rcases h.sc with e | e | e <;> simp [scEvs, e, h.dm]
  have haccs : cycleAccs env cl.core [] = acc.toList := by
    simp [cycleAccs, feedAccs_quiet env _ q h.fd, hacc]
  have hdec : storesDecided env cl.core cl.sram (heldRanges cl.core.dma.bufs) (feedAccs env cl.core) = [] :=
    storesDecided_quiet env _ _ _ _ q
  have hregs := regsWritten_none cl.core q.dm
  have hport : ∀ a ∈ acc, _ := fun a ha => moveAcc_port (env := env) (c := cl.core) (by rw [hacc]; exact Option.mem_toList.2 ha)
  obtain ⟨hreads, hsram, hjournal, hevs⟩ := served_whole hfree (fun a ha => (hport a ha).1) cl.sram cl.journal
  have hstream := readOf_readNow_ne (sram := cl.sram) (fun a ha => (hport a ha).2.1) env.u
  have hstat := readOf_readNow_ne (sram := cl.sram) (fun a ha => (hport a ha).2.2) env.u
  have hfeed := fun co lm => feedCycle_quiet env cl.core _ co lm q h.fd hstream hstat
  have harray : arrayCycle env cl.core noFeed none none = (cl.core.array, []) := by
    rw [noFeed, arrayCycle_quiet env cl.core none none q h.arr (by rw [h.acc]; decide), hregs]
    rfl
  have hconv := convCycle_quiet cl.core none q
  have hspot := spotCycle_quiet env cl.core cl.spot cl.core.array q q.flights
  have htrap : ∀ t, trapNote env.rel env.step [] t = t := fun _ => rfl
  unfold noFeed at harray
  rw [hregs] at hconv
  unfold clusterCycle
  simp only [hdec, haccs, hreads, hsram, hjournal, hevs, hcwr, hcrd, hfeed, harray, accumCycle_quiet env cl.core _ q h.acc,
    storeCycle_quiet env cl.core _ h.st, entryCycle_quiet env cl.core none q h.arr, hconv, hregs, hvec, hscEvs, hseq, hspot, htrap,
    hbmqEnd_nil, Option.toList_none, List.map_nil, List.append_nil, ite_self, dmaCycle_quiet env _ _ _ _ h.dm h.waits]
  rfl

/-- The scalar unit of a quiet cluster stands where its slot is empty, suppressed, or an ST. -/
theorem scalarCycle_stands {env : Env} {c : ClusterCore} (h : env.b.scOp = .nop ∨ env.b.scOp = .st ∨ scOn env c = false)
    (q : Quiet c) (rs : List (Acc × List Byte)) : scalarCycle env c rs [] none = c.scalar := by
  have hregs : gNext env c = c.scalar.g := by
    rw [gNext_of_ld_nil q.ld]
    rcases h with h | h | h <;> simp [scResult, h]
  have hpreds : pNext env c = c.scalar.p := by
    rcases h with h | h | h <;> simp [pNext, scPredResult, h]
  have hload : (decide (env.b.scOp = .ld) && scOn env c) = false := by
    rcases h with h | h | h <;> simp [h]
  simp only [scalarCycle, hregs, hpreds, hload, q.ld, w1cReg_none, rwReg_none, bitsOf_nil, or_zero64, List.filter_nil,
    Bool.false_eq_true, if_false, List.append_nil]
  rw [← q.ld]

/-- A bundle of a calm partition whose slots make one access at most in each cluster. -/
theorem slotExec_moved {s : State} {p : Nat} {b : Bundle} (h : Calm s p) (hb : MoveOnly b) (hbrk : b.brk = false) (hctl : b.ctl = .nop)
    {f : Cluster → Cluster}
    (hf : ∀ i, ∀ c ∈ (part s p).clusters, Quiet c.core →
      ∃ acc, OneAccess (envAt s p b [] i) c acc ∧ moved (envAt s p b [] i) acc c = f c) :
    slotExec p b s = .next (ranBundle s p (fun _ => f) plainSeq) := by
  rw [slotExec_calm h]
  refine congrArg _ (slot_plain h hb.waits hbrk hb.dm hctl (fun _ => f) (fun _ _ => []) (fun i c hc q => ?_) (fun i c hc q => ?_))
  · obtain ⟨acc, hone, hmoved⟩ := hf i c (List.mem_of_getElem? hc) q
    rw [clusterCycle_moved (env := envAt s p b [] i) hb q rfl hone, hmoved]
  · obtain ⟨acc, hone, hmoved⟩ := hf i c (List.mem_of_getElem? hc) q
    simp only [← hmoved]
    exact ⟨fun o ho => absurd (q.hbmq ▸ ho) List.not_mem_nil, hone.room, fun _ => rfl⟩

/-! ## LD and ST -/

/-- The line that eight aligned bytes of SRAM touch (06, R229). -/
theorem linesOf_eight {x : Nat} (hx : x < 2 ^ 23) (h8 : x % 8 = 0) : linesOf x 8 = [x / 128] := by
  have hmod : x % sramBytes = x := Nat.mod_eq_of_lt hx
  have hline : (x + 8 - 1) / 128 - x / 128 + 1 = 1 := by omega
  have hsmall : x / 128 % 65536 = x / 128 := by omega
  unfold linesOf
  simp only [hmod, hline, List.range_one, List.map_singleton, Nat.add_zero, hsmall]
  rfl

theorem sramRead_eight {x : Nat} (hx : x < 2 ^ 23) (h8 : x % 8 = 0) (m : Mem 8) : sramRead m x 8 = memRead m x 8 := by
  have hmod : x % sramBytes = x := Nat.mod_eq_of_lt hx
  have hfit : x + 8 ≤ sramBytes := by unfold sramBytes; omega
  simp only [sramRead, hmod, hfit, if_true]

theorem sramWrite_eight {x : Nat} (hx : x < 2 ^ 23) (h8 : x % 8 = 0) (m : Mem 8) (v : Nat) :
    sramWrite m x (leBytes 8 v) = memSetLe m x 8 v := by
  have hmod : x % sramBytes = x := Nat.mod_eq_of_lt hx
  have hfit : x + (leBytes 8 v).length ≤ sramBytes := by unfold sramBytes; simp [leBytes]; omega
  simp only [sramWrite, hmod, hfit, if_true, memSetLe]

theorem ldAddr_lt (a : ScalarArgs) (u : ScalarUnit) : ldAddr a u < 2 ^ 23 ∧ ldAddr a u % 8 = 0 := by
  unfold ldAddr
  omega

section
variable {env : Env} {c : Cluster}

/-- A quiet cluster without a vector operation: its vector unit and Opal stand. -/
theorem vec_opal_nop (h : env.b.vOp = .nop) (q : Quiet c.core) (rs : List (Acc × List Byte)) :
    vecCycle env c.core [] rs none = (c.core.vec, []) ∧ opalCycle env c.core [] noStore false none = c.core.opal := by
  rw [vecCycle_quiet env c.core [] rs none q h, opalCycle_quiet env c.core noStore none q (by rw [h]; decide) rfl rfl,
    regsWritten_none c.core q.dm]
  exact ⟨rfl, rfl⟩

/-- A cluster of which the scalar unit alone changes, and what its access does to SRAM and journal. -/
theorem moved_scalar (h : env.b.vOp = .nop) (q : Quiet c.core) (acc : Option Acc) :
    moved env acc c =
      { inScalar (fun _ => scalarCycle env c.core (readNow c.sram acc) [] none) c with
        sram := sramNow c.sram acc, journal := journalNow c.sram c.journal acc } := by
  obtain ⟨hvec, hopal⟩ := vec_opal_nop h q (readNow c.sram acc)
  simp only [moved, hvec, hopal, inScalar, inCore]

variable {a : ScalarArgs}

/-- The access of an LD or ST: eight bytes, written where there are any to write (06, LD and ST). -/
def scAccess (env : Env) (a : ScalarArgs) (kind : AccKind) (d : Option (List Byte)) (c : Cluster) : Acc :=
  { rank := 4, iss := env.u, kind := kind, scale := false, addr := ldAddr a c.core.scalar, len := 8, data := d, slot := 2, pc := env.pc }

theorem scAccess_free {kind : AccKind} {d : Option (List Byte)} (h : unheld c (ldAddr a c.core.scalar) 8 = true) :
    ∀ x ∈ some (scAccess env a kind d c), heldTouched (heldRanges c.core.dma.bufs) x = [] := by
  rintro x ⟨rfl⟩
  exact heldTouched_unheld h

/-- A cluster whose scalar slot makes no access and changes no register stands. -/
theorem moved_none (h : env.b.vOp = .nop) (q : Quiet c.core) (hsc : scOn env c.core = false) : moved env none c = c := by
  rw [moved_scalar h q, scalarCycle_stands (.inr (.inr hsc)) q]
  rfl

theorem oneAccess_none (h : env.b.vOp = .nop) (q : Quiet c.core) (hsc : scOn env c.core = false) : OneAccess env c none :=
  ⟨by simp [vecAccs_nop env c.core q h, scAccs, hsc], by simp, congrArg Prod.snd (vec_opal_nop h q _).1, rfl⟩

/-- LD in a quiet cluster, from bytes that no buffer holds (06, R210; 15, R491). -/
theorem ld_moved (hb : env.b = scBundle .ld a) (q : Quiet c.core)
    (hheld : predOn c.core a.pred = true → unheld c (ldAddr a c.core.scalar) 8 = true) :
    ∃ acc, OneAccess env c acc ∧ moved env acc c = ldIssued env.u a c := by
  have hv : env.b.vOp = .nop := by rw [hb]; rfl
  have hop : env.b.scOp = .ld := by rw [hb]; rfl
  have hargs : env.b.sc = a := by rw [hb]; rfl
  obtain ⟨hlt, h8⟩ := ldAddr_lt a c.core.scalar
  cases hon : predOn c.core a.pred with
  | false =>
    have hoff : scOn env c.core = false := by rw [scOn, hargs, hon]
    refine ⟨none, oneAccess_none hv q hoff, ?_⟩
    simp [moved_none hv q hoff, ldIssued, whereOn, hon]
  | true =>
    have hscOn : scOn env c.core = true := by rw [scOn, hargs, hon]
    have hacc : vecAccs env c.core ++ scAccs env c.core = [scAccess env a .scRead none c] := by
      simp [vecAccs_nop env c.core q hv, scAccs, hscOn, hop, scAddr_eq_ldAddr hb, scAccess]
    have hvec : (vecCycle env c.core [] (readNow c.sram (some (scAccess env a .scRead none c))) none).2 = [] :=
      congrArg Prod.snd (vec_opal_nop hv q _).1
    refine ⟨some _, ⟨hacc, scAccess_free (hheld hon), hvec, rfl⟩, ?_⟩
    have hregs : gNext env c.core = c.core.scalar.g := by simp [gNext_of_ld_nil q.ld, scResult, hop]
    have hpreds : pNext env c.core = c.core.scalar.p := by simp [pNext, scPredResult, hop]
    rw [moved_scalar hv q]
    simp [ldIssued, whereOn, hon, scalarCycle, hregs, hpreds, hop, hscOn, hargs, q.ld, inScalar, inCore, sramNow, journalNow,
      scAccess, linesOf_eight hlt h8, readNow, readOf, sramRead_eight hlt h8, memLe]

/-- A journal that has a place left does not overflow by one line (15, R491). -/
theorem journalLine_full {sram : Mem 8} {j : SramJournal} (h : j.lines.length < 1024) (l : Nat) :
    (journalLine sram j l).full = j.full := by
  simp [journalLine, h]

/-- ST in a quiet cluster, to bytes that no buffer holds (06, R210; 15, R491). -/
theorem st_moved (hb : env.b = scBundle .st a) (q : Quiet c.core)
    (hheld : predOn c.core a.pred = true → unheld c (ldAddr a c.core.scalar) 8 = true) (hroom : c.journal.lines.length < 1024) :
    ∃ acc, OneAccess env c acc ∧ moved env acc c = stDone a c := by
  have hv : env.b.vOp = .nop := by rw [hb]; rfl
  have hop : env.b.scOp = .st := by rw [hb]; rfl
  have hargs : env.b.sc = a := by rw [hb]; rfl
  obtain ⟨hlt, h8⟩ := ldAddr_lt a c.core.scalar
  cases hon : predOn c.core a.pred with
  | false =>
    have hoff : scOn env c.core = false := by rw [scOn, hargs, hon]
    refine ⟨none, oneAccess_none hv q hoff, ?_⟩
    simp [moved_none hv q hoff, stDone, whereOn, hon]
  | true =>
    have hscOn : scOn env c.core = true := by rw [scOn, hargs, hon]
    let acc := scAccess env a .scWrite (some (leBytes 8 (gReg c.core.scalar a.srcB.toNat).toNat)) c
    have hacc : vecAccs env c.core ++ scAccs env c.core = [acc] := by
      simp [vecAccs_nop env c.core q hv, scAccs, hscOn, hop, scAddr_eq_ldAddr hb, acc, scAccess, scB, hargs]
    have hvec : (vecCycle env c.core [] (readNow c.sram (some acc)) none).2 = [] := congrArg Prod.snd (vec_opal_nop hv q _).1
    have hjournal : journalNow c.sram c.journal (some acc) = journalLine c.sram c.journal (ldAddr a c.core.scalar / 128) := by
      simp [journalNow, acc, scAccess, linesOf_eight hlt h8, journalWrite]
    refine ⟨some acc, ⟨hacc, scAccess_free (hheld hon), hvec, by rw [hjournal, journalLine_full hroom]⟩, ?_⟩
    rw [moved_scalar hv q, scalarCycle_stands (.inr (.inl hop)) q, hjournal]
    simp [stDone, whereOn, hon, inScalar, inCore, sramNow, acc, scAccess, sramWrite_eight hlt h8]

end

theorem moveOnly_scBundle {op : ScOp} (h : op = .ld ∨ op = .st) (a : ScalarArgs) : MoveOnly (scBundle op a) :=
  ⟨rfl, rfl, rfl, rfl, rfl, rfl, .inr h⟩

/-! ## Bytes of a number in memory -/

theorem length_leBytes (n v : Nat) : (leBytes n v).length = n := by
  induction n generalizing v with
  | zero => rfl
  | succ n ih => rw [leBytes, List.length_cons, ih]

theorem getElem_leBytes (n v i : Nat) (h : i < (leBytes n v).length) : (leBytes n v)[i] = BitVec.ofNat 8 (v / 2 ^ (8 * i)) := by
  induction n generalizing v i with
  | zero => cases h
  | succ n ih =>
    cases i with
    | zero => simp [leBytes]
    | succ i =>
      simp only [leBytes, List.getElem_cons_succ, ih]
      rw [Nat.div_div_eq_div_mul, show 8 * (i + 1) = 8 + 8 * i by omega, Nat.pow_add]

/-- A byte of memory after a number of n bytes has been stored (00, R6). -/
theorem memGet_memSetLe (m : Mem 8) (a n v x : Nat) :
    memGet (memSetLe m a n v) x =
      if a ≤ x ∧ x < a + n then BitVec.ofNat 8 (v / 2 ^ (8 * (x - a))) else memGet m x := by
  unfold memSetLe
  split
  · next h =>
    obtain ⟨i, rfl⟩ := Nat.exists_eq_add_of_le h.1
    have hi : i < (leBytes n v).length := by rw [length_leBytes]; omega
    rw [memGet_memWrite_in _ _ _ _ hi, getElem_leBytes, Nat.add_sub_cancel_left]
  · next h => exact memGet_memWrite_out _ _ _ _ (by rw [length_leBytes]; omega)

/-- SRAM after an ST, byte by byte (06, R210). -/
theorem memGet_stDone (a : ScalarArgs) (c : Cluster) (x : Nat) :
    memGet (stDone a c).sram x =
      let at_ := ldAddr a c.core.scalar
      if predOn c.core a.pred = true ∧ at_ ≤ x ∧ x < at_ + 8 then
        (gReg c.core.scalar a.srcB.toNat >>> (8 * (x - at_))).setWidth 8
      else memGet c.sram x := by
  have hbyte : ∀ (v : Word64) (k : Nat), BitVec.ofNat 8 (v.toNat / 2 ^ k) = (v >>> k).setWidth 8 := fun v k => by
    apply BitVec.eq_of_toNat_eq
    simp [Nat.shiftRight_eq_div_pow]
  unfold stDone whereOn
  cases predOn c.core a.pred with
  | false => simp
  | true => simp only [if_true, memGet_memSetLe, hbyte, true_and]

/-! ## CRD and CWR -/

/-- What a CRD reads does not depend on the bundle that carries it (06, R211). -/
theorem crdValue_supplied {s : State} {p : Nat} (h : p < s.parts.length) (b : Bundle) (i : Nat) :
    crdValue (envAt s p b [] i) = crdValue (envAt s p emptyBundle [] i) := by
  have hseq : (envAt s p b [] i).seq = (envAt s p emptyBundle [] i).seq := by
    simp only [envAt, envOf, seqView, part_supplied _ h]
    rfl
  have hkey : opKey (envAt s p b [] i) = opKey (envAt s p emptyBundle [] i) := by
    simp only [opKey, envAt_seed _ _ _ h, envAt_step _ _ _ h]
  funext c n
  simp only [crdValue, hseq, hkey]

theorem bits_12 (n : Nat) : bits n 0 12 = n % 4096 := by simp [bits]

section
variable {s : State} {p : Nat} (h : Calm s p) (a : ScalarArgs)
include h

/-- CRD on a calm partition (04, R166; 06, R211). -/
theorem slotExec_crd :
    slotExec p (scBundle .crd a) s =
      .next (ranBundle s p (fun i c => crdDone a (crdValue (envAt s p emptyBundle [] i) c.core (a.imm.toNat % 4096)) c) plainSeq) := by
  rw [slotExec_calm h]
  refine congrArg _ (slot_scalar h (scalarOnly_scBundle .crd a) rfl rfl nofun nofun nofun _ (fun i c _ q => ?_))
  have hread := crdValue_supplied h.lt (scBundle .crd a) i
  generalize henv : envAt s p (scBundle .crd a) [] i = env at hread
  have hb : env.b = scBundle .crd a := by rw [← henv]; rfl
  have hop : env.b.scOp = .crd := by rw [hb]; rfl
  have hargs : env.b.sc = a := by rw [hb]; rfl
  have hzero : a.dst.toNat = 0 ↔ a.dst = 0 := (BitVec.toNat_eq (y := (0 : BitVec 5))).symm
  have hcwr : cwrNow env c.core = none := by simp [cwrNow, hop]
  have hpreds : pNext env c.core = c.core.scalar.p := by simp [pNext, scPredResult, hop]
  simp only [← hread, hcwr, hpreds, regsWritten_none c.core q.dm, gNext_of_ld_nil q.ld, scResult, hop, Option.elim_some, crdNow, scOn,
    hargs, bits_12, gWrite, hzero, crdDone, whereOn, inArray, inScalar, inCore]
  cases predOn c.core a.pred with
  | false => rfl
  | true =>
    by_cases hperr : a.imm.toNat % 4096 = 0x107 <;> by_cases hdst : a.dst = 0#5 <;> simp [hperr, hdst]

/-- CWR on a calm partition (00, R8 to R11; 06, R211). -/
theorem slotExec_cwr : slotExec p (scBundle .cwr a) s = .next (ranBundle s p (fun _ => cwrDone a) plainSeq) := by
  rw [slotExec_calm h]
  refine congrArg _ (slot_scalar h (scalarOnly_scBundle .cwr a) rfl rfl nofun nofun nofun _ (fun i c _ q => ?_))
  generalize henv : envAt s p (scBundle .cwr a) [] i = env
  have hb : env.b = scBundle .cwr a := by rw [← henv]; rfl
  have hop : env.b.scOp = .cwr := by rw [hb]; rfl
  have hargs : env.b.sc = a := by rw [hb]; rfl
  have hregs : gNext env c.core = c.core.scalar.g := by simp [gNext_of_ld_nil q.ld, scResult, hop]
  have hpreds : pNext env c.core = c.core.scalar.p := by simp [pNext, scPredResult, hop]
  have hcrd : crdNow env c.core = none := by simp [crdNow, hop]
  simp only [hregs, hpreds, hcrd, cwrNow, hop, scOn, hargs, bits_12, scA, cwrDone, whereOn, inCore]
  cases predOn c.core a.pred with
  | false => simp [regsWritten_none c.core q.dm]
  | true => rfl

end

/-- Settles O2: LD and ST by the one access that each makes in a quiet cluster, CRD and CWR by the registers of the cycle. -/
theorem loadsStoresAndRegisters : Obligations.LoadsStoresAndRegisters := by
  unfold Obligations.LoadsStoresAndRegisters
  refine ⟨fun s p a h hheld => ⟨?_, fun hroom => ?_, memGet_stDone a⟩, fun s p a h => ⟨slotExec_crd h a, slotExec_cwr h a⟩,
    fun e c i hi => ?_⟩
  · refine slotExec_moved h (moveOnly_scBundle (.inl rfl) a) rfl rfl (fun i c hc q => ?_)
    rw [← envAt_u (scBundle .ld a) [] i h.lt]
    exact ld_moved rfl q (hheld c hc)
  · exact slotExec_moved h (moveOnly_scBundle (.inr rfl) a) rfl rfl (fun i c hc q => st_moved rfl q (hheld c hc) (hroom c hc))
  · have hhidden : ctlHidden i = true := by
      simp only [List.mem_cons, List.not_mem_nil, or_false] at hi
      simpa [ctlHidden, or_assoc] using hi
    simp only [crdValue, hhidden, if_true]

end Sys2Proof.Machine
end

section
/-! SUPPORT. The control slot on a calm partition, and O3 and O4 from it: jumps, loops, votes, and forms that are invalid
(06, R206 to R209). -/

namespace Sys2Proof.Machine

/-! ## One issue cycle with a control operation -/

/-- The bundle of a control operation. -/
def ctlBundle (op : CtlOp) : Bundle := { emptyBundle with ctl := op }

theorem setSq_zero : setSq 0 = fun c => c := by
  funext c
  simp only [setSq, inScalar, inCore, or_zero64]

/-- A quiet cluster under a control operation takes the flags of its events (06, R205, R235). -/
theorem clusterCycle_ctl {env : Env} {op : CtlOp} {c : Cluster} (hb : env.b = ctlBundle op) (q : Quiet c.core)
    (htrap : env.seqEvs = [] ∨ env.debug = false) :
    clusterCycle env c = quietOut (setSq (bitsOf sqBit env.seqEvs) c) env.seqEvs := by
  have hsc : env.b.scOp = .nop := by rw [hb]; rfl
  have hcwr : cwrNow env c.core = none := by simp [cwrNow, hsc]
  have hcrd : crdNow env c.core = none := by simp [crdNow, hsc]
  have hregs : gNext env c.core = c.core.scalar.g := by simp [gNext_of_ld_nil q.ld, scResult, hsc]
  have hpreds : pNext env c.core = c.core.scalar.p := by simp [pNext, scPredResult, hsc]
  have hnote : (if env.debug then trapNote env.rel env.step env.seqEvs c.trap else c.trap) = c.trap := by
    rcases htrap with e | e <;> simp [e, trapNote, firstEv]
  rw [clusterCycle_scalar env c q (by rw [hb]; exact ⟨rfl, rfl, rfl, rfl, rfl, rfl, rfl⟩) (by simp [hsc]) (by simp [hsc])
    (by simp [hsc])]
  simp only [hcwr, hcrd, hregs, hpreds, hnote, regsWritten_none c.core q.dm]
  rfl

section
variable {s : State} {p : Nat} (h : Calm s p) {op : CtlOp}
include h

/-- A control operation that is no boundary, on a calm partition: the flags of its events in every cluster, and the sequencer after the
operation that it comes to (06, R206, R207, R209). -/
theorem slotExec_ctl {now : CtlOp} {evs : List Ev} (hnow : ctlNow (part s p).seq (part s p).seq.next (ctlBundle op) = (now, evs))
    (hne : ∀ halt, now ≠ .stepEnd halt) (htrap : evs = [] ∨ (part s p).job.debug = false) :
    slotExec p (ctlBundle op) s =
      .next (ranBundle s p (fun _ => setSq (bitsOf sqBit evs)) (fun x =>
        bumpCycle (seqAfter ((part s p).clusters.mapIdx (fun _ => setSq (bitsOf sqBit evs))) x.next now x))) := by
  rw [slotExec_calm h]
  refine congrArg _ (slotTick_calm h (absentItems_none _ rfl) (poisonedWait_none _ rfl) rfl rfl now evs hnow hne _ (fun _ _ => evs)
    (fun i c hc => ?_) (fun i c hc => ?_))
  · exact clusterCycle_ctl rfl (h.quiet c (List.mem_of_getElem? hc)) (htrap.imp id (fun e => (envAt_debug _ _ i h.lt).trans e))
  · have hmem := List.mem_of_getElem? hc
    have q := h.quiet c hmem
    exact ⟨fun o ho => absurd (q.hbmq ▸ ho) List.not_mem_nil, h.room c hmem, fun hd => h.traps hd c hmem⟩

/-- A control operation that is performed changes the sequencer alone. -/
theorem slotExec_ctl_performed (hnow : ctlNow (part s p).seq (part s p).seq.next (ctlBundle op) = (op, []))
    (hne : ∀ halt, op ≠ .stepEnd halt) {g : SeqState → SeqState}
    (hg : bumpCycle (seqAfter (part s p).clusters (part s p).seq.next op (part s p).seq) = g (part s p).seq) :
    slotExec p (ctlBundle op) s = .next (ranBundle s p (fun _ c => c) g) := by
  rw [slotExec_ctl h hnow hne (.inl rfl), bitsOf_nil, setSq_zero, mapIdx_same _ _ (fun _ _ => rfl)]
  exact congrArg _ (ranBundle_congr (fun _ _ _ => rfl) hg)

/-- A control operation that is void sets the flag of its event, and the bundle goes on as if its control slot were empty
(06, R207, R209). -/
theorem slotExec_ctl_void {k : EvKind} (hdebug : (part s p).job.debug = false)
    (hnow : ctlNow (part s p).seq (part s p).seq.next (ctlBundle op) =
      (.nop, [{ kind := k, slot := 1, pc := (part s p).seq.next, detail := 0 }])) :
    slotExec p (ctlBundle op) s = .next (ranBundle s p (fun _ => setSq (BitVec.ofNat 64 (sqBit k))) plainSeq) := by
  have hone : ∀ e : Ev, bitsOf sqBit [e] = BitVec.ofNat 64 (sqBit e.kind) := fun e => BitVec.zero_or
  rw [slotExec_ctl h hnow nofun (.inr hdebug), hone]
  exact congrArg _ (ranBundle_congr (fun _ _ _ => rfl) (plainSeq_eq _ _))

end

/-! ## What the sequencer makes of an operation -/

section
variable {x : SeqState}

/-- No delay bundle of a vote while no vote stands. -/
theorem ctlNow_loop (hv : x.votes = []) (a : Nat) (n : BitVec 20) (last : BitVec 13) :
    ctlNow x a (ctlBundle (.loop n last)) =
      if last.toNat < a + 1 then (.nop, [{ kind := .loopInvalid, slot := 1, pc := a, detail := 0 }])
      else if n ≠ 0 ∧ 4 ≤ x.loops.length then (.nop, [{ kind := .loopOverflow, slot := 1, pc := a, detail := 0 }])
      else (.loop n last, []) := by
  simp [ctlNow, ctlBundle, hv]

theorem ctlNow_jump (hv : x.votes = []) (a : Nat) (t : BitVec 13) : ctlNow x a (ctlBundle (.jump t)) = (.jump t, []) := by
  simp [ctlNow, ctlBundle, hv]

/-- Without a vote the sequencer goes where the operation leads it. -/
theorem bumpCycle_seqAfter (hv : x.votes = []) (cls : List Cluster) (a : Nat) {op : CtlOp} (hop : ∀ all p t, op ≠ .vbr all p t) :
    bumpCycle (seqAfter cls a op x) = issuedSeq a (seqNext x a op).1 (seqNext x a op).2 [] x := by
  cases op
  case vbr all p t => exact absurd rfl (hop all p t)
  all_goals simp [bumpCycle, seqAfter, issuedSeq, hv]

theorem seqNext_jump (hv : x.votes = []) (a : Nat) (t : BitVec 13) :
    seqNext x a (.jump t) = (t.toNat, loopsHolding x t.toNat) := by
  simp [seqNext, hv, loopsAround, loopsHolding]

theorem seqNext_loop (hv : x.votes = []) (a : Nat) (n : BitVec 20) (last : BitVec 13) :
    seqNext x a (.loop n last) =
      if n = 0 then ((last.toNat + 1) % 8192, x.loops)
      else ((a + 1) % 8192, x.loops ++ [{ start := a + 1, last := last.toNat, left := n.toNat }]) := by
  simp [seqNext, hv]

end

/-- Settles O3: a jump or loop that is performed by what the sequencer makes of it, an invalid one by the event that voids it. -/
theorem jumpAndLoop : Obligations.JumpAndLoop := by
  unfold Obligations.JumpAndLoop
  intro s p h hv a ls same
  refine ⟨fun t => ?_, fun last hlast => ?_, fun n last hn hlast hfew => ?_, fun hdebug => ⟨fun n last hlast => ?_, fun n last hn hlast hfull => ?_⟩⟩
  · refine slotExec_ctl_performed h (op := .jump t) (ctlNow_jump hv _ t) nofun ?_
    rw [bumpCycle_seqAfter hv _ _ (op := .jump t) nofun, seqNext_jump hv]
  · refine slotExec_ctl_performed h (op := .loop 0 last) ?_ nofun ?_
    · rw [ctlNow_loop hv, if_neg (Nat.not_lt.2 hlast), if_neg (fun e => e.1 rfl)]
    · rw [bumpCycle_seqAfter hv _ _ (op := .loop 0 last) nofun, seqNext_loop hv, if_pos rfl]
  · have hsmall : (a + 1) % 8192 = a + 1 := Nat.mod_eq_of_lt (lt_of_le_of_lt hlast last.isLt)
    refine slotExec_ctl_performed h (op := .loop n last) ?_ nofun ?_
    · rw [ctlNow_loop hv, if_neg (Nat.not_lt.2 hlast), if_neg (fun e => absurd e.2 (Nat.not_le.2 hfew))]
    · rw [bumpCycle_seqAfter hv _ _ (op := .loop n last) nofun, seqNext_loop hv, if_neg hn, hsmall]
  · exact slotExec_ctl_void h (op := .loop n last) (k := .loopInvalid) hdebug (by rw [ctlNow_loop hv, if_pos hlast])
  · exact slotExec_ctl_void h (op := .loop n last) (k := .loopOverflow) hdebug
      (by rw [ctlNow_loop hv, if_neg (Nat.not_lt.2 hlast), if_pos ⟨hn, hfull⟩])

/-! ## Votes -/

/-- The sequencer after a vote branch: the vote is open for two bundles, and the next address is that of an empty control slot (06, R206,
R208). -/
theorem bumpCycle_seqAfter_vbr {x : SeqState} (hv : x.votes = []) (cls : List Cluster) (all : Bool) (pred : BitVec 3) (t : BitVec 13) :
    bumpCycle (seqAfter cls x.next (.vbr all pred t) x) =
      { plainSeq x with votes := [{ u := x.ic, pc := x.next, target := t.toNat, taken := voteTaken cls all pred }] } := by
  rw [← plainSeq_eq cls]
  simp only [bumpCycle, seqAfter, hv, List.filter_nil, List.nil_append]
  rfl

theorem ctlNow_vbr {x : SeqState} (hv : x.votes = []) (a : Nat) (all : Bool) (pred : BitVec 3) (t : BitVec 13) :
    ctlNow x a (ctlBundle (.vbr all pred t)) =
      if ∃ e ∈ x.loops, e.last = a ∨ e.last = a + 1 then (.nop, [{ kind := .ctlInvalid, slot := 1, pc := a, detail := 0 }])
      else (.vbr all pred t, []) := by
  simp [ctlNow, ctlBundle, hv]

/-- In the delay bundles of a vote every control operation is void (06, R209). -/
theorem ctlNow_delay {x : SeqState} {v : Vote} (hv : x.votes = [v]) (h1 : v.u < x.ic) (h2 : x.ic ≤ v.u + 2) (a : Nat) {op : CtlOp}
    (hop : op ≠ .nop ∧ op ≠ .reserved) :
    ctlNow x a (ctlBundle op) = (.nop, [{ kind := .ctlInvalid, slot := 1, pc := a, detail := 0 }]) := by
  have hdelay : x.votes.any (fun v => decide (v.u < x.ic) && decide (x.ic ≤ v.u + 2)) = true := by simp [hv, h1, h2]
  cases op
  case nop => exact absurd rfl hop.1
  case reserved => exact absurd rfl hop.2
  all_goals simp only [ctlNow, ctlBundle, hdelay, if_true, Bool.true_or]

/-- The bundle in which a taken vote is decided goes to its target (06, R206, R208). -/
theorem plainSeq_taken {x : SeqState} {v : Vote} (hv : x.votes = [v]) (hu : v.u + 2 = x.ic) (ht : v.taken = true) :
    plainSeq x = issuedSeq x.next v.target (loopsHolding x v.target) [] x := by
  have hopen : openVotes x = [] := by simp [openVotes, hv, hu]
  have hnext : plainNext x x.next = (v.target, loopsHolding x v.target) := by
    simp [plainNext, hv, hu, ht, loopsHolding]
  rw [plainSeq, plainAt, hopen, hnext]

/-- Settles O4: a vote opens by the predicates of the clusters, a taken one is decided two bundles later, and a void control operation sets
its flag alone. -/
theorem votes : Obligations.Votes := by
  unfold Obligations.Votes
  intro s p h x same open_
  refine ⟨fun hv hloops pred t => ?_, fun v hv hu ht => ?_, fun hdebug => ⟨fun hv hloop pred t => ?_, fun v hv h1 h2 n pred t => ?_⟩⟩
  · have hopens : ∀ all : Bool, slotExec p (ctlBundle (.vbr all pred t)) s =
        .next (ranBundle s p same (fun y => open_ y t (voteTaken (part s p).clusters all pred))) := fun all => by
      refine slotExec_ctl_performed h (op := .vbr all pred t) ?_ nofun (bumpCycle_seqAfter_vbr hv _ all pred t)
      rw [ctlNow_vbr hv, if_neg]
      rintro ⟨e, he, hlast⟩
      exact hlast.elim (hloops e he).1 (hloops e he).2
    exact ⟨hopens false, hopens true⟩
  · have hwait := execBufferWait_calm (names := []) h (by decide) (waitsMet_nil rfl)
    rw [released_nil] at hwait
    exact hwait.trans (congrArg _ (ranBundle_congr (fun _ _ _ => rfl) (plainSeq_taken hv hu ht)))
  · have hvoid : ∀ all : Bool, slotExec p (ctlBundle (.vbr all pred t)) s = .next (ranBundle s p (fun _ => setSq 2) plainSeq) :=
      fun all => slotExec_ctl_void h (op := .vbr all pred t) (k := .ctlInvalid) hdebug (by rw [ctlNow_vbr hv, if_pos hloop])
    exact ⟨hvoid false, hvoid true⟩
  · have hvoid : ∀ op : CtlOp, op ≠ .nop ∧ op ≠ .reserved →
        slotExec p (ctlBundle op) s = .next (ranBundle s p (fun _ => setSq 2) plainSeq) :=
      fun op hop => slotExec_ctl_void h (op := op) (k := .ctlInvalid) hdebug (ctlNow_delay hv h1 h2 _ hop)
    exact ⟨hvoid (.jump t) (by simp), hvoid (.loop n t) (by simp), hvoid (.vbr false pred t) (by simp),
      hvoid (.vbr true pred t) (by simp), hvoid (.stepEnd false) (by simp), hvoid (.stepEnd true) (by simp)⟩

end Sys2Proof.Machine
end

section
/-! SUPPORT. The vector slot of a quiet cluster in its issue cycle, and O8 from it: VLD, VST, VDRN, VDST and VRAND (06, R205, R219; 07,
R241, R246; 09, R287 to R290). -/

namespace Sys2Proof.Machine

/-- The bundle of a vector operation. -/
def vecBundle (op : VOp) (a : VecArgs) : Bundle := { emptyBundle with vOp := op, vec := a }

/-- The access of a VLD (06, R219). -/
def vldAccess (env : Env) (a : VecArgs) (c : Cluster) : Acc :=
  { rank := 3, iss := env.u, kind := .vecRead, scale := false, addr := vAddr a c, len := 512, data := none, slot := 4, pc := env.pc }

/-- The Opal pipeline with a VRAND of cycle u (09, R290, R309). -/
def vrandReserved (u : Nat) (o : OpalUnit) : OpalUnit :=
  { o with resv := [{ lo := u, hi := u + 31, vrand := true }], vrandCnt := satInc o.vrandCnt 1 }

theorem whereOn_on {pred : BitVec 3} {c : Cluster} (h : predOn c.core pred = true) (f : Cluster → Cluster) :
    whereOn pred f c = f c := if_pos h

theorem whereOn_off {pred : BitVec 3} {c : Cluster} (h : predOn c.core pred = false) (f : Cluster → Cluster) :
    whereOn pred f c = c := if_neg (by rw [h]; decide)

/-- A result that flies is in the vector unit alone. -/
theorem vecFlies_memory (u pc : Nat) (a : VecArgs) (l : Nat) (dst : Cluster → VDst) (val : Cluster → BitVec 4096)
    (cnt : Cluster → VCount) (c : Cluster) :
    (vecFlies u pc a l dst val cnt c).sram = c.sram ∧ (vecFlies u pc a l dst val cnt c).journal = c.journal := by
  unfold vecFlies whereOn
  split <;> exact ⟨rfl, rfl⟩

section
variable {env : Env} {op : VOp} {a : VecArgs} {c : Cluster} (hb : env.b = vecBundle op a) (q : Quiet c.core)
include hb

theorem vecOn_bundle : vecOn env c.core = predOn c.core a.pred := by rw [vecOn, hb]; rfl

theorem scAccs_vecBundle : scAccs env c.core = [] :=
  scAccs_none env c.core (by rw [hb]; nofun) (by rw [hb]; nofun)

include q

/-- What the vector and scalar slots access in a quiet cluster: the bytes of a VLD that acts. -/
theorem accs_vecBundle (hop : op ≠ .vld ∨ predOn c.core a.pred = false) : vecAccs env c.core ++ scAccs env c.core = [] := by
  have hnot : (decide (env.b.vOp = .vld) && vecOn env c.core) = false := by
    rw [vecOn_bundle hb, hb]
    rcases hop with hop | hoff
    · simp [vecBundle, hop]
    · rw [hoff, Bool.and_false]
  simp [scAccs_vecBundle hb, vecAccs, q.flight, hnot]

theorem accs_vld (hop : op = .vld) (hon : predOn c.core a.pred = true) :
    vecAccs env c.core ++ scAccs env c.core = [vldAccess env a c] := by
  have hvec : env.b.vOp = .vld := by rw [hb, ← hop]; rfl
  have hargs : env.b.vec = a := by rw [hb]; rfl
  simp [scAccs_vecBundle hb, vecAccs, q.flight, hvec, vecOn_bundle hb, hon, vecAddr_eq_vAddr, hargs, vldAccess]

/-- A VRAND that acts in a quiet cluster is performed (09, R290). -/
theorem vrandOutcome_quiet :
    vrandOutcome env c.core [] = if op = .vrand ∧ predOn c.core a.pred = true then some true else none := by
  have hvec : env.b.vOp = op := by rw [hb]; rfl
  simp [vrandOutcome, hvec, vecOn_bundle hb, resvNow, storesKept, q.resv, resvMeets]

/-- The vector unit of a quiet cluster takes the result that its slot puts in flight (07, R241, R259). -/
theorem vecCycle_issue (hop : op ≠ .reserved) (rs : List (Acc × List Byte)) :
    vecCycle env c.core [] rs none =
      ({ c.core.vec with
         flight := (newVec env c.core [] rs).toList, ops := satInc c.core.vec.ops (b2n (newVec env c.core [] rs).isSome) }, []) := by
  have hvec : env.b.vOp = op := by rw [hb]; rfl
  have hout : vrandOutcome env c.core [] ≠ some false := by
    rw [vrandOutcome_quiet hb q]
    split <;> simp
  simp [vecCycle, hout, hvec, hop, q.flight, vecCollides, vecWriteRegs]

/-- Opal takes the reservation of a VRAND that acts, and stands otherwise (09, R290, R309). -/
theorem opalCycle_issue :
    opalCycle env c.core [] noStore false none =
      if op = .vrand ∧ predOn c.core a.pred = true then vrandReserved env.u c.core.opal else c.core.opal := by
  unfold opalCycle
  rw [vrandOutcome_quiet hb q]
  split
  · simp [resvNow, storesKept, noStore, q.resv, b2n, mapIdx_same, vrandReserved, vrandResv]
  · simp [resvNow, storesKept, noStore, q.resv, b2n, mapIdx_same]
    rw [← q.resv]

/-- A quiet cluster under a vector operation takes the result that the operation puts in flight where the predicate is 1. -/
theorem moved_vec (hop : op ≠ .reserved) (acc : Option Acc) {l : Nat} {dst : Cluster → VDst} {val : Cluster → BitVec 4096}
    {cnt : Cluster → VCount}
    (hnew : predOn c.core a.pred = true → newVec env c.core [] (readNow c.sram acc) =
      some { due := env.u + l, iss := env.u, dst := dst c, val := val c, cnt := cnt c, pc := env.pc }) :
    moved env acc c =
      { whereOn a.pred (fun d => if op = .vrand then inOpal (vrandReserved env.u) d else d)
          (vecFlies env.u env.pc a l dst val cnt c) with
        sram := sramNow c.sram acc, journal := journalNow c.sram c.journal acc } := by
  have hsc : env.b.scOp = .nop := by rw [hb]; rfl
  simp only [moved, scalarCycle_stands (.inl hsc) q, vecCycle_issue hb q hop, opalCycle_issue hb q]
  cases hon : predOn c.core a.pred with
  | false =>
    have hnone : newVec env c.core [] (readNow c.sram acc) = none := by simp [newVec, vecOn_bundle hb, hon]
    simp only [hnone, whereOn_off hon, vecFlies, Option.toList_none, Option.isSome_none, b2n, Bool.false_eq_true, and_false, if_false,
      satInc_zero]
    rw [← q.flight]
  | true =>
    have hflies : vecFlies env.u env.pc a l dst val cnt c = inVec (fun v =>
        { v with
          flight := [{ due := env.u + l, iss := env.u, dst := dst c, val := val c, cnt := cnt c, pc := env.pc }],
          ops := satInc v.ops 1 }) c := whereOn_on hon _
    rw [hflies, whereOn_on (c := inVec _ c) hon, hnew hon]
    by_cases hvr : op = .vrand <;> simp only [hvr, true_and, if_true, if_false, false_and] <;> rfl

/-- The same for every operation but VRAND. -/
theorem moved_flies (hop : op ≠ .reserved) (hvr : op ≠ .vrand) (acc : Option Acc) {l : Nat} {dst : Cluster → VDst}
    {val : Cluster → BitVec 4096} {cnt : Cluster → VCount}
    (hnew : predOn c.core a.pred = true → newVec env c.core [] (readNow c.sram acc) =
      some { due := env.u + l, iss := env.u, dst := dst c, val := val c, cnt := cnt c, pc := env.pc }) :
    moved env acc c =
      { vecFlies env.u env.pc a l dst val cnt c with
        sram := sramNow c.sram acc, journal := journalNow c.sram c.journal acc } := by
  rw [moved_vec hb q hop acc hnew]
  simp only [hvr, if_false, whereOn, ite_self]

/-- A vector operation but VLD makes no access in a quiet cluster, and raises no event. -/
theorem oneAccess_vec (hop : op ≠ .reserved) (hvld : op ≠ .vld ∨ predOn c.core a.pred = false) : OneAccess env c none :=
  ⟨accs_vecBundle hb q hvld, by simp, congrArg Prod.snd (vecCycle_issue hb q hop _), rfl⟩

end

theorem moveOnly_vecBundle (op : VOp) (a : VecArgs) : MoveOnly (vecBundle op a) := ⟨rfl, rfl, rfl, rfl, rfl, rfl, .inl rfl⟩

section
variable {s : State} {p : Nat} (h : Calm s p) (a : VecArgs)
include h

/-- A vector operation but VLD and VRAND on a calm partition: its result flies, to be written in its cycle (07, R241). -/
theorem slotExec_vec {op : VOp} (hop : op ≠ .reserved) (hvld : op ≠ .vld) (hvr : op ≠ .vrand) {l : Nat} {dst : Cluster → VDst}
    {val : Cluster → BitVec 4096} {cnt : Cluster → VCount}
    (hnew : ∀ env : Env, env.b = vecBundle op a → ∀ c : Cluster, predOn c.core a.pred = true → newVec env c.core [] [] =
      some { due := env.u + l, iss := env.u, dst := dst c, val := val c, cnt := cnt c, pc := env.pc }) :
    slotExec p (vecBundle op a) s =
      .next (ranBundle s p (fun _ => vecFlies (part s p).seq.ic (part s p).seq.next a l dst val cnt) plainSeq) := by
  refine slotExec_moved h (moveOnly_vecBundle op a) rfl rfl (fun i c _ q => ?_)
  have hb : (envAt s p (vecBundle op a) [] i).b = vecBundle op a := rfl
  refine ⟨none, oneAccess_vec hb q hop (.inl hvld), ?_⟩
  rw [← envAt_u (vecBundle op a) [] i h.lt, ← envAt_pc s p (vecBundle op a) [] i]
  obtain ⟨hsram, hjournal⟩ := vecFlies_memory (envAt s p (vecBundle op a) [] i).u (envAt s p (vecBundle op a) [] i).pc a l dst val cnt c
  rw [moved_flies hb q hop hvr none (hnew _ hb c)]
  simp only [sramNow, journalNow, Option.bind_none, ← hsram, ← hjournal]

/-- VLD on a calm partition, from bytes that no buffer holds (06, R219; 07, R241; 15, R491). -/
theorem slotExec_vld
    (hheld : ∀ c ∈ (part s p).clusters, predOn c.core a.pred = true → unheld c (vAddr a c) 512 = true) :
    slotExec p (vecBundle .vld a) s =
      .next (ranBundle s p (fun _ => whereOn a.pred (fun c =>
        { vecFlies (part s p).seq.ic (part s p).seq.next a 2 (fun _ => .reg a.vd.toNat)
            (fun d => BitVec.ofNat 4096 (leNat (sramRead d.sram (vAddr a d) 512))) (fun _ => {}) c with
          journal := journalRead c.journal (linesOf (vAddr a c) 512) })) plainSeq) := by
  refine slotExec_moved h (moveOnly_vecBundle .vld a) rfl rfl (fun i c hc q => ?_)
  rw [← envAt_u (vecBundle .vld a) [] i h.lt, ← envAt_pc s p (vecBundle .vld a) [] i]
  have hb : (envAt s p (vecBundle .vld a) [] i).b = vecBundle .vld a := rfl
  generalize envAt s p (vecBundle .vld a) [] i = env at hb
  cases hon : predOn c.core a.pred with
  | false =>
    refine ⟨none, oneAccess_vec hb q nofun (.inr hon), ?_⟩
    rw [moved_flies hb q nofun nofun none (l := 2) (dst := fun _ => .reg a.vd.toNat) (val := fun _ => 0) (cnt := fun _ => {})
      (fun e => by rw [hon] at e; cases e), whereOn_off hon, vecFlies, whereOn_off hon]
    rfl
  | true =>
    have hfree : ∀ x ∈ some (vldAccess env a c), heldTouched (heldRanges c.core.dma.bufs) x = [] := by
      rintro x ⟨rfl⟩
      exact heldTouched_unheld (hheld c hc hon)
    refine ⟨some (vldAccess env a c), ⟨accs_vld hb q rfl hon, hfree, congrArg Prod.snd (vecCycle_issue hb q nofun _), rfl⟩, ?_⟩
    have hvec : env.b.vOp = .vld ∧ env.b.vec = a := by rw [hb]; exact ⟨rfl, rfl⟩
    rw [moved_flies hb q nofun nofun _ (l := 2) (dst := fun _ => .reg a.vd.toNat)
      (val := fun d => BitVec.ofNat 4096 (leNat (sramRead d.sram (vAddr a d) 512))) (cnt := fun _ => {})
      (fun _ => by simp [newVec, vecOn_bundle hb, hon, hvec, readNow, vldAccess, readOf]), whereOn_on hon,
      show sramNow c.sram (some (vldAccess env a c)) = c.sram from rfl]
    obtain ⟨hsram, -⟩ := vecFlies_memory env.u env.pc a 2 (fun _ => .reg a.vd.toNat)
      (fun d => BitVec.ofNat 4096 (leNat (sramRead d.sram (vAddr a d) 512))) (fun _ => {}) c
    simp only [← hsram]
    rfl

/-- The lanes of a VRAND in a cluster of partition p (09, R287 to R290). -/
def vrandLanesOf (s : State) (p : Nat) (a : VecArgs) (c : Cluster) : List Nat :=
  vrandLanes
    (if a.vext.toNat.testBit 36 then seedWords c.core.opal.altLo.toNat c.core.opal.altHi.toNat else jobSeed (part s p).job.seed)
    (part s p).seq.step (a.vext.toNat % 2 ^ 32) (a.vext.toNat / 2 ^ 32 % 16) (gReg c.core.scalar a.vaddr.toNat).toNat
    (lanesOf (vReg c.core.vec a.vb.toNat))

/-- VRAND of a form that is not reserved, on a calm partition (09, R287 to R290). -/
theorem slotExec_vrand :
    slotExec p (vecBundle .vrand a) s =
      .next (ranBundle s p (fun _ c =>
        whereOn a.pred (inOpal (vrandReserved (part s p).seq.ic))
          (vecFlies (part s p).seq.ic (part s p).seq.next a 12 (fun _ => .reg a.vd.toNat)
            (fun d => rowOf (vrandLanesOf s p a d)) (fun _ => {}) c)) plainSeq) := by
  refine slotExec_moved h (moveOnly_vecBundle .vrand a) rfl rfl (fun i c hc q => ?_)
  have hseed := envAt_seed (vecBundle .vrand a) [] i h.lt
  have hstep := envAt_step (vecBundle .vrand a) [] i h.lt
  rw [← envAt_u (vecBundle .vrand a) [] i h.lt, ← envAt_pc s p (vecBundle .vrand a) [] i]
  have hb : (envAt s p (vecBundle .vrand a) [] i).b = vecBundle .vrand a := rfl
  generalize envAt s p (vecBundle .vrand a) [] i = env at hb hseed hstep
  have hvec : env.b.vOp = .vrand ∧ env.b.vec = a := by rw [hb]; exact ⟨rfl, rfl⟩
  have hvalue : vrandValue env c.core = vrandLanesOf s p a c := by
    simp [vrandValue, vrandLanesOf, hvec, hseed, hstep, bits]
  refine ⟨none, oneAccess_vec hb q nofun (.inl nofun), ?_⟩
  rw [moved_vec hb q nofun none (l := 12) (dst := fun _ => .reg a.vd.toNat) (val := fun d => rowOf (vrandLanesOf s p a d))
    (cnt := fun _ => {}) (fun hon => by simp [newVec, vecOn_bundle hb, hon, hvec, vrandOutcome_quiet hb q, hvalue])]
  obtain ⟨hsram, hjournal⟩ := vecFlies_memory env.u env.pc a 12 (fun _ => .reg a.vd.toNat)
    (fun d => rowOf (vrandLanesOf s p a d)) (fun _ => {}) c
  simp only [if_true, sramNow, journalNow, Option.bind_none, ← hsram, ← hjournal]
  unfold whereOn
  split <;> rfl

/-- A reserved vector code on a calm partition outside debug mode sets slot_invalid (06, R205). -/
theorem slotExec_vec_reserved (hdebug : (part s p).job.debug = false) :
    slotExec p (vecBundle .reserved a) s = .next (ranBundle s p (fun _ => setSq 0x100) plainSeq) := by
  have hb : Unperformed (vecBundle .reserved a) := ⟨.inl rfl, .inl rfl, rfl, .inl rfl, .inl rfl, .inr rfl, .inl rfl⟩
  have hbits : ∀ i, bitsOf sqBit (idleEvs s p (vecBundle .reserved a) i) = 0x100 := fun _ => BitVec.zero_or
  have hfree : ∀ m : DmaUnit, { m with bufs := freedBy [] m.bufs } = m := fun m => by rw [freedBy_nil]
  rw [slotExec_calm h, slotTick_idle h hb (.inl rfl) (waitsMet_nil rfl) (.inl rfl) (fun e => by rw [hdebug] at e; cases e)]
  refine congrArg _ (ranBundle_congr (fun i c _ => ?_) rfl)
  have henv := (envAt_debug (vecBundle .reserved a) (invalidIn ((vecBundle .reserved a).ctl = .reserved) 1 (part s p).seq.next) i h.lt).trans hdebug
  simp only [idleCluster, idled, henv, hbits, envAt_b, Bool.false_eq_true, if_false]
  exact congrArg (fun f => { inDma f (setSq 0x100 c) with trap := c.trap }) (funext hfree)

end

/-- Settles O8: each operation by the result that it puts in flight in a quiet cluster; a reserved form of VRAND performs nothing. -/
theorem vectorMoves : Obligations.VectorMoves := by
  unfold Obligations.VectorMoves
  refine ⟨fun s p a h => ?_, fun s p a h => ?_⟩
  · intro u flies port
    have hon : ∀ {env : Env} {op : VOp}, env.b = vecBundle op a → ∀ c : Cluster, predOn c.core a.pred = true →
        vecOn env c.core = true ∧ env.b.vOp = op ∧ env.b.vec = a := fun hb c hp => by
      rw [vecOn_bundle hb, hb]; exact ⟨hp, rfl, rfl⟩
    refine ⟨slotExec_vld h a, slotExec_vec h a (op := .vst) nofun nofun nofun (fun env hb c hp => ?_),
      slotExec_vec h a (op := .vdrn) nofun nofun nofun (fun env hb c hp => ?_),
      slotExec_vec h a (op := .vdst) nofun nofun nofun (fun env hb c hp => ?_)⟩
    all_goals
      obtain ⟨hact, hop, hargs⟩ := hon hb c hp
      simp [newVec, hact, hop, hargs, vecAddr_eq_vAddr, port]
  · intro u seed lanes
    have hcode : execVrand p a s = slotExec p (vecBundle (if a.vext.toNat / 2 ^ 32 % 16 < 4 then .vrand else .reserved) a) s := rfl
    refine ⟨fun hlarge hdebug => ?_, fun hsmall => ?_⟩
    · change execVrand p a s = _
      rw [hcode, if_neg (Nat.not_lt.2 hlarge)]
      exact slotExec_vec_reserved h a hdebug
    · change execVrand p a s = _
      rw [hcode, if_pos hsmall]
      exact slotExec_vrand h a

end Sys2Proof.Machine
end

section
/-! SUPPORT. O12: results that are due in a cycle reach their registers in it (06, R204, R210; 07, R241, R242). -/

namespace Sys2Proof.Machine

/-! ## An LD that is due -/

theorem length_gWrite (g : List Word64) (n : Nat) (v : Word64) : (gWrite g n v).length = g.length := by
  unfold gWrite
  split <;> simp

theorem getD_gWrite_same {g : List Word64} {n : Nat} (h0 : n ≠ 0) (hn : n < g.length) (v : Word64) :
    (gWrite g n v).getD n 0 = v := by
  rw [gWrite, if_neg h0, List.getD_eq_getElem?_getD, List.getElem?_set_self hn, Option.getD_some]

/-- A write of another register leaves register n as it was (06, R204). -/
theorem getD_gWrite_ne {g : List Word64} {m n : Nat} (h : n ≠ m) (v : Word64) : (gWrite g m v).getD n 0 = g.getD n 0 := by
  unfold gWrite
  split
  · rfl
  · rw [List.getD_eq_getElem?_getD, List.getElem?_set_ne h.symm, List.getD_eq_getElem?_getD]

section
variable {env : Env} {c : ClusterCore} {l : LdPend} (hld : c.scalar.ld = [l]) (hdue : l.due = env.u)
include hld hdue

/-- With one LD that is due, the g registers take its value first, and then what the operation of the cycle writes (06, R203, R210). -/
theorem gNext_of_due :
    gNext env c =
      if scOn env c then
        (scResult env c).elim (gWrite c.scalar.g l.dst l.val) (gWrite (gWrite c.scalar.g l.dst l.val) env.b.sc.dst.toNat)
      else gWrite c.scalar.g l.dst l.val := by
  unfold gNext
  rw [hld]
  simp only [hdue, decide_true, List.filter_cons_of_pos, List.filter_nil, List.foldl_cons, List.foldl_nil]
  cases scResult env c <;> rfl

/-- The LD leaves the queue (06, R210). -/
theorem scalarCycle_ld_due (hop : env.b.scOp ≠ .ld) (rs : List (Acc × List Byte)) (evs : List Ev) (w : Cwr) :
    (scalarCycle env c rs evs w).ld = [] := by
  simp [scalarCycle, hld, hdue, hop]

variable (h0 : l.dst ≠ 0) (hlen : l.dst < c.scalar.g.length)
include h0 hlen

/-- The register holds the value of the LD, unless the operation of the cycle writes the same register (06, R204, R210). -/
theorem getD_gNext_ld (hother : scOn env c = true → env.b.sc.dst.toNat ≠ l.dst) : (gNext env c).getD l.dst 0 = l.val := by
  rw [gNext_of_due hld hdue]
  split
  · next hon =>
    cases scResult env c with
    | none => exact getD_gWrite_same h0 hlen _
    | some v => exact (getD_gWrite_ne (hother hon).symm v).trans (getD_gWrite_same h0 hlen _)
  · exact getD_gWrite_same h0 hlen _

/-- An operation of the cycle that writes the register of the LD wins (06, R204). -/
theorem getD_gNext_result (hon : scOn env c = true) (hsame : env.b.sc.dst.toNat = l.dst) {v : Word64}
    (hv : scResult env c = some v) : (gNext env c).getD l.dst 0 = v := by
  rw [gNext_of_due hld hdue, if_pos hon, hv, hsame]
  exact getD_gWrite_same h0 (by rw [length_gWrite]; exact hlen) v

end

/-- What a g register reads as after a cycle; g0 is 0 (06, R204). -/
theorem gReg_scalarCycle (env : Env) (c : ClusterCore) (rs : List (Acc × List Byte)) (evs : List Ev) (w : Cwr) (n : Nat) :
    gReg (scalarCycle env c rs evs w) n = if n = 0 then 0 else (gNext env c).getD n 0 := rfl

/-! ## A vector result that is due -/

section
variable {env : Env} {c : ClusterCore} {x : VecPend} (hflight : c.vec.flight = [x]) (hdue : x.due = env.u) (hop : env.b.vOp = .nop)
include hflight hdue hop

/-- The one result in flight, due now, leaves the queue for its register, and what it counted is added up (07, R241, R242, R259). -/
theorem vecCycle_due (ss : List StoreOp) (rs : List (Acc × List Byte)) (w : Cwr) :
    let t := (vecCycle env c ss rs w).1
    t.flight = [] ∧ t.v = vecWriteRegs c.vec.v [x] ∧ t.nan = satInc c.vec.nan x.cnt.nan ∧ t.inf = satInc c.vec.inf x.cnt.inf ∧
      t.domain = satInc c.vec.domain x.cnt.dom := by
  simp [vecCycle, newVec, hflight, hdue, hop, vCountAdd]

end

/-- Settles O12: a due LD is written before the operation of its cycle, a due vector result to its register alone. -/
theorem dueResults : Obligations.DueResults := by
  unfold Obligations.DueResults
  refine ⟨fun e c rs evs w l hld hdue hlen hdst hop => ?_, fun e c ss rs w x n hflight hdue hreg hn hlen hop => ?_⟩
  · have hlt : l.dst < c.scalar.g.length := hlen ▸ hdst
    have hvalue : (scOn e c = true → e.b.sc.dst.toNat ≠ l.dst) →
        gReg (scalarCycle e c rs evs w) l.dst = if l.dst = 0 then 0 else l.val := fun hother => by
      rw [gReg_scalarCycle]
      split
      · rfl
      · next h0 => exact getD_gNext_ld hld hdue h0 hlt hother
    refine ⟨scalarCycle_ld_due hld hdue hop rs evs w, fun hoff => hvalue (fun hon => ?_), fun _ hne => hvalue (fun _ => hne),
      fun v hon hsame h0 hv => ?_⟩
    · rw [hoff] at hon; cases hon
    · rw [gReg_scalarCycle, if_neg h0]
      exact getD_gNext_result hld hdue h0 hlt hon hsame hv
  · obtain ⟨hgone, hregs, hcounts⟩ := vecCycle_due hflight hdue hop ss rs w
    have hset : vecWriteRegs c.vec.v [x] = c.vec.v.set n x.val := by simp [vecWriteRegs, hreg]
    refine ⟨hgone, ?_, fun k _ hk => ?_, hcounts⟩
    · rw [vReg, hregs, hset, List.getD_eq_getElem?_getD, List.getElem?_set_self (hlen ▸ hn), Option.getD_some]
    · rw [vReg, hregs, hset, List.getD_eq_getElem?_getD, List.getElem?_set_ne hk.symm, vReg, List.getD_eq_getElem?_getD]

end Sys2Proof.Machine
end

section
/-! SUPPORT. O20: the watchdog, the host path, the halt bound and the debugger end a running job at once (06, R233; 08, R277, R282; 17,
R558, R571; 19, R627). -/

namespace Sys2Proof.Machine

/-- A partition that has ended from q, whose job, slice and counters are those of the partition as it stood, has ended its job. -/
theorem jobEnded_of_endedPart {s t : State} {p code : Nat} {q : Partition} (hpart : part t p = endedPart 4 code q)
    (hothers : ∀ k, k ≠ p → part t k = part s k)
    (hq : q.hbm = (part s p).hbm ∧ q.job = (part s p).job ∧ q.seq = (part s p).seq)
    (hsram : q.clusters.map (·.sram) = (part s p).clusters.map (·.sram))
    (hregs : q.clusters.map (·.core.scalar.g) = (part s p).clusters.map (·.core.scalar.g)) :
    jobEnded s t p (BitVec.ofNat 32 (code + 4 * 65536)) := by
  obtain ⟨hhbm, hjob, hseq⟩ := hq
  have hstep : q.seq.step = (part s p).seq.step := congrArg SeqState.step hseq
  have hic : q.seq.ic = (part s p).seq.ic := congrArg SeqState.ic hseq
  unfold jobEnded
  rw [hpart]
  refine ⟨rfl, rfl, hhbm, hjob, hstep, hic, ?_, ?_, fun k _ hk => hothers k hk⟩
  · rw [← hsram]
    simp [endedPart, Function.comp_def]
  · rw [← hregs]
    simp [endedPart, Function.comp_def]

/-- A fault ends a running job with cause 4 (17, R571). -/
theorem jobEnded_faultEnd {s : State} {p : Nat} (h : (part s p).st = .running) (src : EvSrc) (code detail : Nat) :
    jobEnded s (faultEnd s src p code detail) p (BitVec.ofNat 32 (code + 4 * 65536)) :=
  jobEnded_of_endedPart (part_faultEnd (jobActive_of_running h) src code detail)
    (fun _ hk => part_of_apart hk (apart_faultEnd s src p code detail)) ⟨rfl, rfl, rfl⟩ rfl rfl

/-- A job that is ended with cause 4 (17, R571). -/
theorem jobEnded_jobEnd {s : State} {p : Nat} (h : (part s p).st = .running) (status : Nat) :
    jobEnded s (jobEnd s p 4 status) p (BitVec.ofNat 32 (status + 4 * 65536)) :=
  jobEnded_of_endedPart (part_jobEnd (jobActive_of_running h) 4 status)
    (fun _ hk => part_of_apart hk (apart_jobEnd s p 4 status)) ⟨rfl, rfl, rfl⟩ rfl rfl

/-! ## The watchdog -/

/-- A partition whose watchdog has expired: `wdog` is set in every cluster (06, R233, R235). -/
def wdogFlagged (q : Partition) : Partition :=
  { q with
    clusters := q.clusters.map (fun c =>
      { c with core := { c.core with scalar := { c.core.scalar with status := c.core.scalar.status ||| 0x80 } } }) }

/-- The watchdog ends the job by a fault, from a state in which its flag is set and nothing else inside the module has changed
(06, R233). -/
theorem wdogEnd_eq (s : State) (p : Nat) :
    ∃ t, wdogEnd s p = faultEnd t srcFw p 0x0220 0 ∧ inward t = inward (withPart s p wdogFlagged) := by
  unfold wdogEnd
  refine ⟨_, rfl, ?_⟩
  exact inward_ite (inward_sendEvent ..) rfl

section
variable {s : State} {p : Nat} (hp : p < s.parts.length) (hrun : (part s p).st = .running)
include hp hrun

theorem part_wdogEnd : part (wdogEnd s p) p = endedPart 4 0x0220 (wdogFlagged (part s p)) := by
  obtain ⟨t, ht, hin⟩ := wdogEnd_eq s p
  have hpart : part t p = wdogFlagged (part s p) := (part_of_inward hin p).trans (part_withPart s p _ hp)
  rw [ht, part_faultEnd (by rw [hpart]; exact jobActive_of_running hrun), hpart]

theorem jobEnded_wdogEnd : jobEnded s (wdogEnd s p) p 0x00040220 := by
  obtain ⟨t, ht, hin⟩ := wdogEnd_eq s p
  refine jobEnded_of_endedPart (part_wdogEnd hp hrun) (fun k hk => ?_) ⟨rfl, rfl, rfl⟩ ?_ ?_
  · rw [ht, part_of_apart hk (apart_faultEnd ..), part_of_inward hin]
    exact part_withPart_ne s p k _ hk.symm
  · simp [wdogFlagged, Function.comp_def]
  · simp [wdogFlagged, Function.comp_def]

/-- The watchdog leaves `wdog` and `halted` set in every cluster (06, R233, R235; 17, R571). -/
theorem flags_wdogEnd :
    ∀ c ∈ (part (wdogEnd s p) p).clusters, c.core.scalar.status.getLsbD 7 = true ∧ c.core.scalar.status.getLsbD 12 = true := by
  rw [part_wdogEnd hp hrun]
  intro c hc
  obtain ⟨d, hd, rfl⟩ := List.mem_map.1 hc
  obtain ⟨e, -, rfl⟩ := List.mem_map.1 hd
  simp

end

/-- Settles O20: each of the four is one fault or end of an active job. -/
theorem faultEnds : Obligations.FaultEnds := by
  unfold Obligations.FaultEnds
  intro s p hp hlt hrun _
  have hunit : ∀ t : State, onUnit (decide (p < 12)) t = .next t := fun t => onUnit_of_true (decide_eq_true hp) t
  refine ⟨fun hstall => ⟨wdogEnd s p, ?_, jobEnded_wdogEnd hlt hrun, flags_wdogEnd hlt hrun⟩,
    fun hwait => ⟨faultEnd s srcFw p 0x0403 0, ?_, jobEnded_faultEnd hrun ..⟩,
    fun hhalt => ⟨jobEnd s p 4 0x08E8, ?_, jobEnded_jobEnd hrun _⟩,
    fun hfrozen => ⟨faultEnd s srcFw p 0x0241 0, ?_, jobEnded_faultEnd hrun ..⟩⟩
  · change onUnit _ (if _ then _ else _) = _
    rw [hunit, if_neg hstall]
  · change onUnit _ (if _ then _ else _) = _
    rw [hunit, if_neg hwait]
  · change onUnit _ (if _ then _ else _) = _
    rw [hunit, hhalt, if_pos (by simp [hrun])]
  · change onUnit _ (if _ then _ else _) = _
    rw [hunit, if_pos hfrozen]

end Sys2Proof.Machine
end

section
/-! SUPPORT. A remote addition that reaches the route table takes away the way of its own ACK, which refutes O37 (10, R341; 12, R389, R400,
R402; 13, R439). -/

namespace Sys2Proof.Machine

/-! ## The CRC of a flit that is written out -/

theorem leNat_leBytes (n v : Nat) : leNat (leBytes n v) = v % 2 ^ (8 * n) := by
  induction n generalizing v with
  | zero => exact (Nat.mod_one v).symm
  | succ n ih =>
    have hpow : 2 ^ (8 * (n + 1)) = 256 * 2 ^ (8 * n) := by rw [Nat.mul_succ, Nat.pow_add, Nat.mul_comm]
    rw [leBytes, leNat, ih, hpow, Nat.mod_mul, BitVec.toNat_ofNat]

theorem crc64Bit_lt (c : Nat) : crc64Bit c < 2 ^ 64 := by
  have hshift : 2 * c % 2 ^ 64 < 2 ^ 64 := Nat.mod_lt _ (by decide)
  unfold crc64Bit
  split
  · exact Nat.xor_lt_two_pow hshift (by decide)
  · exact hshift

theorem foldl_crc64Byte_lt (m : List Byte) {c : Nat} (hc : c < 2 ^ 64) : m.foldl crc64Byte c < 2 ^ 64 := by
  induction m generalizing c with
  | nil => exact hc
  | cons x m ih => exact ih (crc64Bit_lt _)

theorem crc64Fp_lt (m : List Byte) : crc64Fp m < 2 ^ 64 := Nat.xor_lt_two_pow (foldl_crc64Byte_lt m (by decide)) (by decide)

/-- 248 bytes and their CRC are a flit with a right CRC (12, R388). -/
theorem flitCrcOk_append {b : List Byte} (h : b.length = 248) : flitCrcOk (b ++ leBytes 8 (crc64Fp b)) = true := by
  unfold flitCrcOk
  rw [← h, List.take_left, List.drop_left, leNat_leBytes, Nat.mod_eq_of_lt (crc64Fp_lt b), decide_eq_true rfl]

theorem flitCrcOk_flitBytes (f : Flit) : flitCrcOk (flitBytes f) = true := by
  unfold flitBytes
  apply flitCrcOk_append
  simp only [List.length_append, length_leBytes, List.length_take, List.length_replicate, List.length_cons, List.length_nil]
  omega

/-! ## The counterexample: a relaxed atomic to the route table of its destination -/

/-- The route table entry of rank 1, at the base of the table plus 16 (12, R400): one hop over port 1, no alternate, role epoch 3. -/
def neighbourEntry : List Byte := leBytes 6 1 ++ leBytes 1 1 ++ List.replicate 7 0 ++ leBytes 2 3

/-- Rank 0 of two in attempt 1 of step 9 of job 7, with protected data on eight stacks and its route table at the start of them. -/
def tablePart : Partition :=
  { partReset with
    st := .running, hbm := memWrite [] (protOff 16) neighbourEntry, job := { jobNone with ranks := 2 },
    mem := { memRegsReset with u := 1, p := 1, live := List.range 8, prot := List.range 8 },
    seq := { seqReset with step := 9, attempt := 1 }, lk := { partReset.lk with jobEff := 7, epochEff := 2, countEff := 2 } }

/-- A full-width port whose link is ACTIVE, with credits on every channel. -/
def activePort : LkPort := { lkPortReset with a := { linkDown with st := .active, width := 3, credits := [20, 20, 20, 20] } }

/-- A module with one partition, where tablePart runs and every link is ACTIVE. -/
def tableState : State :=
  { State.reset with
    boot := { bootReset with st := .ready, byFw := true, copy := fuseReset, planOn := true },
    parts := tablePart :: List.replicate 11 partReset, ports := List.replicate 24 activePort }

/-- An RATOMIC_RELAXED of one flit from rank 1, whose one FP32 element is for bytes 4 to 7 of the sender's route table entry. They
hold 0x00010000, with the number of hops in byte 6, and the element is the negative of that. -/
def routeEraser : Flit :=
  { flitNone with
    ltype := 1, mtype := 6, mflags := 1, epoch := 2, job := 7, dst := 0, src := 1, path := 2 ^ 48 + 2 ^ 52, addr := protOff 20,
    step := 9, plen := 4, attempt := 1, payload := leBytes 192 0x80010000 }

/-- The flit as it comes to port 0. -/
def eraserArrives : FlitArgs :=
  { port := 0, half := false, word := BitVec.ofNat 2048 (leNat (flitBytes routeEraser)), bad := false, fec := false, unc := 0, sym := [],
    dt := 0 }

theorem wordBytes_eraserArrives : wordBytes eraserArrives.word = flitBytes routeEraser := by decide +kernel

theorem flitOf_eraserArrives : flitOf (wordBytes eraserArrives.word) = routeEraser := by decide +kernel

theorem flitCrcOk_eraserArrives : flitCrcOk (wordBytes eraserArrives.word) = true := by
  rw [wordBytes_eraserArrives]
  exact flitCrcOk_flitBytes routeEraser

theorem flitComes_eraserArrives : flitComes tableState eraserArrives :=
  ⟨by decide, rfl, rfl, rfl, rfl, flitCrcOk_eraserArrives, rfl⟩

theorem flitHome_eraserArrives : flitHome tableState eraserArrives 0 := by
  unfold flitHome
  rw [flitOf_eraserArrives]
  exact ⟨flitComes_eraserArrives, rfl, by decide, by decide, rfl, rfl, by decide, by decide, rfl, rfl, rfl, rfl, rfl, rfl⟩

theorem tierClean_tableState : tierClean tableState = true := by decide

/-- Another rank may reach the entry: the route table lies in no area of the engines or of Agate (10, R341, R342; 11, R377). -/
theorem remoteOk_routeEraser : remoteOk tableState 0 routeEraser.addr 4 = true := by decide +kernel

theorem routeReady_tableState : routeReady tableState 0 1 = true := by decide +kernel

/-- The sum is zero: the entry of rank 1 is left without a hop. -/
theorem routeHops_after_eraser : routeHops (rxFlit tableState eraserArrives) 0 1 false = 0 := by decide +kernel

/-- So rank 1 gets no ACK, though the flit is the last of its message. -/
theorem hasSent_after_eraser : hasSent tableState (rxFlit tableState eraserArrives) 0 1 0x11 0 9 = false := by decide +kernel

theorem exec_eraserArrives : exec (.ratomicRelaxed eraserArrives) tableState = .next (rxFlit tableState eraserArrives) := by
  have hdata : isData 6 (flitOf (wordBytes eraserArrives.word)) = true := by rw [flitOf_eraserArrives]; rfl
  show flitRow eraserArrives (isData 6) tableState = _
  rw [flitRow, if_neg (by decide), hdata]
  rfl

/-- Refutes O37: the clause on RATOMIC_RELAXED has no bound on the address as that on RWRITE has, so the element may be added in the
route table (12, R400). There it can take away the route to its sender before the ACK of the flit is sent. -/
theorem not_remoteWrites : ¬ Obligations.RemoteWrites := by
  unfold Obligations.RemoteWrites
  intro h
  obtain ⟨-, -, -, hrelaxed⟩ := h tableState eraserArrives 0 flitHome_eraserArrives tierClean_tableState rfl
  rw [flitOf_eraserArrives] at hrelaxed
  obtain ⟨t, hnext, -, hacked, -⟩ := hrelaxed rfl remoteOk_routeEraser rfl routeReady_tableState rfl
  have ht : rxFlit tableState eraserArrives = t := by
    rw [exec_eraserArrives] at hnext
    injection hnext
  have hlast : flitLast routeEraser = true := rfl
  have hsent : hasSent tableState t 0 1 0x11 0 9 = true := by
    rw [hlast] at hacked
    exact hacked
  rw [← ht, hasSent_after_eraser] at hsent
  cases hsent

end Sys2Proof.Machine
end

section
/-! SUPPORT. The lane operations of the vector slot, and O9 from it: a result flies for its latency, and the lanes of the integer, logic,
move and sign operations (07, R241, R246). -/

namespace Sys2Proof.Machine

/-! ## A lane operation on a calm partition -/

/-- The result and the counts of a lane operation in a cluster (07, R246, R259). -/
def lanesResult (op : VLaneOp) (a : VecArgs) (c : Cluster) : List Nat × VCount :=
  vLanes op a.vext.toNat (lanesOf (vReg c.core.vec a.va.toNat)) (lanesOf (vReg c.core.vec a.vb.toNat))
    (lanesOf (vReg c.core.vec a.vc.toNat))

/-- A lane operation on a calm partition: its result flies for its latency, to its register (07, R241, R246). -/
theorem slotExec_lane {s : State} {p : Nat} (h : Calm s p) (a : VecArgs) (op : VLaneOp) :
    slotExec p (vecBundle (.lane op) a) s =
      .next (ranBundle s p (fun _ => vecFlies (part s p).seq.ic (part s p).seq.next a (vLaneLatency op)
        (fun _ => .reg a.vd.toNat) (fun c => rowOf (lanesResult op a c).1) (fun c => (lanesResult op a c).2)) plainSeq) := by
  refine slotExec_vec h a (op := .lane op) nofun nofun nofun (fun env hb c hon => ?_)
  have hact : vecOn env c.core = true := by rw [vecOn_bundle hb, hon]
  have hvec : env.b.vOp = .lane op ∧ env.b.vec = a := by rw [hb]; exact ⟨rfl, rfl⟩
  simp [newVec, hact, hvec, lanesResult]

/-! ## Rows and their lanes -/

/-- Lane k of a row (07, R246). -/
def laneAt (r : BitVec 4096) (k : Nat) : BitVec 32 := (r >>> (32 * k)).setWidth 32

theorem nth_map_range {n i : Nat} (h : i < n) (f : Nat → Nat) : nth ((List.range n).map f) i = f i := by
  simp [nth, h]

theorem nth_lanesOf {i : Nat} (h : i < 128) (x : BitVec 4096) : nth (lanesOf x) i = (laneAt x i).toNat := by
  simp [lanesOf, rowList, nth_map_range h, bits, laneAt, Nat.shiftRight_eq_div_pow, Nat.mul_comm i]

/-- A field of a packed row is its element, reduced to the width of the fields. -/
theorem listRow_field (w : Nat) (l : List Nat) (j : Nat) : listRow w l / 2 ^ (w * j) % 2 ^ w = nth l j % 2 ^ w := by
  induction l generalizing j with
  | nil => simp [listRow, nth]
  | cons x t ih =>
    have hpos : 0 < 2 ^ w := Nat.two_pow_pos w
    cases j with
    | zero => simp [listRow, nth]
    | succ j =>
      calc listRow w (x :: t) / 2 ^ (w * (j + 1)) % 2 ^ w
          = (x % 2 ^ w + 2 ^ w * listRow w t) / 2 ^ w / 2 ^ (w * j) % 2 ^ w := by
            rw [listRow, Nat.div_div_eq_div_mul, ← Nat.pow_add, Nat.mul_succ, Nat.add_comm (w * j)]
        _ = listRow w t / 2 ^ (w * j) % 2 ^ w := by
            rw [Nat.add_mul_div_left _ _ hpos, Nat.div_eq_of_lt (Nat.mod_lt _ hpos), Nat.zero_add]
        _ = nth (x :: t) (j + 1) % 2 ^ w := ih j

theorem ofNat_mod_two_pow (n k : Nat) : BitVec.ofNat n (k % 2 ^ n) = BitVec.ofNat n k := by
  apply BitVec.eq_of_toNat_eq
  simp

/-- A field that lies within a word is the field of the number that the word holds. -/
theorem setWidth_ushiftRight_ofNat {n k w : Nat} (h : k + w ≤ n) (v : Nat) :
    (BitVec.ofNat n v >>> k).setWidth w = BitVec.ofNat w (v / 2 ^ k) := by
  have hpow : 2 ^ k * 2 ^ (n - k) = 2 ^ n := pow_mul_pow_sub 2 (by omega)
  have hdvd : 2 ^ w ∣ 2 ^ (n - k) := Nat.pow_dvd_pow 2 (by omega)
  apply BitVec.eq_of_toNat_eq
  rw [BitVec.toNat_setWidth, BitVec.toNat_ushiftRight, BitVec.toNat_ofNat, BitVec.toNat_ofNat, Nat.shiftRight_eq_div_pow, ← hpow,
    Nat.mod_mul_right_div_self, Nat.mod_mod_of_dvd _ hdvd]

theorem laneAt_rowOf {j : Nat} (h : j < 128) (l : List Nat) : laneAt (rowOf l) j = BitVec.ofNat 32 (nth l j) := by
  rw [laneAt, rowOf, setWidth_ushiftRight_ofNat (by omega), ← ofNat_mod_two_pow, listRow_field, ofNat_mod_two_pow]

/-! ## Operations that work on each lane alone -/

/-- The operations that neither move lanes nor reduce them (07, R246 to R249). -/
def lanewise : VLaneOp → Bool
  | .vrot | .vsplat | .rsum | .rsumsq | .rmax | .rargmax => false
  | _ => true

theorem vLanes_lanewise {op : VLaneOp} (hop : lanewise op = true) (vext : Nat) (a b c : List Nat) :
    (vLanes op vext a b c).1 = (List.range 128).map (fun i => (vLane op vext i (nth a i) (nth b i) (nth c i)).1) := by
  cases op with
  | vrot | vsplat | rsum | rsumsq | rmax | rargmax => cases hop
  | _ => simp [vLanes, Function.comp_def]

section
variable {j : Nat} (hj : j < 128) (x y z : BitVec 4096) (vext : Nat)
include hj

/-- Lane j of the result of an operation on each lane alone comes from lane j of its sources. -/
theorem laneAt_lanewise {op : VLaneOp} (hop : lanewise op = true) :
    laneAt (rowOf (vLanes op vext (lanesOf x) (lanesOf y) (lanesOf z)).1) j =
      BitVec.ofNat 32 (vLane op vext j (laneAt x j).toNat (laneAt y j).toNat (laneAt z j).toNat).1 := by
  rw [laneAt_rowOf hj, vLanes_lanewise hop, nth_map_range hj, nth_lanesOf hj, nth_lanesOf hj, nth_lanesOf hj]

theorem laneAt_vrot :
    laneAt (rowOf (vLanes .vrot vext (lanesOf x) (lanesOf y) (lanesOf z)).1) j = laneAt x ((j + vext) % 128) := by
  rw [laneAt_rowOf hj, vLanes, nth_map_range hj, nth_lanesOf (Nat.mod_lt _ (by decide)), Nat.add_mod_mod, BitVec.ofNat_toNat,
    BitVec.setWidth_eq]

theorem laneAt_vsplat :
    laneAt (rowOf (vLanes .vsplat vext (lanesOf x) (lanesOf y) (lanesOf z)).1) j = laneAt x (vext % 128) := by
  rw [laneAt_rowOf hj, vLanes, nth_map_range hj, nth_lanesOf (Nat.mod_lt _ (by decide)), BitVec.ofNat_toNat, BitVec.setWidth_eq]

end

/-! ## The value of one lane -/

/-- The low n bits of an integer, as a word. -/
theorem ofNat_wrapU (n : Nat) (z : Int) : BitVec.ofNat n (wrapU n z) = BitVec.ofInt n z := by
  apply BitVec.eq_of_toNat_eq
  rw [BitVec.toNat_ofNat, BitVec.toNat_ofInt, wrapU, Nat.mod_eq_of_lt]
  have hlt := Int.emod_lt_of_pos z (b := (2 ^ n : Nat)) (by exact_mod_cast Nat.two_pow_pos n)
  omega

section
variable (vext i : Nat) (a b c : BitVec 32)

/-- IADD and ISUB wrap around (07, R246). -/
theorem vLane_iadd : BitVec.ofNat 32 (vLane .iadd vext i a.toNat b.toNat c.toNat).1 = a + b := by
  rw [vLane, ofNat_mod_two_pow, BitVec.ofNat_add, BitVec.ofNat_toNat, BitVec.ofNat_toNat, BitVec.setWidth_eq, BitVec.setWidth_eq]

theorem vLane_isub : BitVec.ofNat 32 (vLane .isub vext i a.toNat b.toNat c.toNat).1 = a - b := by
  rw [vLane, ofNat_wrapU, Int.sub_eq_add_neg, BitVec.ofInt_add, BitVec.ofInt_neg, ← BitVec.sub_eq_add_neg]
  simp

theorem vLane_vand : BitVec.ofNat 32 (vLane .vand vext i a.toNat b.toNat c.toNat).1 = a &&& b := by
  simp [vLane, BitVec.ofNat_and]

theorem vLane_vor : BitVec.ofNat 32 (vLane .vor vext i a.toNat b.toNat c.toNat).1 = a ||| b := by
  simp [vLane, BitVec.ofNat_or]

theorem vLane_vxor : BitVec.ofNat 32 (vLane .vxor vext i a.toNat b.toNat c.toNat).1 = a ^^^ b := by
  simp [vLane, BitVec.ofNat_xor]

theorem vLane_shli : BitVec.ofNat 32 (vLane .shli vext i a.toNat b.toNat c.toNat).1 = a <<< (vext % 32) := by
  apply BitVec.eq_of_toNat_eq
  simp [vLane, Nat.shiftLeft_eq]

theorem vLane_shri : BitVec.ofNat 32 (vLane .shri vext i a.toNat b.toNat c.toNat).1 = a >>> (vext % 32) := by
  have hlt : a.toNat / 2 ^ (vext % 32) < 2 ^ 32 := Nat.lt_of_le_of_lt (Nat.div_le_self _ _) a.isLt
  apply BitVec.eq_of_toNat_eq
  rw [BitVec.toNat_ushiftRight, Nat.shiftRight_eq_div_pow, BitVec.toNat_ofNat]
  exact Nat.mod_eq_of_lt hlt

/-- SARI shifts the sign in (07, R246). -/
theorem vLane_sari : BitVec.ofNat 32 (vLane .sari vext i a.toNat b.toNat c.toNat).1 = a.sshiftRight (vext % 32) := by
  simp only [vLane, ofNat_wrapU, signExt_toNat (by decide : 0 < 32), shrInt, BitVec.sshiftRight, Int.shiftRight_eq_div_pow]

theorem vLane_vbcst : BitVec.ofNat 32 (vLane .vbcst vext i a.toNat b.toNat c.toNat).1 = BitVec.ofNat 32 vext :=
  ofNat_mod_two_pow 32 vext

theorem vLane_vidx :
    BitVec.ofNat 32 (vLane .vidx vext i a.toNat b.toNat c.toNat).1 = BitVec.ofNat 32 vext + BitVec.ofNat 32 i := by
  rw [vLane, ofNat_mod_two_pow, BitVec.ofNat_add]

theorem vLane_vsel : BitVec.ofNat 32 (vLane .vsel vext i a.toNat b.toNat c.toNat).1 = if c = 0 then b else a := by
  have hzero : c.toNat = 0 ↔ c = 0 := (BitVec.toNat_eq (y := (0 : BitVec 32))).symm
  simp only [vLane, hzero]
  split <;> simp

/-- FABS clears bit 31 and FNEG flips it (07, R245, R246). -/
theorem vLane_fabs : BitVec.ofNat 32 (vLane .fabs vext i a.toNat b.toNat c.toNat).1 = a &&& 0x7FFFFFFF := by
  apply BitVec.eq_of_toNat_eq
  have hmask : a.toNat &&& 0x7FFFFFFF = a.toNat % 2 ^ 31 := Nat.and_two_pow_sub_one_eq_mod a.toNat 31
  have hlt : a.toNat % 2 ^ 31 < 2 ^ 32 := by omega
  rw [BitVec.toNat_and, BitVec.toNat_ofNat]
  exact (Nat.mod_eq_of_lt hlt).trans hmask.symm

theorem vLane_fneg : BitVec.ofNat 32 (vLane .fneg vext i a.toNat b.toNat c.toNat).1 = a ^^^ 0x80000000 := by
  simp [vLane, neg32, fNeg, fmt32, BitVec.ofNat_xor]

end

/-- Settles O9: every operation by the one rule on lane operations, and the lanes by what the operation makes of one lane. -/
theorem vectorLanes : Obligations.VectorLanes := by
  unfold Obligations.VectorLanes
  refine ⟨fun s p a h => ?_, fun x y z vext j hj => ?_⟩
  · intro gives
    have hlane := slotExec_lane h a
    exact ⟨⟨hlane .fadd, hlane .fsub, hlane .fmul, hlane .fma, hlane .fmin, hlane .fmax, hlane .fabs, hlane .fneg, hlane .fcmpeq,
        hlane .fcmplt, hlane .fcmple, hlane .vsel, hlane .fdiv, hlane .fsqrt, hlane .cvtfi, hlane .cvtif⟩,
      ⟨hlane .iadd, hlane .isub, hlane .vand, hlane .vor, hlane .vxor, hlane .shli, hlane .shri, hlane .sari, hlane .vbcst,
        hlane .vidx, hlane .vrot, hlane .vsplat⟩,
      hlane .exp2, hlane .log2, hlane .rcp, hlane .rsqrt, hlane .tanh, hlane .erf, hlane .gumbel, hlane .norminv, hlane .rsum,
      hlane .rsumsq, hlane .rmax, hlane .rargmax⟩
  · intro lane res imm
    have hres : ∀ {op : VLaneOp}, lanewise op = true → res op = _ := fun hop => laneAt_lanewise hj x y z vext hop
    exact ⟨(hres rfl).trans (vLane_iadd ..), (hres rfl).trans (vLane_isub ..), (hres rfl).trans (vLane_vand ..),
      (hres rfl).trans (vLane_vor ..), (hres rfl).trans (vLane_vxor ..), (hres rfl).trans (vLane_shli ..),
      (hres rfl).trans (vLane_shri ..), (hres rfl).trans (vLane_sari ..), (hres rfl).trans (vLane_vbcst ..),
      (hres rfl).trans (vLane_vidx ..), laneAt_vrot hj x y z vext, laneAt_vsplat hj x y z vext, (hres rfl).trans (vLane_vsel ..),
      (hres rfl).trans (vLane_fabs ..), (hres rfl).trans (vLane_fneg ..)⟩

end Sys2Proof.Machine
end

section
/-! SUPPORT. The placement of the protected region, and O26 from it: a stripe's parity stack, its data stacks, and the place of a line
among them (10, R318). -/

namespace Sys2Proof.Machine

theorem nth_mem {l : List Nat} {i : Nat} (h : i < l.length) : nth l i ∈ l := by
  rw [nth, List.getD_eq_getElem _ _ h]
  exact List.getElem_mem h

/-- Elements of a list without repetitions are equal at the same position alone. -/
theorem nth_inj {l : List Nat} (hl : l.Nodup) {i j : Nat} (hi : i < l.length) (hj : j < l.length) (h : nth l i = nth l j) : i = j := by
  rw [nth, nth, List.getD_eq_getElem _ _ hi, List.getD_eq_getElem _ _ hj] at h
  exact (hl.getElem_inj_iff).1 h

/-- The stack that holds the parity granule of a stripe of a layout (10, R318). -/
def parityStack (live : List Nat) (t : Nat) : Nat := nth live (live.length - 1 - t % live.length)

/-- The stacks that hold the data granules of a stripe. -/
def dataStacks (live : List Nat) (t : Nat) : List Nat := live.filter (fun k => k != parityStack live t)

theorem mapProt_stack (live : List Nat) (base o : Nat) :
    (mapProt live base o).stack = nth (dataStacks live (o / 256 / (live.length - 1))) (o / 256 % (live.length - 1)) := rfl

theorem mapProt_addr (live : List Nat) (base o : Nat) :
    (mapProt live base o).addr = base + o / 256 / (live.length - 1) * 256 + o % 256 / 64 * 64 := rfl

section
variable {live : List Nat} (htwo : 2 ≤ live.length) (hnodup : live.Nodup)
include htwo

theorem parityStack_mem (t : Nat) : parityStack live t ∈ live := nth_mem (by omega)

include hnodup

/-- Of nl stacks, nl − 1 hold data granules of a stripe. -/
theorem length_dataStacks (t : Nat) : (dataStacks live t).length = live.length - 1 := by
  rw [dataStacks, ← hnodup.erase_eq_filter, List.length_erase_of_mem (parityStack_mem htwo t)]

theorem granule_lt (g t : Nat) : g % (live.length - 1) < (dataStacks live t).length := by
  rw [length_dataStacks htwo hnodup]
  exact Nat.mod_lt _ (by omega)

/-- A line lies on a data stack of its stripe. -/
theorem mapProt_stack_mem (base o : Nat) : (mapProt live base o).stack ∈ dataStacks live (o / 256 / (live.length - 1)) :=
  nth_mem (granule_lt htwo hnodup _ _)

theorem mapProt_stack_live (base o : Nat) : (mapProt live base o).stack ∈ live :=
  (List.mem_filter.1 (mapProt_stack_mem htwo hnodup base o)).1

theorem mapProt_stack_ne_parity (base o : Nat) :
    (mapProt live base o).stack ≠ parityStack live (o / 256 / (live.length - 1)) := by
  simpa using (List.mem_filter.1 (mapProt_stack_mem htwo hnodup base o)).2

/-- Lines of one stack address are lines of one stripe at one place of their granules, and then the stack tells the granule. -/
theorem mapProt_inj {base x y : Nat} (hx : 64 ∣ x) (hy : 64 ∣ y) (hstack : (mapProt live base x).stack = (mapProt live base y).stack)
    (haddr : (mapProt live base x).addr = (mapProt live base y).addr) : x = y := by
  rw [mapProt_addr, mapProt_addr] at haddr
  obtain ⟨hstripe, hline⟩ : x / 256 / (live.length - 1) = y / 256 / (live.length - 1) ∧ x % 256 / 64 = y % 256 / 64 := by omega
  have hgranule : x / 256 % (live.length - 1) = y / 256 % (live.length - 1) := by
    rw [mapProt_stack, mapProt_stack, hstripe] at hstack
    exact nth_inj (hnodup.filter _) (granule_lt htwo hnodup _ _) (granule_lt htwo hnodup _ _) hstack
  have hg : x / 256 = y / 256 := by
    rw [← Nat.div_add_mod (x / 256) (live.length - 1), ← Nat.div_add_mod (y / 256) (live.length - 1), hstripe, hgranule]
  omega

end

/-- Settles O26: a line lies on a data stack of its stripe, and its place tells its stripe, its granule and its line. -/
theorem hbmPlacement : Obligations.HbmPlacement := by
  unfold Obligations.HbmPlacement
  intro live base x y htwo _ hnodup _ hx hy
  refine ⟨fun hne => ?_, mapProt_stack_live htwo hnodup base x, ?_, rfl, mapProt_stack_ne_parity htwo hnodup base x⟩
  · by_contra hsame
    simp only [not_or, not_not] at hsame
    exact hne (mapProt_inj htwo hnodup hx hy hsame.1 hsame.2)
  · rw [mapProt_addr]
    omega

end Sys2Proof.Machine
end

section
/-! SUPPORT. A rebuild of a region so large that an offset in it runs over bit 47, which refutes O27 (10, R314, R334, R337). -/

namespace Sys2Proof.Machine

/-- The stripe that holds the first offsets of 2^47 bytes and more. -/
def overflowStripe : Nat := 91625968982

/-- An offset of the unprotected region, on stack 341 of its layout. -/
def aliasedOffset : Nat := 45812985088

/-- A partition that rebuilds stripe overflowStripe on stacks 0 to 6, with stack 7 failed. Its unprotected layout alternates between
stack 7 and a stack 341, and it holds one byte there. -/
def overflowPart : Partition :=
  { partReset with
    hbm := [(aliasedOffset, 1)],
    mem := { memRegsReset with
             p := 80000, live := [7, 341], prot := List.range 8, survivors := List.range 7, state := .rebuilding,
             ptr := overflowStripe + 1 } }

/-- A module with one partition, overflowPart, whose stack 7 has failed. -/
def overflowState : State :=
  { State.reset with
    boot := { bootReset with st := .ready, byFw := true, copy := fuseReset, planOn := true },
    tiers := { State.reset.tiers with hbmStacks := List.replicate 7 0 ++ [1] },
    parts := overflowPart :: List.replicate 11 partReset }

/-- An offset 2^47 + o with o of 2^47 and more is one of the unprotected region, where half of the stripe's lines fall on stack 7
and count as lost; their new places on the survivors are marked. The key of such a mark is that of a line of stack 341. -/
theorem aliasedLine_reads : hbmBytes overflowState 0 aliasedOffset 1 = [1] ∧
    hbmBytes (rebuildStripe overflowState 0) 0 aliasedOffset 1 = [0] := by decide +kernel

/-- Refutes O27: the clause on REBUILD_STRIPE bounds neither the size of the region nor the rebuild pointer, and the byte of
overflowPart reads as poison after the stripe is rebuilt. -/
theorem not_stackFailure : ¬ Obligations.StackFailure := by
  unfold Obligations.StackFailure
  rintro ⟨-, hrebuild, -⟩
  obtain ⟨t, hnext, -, -, -, -, hbytes⟩ := hrebuild overflowState 0 overflowStripe (by decide) rfl (by decide) rfl rfl rfl rfl
    (by decide) (by decide) rfl (by decide)
  have hrun : exec (.rebuildStripe 0) overflowState = .next (rebuildStripe overflowState 0) := rfl
  have ht : rebuildStripe overflowState 0 = t := by
    rw [hrun] at hnext
    injection hnext
  have hsame := hbytes aliasedOffset 1
  rw [← ht, aliasedLine_reads.1, aliasedLine_reads.2] at hsame
  exact absurd hsame (by decide)

end Sys2Proof.Machine
end

section
/-! SUPPORT. The directory of the coherent control space, and O28 from it: its list of lines after a change of one line, and what GETS,
GETM, PUTM and OWNER_RECALL make of a line (10, R344, R345). -/

namespace Sys2Proof.Machine

/-! ## The list of lines -/

theorem dirLine_num (s : State) (n : Nat) : (dirLine s n).num = n := by
  unfold dirLine
  cases h : s.tiers.lines.find? (fun d => d.num = n) with
  | none => rfl
  | some d => simpa using List.find?_some h

/-- The lines of a rising list but line n are those below it and those above it. -/
theorem filter_below_append_above {l : List DirLine} (h : l.Pairwise (fun a b => a.num < b.num)) (n : Nat) :
    l.filter (fun x => decide (x.num < n)) ++ l.filter (fun x => decide (n < x.num)) = l.filter (fun x => x.num != n) := by
  induction l with
  | nil => rfl
  | cons x t ih =>
    obtain ⟨hx, ht⟩ := List.pairwise_cons.1 h
    by_cases hlt : x.num < n
    · have hne : (x.num != n) = true := bne_iff_ne.2 (by omega)
      simp only [List.filter_cons, hlt, hne, decide_true, if_true, List.cons_append, ih ht,
        show ¬ n < x.num by omega, decide_false, Bool.false_eq_true, if_false]
    · have hbelow : t.filter (fun x => decide (x.num < n)) = [] := by
        simp only [List.filter_eq_nil_iff, decide_eq_true_eq]
        intro y hy
        have := hx y hy
        omega
      have habove : decide (n < x.num) = (x.num != n) := by
        rw [Bool.eq_iff_iff, decide_eq_true_eq, bne_iff_ne]
        omega
      have htail := ih ht
      rw [hbelow, List.nil_append] at htail
      simp only [List.filter_cons, hlt, decide_false, Bool.false_eq_true, if_false, hbelow, List.nil_append, habove, htail]

/-- A line as the directory shows it where it is not listed (10, R344). -/
def dirUnlisted (n : Nat) : DirLine :=
  { num := n, st := .inv, owner := 0, sharers := [], data := 0, favoured := none, since := 0, recalled := false }

theorem find?_num_of_ne {l : List DirLine} {n : Nat} (h : ∀ x ∈ l, x.num ≠ n) : l.find? (fun d => d.num = n) = none := by
  simpa only [List.find?_eq_none, decide_eq_true_eq] using h

/-- The line that was kept, or the view of an unlisted one. -/
theorem dirLine_setDir (s : State) (d : DirLine) (a : DirAns) :
    dirLine (setDir s d a) d.num = if dirIdle d then dirUnlisted d.num else d := by
  have hbelow : (s.tiers.lines.filter (fun x => decide (x.num < d.num))).find? (fun x => x.num = d.num) = none :=
    find?_num_of_ne fun x hx => Nat.ne_of_lt (by simpa using (List.mem_filter.1 hx).2)
  have habove : (s.tiers.lines.filter (fun x => decide (d.num < x.num))).find? (fun x => x.num = d.num) = none :=
    find?_num_of_ne fun x hx => Nat.ne_of_gt (by simpa using (List.mem_filter.1 hx).2)
  unfold dirLine setDir
  simp only [List.find?_append, hbelow, Option.none_or]
  split
  · rw [habove]; rfl
  · rw [List.find?_cons_of_pos (by simp)]; rfl

theorem otherLines_setDir {s : State} (hsorted : s.tiers.lines.Pairwise (fun a b => a.num < b.num)) (d : DirLine) (a : DirAns) :
    otherLines s (setDir s d a) d.num := by
  have hstays : (s.tiers.lines.filter (fun x => x.num != d.num)).filter (fun x => x.num != d.num) =
      s.tiers.lines.filter (fun x => x.num != d.num) := by
    rw [List.filter_filter]
    simp only [Bool.and_self]
  unfold otherLines setDir
  simp only [List.filter_append, apply_ite (List.filter (fun x : DirLine => x.num != d.num)), List.filter_cons, bne_self_eq_false,
    Bool.false_eq_true, if_false, ite_self]
  rw [← List.filter_append, filter_below_append_above hsorted, hstays]

/-! ## Answers -/

/-- A line that its owner holds in state E or M (10, R344). -/
def dirOwned (d : DirLine) : Bool := d.st = .excl || d.st = .modif

theorem dirBusy_eq (d : DirLine) (r : Nat) :
    dirBusy d r = ((dirOwned d && d.owner != r) || d.favoured.any (fun f => f != r)) := by
  unfold dirBusy dirOwned
  rw [Bool.or_comm]
  cases d.favoured <;> rfl

theorem mem_addSharer (l : List Nat) (r x : Nat) : x ∈ addSharer l r ↔ x = r ∨ x ∈ l := by
  simp only [addSharer, List.mem_append, List.mem_cons, List.mem_filter, decide_eq_true_eq]
  rcases Nat.lt_trichotomy x r with h | h | h
  · simp [h, Nat.ne_of_lt h, Nat.lt_asymm h]
  · simp [h]
  · simp [h, Nat.ne_of_gt h, Nat.lt_asymm h]

section
variable {s : State} (hsorted : s.tiers.lines.Pairwise (fun a b => a.num < b.num)) {n r : Nat} {d : DirLine} (hnum : d.num = n)
include hsorted hnum

/-- What a RETRY leaves: the oldest retried requester is favoured (10, R345). -/
theorem dirRetry_leaves :
    dirAnswers s (dirRetry s d r) n r true ∧ otherLines s (dirRetry s d r) n ∧
      dirLine (dirRetry s d r) n = { d with favoured := some (d.favoured.getD r) } := by
  subst hnum
  refine ⟨⟨rfl, rfl⟩, otherLines_setDir hsorted { d with favoured := some (d.favoured.getD r) } _, ?_⟩
  have hkept : dirIdle { d with favoured := some (d.favoured.getD r) } = false := by simp [dirIdle]
  exact (dirLine_setDir s { d with favoured := some (d.favoured.getD r) } _).trans (by rw [hkept]; rfl)

/-- What a grant of a line leaves that is not invalid afterwards (10, R344, R345). -/
theorem dirGrant_leaves (hdata : d.data = (dirLine s n).data) (hst : d.st ≠ .inv) :
    dirAnswers s (dirGrant s d r) n r false ∧ otherLines s (dirGrant s d r) n ∧
      dirLine (dirGrant s d r) n = { d with favoured := if d.favoured = some r then none else d.favoured } := by
  subst hnum
  refine ⟨⟨by rw [← hdata]; rfl, rfl⟩,
    otherLines_setDir hsorted { d with favoured := if d.favoured = some r then none else d.favoured } _, ?_⟩
  have hkept : dirIdle { d with favoured := if d.favoured = some r then none else d.favoured } = false := by simp [dirIdle, hst]
  exact (dirLine_setDir s { d with favoured := if d.favoured = some r then none else d.favoured } _).trans (by rw [hkept]; rfl)

end

/-- A grant to a requester that nobody else is favoured before leaves no favoured one. -/
theorem favoured_granted {d : DirLine} {r : Nat} (h : d.favoured.any (fun f => f != r) = false) :
    (if d.favoured = some r then none else d.favoured) = none := by
  cases hf : d.favoured with
  | none => rfl
  | some f =>
    have hfr : f = r := by simpa [hf] using h
    rw [hfr, if_pos rfl]

/-! ## The commands -/

/-- A line that one requester more shares. -/
def dirShared (d : DirLine) (r : Nat) : DirLine := { d with st := .shared, sharers := addSharer d.sharers r }

/-- A line that a requester has taken at a time of FCLK. -/
def dirTaken (d : DirLine) (r since : Nat) : DirLine :=
  { d with st := .modif, owner := r, sharers := [], since := since, recalled := false }

/-- A line that its owner has written back. -/
def dirWritten (d : DirLine) (data : Word512) : DirLine :=
  { d with st := .inv, owner := 0, data := data, since := 0, recalled := false }

section
variable {s : State} {line : BitVec 15} {req : BitVec 5} (hreq : req.toNat < 4 ∨ 16 ≤ req.toNat)

theorem dirReq_of (hreq : req.toNat < 4 ∨ 16 ≤ req.toNat) : dirReq req.toNat = true := by
  have := req.isLt
  simp only [dirReq, Bool.or_eq_true, Bool.and_eq_true, decide_eq_true_eq]
  omega

include hreq

theorem exec_gets_busy (h : dirBusy (dirLine s line.toNat) req.toNat = true) (fclk : Word64) :
    exec (.gets line req fclk) s = .next (dirRetry s (dirLine s line.toNat) req.toNat) := by
  change onUnit _ (if _ then _ else _) = _
  rw [onUnit_of_true (dirReq_of hreq), if_pos h]

theorem exec_getm_busy (h : dirBusy (dirLine s line.toNat) req.toNat = true) (fclk : Word64) :
    exec (.getm line req fclk) s = .next (dirRetry s (dirLine s line.toNat) req.toNat) := by
  change onUnit _ (if _ then _ else _) = _
  rw [onUnit_of_true (dirReq_of hreq), if_pos h]

section
variable (hfree : dirBusy (dirLine s line.toNat) req.toNat = false) (hown : dirOwned (dirLine s line.toNat) = false)
include hfree hown

theorem exec_gets_free (fclk : Word64) :
    exec (.gets line req fclk) s = .next (dirGrant s (dirShared (dirLine s line.toNat) req.toNat) req.toNat) := by
  change onUnit _ (if _ then _ else if dirOwned (dirLine s line.toNat) then _ else _) = _
  rw [onUnit_of_true (dirReq_of hreq), hfree, hown]
  rfl

theorem exec_getm_free (fclk : Word64) :
    exec (.getm line req fclk) s = .next (dirGrant s (dirTaken (dirLine s line.toNat) req.toNat fclk.toNat) req.toNat) := by
  change onUnit _ (if _ then _ else if dirOwned (dirLine s line.toNat) then _ else _) = _
  rw [onUnit_of_true (dirReq_of hreq), hfree, hown]
  rfl

end

theorem exec_putm_owner (hown : dirOwned (dirLine s line.toNat) = true) (howner : (dirLine s line.toNat).owner = req.toNat)
    (data : Word512) :
    exec (.putm line req data) s = .next (setDir s (dirWritten (dirLine s line.toNat) data)
      { line := (dirLine s line.toNat).num, req := req.toNat, retry := false, data := data }) := by
  change onUnit _ (if dirOwned (dirLine s line.toNat) && decide ((dirLine s line.toNat).owner = req.toNat) then _ else _) = _
  rw [onUnit_of_true (dirReq_of hreq), hown, decide_eq_true howner]
  rfl

end

/-- An invalid line shows what was written back, listed or not (10, R344). -/
theorem dirLine_setDir_inv (s : State) {d : DirLine} (hst : d.st = .inv) (a : DirAns) :
    (dirLine (setDir s d a) d.num).st = .inv ∧ (dirLine (setDir s d a) d.num).data = d.data ∧
      (dirLine (setDir s d a) d.num).favoured = d.favoured := by
  rw [dirLine_setDir]
  split
  · rename_i hidle
    simp only [dirIdle, hst, decide_true, Bool.true_and, Bool.and_eq_true, decide_eq_true_eq, Option.isNone_iff_eq_none] at hidle
    exact ⟨rfl, hidle.1.symm, hidle.2.symm⟩
  · exact ⟨hst, rfl, rfl⟩

/-- The lines after a recall of line n. -/
def recallLine (n : Nat) (x : DirLine) : DirLine := if x.num = n then { x with recalled := true } else x

theorem recallLine_num (n : Nat) (x : DirLine) : (recallLine n x).num = x.num := by
  unfold recallLine
  split <;> rfl

/-- A listed owned line that others wait for is recalled 16 FCLK after its owner took it (10, R345). -/
theorem exec_ownerRecall_due {s : State} {line : BitVec 15} {fclk : Word64} (hown : dirOwned (dirLine s line.toNat) = true)
    (hfav : (dirLine s line.toNat).favoured ≠ none) (hnot : (dirLine s line.toNat).recalled = false)
    (hdue : (dirLine s line.toNat).since + 16 ≤ fclk.toNat) :
    exec (.ownerRecall line fclk) s =
      .next { s with tiers := { s.tiers with lines := s.tiers.lines.map (recallLine line.toNat) } } := by
  change Host.Outcome.next (if dirOwned (dirLine s line.toNat) && _ && _ && _ then _ else _) = _
  rw [hown, Option.isSome_iff_ne_none.2 hfav, decide_eq_true hdue, hnot, dirLine_num]
  rfl

theorem dirLine_recalled {s : State} {n : Nat} (hmem : dirLine s n ∈ s.tiers.lines) :
    dirLine { s with tiers := { s.tiers with lines := s.tiers.lines.map (recallLine n) } } n =
      { dirLine s n with recalled := true } := by
  have hfound : ∃ d, s.tiers.lines.find? (fun d => d.num = n) = some d := by
    rw [← Option.isSome_iff_exists, List.find?_isSome]
    exact ⟨_, hmem, by simp [dirLine_num]⟩
  obtain ⟨d, hd⟩ := hfound
  have hnum : d.num = n := by simpa using List.find?_some hd
  have hnew : (s.tiers.lines.map (recallLine n)).find? (fun d => d.num = n) = some (recallLine n d) := by
    rw [List.find?_map]
    simp only [Function.comp_def, recallLine_num, hd, Option.map_some]
  unfold dirLine
  simp only [hd, hnew, Option.getD_some]
  rw [recallLine, if_pos hnum]

theorem otherLines_recalled (s : State) (n : Nat) :
    otherLines s { s with tiers := { s.tiers with lines := s.tiers.lines.map (recallLine n) } } n := by
  unfold otherLines
  simp only [List.filter_map, Function.comp_def, recallLine_num]
  refine (List.map_congr_left fun x hx => ?_).trans (List.map_id _)
  rw [recallLine, if_neg (by simpa using (List.mem_filter.1 hx).2)]
  rfl

/-- Settles O28: each command by its equation, and the directory by what the change of one line leaves. -/
theorem coherentLines : Obligations.CoherentLines := by
  unfold Obligations.CoherentLines
  intro s line req hreq hsorted _ n r d owned elsewhere
  have hnum : d.num = n := dirLine_num s n
  have hbusy : dirBusy d r = elsewhere := dirBusy_eq d r
  refine ⟨fun helse fclk => ?_, fun helse hown fclk => ?_, fun hown howner data => ?_, fun hown hfav hnot hmem fclk hdue => ?_⟩
  · exact ⟨⟨_, exec_gets_busy hreq (hbusy.trans helse) fclk, dirRetry_leaves hsorted hnum⟩,
      ⟨_, exec_getm_busy hreq (hbusy.trans helse) fclk, dirRetry_leaves hsorted hnum⟩⟩
  · have hfav : d.favoured.any (fun f => f != r) = false := (Bool.or_eq_false_iff.1 helse).2
    constructor
    · obtain ⟨hans, hother, hline⟩ := dirGrant_leaves hsorted (d := dirShared d r) (r := r) hnum rfl nofun
      refine ⟨_, exec_gets_free hreq (hbusy.trans helse) hown fclk, hans, hother, ?_⟩
      rw [hline]
      exact ⟨rfl, fun x _ => mem_addSharer d.sharers r x, rfl, favoured_granted hfav⟩
    · obtain ⟨hans, hother, hline⟩ := dirGrant_leaves hsorted (d := dirTaken d r fclk.toNat) (r := r) hnum rfl nofun
      refine ⟨_, exec_getm_free hreq (hbusy.trans helse) hown fclk, hans, hother, ?_⟩
      rw [hline]
      exact ⟨rfl, rfl, rfl, rfl, rfl⟩
  · refine ⟨_, exec_putm_owner hreq hown howner data, ?_⟩
    have hother := otherLines_setDir hsorted (dirWritten d data) { line := d.num, req := r, retry := false, data := data }
    obtain ⟨hst, hdata, hfav⟩ := dirLine_setDir_inv s (d := dirWritten d data) rfl
      { line := d.num, req := r, retry := false, data := data }
    rw [← hnum]
    exact ⟨hother, hst, hdata, hfav, rfl⟩
  · exact ⟨_, exec_ownerRecall_due hown hfav hnot hdue, otherLines_recalled s n, dirLine_recalled hmem⟩

end Sys2Proof.Machine
end

section
/-! SUPPORT. A write to a slice while nothing is poisoned and no stack has failed: its bytes by 64-byte lines, and what stands; O29 from
it (10, R321, R324; 17, R556). -/

namespace Sys2Proof.Machine

/-! ## Bytes written line by line -/

theorem memGet_memWrite {w : Nat} (m : Mem w) (a : Nat) (d : List (BitVec w)) (x : Nat) :
    memGet (memWrite m a d) x = if a ≤ x ∧ x < a + d.length then d.getD (x - a) 0 else memGet m x := by
  split
  · next h =>
    obtain ⟨i, rfl⟩ := Nat.exists_eq_add_of_le h.1
    have hi : i < d.length := by omega
    rw [memGet_memWrite_in m a d i hi, Nat.add_sub_cancel_left, List.getD_eq_getElem _ _ hi]
  · next h => exact memGet_memWrite_out m a d x (by omega)

/-- A space after some pieces of a run of bytes have been written, each given by its address and its bytes. -/
def writePieces (m : Mem 8) (l : List (Nat × List Byte)) : Mem 8 := l.foldl (fun m e => memWrite m e.1 e.2) m

/-- Is a piece the bytes that d, written at off, has at its addresses. -/
def pieceOf (off : Nat) (d : List Byte) (e : Nat × List Byte) : Prop :=
  ∀ x, e.1 ≤ x → x < e.1 + e.2.length → e.2.getD (x - e.1) 0 = d.getD (x - off) 0

/-- Pieces of d that cover an address leave the byte of d there, others leave what stood. -/
theorem memGet_writePieces {off : Nat} {d : List Byte} {l : List (Nat × List Byte)} (h : ∀ e ∈ l, pieceOf off d e) (m : Mem 8)
    (x : Nat) :
    memGet (writePieces m l) x =
      if ∃ e ∈ l, e.1 ≤ x ∧ x < e.1 + e.2.length then d.getD (x - off) 0 else memGet m x := by
  induction l generalizing m with
  | nil => simp [writePieces]
  | cons e l ih =>
    change memGet (writePieces (memWrite m e.1 e.2) l) x = _
    rw [ih (fun y hy => h y (List.mem_cons_of_mem _ hy)), memGet_memWrite]
    by_cases hl : ∃ y ∈ l, y.1 ≤ x ∧ x < y.1 + y.2.length
    · obtain ⟨y, hy, hin⟩ := hl
      rw [if_pos ⟨y, hy, hin⟩, if_pos ⟨y, List.mem_cons_of_mem _ hy, hin⟩]
    · by_cases he : e.1 ≤ x ∧ x < e.1 + e.2.length
      · rw [if_neg hl, if_pos he, if_pos ⟨e, List.mem_cons_self, he⟩]
        exact h e List.mem_cons_self x he.1 he.2
      · rw [if_neg hl, if_neg he, if_neg]
        rintro ⟨y, hy, hin⟩
        rcases List.mem_cons.1 hy with rfl | hy
        · exact he hin
        · exact hl ⟨y, hy, hin⟩

/-- The part of a write that falls in the line at l. -/
def segmentAt (off : Nat) (d : List Byte) (l : Nat) : Nat × Nat × List Byte :=
  (l, max l off - l, (d.drop (max l off - off)).take (l + 64 - max l off))

/-- Address and bytes of a segment. -/
def segPiece (seg : Nat × Nat × List Byte) : Nat × List Byte := (seg.1 + seg.2.1, seg.2.2)

theorem segments_eq (off : Nat) (d : List Byte) : segments off d = (hbmLines off d.length).map (segmentAt off d) := rfl

theorem segPiece_segmentAt (off : Nat) (d : List Byte) (l : Nat) :
    segPiece (segmentAt off d l) = (max l off, (d.drop (max l off - off)).take (l + 64 - max l off)) := by
  simp only [segPiece, segmentAt, Prod.mk.injEq, and_true]
  omega

theorem pieceOf_segmentAt (off : Nat) (d : List Byte) (l : Nat) : pieceOf off d (segPiece (segmentAt off d l)) := by
  rw [segPiece_segmentAt]
  intro x hlo hhi
  simp only [List.length_take, List.length_drop] at hlo hhi
  rw [List.getD_eq_getElem?_getD, List.getD_eq_getElem?_getD, List.getElem?_take_of_lt (by omega), List.getElem?_drop,
    show max l off - off + (x - max l off) = x - off by omega]

/-- The segments of a write cover its bytes and nothing else. -/
theorem segments_cover (off : Nat) (d : List Byte) (x : Nat) :
    (∃ e ∈ (segments off d).map segPiece, e.1 ≤ x ∧ x < e.1 + e.2.length) ↔ off ≤ x ∧ x < off + d.length := by
  simp only [segments_eq, List.map_map, List.mem_map, Function.comp_apply, segPiece_segmentAt]
  constructor
  · rintro ⟨-, ⟨l, -, rfl⟩, hlo, hhi⟩
    simp only [List.length_take, List.length_drop] at hlo hhi
    omega
  · rintro ⟨hlo, hhi⟩
    refine ⟨_, ⟨x / 64 * 64, ?_, rfl⟩, ?_⟩
    · rw [hbmLines, if_neg (by omega), List.mem_map]
      exact ⟨x / 64 - off / 64, List.mem_range.2 (by omega), by omega⟩
    · simp only [List.length_take, List.length_drop]
      omega

/-- A run of bytes after a write by segments, byte by byte. -/
theorem memGet_writeSegments (m : Mem 8) (off : Nat) (d : List Byte) (x : Nat) :
    memGet (writePieces m ((segments off d).map segPiece)) x =
      if off ≤ x ∧ x < off + d.length then d.getD (x - off) 0 else memGet m x := by
  have hpieces : ∀ e ∈ (segments off d).map segPiece, pieceOf off d e := by
    intro e he
    simp only [segments_eq, List.map_map, List.mem_map, Function.comp_apply] at he
    obtain ⟨l, -, rfl⟩ := he
    exact pieceOf_segmentAt off d l
  simp only [memGet_writePieces hpieces, segments_cover]

/-! ## A write that is not committed -/

/-- A partition after one segment of a write that is not committed. -/
def quietSeg (q : Partition) (seg : Nat × Nat × List Byte) : Partition :=
  { cowLine q seg.1 with hbm := memWrite (cowLine q seg.1).hbm (seg.1 + seg.2.1) seg.2.2 }

theorem cowLine_eq (q : Partition) (line : Nat) : cowLine q line = { q with ck := (cowLine q line).ck } := by
  unfold cowLine
  cases q.ck.stream with
  | none => rfl
  | some c =>
    simp only []
    split <;> rfl

/-- Apart from the copies of an open cut, a write that is not committed changes the bytes of the slice alone (10, R324). -/
theorem foldl_quietSeg (q : Partition) (l : List (Nat × Nat × List Byte)) :
    ∃ ck, l.foldl quietSeg q = { q with ck := ck, hbm := writePieces q.hbm (l.map segPiece) } := by
  induction l generalizing q with
  | nil => exact ⟨q.ck, rfl⟩
  | cons seg l ih =>
    obtain ⟨ck, hck⟩ := ih (quietSeg q seg)
    refine ⟨ck, ?_⟩
    rw [List.foldl_cons, hck, quietSeg, cowLine_eq]
    rfl

theorem storeSeg_clean {s : State} (h : tierClean s = true) (p : Nat) (seg : Nat × Nat × List Byte) :
    storeSeg s p seg = withPart s p (fun q => { q with hbm := memWrite q.hbm (seg.1 + seg.2.1) seg.2.2 }) := by
  unfold storeSeg
  simp only [h, if_true]

/-- A write that is not committed, while nothing is poisoned and no stack has failed (10, R324). -/
theorem hbmStore_quiet_clean {s : State} (h : tierClean s = true) (p off : Nat) (d : List Byte) :
    hbmStore .quiet s p off d = withPart s p (fun q => (segments off d).foldl quietSeg q) := by
  unfold hbmStore
  generalize segments off d = l
  induction l generalizing s with
  | nil => exact (withPart_id s p).symm
  | cons seg l ih =>
    have hone : storeSeg (withPart s p (fun q => cowLine q seg.1)) p seg = withPart s p (fun q => quietSeg q seg) := by
      rw [storeSeg_clean (by exact h), withPart_withPart]
      rfl
    rw [List.foldl_cons]
    refine (congrArg (List.foldl _ · l) hone).trans ?_
    rw [ih (by exact h), withPart_withPart]
    rfl

theorem hbmBytes_clean {s : State} (h : tierClean s = true) (p off n : Nat) : hbmBytes s p off n = memRead (part s p).hbm off n := by
  unfold hbmBytes hbmBad
  rw [if_pos h]

/-! ## The aperture -/

/-- A range of at least one byte that the host may reach lies in one of the twelve partitions. -/
theorem lt_of_apertureOk {s : State} (hs : s.parts.length = 12) {p off n : Nat} (hn : 1 ≤ n) (h : apertureOk s p off n = true) :
    p < 12 := by
  by_contra hp
  have habsent : part s p = partReset := List.getD_eq_default _ _ (by omega)
  have hregion : regionBytes partReset off = 0 := by
    unfold regionBytes
    split <;> rfl
  simp only [apertureOk, inSlice, habsent, hregion, Bool.and_eq_true, decide_eq_true_eq] at h
  omega

theorem bar4Write_asked {bar off : Nat} {d : List Byte} (hin : off + d.length ≤ 2 ^ bar) (hd : d ≠ []) :
    ¬ (2 ^ bar < off + d.length || d.isEmpty) = true := by
  simp only [Bool.or_eq_true, decide_eq_true_eq, List.isEmpty_iff, not_or]
  exact ⟨by omega, hd⟩

theorem bar4Read_asked {bar off n : Nat} (hin : off + n ≤ 2 ^ bar) (hn : 1 ≤ n) (hmax : n ≤ 4096) :
    ¬ (2 ^ bar < off + n || n = 0 || 4096 < n) = true := by
  simp only [Bool.or_eq_true, decide_eq_true_eq, not_or]
  omega

section
variable {s : State} {fn : Nat} (hfn : fn < 13) {off : Word64}
include hfn

section
variable {d : List Byte} (hin : off.toNat + d.length ≤ 2 ^ s.host.bar4) (hd : d ≠ [])
include hin hd

theorem exec_bar4Write_ok (h : apertureOk s (aperture s fn off.toNat).1 (aperture s fn off.toNat).2 d.length = true) :
    exec (.bar4Write fn off d) s =
      .next (hbmStore .quiet s (aperture s fn off.toNat).1 (aperture s fn off.toNat).2 d) := by
  change onUnit _ (bar4Write s fn off.toNat d) = _
  rw [onUnit_of_true (decide_eq_true hfn), bar4Write, if_neg (bar4Write_asked hin hd), if_neg (by simp [h])]

theorem exec_bar4Write_refused (h : apertureOk s (aperture s fn off.toNat).1 (aperture s fn off.toNat).2 d.length = false)
    (hp : (aperture s fn off.toNat).1 < 12) :
    exec (.bar4Write fn off d) s = .next (rejectAccess s (aperture s fn off.toNat).1) := by
  change onUnit _ (bar4Write s fn off.toNat d) = _
  rw [onUnit_of_true (decide_eq_true hfn), bar4Write, if_neg (bar4Write_asked hin hd), if_pos (by simp [h]), apertureRefuse,
    if_pos hp]

end

section
variable {n : BitVec 13} (hin : off.toNat + n.toNat ≤ 2 ^ s.host.bar4) (hn : 1 ≤ n.toNat) (hmax : n.toNat ≤ 4096)
include hin hn hmax

theorem exec_bar4Read_ok (h : apertureOk s (aperture s fn off.toNat).1 (aperture s fn off.toNat).2 n.toNat = true)
    (hclean : tierClean s = true) :
    exec (.bar4Read fn off n) s = .next { s with host := { s.host with
      lastRead := some (.data (memRead (part s (aperture s fn off.toNat).1).hbm (aperture s fn off.toNat).2 n.toNat)) } } := by
  change onUnit _ (bar4Read s fn off.toNat n.toNat) = _
  have hbad : hbmBad s (aperture s fn off.toNat).1 (aperture s fn off.toNat).2 n.toNat = [] := by rw [hbmBad, if_pos hclean]
  rw [onUnit_of_true (decide_eq_true hfn), bar4Read, if_neg (bar4Read_asked hin hn hmax), if_neg (by simp [h])]
  simp only [hbad, hbmBytes_clean hclean, countPoisonRead, List.length_nil, List.isEmpty_nil, if_true]

theorem exec_bar4Read_refused (h : apertureOk s (aperture s fn off.toNat).1 (aperture s fn off.toNat).2 n.toNat = false)
    (hp : (aperture s fn off.toNat).1 < 12) :
    exec (.bar4Read fn off n) s = .next { rejectAccess s (aperture s fn off.toNat).1 with
      host := { (rejectAccess s (aperture s fn off.toNat).1).host with lastRead := some .abort } } := by
  change onUnit _ (bar4Read s fn off.toNat n.toNat) = _
  rw [onUnit_of_true (decide_eq_true hfn), bar4Read, if_neg (bar4Read_asked hin hn hmax), if_pos (by simp [h]), apertureRefuse,
    if_pos hp]

end
end

/-- A rejected access of a partition is counted there (10, R342). -/
theorem part_rejectAccess {s : State} {p : Nat} (hp : p < s.parts.length) :
    part (rejectAccess s p) p = { part s p with mem := { (part s p).mem with reject := satInc (part s p).mem.reject 1 } } := by
  rw [rejectAccess, part_sendEvent, withMem, part_withPart _ _ _ hp]

/-- Settles O29: an access that the aperture admits is one write or read of the slice, and one that it refuses is counted. -/
theorem hostAperture : Obligations.HostAperture := by
  unfold Obligations.HostAperture
  intro s fn off d n hfn hs hd hn hne hone hmax p at_
  refine ⟨fun hok hclean => ?_, fun hok hclean => exec_bar4Read_ok hfn hn hone hmax hok hclean, fun hp hno => ?_, fun hp hno => ?_⟩
  · have hlt : p < s.parts.length := by
      rw [hs]
      exact lt_of_apertureOk hs (List.length_pos_iff.2 hne) hok
    obtain ⟨ck, hck⟩ := foldl_quietSeg (part s p) (segments at_ d)
    refine ⟨_, exec_bar4Write_ok hfn hd hne hok, ?_⟩
    rw [hbmStore_quiet_clean hclean, part_withPart _ _ _ hlt, hck]
    exact ⟨rfl, fun k _ hk => part_withPart_ne s p k _ hk.symm, memGet_writeSegments _ at_ d⟩
  · refine ⟨_, exec_bar4Write_refused hfn hd hne hno hp, ?_⟩
    rw [part_rejectAccess (by omega)]
    exact ⟨rfl, rfl⟩
  · refine ⟨_, exec_bar4Read_refused hfn hn hone hmax hno hp, ?_, rfl⟩
    exact congrArg (fun q : Partition => q.mem.reject) (part_rejectAccess (by omega))

end Sys2Proof.Machine
end

section
/-! SUPPORT. What the ports keep of the flits that came: a flit that goes out, an event, a replay and the end of a job change nothing of it
(12, R393, R395, R417). -/

namespace Sys2Proof.Machine

/-! ## What a port has received -/

/-- What a link keeps of the flits that came: the sequence number expected, whether a NAK was sent, and the credits freed. -/
def linkRx (l : Link) : Nat × Bool × List Nat := (l.rxSeq, l.nakSent, l.freed)

/-- What a port keeps of them, and whether it runs split. -/
def portRx (x : LkPort) : Word64 × Bool × (Nat × Bool × List Nat) × (Nat × Bool × List Nat) :=
  (x.rx, x.splitAct, linkRx x.a, linkRx x.b)

/-- What the module's ports have received. -/
def received (s : State) : List (Word64 × Bool × (Nat × Bool × List Nat) × (Nat × Bool × List Nat)) := s.ports.map portRx

theorem map_updAt_of_eq {α β : Type} (g : α → β) (l : List α) (n : Nat) (f : α → α) (d : α)
    (h : g (f (l.getD n d)) = g (l.getD n d)) :
    (updAt l n f).map g = l.map g := by
  induction l generalizing n with
  | nil => rfl
  | cons x t ih =>
    cases n with
    | zero => exact congrArg (· :: t.map g) h
    | succ n => exact congrArg (g x :: ·) (ih n h)

theorem received_withPort {s : State} {k : Nat} {f : LkPort → LkPort} (h : portRx (f (portAt s k)) = portRx (portAt s k)) :
    received (withPort s k f) = received s := map_updAt_of_eq portRx s.ports k f lkPortReset h

theorem received_withLink {s : State} {k : Nat} {half : Bool} {f : Link → Link}
    (h : linkRx (f (linkAt s k half)) = linkRx (linkAt s k half)) : received (withLink s k half f) = received s := by
  apply received_withPort
  cases half
  · exact congrArg (fun x => ((portAt s k).rx, (portAt s k).splitAct, x, linkRx (portAt s k).b)) h
  · exact congrArg (fun x => ((portAt s k).rx, (portAt s k).splitAct, linkRx (portAt s k).a, x)) h

theorem received_of_ports {s t : State} (h : t.ports = s.ports) : received t = received s := congrArg (List.map portRx) h

theorem received_withPart (s : State) (p : Nat) (f : Partition → Partition) : received (withPart s p f) = received s :=
  received_of_ports rfl

theorem received_withLk (s : State) (p : Nat) (f : LkRegs → LkRegs) : received (withLk s p f) = received s := received_withPart ..

/-- A port as it was received from, in two states whose ports have received the same. -/
theorem portRx_of_received {s t : State} (h : received t = received s) (k : Nat) : portRx (portAt t k) = portRx (portAt s k) := by
  have hport : ∀ u : State, portRx (portAt u k) = (received u).getD k (portRx lkPortReset) := fun u =>
    (List.getD_map u.ports lkPortReset portRx).symm
  rw [hport, hport, h]

theorem linkRx_of_received {s t : State} (h : received t = received s) (k : Nat) (half : Bool) :
    linkRx (linkAt t k half) = linkRx (linkAt s k half) := by
  have hport := portRx_of_received h k
  simp only [portRx, Prod.mk.injEq] at hport
  cases half
  · exact hport.2.2.1
  · exact hport.2.2.2

/-! ## Flits that go out -/

theorem stampFlit_rx (l : Link) (f : Flit) : linkRx (stampFlit l f).2 = linkRx l := by
  unfold stampFlit
  simp only []
  split <;> rfl

theorem drainLink_rx (fuel : Nat) (l : Link) (n : Nat) : linkRx (drainLink fuel l n).1 = linkRx l := by
  induction fuel generalizing l n with
  | zero => rfl
  | succ fuel ih =>
    rw [drainLink]
    cases nextFlit l with
    | none => rfl
    | some i => exact (ih _ _).trans (stampFlit_rx l _)

theorem received_pumpLink (s : State) (k : Nat) (half : Bool) : received (pumpLink s k half) = received s := by
  unfold pumpLink
  rw [received_withPort (by rfl), received_withLink (drainLink_rx _ _ _)]

theorem received_queueFlit (s : State) (k : Nat) (half : Bool) (f : Flit) : received (queueFlit s k half f) = received s := by
  unfold queueFlit
  rw [received_pumpLink, received_withLink (by rfl)]

theorem received_controlFlit (s : State) (k : Nat) (half : Bool) (ltype : Nat) (d : List Byte) :
    received (controlFlit s k half ltype d) = received s := received_withLink (stampFlit_rx _ _)

theorem received_routeAs (s : State) (p r epoch : Nat) (f : Flit) : received (routeAs s p r epoch f) = received s := by
  unfold routeAs
  simp only []
  split
  · rfl
  · exact received_queueFlit ..

theorem received_sendDown (s : State) (p kind step attempt : Nat) (d : List Byte) :
    received (sendDown s p kind step attempt d) = received s :=
  foldl_keeps received _ _ s fun _ _ => received_routeAs ..

/-! ## Events, the end of a job, a replay -/

/-- A choice between two states with the same ports. -/
theorem ports_ite {c : Prop} [Decidable c] {a b s : State} (ha : a.ports = s.ports) (hb : b.ports = s.ports) :
    (if c then a else b).ports = s.ports := by split <;> assumption

theorem raiseVector_ports (s : State) (k v : Nat) : (raiseVector s k v).ports = s.ports := ports_ite rfl rfl

theorem ringEvent_ports (k : Nat) (e : EvRec) (s : State) : (ringEvent k e s).ports = s.ports :=
  ports_ite rfl (raiseVector_ports ..)

theorem hostEvent_ports (s : State) (e : EvRec) : (hostEvent s e).ports = s.ports :=
  foldl_keeps State.ports _ _ s fun _ _ => ports_ite (ringEvent_ports ..) rfl

/-- An event leaves the ports as they are (15, R525). -/
@[simp] theorem sendEvent_ports (s : State) (src : EvSrc) (p code detail : Nat) : (sendEvent s src p code detail).ports = s.ports := by
  have hmgmt : ∀ (t : State) (e : EvRec), (mgmtEvent t e).ports = t.ports := fun t e => ports_ite rfl (ports_ite rfl rfl)
  have hlife : ∀ (t : State) (e : EvRec), (lifeEvent t e).ports = t.ports := fun t e => ports_ite rfl rfl
  unfold sendEvent
  simp only [hlife, hmgmt]
  exact ports_ite (hostEvent_ports ..) rfl

theorem stepDone_ports (s : State) (k : Nat) (e : StepEntry) (status attempts : Nat) :
    (stepDone s k e status attempts).ports = s.ports := by
  unfold stepDone
  split
  · rfl
  · exact ports_ite rfl (ports_ite (raiseVector_ports ..) rfl)

theorem flushCtx_ports (s : State) (k status : Nat) : (flushCtx s k status).ports = s.ports :=
  foldl_keeps State.ports _ _ _ fun _ _ => stepDone_ports ..

theorem twJobEnd_ports (s : State) (p : Nat) : (twJobEnd s p).ports = s.ports := by
  unfold twJobEnd
  cases htw : s.faults.tw with
  | none => rfl
  | some w =>
    simp only []
    split
    · rfl
    · cases w.phase <;> simp only [twReturn, twDone, htw]

/-- The end of a job leaves the ports as they are (17, R571). -/
theorem jobEnd_ports (s : State) (p cause status : Nat) : (jobEnd s p cause status).ports = s.ports := by
  unfold jobEnd
  simp only []
  split
  · rfl
  · change (twJobEnd (List.foldl _ _ _) p).ports = _
    rw [twJobEnd_ports, foldl_keeps State.ports _ _ _ fun _ _ => flushCtx_ports ..]
    cases (part s p).current with
    | none => exact sendEvent_ports ..
    | some x => exact ports_ite (sendEvent_ports ..) ((stepDone_ports ..).trans (sendEvent_ports ..))

theorem faultEnd_ports (s : State) (src : EvSrc) (p code detail : Nat) : (faultEnd s src p code detail).ports = s.ports :=
  ports_ite rfl ((jobEnd_ports ..).trans (sendEvent_ports ..))

theorem noteUnreplayable_ports (s : State) (p : Nat) : (noteUnreplayable s p).ports = s.ports :=
  ports_ite rfl (ports_ite rfl (sendEvent_ports ..))

theorem takeReplay_ports (s : State) (p : Nat) : (takeReplay s p).ports = s.ports := by
  unfold takeReplay
  simp only []
  split
  · rfl
  · split
    · rw [faultEnd_ports, noteUnreplayable_ports]
    · exact noteUnreplayable_ports s p

/-- A request for a replay takes nothing from what the ports have received (15, R489, R496). -/
theorem received_requestReplay (s : State) (p : Nat) : received (requestReplay s p) = received s := by
  unfold requestReplay
  simp only []
  split
  · rfl
  · split
    · rfl
    · split
      · exact received_of_ports (takeReplay_ports s p)
      · split
        · rw [received_of_ports (takeReplay_ports _ p), received_sendDown]
        · split
          · exact received_of_ports ((faultEnd_ports ..).trans (noteUnreplayable_ports ..))
          · exact (received_routeAs ..).trans (received_of_ports (noteUnreplayable_ports ..))

end Sys2Proof.Machine
end


section
/-! SUPPORT. A message that comes in order to its destination: what the port does with its flit, and the state that the unit of its type
begins from (12, R387 to R405). -/

namespace Sys2Proof.Machine

/-! ## Ports and links after a change -/

theorem portAt_withPort {s : State} {k : Nat} (h : k < s.ports.length) (f : LkPort → LkPort) :
    portAt (withPort s k f) k = f (portAt s k) := by
  unfold portAt withPort
  rw [updAt_getD, if_pos ⟨rfl, h⟩]

/-- A port after a change of one: changed, or as it was. -/
theorem portAt_withPort_cases (s : State) (k : Nat) (f : LkPort → LkPort) (n : Nat) :
    portAt (withPort s k f) n = f (portAt s n) ∨ portAt (withPort s k f) n = portAt s n := by
  unfold portAt withPort
  rw [updAt_getD]
  split
  · exact .inl rfl
  · exact .inr rfl

theorem inward_withPort (s : State) (k : Nat) (f : LkPort → LkPort) : inward (withPort s k f) = inward s := rfl

theorem inward_withLink (s : State) (k : Nat) (half : Bool) (f : Link → Link) : inward (withLink s k half f) = inward s := rfl

theorem inward_pumpLink (s : State) (k : Nat) (half : Bool) : inward (pumpLink s k half) = inward s := rfl

theorem linkAt_withLink {s : State} {k : Nat} (h : k < s.ports.length) (half : Bool) (f : Link → Link) :
    linkAt (withLink s k half f) k half = f (linkAt s k half) := by
  unfold linkAt withLink
  rw [portAt_withPort h]
  cases half <;> rfl

/-- A change that leaves both links of a port leaves every link. -/
theorem linkAt_withPort (s : State) (k : Nat) {f : LkPort → LkPort} (h : ∀ x, (f x).a = x.a ∧ (f x).b = x.b) (n : Nat) (half : Bool) :
    linkAt (withPort s k f) n half = linkAt s n half := by
  unfold linkAt
  rcases portAt_withPort_cases s k f n with hport | hport
  · rw [hport, (h _).1, (h _).2]
  · rw [hport]

theorem hasHalf_of_received {s t : State} (h : received t = received s) (k : Nat) (half : Bool) : hasHalf t k half = hasHalf s k half := by
  have hport := portRx_of_received h k
  simp only [portRx, Prod.mk.injEq] at hport
  unfold hasHalf
  rw [hport.2.1]

/-- A change that leaves a port split or whole leaves its halves. -/
theorem hasHalf_withPort (s : State) (k : Nat) {f : LkPort → LkPort} (h : ∀ x, (f x).splitAct = x.splitAct) (n : Nat) (half : Bool) :
    hasHalf (withPort s k f) n half = hasHalf s n half := by
  unfold hasHalf
  rcases portAt_withPort_cases s k f n with hport | hport
  · rw [hport, h]
  · rw [hport]

theorem ports_length_of_received {s t : State} (h : received t = received s) : t.ports.length = s.ports.length := by
  simpa only [received, List.length_map] using congrArg List.length h

/-! ## A flit that a port accepts -/

/-- The flit as the units see it: a hop with a corrected codeword marks it (12, R406). -/
def markedFlit (a : FlitArgs) : Flit :=
  let f := flitOf (wordBytes a.word)
  { f with mflags := if a.fec then f.mflags ||| 8 else f.mflags }

/-- The port of a flit after what stands in its link header (12, R393, R396). -/
def headedFlit (s : State) (a : FlitArgs) : State :=
  takeHeader (countCodewords (advance s a.dt) a) a.port a.half (flitOf (wordBytes a.word))

/-- The state in which a port has accepted a flit whose message has reached no unit yet (12, R393, R399). -/
def tookFlit (s : State) (a : FlitArgs) : State :=
  let c := flitVc (flitOf (wordBytes a.word))
  withPort (withLink (headedFlit s a) a.port a.half (fun l =>
    { l with rxSeq := (l.rxSeq + 1) % 65536, nakSent := false, freed := l.freed.set c ((nth l.freed c + 1) % 256) }))
    a.port (fun x => { x with rx := satInc x.rx 1 })

/-- Time that passes changes the clocks alone (13, R440; 19, R644). -/
theorem advance_clocks (s : State) (dt : Word64) : ∃ q l c, advance s dt = { s with quartz := q, life := l, supplies := c } :=
  ⟨_, _, _, rfl⟩

theorem advance_ports (s : State) (dt : Word64) : (advance s dt).ports = s.ports := by
  obtain ⟨q, l, c, hadvance⟩ := advance_clocks s dt
  rw [hadvance]

theorem received_advance (s : State) (dt : Word64) : received (advance s dt) = received s :=
  received_of_ports (advance_ports ..)

theorem linkAt_advance (s : State) (dt : Word64) (k : Nat) (half : Bool) : linkAt (advance s dt) k half = linkAt s k half := by
  unfold linkAt portAt
  rw [advance_ports]

theorem takeAck_rx (l : Link) (ack : Nat) : linkRx (takeAck l ack) = linkRx l := by
  have hreplay : ∀ x, linkRx { l with replay := x } = linkRx l := fun _ => rfl
  unfold takeAck
  rw [apply_ite linkRx, hreplay, ite_self]

theorem takeCredit_rx (l : Link) (c ccum : Nat) : linkRx (takeCredit l c ccum) = linkRx l := by
  have hcredits : ∀ x y, linkRx { l with credits := x, ccumRx := y } = linkRx l := fun _ _ => rfl
  exact hcredits _ _

section
variable {s : State} {a : FlitArgs} (hunc : a.unc = 0)
include hunc

theorem countCodewords_eq (s : State) : countCodewords s a = withPort s a.port (fun x =>
    { x with
      fecUncorr := satInc x.fecUncorr a.unc.toNat, fecCorr := satInc x.fecCorr (a.sym.filter (fun x => x != 0)).length,
      laneSym := x.laneSym.mapIdx (fun i w => satInc w (a.sym.getD i 0).toNat) }) := by
  unfold countCodewords portHealth
  rw [if_pos (by rw [hunc]; rfl)]

theorem received_countCodewords (s : State) : received (countCodewords s a) = received s := by
  rw [countCodewords_eq hunc]
  exact received_withPort rfl

theorem linkAt_countCodewords (s : State) (n : Nat) (half : Bool) : linkAt (countCodewords s a) n half = linkAt s n half := by
  rw [countCodewords_eq hunc]
  refine linkAt_withPort s a.port ?_ n half
  exact fun _ => ⟨rfl, rfl⟩

theorem received_headedFlit (s : State) : received (headedFlit s a) = received s := by
  unfold headedFlit takeHeader
  rw [received_pumpLink]
  refine (received_withLink ?_).trans ((received_countCodewords hunc (advance s a.dt)).trans (received_advance s a.dt))
  exact (takeCredit_rx ..).trans (takeAck_rx _ _)

theorem inward_tookFlit (s : State) : inward (tookFlit s a) = inward (advance s a.dt) := by
  unfold tookFlit headedFlit takeHeader
  rw [inward_withPort, inward_withLink, inward_pumpLink, inward_withLink, countCodewords_eq hunc, inward_withPort]

section
variable {α : Type} (f : State → α) (hf : ∀ u, f (inward u) = f u)
  (hclock : ∀ u q l c, f { u with quartz := q, life := l, supplies := c } = f u)
include hf hclock

/-- What looks at the insides of the module, and at no clock, reads the same when a flit's codewords have been counted. -/
theorem of_countCodewords : f (countCodewords (advance s a.dt) a) = f s := by
  obtain ⟨q, l, c, hadvance⟩ := advance_clocks s a.dt
  rw [countCodewords_eq hunc, of_inward f hf (inward_withPort ..), hadvance, hclock]

/-- It reads the same when the flit has been accepted. -/
theorem of_tookFlit : f (tookFlit s a) = f s := by
  obtain ⟨q, l, c, hadvance⟩ := advance_clocks s a.dt
  rw [of_inward f hf (inward_tookFlit hunc s), hadvance, hclock]

end

theorem ports_length_tookFlit (s : State) : (tookFlit s a).ports.length = s.ports.length := by
  unfold tookFlit withLink withPort
  rw [updAt_length, updAt_length, ports_length_of_received (received_headedFlit hunc s)]

theorem hasHalf_tookFlit (n : Nat) (half : Bool) : hasHalf (tookFlit s a) n half = hasHalf s n half := by
  unfold tookFlit withLink
  rw [hasHalf_withPort, hasHalf_withPort, hasHalf_of_received (received_headedFlit hunc s)]
  · intro x
    cases a.half <;> rfl
  · exact fun _ => rfl

theorem hopOwned_tookFlit (p e : Nat) : hopOwned (tookFlit s a) p e = hopOwned s p e := by
  have hpart : partOfPort (tookFlit s a) (e % 32) = partOfPort s (e % 32) :=
    of_tookFlit hunc (partOfPort · (e % 32)) (fun _ => rfl) (fun _ _ _ _ => rfl)
  unfold hopOwned
  rw [hpart, hasHalf_tookFlit hunc]

theorem localOf_tookFlit (p l : Nat) : localOf (tookFlit s a) p l = localOf s p l :=
  of_tookFlit hunc (localOf · p l) (fun _ => rfl) (fun _ _ _ _ => rfl)

theorem tierClean_tookFlit (s : State) : tierClean (tookFlit s a) = tierClean s :=
  of_tookFlit hunc tierClean (fun _ => rfl) (fun _ _ _ _ => rfl)

theorem routeEntry_tookFlit (p r : Nat) : routeEntry (tookFlit s a) p r = routeEntry s p r :=
  of_tookFlit hunc (routeEntry · p r) (fun _ => rfl) (fun _ _ _ _ => rfl)

theorem part_tookFlit (p : Nat) : part (tookFlit s a) p = part s p := of_tookFlit hunc (part · p) (fun _ => rfl) (fun _ _ _ _ => rfl)

end

/-- A flit counts at its port and frees its credit when it is accepted (12, R393). -/
theorem flitTaken_tookFlit {s : State} {a : FlitArgs} (hunc : a.unc = 0) (hport : a.port < s.ports.length) :
    flitTaken s (tookFlit s a) a := by
  have hrx := received_headedFlit hunc s
  have hlen : a.port < (headedFlit s a).ports.length := by rwa [ports_length_of_received hrx]
  have hx := portRx_of_received hrx a.port
  have hl := linkRx_of_received hrx a.port a.half
  simp only [portRx, linkRx, Prod.mk.injEq] at hx hl
  obtain ⟨hseq, -, hfreed⟩ := hl
  unfold flitTaken tookFlit
  simp only [linkAt_withPort _ a.port (f := fun x : LkPort => { x with rx := satInc x.rx 1 }) (fun _ => ⟨rfl, rfl⟩),
    linkAt_withLink hlen]
  refine ⟨by rw [hseq], trivial, ?_, fun hc => ?_⟩
  · rw [portAt_withPort (by simpa [withLink, withPort] using hlen), withLink, portAt_withPort hlen]
    rw [← hx.1]
    cases a.half <;> rfl
  · rw [hfreed, nth, List.getD_eq_getElem _ _ (by simpa using hc), List.getElem_set_self]

/-- What leaves the received flits of the accepting state leaves the flit taken. -/
theorem flitTaken_of_received {s t : State} {a : FlitArgs} (hunc : a.unc = 0) (hport : a.port < s.ports.length)
    (h : received t = received (tookFlit s a)) : flitTaken s t a := by
  obtain ⟨hseq, hnak, hrx, hfreed⟩ := flitTaken_tookFlit hunc hport
  have hx := portRx_of_received h a.port
  have hl := linkRx_of_received h a.port a.half
  simp only [portRx, linkRx, Prod.mk.injEq] at hx hl
  obtain ⟨hseq', hnak', hfreed'⟩ := hl
  unfold flitTaken
  simp only [hseq', hnak', hfreed', hx.1]
  exact ⟨hseq, hnak, hrx, hfreed⟩

/-! ## A flit at its destination -/

section
variable {s : State} {a : FlitArgs} {p : Nat} (h : flitHome s a p)
include h

theorem unc_of_home : a.unc = 0 := h.1.2.2.2.2.2.2

theorem lt_of_home : p < (tookFlit s a).parts.length := by
  have hparts : (tookFlit s a).parts = s.parts := of_tookFlit (unc_of_home h) State.parts (fun _ => rfl) (fun _ _ _ _ => rfl)
  obtain ⟨-, -, -, hp, hlen, -⟩ := h
  rwa [hparts, hlen]

/-- The checks of a flit at its destination all pass (12, R390, R403, R404, R414). -/
theorem routeIn_of_home :
    routeIn (tookFlit s a) p a.port (flitOf (wordBytes a.word)) a.fec = deliverFlit (tookFlit s a) p a.port (markedFlit a) := by
  obtain ⟨⟨-, -, -, -, -, -, hunc⟩, -, -, -, -, -, hform, hhop, hdst, hjob, hepoch, hstep, hattempt, -⟩ := h
  have hnew : attemptOld (part s p) (flitOf (wordBytes a.word)) = false := by simp [attemptOld, hstep, hattempt]
  unfold routeIn markedFlit
  simp only [part_tookFlit hunc, hform, hhop, hdst, hjob, hepoch, hnew, Nat.lt_irrefl, bne_self_eq_false, Bool.false_eq_true,
    Bool.and_false, if_false]

/-- A message at its destination reaches the unit of its type, and its port sends an IDLE flit (12, R393, R399, R405). -/
theorem rxFlit_of_home (htime : (flitOf (wordBytes a.word)).mtype ≠ 0x19) :
    rxFlit s a = controlFlit (deliverFlit (tookFlit s a) p a.port (markedFlit a)) a.port a.half 0 [] := by
  have hin := routeIn_of_home h
  obtain ⟨⟨-, -, hactive, hhalf, hbad, hcrc, hunc⟩, hseq, hpart, -, -, hrun, -, -, -, -, -, -, -, hdata⟩ := h
  have htaken := received_countCodewords hunc (advance s a.dt)
  have hhalf' : hasHalf (countCodewords (advance s a.dt) a) a.port a.half = true :=
    (hasHalf_of_received (htaken.trans (received_advance s a.dt)) ..).trans hhalf
  have hlink : linkAt (countCodewords (advance s a.dt) a) a.port a.half = linkAt s a.port a.half :=
    (linkAt_countCodewords hunc (advance s a.dt) ..).trans (linkAt_advance ..)
  have hrun' : jobActive (part (countCodewords (advance s a.dt) a) p) = true := by
    rw [of_countCodewords hunc (part · p) (fun _ => rfl) (fun _ _ _ _ => rfl)]
    exact jobActive_of_running hrun
  have hpart' : partOfPort (countCodewords (advance s a.dt) a) a.port = some p :=
    (of_countCodewords hunc (partOfPort · a.port) (fun _ => rfl) (fun _ _ _ _ => rfl)).trans hpart
  have hpart'' : partOfPort (tookFlit s a) a.port = some p :=
    (of_tookFlit hunc (partOfPort · a.port) (fun _ => rfl) (fun _ _ _ _ => rfl)).trans hpart
  have htakes : portTakes (countCodewords (advance s a.dt) a) a.port (flitOf (wordBytes a.word)) = true := by
    unfold portTakes
    rw [hpart']
    simp only [hrun', Bool.or_true]
  unfold rxFlit
  simp only [hhalf', hlink, hactive, hbad, hcrc, hdata, htakes, hseq, Bool.not_true, Bool.not_false, Bool.and_true, Bool.false_eq_true,
    bne_self_eq_false, if_true, if_false, reduceCtorEq]
  change acceptFlit (headedFlit s a) a.port a.half _ a.fec = _
  unfold acceptFlit
  change controlFlit (if _ then _ else match partOfPort (tookFlit s a) a.port with | some p => _ | none => _) _ _ _ _ = _
  rw [hpart'', if_neg (by simp [htime])]
  exact congrArg (controlFlit · a.port a.half 0 []) hin

/-- The row of a message type at a flit of that type. -/
theorem flitRow_of_home {n : Nat} (hn : (flitOf (wordBytes a.word)).mtype = n) (htime : n ≠ 0x19) :
    flitRow a (isData n) s =
      .next (controlFlit (deliverFlit (tookFlit s a) p a.port (markedFlit a)) a.port a.half 0 []) := by
  have hrx := rxFlit_of_home h (by rwa [hn])
  obtain ⟨⟨hport, -⟩, -, -, -, -, -, -, -, -, -, -, -, -, hdata⟩ := h
  have his : isData n (flitOf (wordBytes a.word)) = true := by simp [isData, hn, hdata]
  rw [flitRow, if_neg (by omega), his, hrx]
  rfl

/-- A message at its destination, once it is known what its unit makes of it: u. -/
theorem flitRow_delivered {n : Nat} (hn : (flitOf (wordBytes a.word)).mtype = n) (htime : n ≠ 0x19) {u : State}
    (hu : deliverFlit (tookFlit s a) p a.port (markedFlit a) = u) (hrx : received u = received (tookFlit s a)) :
    flitRow a (isData n) s = .next (controlFlit u a.port a.half 0 []) ∧ flitTaken s (controlFlit u a.port a.half 0 []) a := by
  refine ⟨hu ▸ flitRow_of_home h hn htime, ?_⟩
  obtain ⟨⟨hport, hlen, -, -, -, -, hunc⟩, -⟩ := h
  exact flitTaken_of_received hunc (by omega) ((received_controlFlit ..).trans hrx)

end

theorem inward_controlFlit (s : State) (k : Nat) (half : Bool) (ltype : Nat) (d : List Byte) :
    inward (controlFlit s k half ltype d) = inward s := rfl

theorem part_controlFlit (s : State) (k : Nat) (half : Bool) (ltype : Nat) (d : List Byte) (p : Nat) :
    part (controlFlit s k half ltype d) p = part s p := rfl

theorem part_queueFlit (s : State) (k : Nat) (half : Bool) (f : Flit) (p : Nat) : part (queueFlit s k half f) p = part s p := rfl

end Sys2Proof.Machine
end


section
/-! SUPPORT. A flit that a partition sends by its route stands at that link until it is acknowledged; the answer to a remote read of one
flit (10, R341; 12, R389, R396, R402, R405). -/

namespace Sys2Proof.Machine

/-! ## What a link has to deliver -/

/-- What a link leaves of a flit as it was queued: all but its number, its type, its acknowledgement and its credit report (12, R388). -/
def flitMessage (g : Flit) : Flit := { g with seq := 0, ack := 0, ltype := 0, cvc := 0, ccum := 0 }

/-- Has a link a message to deliver. -/
def delivers (s : State) (k : Nat) (half : Bool) (g : Flit) : Prop := ∃ x ∈ outgoing s k half, flitMessage x = flitMessage g

theorem flitMessage_stampFlit (l : Link) (f : Flit) : flitMessage (stampFlit l f).1 = flitMessage f := by
  unfold stampFlit
  simp only []
  split <;> rfl

theorem stampFlit_queues (l : Link) (f : Flit) : (stampFlit l f).2.replay = l.replay ∧ (stampFlit l f).2.txq = l.txq := by
  unfold stampFlit
  simp only []
  split <;> exact ⟨rfl, rfl⟩

/-- A message that a link has to deliver is still one of its flits when it has sent what it can. -/
theorem drainLink_delivers (fuel : Nat) {l : Link} (n : Nat) {m : Flit}
    (h : ∃ x ∈ l.replay.map (·.flit) ++ l.txq, flitMessage x = m) :
    ∃ x ∈ (drainLink fuel l n).1.replay.map (·.flit) ++ (drainLink fuel l n).1.txq, flitMessage x = m := by
  induction fuel generalizing l n with
  | zero => exact h
  | succ fuel ih =>
    rw [drainLink]
    cases nextFlit l with
    | none => exact h
    | some i =>
      apply ih
      obtain ⟨x, hx, rfl⟩ := h
      simp only [List.map_append, List.map_cons, List.map_nil, List.mem_append, List.mem_singleton] at hx ⊢
      rcases hx with hx | hx
      · exact ⟨x, .inl (.inl hx), rfl⟩
      · obtain ⟨j, hj, rfl⟩ := List.getElem_of_mem hx
        by_cases hji : j = i
        · refine ⟨_, .inl (.inr rfl), ?_⟩
          rw [flitMessage_stampFlit, ← hji, List.getD_eq_getElem _ _ hj]
          rfl
        · exact ⟨l.txq[j], .inr (List.mem_eraseIdx_iff_getElem.2 ⟨j, hj, hji, rfl⟩), rfl⟩

/-- A flit that is queued at a link is one that the link has to deliver (12, R394, R396). -/
theorem delivers_queueFlit {s : State} {k : Nat} (h : k < s.ports.length) (half : Bool) (f : Flit) :
    delivers (queueFlit s k half f) k half f := by
  have hlen : k < (withLink s k half (fun l => { l with txq := l.txq ++ [f] })).ports.length := by simpa [withLink, withPort] using h
  unfold delivers outgoing queueFlit pumpLink
  simp only [linkAt_withPort _ k (f := fun x : LkPort => { x with tx := satInc x.tx _ }) (fun _ => ⟨rfl, rfl⟩), linkAt_withLink hlen]
  apply drainLink_delivers
  rw [linkAt_withLink h]
  exact ⟨f, by simp, rfl⟩

theorem outgoing_withLink {s : State} {k : Nat} {half : Bool} {f : Link → Link}
    (h : ∀ l, (f l).replay = l.replay ∧ (f l).txq = l.txq) (n : Nat) (side : Bool) :
    outgoing (withLink s k half f) n side = outgoing s n side := by
  have hlink : (linkAt (withLink s k half f) n side).replay = (linkAt s n side).replay ∧
      (linkAt (withLink s k half f) n side).txq = (linkAt s n side).txq := by
    unfold linkAt withLink
    rcases portAt_withPort_cases s k _ n with hport | hport
    · rw [hport]
      cases half <;> cases side
      · exact h _
      · exact ⟨rfl, rfl⟩
      · exact ⟨rfl, rfl⟩
      · exact h _
    · rw [hport]
      exact ⟨rfl, rfl⟩
  unfold outgoing
  rw [hlink.1, hlink.2]

theorem outgoing_controlFlit (s : State) (k : Nat) (half : Bool) (ltype : Nat) (d : List Byte) (n : Nat) (side : Bool) :
    outgoing (controlFlit s k half ltype d) n side = outgoing s n side := by
  refine outgoing_withLink (fun l => ?_) n side
  exact stampFlit_queues l _

/-! ## Messages by the route -/

/-- A hop of a partition lies on a port of the module. -/
theorem port_of_hopOwned {s : State} {p e : Nat} (h : hopOwned s p e = true) : e % 32 < 24 := by
  simp only [hopOwned, Bool.and_eq_true, decide_eq_true_eq] at h
  by_contra hport
  rw [partOfPort, if_pos (by simp only [Bool.or_eq_true, decide_eq_true_eq]; exact .inr (Nat.not_lt.1 hport))] at h
  cases h.1

theorem routePath_tookFlit {s : State} {a : FlitArgs} (hunc : a.unc = 0) (p r : Nat) (alt : Bool) :
    routePath (tookFlit s a) p r alt = routePath s p r alt := by
  unfold routePath
  rw [routeEntry_tookFlit hunc]

theorem routeEpoch_tookFlit {s : State} {a : FlitArgs} (hunc : a.unc = 0) (p r : Nat) :
    routeEpoch (tookFlit s a) p r = routeEpoch s p r := by
  unfold routeEpoch
  rw [routeEntry_tookFlit hunc]

theorem routeReady_tookFlit {s : State} {a : FlitArgs} (hunc : a.unc = 0) (p r : Nat) :
    routeReady (tookFlit s a) p r = routeReady s p r := by
  unfold routeReady routeHops
  rw [routePath_tookFlit hunc, routeEntry_tookFlit hunc, hopOwned_tookFlit hunc, part_tookFlit hunc]

theorem hopOwned_of_ready {s : State} {p r : Nat} (h : routeReady s p r = true) :
    hopOwned s p (pathEntry (routePath s p r false) 0) = true := by
  simp only [routeReady, Bool.and_eq_true] at h
  exact h.2

/-- A flit to a rank whose primary route is ready goes to the link of its first hop (12, R402, R403). -/
theorem routeFlit_of_ready {s : State} {p r : Nat} (h : routeReady s p r = true) (f : Flit) :
    routeFlit s p r f = queueFlit s (pathEntry (routePath s p r false) 0 % 32) ((pathEntry (routePath s p r false) 0).testBit 5)
      { f with path := routePath s p r false + 2 ^ 48 + routeHops s p r false * 2 ^ 52, epoch := routeEpoch s p r, dst := r } := by
  simp only [routeReady, Bool.and_eq_true, Bool.not_eq_true', decide_eq_true_eq, bne_iff_ne] at h
  obtain ⟨⟨⟨halt, hcount⟩, hhops⟩, hown⟩ := h
  unfold routeFlit routeAs
  simp only [halt, hown]
  rw [if_neg]
  simp only [Bool.or_eq_true, decide_eq_true_eq, Bool.not_true, Bool.false_eq_true, or_false]
  omega

/-- A message of one flit that is not a write of lines (12, R389). -/
theorem sendMsg_short (s : State) (p r : Nat) {mtype : Nat} (hlines : (mtype = 2 || mtype = 5 || mtype = 6) = false) (addr arg : Nat)
    (poison : Bool) {d : List Byte} (hlen : d.length ≤ 192) :
    sendMsg s p r mtype addr arg poison d = routeFlit s p r { flitFrom s p mtype with
      addr := addr, frag := 0, plen := d.length, arg := arg, payload := d,
      mflags := (flitFrom s p mtype).mflags + 1 + 2 * b2n poison } := by
  have hpieces : cutMsg false (d.length / 128 + 1) addr d = [(addr, d)] := by
    simp only [cutMsg, Bool.false_eq_true, if_false, if_pos hlen]
  unfold sendMsg
  rw [hlines, hpieces]
  rfl

/-- The flit that answers a remote read of at most 192 bytes (10, R341; 12, R405). -/
def remoteAnswer (s : State) (p : Nat) (f : Flit) : Flit :=
  { flitFrom s p 4 with
    addr := leNat (f.payload.take 8), frag := 0, plen := f.arg, arg := 0, payload := memRead (part s p).hbm f.addr f.arg,
    mflags := (flitFrom s p 4).mflags + 1 }

theorem remoteAnswer_tookFlit {s : State} {a : FlitArgs} (hunc : a.unc = 0) (p : Nat) (f : Flit) :
    remoteAnswer (tookFlit s a) p f = remoteAnswer s p f := by
  unfold remoteAnswer flitFrom
  rw [part_tookFlit hunc]

theorem length_memRead {w : Nat} (m : Mem w) (a n : Nat) : (memRead m a n).length = n := by
  rw [memRead_eq, List.length_map, List.length_range]

theorem rxReadReq_short {s : State} {p : Nat} {f : Flit} (hclean : tierClean s = true) (hok : remoteOk s p f.addr f.arg = true)
    (hlen : f.arg ≤ 192) (k : Nat) : rxReadReq s p k f = routeFlit s p f.src (remoteAnswer s p f) := by
  have hbad : hbmBad s p f.addr f.arg = [] := by rw [hbmBad, if_pos hclean]
  have hread := length_memRead (part s p).hbm f.addr f.arg
  unfold rxReadReq
  simp only [hok, hbad, hbmBytes_clean hclean]
  rw [if_neg (by decide)]
  refine (sendMsg_short _ p f.src rfl _ 0 _ (by omega)).trans ?_
  rw [hread]
  rfl

/-! ## RREAD_REQ -/

/-- A state with every partition as it was is one in which the memory stands. -/
theorem memoryStands_of_part {s t : State} (h : ∀ k, part t k = part s k) (p : Nat) : memoryStands s t p := by
  unfold memoryStands
  rw [h p]
  exact ⟨rfl, rfl, rfl, rfl, fun k _ _ => h k⟩

theorem deliverFlit_readReq {f : Flit} (h : f.mtype = 3) (s : State) (p k : Nat) : deliverFlit s p k f = rxReadReq s p k f := by
  unfold deliverFlit
  rw [h]
  rfl

theorem exec_rreadReq (a : FlitArgs) (s : State) : exec (.rreadReq a) s = flitRow a (isData 3) s := rfl

/-- The link of a first hop to a rank has a message to deliver. -/
def sentFirstHop (s t : State) (p r : Nat) (g : Flit) : Prop :=
  delivers t (pathEntry (routePath s p r false) 0 % 32) ((pathEntry (routePath s p r false) 0).testBit 5) g

/-- A remote read of at most 192 bytes is answered with one flit of them, by the route to the rank that asked (10, R341). -/
theorem exec_rreadReq_short {s : State} {a : FlitArgs} {p : Nat} (h : flitHome s a p) (hclean : tierClean s = true)
    (htype : (markedFlit a).mtype = 3)
    (hok : remoteOk s p (markedFlit a).addr (markedFlit a).arg = true) (hready : routeReady s p (markedFlit a).src = true)
    (hlen : (markedFlit a).arg ≤ 192) :
    ∃ t, exec (.rreadReq a) s = .next t ∧ flitTaken s t a ∧ memoryStands s t p ∧
      ∃ epoch path, sentFirstHop s t p (markedFlit a).src
        { remoteAnswer s p (markedFlit a) with path := path, epoch := epoch, dst := (markedFlit a).src } := by
  have hunc : a.unc = 0 := unc_of_home h
  have hports : (tookFlit s a).ports.length = 24 := by
    obtain ⟨⟨-, hlen, -⟩, -⟩ := h
    exact (ports_length_tookFlit hunc s).trans hlen
  have hpart := fun k => part_tookFlit (s := s) hunc k
  have hready' : routeReady (tookFlit s a) p (markedFlit a).src = true := (routeReady_tookFlit hunc ..).trans hready
  have hok' : remoteOk (tookFlit s a) p (markedFlit a).addr (markedFlit a).arg = true :=
    (of_tookFlit hunc (fun u => remoteOk u p (markedFlit a).addr (markedFlit a).arg) (fun _ => rfl) (fun _ _ _ _ => rfl)).trans hok
  have hclean' : tierClean (tookFlit s a) = true := (tierClean_tookFlit hunc s).trans hclean
  have hsent : deliverFlit (tookFlit s a) p a.port (markedFlit a) = _ :=
    (deliverFlit_readReq htype ..).trans ((rxReadReq_short hclean' hok' hlen _).trans (routeFlit_of_ready hready' _))
  rw [remoteAnswer_tookFlit hunc] at hsent
  obtain ⟨hnext, htaken⟩ := flitRow_delivered h htype (by decide) hsent (received_queueFlit ..)
  rw [exec_rreadReq]
  refine ⟨_, hnext, htaken, memoryStands_of_part (fun k => ?_) p, routeEpoch (tookFlit s a) p (markedFlit a).src,
    routePath (tookFlit s a) p (markedFlit a).src false + 2 ^ 48 + routeHops (tookFlit s a) p (markedFlit a).src false * 2 ^ 52, ?_⟩
  · rw [part_controlFlit, part_queueFlit, hpart]
  · unfold sentFirstHop delivers
    rw [outgoing_controlFlit, ← routePath_tookFlit (s := s) hunc]
    exact delivers_queueFlit (by rw [hports]; exact port_of_hopOwned (hopOwned_of_ready hready')) _ _

end Sys2Proof.Machine
end


section
/-! SUPPORT. Data fetched for a buffer that holds a READ land there: SRAM, presence, poison and mark; the answers RREAD_DATA and REJECT to a
remote read of one flit (01, R36; 06, R225, R228; 10, R341, R342; 12, R406). -/

namespace Sys2Proof.Machine

/-! ## An item that lands in a cluster -/

/-- A buffer holds a READ whose data have not come. -/
def openRead (m : DmaUnit) (i : Nat) : Prop :=
  i < m.bufs.length ∧ (m.bufs.getD i bufferFree).kind = .read ∧ (m.bufs.getD i bufferFree).present = false

/-- A cluster with bytes fetched for buffer i, which wait for their arrival (06, R226). -/
def fetchedAt (i : Nat) (v : Nat × List Byte × Bool) (c : Cluster) : Cluster :=
  { c with core := { c.core with dma := withBuf c.core.dma i (fun b =>
      if b.kind = .read && !b.present then { b with fetched := some v } else b) } }

/-- A DMA engine with the data of buffer i present. -/
def arriveBuf (cclk : Nat) (mark : Option Nat) (i : Nat) (m : DmaUnit) : DmaUnit :=
  withBuf m i (fun x => { x with present := true, presentAt := cclk, mark := strongerMark x.mark mark, fetched := none })

theorem getD_withBuf {m : DmaUnit} {i : Nat} (h : i < m.bufs.length) (f : Buffer → Buffer) :
    (withBuf m i f).bufs.getD i bufferFree = f (m.bufs.getD i bufferFree) := by
  unfold withBuf
  rw [updAt_getD, if_pos ⟨rfl, h⟩]

theorem getD_notePoison {m : DmaUnit} {i : Nat} (h : i < m.bufs.length) :
    (notePoison m i).bufs.getD i bufferFree = { m.bufs.getD i bufferFree with poisoned := true } :=
  getD_withBuf (m := { m with status := _ }) h _

/-- Fetched bytes of an open READ land in SRAM, and their buffer is present (06, R225). -/
theorem itemLand_read (cclk : Nat) (mark : Option Nat) {i : Nat} {p : Port} {a : Nat} {d : List Byte} {poison : Bool}
    (hkind : (p.dma.bufs.getD i bufferFree).kind = .read) (hopen : (p.dma.bufs.getD i bufferFree).present = false)
    (hfetched : (p.dma.bufs.getD i bufferFree).fetched = some (a, d, poison)) :
    itemLand cclk mark i p = { portWrite p a d with
      dma := if poison then notePoison (arriveBuf cclk mark i p.dma) i else arriveBuf cclk mark i p.dma } := by
  unfold itemLand
  simp only [hkind, hopen, hfetched]
  rfl

/-- The buffer of an item that has landed. -/
theorem getD_landed {m : DmaUnit} {i : Nat} (h : i < m.bufs.length) (cclk : Nat) (mark : Option Nat) (poison : Bool) :
    (if poison then notePoison (arriveBuf cclk mark i m) i else arriveBuf cclk mark i m).bufs.getD i bufferFree =
      { m.bufs.getD i bufferFree with
        present := true, presentAt := cclk, mark := strongerMark (m.bufs.getD i bufferFree).mark mark, fetched := none,
        poisoned := (m.bufs.getD i bufferFree).poisoned || poison } := by
  cases poison with
  | false =>
    rw [if_neg (by decide), arriveBuf, getD_withBuf h, Bool.or_false]
  | true =>
    rw [if_pos rfl, getD_notePoison (by simpa [arriveBuf, withBuf] using h), arriveBuf, getD_withBuf h, Bool.or_true]

/-- A cluster at which the fetched data of a buffer land. -/
def landedAt (q : Partition) (i : Nat) (v : Nat × List Byte × Bool) (mark : Option Nat) (c : Cluster) : Cluster :=
  clusterLand q.seq.cclk mark i q.job.debug q.seq.frozen (q.seq.ic - q.seq.ic0) q.seq.step (fetchedAt i v c)

section
variable {c : Cluster} {i : Nat} (h : openRead c.core.dma i)
include h

theorem getD_fetchedAt (v : Nat × List Byte × Bool) :
    (fetchedAt i v c).core.dma.bufs.getD i bufferFree = { c.core.dma.bufs.getD i bufferFree with fetched := some v } := by
  obtain ⟨hi, hkind, hopen⟩ := h
  refine (getD_withBuf hi _).trans ?_
  simp only [hkind, hopen, Bool.not_false, decide_true, Bool.and_true, if_true]

/-- What lands for an open READ: its bytes in SRAM, its buffer present with their poison and mark. -/
theorem landedAt_openRead (q : Partition) (a : Nat) (d : List Byte) (poison : Bool) (mark : Option Nat) :
    (landedAt q i (a, d, poison) mark c).sram = sramWrite c.sram a d ∧
      (landedAt q i (a, d, poison) mark c).core.dma.bufs.getD i bufferFree =
        { c.core.dma.bufs.getD i bufferFree with
          present := true, presentAt := q.seq.cclk, mark := strongerMark (c.core.dma.bufs.getD i bufferFree).mark mark, fetched := none,
          poisoned := (c.core.dma.bufs.getD i bufferFree).poisoned || poison } := by
  have hbuf := getD_fetchedAt h (a, d, poison)
  obtain ⟨hi, hkind, hopen⟩ := h
  have hi' : i < (fetchedAt i (a, d, poison) c).core.dma.bufs.length := by simpa [fetchedAt, withBuf] using hi
  have hland := itemLand_read q.seq.cclk mark
    (p := { dma := (fetchedAt i (a, d, poison) c).core.dma, sram := c.sram, journal := c.journal, evs := [] })
    (by rw [hbuf]; exact hkind) (by rw [hbuf]; exact hopen) (by rw [hbuf])
  refine ⟨congrArg Port.sram hland, ?_⟩
  refine (congrArg (fun x : Port => x.dma.bufs.getD i bufferFree) hland).trans ?_
  exact (getD_landed hi' ..).trans (by rw [hbuf])

end

/-! ## An item that lands in a partition -/

/-- A partition at which the fetched data of a buffer land. -/
def landedPart (q : Partition) (l i : Nat) (v : Nat × List Byte × Bool) (mark : Option Nat) : Partition :=
  { q with clusters := updAt q.clusters l (landedAt q i v mark) }

theorem part_land {s : State} {p : Nat} (hp : p < s.parts.length) (l i a : Nat) (d : List Byte) (poison : Bool) (mark : Option Nat) :
    part (landItem (setFetched s p l i a d poison) p l i mark) p = landedPart (part s p) l i (a, d, poison) mark := by
  unfold landItem setFetched withDma
  rw [withPart_withPart, part_withPart _ _ _ hp, updAt_updAt]
  rfl

theorem received_land (s : State) (p l i a : Nat) (d : List Byte) (poison : Bool) (mark : Option Nat) :
    received (landItem (setFetched s p l i a d poison) p l i mark) = received s := rfl

theorem getD_landedPart {q : Partition} {l : Nat} (h : l < q.clusters.length) (i : Nat) (v : Nat × List Byte × Bool)
    (mark : Option Nat) :
    (landedPart q l i v mark).clusters.getD l clusterReset = landedAt q i v mark (q.clusters.getD l clusterReset) := by
  unfold landedPart
  rw [updAt_getD, if_pos ⟨rfl, h⟩]

theorem memGet_sramWrite {m : Mem 8} {a : Nat} {d : List Byte} (h : a + d.length ≤ 2097152) {x : Nat} (hlo : a ≤ x)
    (hhi : x < a + d.length) :
    memGet (sramWrite m a d) x = d.getD (x - a) 0 := by
  have hsize : sramBytes = 8388608 := rfl
  unfold sramWrite
  simp only [hsize, Nat.mod_eq_of_lt (show a < 8388608 by omega)]
  rw [if_pos (by omega), memGet_memWrite, if_pos ⟨hlo, hhi⟩]

end Sys2Proof.Machine
end


section
/-! SUPPORT. The answers to a remote read of one flit: RREAD_DATA brings its bytes, REJECT poisons its buffer (10, R329, R341, R342; 12,
R391, R405, R406). -/

namespace Sys2Proof.Machine

/-! ## RREAD_DATA -/

/-- Does a read wait for the data of a flit (10, R341). -/
def awaits (f : Flit) (r : AwaitRead) : Bool := r.lcl = (itemAddr f).1 && r.buf = (itemAddr f).2.1 && r.dst = f.src

theorem memRead_memWrite {w : Nat} (m : Mem w) (a : Nat) (d : List (BitVec w)) : memRead (memWrite m a d) a d.length = d := by
  apply List.ext_getElem (by rw [memRead_eq, List.length_map, List.length_range])
  intro i _ hi
  simp only [memRead_eq, List.getElem_map, List.getElem_range]
  exact memGet_memWrite_in m a d i hi

/-- A read that has its data whole from one flit. -/
theorem gotBytes_whole {r : AwaitRead} {d : List Byte} (hgot : r.got = [(0, d)]) (hlen : d.length = r.len) : gotBytes r = d := by
  unfold gotBytes
  rw [hgot, ← hlen]
  exact memRead_memWrite _ _ _

/-- The cluster, buffer and offset 0 that the address of RREAD_DATA names (12, message types). -/
theorem itemAddr_of_addr {f : Flit} {lcl buf : Nat} (h : f.addr = lcl * 2 ^ 30 + buf * 2 ^ 24) (hlcl : lcl < 512) (hbuf : buf < 64) :
    itemAddr f = (lcl, buf, 0) := by
  simp only [itemAddr, bits, h, Prod.mk.injEq]
  omega

/-- The one flit of a read's data: the read is no longer awaited, and its bytes land (10, R341). -/
theorem rxReadData_whole {s : State} {p : Nat} {f : Flit} {r : AwaitRead} {l : Nat} (hreads : (part s p).lk.reads = [r])
    (hhere : localOf s p r.lcl = some l) (haddr : itemAddr f = (r.lcl, r.buf, 0)) (hdst : r.dst = f.src) (hgot : r.got = [])
    (hlen : (flitData f).length = r.len) :
    rxReadData s p f =
      landItem (setFetched (withLk s p (fun k => { k with reads := k.reads.filter (fun x => !awaits f x) })) p l r.buf r.sram
        (flitData f) (r.poison || flitPoison f)) p l r.buf (strongerMark r.mark (flitMark f)) := by
  have hawaits : awaits f r = true := by simp [awaits, haddr, hdst]
  have hfind : (part s p).lk.reads.find? (awaits f) = some r := by rw [hreads, List.find?_cons_of_pos hawaits]
  have hbytes : gotBytes { r with
      got := r.got ++ [(0, flitData f)], poison := r.poison || flitPoison f, mark := strongerMark r.mark (flitMark f) } = flitData f :=
    gotBytes_whole (by rw [hgot]; rfl) hlen
  unfold rxReadData
  change (match (part s p).lk.reads.find? (awaits f) with | none => s | some r => _) = _
  rw [hfind]
  simp only [haddr]
  rw [if_neg, hhere]
  · simp only [hbytes, awaits, haddr]
  · rw [hgot]
    simp [hlen]

theorem deliverFlit_readData {f : Flit} (h : f.mtype = 4) (s : State) (p k : Nat) : deliverFlit s p k f = rxReadData s p f := by
  unfold deliverFlit
  rw [h]
  rfl

theorem exec_rreadData (a : FlitArgs) (s : State) : exec (.rreadData a) s = flitRow a (isData 4) s := rfl

/-- The bytes of a flit's payload. -/
theorem length_payload (w : BitVec 2048) : (flitOf (wordBytes w)).payload.length = 192 := by
  simp only [flitOf, wordBytes, List.length_take, List.length_drop, length_leBytes]
  omega

theorem length_flitData {a : FlitArgs} {n : Nat} (hplen : (markedFlit a).plen = n) (hn : n ≤ 192) :
    (flitData (markedFlit a)).length = n := by
  have hpayload : (markedFlit a).payload.length = 192 := length_payload a.word
  rw [flitData, List.length_take, hpayload, hplen]
  omega

theorem flitPoison_markedFlit (a : FlitArgs) : flitPoison (markedFlit a) = flitPoison (flitOf (wordBytes a.word)) := by
  have hmark : Nat.testBit 8 1 = false := by decide
  unfold flitPoison markedFlit
  cases a.fec
  · rfl
  · simp [Nat.testBit_or, hmark]

/-- A read of one flit alone is awaited, and its flit comes: the read is done, the bytes are in SRAM, the buffer is present (10, R341; 12,
R391, R406). -/
theorem exec_rreadData_whole {s : State} {a : FlitArgs} {p : Nat} (h : flitHome s a p) (htype : (markedFlit a).mtype = 4) {r : AwaitRead}
    {l : Nat} (hhere : readHere s p r l) (haddr : (markedFlit a).addr = r.lcl * 2 ^ 30 + r.buf * 2 ^ 24) (hdst : r.dst = (markedFlit a).src)
    (hgot : r.got = []) (hplen : (markedFlit a).plen = r.len) (hlcl : r.lcl < 512) (hbuf : r.buf < 64) (hlen : r.len ≤ 192) :
    ∃ t q, exec (.rreadData a) s = .next t ∧ flitTaken s t a ∧ q.clusters = (part s p).clusters ∧ q.hbm = (part s p).hbm ∧
      q.lk.reads = [] ∧ part t p = landedPart q l r.buf (r.sram, flitData (markedFlit a), r.poison || flitPoison (markedFlit a))
        (strongerMark r.mark (flitMark (markedFlit a))) := by
  have hunc : a.unc = 0 := unc_of_home h
  obtain ⟨hreads, hlocal, -⟩ := hhere
  have hlt := lt_of_home h
  have hlt' : ∀ g, p < (withLk (tookFlit s a) p g).parts.length := fun g => by
    simpa only [withLk, withPart_parts, updAt_length] using hlt
  have haddr' := itemAddr_of_addr haddr hlcl hbuf
  have hlocal' : localOf (tookFlit s a) p r.lcl = some l := (localOf_tookFlit hunc ..).trans hlocal
  have hdata := length_flitData hplen hlen
  have hawaits : awaits (markedFlit a) r = true := by simp [awaits, haddr', hdst]
  have hdeliver := (deliverFlit_readData htype (tookFlit s a) p a.port).trans
    (rxReadData_whole (by rw [part_tookFlit hunc, hreads]) hlocal' haddr' hdst hgot hdata)
  obtain ⟨hnext, htaken⟩ := flitRow_delivered h htype (by decide) hdeliver ((received_land ..).trans (received_withLk ..))
  rw [exec_rreadData]
  refine ⟨_, _, hnext, htaken, ?_, ?_, ?_, (part_controlFlit ..).trans (part_land (hlt' _) ..)⟩
  all_goals rw [withLk, part_withPart _ _ _ hlt, part_tookFlit hunc]
  simp only [hreads, List.filter_cons, hawaits, Bool.not_true, Bool.false_eq_true, if_false, List.filter_nil]

/-! ## REJECT -/

/-- A cluster whose DMA engine notes a rejected access (06, R238; 10, R342). -/
def rejectedAt (c : Cluster) : Cluster :=
  { c with core := { c.core with dma := { c.core.dma with status := c.core.dma.status ||| 16 } } }

/-- A partition that counts a rejected access of local cluster l (10, R342). -/
def rejectedPart (q : Partition) (l : Nat) : Partition :=
  { q with clusters := updAt q.clusters l rejectedAt, mem := { q.mem with reject := satInc q.mem.reject 1 } }

theorem part_rejectAt {s : State} {p : Nat} (hp : p < s.parts.length) (l : Nat) :
    part (rejectAt s p l) p = rejectedPart (part s p) l := by
  unfold rejectAt
  rw [part_rejectAccess (by rwa [withPart_parts, updAt_length]), part_withPart _ _ _ hp]
  rfl

theorem received_rejectAt (s : State) (p l : Nat) : received (rejectAt s p l) = received s := received_of_ports (sendEvent_ports ..)

theorem rejectAt_parts_length (s : State) (p l : Nat) : (rejectAt s p l).parts.length = s.parts.length := by
  unfold rejectAt rejectAccess withMem
  rw [sendEvent_parts, withPart_parts, withPart_parts, updAt_length, updAt_length]

theorem bufs_rejectedPart (q : Partition) (l : Nat) :
    ((rejectedPart q l).clusters.getD l clusterReset).core.dma.bufs = (q.clusters.getD l clusterReset).core.dma.bufs := by
  unfold rejectedPart
  rw [updAt_getD]
  split <;> rfl

/-- Does a rejected address fall in a read that waits for a rank (10, R342). -/
def rejects (f : Flit) (r : AwaitRead) : Bool := r.dst = f.src && decide (r.addr ≤ f.addr) && decide (f.addr < r.addr + max 1 r.len)

/-- A REJECT of an awaited read: it is counted, and its buffer becomes present with poison (10, R342). -/
theorem rxReject_read {s : State} {p : Nat} {f : Flit} {r : AwaitRead} {l : Nat} (hreads : (part s p).lk.reads = [r])
    (hhere : localOf s p r.lcl = some l) (hhit : rejects f r = true) :
    rxReject s p f =
      landItem (setFetched (rejectAt (withLk s p (fun k => { k with reads := k.reads.erase r })) p l) p l r.buf 0 [] true) p l r.buf
        r.mark := by
  have hfind : (part s p).lk.reads.find? (rejects f) = some r := by rw [hreads, List.find?_cons_of_pos hhit]
  unfold rxReject
  change (match (part s p).lk.reads.find? (rejects f) with | some r => _ | none => _) = _
  rw [hfind]
  change (match localOf s p r.lcl with | some l => _ | none => _) = _
  rw [hhere]

theorem deliverFlit_reject {f : Flit} (h : f.mtype = 0x12) (s : State) (p k : Nat) : deliverFlit s p k f = rxReject s p f := by
  unfold deliverFlit
  rw [h]
  rfl

theorem exec_reject (a : FlitArgs) (s : State) : exec (.reject a) s = flitRow a (isData 0x12) s := rfl

/-- A read that its rank rejects is no longer awaited; the access counts, and the buffer is present with poison (10, R342). -/
theorem exec_reject_read {s : State} {a : FlitArgs} {p : Nat} (h : flitHome s a p) (htype : (markedFlit a).mtype = 0x12) {r : AwaitRead}
    {l : Nat} (hhere : readHere s p r l) (hhit : rejects (markedFlit a) r = true) :
    ∃ t q, exec (.reject a) s = .next t ∧ flitTaken s t a ∧ q.clusters = (part s p).clusters ∧ q.hbm = (part s p).hbm ∧
      q.mem = (part s p).mem ∧ q.lk.reads = [] ∧ part t p = landedPart (rejectedPart q l) l r.buf (0, [], true) r.mark := by
  have hunc : a.unc = 0 := unc_of_home h
  obtain ⟨hreads, hlocal, -⟩ := hhere
  have hlt := lt_of_home h
  have hlt' : ∀ g, p < (withLk (tookFlit s a) p g).parts.length := fun g => by
    simpa only [withLk, withPart_parts, updAt_length] using hlt
  have hlocal' : localOf (tookFlit s a) p r.lcl = some l := (localOf_tookFlit hunc ..).trans hlocal
  have hdeliver := (deliverFlit_reject htype (tookFlit s a) p a.port).trans
    (rxReject_read (by rw [part_tookFlit hunc, hreads]) hlocal' hhit)
  obtain ⟨hnext, htaken⟩ := flitRow_delivered h htype (by decide) hdeliver
    ((received_land ..).trans ((received_rejectAt ..).trans (received_withLk ..)))
  rw [exec_reject]
  refine ⟨_, _, hnext, htaken, ?_, ?_, ?_, ?_,
    (part_controlFlit ..).trans ((part_land (by rw [rejectAt_parts_length]; exact hlt' _) ..).trans (by rw [part_rejectAt (hlt' _)]))⟩
  all_goals rw [withLk, part_withPart _ _ _ hlt, part_tookFlit hunc]
  simp only [hreads, List.erase_cons_head]

end Sys2Proof.Machine
end


section
/-! SUPPORT. The responses ACK, NACK and ROUTE_FAIL: what they take from the messages that wait, the role epoch that a NACK brings, a route
that fails (12, R389, R410, R411, R416). -/

namespace Sys2Proof.Machine

/-! ## ACK -/

theorem part_withLk {s : State} {p : Nat} (hp : p < s.parts.length) (g : LkRegs → LkRegs) :
    part (withLk s p g) p = { part s p with lk := g (part s p).lk } := part_withPart s p _ hp

theorem withLk_parts_length (s : State) (p : Nat) (g : LkRegs → LkRegs) : (withLk s p g).parts.length = s.parts.length :=
  updAt_length ..

/-- A change of the link registers of a partition leaves the memory. -/
theorem memoryStands_withLk {s u : State} {p : Nat} (hpart : ∀ k, part u k = part s k) (hp : p < u.parts.length) (g : LkRegs → LkRegs) :
    memoryStands s (withLk u p g) p := by
  unfold memoryStands
  rw [part_withLk hp, hpart]
  exact ⟨rfl, rfl, rfl, rfl, fun k _ hk => (part_withPart_ne u p k _ hk.symm).trans (hpart k)⟩

theorem memoryStands_controlFlit {s t : State} {p : Nat} (h : memoryStands s t p) (k : Nat) (half : Bool) (ltype : Nat) (d : List Byte) :
    memoryStands s (controlFlit t k half ltype d) p := h

/-- The registers of a partition after an ACK (12, R389). -/
def ackedRegs (f : Flit) (l : LkRegs) : LkRegs :=
  { l with acks := match l.acks.findIdx? (fun x => x.dst = f.src && x.tag = f.arg) with
      | some i => l.acks.eraseIdx i
      | none => l.acks }

theorem rxAck_eq (s : State) (p : Nat) (f : Flit) : rxAck s p f = withLk s p (ackedRegs f) := rfl

theorem deliverFlit_ack {f : Flit} (h : f.mtype = 0x11) (s : State) (p k : Nat) : deliverFlit s p k f = rxAck s p f := by
  unfold deliverFlit
  rw [h]
  rfl

theorem exec_ack (a : FlitArgs) (s : State) : exec (.ack a) s = flitRow a (isData 0x11) s := rfl

section
variable {s : State} {a : FlitArgs} {p : Nat} (h : flitHome s a p)
include h

/-- An ACK takes the first message of its rank and step from those that wait (12, R389). -/
theorem exec_ack_home (htype : (markedFlit a).mtype = 0x11) :
    ∃ t, exec (.ack a) s = .next t ∧ flitTaken s t a ∧ memoryStands s t p ∧
      (part t p).lk = ackedRegs (markedFlit a) (part s p).lk := by
  have hpart := part_tookFlit (s := s) (unc_of_home h)
  have hdeliver := (deliverFlit_ack htype (tookFlit s a) p a.port).trans (rxAck_eq ..)
  obtain ⟨hnext, htaken⟩ := flitRow_delivered h htype (by decide) hdeliver (received_withLk ..)
  rw [exec_ack]
  refine ⟨_, hnext, htaken, memoryStands_controlFlit (memoryStands_withLk hpart (lt_of_home h) _) .., ?_⟩
  rw [part_controlFlit, part_withLk (lt_of_home h), hpart]

end

/-! ## NACK -/

/-- A NACK with the role epoch that the table gives changes the count alone (12, R416). -/
theorem rxNack_same {s : State} {p : Nat} {f : Flit} (h : f.arg % 65536 = routeEpoch s p f.src) (k : Nat) :
    rxNack s p k f = withLk s p (fun l => { l with nackRx := satInc l.nackRx 1 }) := by
  unfold rxNack
  simp only [h, decide_true, Bool.or_true, if_true]

/-- The state in which a NACK of another role epoch has put that into the table (12, R416). -/
def nackedState (s : State) (p k : Nat) (f : Flit) : State :=
  sendEvent (hbmStore .quiet (withLk s p (fun l => { l with nackRx := satInc l.nackRx 1 })) p
    (protOff ((part s p).lk.baseEff + 16 * f.src + 14)) (leBytes 2 (f.arg % 65536))) (srcPort k) p 0x0581 0

theorem rxNack_other {s : State} {p : Nat} {f : Flit} (h : f.arg % 65536 ≠ routeEpoch s p f.src) (hcount : f.src < (part s p).lk.countEff)
    (k : Nat) : rxNack s p k f = requestReplay (nackedState s p k f) p := by
  unfold rxNack
  simp only []
  rw [if_neg]
  · rfl
  · simp only [Bool.or_eq_true, decide_eq_true_eq, not_or]
    exact ⟨by omega, h⟩

theorem memRead_drop {w : Nat} (m : Mem w) (a k n : Nat) : (memRead m a (k + n)).drop k = memRead m (a + k) n := by
  apply List.ext_getElem (by simp [memRead_eq])
  intro i _ _
  simp [memRead_eq, Nat.add_assoc]

theorem routeEpoch_clean {s : State} (h : tierClean s = true) (p r : Nat) :
    routeEpoch s p r = leNat (memRead (part s p).hbm (protOff ((part s p).lk.baseEff + 16 * r + 14)) 2) := by
  unfold routeEpoch routeEntry
  rw [hbmBytes_clean h, memRead_drop _ _ 14 2]
  rfl

/-- Bytes that stand one by one are read together. -/
theorem memRead_of_memGet {w : Nat} {m : Mem w} {a : Nat} {d : List (BitVec w)}
    (h : ∀ i, i < d.length → memGet m (a + i) = d.getD i 0) :
    memRead m a d.length = d := by
  apply List.ext_getElem (by rw [memRead_eq, List.length_map, List.length_range])
  intro i _ hi
  simp only [memRead_eq, List.getElem_map, List.getElem_range]
  rw [h i hi, List.getD_eq_getElem _ _ hi]

theorem memRead_writeSegments (m : Mem 8) (a : Nat) {d : List Byte} {n : Nat} (h : d.length = n) :
    memRead (writePieces m ((segments a d).map segPiece)) a n = d := by
  subst h
  apply memRead_of_memGet
  intro i hi
  rw [memGet_writeSegments, if_pos (by omega), Nat.add_sub_cancel_left]

theorem tierClean_nackedState {s : State} (hclean : tierClean s = true) (p k : Nat) (f : Flit) :
    tierClean (nackedState s p k f) = true := by
  unfold nackedState
  rw [of_inward tierClean (fun _ => rfl) (inward_sendEvent ..), hbmStore_quiet_clean (by exact hclean)]
  exact hclean

/-- The partition of a NACK: counted, the copies of an open cut, and two bytes of the route table. -/
theorem part_nackedState {s : State} {p : Nat} (hclean : tierClean s = true) (hp : p < s.parts.length) (k : Nat) (f : Flit) :
    ∃ ck, part (nackedState s p k f) p = { part s p with
      lk := { (part s p).lk with nackRx := satInc (part s p).lk.nackRx 1 }, ck := ck,
      hbm := writePieces (part s p).hbm
        ((segments (protOff ((part s p).lk.baseEff + 16 * f.src + 14)) (leBytes 2 (f.arg % 65536))).map segPiece) } := by
  unfold nackedState
  rw [part_sendEvent, hbmStore_quiet_clean (by exact hclean), part_withPart _ _ _ (by rwa [withLk_parts_length]), part_withLk hp]
  obtain ⟨ck, hck⟩ := foldl_quietSeg { part s p with lk := { (part s p).lk with nackRx := satInc (part s p).lk.nackRx 1 } }
    (segments (protOff ((part s p).lk.baseEff + 16 * f.src + 14)) (leBytes 2 (f.arg % 65536)))
  exact ⟨ck, hck⟩

/-- What a NACK of another role epoch leaves: the count, the replay asked for, and the epoch in the table (12, R416). -/
theorem nacked_requestReplay {s : State} {p : Nat} (hclean : tierClean s = true) (hreplay : canReplay (part s p) = true)
    (k : Nat) (f : Flit) {t : State} (ht : inward t = inward (requestReplay (nackedState s p k f) p)) :
    (part t p).lk.nackRx = satInc (part s p).lk.nackRx 1 ∧ (part t p).se.asked = true ∧
      (part t p).seq.attempt = (part s p).seq.attempt ∧ routeEpoch t p f.src = f.arg % 65536 := by
  have hr := (canReplay_iff _).1 hreplay
  obtain ⟨ck, hpart⟩ := part_nackedState hclean (lt_of_running hr.run) k f
  have hr' : Replayable (part (nackedState s p k f) p) := by
    rw [hpart]
    exact ⟨hr.run, hr.asked, hr.replaying, hr.frozen, hr.unreplayable, hr.hj, hr.room, hr.attempt, hr.root⟩
  have hafter := replayTaken_requestReplay hr'
  rw [← part_of_inward ht, hpart] at hafter
  have hclean' : tierClean t = true :=
    (of_inward tierClean (fun _ => rfl) (ht.trans (inward_requestReplay hr'))).trans (tierClean_nackedState hclean p k f)
  refine ⟨by rw [hafter], by rw [hafter], by rw [hafter], ?_⟩
  rw [routeEpoch_clean hclean', hafter]
  rw [memRead_writeSegments _ _ (length_leBytes 2 _), leNat_leBytes]
  omega

theorem received_nackedState {s : State} (hclean : tierClean s = true) (p k : Nat) (f : Flit) :
    received (nackedState s p k f) = received s := by
  unfold nackedState
  rw [received_of_ports (sendEvent_ports ..), hbmStore_quiet_clean (by exact hclean)]
  rfl

theorem deliverFlit_nack {f : Flit} (h : f.mtype = 0x10) (s : State) (p k : Nat) : deliverFlit s p k f = rxNack s p k f := by
  unfold deliverFlit
  rw [h]
  rfl

theorem exec_nack (a : FlitArgs) (s : State) : exec (.nack a) s = flitRow a (isData 0x10) s := rfl

section
variable {s : State} {a : FlitArgs} {p : Nat} (h : flitHome s a p) (htype : (markedFlit a).mtype = 0x10)
include h htype

theorem exec_nack_same (hsame : (markedFlit a).arg % 65536 = routeEpoch s p (markedFlit a).src) :
    ∃ t, exec (.nack a) s = .next t ∧ flitTaken s t a ∧ memoryStands s t p ∧
      (part t p).lk.nackRx = satInc (part s p).lk.nackRx 1 := by
  have hpart := part_tookFlit (s := s) (unc_of_home h)
  have hdeliver := (deliverFlit_nack htype (tookFlit s a) p a.port).trans
    (rxNack_same (hsame.trans (routeEpoch_tookFlit (unc_of_home h) ..).symm) a.port)
  obtain ⟨hnext, htaken⟩ := flitRow_delivered h htype (by decide) hdeliver (received_withLk ..)
  rw [exec_nack]
  refine ⟨_, hnext, htaken, memoryStands_controlFlit (memoryStands_withLk hpart (lt_of_home h) _) .., ?_⟩
  rw [part_controlFlit, part_withLk (lt_of_home h), hpart]

theorem exec_nack_other (hother : (markedFlit a).arg % 65536 ≠ routeEpoch s p (markedFlit a).src)
    (hcount : (markedFlit a).src < (part s p).lk.countEff) (hreplay : canReplay (part s p) = true) (hclean : tierClean s = true) :
    ∃ t, exec (.nack a) s = .next t ∧ flitTaken s t a ∧ (part t p).lk.nackRx = satInc (part s p).lk.nackRx 1 ∧
      (part t p).se.asked = true ∧ (part t p).seq.attempt = (part s p).seq.attempt ∧
      routeEpoch t p (markedFlit a).src = (markedFlit a).arg % 65536 := by
  have hpart := part_tookFlit (s := s) (unc_of_home h) p
  have hclean' : tierClean (tookFlit s a) = true := (tierClean_tookFlit (unc_of_home h) s).trans hclean
  have hdeliver := (deliverFlit_nack htype (tookFlit s a) p a.port).trans
    (rxNack_other (by rwa [routeEpoch_tookFlit (unc_of_home h)]) (by rwa [hpart]) a.port)
  obtain ⟨hnext, htaken⟩ := flitRow_delivered h htype (by decide) hdeliver
    ((received_requestReplay ..).trans (received_nackedState hclean' ..))
  rw [exec_nack]
  refine ⟨_, hnext, htaken, ?_⟩
  rw [← hpart]
  exact nacked_requestReplay hclean' (by rwa [hpart]) a.port (markedFlit a) (inward_controlFlit ..)

end

/-! ## ROUTE_FAIL -/

/-- The registers of a partition that leaves a failed route for the alternate one from the next attempt on (12, R410). -/
def leaveRoute (r : Nat) (x : LkRegs) : LkRegs := { x with altNext := x.altNext ++ [r], pflags := x.pflags ||| 4 }

theorem bits_zero (v n : Nat) : bits v 0 n = v % 2 ^ n := by rw [bits, Nat.pow_zero, Nat.div_one]

theorem rxRouteFail_first {s : State} {p : Nat} {f : Flit} (halt : (part s p).lk.alt.contains (f.arg % 2 ^ 18) = false)
    (hnext : (part s p).lk.altNext.contains (f.arg % 2 ^ 18) = false) (k : Nat) :
    rxRouteFail s p k f = requestReplay (withLk s p (leaveRoute (f.arg % 2 ^ 18))) p := by
  unfold rxRouteFail
  simp only [bits_zero, halt, hnext, Bool.false_eq_true, if_false]
  rfl

theorem rxRouteFail_again {s : State} {p : Nat} {f : Flit} (halt : (part s p).lk.alt.contains (f.arg % 2 ^ 18) = true) (k : Nat) :
    rxRouteFail s p k f = routeLost s p k := by
  unfold rxRouteFail
  simp only [bits_zero, halt, if_true]

/-- A destination without a usable route ends the job (12, R411). -/
theorem jobEnded_routeLost {s : State} {p : Nat} (h : (part s p).st = .running) (k : Nat) : jobEnded s (routeLost s p k) p 0x00040482 := by
  have hp := lt_of_running h
  have hlost : (part (withLk s p (fun l => { l with pflags := l.pflags ||| 8 })) p).st = .running := by rwa [part_withLk hp]
  refine jobEnded_of_endedPart (code := 0x0482) (part_faultEnd (jobActive_of_running hlost) ..) (fun n hn => ?_) ?_ ?_ ?_
  · exact (part_of_apart hn (apart_faultEnd ..)).trans (part_withPart_ne s p n _ hn.symm)
  all_goals rw [part_withLk hp]
  exact ⟨rfl, rfl, rfl⟩

theorem received_routeLost (s : State) (p k : Nat) : received (routeLost s p k) = received s := received_of_ports (faultEnd_ports ..)

theorem deliverFlit_routeFail {f : Flit} (h : f.mtype = 0x13) (s : State) (p k : Nat) : deliverFlit s p k f = rxRouteFail s p k f := by
  unfold deliverFlit
  rw [h]
  rfl

theorem exec_routeFail (a : FlitArgs) (s : State) : exec (.routeFail a) s = flitRow a (isData 0x13) s := rfl

section
variable {s : State} {a : FlitArgs} {p : Nat} (h : flitHome s a p) (htype : (markedFlit a).mtype = 0x13)
include h htype

/-- A route that fails first: the step replays, and the next attempt takes the alternate route (12, R410). -/
theorem exec_routeFail_first (halt : (part s p).lk.alt.contains ((markedFlit a).arg % 2 ^ 18) = false)
    (hnext : (part s p).lk.altNext.contains ((markedFlit a).arg % 2 ^ 18) = false) (hreplay : canReplay (part s p) = true) :
    ∃ t, exec (.routeFail a) s = .next t ∧ flitTaken s t a ∧ replayTaken s t p ∧
      (part t p).lk.altNext = (part s p).lk.altNext ++ [(markedFlit a).arg % 2 ^ 18] := by
  have hpart := part_tookFlit (s := s) (unc_of_home h) p
  have hr := (canReplay_iff _).1 hreplay
  have hu : part (withLk (tookFlit s a) p (leaveRoute ((markedFlit a).arg % 2 ^ 18))) p =
      { part s p with lk := leaveRoute ((markedFlit a).arg % 2 ^ 18) (part s p).lk } := by
    rw [part_withLk (lt_of_home h), hpart]
  have hafter := replayTaken_requestReplay (s := withLk (tookFlit s a) p (leaveRoute ((markedFlit a).arg % 2 ^ 18))) (p := p) (by
    rw [hu]
    exact ⟨hr.run, hr.asked, hr.replaying, hr.frozen, hr.unreplayable, hr.hj, hr.room, hr.attempt, hr.root⟩)
  rw [hu] at hafter
  have hdeliver := (deliverFlit_routeFail htype (tookFlit s a) p a.port).trans
    (rxRouteFail_first (by rwa [hpart]) (by rwa [hpart]) a.port)
  obtain ⟨hstep, htaken⟩ := flitRow_delivered h htype (by decide) hdeliver
    ((received_requestReplay ..).trans (received_withLk ..))
  rw [exec_routeFail]
  refine ⟨_, hstep, htaken, ?_, ?_⟩
  · unfold replayTaken
    rw [part_controlFlit, hafter]
    exact ⟨rfl, hr.run, rfl, rfl⟩
  · rw [part_controlFlit, hafter]
    rfl

/-- A route that fails where the alternate one is in use: the job ends (12, R411). -/
theorem exec_routeFail_again (halt : (part s p).lk.alt.contains ((markedFlit a).arg % 2 ^ 18) = true) :
    ∃ t, exec (.routeFail a) s = .next t ∧ flitTaken s t a ∧ jobEnded s t p 0x00040482 := by
  have hpart := part_tookFlit (s := s) (unc_of_home h)
  have hrun : (part s p).st = .running := h.2.2.2.2.2.1
  have hdeliver := (deliverFlit_routeFail htype (tookFlit s a) p a.port).trans (rxRouteFail_again (by rwa [hpart]) a.port)
  obtain ⟨hnext, htaken⟩ := flitRow_delivered h htype (by decide) hdeliver (received_routeLost ..)
  rw [exec_routeFail]
  refine ⟨_, hnext, htaken, ?_⟩
  have hended := jobEnded_routeLost (s := tookFlit s a) (by rwa [hpart]) a.port
  unfold jobEnded at hended ⊢
  simpa only [hpart, part_controlFlit] using hended

end

end Sys2Proof.Machine
end


section
/-! SUPPORT. O38 from the rows of the remote reads and of the responses (10, R329, R341, R342; 12, R389, R405, R410, R411, R416). -/

namespace Sys2Proof.Machine

/-- What an observer looks for in the answer to a remote read: type, rank, address of the buffer, bytes. -/
theorem any_of_sentFirstHop {s t : State} {p r : Nat} {g : Flit} (h : sentFirstHop s t p r g) (test : Flit → Bool)
    (htest : ∀ x, test (flitMessage x) = test x) (hg : test g = true) :
    (outgoing t (pathEntry (routePath s p r false) 0 % 32) ((pathEntry (routePath s p r false) 0).testBit 5)).any test = true := by
  obtain ⟨x, hx, hxg⟩ := h
  rw [List.any_eq_true]
  exact ⟨x, hx, by rw [← htest, hxg, htest, hg]⟩

/-- Where a partition's awaited read lands: cluster l, whose buffer has what came and whose SRAM has the bytes. -/
theorem landedPart_read {s : State} {p : Nat} {r : AwaitRead} {l : Nat} (h : readHere s p r l) {q : Partition}
    (hclusters : (q.clusters.getD l clusterReset).core.dma.bufs = ((part s p).clusters.getD l clusterReset).core.dma.bufs)
    (hlen : q.clusters.length = (part s p).clusters.length) (a : Nat) (d : List Byte) (poison : Bool) (mark : Option Nat) :
    ((landedPart q l r.buf (a, d, poison) mark).clusters.getD l clusterReset).sram =
        sramWrite (q.clusters.getD l clusterReset).sram a d ∧
      ((landedPart q l r.buf (a, d, poison) mark).clusters.getD l clusterReset).core.dma.bufs.getD r.buf bufferFree =
        { ((part s p).clusters.getD l clusterReset).core.dma.bufs.getD r.buf bufferFree with
          present := true, presentAt := q.seq.cclk, fetched := none,
          mark := strongerMark (((part s p).clusters.getD l clusterReset).core.dma.bufs.getD r.buf bufferFree).mark mark,
          poisoned := (((part s p).clusters.getD l clusterReset).core.dma.bufs.getD r.buf bufferFree).poisoned || poison } := by
  obtain ⟨-, -, hl, hopen⟩ := h
  rw [getD_landedPart (by omega), ← hclusters]
  apply landedAt_openRead
  unfold openRead
  rw [hclusters]
  exact hopen

section
variable {s : State} {a : FlitArgs} {p : Nat} (h : flitHome s a p) {r : AwaitRead} {l : Nat} (hhere : readHere s p r l)
include h hhere

theorem exec_rreadData_lands (htype : (markedFlit a).mtype = 4)
    (haddr : (markedFlit a).addr = r.lcl * 2 ^ 30 + r.buf * 2 ^ 24) (hdst : r.dst = (markedFlit a).src)
    (hgot : r.got = []) (hplen : (markedFlit a).plen = r.len) (hlcl : r.lcl < 512) (hbuf : r.buf < 64) (hlen : r.len ≤ 192) :
    ∃ t, exec (.rreadData a) s = .next t ∧ flitTaken s t a ∧ (part t p).lk.reads = [] ∧ (part t p).hbm = (part s p).hbm ∧
      (let c := (part t p).clusters.getD l clusterReset
       let b := ((part s p).clusters.getD l clusterReset).core.dma.bufs.getD r.buf bufferFree
       let d := c.core.dma.bufs.getD r.buf bufferFree
       d.present = true ∧ d.poisoned = (b.poisoned || r.poison || flitPoison (flitOf (wordBytes a.word))) ∧
       d.mark = strongerMark b.mark (strongerMark r.mark (flitMark (markedFlit a))) ∧
       ∀ x : Nat, r.sram ≤ x → x < r.sram + r.len → r.sram + r.len ≤ 2097152 →
         memGet c.sram x = (markedFlit a).payload.getD (x - r.sram) 0) := by
  obtain ⟨t, q, hnext, htaken, hclusters, hhbm, hreads, ht⟩ :=
    exec_rreadData_whole h htype hhere haddr hdst hgot hplen hlcl hbuf hlen
  obtain ⟨hsram, hland⟩ := landedPart_read hhere (q := q) (by rw [hclusters]) (by rw [hclusters]) r.sram (flitData (markedFlit a))
    (r.poison || flitPoison (markedFlit a)) (strongerMark r.mark (flitMark (markedFlit a)))
  have hdata := length_flitData hplen hlen
  refine ⟨t, hnext, htaken, by rw [ht]; exact hreads, by rw [ht]; exact hhbm, ?_⟩
  simp only [ht]
  rw [hland, hsram, hclusters]
  refine ⟨rfl, by rw [flitPoison_markedFlit, Bool.or_assoc], rfl, fun x hlo hhi hmax => ?_⟩
  rw [memGet_sramWrite (by omega) hlo (by omega), flitData, List.getD_eq_getElem?_getD, List.getD_eq_getElem?_getD,
    List.getElem?_take_of_lt (by omega)]

theorem exec_reject_lands (htype : (markedFlit a).mtype = 0x12) (hhit : rejects (markedFlit a) r = true) :
    ∃ t, exec (.reject a) s = .next t ∧ flitTaken s t a ∧ (part t p).lk.reads = [] ∧ (part t p).hbm = (part s p).hbm ∧
      (part t p).mem.reject = satInc (part s p).mem.reject 1 ∧
      (((part t p).clusters.getD l clusterReset).core.dma.bufs.getD r.buf bufferFree).present = true ∧
      (((part t p).clusters.getD l clusterReset).core.dma.bufs.getD r.buf bufferFree).poisoned = true := by
  obtain ⟨t, q, hnext, htaken, hclusters, hhbm, hmem, hreads, ht⟩ := exec_reject_read h htype hhere hhit
  obtain ⟨-, hbuf⟩ := landedPart_read hhere (q := rejectedPart q l) (by rw [← hclusters]; exact bufs_rejectedPart ..)
    (by rw [← hclusters]; exact updAt_length ..) 0 [] true r.mark
  refine ⟨t, hnext, htaken, by rw [ht]; exact hreads, by rw [ht]; exact hhbm, ?_, ?_⟩
  · rw [ht, ← hmem]
    rfl
  · rw [ht, hbuf]
    exact ⟨rfl, Bool.or_true _⟩

end

/-- Settles O38, row by row: every message is at its destination, so its unit alone decides what it does. -/
theorem remoteReads : Obligations.RemoteReads := by
  unfold Obligations.RemoteReads
  constructor
  · intro s a p h hclean
    refine ⟨fun htype hok hready hlen => ?_, fun htype r l hhere => exec_rreadData_lands h hhere htype,
      fun htype r l hhere hdst hlo hhi => exec_reject_lands h hhere htype ?_⟩
    · obtain ⟨t, hnext, htaken, hstands, epoch, path, hsent⟩ := exec_rreadReq_short h hclean htype hok hready hlen
      refine ⟨t, hnext, htaken, hstands, any_of_sentFirstHop hsent _ (fun _ => rfl) ?_⟩
      simp [remoteAnswer, flitFrom, markedFlit]
    · simp only [rejects, Bool.and_eq_true, decide_eq_true_eq]
      exact ⟨⟨hdst, hlo⟩, hhi⟩
  · intro s a p h _
    refine ⟨fun htype => ?_, fun htype => ⟨exec_nack_same h htype, ?_⟩,
      fun htype => ⟨exec_routeFail_first h htype, exec_routeFail_again h htype⟩⟩
    · obtain ⟨t, hnext, htaken, hstands, ht⟩ := exec_ack_home h htype
      exact ⟨t, hnext, htaken, hstands, congrArg LkRegs.acks ht⟩
    · intro hother hcount hreplay _ hclean
      exact exec_nack_other h htype hother hcount hreplay hclean

end Sys2Proof.Machine
end

section
/-! SUPPORT. A plan change in a state with a ninth solver context, which refutes O48 (14, R450; 17, R578). -/

namespace Sys2Proof.Machine

/-- A READY module with one partition, no job, and nine solver contexts in use. -/
def ninthContext : State :=
  { State.reset with
    boot := { bootReset with st := .ready, byFw := true, copy := fuseReset, planOn := true }, host := { hostReset with up := true },
    beryl := { berylReset with ctxs := List.replicate 9 { qpCtxReset with enable := true } } }

/-- PLAN_CHANGE to plan 0 from the mailbox of the physical function. -/
def toPlanZero : HostArgs := { fn := 0, mbox := true, tag := 0, args := 0 }

theorem hostSends_toPlanZero : hostSends ninthContext toPlanZero 0x30 :=
  ⟨⟨by decide, rfl, rfl, rfl, rfl, rfl, nofun⟩, rfl, by decide, by decide +kernel⟩

/-- Is every solver context free after a command that goes on. -/
def solverFree : Out → Bool
  | .next t => t.beryl.ctxs.all (fun c => !c.enable && c.vals.isNone)
  | _ => true

/-- A plan change clears contexts 0 to 7 alone. -/
theorem not_solverFree_planChange : solverFree (exec (.planChange toPlanZero) ninthContext) = false := by decide +kernel

/-- Refutes O48: the clause on PLAN_CHANGE speaks of every solver context of the state, with no bound of eight, and a ninth one stays
in use. -/
theorem not_jobs : ¬ Obligations.Jobs := by
  unfold Obligations.Jobs
  rintro ⟨-, -, -, hplan⟩
  obtain ⟨-, -, -, hchange⟩ := hplan ninthContext toPlanZero hostSends_toPlanZero rfl
  obtain ⟨t, hnext, -, -, -, -, -, hfree, -⟩ := hchange (by decide +kernel) (by decide) (by decide)
  have hkept := not_solverFree_planChange
  rw [hnext] at hkept
  exact absurd (hfree.symm.trans hkept) (by decide)

end Sys2Proof.Machine
end

section
/-! SUPPORT. An HBM journal that runs into the norm records of a group, which refutes O32 (11, R360, R361; 15, R492). -/

namespace Sys2Proof.Machine

/-- Group 0: one tensor, described at 0x2000, the program of code 1, and norm records from 0x4000 (11, R351). -/
def journalledGroup : UpdGroup :=
  { tensOff := 0x2000, tensCount := 1, opt := 1, flags := 1, stateOff := 0x3000, normOff := 0x4000, undoOff := 0x5000, undoBytes := 1152,
    lr := 0, wd := 0, b1 := 0, omb1 := 0, b2 := 0, omb2 := 0, eps := 0, gscale := 0x3F800000, absMax := 0, relMax := 0 }

/-- Its tensor: four elements, with their gradients at 0x7000 (11, R352). -/
def journalledTensor : UpdTensor :=
  { n := 4, stateOff := 0x6000, gradOff := 0x7000, workOff := 0, wscaleOff := 0, fmt := 1, bsize := 0, flags := 0, clipMax := 0,
    contribOff := 0 }

/-- The descriptors in the protected region; every byte that is not listed is zero, so are the gradients. -/
def journalledHbm : Mem 8 :=
  memWrite
    (memWrite [] (protOff 0x1000)
      (leBytes 8 0x2000 ++ leBytes 4 1 ++ leBytes 2 1 ++ leBytes 2 1 ++ leBytes 8 0x3000 ++ leBytes 8 0x4000 ++ leBytes 8 0x5000 ++
        leBytes 8 1152 ++ leBytes 28 0 ++ leBytes 4 0x3F800000))
    (protOff 0x2000) (leBytes 8 4 ++ leBytes 8 0x6000 ++ leBytes 8 0x7000 ++ leBytes 16 0 ++ leBytes 1 1)

/-- A running partition with MEASURE of group 0 at the head of its queue. Its HBM journal holds four records from 0x3F80: the second,
third and fourth lie at 0x4000 and above, where the norm record goes. -/
def journalledPart : Partition :=
  { partReset with
    st := .running, hbm := journalledHbm, job := { jobNone with updDir := some 0x1000, ranks := 1 },
    mem := { memRegsReset with u := 1, p := 1, live := List.range 8, prot := List.range 8 },
    se := { partReset.se with hjOffEff := 0x3F80, hjBytesEff := 512 },
    upd := { updReset with queue := [{ u := 0, group := 0, phase := 0, waiters := [(0, 0, 0)] }] } }

/-- A module with one partition, journalledPart. -/
def journalledState : State :=
  { State.reset with
    boot := { bootReset with st := .ready, byFw := true, copy := fuseReset, planOn := true },
    parts := journalledPart :: List.replicate 11 partReset }

theorem phaseWaits_journalledState : phaseWaits (part journalledState 0) 0 (0 : BitVec 6).toNat 0 0 0 := ⟨rfl, rfl, rfl, rfl⟩

/-- The group passes every check of R356, and nothing there asks where the journal lies. -/
theorem updCheck_journalledState :
    updCheck journalledState 0 (0 : BitVec 6).toNat false = .ok journalledGroup [journalledTensor] := by decide +kernel

theorem tierClean_journalledState : tierClean journalledState = true := by decide

theorem measureTensor_journalledTensor : measureTensor journalledState 0 journalledGroup journalledTensor = (0, 0) := by decide +kernel

/-- The journal's record of the norm record's second line comes after the first line is written, and its first field is the offset of
the second line (15, R492). -/
theorem firstLimb_after_measure :
    (memRead (part (doMeasure journalledState 0 0) 0).hbm (protOff 0x4000) 256).take 8 = leBytes 8 (protOff 0x4040) := by
  decide +kernel

/-- Limb 0 of the norm of four zeros is zero. -/
theorem firstLimb_normRecord_zero : (normRecord 0 0 4).take 8 = leBytes 8 0 := by decide +kernel

/-- Refutes O32: the clause on MEASURE does not keep the HBM journal off the norm records. In journalledState the journal's records
fall on lines of the norm record that are already written. -/
theorem not_updatePhases : ¬ Obligations.UpdatePhases := by
  unfold Obligations.UpdatePhases
  rintro ⟨hmeasure, -⟩
  obtain ⟨-, hok⟩ := hmeasure journalledState 0 0 0 0 0 (by decide) rfl phaseWaits_journalledState
  obtain ⟨t, hnext, -, -, hrecords⟩ := hok _ _ updCheck_journalledState tierClean_journalledState rfl
  have hrun : exec (.measure 0 0) journalledState = .next (doMeasure journalledState 0 0) := rfl
  have ht : doMeasure journalledState 0 0 = t := by
    rw [hrun] at hnext
    injection hnext
  have hrecord : memRead (part t 0).hbm (protOff 0x4000) 256 = normRecord
      (measureTensor journalledState 0 journalledGroup journalledTensor).1
      (measureTensor journalledState 0 journalledGroup journalledTensor).2 4 := hrecords 0 (by decide)
  have hlimb := firstLimb_after_measure
  rw [ht, hrecord, measureTensor_journalledTensor, firstLimb_normRecord_zero] at hlimb
  exact absurd hlimb (by decide)

end Sys2Proof.Machine
end

section
/-! SUPPORT. A TRAIN flit that completes a retraining may make the link retrain again, and the port's health score then reaches the
running jobs, which refutes O36 (12, R396, R398; 15, R502, R503; 16, R537). -/

namespace Sys2Proof.Machine

/-! ## A port's score at its warning level -/

/-- A score that reaches the warning level of its unit for the first time asks every running job for a checkpoint (15, R503). -/
theorem addHealth_parts_of_warn {s : State} {u : EvSrc} {w warn decay : Nat} {fail : Option Nat}
    (hlev : healthLevels u.unit = some (warn, fail, decay)) (hscore : warn ≤ (satInc (healthOf s u).score w).toNat)
    (hfirst : (healthOf s u).warned = false) : (addHealth s u w).1.parts = s.parts.map askCut := by
  have hset : ∀ h src x, (sendEvent (setHealth s h) src 15 0x04B3 x).parts = s.parts := fun h src x => sendEvent_parts ..
  unfold addHealth
  simp only [hlev, hfirst, decide_eq_true hscore, Bool.not_false, Bool.and_true, if_true, apply_ite State.parts, hset, ite_self]
  rfl

theorem healthOf_of_faults {s t : State} (h : t.faults.health = s.faults.health) (u : EvSrc) : healthOf t u = healthOf s u := by
  unfold healthOf
  rw [h]

/-- A link that retransmits a flit for the ninth time retrains, which adds 64 to its port's score (12, R398; 15, R502). -/
theorem retransmit_parts_of_warn {s : State} {k : Nat} {half : Bool} (hst : (linkAt s k half).st = .active)
    (hworn : (linkAt s k half).replay.any (fun e => decide (8 ≤ e.tries)) = true)
    (hscore : 1024 ≤ (satInc (healthOf s (srcPort k)).score 64).toNat) (hfirst : (healthOf s (srcPort k)).warned = false) :
    (retransmit s k half).parts = s.parts.map askCut := by
  have hhealth : ∀ p f g, healthOf (withPort (withLink (sendEvent s (srcPort k) p 0x0483 0) k half f) k g) (srcPort k) =
      healthOf s (srcPort k) := fun p f g =>
    healthOf_of_faults (of_inward (fun t : State => t.faults.health) (fun _ => rfl) (inward_sendEvent s (srcPort k) p 0x0483 0)) _
  unfold retransmit retrainLink portHealth
  simp only [hst, hworn, bne_self_eq_false, Bool.false_eq_true, if_false, if_true, OfNat.ofNat_ne_zero]
  rw [addHealth_parts_of_warn rfl (by rw [hhealth]; exact hscore) (by rw [hhealth]; exact hfirst)]
  exact congrArg (List.map askCut) (sendEvent_parts ..)

theorem pumpLink_parts (s : State) (k : Nat) (half : Bool) : (pumpLink s k half).parts = s.parts := rfl

/-! ## TRAIN -/

/-- A flit that comes whole to a link in PARAM. -/
theorem rxFlit_param {s : State} {a : FlitArgs} (hhalf : hasHalf (countCodewords (advance s a.dt) a) a.port a.half = true)
    (hst : (linkAt (countCodewords (advance s a.dt) a) a.port a.half).st = .param) (hbad : a.bad = false)
    (hcrc : flitCrcOk (wordBytes a.word) = true) (htrain : (flitOf (wordBytes a.word)).ltype = 3) :
    rxFlit s a = rxTrain (countCodewords (advance s a.dt) a) a.port a.half (flitOf (wordBytes a.word)) := by
  unfold rxFlit
  simp only [hhalf, hst, hbad, hcrc, htrain, Bool.not_true, Bool.not_false, Bool.and_true, Bool.false_eq_true, decide_true, if_true,
    if_false]

/-- A link with the peer that a TRAIN flit names (12, R412). -/
def namedLink (f : Flit) (l : Link) : Link :=
  { l with peerId := BitVec.ofNat 64 (leNat (f.payload.take 8)), peerPort := bits (leNat ((f.payload.drop 8).take 1)) 0 6 }

/-- A link that a TRAIN flit makes ACTIVE (12, R392, R398). -/
def trainedLink (f : Flit) (l : Link) : Link :=
  let acked := if l.kept then takeAck l f.ack else l
  let offered := (List.range 4).map (fun c => leNat ((f.payload.drop (10 + 2 * c)).take 2))
  { acked with
    st := .active, kept := false, credits := if l.kept then (acked.credits.zip offered).map (fun e => min e.1 e.2) else offered }

/-- A link that was retrained retransmits what it kept, where its port expects no peer in particular (12, R398, R412). -/
theorem rxTrain_kept {s : State} {k : Nat} {half : Bool} (hid : (portAt s k).expectId = 0)
    (hport : (portAt s k).expectPort.getLsbD 8 = false) (hkept : (linkAt s k half).kept = true) (f : Flit) :
    rxTrain s k half f =
      pumpLink (retransmit (withLink (withLink s k half (namedLink f)) k half (trainedLink f)) k half) k half := by
  unfold rxTrain
  simp only [hid, hport, hkept, bne_self_eq_false, Bool.false_and, Bool.or_self, Bool.false_eq_true, if_true, if_false]
  rfl

/-! ## The counterexample: a kept flit that has gone out eight times again -/

/-- A port in PARAM after a retraining. Its link kept a flit that has gone out eight times again. -/
def wornPort : LkPort :=
  { lkPortReset with a := { linkDown with st := .param, kept := true, replay := [{ flit := flitNone, tries := 8 }] } }

/-- A module with a running job, the ports of wornPort, and a health score of port 0 shortly below its warning level of 1024. -/
def wornState : State :=
  { State.reset with
    parts := { partReset with st := .running } :: List.replicate 11 partReset, ports := List.replicate 24 wornPort,
    faults := { State.reset.faults with
                health := [{ die := 0x1C, unit := 4, index := 0, score := 1000, warned := false, down := false }] } }

/-- A TRAIN flit whose acknowledgement leaves the replay buffer as it is. -/
def plainTrain : Flit := { flitNone with ltype := 3, payload := List.replicate 192 0 }

/-- The flit as it comes to port 0. -/
def trainArrives : FlitArgs :=
  { port := 0, half := false, word := BitVec.ofNat 2048 (leNat (flitBytes plainTrain)), bad := false, fec := false, unc := 0, sym := [],
    dt := 0 }

theorem wordBytes_trainArrives : wordBytes trainArrives.word = flitBytes plainTrain := by decide +kernel

theorem flitOf_trainArrives : flitOf (wordBytes trainArrives.word) = plainTrain := by decide +kernel

theorem flitCrcOk_trainArrives : flitCrcOk (wordBytes trainArrives.word) = true := by
  rw [wordBytes_trainArrives]
  exact flitCrcOk_flitBytes plainTrain

/-- The state in which port 0 has named its peer and is ACTIVE. -/
def trainedState : State :=
  withLink (withLink (countCodewords (advance wornState trainArrives.dt) trainArrives) 0 false (namedLink plainTrain)) 0 false
    (trainedLink plainTrain)

theorem trainedState_parts : trainedState.parts = wornState.parts := by
  rw [trainedState, countCodewords_eq rfl]
  rfl

theorem rxFlit_trainArrives : rxFlit wornState trainArrives = pumpLink (retransmit trainedState 0 false) 0 false := by
  rw [rxFlit_param rfl rfl rfl flitCrcOk_trainArrives (by rw [flitOf_trainArrives]; rfl), flitOf_trainArrives]
  exact rxTrain_kept rfl rfl rfl plainTrain

/-- The flit goes out no ninth time: the link retrains, and the port's warning asks the running job for a checkpoint. -/
theorem pending_after_train : (part (rxFlit wornState trainArrives) 0).ck.pending = true := by
  have hretransmit : (retransmit trainedState 0 false).parts = trainedState.parts.map askCut :=
    retransmit_parts_of_warn (by decide) (by decide) (by decide) (by decide)
  have hparts : (rxFlit wornState trainArrives).parts = wornState.parts.map askCut := by
    rw [rxFlit_trainArrives, pumpLink_parts, hretransmit, trainedState_parts]
  rw [part, hparts]
  decide

theorem exec_trainArrives : exec (.linkTrain trainArrives) wornState = .next (rxFlit wornState trainArrives) := by
  show flitRow trainArrives (fun f => f.ltype = 3) wornState = _
  rw [flitRow, if_neg (by decide), flitOf_trainArrives]
  rfl

/-- Refutes O36: the clause on TRAIN bounds how often the kept flits have gone out only for the state of the link. That no partition
changes it says without the bound, also where a kept flit has gone out eight times again and the link retrains. -/
theorem not_controlAndForward : ¬ Obligations.ControlAndForward := by
  unfold Obligations.ControlAndForward
  rintro ⟨hcontrol, -⟩
  obtain ⟨-, -, htrain⟩ := hcontrol wornState trainArrives (by decide) rfl rfl rfl rfl flitCrcOk_trainArrives
  rw [flitOf_trainArrives] at htrain
  obtain ⟨t, hnext, hparts, -⟩ := htrain rfl rfl
  have ht : rxFlit wornState trainArrives = t := by
    rw [exec_trainArrives] at hnext
    injection hnext
  have hpending : (part t 0).ck.pending = true := ht ▸ pending_after_train
  rw [part, hparts] at hpending
  cases hpending

end Sys2Proof.Machine
end

section
/-! SUPPORT. What a port keeps whatever flits its links send: an event, a replay and the end of a job leave the states of the links, their
lanes, and what came to them (12, R381, R392 to R396, R407 to R409). -/

namespace Sys2Proof.Machine

/-! ## Ports without their outgoing flits -/

/-- A link without the flits that it sends and the counts that go with them. -/
def lastingLink (l : Link) : Link := { l with txq := [], replay := [], ctlq := [], txSeq := 0, credits := [], ccumTx := [], rot := 0 }

/-- A port without them. -/
def lastingPort (x : LkPort) : LkPort := { x with a := lastingLink x.a, b := lastingLink x.b, tx := 0 }

/-- The module's ports without them. -/
def lasting (s : State) : List LkPort := s.ports.map lastingPort

theorem lasting_withPort {s : State} {k : Nat} {f : LkPort → LkPort} (h : lastingPort (f (portAt s k)) = lastingPort (portAt s k)) :
    lasting (withPort s k f) = lasting s := map_updAt_of_eq lastingPort s.ports k f lkPortReset h

theorem lasting_withLink {s : State} {k : Nat} {half : Bool} {f : Link → Link}
    (h : lastingLink (f (linkAt s k half)) = lastingLink (linkAt s k half)) : lasting (withLink s k half f) = lasting s := by
  apply lasting_withPort
  cases half
  · exact congrArg (fun x => { portAt s k with a := x, b := lastingLink (portAt s k).b, tx := 0 }) h
  · exact congrArg (fun x => { portAt s k with a := lastingLink (portAt s k).a, b := x, tx := 0 }) h

theorem lasting_of_ports {s t : State} (h : t.ports = s.ports) : lasting t = lasting s := congrArg (List.map lastingPort) h

/-- A port in two states whose ports keep the same. -/
theorem lastingPort_of_lasting {s t : State} (h : lasting t = lasting s) (k : Nat) :
    lastingPort (portAt t k) = lastingPort (portAt s k) := by
  have hport : ∀ u : State, lastingPort (portAt u k) = (lasting u).getD k (lastingPort lkPortReset) := fun u =>
    (List.getD_map u.ports lkPortReset lastingPort).symm
  rw [hport, hport, h]

theorem lastingLink_of_lasting {s t : State} (h : lasting t = lasting s) (k : Nat) (half : Bool) :
    lastingLink (linkAt t k half) = lastingLink (linkAt s k half) := by
  have hport := lastingPort_of_lasting h k
  cases half
  · exact congrArg LkPort.a hport
  · exact congrArg LkPort.b hport

theorem st_of_lasting {s t : State} (h : lasting t = lasting s) (k : Nat) (half : Bool) : (linkAt t k half).st = (linkAt s k half).st :=
  (congrArg Link.st (lastingLink_of_lasting h k half) :)

theorem laneFailed_of_lasting {s t : State} (h : lasting t = lasting s) (k : Nat) : (portAt t k).laneFailed = (portAt s k).laneFailed :=
  (congrArg LkPort.laneFailed (lastingPort_of_lasting h k) :)

theorem splitAct_of_lasting {s t : State} (h : lasting t = lasting s) (k : Nat) : (portAt t k).splitAct = (portAt s k).splitAct :=
  (congrArg LkPort.splitAct (lastingPort_of_lasting h k) :)

/-- Ports that keep the same have received the same. -/
theorem received_of_lasting {s t : State} (h : lasting t = lasting s) : received t = received s := by
  have hrx : ∀ u : State, received u = (lasting u).map portRx := fun u => by
    rw [lasting, List.map_map]
    rfl
  rw [hrx, hrx, h]

/-! ## Flits that go out -/

theorem lastingLink_stampFlit (l : Link) (f : Flit) : lastingLink (stampFlit l f).2 = lastingLink l := by
  unfold stampFlit
  simp only []
  split <;> rfl

theorem lastingLink_drainLink (fuel : Nat) (l : Link) (n : Nat) : lastingLink (drainLink fuel l n).1 = lastingLink l := by
  induction fuel generalizing l n with
  | zero => rfl
  | succ fuel ih =>
    rw [drainLink]
    cases nextFlit l with
    | none => rfl
    | some i => exact (ih _ _).trans (lastingLink_stampFlit l _)

theorem lasting_pumpLink (s : State) (k : Nat) (half : Bool) : lasting (pumpLink s k half) = lasting s := by
  unfold pumpLink
  rw [lasting_withPort (by rfl), lasting_withLink (lastingLink_drainLink _ _ _)]

theorem lasting_queueFlit (s : State) (k : Nat) (half : Bool) (f : Flit) : lasting (queueFlit s k half f) = lasting s := by
  unfold queueFlit
  rw [lasting_pumpLink, lasting_withLink (by rfl)]

theorem lasting_controlFlit (s : State) (k : Nat) (half : Bool) (ltype : Nat) (d : List Byte) :
    lasting (controlFlit s k half ltype d) = lasting s := lasting_withLink (lastingLink_stampFlit _ _)

theorem lasting_routeAs (s : State) (p r epoch : Nat) (f : Flit) : lasting (routeAs s p r epoch f) = lasting s := by
  unfold routeAs
  simp only []
  split
  · rfl
  · exact lasting_queueFlit ..

theorem lasting_sendDown (s : State) (p kind step attempt : Nat) (d : List Byte) :
    lasting (sendDown s p kind step attempt d) = lasting s :=
  foldl_keeps lasting _ _ s fun _ _ => lasting_routeAs ..

/-- A request for a replay leaves the links as they are, but for what they send (15, R489, R496). -/
theorem lasting_requestReplay (s : State) (p : Nat) : lasting (requestReplay s p) = lasting s := by
  have htake : ∀ u, lasting (takeReplay u p) = lasting u := fun u => lasting_of_ports (takeReplay_ports u p)
  have hnote : lasting (noteUnreplayable s p) = lasting s := lasting_of_ports (noteUnreplayable_ports s p)
  unfold requestReplay
  simp only []
  split
  · rfl
  · split
    · rfl
    · split
      · exact htake s
      · split
        · exact (htake _).trans (lasting_sendDown ..)
        · split
          · exact (lasting_of_ports (faultEnd_ports ..)).trans hnote
          · exact (lasting_routeAs ..).trans hnote

theorem lasting_routeLost (s : State) (p k : Nat) : lasting (routeLost s p k) = lasting s := lasting_of_ports (faultEnd_ports ..)

end Sys2Proof.Machine
end

section
/-! SUPPORT. Lanes, codeword lock, retransmission and failure of one link: what each does to its port (12, R381, R386, R396, R407 to
R412). -/

namespace Sys2Proof.Machine

/-! ## Links after a change of one -/

theorem portAt_withPort_ne {s : State} {k n : Nat} (h : n ≠ k) (f : LkPort → LkPort) : portAt (withPort s k f) n = portAt s n := by
  unfold portAt withPort
  rw [updAt_getD, if_neg (fun e => h e.1.symm)]

/-- The other half-port of a port, or a link of another port, after a change of a link. -/
theorem linkAt_withLink_ne {s : State} {k : Nat} {half : Bool} (f : Link → Link) {n : Nat} {side : Bool} (h : n ≠ k ∨ side ≠ half) :
    linkAt (withLink s k half f) n side = linkAt s n side := by
  unfold linkAt withLink
  by_cases hn : n = k
  · have hside : half = !side := by
      have hne := h.resolve_left (not_not_intro hn)
      cases half <;> cases side <;> simp_all
    subst hside
    rcases portAt_withPort_cases s k _ n with hport | hport <;> rw [hport]
    cases side <;> rfl
  · rw [portAt_withPort_ne hn]

theorem hasHalf_whole (s : State) (k : Nat) : hasHalf s k false = true := rfl

/-! ## Lanes -/

/-- An unsplit port uses the widest group of its lanes without a failed one (12, R381, R408). -/
theorem activeLanes_whole : ∀ failed : BitVec 8, activeLanes failed false false = lanesLeft failed := by decide +kernel

theorem linkLanes_whole {s : State} {k : Nat} (h : (portAt s k).splitAct = false) :
    linkLanes s k false = lanesLeft (portAt s k).laneFailed := by
  rw [linkLanes, h, activeLanes_whole]

theorem widthCode_eq (n : Nat) : widthCode n = if n = 8 then 3 else if n = 4 then 2 else if n = 2 then 1 else 0 := by
  unfold widthCode
  split <;> simp_all

/-- A whole link with a failed lane runs on four lanes or on two, or on none (12, R381, R408). -/
theorem length_lanesLeft {failed : BitVec 8} (h : failed ≠ 0) :
    (lanesLeft failed).length = 4 ∨ (lanesLeft failed).length = 2 ∨ lanesLeft failed = [] := by
  unfold lanesLeft
  rw [if_neg h]
  split_ifs <;> simp

theorem widthCode_lanesLeft {failed : BitVec 8} (h : failed ≠ 0) (hleft : lanesLeft failed ≠ []) :
    widthCode (lanesLeft failed).length = if (lanesLeft failed).length = 4 then 2 else 1 := by
  rcases length_lanesLeft h with hfour | htwo | hnone
  · rw [hfour]
    rfl
  · rw [htwo]
    rfl
  · exact absurd hnone hleft

/-- The mask of a lane (12, LK_PORT_STATE). -/
def laneBit (lane : BitVec 3) : BitVec 8 := BitVec.ofNat 8 (2 ^ lane.toNat)

theorem shiftLeft_eq_laneBit (lane : BitVec 3) : ((1 <<< lane.toNat : Nat) : BitVec 8) = laneBit lane := by
  rw [Nat.one_shiftLeft]
  rfl

theorem getLsbD_laneBit (lane : BitVec 3) (i : Nat) : (laneBit lane).getLsbD i = decide (lane.toNat = i) := by
  have hlane := lane.isLt
  rw [laneBit, BitVec.getLsbD_ofNat, Nat.testBit_two_pow]
  by_cases h : lane.toNat = i
  · simp only [h, decide_true, Bool.and_true, decide_eq_true_eq]
    omega
  · simp [h]

theorem or_laneBit_ne_zero (failed : BitVec 8) (lane : BitVec 3) : failed ||| laneBit lane ≠ 0 := fun h => by
  have hbit := getLsbD_laneBit lane lane.toNat
  rw [(BitVec.or_eq_zero_iff.1 h).2] at hbit
  simp at hbit

/-! ## Control flits -/

/-- The last control flit of a link is the one sent last. -/
theorem ctlq_controlFlit {s : State} {k : Nat} (h : k < s.ports.length) (half : Bool) (ltype : Nat) (d : List Byte) :
    (linkAt (controlFlit s k half ltype d) k half).ctlq.getLast?.map (·.ltype) = some ltype := by
  have hstamp : ∀ (l : Link) (f : Flit), (stampFlit l f).1.ltype = f.ltype := fun l f => by
    unfold stampFlit
    simp only []
    split <;> rfl
  unfold controlFlit
  rw [linkAt_withLink h, List.getLast?_append_of_ne_nil _ (List.cons_ne_nil _ _)]
  exact congrArg some (hstamp ..)

theorem ports_length_withLink (s : State) (k : Nat) (half : Bool) (f : Link → Link) :
    (withLink s k half f).ports.length = s.ports.length := updAt_length ..

/-! ## Training and codeword lock -/

theorem exec_linkTrainingComplete (s : State) (k : Nat) (half : Bool) :
    exec (.linkTrainingComplete k half) s = execLinkTrainingComplete k half s := rfl

theorem exec_codewordLock (s : State) (k : Nat) (half : Bool) (lanes : BitVec 8) :
    exec (.codewordLock k half lanes) s = execCodewordLock k half lanes s := rfl

theorem exec_codewordLockLoss (s : State) (k : Nat) (lane : BitVec 3) :
    exec (.codewordLockLoss k lane) s = execCodewordLockLoss k lane s := rfl

section
variable {s : State} {k : Nat} (hk : k < 24) (hlen : s.ports.length = 24)
include hk hlen

/-- The end of PMD training of a whole link (12, link states). -/
theorem exec_linkTrainingComplete_whole (hwhole : (portAt s k).splitAct = false)
    (hst : (portAt s k).a.st = .pmdTrain ∨ (portAt s k).a.st = .retrain) :
    ∃ t, exec (.linkTrainingComplete k false) s = .next t ∧ t.parts = s.parts ∧
      (portAt t k).a =
        { (portAt s k).a with st := .lock, locked := 0, width := widthCode (lanesLeft (portAt s k).laneFailed).length } := by
  have hports : k < s.ports.length := by omega
  have htrains : (decide ((linkAt s k false).st = .pmdTrain) || decide ((linkAt s k false).st = .retrain)) = true := by
    simpa [linkAt] using hst
  have hlink := linkAt_withLink hports false
    (fun x => { x with st := .lock, width := widthCode (lanesLeft (portAt s k).laneFailed).length, locked := 0 })
  rw [exec_linkTrainingComplete, execLinkTrainingComplete, onUnit_of_true (decide_eq_true hk), hasHalf_whole, Bool.true_and,
    if_pos htrains, linkLanes_whole hwhole]
  exact ⟨_, rfl, rfl, hlink⟩

/-- A link with more lanes in codeword lock. -/
def lockLanes (lanes : BitVec 8) (l : Link) : Link := { l with locked := l.locked ||| lanes }

/-- A link that exchanges parameters. -/
def enterParam (l : Link) : Link := { l with st := .param }

/-- Codeword lock of lanes of a whole link that waits for it (12, R386). -/
theorem exec_codewordLock_whole (hwhole : (portAt s k).splitAct = false) (lanes : BitVec 8) (hst : (linkAt s k false).st = .lock) :
    ∃ t, exec (.codewordLock k false lanes) s = .next t ∧ t.parts = s.parts ∧
      (linkAt t k false).locked = (linkAt s k false).locked ||| lanes ∧
      (linkAt t k false).st =
        (if (lanesLeft (portAt s k).laneFailed).all (fun i => ((linkAt s k false).locked ||| lanes).getLsbD i) then .param else .lock) ∧
      ((linkAt t k false).st = .param → ((linkAt t k false).ctlq.getLast?.map (·.ltype)) = some 3) := by
  have hports : k < s.ports.length := by omega
  have hup : linkUp (linkAt s k false) = true := by rw [linkUp, hst]; rfl
  have hlock := linkAt_withLink hports false (lockLanes lanes)
  rw [exec_codewordLock, execCodewordLock, onUnit_of_true (decide_eq_true hk), hasHalf_whole, linkLanes_whole hwhole, if_neg (by decide),
    decide_eq_true hst, Bool.true_and, if_pos hup]
  cases (lanesLeft (portAt s k).laneFailed).all (fun i => ((linkAt s k false).locked ||| lanes).getLsbD i) with
  | true =>
    have hu : k < (withLink s k false (lockLanes lanes)).ports.length := by rwa [ports_length_withLink]
    have hparam := linkAt_withLink hu false enterParam
    have hv : k < (withLink (withLink s k false (lockLanes lanes)) k false enterParam).ports.length := by rwa [ports_length_withLink]
    have hlink := lastingLink_of_lasting (lasting_controlFlit (withLink (withLink s k false (lockLanes lanes)) k false enterParam) k false 3
      (trainBytes s k false)) k false
    rw [hparam, hlock] at hlink
    exact ⟨_, rfl, rfl, (congrArg Link.locked hlink :), (congrArg Link.st hlink :), fun _ => ctlq_controlFlit hv false 3 _⟩
  | false =>
    refine ⟨_, rfl, rfl, congrArg Link.locked hlock, (congrArg Link.st hlock).trans hst, fun hparam => ?_⟩
    exact absurd (((congrArg Link.st hlock).trans hst).symm.trans hparam) (by decide)

/-- Loss of codeword lock of a lane leaves the link where it is, and the other lanes (12, R386). -/
theorem exec_codewordLockLoss_lane (lane : BitVec 3) :
    ∃ t, exec (.codewordLockLoss k lane) s = .next t ∧ t.parts = s.parts ∧ (portAt t k).a.locked.getLsbD lane.toNat = false ∧
      (portAt t k).a.st = (portAt s k).a.st ∧
      ∀ i : Nat, i ≠ lane.toNat → (portAt t k).a.locked.getLsbD i = (portAt s k).a.locked.getLsbD i := by
  have hports : k < s.ports.length := by omega
  rw [exec_codewordLockLoss, execCodewordLockLoss, onUnit_of_true (decide_eq_true hk)]
  refine ⟨_, rfl, rfl, ?_⟩
  rw [portAt_withPort hports, ← laneBit]
  simp only [BitVec.getLsbD_and, BitVec.getLsbD_not, getLsbD_laneBit]
  refine ⟨by simp, trivial, fun i hi => ?_⟩
  by_cases h8 : i < 8
  · simp [h8, hi.symm]
  · simp [BitVec.getLsbD_of_ge _ i (Nat.not_lt.1 h8)]

/-! ## Retransmission and a retrain by the host -/

/-- A link whose unacknowledged flits go out again (12, R396). -/
def resentLink (l : Link) : Link :=
  { l with replay := l.replay.map (fun e =>
      { flit := { e.flit with mflags := e.flit.mflags ||| 4, ack := l.rxSeq }, tries := e.tries + 1 }) }

omit hk hlen in
/-- An ACTIVE link retransmits flits that have all gone out fewer than eight times again (12, R396). -/
theorem retransmit_young (half : Bool) (hst : (linkAt s k half).st = .active) (hyoung : ∀ e ∈ (linkAt s k half).replay, e.tries < 8) :
    retransmit s k half =
      withPort (withLink s k half resentLink) k (fun x => { x with replayed := satInc x.replayed (linkAt s k half).replay.length }) := by
  have hnot : (linkAt s k half).replay.any (fun e => decide (8 ≤ e.tries)) = false := by
    simpa [List.any_eq_false] using hyoung
  unfold retransmit
  simp only [hst, hnot, bne_self_eq_false, Bool.false_eq_true, if_false]
  rfl

omit hk hlen in
theorem exec_replayTimeout (half : Bool) : exec (.replayTimeout k half) s = execReplayTimeout k half s := rfl

/-- No acknowledgement for 4 µs: everything in the replay buffer goes out again (12, R396). -/
theorem exec_replayTimeout_whole (hst : (linkAt s k false).st = .active) (hne : (linkAt s k false).replay ≠ [])
    (hyoung : ∀ e ∈ (linkAt s k false).replay, e.tries < 8) :
    ∃ t, exec (.replayTimeout k false) s = .next t ∧ t.parts = s.parts ∧
      (linkAt t k false).replay = (resentLink (linkAt s k false)).replay ∧
      (portAt t k).replayed = satInc (portAt s k).replayed (linkAt s k false).replay.length := by
  have hports : k < s.ports.length := by omega
  have hports' : k < (withLink s k false resentLink).ports.length := by rwa [ports_length_withLink]
  have hwait : (linkAt s k false).replay.isEmpty = false := by simpa using hne
  rw [exec_replayTimeout, execReplayTimeout, onUnit_of_true (decide_eq_true hk), hasHalf_whole, hwait, if_pos (by decide),
    retransmit_young false hst hyoung]
  refine ⟨_, rfl, rfl, ?_, ?_⟩
  · rw [linkAt_withPort _ k (by exact fun _ => ⟨rfl, rfl⟩), linkAt_withLink hports]
  · rw [portAt_withPort hports', withLink, portAt_withPort hports]
    rfl

omit hk hlen in
theorem exec_linkRetrainRequest : exec (.linkRetrainRequest k) s = execLinkRetrainRequest k s := rfl

/-- A retrain by the host starts a FAILED or MISWIRED link again, and tries the lanes of a FAILED one again (12, R412). -/
theorem exec_linkRetrainRequest_whole :
    ∃ t, exec (.linkRetrainRequest k) s = .next t ∧ t.parts = s.parts ∧
      ((portAt s k).a.st = .failed ∨ (portAt s k).a.st = .miswired → (portAt t k).a = { linkDown with st := .pmdTrain }) ∧
      ((portAt s k).a.st ≠ .failed → (portAt s k).a.st ≠ .miswired → (portAt t k).a = (portAt s k).a) ∧
      ((portAt s k).a.st = .failed → (portAt t k).laneFailed = 0) := by
  have hports : k < s.ports.length := by omega
  rw [exec_linkRetrainRequest, execLinkRetrainRequest, onUnit_of_true (decide_eq_true hk), retrainPort]
  refine ⟨_, rfl, rfl, ?_⟩
  rw [portAt_withPort hports]
  refine ⟨fun hst => if_pos (by simpa [or_comm] using hst), fun hf hm => if_neg (by simp [hf, hm]), fun hst => if_pos (by simp [hst])⟩

end

/-! ## A link that fails -/

/-- A FAILED link has nothing to deliver (12, R409). -/
def failedLink (l : Link) : Link := { l with st := .failed, width := 0, replay := [], txq := [], locked := 0 }

/-- The state in which a link has become FAILED and the event is out (12, R409). -/
def failedState (s : State) (k : Nat) (half : Bool) : State :=
  sendEvent (withLink s k half failedLink) (srcPort k) ((partOfPort s k).getD 15) 0x0481 0

/-- The ranks that a partition has routes to. -/
def routeRanks (q : Partition) : List Nat := (List.range q.lk.countEff).filter (fun r => r != q.job.rank)

/-- Some rank has both its first hops over FAILED links (12, R411). -/
def routesDead (s : State) (p : Nat) : Bool :=
  (routeRanks (part s p)).any (fun r =>
    hopFailed s (pathEntry (routePath s p r false) 0) && hopFailed s (pathEntry (routePath s p r true) 0))

/-- The ranks whose primary route begins with a hop, and which have not left it (12, R409). -/
def leavingRanks (s : State) (p e : Nat) : List Nat :=
  ((routeRanks (part s p)).filter (fun r => pathEntry (routePath s p r false) 0 = e)).filter (fun r =>
    !(part s p).lk.alt.contains r && !(part s p).lk.altNext.contains r)

/-- The registers of a partition whose routes to some ranks change with the next attempt (12, R402, R409). -/
def divertRanks (add : List Nat) (l : LkRegs) : LkRegs :=
  { l with altNext := l.altNext ++ add, pflags := if add.isEmpty then l.pflags else l.pflags ||| 4 }

theorem inward_failedState (s : State) (k : Nat) (half : Bool) : inward (failedState s k half) = inward s := by
  unfold failedState
  rw [inward_sendEvent, inward_withLink]

theorem part_failedState (s : State) (k : Nat) (half : Bool) (p : Nat) : part (failedState s k half) p = part s p :=
  part_of_inward (inward_failedState ..) p

/-- What the failure of a link does: an end of the job, or a replay with other routes (12, R409, R411). -/
theorem linkFails_eq {s : State} {k p : Nat} (h : (partOfPort s k).getD 15 = p) (half : Bool) :
    linkFails s k half =
      if !jobActive (part s p) then failedState s k half
      else if routesDead (failedState s k half) p then routeLost (failedState s k half) p k
      else requestReplay (withLk (failedState s k half) p (divertRanks
        (leavingRanks (failedState s k half) p (k + (if half then 32 else 0))))) p := by
  subst h
  unfold routesDead leavingRanks
  simp only [part_failedState]
  rfl

theorem lasting_failedState (s : State) (k : Nat) (half : Bool) : lasting (failedState s k half) = lasting (withLink s k half failedLink) :=
  lasting_of_ports (sendEvent_ports ..)

/-- The failure of a link leaves the other links as they are, but for what they send. -/
theorem lasting_linkFails (s : State) (k : Nat) (half : Bool) : lasting (linkFails s k half) = lasting (withLink s k half failedLink) := by
  rw [linkFails_eq rfl]
  split
  · exact lasting_failedState ..
  · split
    · exact (lasting_routeLost ..).trans (lasting_failedState ..)
    · exact (lasting_requestReplay ..).trans (lasting_failedState ..)

theorem st_linkFails {s : State} {k : Nat} (hk : k < s.ports.length) (half : Bool) : (linkAt (linkFails s k half) k half).st = .failed := by
  rw [st_of_lasting (lasting_linkFails ..), linkAt_withLink hk]
  rfl

end Sys2Proof.Machine
end

section
/-! SUPPORT. Links that narrow, and LANE_FAIL of a whole link (12, R398, R407 to R409). -/

namespace Sys2Proof.Machine

/-! ## A lane that fails -/

/-- What stands in a port about its lanes. -/
def portLanes (s : State) (n : Nat) : BitVec 8 × Bool := ((portAt s n).laneFailed, (portAt s n).splitAct)

theorem portLanes_of_lasting {s t : State} (h : lasting t = lasting s) (n : Nat) : portLanes t n = portLanes s n :=
  congrArg₂ Prod.mk (laneFailed_of_lasting h n) (splitAct_of_lasting h n)

theorem portLanes_withPort {s : State} {k : Nat} {f : LkPort → LkPort}
    (h : ∀ x, (f x).laneFailed = x.laneFailed ∧ (f x).splitAct = x.splitAct) (n : Nat) :
    portLanes (withPort s k f) n = portLanes s n := by
  unfold portLanes
  rcases portAt_withPort_cases s k f n with hport | hport
  · rw [hport, (h _).1, (h _).2]
  · rw [hport]

theorem portLanes_withLink (s : State) (k : Nat) (half : Bool) (f : Link → Link) (n : Nat) :
    portLanes (withLink s k half f) n = portLanes s n := by
  refine portLanes_withPort (fun x => ?_) n
  cases half <;> exact ⟨rfl, rfl⟩

theorem portHealth_ports (s : State) (k w : Nat) : (portHealth s k w).ports = s.ports :=
  ports_ite rfl (addHealth_keeps State.ports (fun _ _ => rfl) sendEvent_ports (fun _ _ => rfl) (fun _ => rfl) ..)

/-- A link that retrains keeps its replay buffer (12, R398, R408). -/
def retrainedLink (l : Link) : Link :=
  { l with st := .retrain, kept := true, locked := 0, replay := l.replay.map (fun e => { e with tries := 0 }) }

/-- A port with one retrain more. -/
def countRetrain (x : LkPort) : LkPort := { x with retrains := satInc x.retrains 1 }

theorem retrainLink_ports (s : State) (k : Nat) (half : Bool) :
    (retrainLink s k half).ports = (withPort (withLink s k half retrainedLink) k countRetrain).ports := portHealth_ports ..

theorem ports_of_withLink {s t : State} (h : t.ports = s.ports) (k : Nat) (half : Bool) (f : Link → Link) :
    (withLink t k half f).ports = (withLink s k half f).ports := by
  unfold withLink withPort
  rw [h]

theorem ports_of_withPort {s t : State} (h : t.ports = s.ports) (k : Nat) (f : LkPort → LkPort) :
    (withPort t k f).ports = (withPort s k f).ports := by
  unfold withPort
  rw [h]

/-- A link at a new width. -/
def setWidth (w : Nat) (l : Link) : Link := { l with width := w }

/-- The state in which a link has a new width, and its event is out (12, R408). -/
def resizedState (old : List Nat) (s : State) (k : Nat) (half : Bool) : State :=
  let t := sendEvent (withLink s k half (setWidth (widthCode (linkLanes s k half).length))) (srcPort k) ((partOfPort s k).getD 15) 0x0480
    (k + b2n half * 256 + widthCode (linkLanes s k half).length * 65536)
  if (linkLanes s k half).length < old.length then portHealth t k 512 else t

theorem resizedState_ports (old : List Nat) (s : State) (k : Nat) (half : Bool) :
    (resizedState old s k half).ports = (withLink s k half (setWidth (widthCode (linkLanes s k half).length))).ports :=
  ports_ite ((portHealth_ports ..).trans (sendEvent_ports ..)) (sendEvent_ports ..)

/-- What becomes of a link whose lanes may have changed (12, R408, R409). -/
theorem narrowLink_eq (old : List Nat) (s : State) (k : Nat) (half : Bool) :
    narrowLink old s k half =
      if !hasHalf s k half || !linkUp (linkAt s k half) || linkLanes s k half = old then s
      else if (linkLanes s k half).isEmpty then linkFails s k half
      else if (linkAt s k half).st = .pmdTrain then resizedState old s k half
      else retrainLink (resizedState old s k half) k half := rfl

theorem portLanes_narrowLink (old : List Nat) (s : State) (k : Nat) (half : Bool) (n : Nat) :
    portLanes (narrowLink old s k half) n = portLanes s n := by
  have hresized : portLanes (resizedState old s k half) n = portLanes s n :=
    (portLanes_of_lasting (lasting_of_ports (resizedState_ports ..)) n).trans (portLanes_withLink ..)
  rw [narrowLink_eq]
  split
  · rfl
  · split
    · exact (portLanes_of_lasting (lasting_linkFails ..) n).trans (portLanes_withLink ..)
    · split
      · exact hresized
      · refine (portLanes_of_lasting (lasting_of_ports (retrainLink_ports ..)) n).trans ?_
        refine (portLanes_withPort ?_ n).trans ((portLanes_withLink ..).trans hresized)
        exact fun _ => ⟨rfl, rfl⟩

/-- An ACTIVE link that loses lanes and keeps some retrains on those (12, R408). -/
theorem narrowLink_retrains {old : List Nat} {s : State} {k : Nat} (hk : k < s.ports.length) (hst : (linkAt s k false).st = .active)
    (hchanged : linkLanes s k false ≠ old) (hleft : linkLanes s k false ≠ []) :
    portAt (narrowLink old s k false) k =
      countRetrain { portAt s k with
        a := retrainedLink (setWidth (widthCode (linkLanes s k false).length) (portAt s k).a) } := by
  have hup : linkUp (linkAt s k false) = true := by rw [linkUp, hst]; rfl
  have hne : (linkLanes s k false).isEmpty = false := by simpa using hleft
  have hnarrow : narrowLink old s k false = retrainLink (resizedState old s k false) k false := by
    rw [narrowLink_eq, hasHalf_whole, hup, hne, hst, if_neg (by simpa using hchanged), if_neg (by decide), if_neg (by decide)]
  have hports : (narrowLink old s k false).ports =
      (withPort (withLink (withLink s k false (setWidth (widthCode (linkLanes s k false).length))) k false retrainedLink) k
        countRetrain).ports := by
    rw [hnarrow, retrainLink_ports]
    exact ports_of_withPort (ports_of_withLink (resizedState_ports ..) ..) ..
  have hlen := ports_length_withLink s k false (setWidth (widthCode (linkLanes s k false).length))
  have hlen' := ports_length_withLink (withLink s k false (setWidth (widthCode (linkLanes s k false).length))) k false retrainedLink
  rw [portAt, hports]
  change portAt (withPort _ k countRetrain) k = _
  rw [portAt_withPort (by omega), withLink, portAt_withPort (by omega), withLink, portAt_withPort hk]
  rfl

/-- A port that has lost a lane, and its codeword lock (12, R407). -/
def loseLane (lane : BitVec 3) (x : LkPort) : LkPort :=
  { x with
    laneFailed := x.laneFailed ||| laneBit lane,
    a := { x.a with locked := x.a.locked &&& ~~~laneBit lane },
    b := { x.b with locked := x.b.locked &&& ~~~laneBit lane } }

theorem exec_laneFail (s : State) (k : Nat) (lane : BitVec 3) :
    exec (.laneFail k lane) s = onUnit (decide (k < 24)) (narrowLink (linkLanes s k true)
      (narrowLink (linkLanes s k false) (withPort s k (loseLane lane)) k false) k true) := rfl

section
variable {s : State} {k : Nat} (hk : k < 24) (hlen : s.ports.length = 24) (hwhole : (portAt s k).splitAct = false) (lane : BitVec 3)
include hk hlen hwhole

/-- A whole link is the only one of its port that may change its lanes. -/
theorem exec_laneFail_whole :
    exec (.laneFail k lane) s = .next (narrowLink (lanesLeft (portAt s k).laneFailed) (withPort s k (loseLane lane)) k false) := by
  have hsplit : (portAt (narrowLink (lanesLeft (portAt s k).laneFailed) (withPort s k (loseLane lane)) k false) k).splitAct = false := by
    refine (congrArg Prod.snd (portLanes_narrowLink (lanesLeft (portAt s k).laneFailed) (withPort s k (loseLane lane)) k false k)).trans ?_
    rw [portLanes, portAt_withPort (by omega)]
    exact hwhole
  rw [exec_laneFail, onUnit_of_true (decide_eq_true hk), linkLanes_whole hwhole, narrowLink_eq _ _ k true, hasHalf, hsplit,
    if_pos (by rw [Bool.not_true, Bool.or_false, Bool.not_false, Bool.true_or, Bool.true_or])]

theorem linkLanes_loseLane : linkLanes (withPort s k (loseLane lane)) k false =
    lanesLeft ((portAt s k).laneFailed ||| laneBit lane) := by
  have hport := portAt_withPort (show k < s.ports.length by omega) (loseLane lane)
  rw [linkLanes_whole (by rw [hport]; exact hwhole), hport]
  rfl

omit hwhole in
theorem st_loseLane : (linkAt (withPort s k (loseLane lane)) k false).st = (linkAt s k false).st := by
  rw [linkAt, portAt_withPort (by omega)]
  rfl

theorem narrowLink_loseLane_same
    (h : lanesLeft ((portAt s k).laneFailed ||| laneBit lane) = lanesLeft (portAt s k).laneFailed) :
    narrowLink (lanesLeft (portAt s k).laneFailed) (withPort s k (loseLane lane)) k false = withPort s k (loseLane lane) := by
  rw [narrowLink_eq, linkLanes_loseLane hk hlen hwhole, if_pos (by simp [h])]

theorem narrowLink_loseLane_fails
    (h : lanesLeft ((portAt s k).laneFailed ||| laneBit lane) = []) (hleft : lanesLeft (portAt s k).laneFailed ≠ [])
    (hst : (linkAt s k false).st = .active) :
    narrowLink (lanesLeft (portAt s k).laneFailed) (withPort s k (loseLane lane)) k false =
      linkFails (withPort s k (loseLane lane)) k false := by
  have hup : linkUp (linkAt (withPort s k (loseLane lane)) k false) = true := by
    rw [linkUp, st_loseLane hk hlen, hst]
    rfl
  rw [narrowLink_eq, linkLanes_loseLane hk hlen hwhole, h, hasHalf_whole, hup, if_neg (by simpa using hleft.symm)]
  rfl

/-- A lane of a whole link fails: the link stays, narrows, or becomes FAILED (12, R407 to R409). -/
theorem exec_laneFail_cases :
    let left := lanesLeft (portAt s k).laneFailed
    let rest := lanesLeft ((portAt s k).laneFailed ||| laneBit lane)
    ∃ t, exec (.laneFail k lane) s = .next t ∧
      (portAt t k).laneFailed = (portAt s k).laneFailed ||| laneBit lane ∧
      (rest = left → (linkAt t k false).st = (linkAt s k false).st ∧ t.parts = s.parts) ∧
      (rest ≠ left → rest ≠ [] → (linkAt s k false).st = .active →
        portAt t k = countRetrain { loseLane lane (portAt s k) with
          a := retrainedLink (setWidth (widthCode rest.length) (loseLane lane (portAt s k)).a) }) ∧
      (rest = [] → left ≠ [] → (linkAt s k false).st = .active → (linkAt t k false).st = .failed) := by
  have hports : k < s.ports.length := by omega
  have hports' : k < (withPort s k (loseLane lane)).ports.length := by rwa [withPort, updAt_length]
  have hport := portAt_withPort hports (loseLane lane)
  have hst := st_loseLane hk hlen lane
  have hlanes := linkLanes_loseLane hk hlen hwhole lane
  refine ⟨_, exec_laneFail_whole hk hlen hwhole lane, ?_, fun hsame => ?_, fun hne hrest hactive => ?_, fun hrest hleft hactive => ?_⟩
  · refine (congrArg Prod.fst (portLanes_narrowLink (lanesLeft (portAt s k).laneFailed) (withPort s k (loseLane lane)) k false k)).trans ?_
    rw [portLanes, hport]
    rfl
  · rw [narrowLink_loseLane_same hk hlen hwhole lane hsame]
    exact ⟨hst, rfl⟩
  · rw [← hlanes] at hne hrest ⊢
    rw [narrowLink_retrains hports' (hst.trans hactive) hne hrest, hport]
  · rw [narrowLink_loseLane_fails hk hlen hwhole lane hrest hleft hactive]
    exact st_linkFails hports' false

end

end Sys2Proof.Machine
end

section
/-! SUPPORT. What the failure of a link does to the job of its partition, and O40 (12, R402, R409, R411). -/

namespace Sys2Proof.Machine

/-! ## What the failure of a link does to a partition -/

theorem exec_linkFail (s : State) (k : Nat) (half : Bool) : exec (.linkFail k half) s = execLinkFail k half s := rfl

theorem routePath_of_inward {s t : State} (h : inward t = inward s) (p r : Nat) (alt : Bool) : routePath t p r alt = routePath s p r alt :=
  of_inward (routePath · p r alt) (fun _ => rfl) h

/-- A hop entry has six bits (12, R388). -/
theorem pathEntry_lt (path h : Nat) : pathEntry path h < 64 := Nat.mod_lt _ (by decide)

/-- The hops over FAILED links once the whole link of a port has failed: its own, and those over links that had failed. -/
theorem hopFailed_failedState {s : State} {k : Nat} (hk : k < 24) (hlen : s.ports.length = 24) {e : Nat} (he : e < 64) :
    hopFailed (failedState s k false) e = (decide (e = k) || hopFailed s e) := by
  have hst := st_of_lasting (lasting_failedState s k false) (e % 32) (e.testBit 5)
  unfold hopFailed
  rw [hst]
  rw [Nat.testBit_eq_decide_div_mod_eq]
  by_cases hek : e = k
  · have hmod : e % 32 = k := by omega
    have hbit : decide (e / 2 ^ 5 % 2 = 1) = false := decide_eq_false (by omega)
    rw [hmod, hbit, linkAt_withLink (by omega), decide_eq_true hek]
    rfl
  · rw [linkAt_withLink_ne, decide_eq_false hek, Bool.false_or]
    by_cases hmod : e % 32 = k
    · refine .inr ?_
      rw [decide_eq_true (by omega)]
      decide
    · exact .inl hmod

/-- A job whose destination has no usable route has ended (12, R411). -/
theorem jobEnded_routeLost_of_active {s : State} {p : Nat} (h : jobActive (part s p) = true) (k : Nat) :
    jobEnded s (routeLost s p k) p 0x00040482 := by
  have hp := lt_of_active h
  have hlost : jobActive (part (withLk s p (fun l => { l with pflags := l.pflags ||| 8 })) p) = true := by rwa [part_withLk hp]
  refine jobEnded_of_endedPart (code := 0x0482) (part_faultEnd hlost ..) (fun n hn => ?_) ?_ ?_ ?_
  · exact (part_of_apart hn (apart_faultEnd ..)).trans (part_withPart_ne s p n _ hn.symm)
  all_goals rw [part_withLk hp]
  exact ⟨rfl, rfl, rfl⟩

theorem routesDead_failedState {s : State} {k : Nat} (hk : k < 24) (hlen : s.ports.length = 24) (p : Nat) :
    routesDead (failedState s k false) p = (routeRanks (part s p)).any (fun r =>
      (decide (pathEntry (routePath s p r false) 0 = k) || hopFailed s (pathEntry (routePath s p r false) 0)) &&
        (decide (pathEntry (routePath s p r true) 0 = k) || hopFailed s (pathEntry (routePath s p r true) 0))) := by
  have hhop := fun e he => hopFailed_failedState hk hlen (e := e) he
  unfold routesDead
  simp only [part_failedState, routePath_of_inward (inward_failedState s k false), hhop _ (pathEntry_lt _ _)]

section
variable {s : State} {k p : Nat} (hk : k < 24) (hlen : s.ports.length = 24) (hst : (linkAt s k false).st = .active)
  (hpart : partOfPort s k = some p)
include hk hlen hst

omit hlen in
theorem exec_linkFail_whole : exec (.linkFail k false) s = .next (linkFails s k false) := by
  rw [exec_linkFail, execLinkFail, onUnit_of_true (decide_eq_true hk), hasHalf_whole, hst]
  rfl

include hpart

/-- Without a job, the failure of a link changes no partition (12, R409). -/
theorem exec_linkFail_idle (hidle : jobActive (part s p) = false) :
    ∃ t, exec (.linkFail k false) s = .next t ∧ (linkAt t k false).st = .failed ∧ t.parts = s.parts := by
  refine ⟨_, exec_linkFail_whole hk hst, st_linkFails (by omega) false, ?_⟩
  rw [linkFails_eq (p := p) (by rw [hpart]; rfl), hidle]
  exact sendEvent_parts ..

/-- A destination without a usable route ends the job (12, R411). -/
theorem exec_linkFail_dead (hactive : jobActive (part s p) = true) (hdead : routesDead (failedState s k false) p = true) :
    ∃ t, exec (.linkFail k false) s = .next t ∧ (linkAt t k false).st = .failed ∧ jobEnded s t p 0x00040482 := by
  have hlost : linkFails s k false = routeLost (failedState s k false) p k := by
    rw [linkFails_eq (p := p) (by rw [hpart]; rfl), hactive, hdead]
    rfl
  have hended := jobEnded_routeLost_of_active (s := failedState s k false) (by rwa [part_failedState]) k
  refine ⟨_, exec_linkFail_whole hk hst, st_linkFails (by omega) false, ?_⟩
  rw [hlost]
  unfold jobEnded at hended ⊢
  simpa only [part_failedState] using hended

/-- Otherwise the step replays, with the alternate routes to the ranks whose routes began with the link (12, R409). -/
theorem exec_linkFail_replay (hdead : routesDead (failedState s k false) p = false) (hreplay : canReplay (part s p) = true) :
    ∃ t, exec (.linkFail k false) s = .next t ∧ (linkAt t k false).st = .failed ∧ replayTaken s t p ∧
      (part t p).lk.altNext = (part s p).lk.altNext ++ leavingRanks (failedState s k false) p k := by
  have hr := (canReplay_iff _).1 hreplay
  let u := withLk (failedState s k false) p (divertRanks (leavingRanks (failedState s k false) p k))
  have hfails : linkFails s k false = requestReplay u p := by
    rw [linkFails_eq (p := p) (by rw [hpart]; rfl), jobActive_of_running hr.run, hdead]
    rfl
  have hu : part u p = { part s p with lk := divertRanks (leavingRanks (failedState s k false) p k) (part s p).lk } := by
    have hlt := lt_of_running (s := failedState s k false) (p := p) (by rw [part_failedState]; exact hr.run)
    rw [part_withLk hlt, part_failedState]
  have hafter := replayTaken_requestReplay (s := u) (p := p) (by
    rw [hu]
    exact ⟨hr.run, hr.asked, hr.replaying, hr.frozen, hr.unreplayable, hr.hj, hr.room, hr.attempt, hr.root⟩)
  rw [hu] at hafter
  refine ⟨_, exec_linkFail_whole hk hst, st_linkFails (by omega) false, ?_, ?_⟩
  · unfold replayTaken
    rw [hfails, hafter]
    exact ⟨rfl, hr.run, rfl, rfl⟩
  · rw [hfails, hafter]
    rfl

end

theorem mem_leavingRanks {s : State} {k p r : Nat} :
    r ∈ leavingRanks (failedState s k false) p k ↔
      (r ∈ routeRanks (part s p) ∧ pathEntry (routePath s p r false) 0 = k) ∧
        r ∉ (part s p).lk.alt ∧ r ∉ (part s p).lk.altNext := by
  unfold leavingRanks
  simp only [part_failedState, routePath_of_inward (inward_failedState s k false), List.mem_filter, decide_eq_true_eq, Bool.and_eq_true,
    Bool.not_eq_true', List.contains_eq_mem, decide_eq_false_iff_not]

/-- Settles O40: a whole link by its one link of the port, clause by clause; the failure of a link by the routes that begin with it. -/
theorem links : Obligations.Links := by
  unfold Obligations.Links
  constructor
  · intro s k hk hlen hwhole
    refine ⟨fun hst => ?_, fun lanes hst => exec_codewordLock_whole hk hlen hwhole lanes hst,
      fun lane => exec_codewordLockLoss_lane hk hlen lane, fun lane _ => ?_,
      fun hst hne hyoung => exec_replayTimeout_whole hk hlen hst hne hyoung, exec_linkRetrainRequest_whole hk hlen⟩
    · rw [← widthCode_eq]
      exact exec_linkTrainingComplete_whole hk hlen hwhole hst
    · rw [shiftLeft_eq_laneBit]
      obtain ⟨t, hnext, hlanes, hsame, hretrains, hfails⟩ := exec_laneFail_cases hk hlen hwhole lane
      refine ⟨t, hnext, hlanes, hsame, fun hne hrest hst => ?_, hfails⟩
      have hwidth := widthCode_lanesLeft (or_laneBit_ne_zero (portAt s k).laneFailed lane) hrest
      rw [hretrains hne hrest hst, ← hwidth]
      refine ⟨rfl, ?_, rfl, rfl, rfl⟩
      exact List.map_map ..
  · intro s k p hk hlen _ hst hpart _ _ _
    refine ⟨exec_linkFail_idle hk hlen hst hpart, fun hactive hdead => ?_, fun hdead hreplay => ?_⟩
    · exact exec_linkFail_dead hk hlen hst hpart hactive ((routesDead_failedState hk hlen p).trans hdead)
    · obtain ⟨t, hnext, hfailed, htaken, hnextRanks⟩ :=
        exec_linkFail_replay hk hlen hst hpart ((routesDead_failedState hk hlen p).trans hdead) hreplay
      refine ⟨t, hnext, hfailed, htaken, fun r => ?_⟩
      rw [hnextRanks, List.mem_append, mem_leavingRanks]
      change _ ∨ (r ∈ routeRanks (part s p) ∧ _) ∧ _ ↔ _ ∨ r ∈ routeRanks (part s p) ∧ _
      tauto

end Sys2Proof.Machine
end

section
/-! SUPPORT. The memory and the flits that a message brings about leave the links as they are, but for what they send (10, R326 to R337;
12, R389, R403 to R405). -/

namespace Sys2Proof.Machine

/-! ## Changes off the links -/

theorem lasting_ite (c : Prop) [Decidable c] (a b : State) : lasting (if c then a else b) = if c then lasting a else lasting b :=
  apply_ite lasting c a b

/-- A loop whose body leaves the links leaves them. -/
theorem lasting_foldl {α : Type} (l : List α) (g : State → α → State) (s : State) (h : ∀ t x, lasting (g t x) = lasting t) :
    lasting (l.foldl g s) = lasting s := foldl_keeps lasting l g s h

@[simp] theorem lasting_withPart (s : State) (p : Nat) (f : Partition → Partition) : lasting (withPart s p f) = lasting s := rfl
@[simp] theorem lasting_withLk (s : State) (p : Nat) (f : LkRegs → LkRegs) : lasting (withLk s p f) = lasting s := rfl
@[simp] theorem lasting_withMem (s : State) (p : Nat) (f : MemRegs → MemRegs) : lasting (withMem s p f) = lasting s := rfl
@[simp] theorem lasting_withCl (s : State) (p : Nat) (f : ClRegs → ClRegs) : lasting (withCl s p f) = lasting s := rfl
@[simp] theorem lasting_withCk (s : State) (p : Nat) (f : CkRegs → CkRegs) : lasting (withCk s p f) = lasting s := rfl
@[simp] theorem lasting_withDma (s : State) (p l : Nat) (f : DmaUnit → DmaUnit) : lasting (withDma s p l f) = lasting s := rfl

@[simp] theorem lasting_sendEvent (s : State) (src : EvSrc) (p code detail : Nat) : lasting (sendEvent s src p code detail) = lasting s :=
  lasting_of_ports (sendEvent_ports ..)

@[simp] theorem lasting_faultEnd (s : State) (src : EvSrc) (p code detail : Nat) : lasting (faultEnd s src p code detail) = lasting s :=
  lasting_of_ports (faultEnd_ports ..)

@[simp] theorem lasting_takeReplay (s : State) (p : Nat) : lasting (takeReplay s p) = lasting s := lasting_of_ports (takeReplay_ports ..)

@[simp] theorem lasting_addHealth (s : State) (u : EvSrc) (w : Nat) : lasting (addHealth s u w).1 = lasting s :=
  addHealth_keeps lasting (fun _ _ => rfl) lasting_sendEvent (fun _ _ => rfl) (fun _ => rfl) ..

/-! ## The memory of a slice (10) -/

@[simp] theorem lasting_stackFail (s : State) (k : Nat) : lasting (stackFail s k) = lasting s := by
  unfold stackFail
  simp only [lasting_ite]
  split
  · rfl
  · refine (lasting_foldl _ _ _ fun t p => ?_).trans (lasting_sendEvent ..)
    simp only [lasting_ite, lasting_sendEvent, lasting_withMem, ite_self]

@[simp] theorem lasting_addEntry (s : State) (k a : Nat) : lasting (addEntry s k a) = lasting s := by
  have hmark : lasting (markLine s k a) = lasting s := rfl
  have htiers : ∀ (t : State) x, lasting { t with tiers := x } = lasting t := fun _ _ => rfl
  unfold addEntry
  simp only [lasting_ite, hmark, lasting_stackFail, lasting_sendEvent, htiers, ite_self]

@[simp] theorem lasting_poisonLine (s : State) (p k a off : Nat) : lasting (poisonLine s p k a off) = lasting s := by
  unfold poisonLine
  simp only [lasting_ite, lasting_stackFail, lasting_addHealth, lasting_sendEvent, lasting_withMem, lasting_addEntry, ite_self]

@[simp] theorem lasting_storeSeg (s : State) (p : Nat) (seg : Nat × Nat × List Byte) : lasting (storeSeg s p seg) = lasting s := by
  have hlost : ∀ (t : State) (pl : LinePlace), lasting (pl.others.foldl (fun u k => if granuleOk s pl.addr k then u else
      markLine u k pl.addr) t) = lasting t := fun t pl =>
    lasting_foldl _ _ _ fun u k => (lasting_ite ..).trans (ite_self (lasting u))
  have hunmark : ∀ k a, lasting (unmark s k a) = lasting s := fun _ _ => rfl
  unfold storeSeg
  simp only [lasting_ite, lasting_withPart, lasting_withMem, lasting_sendEvent, hlost, hunmark, ite_self]

@[simp] theorem lasting_hbmStore (k : WKind) (s : State) (p off : Nat) (d : List Byte) : lasting (hbmStore k s p off d) = lasting s := by
  have hjournal : ∀ (t : State) line, lasting (journalHbm t p line) = lasting t := fun _ _ => rfl
  refine lasting_foldl _ _ s fun t seg => ?_
  simp only [lasting_storeSeg, lasting_withPart, lasting_ite, hjournal, ite_self]

@[simp] theorem lasting_hbmPoison (s : State) (p off n : Nat) : lasting (hbmPoison s p off n) = lasting s := by
  refine lasting_foldl _ _ s fun t l => ?_
  simp only [lasting_ite, lasting_poisonLine, lasting_hbmStore, ite_self]

@[simp] theorem lasting_countPoisonRead (s : State) (p n : Nat) : lasting (countPoisonRead s p n) = lasting s :=
  (lasting_ite ..).trans (ite_self _)

@[simp] theorem lasting_rejectAccess (s : State) (p : Nat) : lasting (rejectAccess s p) = lasting s := lasting_sendEvent ..

@[simp] theorem lasting_rejectAt (s : State) (p l : Nat) : lasting (rejectAt s p l) = lasting s := lasting_sendEvent ..

@[simp] theorem lasting_landItem (s : State) (p l i : Nat) (mark : Option Nat) : lasting (landItem s p l i mark) = lasting s := rfl

@[simp] theorem lasting_landArrival (s : State) (p l : Nat) (a : Arrival) : lasting (landArrival s p l a) = lasting s :=
  (lasting_ite ..).trans (ite_self _)

/-! ## Messages that go out (12) -/

@[simp] theorem lasting_routeFlit (s : State) (p r : Nat) (f : Flit) : lasting (routeFlit s p r f) = lasting s := lasting_routeAs ..

@[simp] theorem lasting_sendMsg (s : State) (p r mtype addr arg : Nat) (poison : Bool) (d : List Byte) :
    lasting (sendMsg s p r mtype addr arg poison d) = lasting s := lasting_foldl _ _ s fun _ _ => lasting_routeFlit ..

@[simp] theorem lasting_sendReply (s : State) (p r mtype addr arg : Nat) : lasting (sendReply s p r mtype addr arg) = lasting s :=
  lasting_sendMsg ..

@[simp] theorem lasting_ackFlit (s : State) (p : Nat) (f : Flit) : lasting (ackFlit s p f) = lasting s := by
  unfold ackFlit
  simp only [lasting_ite, lasting_sendReply, ite_self]

@[simp] theorem lasting_countReject (s : State) (p k : Nat) : lasting (countReject s p k) = lasting s := by
  unfold countReject
  simp only [lasting_ite, lasting_sendEvent, lasting_withLk, ite_self]

@[simp] theorem lasting_rejectFlit (s : State) (p k : Nat) (f : Flit) : lasting (rejectFlit s p k f) = lasting s := by
  unfold rejectFlit
  simp only [lasting_ite, lasting_sendReply, lasting_countReject, ite_self]

@[simp] theorem lasting_forwardFlit (s : State) (p k : Nat) (f : Flit) (fec : Bool) : lasting (forwardFlit s p k f fec) = lasting s := by
  unfold forwardFlit
  simp only [lasting_ite, lasting_rejectFlit, lasting_sendReply, lasting_queueFlit, ite_self]

/-! ## Checkpoints (16) -/

/-- A buddy's slot that opens. -/
theorem lasting_openSlot {s t : State} {q cut len : Nat} (h : openSlot s q cut len = some t) : lasting t = lasting s := by
  unfold openSlot at h
  simp only [] at h
  split at h
  · cases h
  · injection h with h
    rw [← h]
    exact lasting_hbmStore ..

theorem lasting_commitSlot (s : State) (q cut : Nat) (digest : List Nat) : lasting (commitSlot s q cut digest) = lasting s := by
  unfold commitSlot
  split
  · rfl
  · exact lasting_hbmStore ..

/-- A message of a ward's Agate. -/
theorem lasting_agateMsg (s : State) (q o : Nat) (d : List Byte) : lasting (agateMsg s q o d).1 = lasting s := by
  unfold agateMsg
  split
  · split
    · rfl
    · next h => exact lasting_openSlot h
  · split
    · exact lasting_commitSlot ..
    · split
      · exact lasting_hbmStore ..
      · rfl

theorem lasting_setJobCut (s : State) (p cut : Nat) : lasting (setJobCut s p cut) = lasting s := by
  have hdrain : ∀ t, lasting (drainStart t p) = lasting t := fun _ => rfl
  unfold setJobCut
  simp only [lasting_ite, hdrain, lasting_withCk, ite_self]

/-! ## The step barrier (13, R444 to R447; 15, R496; 16, R537, R541) -/

theorem lasting_sendBarrier (s : State) (p r kind step attempt arg : Nat) (d : List Byte) :
    lasting (sendBarrier s p r kind step attempt arg d) = lasting s := lasting_routeFlit ..

theorem lasting_takeRelease (s : State) (p tRel nextCut jobCut : Nat) : lasting (takeRelease s p tRel nextCut jobCut) = lasting s := by
  unfold takeRelease
  simp only [lasting_setJobCut, lasting_withCk, lasting_ite, lasting_sendEvent, lasting_withCl, ite_self]

theorem lasting_tryArrive (s : State) (p : Nat) : lasting (tryArrive s p) = lasting s := by
  unfold tryArrive rootRelease
  simp only [lasting_ite, lasting_takeRelease, lasting_sendDown, lasting_sendBarrier, lasting_withCk, lasting_withCl, ite_self]

theorem lasting_noteArrive (s : State) (p r step attempt : Nat) : lasting (noteArrive s p r step attempt) = lasting s :=
  lasting_tryArrive ..

theorem lasting_cutResult (s : State) (p r cut : Nat) (ok : Bool) : lasting (cutResult s p r cut ok) = lasting s := by
  unfold cutResult
  simp only [lasting_ite, lasting_setJobCut, lasting_sendBarrier, lasting_withCk, ite_self]

theorem lasting_takeAbort (s : State) (p step attempt : Nat) : lasting (takeAbort s p step attempt) = lasting s := by
  unfold takeAbort
  simp only [lasting_ite, lasting_faultEnd, lasting_withCl, lasting_sendDown, lasting_withPart, lasting_takeReplay, ite_self]

end Sys2Proof.Machine
end

section
/-! SUPPORT. The collective calls leave the links as they are, but for what they send (13, R421 to R438). -/

namespace Sys2Proof.Machine

/-! ## Calls and their words -/

theorem lasting_withCall (s : State) (p id : Nat) (f : CollCall → CollCall) : lasting (withCall s p id f) = lasting s := rfl

theorem lasting_noteDone (s : State) (p id kind src x : Nat) (data : List Byte) : lasting (noteDone s p id kind src x data) = lasting s :=
  rfl

theorem lasting_sendColl (s : State) (p : Nat) (c : CollCall) (mtype kind x piece pos : Nat) (poison : Bool) (d : List Byte) :
    lasting (sendColl s p c mtype kind x piece pos poison d) = lasting s := lasting_routeFlit ..

theorem lasting_formWord (s : State) (p id word : Nat) : lasting (formWord s p id word) = lasting s := by
  have hgive : ∀ (t : State) poison mark w, lasting (giveWord t p word poison mark w) = lasting t := fun _ _ _ _ => rfl
  unfold formWord
  split
  · rfl
  · rw [lasting_ite, lasting_foldl _ _ _ fun t w => hgive t _ _ w, lasting_withCall, ite_self]

theorem lasting_notePoisonOut (s : State) (p id : Nat) : lasting (notePoisonOut s p id) = lasting s := by
  unfold notePoisonOut
  split
  · rfl
  · simp only [lasting_ite, lasting_sendEvent, lasting_withCl, lasting_withCall, ite_self]

theorem lasting_collWrite (s : State) (p id off : Nat) (poison : Bool) (d : List Byte) :
    lasting (collWrite s p id off poison d) = lasting s := by
  unfold collWrite
  simp only [lasting_ite, lasting_notePoisonOut, lasting_hbmPoison, lasting_hbmStore, ite_self]

/-! ## Operations 1 to 4 -/

theorem lasting_collCheck (s : State) (p id : Nat) : lasting (collCheck s p id) = lasting s := by
  unfold collCheck
  split
  · rfl
  · simp only [lasting_ite, lasting_formWord, lasting_withCl, ite_self]

theorem lasting_collDeliver (s : State) (p id src c : Nat) (d : List Byte) (poison : Bool) :
    lasting (collDeliver s p id src c d poison) = lasting s := by
  unfold collDeliver
  split
  · rfl
  · simp only [lasting_ite, lasting_collCheck, lasting_withCall, lasting_collWrite, ite_self]

theorem lasting_nodeDown (p id l i c : Nat) (d : List Byte) (b : Bool) (s : State) : lasting (nodeDown p id l i c d b s) = lasting s := by
  induction l generalizing i s with
  | zero => exact lasting_collDeliver ..
  | succ l ih =>
    rw [nodeDown]
    split
    · rfl
    · simp only [lasting_ite, ih, lasting_sendColl, ite_self]

theorem lasting_rootDown (s : State) (p id c : Nat) (d : List Byte) (b : Bool) : lasting (rootDown s p id c d b) = lasting s := by
  unfold rootDown
  split
  · rfl
  · rw [lasting_ite, lasting_nodeDown, lasting_foldl, ite_self]
    intro t k
    rw [lasting_ite, lasting_collDeliver, lasting_sendColl, ite_self]

theorem lasting_nodeUp (p id fuel l i c : Nat) (d : List Byte) (b : Bool) (s : State) :
    lasting (nodeUp p id fuel l i c d b s) = lasting s := by
  induction fuel generalizing l i d b s with
  | zero => rfl
  | succ fuel ih =>
    rw [nodeUp]
    split
    · rfl
    · extract_lets n width sib
      split
      · exact lasting_rootDown ..
      · split
        · exact ih ..
        · split
          · exact lasting_sendColl ..
          · split
            · rfl
            · exact ih ..

/-! ## All-to-all -/

theorem lasting_landRow (s : State) (p : Nat) (c : CollCall) (src x e r : Nat) (data : List Byte) (poison : Bool) :
    lasting (landRow s p c src x e r data poison) = lasting s := (lasting_hbmStore ..).trans (lasting_collWrite ..)

theorem lasting_ownerRecords (s : State) (p : Nat) (c : CollCall) : lasting (ownerRecords s p c) = lasting s := by
  refine lasting_foldl _ _ s fun t e => ?_
  simp only [lasting_hbmStore, lasting_ite, ite_self]

theorem lasting_sourceRecords (s : State) (p : Nat) (c : CollCall) : lasting (sourceRecords s p c) = lasting s :=
  (lasting_foldl _ _ _ fun _ _ => lasting_hbmStore ..).trans (lasting_hbmStore ..)

theorem lasting_a2aCheck (s : State) (p id : Nat) : lasting (a2aCheck s p id) = lasting s := by
  unfold a2aCheck
  split
  · rfl
  · extract_lets d rows t u
    have ht : lasting t = lasting s := by
      show lasting (if _ then _ else s) = _
      rw [lasting_ite, lasting_noteDone, lasting_ownerRecords, ite_self]
    have hu : lasting u = lasting s := by
      show lasting (if _ then _ else t) = _
      rw [lasting_ite, lasting_noteDone, lasting_sourceRecords, ht, ite_self]
    have hword : ∀ n, lasting (formWord (withCl s p (fun x => { x with calls := satInc x.calls 1 })) p id n) = lasting s := fun _ =>
      lasting_formWord ..
    simp only [lasting_ite, hword]
    split
    · rfl
    · split
      · exact ite_self _
      · split
        · exact hu
        · rw [lasting_ite, lasting_formWord, lasting_withCl, ite_self, hu]

theorem lasting_a2aTell (s : State) (p : Nat) (c : CollCall) (src x : Nat) (placed : Bool) :
    lasting (a2aTell s p c src x placed) = lasting s := by
  unfold a2aTell
  simp only [lasting_ite, lasting_noteDone, lasting_sendColl, ite_self]

theorem lasting_a2aOwn (s : State) (p id : Nat) (r : CollRow) : lasting (a2aOwn s p id r) = lasting s := by
  unfold a2aOwn
  split
  · rfl
  · simp only [lasting_ite, lasting_a2aTell, lasting_noteDone, lasting_landRow, ite_self]
    split
    · rfl
    · split
      · rfl
      · rw [lasting_noteDone, lasting_landRow]

theorem lasting_a2aRows (s : State) (p id : Nat) : lasting (a2aRows s p id) = lasting s := by
  unfold a2aRows
  split
  · rfl
  · exact (lasting_a2aCheck ..).trans (lasting_foldl _ _ _ fun _ _ => lasting_a2aOwn ..)

theorem lasting_a2aSend (s : State) (p id x : Nat) : lasting (a2aSend s p id x) = lasting s := by
  unfold a2aSend
  split
  · rfl
  · rw [lasting_ite, lasting_withCall, lasting_foldl _ _ _ fun _ _ => lasting_sendColl .., ite_self]

theorem lasting_a2aGo (s : State) (p id : Nat) : lasting (a2aGo s p id) = lasting s := by
  unfold a2aGo
  split
  · rfl
  · rw [lasting_ite, lasting_foldl _ _ _ fun _ _ => lasting_a2aSend .., ite_self]

/-- A piece of a list or row that arrives, whether it was the last one or not. -/
theorem lasting_a2aPiece {s t : State} {p id kind src x piece need : Nat} {data : List Byte} {poison : Bool}
    {whole : Option (List Byte × Bool)} (h : a2aPiece s p id kind src x piece need data poison = (t, whole)) : lasting t = lasting s := by
  have hfst : lasting (a2aPiece s p id kind src x piece need data poison).1 = lasting s := by
    unfold a2aPiece
    split
    · rfl
    · simp only [apply_ite Prod.fst, lasting_ite, lasting_withCall, ite_self]
  rwa [h] at hfst

theorem lasting_a2aFlit (s : State) (p : Nat) (c : CollCall) (m : CollMsg) : lasting (a2aFlit s p c m) = lasting s := by
  unfold a2aFlit
  simp only []
  split
  · split
    · next h => exact lasting_a2aPiece h
    · next h => exact (lasting_a2aRows ..).trans ((lasting_a2aGo ..).trans ((lasting_withCall ..).trans (lasting_a2aPiece h)))
  · split
    · next h => exact lasting_a2aPiece h
    · next h => exact (lasting_a2aRows ..).trans ((lasting_withCall ..).trans (lasting_a2aPiece h))
  · exact lasting_a2aCheck ..
  · split
    · next h => exact lasting_a2aPiece h
    · next h => exact (lasting_a2aCheck ..).trans ((lasting_noteDone ..).trans ((lasting_collWrite ..).trans (lasting_a2aPiece h)))
  · rfl

/-! ## A collective flit -/

theorem lasting_sigMismatch (s : State) (p : Nat) (c : CollCall) : lasting (sigMismatch s p c) = lasting s := by
  unfold sigMismatch
  simp only [lasting_ite, lasting_formWord, lasting_withCl, lasting_foldl _ _ _ fun _ _ => lasting_hbmPoison .., lasting_withCall,
    lasting_sendEvent, ite_self]

theorem lasting_collTake (s : State) (p : Nat) (c : CollCall) (f : Flit) : lasting (collTake s p c f) = lasting s := by
  unfold collTake
  simp only [lasting_ite, lasting_sigMismatch, lasting_a2aFlit, lasting_withCall, ite_self]
  split
  · rfl
  · split
    · rfl
    · split
      · exact lasting_nodeUp ..
      · exact lasting_nodeDown ..
      · exact lasting_collDeliver ..
      · rfl

theorem lasting_collFlit (s : State) (p : Nat) (f : Flit) : lasting (collFlit s p f) = lasting s := by
  unfold collFlit
  simp only []
  split
  · exact lasting_collTake ..
  · rfl

end Sys2Proof.Machine
end

section
/-! SUPPORT. The unit of each message type leaves the links as they are, but for what they send, and so a flit that a port takes counts
there whatever its message brings about (12, R389 to R405, R410, R414 to R416). -/

namespace Sys2Proof.Machine

/-! ## The units of the message types -/

theorem lasting_rxSend (s : State) (p k : Nat) (f : Flit) : lasting (rxSend s p k f) = lasting s := by
  unfold rxSend
  dsimp only
  split
  · exact lasting_rejectFlit ..
  · exact lasting_landArrival ..

theorem lasting_rxWrite (s : State) (p k : Nat) (f : Flit) : lasting (rxWrite s p k f) = lasting s := by
  unfold rxWrite
  simp only [lasting_ite, lasting_ackFlit, lasting_rejectFlit, lasting_agateMsg, lasting_hbmPoison, lasting_hbmStore, ite_self]

theorem lasting_rxReadReq (s : State) (p k : Nat) (f : Flit) : lasting (rxReadReq s p k f) = lasting s := by
  unfold rxReadReq
  simp only [lasting_ite, lasting_rejectFlit, lasting_sendMsg, lasting_countPoisonRead, ite_self]

theorem lasting_setFetched (s : State) (p l buf sram : Nat) (d : List Byte) (poison : Bool) :
    lasting (setFetched s p l buf sram d poison) = lasting s := rfl

theorem lasting_rxReadData (s : State) (p : Nat) (f : Flit) : lasting (rxReadData s p f) = lasting s := by
  unfold rxReadData
  dsimp only
  split
  · rfl
  · rw [lasting_ite]
    split
    · rfl
    · split
      · rfl
      · rw [lasting_landItem, lasting_setFetched, lasting_withLk]

theorem lasting_rxAtomic (s : State) (p k : Nat) (f : Flit) : lasting (rxAtomic s p k f) = lasting s := by
  unfold rxAtomic
  simp only [lasting_ite, lasting_rejectFlit, lasting_ackFlit, lasting_withPart, ite_self]

theorem lasting_rxAtomicNow (s : State) (p k : Nat) (f : Flit) : lasting (rxAtomicNow s p k f) = lasting s := by
  unfold rxAtomicNow atomicAdd
  simp only [lasting_ite, lasting_rejectFlit, lasting_ackFlit, lasting_hbmPoison, lasting_hbmStore, ite_self]

theorem lasting_rxNack (s : State) (p k : Nat) (f : Flit) : lasting (rxNack s p k f) = lasting s := by
  unfold rxNack
  simp only [lasting_ite, lasting_withLk, lasting_requestReplay, lasting_sendEvent, lasting_hbmStore, ite_self]

theorem lasting_rejectReq (s : State) (p : Nat) (src : Option (Nat × Nat)) : lasting (rejectReq s p src) = lasting s := by
  unfold rejectReq
  split
  · exact lasting_rejectAt ..
  · exact lasting_rejectAccess ..

theorem lasting_rxReject (s : State) (p : Nat) (f : Flit) : lasting (rxReject s p f) = lasting s := by
  unfold rxReject
  dsimp only
  split
  · split
    · rw [lasting_landItem, lasting_setFetched, lasting_rejectAt, lasting_withLk]
    · rfl
  · split
    · exact lasting_rejectReq ..
    · split
      · exact lasting_rejectReq ..
      · rfl

theorem lasting_rxRouteFail (s : State) (p k : Nat) (f : Flit) : lasting (rxRouteFail s p k f) = lasting s := by
  unfold rxRouteFail
  simp only [lasting_ite, lasting_routeLost, lasting_requestReplay, lasting_withLk, ite_self]

theorem lasting_rxBarrier (s : State) (p : Nat) (f : Flit) : lasting (rxBarrier s p f) = lasting s := by
  have hdrop : lasting (dropAttempt s p) = lasting s := rfl
  unfold rxBarrier
  dsimp only
  split
  · rw [lasting_ite, hdrop, lasting_noteArrive, ite_self]
  · rw [lasting_ite, hdrop, lasting_takeRelease, lasting_sendDown, ite_self]
  · exact lasting_takeAbort ..
  · rw [lasting_ite, lasting_withCk, ite_self]
  · exact lasting_cutResult ..
  · rfl

theorem lasting_dropJob (s : State) (p k : Nat) : lasting (dropJob s p k) = lasting s := by
  unfold dropJob
  simp only [lasting_ite, lasting_sendEvent, lasting_withLk, ite_self]

theorem lasting_dropEpoch (s : State) (p : Nat) (f : Flit) : lasting (dropEpoch s p f) = lasting s := by
  unfold dropEpoch
  simp only [lasting_ite, lasting_routeAs, lasting_withLk, ite_self]

/-- A message at its destination (12, R405). -/
theorem lasting_deliverFlit (s : State) (p k : Nat) (f : Flit) : lasting (deliverFlit s p k f) = lasting s := by
  unfold deliverFlit
  split
  · exact lasting_rxSend ..
  · exact lasting_rxWrite ..
  · exact lasting_rxReadReq ..
  · exact lasting_rxReadData ..
  · exact lasting_rxAtomic ..
  · exact lasting_rxAtomicNow ..
  · exact lasting_collFlit ..
  · exact lasting_collFlit ..
  · exact lasting_rxNack ..
  · rfl
  · exact lasting_rxReject ..
  · exact lasting_rxRouteFail ..
  · exact lasting_rxBarrier ..

/-- A DATA flit of a job, whether it is malformed, on its way, at its destination or old (12, R390, R403, R404, R414). -/
theorem lasting_routeIn (s : State) (p k : Nat) (f : Flit) (fec : Bool) : lasting (routeIn s p k f fec) = lasting s := by
  have hdrop : lasting (dropAttempt s p) = lasting s := rfl
  unfold routeIn
  simp only [lasting_ite, lasting_withLk, lasting_countReject, lasting_forwardFlit, lasting_rejectFlit, lasting_dropJob,
    lasting_dropEpoch, lasting_deliverFlit, hdrop, ite_self]

theorem lasting_sendTime (s : State) (k : Nat) (half : Bool) (kind : Nat) (d : List Byte) :
    lasting (sendTime s k half kind d) = lasting s := lasting_queueFlit ..

theorem lasting_qzFollow (s : State) (offset delay : Int) (depth : Nat) : lasting (qzFollow s offset delay depth) = lasting s := by
  have hclock : ∀ z, lasting { s with quartz := z } = lasting s := fun _ => rfl
  unfold qzFollow
  simp only [lasting_ite, lasting_sendEvent, hclock, ite_self]

theorem lasting_rxTime (s : State) (k : Nat) (half : Bool) (f : Flit) : lasting (rxTime s k half f) = lasting s := by
  unfold rxTime
  dsimp only
  split
  · exact lasting_sendTime ..
  · split
    · rfl
    · rw [lasting_ite, lasting_qzFollow, ite_self]
  · rfl

end Sys2Proof.Machine
end

section
/-! SUPPORT. What a port does with a DATA flit, and O35 from it (12, R387, R390, R393, R395, R399). -/

namespace Sys2Proof.Machine

/-! ## One NAK -/

/-- A link that has asked for the expected flit (12, R395). -/
def noteNak (l : Link) : Link := { l with nakSent := true }

theorem noteNak_of_sent {l : Link} (h : l.nakSent = true) : noteNak l = l := by
  rw [noteNak, ← h]

/-- A discarded flit leaves the links as they are, but for the NAK (12, R395). -/
theorem lasting_nakFlit (s : State) (k : Nat) (half : Bool) : lasting (nakFlit s k half) = lasting (withLink s k half noteNak) := by
  unfold nakFlit
  split
  · next hsent => exact (lasting_withLink (congrArg lastingLink (noteNak_of_sent hsent))).symm
  · exact lasting_controlFlit ..

theorem nakFlit_parts (s : State) (k : Nat) (half : Bool) : (nakFlit s k half).parts = s.parts := by
  unfold nakFlit
  split <;> rfl

/-- The link of a discarded flit expects the flit that it expected. -/
theorem linkAt_nakFlit {s : State} {k : Nat} (h : k < s.ports.length) (half : Bool) :
    (linkAt (nakFlit s k half) k half).rxSeq = (linkAt s k half).rxSeq ∧ (linkAt (nakFlit s k half) k half).nakSent = true := by
  have hlink := lastingLink_of_lasting (lasting_nakFlit s k half) k half
  rw [linkAt_withLink h] at hlink
  exact ⟨(congrArg Link.rxSeq hlink :), (congrArg Link.nakSent hlink :)⟩

/-- A NAK changes the counts of its port for flits accepted and discarded in nothing. -/
theorem portAt_nakFlit (s : State) (k : Nat) (half : Bool) :
    (portAt (nakFlit s k half) k).crcErr = (portAt s k).crcErr ∧ (portAt (nakFlit s k half) k).rx = (portAt s k).rx := by
  have hport := lastingPort_of_lasting (lasting_nakFlit s k half) k
  have hcrc : (portAt (nakFlit s k half) k).crcErr = (portAt (withLink s k half noteNak) k).crcErr := (congrArg LkPort.crcErr hport :)
  have hrx : (portAt (nakFlit s k half) k).rx = (portAt (withLink s k half noteNak) k).rx := (congrArg LkPort.rx hport :)
  rw [hcrc, hrx]
  unfold withLink
  rcases portAt_withPort_cases s k _ k with hsame | hsame <;> rw [hsame]
  · cases half <;> exact ⟨rfl, rfl⟩
  · exact ⟨rfl, rfl⟩

/-- The first flit discarded since the last one in order is asked for with a NAK (12, R395). -/
theorem ctlq_nakFlit {s : State} {k : Nat} (h : k < s.ports.length) {half : Bool} (hfirst : (linkAt s k half).nakSent = false) :
    (linkAt (nakFlit s k half) k half).ctlq.getLast?.map (·.ltype) = some 2 := by
  unfold nakFlit
  rw [hfirst, if_neg (by decide)]
  exact ctlq_controlFlit (by rwa [ports_length_withLink]) ..

/-! ## A DATA flit at an ACTIVE link -/

/-- A port with one discarded flit more (12, LK_CRC_ERR). -/
def countCrcErr (x : LkPort) : LkPort := { x with crcErr := satInc x.crcErr 1 }

/-- What a port does with a DATA flit: it discards it, does not take it, asks for another one, or accepts it (12, R395, R399). -/
theorem rxFlit_data {s : State} {a : FlitArgs} (hunc : a.unc = 0) (hhalf : hasHalf s a.port a.half = true)
    (hst : (linkAt s a.port a.half).st = .active) (hdata : (flitOf (wordBytes a.word)).ltype = 1) :
    rxFlit s a =
      if !(!a.bad && flitCrcOk (wordBytes a.word)) then
        nakFlit (withPort (countCodewords (advance s a.dt) a) a.port countCrcErr) a.port a.half
      else if !portTakes s a.port (flitOf (wordBytes a.word)) then countCodewords (advance s a.dt) a
      else if (flitOf (wordBytes a.word)).seq != (linkAt s a.port a.half).rxSeq then nakFlit (headedFlit s a) a.port a.half
      else acceptFlit (headedFlit s a) a.port a.half (flitOf (wordBytes a.word)) a.fec := by
  have hhalf' : hasHalf (countCodewords (advance s a.dt) a) a.port a.half = true :=
    (hasHalf_of_received ((received_countCodewords hunc _).trans (received_advance s a.dt)) ..).trans hhalf
  have hlink : linkAt (countCodewords (advance s a.dt) a) a.port a.half = linkAt s a.port a.half :=
    (linkAt_countCodewords hunc ..).trans (linkAt_advance ..)
  have htakes : portTakes (countCodewords (advance s a.dt) a) a.port (flitOf (wordBytes a.word)) =
      portTakes s a.port (flitOf (wordBytes a.word)) :=
    of_countCodewords hunc (portTakes · a.port (flitOf (wordBytes a.word))) (fun _ => rfl) (fun _ _ _ _ => rfl)
  unfold rxFlit
  simp only [hhalf', hlink, hst, hdata, htakes, Bool.not_true, Bool.false_eq_true, bne_self_eq_false, if_true, if_false,
    reduceCtorEq]
  rfl

/-- A flit that is accepted counts at its port, whatever its message brings about (12, R393, R399). -/
theorem lasting_acceptFlit (s : State) (a : FlitArgs) :
    lasting (acceptFlit (headedFlit s a) a.port a.half (flitOf (wordBytes a.word)) a.fec) = lasting (tookFlit s a) := by
  unfold acceptFlit
  rw [lasting_controlFlit]
  change lasting (if _ then rxTime (tookFlit s a) a.port a.half _ else match partOfPort (tookFlit s a) a.port with
    | some p => _ | none => tookFlit s a) = _
  rw [lasting_ite, lasting_rxTime]
  split
  · rfl
  · split
    · exact lasting_routeIn ..
    · rfl

section
variable {s : State} {a : FlitArgs} (hport : a.port < s.ports.length) (hunc : a.unc = 0) (hhalf : hasHalf s a.port a.half = true)
  (hst : (linkAt s a.port a.half).st = .active) (hdata : (flitOf (wordBytes a.word)).ltype = 1)
include hport hunc hhalf hst hdata

/-- A flit with a wrong CRC, or in an uncorrectable codeword, is counted and asked for again (12, R387, R395). -/
theorem rxFlit_discards (hgood : (!a.bad && flitCrcOk (wordBytes a.word)) = false) :
    (rxFlit s a).parts = s.parts ∧ (portAt (rxFlit s a) a.port).crcErr = satInc (portAt s a.port).crcErr 1 ∧
      (linkAt (rxFlit s a) a.port a.half).rxSeq = (linkAt s a.port a.half).rxSeq ∧
      (linkAt (rxFlit s a) a.port a.half).nakSent = true ∧
      ((linkAt s a.port a.half).nakSent = false → ((linkAt (rxFlit s a) a.port a.half).ctlq.getLast?.map (·.ltype)) = some 2) := by
  let u := withPort (countCodewords (advance s a.dt) a) a.port countCrcErr
  have hlen : a.port < (countCodewords (advance s a.dt) a).ports.length := by
    rwa [ports_length_of_received ((received_countCodewords hunc _).trans (received_advance s a.dt))]
  have hlen' : a.port < u.ports.length := by simpa [u, withPort] using hlen
  have hparts : (countCodewords (advance s a.dt) a).parts = s.parts :=
    of_countCodewords hunc State.parts (fun _ => rfl) (fun _ _ _ _ => rfl)
  have hlink : linkAt u a.port a.half = linkAt s a.port a.half :=
    (linkAt_withPort _ _ (by exact fun _ => ⟨rfl, rfl⟩) ..).trans ((linkAt_countCodewords hunc ..).trans (linkAt_advance ..))
  have hcrc : (portAt u a.port).crcErr = satInc (portAt s a.port).crcErr 1 := by
    rw [portAt_withPort hlen, countCodewords_eq hunc, portAt_withPort (by rwa [advance_ports]), portAt, advance_ports]
    rfl
  rw [rxFlit_data hunc hhalf hst hdata, hgood, if_pos (by decide), nakFlit_parts, (portAt_nakFlit ..).1, (linkAt_nakFlit hlen' ..).1,
    (linkAt_nakFlit hlen' ..).2, hlink]
  exact ⟨hparts, hcrc, rfl, rfl, fun hfirst => ctlq_nakFlit hlen' (hlink ▸ hfirst)⟩

variable (hgood : (!a.bad && flitCrcOk (wordBytes a.word)) = true)
include hgood

omit hport in
/-- A port without a job takes no flit but TIME (12, R399). -/
theorem rxFlit_untaken (htakes : portTakes s a.port (flitOf (wordBytes a.word)) = false) :
    (rxFlit s a).parts = s.parts ∧ linkAt (rxFlit s a) a.port a.half = linkAt s a.port a.half := by
  rw [rxFlit_data hunc hhalf hst hdata, hgood, htakes, if_neg (by decide), if_pos (by decide)]
  exact ⟨of_countCodewords hunc State.parts (fun _ => rfl) (fun _ _ _ _ => rfl),
    (linkAt_countCodewords hunc ..).trans (linkAt_advance ..)⟩

variable (htakes : portTakes s a.port (flitOf (wordBytes a.word)) = true)
include htakes

/-- A flit out of order is discarded and asked for again (12, R395). -/
theorem rxFlit_disordered (hseq : (flitOf (wordBytes a.word)).seq ≠ (linkAt s a.port a.half).rxSeq) :
    (rxFlit s a).parts = s.parts ∧ (linkAt (rxFlit s a) a.port a.half).rxSeq = (linkAt s a.port a.half).rxSeq ∧
      (linkAt (rxFlit s a) a.port a.half).nakSent = true ∧ (portAt (rxFlit s a) a.port).rx = (portAt s a.port).rx := by
  have hrx := received_headedFlit hunc s
  have hlen : a.port < (headedFlit s a).ports.length := by rwa [ports_length_of_received hrx]
  have hparts : (headedFlit s a).parts = s.parts := of_countCodewords hunc State.parts (fun _ => rfl) (fun _ _ _ _ => rfl)
  have hseq' : (linkAt (headedFlit s a) a.port a.half).rxSeq = (linkAt s a.port a.half).rxSeq :=
    congrArg Prod.fst (linkRx_of_received hrx a.port a.half)
  have hcount : (portAt (headedFlit s a) a.port).rx = (portAt s a.port).rx := congrArg Prod.fst (portRx_of_received hrx a.port)
  rw [rxFlit_data hunc hhalf hst hdata, hgood, htakes, if_neg (by decide), if_neg (by decide), if_pos (by simpa using hseq), nakFlit_parts,
    (linkAt_nakFlit hlen ..).1, (linkAt_nakFlit hlen ..).2, (portAt_nakFlit ..).2]
  exact ⟨hparts, hseq', rfl, hcount⟩

/-- A flit in order is accepted (12, R393, R395). -/
theorem rxFlit_accepts (hseq : (flitOf (wordBytes a.word)).seq = (linkAt s a.port a.half).rxSeq) : flitTaken s (rxFlit s a) a := by
  rw [rxFlit_data hunc hhalf hst hdata, hgood, htakes, if_neg (by decide), if_neg (by decide), hseq, bne_self_eq_false,
    if_neg (by decide)]
  exact flitTaken_of_received hunc hport (received_of_lasting (lasting_acceptFlit s a))

end

/-! ## The rows -/

/-- Every row that brings a flit is that of its type. -/
theorem exec_of_mem_flitRows (s : State) (a : FlitArgs) : ∀ e ∈ flitRows a, exec e.1 s = flitRow a e.2 s := by
  have hforward : execFlitForward a s =
      flitRow a (fun f => f.ltype = 1 && (decide (pathHop f ≠ pathN f) || (vcOf f.mtype).isNone)) s := by
    unfold execFlitForward
    simp only [bne_iff_ne]
  simp only [flitRows, List.forall_mem_cons]
  exact ⟨rfl, rfl, rfl, hforward, rfl, rfl, rfl, rfl, rfl, rfl, rfl, rfl, rfl, rfl, rfl, rfl, rfl, rfl, rfl, rfl, rfl, rfl,
    List.forall_mem_nil _⟩

theorem flitRow_other {s : State} {a : FlitArgs} (hport : a.port < 24) {is : Flit → Bool} (h : is (flitOf (wordBytes a.word)) = false) :
    flitRow a is s = .fault .wrongFlit := by
  rw [flitRow, if_neg (by omega), h]
  rfl

theorem flitRow_own {s : State} {a : FlitArgs} (hport : a.port < 24) {is : Flit → Bool} (h : is (flitOf (wordBytes a.word)) = true) :
    flitRow a is s = .next (rxFlit s a) := by
  rw [flitRow, if_neg (by omega), h]
  rfl

/-- Settles O35: every row is the port's, which discards, leaves, asks again for, or accepts a DATA flit; what the message of an accepted
one brings about leaves what its port has received. -/
theorem flitReceipt : Obligations.FlitReceipt := by
  unfold Obligations.FlitReceipt
  intro s a hport hlen _ f good l e he
  have hlt : a.port < s.ports.length := by omega
  rw [exec_of_mem_flitRows s a e he]
  refine ⟨fun hother => flitRow_other hport hother, fun hown hdata hst hhalf => ?_⟩
  rw [flitRow_own hport hown]
  refine ⟨fun hgood hunc => ?_, fun hcomes htakes => ?_, fun hcomes htakes hseq => ?_, fun hcomes htakes hseq => ?_⟩
  · exact ⟨_, rfl, rxFlit_discards hlt hunc hhalf hst hdata hgood⟩
  all_goals
    obtain ⟨-, -, -, -, hbad, hcrc, hunc⟩ := hcomes
    have hgood : (!a.bad && flitCrcOk (wordBytes a.word)) = true := by rw [hbad, hcrc]; rfl
    refine ⟨_, rfl, ?_⟩
  · exact rxFlit_untaken hunc hhalf hst hdata hgood htakes
  · exact rxFlit_disordered hlt hunc hhalf hst hdata hgood htakes hseq
  · exact rxFlit_accepts hlt hunc hhalf hst hdata hgood htakes hseq

end Sys2Proof.Machine
end

section
/-! SUPPORT. An HBM journal that runs into the destination of a collective call, which refutes O34 (13, R426, R427, R433; 15, R492). -/

namespace Sys2Proof.Machine

/-- Call 5, ALLREDUCE of 32 FP32 elements from 0x2000 to 0x4000 over the group at 0x1000: the 128 bytes of its descriptor (13). -/
def journalledDesc : List Byte :=
  leBytes 4 5 ++ [1, 1, 0, 0] ++ leBytes 8 (protOff 0x1000) ++ leBytes 8 (protOff 0x2000) ++ leBytes 8 (protOff 0x4000) ++
    leBytes 8 32 ++ List.replicate 88 0

/-- The call before COLL_BEGIN; no buffer waits for its word. -/
def journalledCall : CollCall :=
  { id := 5, desc := journalledDesc, relaxed := false, resv := 0, u := 0, begun := false, group := [], pos := 0, sig := 0, src := [],
    etab := [], nodes := [], done := [], nf := 0, rows := [], lists := [], broken := false, poison := false, mark := none, word := none,
    waiters := [] }

/-- A running partition with that call and the record of a group of rank 0 alone; every other byte is zero. The HBM journal is that of
journalledPart: its second record lies at 0x4000, where the destination begins. -/
def collectingPart : Partition :=
  { journalledPart with
    hbm := memWrite [] (protOff 0x1000) (leBytes 4 1 ++ leBytes 8 0), upd := updReset,
    cl := { clRegsReset with inAttempt := [journalledCall] } }

/-- A module with one partition, collectingPart. -/
def collectingState : State := { journalledState with parts := collectingPart :: List.replicate 11 partReset }

/-- The call passes every check of R426, and nothing there asks where the journal lies. -/
theorem collRefusal_journalledCall :
    collRefusal collectingState 0 ((part collectingState 0).cl.inAttempt.findIdx (fun x => x.id = (5 : BitVec 32).toNat)) journalledCall =
      none := by decide +kernel

theorem groupRanks_journalledCall : groupRanks collectingState 0 (collDesc journalledCall.desc).group = some [0] := by decide +kernel

theorem tierClean_collectingState : tierClean collectingState = true := by decide

/-- The journal's record of the destination's second line comes after the first line is written, and its first field is the offset of
the second line (15, R492). -/
theorem firstBytes_after_begin :
    (memRead (part (collBegin collectingState 0 5) 0).hbm (protOff 0x4000) 128).take 8 = leBytes 8 (protOff 0x4040) := by
  decide +kernel

theorem firstBytes_of_source : (memRead (part collectingState 0).hbm (protOff 0x2000) 128).take 8 = leBytes 8 0 := by
  decide +kernel

/-- Refutes O34: the clause on an ALLREDUCE of one rank does not keep the HBM journal off the destination. In collectingState the
journal's second record falls on the destination's first line, which is already written. -/
theorem not_collectivesAndBarriers : ¬ Obligations.CollectivesAndBarriers := by
  unfold Obligations.CollectivesAndBarriers
  rintro ⟨hbegin, -⟩
  obtain ⟨-, htaken⟩ := hbegin collectingState 0 5 journalledCall (by decide) rfl rfl rfl rfl (by decide) rfl rfl (by decide)
  obtain ⟨t, hnext, -, -, hsingle⟩ := htaken collRefusal_journalledCall [0] groupRanks_journalledCall
  have hcopied : memRead (part t 0).hbm (protOff 0x4000) 128 = memRead (part collectingState 0).hbm (protOff 0x2000) 128 :=
    (hsingle rfl rfl rfl tierClean_collectingState rfl rfl rfl).2
  have hrun : exec (.collBegin 0 5) collectingState = .next (collBegin collectingState 0 5) := rfl
  have ht : collBegin collectingState 0 5 = t := by
    rw [hrun] at hnext
    injection hnext
  have hbytes := firstBytes_after_begin
  rw [ht, hcopied, firstBytes_of_source] at hbytes
  exact absurd hbytes (by decide)

end Sys2Proof.Machine
end

section
/-! SUPPORT. A barrier that is released and a TIME flit that comes while Quartz stands past 2^64 ns, which refute O39 and O41: the model
takes its clock modulo 2^64 ns where time passes, and both statements read it as it stood before (13, R440 to R446). -/

namespace Sys2Proof.Machine

/-! ## Quartz past 2^64 ns -/

/-- Quartz 1,000 ns past the end of TIME64. -/
def overrunClock : Quartz := { quartzReset with ns := 2 ^ 64 + 1000 }

/-- The model gets there: a module that follows its parent may step past the end of TIME64 (13, R442). -/
theorem qzFollow_overruns :
    (qzFollow { State.reset with quartz := { quartzReset with ns := 2 ^ 64 - 1 } } (-1001 * 65536) 0 0).quartz.ns = overrunClock.ns := by
  decide +kernel

/-! ## O39: a RELEASE -/

/-- Rank 1 of the two ranks of tablePart's job, on a module whose clock stands past 2^64 ns. -/
def overrunState : State :=
  { tableState with
    quartz := overrunClock, parts := { tablePart with job := { jobNone with ranks := 2, rank := 1 } } :: List.replicate 11 partReset }

/-- The RELEASE of the root, with T_rel at 2,000 ns (13, R444). -/
def rootReleases : Flit :=
  { flitNone with
    ltype := 1, mtype := 0x18, mflags := 0x31, epoch := 2, job := 7, dst := 1, src := 0, path := 2 ^ 48 + 2 ^ 52, addr := 2, step := 9,
    plen := 32, attempt := 1, payload := leBytes 192 2000 }

/-- The flit as it comes to port 0. -/
def releaseArrives : FlitArgs := { eraserArrives with word := BitVec.ofNat 2048 (leNat (flitBytes rootReleases)) }

theorem wordBytes_releaseArrives : wordBytes releaseArrives.word = flitBytes rootReleases := by decide +kernel

theorem flitOf_releaseArrives : flitOf (wordBytes releaseArrives.word) = rootReleases := by decide +kernel

theorem flitCrcOk_releaseArrives : flitCrcOk (wordBytes releaseArrives.word) = true := by
  rw [wordBytes_releaseArrives]
  exact flitCrcOk_flitBytes rootReleases

theorem flitHome_releaseArrives : flitHome overrunState releaseArrives 0 := by
  unfold flitHome
  rw [flitOf_releaseArrives]
  exact ⟨⟨by decide, rfl, rfl, rfl, rfl, flitCrcOk_releaseArrives, rfl⟩, rfl, by decide, by decide, rfl, rfl, by decide, by decide, rfl,
    rfl, rfl, rfl, rfl, rfl⟩

theorem exec_releaseArrives : exec (.release releaseArrives) overrunState = .next (rxFlit overrunState releaseArrives) := by
  have hkind : isBarrierFlit 2 (flitOf (wordBytes releaseArrives.word)) = true := by rw [flitOf_releaseArrives]; rfl
  show flitRow releaseArrives (isBarrierFlit 2) overrunState = _
  exact flitRow_own (by decide) hkind

/-- At 1,000 ns the release time is still to come, so the RELEASE is not late (13, R446). -/
theorem late_after_release : (part (rxFlit overrunState releaseArrives) 0).cl.late = 0 := by decide +kernel

/-- Refutes O39: the clause on RELEASE compares T_rel with the clock as it stood, which nothing bounds; past 2^64 ns the RELEASE of
overrunState would be a late one. -/
theorem not_collectiveAndBarrierFlits : ¬ Obligations.CollectiveAndBarrierFlits := by
  unfold Obligations.CollectiveAndBarrierFlits
  rintro ⟨-, hbarrier⟩
  obtain ⟨-, hrelease, -⟩ := hbarrier overrunState releaseArrives 0 flitHome_releaseArrives rfl rfl (by rw [flitOf_releaseArrives]; rfl)
  rw [flitOf_releaseArrives] at hrelease
  obtain ⟨t, hnext, -, -, -, -, hlate⟩ := hrelease rfl
  have ht : rxFlit overrunState releaseArrives = t := by
    rw [exec_releaseArrives] at hnext
    injection hnext
  rw [← ht, late_after_release, if_pos (by decide +kernel)] at hlate
  exact absurd hlate (by decide)

/-! ## O41: a TIME request -/

/-- A TIME request of a child (13, R441). -/
def timeRequest : Flit :=
  { flitNone with ltype := 1, mtype := 0x19, mflags := 0x31, addr := 1, plen := 10, payload := List.replicate 192 0 }

/-- The request as it comes to port 0. -/
def requestArrives : FlitArgs := { eraserArrives with word := BitVec.ofNat 2048 (leNat (flitBytes timeRequest)) }

theorem wordBytes_requestArrives : wordBytes requestArrives.word = flitBytes timeRequest := by decide +kernel

theorem flitOf_requestArrives : flitOf (wordBytes requestArrives.word) = timeRequest := by decide +kernel

theorem flitCrcOk_requestArrives : flitCrcOk (wordBytes requestArrives.word) = true := by
  rw [wordBytes_requestArrives]
  exact flitCrcOk_flitBytes timeRequest

theorem flitComes_requestArrives : flitComes overrunState requestArrives :=
  ⟨by decide, rfl, rfl, rfl, rfl, flitCrcOk_requestArrives, rfl⟩

theorem exec_requestArrives : exec (.time requestArrives) overrunState = .next (rxFlit overrunState requestArrives) := by
  have htime : isData 0x19 (flitOf (wordBytes requestArrives.word)) = true := by rw [flitOf_requestArrives]; rfl
  show flitRow requestArrives (isData 0x19) overrunState = _
  exact flitRow_own (by decide) htime

/-- The request is answered at 1,000 ns. -/
theorem clock_after_request : (rxFlit overrunState requestArrives).quartz.ns = 1000 := by decide +kernel

/-- Refutes O41: the clause on a TIME request says that Quartz stands, with no bound on its time; the clock of overrunState is past
2^64 ns before the flit and within TIME64 after it. -/
theorem not_quartzTime : ¬ Obligations.QuartzTime := by
  unfold Obligations.QuartzTime
  rintro ⟨-, hflits⟩
  obtain ⟨hrequest, -⟩ := hflits overrunState requestArrives flitComes_requestArrives rfl
    (by rw [flitOf_requestArrives]; rfl) (by rw [flitOf_requestArrives]; rfl) (by rw [flitOf_requestArrives]; rfl)
    (by rw [flitOf_requestArrives]; rfl)
  obtain ⟨t, hnext, -, -, hclock, -⟩ := hrequest (by rw [flitOf_requestArrives]; rfl)
  have ht : rxFlit overrunState requestArrives = t := by
    rw [exec_requestArrives] at hnext
    injection hnext
  have hns := clock_after_request
  rw [ht, hclock] at hns
  exact absurd hns (by decide)

end Sys2Proof.Machine
end

section
/-! SUPPORT. What one step leaves of the queue and of Onyx, and the state after reset. -/

namespace Sys2Proof.Machine

/-- A step that goes on is a tick on an empty queue, or the front command on the state with the rest of the queue. -/
theorem step_cases {s t : State} (e : step s = .next t) :
    (s.pending = [] ∧ t = idle s) ∨
      ∃ c rest, s.pending = c :: rest ∧ exec c { s with pending := rest } = .next t := by
  cases hq : s.pending with
  | nil => exact .inl ⟨rfl, (Host.Outcome.next.inj ((step_nil hq).symm.trans e)).symm⟩
  | cons c rest => exact .inr ⟨c, rest, rfl, (step_of_pending hq).symm.trans e⟩

/-- A command that goes on leaves the queue as it is. -/
theorem exec_pending {s t : State} (c : Instr) (h : Inv s) (e : exec c s = .next t) : t.pending = s.pending :=
  (exec_keeps c h e).pending

/-- A tick keeps the queue, the sizes of the module and Onyx. -/
theorem idle_keeps {s : State} (h : Inv s) : Keeps s (idle s) := .of_shape h (idle_shape s)

/-- A step takes the front command, if there is one, and leaves the rest. -/
theorem step_pending {s t : State} (h : Inv s) (e : step s = .next t) : t.pending = s.pending.drop 1 := by
  obtain ⟨hq, ht⟩ | ⟨c, rest, hq, e⟩ := step_cases e
  · rw [ht, (idle_keeps h).pending, hq, List.drop_nil]
  · have h' : Inv { s with pending := rest } := (inv_pending s rest).2 h
    rw [exec_pending c h' e, hq, List.drop_one, List.tail_cons]

/-- No step clears a burned bit: a tick leaves Onyx as it is, and a command burns at most. -/
theorem step_burned {s t : State} (h : Inv s) (e : step s = .next t) : staysBurned s.boot.fuse t.boot.fuse := by
  obtain ⟨-, ht⟩ | ⟨c, rest, -, e⟩ := step_cases e
  · exact ht ▸ (idle_keeps h).burned
  · have h' : Inv { s with pending := rest } := (inv_pending s rest).2 h
    exact (exec_keeps c h' e).burned

/-- Settles O60: only the rows that may burn Onyx change it, and a burn writes the OR of old and new. -/
theorem fusesStayBurned : Obligations.FusesStayBurned := fun _ _ h e => step_burned h e

/-- Settles O55: the step looks at the front of the queue alone. -/
theorem stepPerforms : Obligations.StepPerforms := step_cons

/-- Settles O58: every command keeps the queue, and a step on an empty one is the tick. -/
theorem queueOrder : Obligations.QueueOrder := by
  refine ⟨⟨fun s t c h e => exec_pending c h e, fun s t h e => step_pending h e⟩, fun s h hq => ?_⟩
  have e : step s = .next (idle s) := step_nil hq
  have k := idle_keeps h
  exact ⟨idle s, e, k.inv h, by rw [k.pending, hq], k.burned⟩

/-- Every line of the directory is I at reset (log entry 9). -/
theorem tiersReset_inv : tiersReset.lines.all (fun l => l.st = .inv) = true := by decide

/-- Settles O56: each field by its value in the reset state. -/
theorem resetState : Obligations.ResetState := by
  refine ⟨⟨rfl, rfl, rfl, rfl, by decide⟩, rfl, ?_⟩
  exact ⟨rfl, rfl, rfl, rfl, by decide, by decide, rfl, by decide, tiersReset_inv, rfl, rfl, rfl, rfl, rfl, rfl⟩

end Sys2Proof.Machine
end

section
/-! SUPPORT. Doorbells (17, R555, R572, R573), and O47 from them. -/

namespace Sys2Proof.Machine

/-- The queue context that a doorbell of function k at an offset would name, as R555 counts them. -/
def bellNumber (s : State) (k off : Nat) : Nat := if k = 0 then off / 8 else (k - 1) * ctxPer s + off / 8

/-- The function is one of the plan's, and the offset lies within the contexts that it reaches (17, R555). -/
def bellReaches (s : State) (k off : Nat) : Prop :=
  k ≤ planCount s ∧ off / 8 < (if k = 0 then ctxPer s * planCount s else ctxPer s)

theorem bellCtx_reaches {s : State} {k off : Nat} (ho : off % 8 = 0) (h : bellReaches s k off) :
    bellCtx s k off = some (bellNumber s k off) := by
  obtain ⟨hk, hj⟩ := h
  unfold bellCtx bellNumber partOfCtx
  by_cases h0 : k = 0
  · rw [if_pos h0] at hj
    have hplan : planCount s ≠ 0 := fun e => by simp [e] at hj
    simp [ho, h0, hplan, Nat.not_le.2 hj]
  · rw [if_neg h0] at hj
    simp [ho, h0, hk, hj]

theorem bellCtx_beyond {s : State} {k off : Nat} (h : ¬ bellReaches s k off) : bellCtx s k off = none := by
  unfold bellReaches at h
  unfold bellCtx partOfCtx
  by_cases h0 : k = 0
  · have hj : ctxPer s * planCount s ≤ off / 8 := by simpa [h0] using h
    simp [h0, hj]
  · rw [if_neg h0] at h
    simp [h0, h]

/-- A doorbell that is dropped counts in FN_DB_DROP of its function (17, R573). -/
def bellDropped (s : State) (k : Nat) : State := withFn s k (fun f => { f with dbDrop := satInc f.dbDrop 1 })

theorem exec_doorbell_beyond {s : State} {k : Nat} {off : BitVec 16} {v : Word64} (hk : k < 13)
    (h : ¬ bellReaches s k off.toNat) : exec (.doorbell k off v) s = .next (bellDropped s k) := by
  show onUnit (decide (k < 13)) (doorbell s k off.toNat v.toNat) = _
  unfold doorbell
  rw [bellCtx_beyond h]
  simp only [onUnit, hk, decide_true, if_true]
  rfl

/-- A doorbell that reaches a context: dropped where the context is not configured or the index is not below its size (17, R573). -/
theorem exec_doorbell_reaches {s : State} {k : Nat} {off : BitVec 16} {v : Word64} (hk : k < 13) (hw : fwWorks s = true)
    (ho : off.toNat % 8 = 0) (h : bellReaches s k off.toNat) :
    exec (.doorbell k off v) s =
      .next (match s.host.ctxs.find? (fun x => x.k = bellNumber s k off.toNat) with
        | none => bellDropped s k
        | some c =>
          if c.size ≤ v.toNat % 2 ^ 32 then bellDropped s k
          else withCtx s (bellNumber s k off.toNat) (fun y => { y with tail := v.toNat % 2 ^ 32 })) := by
  show onUnit (decide (k < 13)) (doorbell s k off.toNat v.toNat) = _
  unfold doorbell
  rw [bellCtx_reaches ho h]
  simp only [onUnit, hk, hw, decide_true, if_true, Bool.not_true, Bool.false_or, decide_eq_true_eq]
  rfl

/-- A doorbell whose context, if it is one, is not configured or too small for the index, is dropped. -/
theorem exec_doorbell_dropped {s : State} {k : Nat} {off : BitVec 16} {v : Word64} (hk : k < 13) (hw : fwWorks s = true)
    (ho : off.toNat % 8 = 0)
    (h : ∀ c, s.host.ctxs.find? (fun x => x.k = bellNumber s k off.toNat) = some c → c.size ≤ v.toNat % 2 ^ 32) :
    exec (.doorbell k off v) s = .next (bellDropped s k) := by
  by_cases hr : bellReaches s k off.toNat
  · rw [exec_doorbell_reaches hk hw ho hr]
    cases hfind : s.host.ctxs.find? (fun x => x.k = bellNumber s k off.toNat) with
    | none => rfl
    | some c => simp only [if_pos (h c hfind)]
  · exact exec_doorbell_beyond hk hr

/-- Settles O47: a doorbell outside the function's contexts names none, and one within is judged by its context alone. -/
theorem doorbells : Obligations.Doorbells := by
  intro s fn off v hfn _ hw ho n j k drop
  refine ⟨fun hplan => exec_doorbell_beyond hfn fun h => absurd h.1 (by omega), fun h0 hj => exec_doorbell_beyond hfn fun h => ?_,
    fun h0 hj => exec_doorbell_beyond hfn fun h => ?_, fun hnone => exec_doorbell_dropped hfn hw ho fun c hc => ?_,
    fun c hc => ⟨fun hn => exec_doorbell_dropped hfn hw ho fun d hd => ?_, fun hplan hj hn => ?_⟩⟩
  · exact absurd h.2 (by rw [if_pos h0]; exact Nat.not_lt.2 hj)
  · exact absurd h.2 (by rw [if_neg (by omega)]; exact Nat.not_lt.2 hj)
  · exact absurd (hnone.symm.trans hc) (by simp)
  · obtain rfl : c = d := Option.some.inj (hc.symm.trans hd)
    exact hn
  · rw [exec_doorbell_reaches hfn hw ho ⟨hplan, hj⟩]
    have hc' : s.host.ctxs.find? (fun x => x.k = bellNumber s fn off.toNat) = some c := hc
    simp only [hc']
    rw [if_neg (Nat.not_le.2 hn)]
    rfl

end Sys2Proof.Machine
end

section
/-! SUPPORT. Event records and their two paths (15, R523, R525; 17, R579), and O54 from them. -/

namespace Sys2Proof.Machine

/-! ## The 32 bytes -/

/-- The bytes of a number as a register of their width holds it. -/
theorem leBytes_mod (n v : Nat) : leBytes n (v % 2 ^ (8 * n)) = leBytes n v := by
  induction n generalizing v with
  | zero => rfl
  | succ n ih =>
    have hpow : 2 ^ (8 * (n + 1)) = 256 * 2 ^ (8 * n) := by rw [Nat.mul_succ, Nat.pow_add, Nat.mul_comm]
    rw [leBytes, leBytes, hpow, Nat.mod_mul_right_div_self, ih]
    congr 1
    exact BitVec.eq_of_toNat_eq (by rw [BitVec.toNat_ofNat, BitVec.toNat_ofNat, Nat.mod_mul_right_mod])

theorem leBytes_ofNat (n v : Nat) : leBytes n (BitVec.ofNat (8 * n) v).toNat = leBytes n v := by
  rw [BitVec.toNat_ofNat, leBytes_mod]

theorem length_evBytes (e : EvRec) : (evBytes e).length = 32 := by
  unfold evBytes
  simp [length_leBytes]

/-- The fields of a record, one after the other (15, R523). -/
theorem evBytes_fields (e : EvRec) :
    (evBytes e).take 8 = leBytes 8 e.time.toNat ∧ ((evBytes e).drop 8).take 8 = leBytes 8 e.step.toNat ∧
      ((evBytes e).drop 16).take 4 = [e.die, e.unit] ++ leBytes 2 e.index.toNat ∧
      ((evBytes e).drop 20).take 2 = leBytes 2 e.cls.toNat ∧ ((evBytes e).drop 22).take 2 = leBytes 2 e.code.toNat ∧
      (evBytes e).drop 24 = leBytes 8 e.detail.toNat :=
  ⟨rfl, rfl, rfl, rfl, rfl, rfl⟩

/-! ## The event ring of a function -/

/-- What both branches of a choice of states give, the choice gives. -/
theorem proj_ite {α : Type} (f : State → α) {c : Prop} [Decidable c] {a b : State} {x : α} (ha : f a = x) (hb : f b = x) :
    f (if c then a else b) = x := by split <;> assumption

theorem fnOf_raiseVector_ne (s : State) {k j : Nat} (v : Nat) (h : j ≠ k) : fnOf (raiseVector s k v) j = fnOf s j :=
  proj_ite (fnOf · j) (fnOf_withFn_ne s h _) rfl

theorem fnOf_ringEvent_ne (s : State) {k j : Nat} (e : EvRec) (h : j ≠ k) : fnOf (ringEvent k e s) j = fnOf s j :=
  proj_ite (fnOf · j) (fnOf_withFn_ne s h _) ((fnOf_raiseVector_ne _ 1 h).trans (fnOf_withFn_ne s h _))

theorem raiseVector_up (s : State) (k v : Nat) : (raiseVector s k v).host.up = s.host.up := proj_ite (·.host.up) rfl rfl

theorem ringEvent_up (k : Nat) (e : EvRec) (s : State) : (ringEvent k e s).host.up = s.host.up :=
  proj_ite (·.host.up) rfl (raiseVector_up _ k 1)

/-- A vector of a function that the module has: pending where its entry is masked, sent otherwise (17, MSIX_TABLE). -/
theorem raiseVector_raises {s : State} {k : Nat} (hk : k < s.host.fns.length) :
    (raiseVector s k 1).host.mem = s.host.mem ∧ (raiseVector s k 1).faults = s.faults ∧
      (fnOf (raiseVector s k 1) k).evtTail = (fnOf s k).evtTail ∧
      (if (fnOf s k).msix.getLsbD 224 then (fnOf (raiseVector s k 1) k).pba.getLsbD 1 = true
       else (raiseVector s k 1).host.irqs = s.host.irqs ++ [(k, 1)]) := by
  unfold raiseVector
  simp only []
  by_cases hm : (fnOf s k).msix.getLsbD 224 = true
  · rw [if_pos hm, if_pos hm, fnOf_withFn hk]
    exact ⟨rfl, rfl, rfl, by simp⟩
  · rw [if_neg hm, if_neg hm]
    exact ⟨rfl, rfl, rfl, rfl⟩

/-- A record for function k: lost where its ring is not set up or full, at the ring's tail with vector 1 otherwise (17, R579). -/
theorem ringTook_ringEvent {s : State} {k : Nat} (hk : k < s.host.fns.length) (e : EvRec) :
    ringTook s (ringEvent k e s) k (evBytes e) := by
  let f := fnOf s k
  let nx := (f.evtTail.toNat + 1) % f.evtSize.toNat
  show if f.evtSize.toNat = 0 ∨ nx = f.evtHead.toNat then _ else _
  by_cases hdrop : f.evtSize.toNat = 0 ∨ nx = f.evtHead.toNat
  · have hev : ringEvent k e s = { (withFn s k (fun x => { x with status := x.status ||| 2 })) with
        faults := { s.faults with lostHost := satInc s.faults.lostHost 1 } } := by
      unfold ringEvent
      simp only []
      rw [if_pos]
      by_cases hsize : f.evtSize.toNat = 0
      · exact Bool.or_eq_true_iff.2 (.inl (decide_eq_true hsize))
      · rw [if_neg hsize]
        exact Bool.or_eq_true_iff.2 (.inr (decide_eq_true (hdrop.resolve_left hsize)))
    rw [if_pos hdrop, hev]
    exact ⟨fnOf_withFn hk _, rfl, rfl, rfl⟩
  · obtain ⟨hsize, hfull⟩ := not_or.1 hdrop
    let u := hostWrite (withFn s k (fun x => { x with evtTail := BitVec.ofNat 32 nx })) (f.evtBaseEff.toNat + 32 * f.evtTail.toNat)
      (evBytes e)
    have hev : ringEvent k e s = raiseVector u k 1 := by
      unfold ringEvent
      simp only []
      rw [if_neg hsize, if_neg]
      exact fun hb => hdrop ((Bool.or_eq_true_iff.1 hb).imp of_decide_eq_true of_decide_eq_true)
    have hfn : fnOf u k = { f with evtTail := BitVec.ofNat 32 nx } := fnOf_withFn hk _
    obtain ⟨hmem, hfaults, htail, hvec⟩ := raiseVector_raises (s := u) (k := k) (by simpa [u, hostWrite] using hk)
    have hmem' : u.host.mem = memWrite s.host.mem (f.evtBaseEff.toNat + 32 * f.evtTail.toNat) (evBytes e) := rfl
    rw [if_neg hdrop, hev, hmem, hmem', hfaults, htail]
    rw [hfn] at hvec ⊢
    refine ⟨?_, ?_, fun a ha => memGet_memWrite_out _ _ _ _ (by rw [length_evBytes]; exact ha), hvec, rfl⟩
    · have hnx : nx < f.evtSize.toNat := Nat.mod_lt _ (Nat.pos_of_ne_zero hsize)
      rw [BitVec.toNat_ofNat, Nat.mod_eq_of_lt (hnx.trans f.evtSize.isLt)]
    · have := memRead_memWrite s.host.mem (f.evtBaseEff.toNat + 32 * f.evtTail.toNat) (evBytes e)
      rwa [length_evBytes] at this

/-- A function that does not receive a record stands as it was (17, R579). -/
theorem fnOf_hostEvent {s : State} (hup : s.host.up = true) {e : EvRec} {k : Nat} (h : fnReceives s e k = false) :
    fnOf (hostEvent s e) k = fnOf s k := by
  have hfold : ∀ (l : List Nat) (t : State), t.host.up = true → k ∉ l →
      fnOf (l.foldl (fun t j => if t.host.up then ringEvent j e t else holdWrite t (.event j e)) t) k = fnOf t k := by
    intro l
    induction l with
    | nil => intro t _ _; rfl
    | cons j l ih =>
      intro t ht hk
      obtain ⟨hj, hl⟩ := not_or.1 (fun h => hk (List.mem_cons.2 h))
      rw [List.foldl_cons, if_pos ht, ih _ (by rw [ringEvent_up]; exact ht) hl, fnOf_ringEvent_ne t e hj]
  exact hfold _ s hup (fun hk => by rw [(List.mem_filter.1 hk).2] at h; cases h)

/-! ## The life record -/

theorem mgmtEvent_host (s : State) (e : EvRec) : (mgmtEvent s e).host = s.host := proj_ite State.host rfl (proj_ite State.host rfl rfl)

theorem lifeEvent_host (s : State) (e : EvRec) : (lifeEvent s e).host = s.host := proj_ite State.host rfl rfl

theorem mgmtEvent_life (s : State) (e : EvRec) : (mgmtEvent s e).life = s.life := proj_ite State.life rfl (proj_ite State.life rfl rfl)

theorem raiseVector_life (s : State) (k v : Nat) : (raiseVector s k v).life = s.life := proj_ite State.life rfl rfl

theorem ringEvent_life (k : Nat) (e : EvRec) (s : State) : (ringEvent k e s).life = s.life :=
  proj_ite State.life rfl (raiseVector_life _ k 1)

theorem hostEvent_life (s : State) (e : EvRec) : (hostEvent s e).life = s.life :=
  foldl_keeps State.life _ _ s fun t k => proj_ite State.life (ringEvent_life k e t) rfl

/-- The life record after an event: what the life record makes of its record (15, R525). -/
theorem sendEvent_life (s : State) (src : EvSrc) (p code detail : Nat) :
    (sendEvent s src p code detail).life = (lifeEvent s (mkEvent s src p code detail)).life := by
  have hlife : ∀ u : State, u.life = s.life →
      (lifeEvent u (mkEvent s src p code detail)).life = (lifeEvent s (mkEvent s src p code detail)).life := by
    intro u hu
    unfold lifeEvent
    split
    · exact hu
    · simp only [hu]
  refine hlife _ ?_
  rw [mgmtEvent_life]
  split
  · exact hostEvent_life ..
  · rfl

/-- The severity that a record carries (15, R523). -/
theorem evSev_mkEvent (s : State) (src : EvSrc) (p code detail : Nat) :
    evSev (mkEvent s src p code detail) = evSeverity code % 16 := by
  unfold evSev mkEvent bits
  simp only [BitVec.toNat_ofNat]
  omega

/-! ## The obligation -/

/-- Settles O54: the record field by field, its ring by the two outcomes of R579, the life record by the severity. -/
theorem events : Obligations.Events := by
  intro s src p code detail hmain hfns e b
  refine ⟨fun hp => ?_, fun k hk => ringTook_ringEvent (hfns ▸ hk) e, fun hup k hk hno => ?_, fun hsev hcode hsmall hlog => ?_,
    fun hsev hp => ?_⟩
  · obtain ⟨htime, hstep, hsrc, hcls, hcode, hdetail⟩ := evBytes_fields e
    refine ⟨length_evBytes e, htime.trans ?_, hstep.trans ?_, hsrc.trans ?_, hcls.trans ?_, hcode.trans ?_,
      fun hgiven => hdetail.trans ?_⟩
    · simp only [e]
      unfold mkEvent evTime
      simp only [hmain, if_true]
      exact leBytes_ofNat 8 _
    · simp only [e]
      unfold mkEvent
      simp only []
      split
      · exact leBytes_ofNat 8 _
      · rfl
    · simp only [e]
      unfold mkEvent
      simp only []
      rw [leBytes_ofNat 2]
      rfl
    · exact leBytes_ofNat 2 _
    · exact leBytes_ofNat 2 _
    · simp only [e]
      unfold mkEvent
      simp only [hgiven, if_true]
      exact leBytes_ofNat 8 _
  · have hhost : (sendEvent s src p code detail).host = (hostEvent s e).host := by
      unfold sendEvent
      rw [lifeEvent_host, mgmtEvent_host, if_pos hmain]
    unfold fnOf
    rw [hhost]
    exact fnOf_hostEvent hup hno
  · have hsev' : evSev e = evSeverity code := by rw [evSev_mkEvent, Nat.mod_eq_of_lt hsmall]
    rw [sendEvent_life]
    unfold lifeEvent
    rw [if_neg (by rw [hsev']; omega)]
    simp only [List.length_append, List.length_singleton]
    rw [if_neg (by omega)]
  · rw [sendEvent_life]
    unfold lifeEvent
    rw [if_pos (by rw [evSev_mkEvent]; omega)]

end Sys2Proof.Machine
end

section
/-! SUPPORT. Supply holds and orderly halts (19, R616 to R618; 16, R542), and O14 from them. -/

namespace Sys2Proof.Machine

/-! ## What a report to the checkpoint tree leaves -/

/-- One state follows another by a change of a partition's CK_ registers and of what lies on a path out of the module. -/
def ckOnly (p : Nat) (s t : State) : Prop := ∃ f : CkRegs → CkRegs, inward t = inward (withCk s p f)

theorem ckOnly_refl (p : Nat) (s : State) : ckOnly p s s := ⟨fun c => c, by rw [withCk]; exact congrArg inward (withPart_id s p).symm⟩

theorem ckOnly_withCk (s : State) (p : Nat) (f : CkRegs → CkRegs) : ckOnly p s (withCk s p f) := ⟨f, rfl⟩

theorem ckOnly_of_inward {p : Nat} {s t u : State} (h : ckOnly p s t) (e : inward u = inward t) : ckOnly p s u := by
  obtain ⟨f, hf⟩ := h
  exact ⟨f, e.trans hf⟩

theorem ckOnly.trans {p : Nat} {s t u : State} (h : ckOnly p s t) (k : ckOnly p t u) : ckOnly p s u := by
  obtain ⟨f, hf⟩ := h
  obtain ⟨g, hg⟩ := k
  refine ⟨fun c => g (f c), hg.trans ?_⟩
  unfold withCk at *
  rw [inward_withPart, hf, ← inward_withPart, withPart_withPart]

theorem ckOnly_setJobCut (s : State) (p cut : Nat) : ckOnly p s (setJobCut s p cut) := by
  unfold setJobCut
  split
  · exact ckOnly_refl p s
  · simp only []
    split
    · exact (ckOnly_withCk s p _).trans (ckOnly_withCk _ p _)
    · exact ckOnly_withCk s p _

theorem ckOnly_cutResult (s : State) (p r cut : Nat) (ok : Bool) : ckOnly p s (cutResult s p r cut ok) := by
  unfold cutResult
  simp only []
  split
  · exact ckOnly_withCk s p _
  · have hcleared := (ckOnly_withCk s p (fun c =>
      { c with resultCut := cut, results := (if c.resultCut = cut then c.results else []).filter (fun e => e.1 != r) ++ [(r, ok)] })).trans
        (ckOnly_withCk _ p (fun c => { c with results := [] }))
    split
    · exact ckOnly_of_inward hcleared (inward_sendBarrier ..)
    · have hclosed := hcleared.trans (ckOnly_withCk _ p (fun c => { c with openAt0 := false }))
      split
      · exact hclosed.trans (ckOnly_setJobCut _ p cut)
      · exact hclosed

/-- A cut in progress that a halt drops (16, R542). -/
theorem ckOnly_dropStream (s : State) (p : Nat) : ckOnly p s (dropStream s p) := by
  unfold dropStream
  split
  · exact (ckOnly_of_inward (ckOnly_withCk s p _) (inward_sendEvent ..)).trans (ckOnly_cutResult ..)
  · exact ckOnly_refl p s

/-- The partition itself: all but its CK_ registers stands. -/
theorem part_of_ckOnly {p : Nat} {s t : State} (h : ckOnly p s t) : ∃ c, part t p = { part s p with ck := c } := by
  obtain ⟨f, hf⟩ := h
  rw [part_of_inward hf]
  unfold withCk
  by_cases hp : p < s.parts.length
  · exact ⟨_, part_withPart s p _ hp⟩
  · refine ⟨(part s p).ck, ?_⟩
    unfold part withPart
    rw [updAt_getD, if_neg (fun e => hp e.2)]

theorem apart_of_ckOnly {p : Nat} {s t : State} (h : ckOnly p s t) : apart p t = apart p s := by
  obtain ⟨f, hf⟩ := h
  rw [apart_of_inward hf]
  exact apart_withPart ..

/-! ## The hold limit -/

theorem apart_orderlyHalt (s : State) (p : Nat) : apart p (orderlyHalt s p) = apart p s := by
  unfold orderlyHalt
  split
  · rw [apart_jobEnd, apart_of_ckOnly (ckOnly_dropStream s p)]
  · rfl

/-- An orderly halt ends an active job with 0x08E6 and leaves its slice (19, R618). -/
theorem part_orderlyHalt {s : State} {p : Nat} (h : jobActive (part s p) = true) :
    (part (orderlyHalt s p) p).st = .ended ∧ (part (orderlyHalt s p) p).endWord = 0x000408E6 ∧
      (part (orderlyHalt s p) p).hbm = (part s p).hbm := by
  obtain ⟨c, hc⟩ := part_of_ckOnly (ckOnly_dropStream s p)
  have hactive : jobActive (part (dropStream s p) p) = true := by rw [hc]; exact h
  unfold orderlyHalt
  rw [if_pos h, part_jobEnd hactive, hc]
  exact ⟨rfl, rfl, rfl⟩

/-- The module at the hold limit, before its jobs end (19, R618). -/
def limitPassed (s : State) : State :=
  pwNote (withLife (withGov (withSup s (fun u => { u with supply := .halted })) (fun g => { g with halts := satInc g.halts 1 }))
    (fun l => { l with halts := l.halts + 1 })) 17

theorem exec_holdLimitExpiry {s : State} (h : s.supplies.supply = .hold) :
    exec .holdLimitExpiry s = .next ((List.range 12).foldl orderlyHalt (limitPassed s)) := by
  show Host.Outcome.next (if s.supplies.supply != .hold then s else _) = _
  rw [if_neg (by simp [h])]
  rfl

theorem haltedAll {s : State} (h : s.supplies.supply = .hold) :
    ∃ t, exec .holdLimitExpiry s = .next t ∧ t.supplies.supply = .halted ∧ t.gov.halts = satInc s.gov.halts 1 ∧
      t.life.halts = s.life.halts + 1 ∧
      ∀ p, p < 12 → jobActive (part s p) = true →
        (part t p).st = .ended ∧ (part t p).endWord = 0x000408E6 ∧ (part t p).hbm = (part s p).hbm := by
  refine ⟨_, exec_holdLimitExpiry h, ?_, ?_, ?_, fun p hp hactive => ?_⟩
  · exact foldl_of_apart apart_orderlyHalt (fun t => t.supplies.supply) (fun _ _ => rfl) _ _
  · exact foldl_of_apart apart_orderlyHalt (fun t => t.gov.halts) (fun _ _ => rfl) _ _
  · exact foldl_of_apart apart_orderlyHalt (fun t => t.life.halts) (fun _ _ => rfl) _ _
  · obtain ⟨u, hu, hfold⟩ := part_foldl_of_mem apart_orderlyHalt List.nodup_range (List.mem_range.2 hp) (limitPassed s)
    have hpart : part u p = part s p := hu
    rw [hfold, ← hpart]
    exact part_orderlyHalt (hpart ▸ hactive)

/-! ## The hold and its release -/

/-- Time that passes, field by field (13, R440; 19, R644). -/
theorem advance_eq (s : State) (dt : Word64) : ∃ q n c, advance s dt =
    { s with quartz := q, life := { s.life with clock := n }, supplies := { s.supplies with clockFrac := c } } := by
  unfold advance advanceFrac
  exact ⟨_, _, _, rfl⟩

theorem advance_supplies (s : State) (dt : Word64) : ∃ c, (advance s dt).supplies = { s.supplies with clockFrac := c } := by
  obtain ⟨q, n, c, hadvance⟩ := advance_eq s dt
  rw [hadvance]
  exact ⟨c, rfl⟩

theorem advance_stands (s : State) (dt : Word64) :
    (advance s dt).gov = s.gov ∧ (advance s dt).life.holds = s.life.holds ∧ (advance s dt).parts = s.parts := by
  obtain ⟨q, n, c, hadvance⟩ := advance_eq s dt
  rw [hadvance]
  exact ⟨rfl, rfl, rfl⟩

/-- The module as a hold begins, its time passed, before its event (19, R616). -/
def holdBegun (t : State) (mv : BitVec 16) : State :=
  let r := withSup t (fun u => { u with mainMv := mv.toNat, started := decide (40000 < mv.toNat) })
  let h := withSup r (fun u => { u with supply := .hold, holdAt := r.life.clock, holdMv := mv.toNat })
  allHolds (withLife (withGov h (fun g => { g with holds := satInc g.holds 1 })) (fun l => { l with holds := l.holds + 1 }))
    (fun x => x ||| 0x2000)

theorem part_holdBegun {t : State} {p : Nat} (hp : p < t.parts.length) (mv : BitVec 16) :
    part (holdBegun t mv) p = heldPart (fun x => x ||| 0x2000) (part t p) := by
  have hparts : (holdBegun t mv).parts = t.parts.map (heldPart (fun x => x ||| 0x2000)) := by
    unfold holdBegun
    rfl
  rw [part, hparts]
  exact getD_map_of_lt hp

theorem holdBegun_counts (t : State) (mv : BitVec 16) :
    (holdBegun t mv).supplies.supply = .hold ∧ (holdBegun t mv).gov.holds = satInc t.gov.holds 1 ∧
      (holdBegun t mv).life.holds = t.life.holds + 1 := by
  unfold holdBegun
  exact ⟨rfl, rfl, rfl⟩

theorem exec_mainBelowWarning {s : State} {mv : BitVec 16} {dt : Word64} (hon : s.supplies.mainOn = true)
    (hmv : mv.toNat < s.supplies.warnMv) (hsupply : s.supplies.supply = .normal) :
    exec (.mainBelowWarning mv dt) s = .next (sendEvent (holdBegun (advance s dt) mv) srcPower 15 0x08E4 0) := by
  obtain ⟨c, hc⟩ := advance_supplies s dt
  have hon' : (advance s dt).supplies.mainOn = true := by rw [hc]; exact hon
  have hsupply' : (advance s dt).supplies.supply = .normal := by rw [hc]; exact hsupply
  show execMainBelowWarning mv dt s = _
  unfold execMainBelowWarning
  simp only []
  rw [if_neg (Nat.not_le.2 hmv)]
  generalize advance s dt = u at hon' hsupply' ⊢
  rw [if_neg (by simp [withSup, hon', hsupply'])]
  rfl

theorem holdRaised {s : State} {mv : BitVec 16} (dt : Word64) (hon : s.supplies.mainOn = true)
    (hmv : mv.toNat < s.supplies.warnMv) (hsupply : s.supplies.supply = .normal) :
    ∃ t, exec (.mainBelowWarning mv dt) s = .next t ∧ t.supplies.supply = .hold ∧ t.gov.holds = satInc s.gov.holds 1 ∧
      t.life.holds = s.life.holds + 1 ∧ ∀ p, p < s.parts.length → (part t p).seq.holds = (part s p).seq.holds ||| 0x2000 := by
  obtain ⟨hgov, hlife, hparts⟩ := advance_stands s dt
  refine ⟨_, exec_mainBelowWarning hon hmv hsupply, ?_⟩
  generalize advance s dt = u at hgov hlife hparts ⊢
  obtain ⟨hhold, hholds, hcount⟩ := holdBegun_counts u mv
  rw [hgov] at hholds
  rw [hlife] at hcount
  refine ⟨(of_inward (fun t => t.supplies.supply) (fun _ => rfl) (inward_sendEvent ..)).trans hhold,
    (of_inward (fun t => t.gov.holds) (fun _ => rfl) (inward_sendEvent ..)).trans hholds,
    (of_inward (fun t => t.life.holds) (fun _ => rfl) (inward_sendEvent ..)).trans hcount, fun p hp => ?_⟩
  rw [part_sendEvent, part_holdBegun (hparts ▸ hp), part, hparts]
  rfl

theorem exec_mainAboveResume {s : State} {mv low : BitVec 16} {dt : Word64} (hmv : s.supplies.warnMv + 1000 < mv.toNat)
    (hsupply : s.supplies.supply = .hold) :
    exec (.mainAboveResume mv low dt) s =
      .next (sendEvent
        { advance s dt with
          parts := s.parts.map (fun q => { q with seq := { q.seq with holds := q.seq.holds &&& 0xDFFF } }),
          supplies := { mainReads mv.toNat (advance s dt).supplies with supply := .normal } }
        srcPower 15 0x08E5
        (((advance s dt).life.clock - s.supplies.holdAt) / 1000 % 2 ^ 32 + min low.toNat s.supplies.holdMv * 2 ^ 32)) := by
  obtain ⟨q, n, c, hadvance⟩ := advance_eq s dt
  show execMainAboveResume mv low dt s = _
  unfold execMainAboveResume
  simp only [hadvance]
  rw [if_neg (Nat.not_le.2 hmv)]
  simp only [withSup, mainReads, feed, hsupply]
  rfl

/-- Settles O14: the hold, its release and its limit each by the one branch that their levels leave. -/
theorem supplyHold : Obligations.SupplyHold := by
  intro s mv low dt hon
  exact ⟨fun hmv hsupply => holdRaised dt hon hmv hsupply, fun hmv hsupply => exec_mainAboveResume hmv hsupply,
    fun hsupply _ => haltedAll hsupply⟩

end Sys2Proof.Machine
end

section
/-! SUPPORT. Run permits and halt requests (19, R622 to R627; 17, R571), and O15 from them. -/

namespace Sys2Proof.Machine

/-! ## Actions on all partitions that look at the module -/

section
variable {g : State → Nat → State} (hg : ∀ t k, apart k (g t k) = apart k t)
include hg

/-- Of actions on one partition after another, the one on p finds p as it was, and with it whatever no partition holds. -/
theorem part_foldl_of_mem_keeping {α : Type} (f : State → α) (hf : ∀ k u, f (apart k u) = f u) {l : List Nat} (hl : l.Nodup)
    {p : Nat} (hp : p ∈ l) (s : State) :
    ∃ u, part u p = part s p ∧ f u = f s ∧ part (l.foldl g s) p = part (g u p) p := by
  obtain ⟨before, after, rfl⟩ := List.append_of_mem hp
  obtain ⟨-, hafter, hapart⟩ := List.nodup_append.1 hl
  refine ⟨before.foldl g s, part_foldl_of_notMem hg (fun h => hapart p h p List.mem_cons_self rfl) s, foldl_of_apart hg f hf before s, ?_⟩
  rw [List.foldl_append, List.foldl_cons]
  exact part_foldl_of_notMem hg (List.nodup_cons.1 hafter).1 _

end

/-! ## The effective halt -/

theorem apart_endAtBoundary (s : State) (p cause status : Nat) : apart p (endAtBoundary s p cause status) = apart p s := by
  exact apart_withPart ..

theorem apart_askEnd (s : State) (p cause status : Nat) : apart p (askEnd s p cause status) = apart p s := by
  unfold askEnd
  simp only []
  split
  · split
    · rw [apart_jobEnd, apart_endAtBoundary]
    · exact apart_endAtBoundary s p cause status
  · exact apart_endAtBoundary s p cause status

theorem apart_noteHalt (s : State) (p : Nat) : apart p (noteHalt s p) = apart p s := by
  unfold noteHalt
  split
  · rw [apart_askEnd, apart_withPart]
  · rfl

/-- A partition asked to end its job at its next boundary; an earlier request stands (17, R571). -/
def askedPart (cause status : Nat) (q : Partition) : Partition := { q with endReq := some (q.endReq.getD (cause, status)) }

theorem part_endAtBoundary {s : State} {p : Nat} (h : jobActive (part s p) = true) (cause status : Nat) :
    part (endAtBoundary s p cause status) p = askedPart cause status (part s p) := by
  unfold endAtBoundary askedPart
  rw [part_withPart _ _ _ (lt_of_active h), h]
  cases hreq : (part s p).endReq with
  | none => simp
  | some r =>
    rw [if_neg (by simp)]
    exact congrArg (fun e => { part s p with endReq := e }) hreq

/-- A request for the end of a job: one that waits for an entry ends, another one is asked to (17, R571, R576). -/
theorem part_askEnd {s : State} {p : Nat} (h : jobActive (part s p) = true) (cause status : Nat) :
    let r := (part s p).endReq.getD (cause, status)
    part (askEnd s p cause status) p =
      if (part s p).st = .running ∧ (part s p).waiting = true then endedPart r.1 r.2 (askedPart cause status (part s p))
      else askedPart cause status (part s p) := by
  have hasked := part_endAtBoundary h cause status
  have hactive : jobActive (part (endAtBoundary s p cause status) p) = true := by rw [hasked]; exact h
  unfold askEnd
  simp only [hasked]
  unfold askedPart at hasked ⊢
  simp only [Bool.and_eq_true, decide_eq_true_eq]
  split
  · rw [part_jobEnd hactive, hasked]
  · exact hasked

/-- A partition after a change of a halt request, as its effective halt has it (19, R626). -/
theorem part_noteHalt {s : State} {p : Nat} :
    let q := part s p
    if (effHalt s p && jobActive q && q.haltAt.isNone) = true then
      if q.st = .running ∧ q.waiting = true then
        (part (noteHalt s p) p).st = .ended ∧
          (part (noteHalt s p) p).endWord = BitVec.ofNat 32 ((q.endReq.getD (2, 0)).2 + (q.endReq.getD (2, 0)).1 * 65536)
      else part (noteHalt s p) p = { q with haltAt := some s.quartz.ns, endReq := some (q.endReq.getD (2, 0)) }
    else part (noteHalt s p) p = q := by
  simp only []
  unfold noteHalt
  split
  next hraised =>
    have hactive : jobActive (part s p) = true := by
      simp only [Bool.and_eq_true] at hraised
      exact hraised.1.2
    have hstamped : part (withPart s p (fun q => { q with haltAt := some s.quartz.ns })) p = { part s p with haltAt := some s.quartz.ns } :=
      part_withPart s p _ (lt_of_active hactive)
    have hask := part_askEnd (s := withPart s p (fun q => { q with haltAt := some s.quartz.ns })) (p := p) (by rw [hstamped]; exact hactive) 2 0
    simp only [hstamped] at hask
    split
    next hwait => rw [hask, if_pos hwait]; exact ⟨rfl, rfl⟩
    next hwait => rw [hask, if_neg hwait]; rfl
  next => rfl

theorem noteHalts_supplies (s : State) : (noteHalts s).supplies = s.supplies :=
  foldl_of_apart apart_noteHalt State.supplies (fun _ _ => rfl) _ s

/-! ## The permit states -/

theorem permitEvent_supplies (s : State) (code : Nat) : (permitEvent s code).supplies = s.supplies :=
  of_inward State.supplies (fun _ => rfl) (inward_sendEvent ..)

theorem permitHalt_supplies (s : State) : (permitHalt s).supplies = { s.supplies with permHalt := true } :=
  noteHalts_supplies _

theorem permitStop_supplies (s : State) :
    (permitStop s).supplies = { s.supplies with permit := .stop, t := 0, permHalt := true } := by
  unfold permitStop
  rw [permitEvent_supplies, permitHalt_supplies]
  rfl

theorem permitFault_supplies (s : State) :
    (permitFault s).supplies = { s.supplies with permit := .fault, faults := satInc s.supplies.faults 1, permHalt := true } := by
  unfold permitFault
  rw [permitEvent_supplies, permitHalt_supplies]
  rfl

section
variable {s : State} (a b : Bool)

theorem permitNext_run (h : s.supplies.permit = .run) :
    (permitNext s a b).supplies =
      if a && b then s.supplies
      else if a || b then { s.supplies with permit := .disagree, t := 1 }
      else { s.supplies with permit := .stop, t := 0, permHalt := true } := by
  unfold permitNext
  simp only [h]
  split
  · rfl
  · split
    · rfl
    · exact permitStop_supplies s

theorem permitNext_disagree (h : s.supplies.permit = .disagree) :
    (permitNext s a b).supplies =
      if a && b then { s.supplies with permit := .run, permHalt := false, t := 0, disagree := satInc s.supplies.disagree 1 }
      else if a || b then
        if s.supplies.discMs ≤ s.supplies.t + 1 then
          { s.supplies with permit := .fault, faults := satInc s.supplies.faults 1, permHalt := true }
        else { s.supplies with permit := .disagree, t := s.supplies.t + 1 }
      else { s.supplies with permit := .stop, t := 0, permHalt := true } := by
  unfold permitNext permitSplit
  simp only [h]
  split
  · rfl
  · split
    · split
      · exact permitFault_supplies s
      · rfl
    · exact permitStop_supplies s

theorem permitNext_stop (h : s.supplies.permit = .stop) :
    (permitNext s a b).supplies =
      if a && b then { s.supplies with permit := .run, permHalt := false, t := 0 }
      else if a || b then { s.supplies with permit := .disagree, t := 1 }
      else s.supplies := by
  unfold permitNext
  simp only [h]
  split
  · exact permitEvent_supplies ..
  · split <;> rfl

/-- In FAULT a sample acts only where a clear has been asked for (19, R624). -/
theorem permitNext_fault (h : s.supplies.permit = .fault) :
    (permitNext s a b).supplies =
      if !s.supplies.clearAsked then s.supplies
      else if a && b then
        { s.supplies with permit := .run, permHalt := false, t := 0, clearAsked := false, clearDone := some true }
      else { s.supplies with clearAsked := false, clearDone := some false } := by
  unfold permitNext
  simp only [h]
  split
  · rfl
  · cases a && b with
    | false => simp [withSup, h]
    | true => exact permitEvent_supplies ..

theorem permitNext_reads : (permitNext s a b).supplies.permA = s.supplies.permA ∧
    (permitNext s a b).supplies.permB = s.supplies.permB := by
  cases h : s.supplies.permit with
  | run => rw [permitNext_run a b h]; split_ifs <;> exact ⟨rfl, rfl⟩
  | disagree => rw [permitNext_disagree a b h]; split_ifs <;> exact ⟨rfl, rfl⟩
  | stop => rw [permitNext_stop a b h]; split_ifs <;> exact ⟨rfl, rfl⟩
  | fault => rw [permitNext_fault a b h]; split_ifs <;> exact ⟨rfl, rfl⟩

end

/-- What a sample of the permit channels does, as the table of the permit states has it (19, R622 to R624). -/
def permitMoved (u v : Supplies) (ra rb : Bool) : Prop :=
  v.permA = ra ∧ v.permB = rb ∧
    let got := (v.permit, v.permHalt, v.faults, v.disagree)
    (u.permit = .run → ra = true → rb = true → got = (.run, u.permHalt, u.faults, u.disagree)) ∧
    (u.permit ≠ .fault → ra = false → rb = false → got = (.stop, u.permit != .stop || u.permHalt, u.faults, u.disagree)) ∧
    (u.permit = .run ∨ u.permit = .stop → ra ≠ rb → got = (.disagree, u.permHalt, u.faults, u.disagree) ∧ v.t = 1) ∧
    (u.permit = .disagree → ra = true → rb = true → got = (.run, false, u.faults, satInc u.disagree 1)) ∧
    (u.permit = .disagree → ra ≠ rb → u.t + 1 < u.discMs →
      got = (.disagree, u.permHalt, u.faults, u.disagree) ∧ v.t = u.t + 1) ∧
    (u.permit = .disagree → ra ≠ rb → u.discMs ≤ u.t + 1 → got = (.fault, true, satInc u.faults 1, u.disagree)) ∧
    (u.permit = .stop → ra = true → rb = true → got = (.run, false, u.faults, u.disagree)) ∧
    (u.permit = .fault → (u.clearAsked && ra && rb) = true → got = (.run, false, u.faults, u.disagree)) ∧
    (u.permit = .fault → (u.clearAsked && ra && rb) = false → got = (.fault, u.permHalt, u.faults, u.disagree))

theorem either_of_ne {a b : Bool} (h : a ≠ b) : (a && b) = false ∧ (a || b) = true := by
  cases a <;> cases b <;> simp_all

theorem permitMoved_permitNext (s : State) :
    permitMoved s.supplies (permitNext s s.supplies.permA s.supplies.permB).supplies s.supplies.permA s.supplies.permB := by
  obtain ⟨hA, hB⟩ := permitNext_reads (s := s) s.supplies.permA s.supplies.permB
  refine ⟨hA, hB, fun h ha hb => ?_, fun h ha hb => ?_, fun h hne => ?_, fun h ha hb => ?_, fun h hne ht => ?_, fun h hne ht => ?_,
    fun h ha hb => ?_, fun h hclear => ?_, fun h hclear => ?_⟩
  · rw [permitNext_run _ _ h]
    simp [ha, hb, h]
  · cases hst : s.supplies.permit with
    | run => rw [permitNext_run _ _ hst]; simp [ha, hb]
    | disagree => rw [permitNext_disagree _ _ hst]; simp [ha, hb]
    | stop => rw [permitNext_stop _ _ hst]; simp [ha, hb, hst]
    | fault => exact absurd hst h
  · obtain ⟨hboth, heither⟩ := either_of_ne hne
    obtain hst | hst := h
    · rw [permitNext_run _ _ hst]; simp [hboth, heither]
    · rw [permitNext_stop _ _ hst]; simp [hboth, heither]
  · rw [permitNext_disagree _ _ h]
    simp [ha, hb]
  · obtain ⟨hboth, heither⟩ := either_of_ne hne
    rw [permitNext_disagree _ _ h]
    simp [hboth, heither, Nat.not_le.2 ht]
  · obtain ⟨hboth, heither⟩ := either_of_ne hne
    rw [permitNext_disagree _ _ h]
    simp [hboth, heither, ht]
  · rw [permitNext_stop _ _ h]
    simp [ha, hb]
  · rw [permitNext_fault _ _ h]
    simp only [Bool.and_eq_true] at hclear
    simp [hclear]
  · rw [permitNext_fault _ _ h]
    split
    · rw [h]
    next hasked =>
      have hnot : (s.supplies.permA && s.supplies.permB) = false := by simp_all
      rw [hnot, ← h]
      rfl

/-! ## The three requests -/

theorem exec_permitSample {s : State} {a b : Int} {dt : Word64} (haon : s.supplies.aon = true) :
    ∃ v t, exec (.permitSample a b dt) s = .next (permitNext v (permitReads s.supplies.permA a) (permitReads s.supplies.permB b)) ∧
      v.supplies = { s.supplies with permA := permitReads s.supplies.permA a, permB := permitReads s.supplies.permB b, clockFrac := t } := by
  obtain ⟨q, n, c, hadvance⟩ := advance_eq s dt
  refine ⟨withSup { s with quartz := q, life := { s.life with clock := n }, supplies := { s.supplies with clockFrac := c } }
    (fun u => { u with permA := permitReads s.supplies.permA a, permB := permitReads s.supplies.permB b }), c, ?_, ?_⟩
  · show execPermitSample a b dt s = _
    simp only [execPermitSample, hadvance, haon]
    rfl
  · rfl

theorem exec_permitFaultClear (s : State) :
    exec .permitFaultClear s = .next (
      if s.supplies.permit = .fault then { s with supplies := { s.supplies with clearAsked := true, clearDone := none } } else s) := by
  show Host.Outcome.next (askClear s) = _
  unfold askClear withSup
  simp only []
  split <;> rfl

/-- PW_HALT is the physical function's (19, R626). -/
theorem exec_haltRequest_zero {s : State} (hbar : barFull s = true) (v : Word32) :
    exec (.haltRequest 0 v) s = .next (noteHalts (withGov s (fun g => { g with halt := v &&& 0x8FFF }))) := by
  have hword : BitVec.ofNat 32 (v.toNat &&& 0x8FFF) = v &&& 0x8FFF := by
    apply BitVec.eq_of_toNat_eq
    simp
  show execHaltRequest 0 v s = _
  unfold execHaltRequest haltWrite
  rw [onUnit_of_true (decide_eq_true (by omega)), if_pos hbar, hword]
  rfl

theorem exec_haltRequest_pos {k : Nat} (hpos : 0 < k) (hk : k < 13) (s : State) (v : Word32) : exec (.haltRequest k v) s = .next s := by
  show execHaltRequest k v s = _
  have hne : (k != 0) = true := bne_iff_ne.2 hpos.ne'
  unfold execHaltRequest haltWrite
  rw [onUnit_of_true (decide_eq_true hk), if_pos hne, ite_self]

/-- The bits of PW_HALT that order the halt of a partition stand as they were written (19, R626). -/
theorem haltOrdered_written (g : Governor) (v : Word32) {p : Nat} (hp : p < 12) :
    haltOrdered { g with halt := v &&& 0x8FFF } p = (v.getLsbD p || v.getLsbD 15 || g.haltMg.getLsbD p || g.haltMg.getLsbD 12) := by
  have hkept : ∀ i, i < 12 ∨ i = 15 → (v &&& 0x8FFF : Word32).getLsbD i = v.getLsbD i := fun i hi => by
    rw [BitVec.getLsbD_and]
    have hmask : (0x8FFF : Word32).getLsbD i = true := by
      obtain hi | rfl := hi
      · interval_cases i <;> rfl
      · rfl
    rw [hmask, Bool.and_true]
  unfold haltOrdered
  rw [BitVec.testBit_toNat, BitVec.testBit_toNat, hkept p (.inl hp), hkept 15 (.inr rfl)]

theorem halted_noteHalts {s : State} {v : Word32} {p : Nat} (hp : p < 12) :
    let t := noteHalts (withGov s (fun g => { g with halt := v &&& 0x8FFF }))
    let q := part s p
    let asked := v.getLsbD p || v.getLsbD 15 || s.gov.haltMg.getLsbD p || s.gov.haltMg.getLsbD 12 || s.supplies.permHalt
    if asked && jobActive q && q.haltAt.isNone then
      if q.st = .running ∧ q.waiting = true then
        (part t p).st = .ended ∧
          (part t p).endWord = BitVec.ofNat 32 ((q.endReq.getD (2, 0)).2 + (q.endReq.getD (2, 0)).1 * 65536)
      else part t p = { q with haltAt := some s.quartz.ns, endReq := some (q.endReq.getD (2, 0)) }
    else part t p = q := by
  obtain ⟨u, hpart, hkept, hfold⟩ := part_foldl_of_mem_keeping apart_noteHalt (fun t => (t.gov, t.supplies, t.quartz)) (fun _ _ => rfl)
    List.nodup_range (List.mem_range.2 hp) (withGov s (fun g => { g with halt := v &&& 0x8FFF }))
  obtain ⟨hgov, hsup, hquartz⟩ : u.gov = { s.gov with halt := v &&& 0x8FFF } ∧ u.supplies = s.supplies ∧ u.quartz = s.quartz := by
    simpa [withGov] using hkept
  have hpart' : part u p = part s p := hpart
  have heff : effHalt u p =
      (v.getLsbD p || v.getLsbD 15 || s.gov.haltMg.getLsbD p || s.gov.haltMg.getLsbD 12 || s.supplies.permHalt) := by
    unfold effHalt
    rw [hgov, hsup, haltOrdered_written _ _ hp]
  have hnote := part_noteHalt (s := u) (p := p)
  simp only [hpart', heff, hquartz, ← hfold] at hnote
  exact hnote

theorem noteHalts_gov (s : State) : (noteHalts s).gov = s.gov := foldl_of_apart apart_noteHalt State.gov (fun _ _ => rfl) _ s

/-- Settles O15: the table of the permit states, row by row, and a halt request, partition by partition. -/
theorem permits : Obligations.Permits := by
  refine ⟨⟨fun s a b dt haon => ?_, exec_permitFaultClear⟩, fun s v hbar _ _ => ?_, fun s k v hpos hk => exec_haltRequest_pos hpos hk s v⟩
  · obtain ⟨v, c, hexec, hsup⟩ := exec_permitSample (a := a) (b := b) (dt := dt) haon
    have hmoved := permitMoved_permitNext v
    rw [hsup] at hmoved
    exact ⟨_, hexec, hmoved⟩
  · exact ⟨_, exec_haltRequest_zero hbar v, by rw [noteHalts_gov]; rfl, fun p hp => halted_noteHalts hp⟩

end Sys2Proof.Machine
end

section
/-! SUPPORT. The life record and the always-on domain (18, R590; 19, R608, R625, R642, R644; 20, R648), and O18 from them. -/

namespace Sys2Proof.Machine

/-! ## Commits of the life record -/

/-- The copy that a commit of the life record writes over a newest copy c (19, R642). -/
def committed (c : LifeCopy) (l : Life) : LifeCopy := { seq := c.seq + 1, life := l, valid := true }

theorem newestCopy_some_none {x : LifeCopy} (hx : x.valid = true) {b : Option LifeCopy} (hb : b.filter (·.valid) = none) :
    newestCopy (some x) b = some x := by
  unfold newestCopy
  rw [hb, Option.filter_some, if_pos hx]

theorem newestCopy_none {a b : Option LifeCopy} (ha : a.filter (·.valid) = none) : newestCopy a b = b.filter (·.valid) := by
  unfold newestCopy
  rw [ha]

theorem newestCopy_some_some {x y : LifeCopy} (hx : x.valid = true) (hy : y.valid = true) :
    newestCopy (some x) (some y) = some (if x.seq < y.seq then y else x) := by
  unfold newestCopy
  rw [Option.filter_some, Option.filter_some, if_pos hx, if_pos hy]

/-- A newly written copy B is the newest where no valid copy A has a higher number. -/
theorem newestCopy_newB {a : Option LifeCopy} {n : LifeCopy} (hn : n.valid = true) (ha : ∀ x, a = some x → x.seq < n.seq) :
    newestCopy a (some n) = some n := by
  cases a with
  | none => rw [newestCopy_none rfl, Option.filter_some, if_pos hn]
  | some x =>
    cases hx : x.valid with
    | false => rw [newestCopy_none (by rw [Option.filter_some, if_neg (by simp [hx])]), Option.filter_some, if_pos hn]
    | true => rw [newestCopy_some_some hx hn, if_pos (ha x rfl)]

/-- A newly written copy A is the newest where no valid copy B has a higher number. -/
theorem newestCopy_newA {b : Option LifeCopy} {n : LifeCopy} (hn : n.valid = true)
    (hb : ∀ y, b = some y → y.valid = true → y.seq ≤ n.seq) : newestCopy (some n) b = some n := by
  cases b with
  | none => exact newestCopy_some_none hn rfl
  | some y =>
    cases hy : y.valid with
    | false => exact newestCopy_some_none hn (by rw [Option.filter_some, if_neg (by simp [hy])])
    | true => rw [newestCopy_some_some hn hy, if_neg (Nat.not_lt.2 (hb y rfl hy))]

/-- Which copy is the newest: A where it is valid and no valid copy B is newer, B where it is valid and newer than a valid copy A. -/
theorem newestCopy_some {a b : Option LifeCopy} {c : LifeCopy} (h : newestCopy a b = some c) :
    c.valid = true ∧ ((a = some c ∧ ∀ y, b = some y → y.valid = true → y.seq ≤ c.seq) ∨
      (b = some c ∧ ∀ x, a = some x → x.valid = true → x.seq < c.seq)) := by
  unfold newestCopy at h
  cases ha : a.filter (·.valid) with
  | none =>
    rw [ha] at h
    obtain ⟨hb, hc⟩ := Option.filter_eq_some_iff.1 h
    refine ⟨hc, .inr ⟨hb, fun x hx hvalid => ?_⟩⟩
    rw [hx, Option.filter_some, if_pos hvalid] at ha
    cases ha
  | some x =>
    obtain ⟨hA, hx⟩ := Option.filter_eq_some_iff.1 ha
    cases hb : b.filter (·.valid) with
    | none =>
      rw [ha, hb] at h
      obtain rfl := Option.some.inj h
      refine ⟨hx, .inl ⟨hA, fun y hy hvalid => ?_⟩⟩
      rw [hy, Option.filter_some, if_pos hvalid] at hb
      cases hb
    | some y =>
      obtain ⟨hB, hy⟩ := Option.filter_eq_some_iff.1 hb
      rw [ha, hb] at h
      replace h := Option.some.inj h
      split at h
      next hlt =>
        subst h
        exact ⟨hy, .inr ⟨hB, fun z hz _ => by rw [hA] at hz; cases hz; exact hlt⟩⟩
      next hle =>
        subst h
        exact ⟨hx, .inl ⟨hA, fun z hz _ => by rw [hB] at hz; cases hz; exact Nat.not_lt.1 hle⟩⟩

/-- A commit of the life record over a newest copy: the other copy takes it and is the newest then (19, R642). -/
theorem newestCopy_commitLife {s : State} {c : LifeCopy} (h : newestCopy s.copyA s.copyB = some c) :
    newestCopy (commitLife s).copyA (commitLife s).copyB = some (committed c s.life) ∧
      ((commitLife s).copyA = some c ∨ (commitLife s).copyB = some c) := by
  obtain ⟨hc, ⟨hA, hB⟩ | ⟨hB, hA⟩⟩ := newestCopy_some h
  · have heq : commitLife s = { s with copyB := some (committed c s.life) } := by
      unfold commitLife
      simp only [h]
      rw [if_pos (by simp [hA, hc])]
      rfl
    rw [heq]
    exact ⟨newestCopy_newB rfl (fun x hx => by rw [hA] at hx; cases hx; exact Nat.lt_succ_self _), .inl hA⟩
  · have heq : commitLife s = { s with copyA := some (committed c s.life) } := by
      unfold commitLife
      simp only [h]
      rw [if_neg]
      · rfl
      · cases hs : s.copyA with
        | none => simp
        | some x =>
          have hnot : x.valid = true → x.seq ≠ c.seq := fun hvalid => (hA x hs hvalid).ne
          simpa using hnot
    rw [heq]
    exact ⟨newestCopy_newA rfl (fun y hy _ => by rw [hB] at hy; cases hy; exact Nat.le_succ _), .inr hB⟩

theorem commitLife_life (s : State) : (commitLife s).life = s.life := commitLife_keeps State.life (fun _ _ => rfl) (fun _ _ => rfl) s

theorem takeClock_life (s : State) : ∃ n, (takeClock s).life = { s.life with clock := n } := by
  unfold takeClock
  dsimp only
  split
  · exact ⟨_, rfl⟩
  · exact ⟨s.life.clock, rfl⟩

/-- The life record's counters brought up to date (19, R642). -/
def lifeAdded (s : State) (secs wh : BitVec 32) : State :=
  withLife s (fun l =>
    { l with seconds := if s.supplies.mainOn then l.seconds + secs.toNat else l.seconds, energy := l.energy + wh.toNat })

/-- The module as a commit finds it: counters, life clock and the margin of the thresholds brought up to date (19, R634, R644). -/
def lifeCounted (s : State) (secs wh : BitVec 32) : State :=
  let t := takeClock (lifeAdded s secs wh)
  if t.supplies.mainOn && t.gov.target != 0 then withGov t (fun g => { g with tthr := tthrOf t.life }) else t

theorem exec_lifeRecordCommit {s : State} (haon : s.supplies.aon = true) (secs wh : BitVec 32) :
    exec (.lifeRecordCommit secs wh) s = .next (commitLife (lifeCounted s secs wh)) := by
  show execLifeRecordCommit secs wh s = _
  unfold execLifeRecordCommit
  rw [haon]
  rfl

/-- The thresholds stand outside what a commit of the life record is about. -/
theorem lifeCounted_of_gov {α : Type} (f : State → α) (hgov : ∀ t x, f { t with gov := x } = f t) (s : State) (secs wh : BitVec 32) :
    f (lifeCounted s secs wh) = f (takeClock (lifeAdded s secs wh)) := by
  unfold lifeCounted
  extract_lets t
  split
  · exact hgov t _
  · rfl

/-- What counting leaves of a module: all but its life record, its notes on the clock and its thresholds. -/
theorem lifeCounted_keeps {α : Type} (f : State → α) (hlife : ∀ t x b, f { t with life := x, boot := { t.boot with clockSet := b } } = f t)
    (hgov : ∀ t x, f { t with gov := x } = f t) (s : State) (secs wh : BitVec 32) : f (lifeCounted s secs wh) = f s :=
  (lifeCounted_of_gov f hgov s secs wh).trans ((takeClock_keeps f hlife _).trans (hlife s _ s.boot.clockSet))

theorem lifeCounted_life (s : State) (secs wh : BitVec 32) :
    (lifeCounted s secs wh).life.seconds = s.life.seconds + (if s.supplies.mainOn then secs.toNat else 0) ∧
      (lifeCounted s secs wh).life.energy = s.life.energy + wh.toNat := by
  obtain ⟨n, hn⟩ := takeClock_life (lifeAdded s secs wh)
  rw [lifeCounted_of_gov State.life (fun _ _ => rfl), hn]
  refine ⟨?_, rfl⟩
  unfold lifeAdded withLife
  split <;> rfl

theorem committed_lifeRecordCommit {s : State} (haon : s.supplies.aon = true) (secs wh : BitVec 32) :
    ∃ t, exec (.lifeRecordCommit secs wh) s = .next t ∧
      t.life.seconds = s.life.seconds + (if s.supplies.mainOn then secs.toNat else 0) ∧ t.life.energy = s.life.energy + wh.toNat ∧
      t.parts = s.parts ∧ t.boot.fuse = s.boot.fuse ∧
      ∀ c, newestCopy s.copyA s.copyB = some c → newestCopy t.copyA t.copyB = some (committed c t.life) ∧
        (t.copyA = some c ∨ t.copyB = some c) := by
  obtain ⟨hseconds, henergy⟩ := lifeCounted_life s secs wh
  have hA : (lifeCounted s secs wh).copyA = s.copyA := lifeCounted_keeps State.copyA (fun _ _ _ => rfl) (fun _ _ => rfl) s secs wh
  have hB : (lifeCounted s secs wh).copyB = s.copyB := lifeCounted_keeps State.copyB (fun _ _ _ => rfl) (fun _ _ => rfl) s secs wh
  refine ⟨_, exec_lifeRecordCommit haon secs wh, ?_, ?_, ?_, ?_, fun c hc => ?_⟩
  · rw [commitLife_life, hseconds]
  · rw [commitLife_life, henergy]
  · exact (commitLife_keeps State.parts (fun _ _ => rfl) (fun _ _ => rfl) _).trans
      (lifeCounted_keeps State.parts (fun _ _ _ => rfl) (fun _ _ => rfl) s secs wh)
  · exact (commitLife_keeps (fun t => t.boot.fuse) (fun _ _ => rfl) (fun _ _ => rfl) _).trans
      (lifeCounted_keeps (fun t => t.boot.fuse) (fun _ _ _ => rfl) (fun _ _ => rfl) s secs wh)
  · rw [commitLife_life]
    exact newestCopy_commitLife (by rw [hA, hB]; exact hc)

/-! ## The end of the hold-up -/

theorem lifeKept_of_newest {s : State} {c : LifeCopy} (h : newestCopy s.copyA s.copyB = some c) :
    (lifeKept s).clock = c.life.clock ∧ (lifeKept s).seconds = c.life.seconds := by
  unfold lifeKept
  rw [h]
  exact ⟨rfl, rfl⟩

/-- The module whose main domain the end of the hold-up has turned off (19, R608, R642). -/
def heldUp (s : State) : State := mainOff { s with life := lifeKept s }

theorem exec_alwaysOnHoldUpEnd {s : State} (haon : s.supplies.aon = true) (haux : s.supplies.aux = false) (hmain : s.supplies.main = false) :
    exec .alwaysOnHoldUpEnd s = .next (withSup (commitLife (heldUp s)) (fun u => { u with aon := false })) := by
  show execAlwaysOnHoldUpEnd s = _
  unfold execAlwaysOnHoldUpEnd
  rw [haon, haux, hmain]
  rfl

theorem mainGone_heldUp (s : State) : mainGone s (withSup (commitLife (heldUp s)) (fun u => { u with aon := false })) := by
  have hkeeps : ∀ {α : Type} (f : State → α), (∀ t c, f { t with copyA := c } = f t) → (∀ t c, f { t with copyB := c } = f t) →
      (∀ t x, f { t with supplies := x } = f t) →
      f (withSup (commitLife (heldUp s)) (fun u => { u with aon := false })) = f (heldUp s) := fun f ha hb hs =>
    (hs _ _).trans (commitLife_keeps f ha hb _)
  refine ⟨?_, ?_, ?_, ?_, fun p hp => ?_⟩
  · show (commitLife (heldUp s)).supplies.mainOn = false
    exact commitLife_keeps (fun t => t.supplies.mainOn) (fun _ _ => rfl) (fun _ _ => rfl) _
  · exact hkeeps State.pending (fun _ _ => rfl) (fun _ _ => rfl) (fun _ _ => rfl)
  · exact hkeeps (fun t => t.boot.fuse) (fun _ _ => rfl) (fun _ _ => rfl) (fun _ _ => rfl)
  · exact hkeeps (fun t => t.host.mem) (fun _ _ => rfl) (fun _ _ => rfl) (fun _ _ => rfl)
  · rw [hkeeps (part · p) (fun _ _ => rfl) (fun _ _ => rfl) (fun _ _ => rfl)]
    exact part_mainOff _ hp

/-! ## Power-on of the always-on domain -/

/-- The module after the reset of the always-on domain, before the event of a lost copy (19, R625, R644). -/
def poweredOn (s : State) (a : PowerOnArgs) : State :=
  let ca := checkCopy s.copyA a.badA
  let cb := checkCopy s.copyB a.badB
  let l := lifeFrom ca cb
  mainReset { s with
    mgmt := { mgmtReset with
              keys := s.mgmt.keys, h := floorsOf l, dup := a.dup, strap := a.straps, nodeId := l.nodeId,
              nodeNow := l.nodeId.getD a.straps.toNat, startAt := l.clock },
    supplies := { suppliesReset with
                  aux := !a.main, auxOver := !a.main && decide (13200 < a.mv.toNat), started := a.main && decide (40000 < a.mv.toNat),
                  main := a.main && decide (38000 ≤ a.mv.toNat), mainMv := if a.main then a.mv.toNat else 0,
                  auxMv := if a.main then 0 else a.mv.toNat, fromMain := a.main, mainOn := false, mated := false },
    life := l, copyA := ca, copyB := cb, gov := governorReset }

theorem exec_alwaysOnPowerOn {s : State} (haon : s.supplies.aon = false) (a : PowerOnArgs) :
    exec (.alwaysOnPowerOn a) s =
      .next (if oneBad (checkCopy s.copyA a.badA) (checkCopy s.copyB a.badB) then mgmtSend (poweredOn s a) srcFw 0x05E0 0
        else poweredOn s a) := by
  show execAlwaysOnPowerOn a s = _
  unfold execAlwaysOnPowerOn
  rw [haon]
  rfl

/-- With no collector at work no record enters the management queue (18, R601, R602). -/
theorem mgmtSend_queue {s : State} (h : collActive s.mgmt = 0) (src : EvSrc) (code detail : Nat) :
    (mgmtSend s src code detail).mgmt.queue = s.mgmt.queue := by
  have hlife : ∀ t e, (lifeEvent t e).mgmt = t.mgmt := fun t e => proj_ite State.mgmt rfl rfl
  unfold mgmtSend
  rw [hlife]
  unfold mgmtEvent
  simp only [h]
  rw [if_pos (show _ &&& (0 : BitVec 4) = 0 from BitVec.and_zero)]

/-- What the event of a lost copy leaves: the module as it was powered on. -/
theorem reported_poweredOn {α : Type} (f : State → α) (hf : ∀ u, f (inward u) = f u) (s : State) (a : PowerOnArgs) :
    f (if oneBad (checkCopy s.copyA a.badA) (checkCopy s.copyB a.badB) then mgmtSend (poweredOn s a) srcFw 0x05E0 0
      else poweredOn s a) = f (poweredOn s a) :=
  of_inward f hf (inward_ite (inward_mgmtSend ..) rfl)

theorem poweredOn_life (s : State) (a : PowerOnArgs) :
    (poweredOn s a).life = lifeFrom (checkCopy s.copyA a.badA) (checkCopy s.copyB a.badB) ∧
      (poweredOn s a).mgmt.h = floorsOf (lifeFrom (checkCopy s.copyA a.badA) (checkCopy s.copyB a.badB)) := ⟨rfl, rfl⟩

theorem started_alwaysOnPowerOn {s : State} (haon : s.supplies.aon = false) (a : PowerOnArgs) :
    ∃ t, exec (.alwaysOnPowerOn a) s = .next t ∧ t.supplies.aon = true ∧ t.supplies.mainOn = false ∧ t.supplies.permit = .stop ∧
      t.supplies.permHalt = true ∧ t.supplies.fromMain = a.main ∧ t.mgmt.keys = s.mgmt.keys ∧ t.mgmt.queue = [] ∧
      t.mgmt.strap = a.straps ∧ t.gov = governorReset ∧ t.boot.fuse = s.boot.fuse ∧ t.pending = s.pending ∧
      (∀ c, newestCopy (checkCopy s.copyA a.badA) (checkCopy s.copyB a.badB) = some c →
        t.mgmt.h = c.life.floors.map (fun n => n + 65536) ∧ t.life.clock = c.life.clock ∧ t.life.gaps = c.life.gaps + 1 ∧
        t.life.seconds = c.life.seconds ∧ t.life.clusters = c.life.clusters) ∧
      (newestCopy (checkCopy s.copyA a.badA) (checkCopy s.copyB a.badB) = none →
        t.life = { lifeEmpty with lost := s.copyA.isSome || s.copyB.isSome } ∧ t.mgmt.h = [65536, 65536, 65536, 65536]) := by
  obtain ⟨hlife, hh⟩ := poweredOn_life s a
  have hactive : collActive (poweredOn s a).mgmt = 0 := by
    show bitsOfList 4 ((List.replicate 4 collectorReset).map (fun c => c.enable && c.st = 1)) = 0
    decide
  refine ⟨_, exec_alwaysOnPowerOn haon a, ?_, ?_, ?_, ?_, ?_, ?_, ?_, ?_, ?_, ?_, ?_, fun c hc => ?_, fun hnone => ?_⟩
  · exact reported_poweredOn (fun t => t.supplies.aon) (fun _ => rfl) s a
  · exact reported_poweredOn (fun t => t.supplies.mainOn) (fun _ => rfl) s a
  · exact reported_poweredOn (fun t => t.supplies.permit) (fun _ => rfl) s a
  · exact reported_poweredOn (fun t => t.supplies.permHalt) (fun _ => rfl) s a
  · exact reported_poweredOn (fun t => t.supplies.fromMain) (fun _ => rfl) s a
  · exact reported_poweredOn (fun t => t.mgmt.keys) (fun _ => rfl) s a
  · exact proj_ite (fun t => t.mgmt.queue) (mgmtSend_queue hactive ..) rfl
  · exact reported_poweredOn (fun t => t.mgmt.strap) (fun _ => rfl) s a
  · exact reported_poweredOn State.gov (fun _ => rfl) s a
  · exact reported_poweredOn (fun t => t.boot.fuse) (fun _ => rfl) s a
  · exact reported_poweredOn State.pending (fun _ => rfl) s a
  · have hkept : ∀ {α : Type} (f : Life → α), (∀ l : Life, f { l with log := [], over_ := 0 } = f l) → _ := fun f hf =>
      reported_poweredOn (fun t => f t.life) (fun u => hf u.life) s a
    unfold lifeFrom at hlife hh
    rw [hc] at hlife hh
    refine ⟨?_, ?_, ?_, ?_, ?_⟩
    · rw [reported_poweredOn (fun t => t.mgmt.h) (fun _ => rfl), hh]; rfl
    · rw [hkept Life.clock (fun _ => rfl), hlife]
    · rw [hkept Life.gaps (fun _ => rfl), hlife]
    · rw [hkept Life.seconds (fun _ => rfl), hlife]
    · rw [hkept Life.clusters (fun _ => rfl), hlife]
  · have hwritten : ∀ (c : Option LifeCopy) (bad : Bool), (checkCopy c bad).isSome = c.isSome := fun c bad => by
      unfold checkCopy
      exact Option.isSome_map
    have hone : oneBad (checkCopy s.copyA a.badA) (checkCopy s.copyB a.badB) = false := by
      unfold oneBad
      rw [hnone]
      exact Bool.and_false _
    unfold lifeFrom at hlife hh
    rw [hnone, hwritten, hwritten] at hlife hh
    rw [hone]
    exact ⟨hlife, hh⟩

/-- Settles O18: a commit by which of the two copies is the newest, power-on and the end of the hold-up by what the main domain's reset
leaves. -/
theorem alwaysOn : Obligations.AlwaysOn := by
  refine ⟨fun s secs wh haon => committed_lifeRecordCommit haon secs wh, fun s a haon => started_alwaysOnPowerOn haon a,
    fun s haon haux hmain => ⟨_, exec_alwaysOnHoldUpEnd haon haux hmain, mainGone_heldUp s, rfl, fun c hc => ?_⟩⟩
  obtain ⟨hclock, hseconds⟩ := lifeKept_of_newest hc
  obtain ⟨hnewest, -⟩ := newestCopy_commitLife (s := heldUp s) (c := c) hc
  exact ⟨_, hnewest, rfl, hclock, hseconds⟩

end Sys2Proof.Machine
end

section
/-! SUPPORT. Function Level Resets, PERST and the PCIe link (17, R557, R558; 20, R649), and O21 from them. -/

namespace Sys2Proof.Machine

/-! ## Which queue contexts are configured -/

/-- The numbers of the configured queue contexts. -/
def ctxKeys (s : State) : List Nat := s.host.ctxs.map (·.k)

theorem ctxKeys_raiseVector (s : State) (k v : Nat) : ctxKeys (raiseVector s k v) = ctxKeys s := proj_ite ctxKeys rfl rfl

theorem ctxKeys_ringEvent (k : Nat) (e : EvRec) (s : State) : ctxKeys (ringEvent k e s) = ctxKeys s :=
  proj_ite ctxKeys rfl (ctxKeys_raiseVector _ k 1)

theorem ctxKeys_sendEvent (s : State) (src : EvSrc) (p code detail : Nat) : ctxKeys (sendEvent s src p code detail) = ctxKeys s := by
  have hmgmt : ∀ t e, ctxKeys (mgmtEvent t e) = ctxKeys t := fun t e => proj_ite ctxKeys rfl (proj_ite ctxKeys rfl rfl)
  have hlife : ∀ t e, ctxKeys (lifeEvent t e) = ctxKeys t := fun t e => proj_ite ctxKeys rfl rfl
  unfold sendEvent
  simp only [hlife, hmgmt]
  exact proj_ite ctxKeys (foldl_keeps ctxKeys _ _ s fun t k => proj_ite ctxKeys (ctxKeys_ringEvent k _ t) rfl) rfl

/-- A change of contexts that leaves their numbers. -/
theorem ctxKeys_map {s : State} {f : QCtx → QCtx} (hf : ∀ c, (f c).k = c.k) :
    ctxKeys { s with host := { s.host with ctxs := s.host.ctxs.map f } } = ctxKeys s := by
  unfold ctxKeys
  simp [Function.comp_def, hf]

theorem ctxKeys_withCtx (s : State) (k : Nat) {f : QCtx → QCtx} (hf : ∀ c, (f c).k = c.k) : ctxKeys (withCtx s k f) = ctxKeys s :=
  ctxKeys_map fun c => by split <;> simp [hf]

theorem ctxKeys_stepDone (s : State) (k : Nat) (e : StepEntry) (status attempts : Nat) :
    ctxKeys (stepDone s k e status attempts) = ctxKeys s := by
  unfold stepDone
  split
  · rfl
  next c _ =>
    have hnumbers : ctxKeys { s with host := { s.host with ctxs := s.host.ctxs.map fun x =>
        if x.k = k then { x with cplIdx := (c.cplIdx + 1) % c.size, phase := if (c.cplIdx + 1) % c.size = 0 then !x.phase else x.phase }
        else x } } = ctxKeys s := ctxKeys_map fun x => by split <;> rfl
    exact proj_ite ctxKeys hnumbers (proj_ite ctxKeys ((ctxKeys_raiseVector ..).trans hnumbers) hnumbers)

theorem ctxKeys_flushCtx (s : State) (k status : Nat) : ctxKeys (flushCtx s k status) = ctxKeys s :=
  (foldl_keeps ctxKeys _ _ _ fun _ _ => ctxKeys_stepDone ..).trans (ctxKeys_withCtx s k fun _ => rfl)

theorem ctxKeys_twJobEnd (s : State) (p : Nat) : ctxKeys (twJobEnd s p) = ctxKeys s := by
  unfold twJobEnd
  cases htw : s.faults.tw with
  | none => rfl
  | some w =>
    simp only []
    split
    · rfl
    · cases w.phase <;> simp only [twReturn, twDone, htw] <;> rfl

/-- The end of a job deconfigures no queue context (17, R571). -/
theorem ctxKeys_jobEnd (s : State) (p cause status : Nat) : ctxKeys (jobEnd s p cause status) = ctxKeys s := by
  unfold jobEnd
  simp only []
  split
  · rfl
  · change ctxKeys (twJobEnd (List.foldl _ _ _) p) = _
    rw [ctxKeys_twJobEnd, foldl_keeps ctxKeys _ _ _ fun _ _ => ctxKeys_flushCtx ..]
    cases (part s p).current with
    | none => exact ctxKeys_sendEvent ..
    | some x => exact proj_ite ctxKeys (ctxKeys_sendEvent ..) ((ctxKeys_stepDone ..).trans (ctxKeys_sendEvent ..))

/-! ## The reset of one partition -/

theorem apart_partLevel (s : State) (p : Nat) : apart p (partLevel s p) = apart p s :=
  (apart_of_inward rfl).trans (apart_jobEnd s p 3 0)

theorem part_partLevel (s : State) (p k : Nat) : part (partLevel s p) k = part (jobEnd s p 3 0) k := rfl

theorem partLevel_boot (s : State) (p : Nat) : (partLevel s p).boot = s.boot := of_apart State.boot (fun _ => rfl) (apart_partLevel s p)

theorem partOfCtx_of_boot {s t : State} (h : t.boot = s.boot) (k : Nat) : partOfCtx t k = partOfCtx s k := by
  unfold partOfCtx ctxPer planCount
  rw [h]

/-- The contexts of the partition are gone, the others stay (17, R557). -/
theorem ctxKeys_partLevel (s : State) (p : Nat) : ctxKeys (partLevel s p) = (ctxKeys s).filter (fun k => partOfCtx s k != some p) := by
  have hboot : (jobEnd s p 3 0).boot = s.boot := of_apart State.boot (fun _ => rfl) (apart_jobEnd s p 3 0)
  rw [← ctxKeys_jobEnd s p 3 0]
  unfold ctxKeys partLevel
  rw [List.filter_map]
  simp only [partOfCtx_of_boot hboot]
  rfl

/-- A partition after its reset: its job, if one was active, has ended with cause 3 (17, R557). -/
theorem jobEnded_partLevel {s : State} {p : Nat} (h : jobActive (part s p) = true) : jobEnded s (partLevel s p) p 0x00030000 := by
  have hpart : part (partLevel s p) p = endedPart 3 0 (part s p) := part_jobEnd h 3 0
  unfold jobEnded
  rw [hpart]
  refine ⟨rfl, rfl, rfl, rfl, rfl, rfl, ?_, ?_, fun k _ hk => part_of_apart hk (apart_partLevel s p)⟩
  · simp [endedPart]
  · simp [endedPart]

theorem partLevel_inactive {s : State} {p : Nat} (h : jobActive (part s p) = false) : part (partLevel s p) p = part s p := by
  rw [part_partLevel, jobEnd_inactive h]

theorem partLevel_hbm (s : State) (p : Nat) : (part (partLevel s p) p).hbm = (part s p).hbm := by
  cases h : jobActive (part s p) with
  | false => rw [partLevel_inactive h]
  | true => exact (jobEnded_partLevel h).2.2.1

theorem partLevel_fns (s : State) (p : Nat) : (partLevel s p).host.fns.length = s.host.fns.length := by
  show (jobEnd s p 3 0).host.fns.length = _
  rw [fns_shape, jobEnd_shape]
  rfl

/-! ## A function's ring registers -/

/-- The ring registers of a function are zero and nothing of it waits (17, R557). -/
def ringless (f : Fn) : Bool :=
  f.cmdSize = 0 && f.cmdTail = 0 && f.cmdHead = 0 && f.evtSize = 0 && f.evtHead = 0 && f.evtTail = 0 &&
    f.cmdBaseEff = 0 && f.cplBaseEff = 0 && f.evtBaseEff = 0 && f.waits.isEmpty

theorem ringless_fnLevel (f : Fn) : ringless (fnLevel f) = true := rfl

/-! ## Function Level Reset -/

/-- The reset of a virtual function (17, R557). -/
theorem exec_functionLevelReset_vf {p : Nat} (hp : p < 12) (s : State) :
    exec (.functionLevelReset (p + 1)) s = .next (withFn (dropSeeds (partLevel s p) (p + 1)) (p + 1) fnLevel) := by
  show onUnit (decide (p + 1 < 13)) (functionReset s (p + 1)) = _
  rw [onUnit_of_true (decide_eq_true (by omega))]
  rfl

/-- All partitions after a reset of the physical function (17, R557). -/
def allLevel (s : State) : State := (List.range 12).foldl partLevel s

/-- The functions' ring registers are zero, and what waited for them is dropped (17, R557). -/
def functionsLevel (t : State) : State :=
  withNoise { t with host := { t.host with fns := t.host.fns.map fnLevel } } (fun n =>
    { n with waits := n.waits.filter (fun r => r.who != 12) })

theorem functionsLevel_parts (t : State) : (functionsLevel t).parts = t.parts := rfl

theorem functionsLevel_boot (t : State) : (functionsLevel t).boot = t.boot := rfl

theorem functionsLevel_ctxs (t : State) : (functionsLevel t).host.ctxs = t.host.ctxs := rfl

theorem functionsLevel_fns (t : State) : (functionsLevel t).host.fns = t.host.fns.map fnLevel := rfl

/-- The module after a reset of the physical function. -/
def moduleLevel (s : State) : State := functionsLevel (allLevel s)

theorem functionReset_zero (s : State) : functionReset s 0 = moduleLevel s := by
  unfold functionReset moduleLevel functionsLevel allLevel
  simp only [if_true]

theorem exec_functionLevelReset_pf (s : State) : exec (.functionLevelReset 0) s = .next (moduleLevel s) := by
  show onUnit (decide (0 < 13)) (functionReset s 0) = _
  rw [onUnit_of_true (decide_eq_true (by omega)), functionReset_zero]

theorem exec_perst (s : State) : exec .perst s = .next (moduleLevel s) := by
  show Host.Outcome.next (functionReset s 0) = _
  rw [functionReset_zero]

/-- Of the contexts those stay that belong to none of the partitions that were reset. -/
theorem ctxKeys_foldl_partLevel (l : List Nat) (s : State) :
    ctxKeys (l.foldl partLevel s) = (ctxKeys s).filter (fun k => l.all (fun p => partOfCtx s k != some p)) := by
  induction l generalizing s with
  | nil => simp
  | cons p ps ih =>
    rw [List.foldl_cons, ih, ctxKeys_partLevel, List.filter_filter]
    refine congrArg (fun g => (ctxKeys s).filter g) (funext fun k => ?_)
    rw [List.all_cons, Bool.and_comm]
    simp only [partOfCtx_of_boot (partLevel_boot s p)]

theorem all_ctxKeys (s : State) (g : Nat → Bool) : s.host.ctxs.all (fun c => g c.k) = (ctxKeys s).all g := by
  unfold ctxKeys
  rw [List.all_map]
  rfl

theorem part_moduleLevel (s : State) {p : Nat} (hp : p < 12) :
    (part (moduleLevel s) p).hbm = (part s p).hbm ∧ jobActive (part (moduleLevel s) p) = false ∧
      (jobActive (part s p) = true → (part (moduleLevel s) p).endWord = 0x00030000) := by
  obtain ⟨u, hu, hfold⟩ := part_foldl_of_mem apart_partLevel List.nodup_range (List.mem_range.2 hp) s
  have hpart : part (moduleLevel s) p = part (partLevel u p) p := by
    unfold moduleLevel part
    rw [functionsLevel_parts]
    exact hfold
  rw [hpart, ← hu]
  refine ⟨partLevel_hbm u p, ?_, fun h => (jobEnded_partLevel h).2.1⟩
  cases h : jobActive (part u p) with
  | false => rw [partLevel_inactive h, h]
  | true =>
    obtain ⟨hended, -⟩ := jobEnded_partLevel h
    simp [jobActive, hended]

/-! ## The PCIe link -/

/-- The module with its link up, nothing held, and a host memory (17, R558). -/
def retrained (s : State) (m : Mem 8) : State := { s with host := { s.host with up := true, held := [], mem := m } }

/-- Held writes of data go out in order (17, R558). -/
theorem foldl_deliverHeld (ws : List (Nat × List Byte)) (s : State) (m : Mem 8) :
    (ws.map (fun e => HostWrite.data e.1 e.2)).foldl deliverHeld (retrained s m) =
      retrained s (ws.foldl (fun m e => memWrite m e.1 e.2) m) := by
  induction ws generalizing m with
  | nil => rfl
  | cons e es ih =>
    rw [List.map_cons, List.foldl_cons, List.foldl_cons]
    exact ih (memWrite m e.1 e.2)

theorem exec_pcieLinkUp {s : State} {ws : List (Nat × List Byte)} (hon : s.supplies.mainOn = true) (hdown : s.host.up = false)
    (hheld : s.host.held = ws.map (fun e => HostWrite.data e.1 e.2)) :
    exec .pcieLinkUp s = .next (retrained s (ws.foldl (fun m e => memWrite m e.1 e.2) s.host.mem)) := by
  show execPcieLinkUp s = _
  rw [← foldl_deliverHeld, ← hheld]
  unfold execPcieLinkUp
  rw [hon, hdown]
  rfl

theorem exec_pcieLinkDown (s : State) : exec .pcieLinkDown s = .next { s with host := { s.host with up := false } } := rfl

theorem ringless_functionLevelReset {s : State} (hfns : s.host.fns.length = 13) {p : Nat} (hp : p < 12) :
    ringless (fnOf (withFn (dropSeeds (partLevel s p) (p + 1)) (p + 1) fnLevel) (p + 1)) = true := by
  have hlen : p + 1 < (dropSeeds (partLevel s p) (p + 1)).host.fns.length := by
    show p + 1 < (partLevel s p).host.fns.length
    rw [partLevel_fns, hfns]
    omega
  rw [fnOf_withFn hlen]
  exact ringless_fnLevel _

theorem deconfigured_partLevel (s : State) (p : Nat) :
    (partLevel s p).host.ctxs.all (fun c => partOfCtx s c.k != some p) = true := by
  rw [all_ctxKeys (partLevel s p) (fun k => partOfCtx s k != some p), ctxKeys_partLevel, List.all_filter]
  simp

theorem deconfigured_moduleLevel (s : State) :
    (moduleLevel s).host.ctxs.all (fun c => (List.range 12).all (fun p => partOfCtx s c.k != some p)) = true := by
  unfold moduleLevel
  rw [functionsLevel_ctxs, all_ctxKeys (allLevel s) (fun k => (List.range 12).all (fun p => partOfCtx s k != some p))]
  unfold allLevel
  rw [ctxKeys_foldl_partLevel, List.all_filter]
  simp

theorem moduleLevel_boot (s : State) : (moduleLevel s).boot = s.boot := by
  unfold moduleLevel allLevel
  rw [functionsLevel_boot]
  exact foldl_of_apart apart_partLevel State.boot (fun _ _ => rfl) _ s

theorem ringless_moduleLevel (s : State) : (moduleLevel s).host.fns.all ringless = true := by
  rw [moduleLevel, functionsLevel_fns, List.all_map]
  exact List.all_eq_true.2 fun f _ => ringless_fnLevel f

theorem part_functionLevelReset (s : State) (p k : Nat) :
    part (withFn (dropSeeds (partLevel s p) (p + 1)) (p + 1) fnLevel) k = part (partLevel s p) k := by
  have hfn : ∀ (t : State) (j : Nat) (f : Fn → Fn), (withFn t j f).parts = t.parts := fun _ _ _ => rfl
  have hseeds : ∀ (t : State) (j : Nat), (dropSeeds t j).parts = t.parts := fun _ _ => rfl
  rw [part, hfn, hseeds, part]

/-- The end of a job shows in the partitions alone. -/
theorem jobEnded_of_part {s t u : State} {p : Nat} {w : Word32} (h : ∀ k, part t k = part u k) (hended : jobEnded s u p w) :
    jobEnded s t p w := by
  unfold jobEnded at hended ⊢
  simp only [h]
  exact hended

/-- Settles O21: the reset of a partition once, then one partition after another, and the held writes in their order. -/
theorem hostResets : Obligations.HostResets := by
  refine ⟨fun s _ hfns _ => ⟨fun p hp => ?_, moduleLevel s, exec_perst s, exec_functionLevelReset_pf s, moduleLevel_boot s,
    ringless_moduleLevel s, deconfigured_moduleLevel s, fun p hp => part_moduleLevel s hp⟩,
    fun s => ⟨exec_pcieLinkDown s, fun ws hon hdown hheld => exec_pcieLinkUp hon hdown hheld⟩⟩
  refine ⟨_, exec_functionLevelReset_vf hp s, ringless_functionLevelReset hfns hp, partLevel_boot s p, deconfigured_partLevel s p,
    partLevel_hbm s p, fun k _ hk => ?_, fun h => jobEnded_of_part (part_functionLevelReset s p) (jobEnded_partLevel h),
    fun h => (part_functionLevelReset s p p).trans (partLevel_inactive h)⟩
  rw [part_functionLevelReset]
  exact part_of_apart hk (apart_partLevel s p)

end Sys2Proof.Machine
end

section
/-! SUPPORT. Replays of a step (15, R495, R497, R498), and O23 from them. -/

namespace Sys2Proof.Machine

/-! ## The slice of a partition goes back -/

/-- Records that go back into a partition, newest first, reach its slice alone (11, R376; 15, R495). -/
theorem foldr_putBack {α : Type} (off : α → Nat) (old : α → Word512) (l : List α) (q : Partition) :
    l.foldr (fun r x => putBack x (off r) (old r)) q =
      { q with hbm := l.foldr (fun r m => memWrite m (off r) (leBytes 64 (old r).toNat)) q.hbm } := by
  induction l with
  | nil => rfl
  | cons r rs ih => rw [List.foldr_cons, ih]; rfl

/-- A journal record goes back into the slice; besides it at most a mark of poison is made (15, R492, R495). -/
theorem journalBack_parts (s : State) (p : Nat) (r : HbmRec) :
    (journalBack s p r).parts = (withPart s p (fun q => putBack q r.off r.old)).parts := by
  unfold journalBack
  simp only []
  split <;> rfl

theorem withPart_parts_congr {s t : State} (h : t.parts = s.parts) (p : Nat) (f : Partition → Partition) :
    (withPart t p f).parts = (withPart s p f).parts := by
  rw [withPart_parts, withPart_parts, h]

theorem foldr_journalBack_parts (l : List HbmRec) (s : State) (p : Nat) :
    (l.foldr (fun r t => journalBack t p r) s).parts = (withPart s p (fun q => l.foldr (fun r x => putBack x r.off r.old) q)).parts := by
  induction l with
  | nil => exact congrArg State.parts (withPart_id s p).symm
  | cons r rs ih => rw [List.foldr_cons, journalBack_parts, withPart_parts_congr ih, withPart_withPart]; rfl

/-- The slice as a replay restores it: the undo records of the update engines go back, then the HBM journal (15, R495). -/
def restoredHbm (q : Partition) : Mem 8 :=
  q.se.journal.foldr (fun r m => memWrite m r.off (leBytes 64 r.old.toNat))
    (q.upd.undo.foldr (fun r m => memWrite m r.off (leBytes 64 r.old.toNat)) q.hbm)

/-- The module with the slice of a partition restored. -/
def restored (s : State) (p : Nat) : State :=
  let t := withPart (dropWaits s p) p (fun q => q.upd.undo.foldr (fun r x => putBack x r.off r.old) q)
  (part t p).se.journal.foldr (fun r u => journalBack u p r) t

theorem restored_parts {s : State} {p : Nat} (hp : p < s.parts.length) :
    (restored s p).parts = (withPart s p (fun q => { q with hbm := restoredHbm q })).parts := by
  have hundo : part (withPart (dropWaits s p) p (fun q => q.upd.undo.foldr (fun r x => putBack x r.off r.old) q)) p =
      { part s p with hbm := (part s p).upd.undo.foldr (fun r m => memWrite m r.off (leBytes 64 r.old.toNat)) (part s p).hbm } := by
    rw [part_withPart (dropWaits s p) p _ hp, foldr_putBack]
    rfl
  unfold restored
  simp only [hundo]
  rw [foldr_journalBack_parts, withPart_withPart]
  refine (withPart_parts_congr (s := s) rfl p _).trans (congrArg State.parts (withPart_congr s p _ _ ?_))
  simp only [foldr_putBack]
  rfl

/-! ## The abandonment of an attempt -/

/-- A partition whose attempt is abandoned: what the attempt had begun is gone and the sequencer stands at the step's entry (15, R495). -/
def attemptGone (q : Partition) : Partition :=
  { q with
    clusters := q.clusters.map clusterRestore,
    lk := { q.lk with acks := [], reads := [], sends := [], outAtomics := [],
                      alt := q.lk.alt ++ q.lk.altNext.filter (fun r => !q.lk.alt.contains r), altNext := [] },
    cl := { q.cl with inAttempt := [], arriveSent := false, tRel := none,
                      early := q.cl.early.filter (fun f => decide (q.seq.step < f.step)) },
    upd := { q.upd with queue := [], answers := [], measured := [], applied := [], undo := [] },
    se := { q.se with journal := [], asked := false, replaying := true, replays := satInc q.se.replays 1, verdict := none,
                      digest := none, verdictAsked := false },
    seq := { q.seq with
             attempt := q.seq.attempt + 1, begun := false, replayCyc := q.seq.replayCyc + (q.seq.ic - q.seq.ic0),
             ic0 := q.seq.ic, next := q.seq.entry, stream := [], loops := q.seq.loops0, votes := [], atomics := [], owed := [],
             stalls := List.replicate 16 0, stallStep := 0, stallRun := 0, fpLo := 0, fpHi := 0, lines := 0, freezeAt := none,
             exceeded := false, brkPassed := false } }

theorem abandonAttempt_parts (s : State) (p : Nat) : (abandonAttempt s p).parts = (withPart (restored s p) p attemptGone).parts := rfl

/-- A replay of a job of one rank whose restore succeeds (15, R495, R497). -/
def replayedPart (q : Partition) : Partition :=
  let x := attemptGone { q with hbm := restoredHbm q }
  { x with se := { x.se with takeover := false } }

theorem doReplay_parts {s : State} {p : Nat} (hp : p < s.parts.length) (hrun : (part s p).st = .running)
    (hasked : (part s p).se.asked = true) (hranks : (part s p).job.ranks ≤ 1) (htake : (part s p).se.takeover = false) :
    (doReplay s p false false).parts = (withPart s p replayedPart).parts := by
  have hexec : doReplay s p false false = withSe (abandonAttempt s p) p (fun x => { x with takeover := false }) := by
    unfold doReplay
    simp [hrun, hasked, hranks, htake]
  rw [hexec, withSe, withPart_parts_congr (abandonAttempt_parts s p), withPart_withPart, withPart_parts_congr (restored_parts hp),
    withPart_withPart]
  rfl

theorem part_doReplay {s : State} {p : Nat} (hp : p < s.parts.length) (hrun : (part s p).st = .running)
    (hasked : (part s p).se.asked = true) (hranks : (part s p).job.ranks ≤ 1) (htake : (part s p).se.takeover = false) :
    part (doReplay s p false false) p = replayedPart (part s p) ∧
      ∀ k, k ≠ p → part (doReplay s p false false) k = part s k := by
  have hparts := doReplay_parts hp hrun hasked hranks htake
  have hpart : ∀ k, part (doReplay s p false false) k = part (withPart s p replayedPart) k := fun k =>
    congrArg (fun l => l.getD k partReset) hparts
  exact ⟨(hpart p).trans (part_withPart s p _ hp), fun k hk => (hpart k).trans (part_withPart_ne s p k _ hk.symm)⟩

/-- Where a restore fails the job ends (15, R498). -/
theorem doReplay_restoreBad {s : State} {p : Nat} (hrun : (part s p).st = .running) (hasked : (part s p).se.asked = true)
    (copyBad : Bool) : doReplay s p true copyBad = faultEnd s srcFw p 0x05B2 0 := by
  unfold doReplay
  simp [hrun, hasked]

/-! ## The new attempt -/

/-- A job of one rank goes on at once (15, R497). -/
theorem replayRestart_oneRank {s : State} {p : Nat} (hreplaying : (part s p).se.replaying = true) (hranks : (part s p).job.ranks ≤ 1) :
    replayRestart s p =
      withPart s p (fun x =>
        { x with
          se := { x.se with replaying := false, replayNs := satInc x.se.replayNs (s.quartz.ns - x.se.replayFrom) },
          cl := { x.cl with arriveSent := false, tRel := none } }) := by
  unfold replayRestart
  cases hrel : (part s p).cl.tRel with
  | none => simp [hrel, hreplaying, Nat.not_lt.2 hranks]
  | some r => simp [hrel, hreplaying, hranks, Nat.not_lt.2 hranks]

/-- Settles O23: the restore touches the slice alone, and the abandonment puts the rest of the partition where the statement has it. -/
theorem replay : Obligations.Replay := by
  intro s p hp hlen _ hrun q
  have hlt : p < s.parts.length := hlen ▸ hp
  have hunit : ∀ t : State, onUnit (decide (p < 12)) t = .next t := fun t => onUnit_of_true (decide_eq_true hp) t
  refine ⟨fun hasked hranks htake => ⟨⟨doReplay s p false false, hunit _, ?_⟩, faultEnd s srcFw p 0x05B2 0, ?_, ?_⟩,
    fun hreplaying hranks => ?_⟩
  · obtain ⟨hpart, hothers⟩ := part_doReplay hlt hrun hasked hranks htake
    simp only [hpart]
    refine ⟨rfl, rfl, rfl, rfl, rfl, rfl, rfl, rfl, rfl, rfl, rfl, rfl, rfl, rfl, fun hundo => ?_, fun k _ hk => hothers k hk⟩
    show restoredHbm q = _
    unfold restoredHbm
    rw [hundo]
    rfl
  · show onUnit _ (doReplay s p true false) = _
    rw [hunit, doReplay_restoreBad hrun hasked]
  · exact jobEnded_faultEnd hrun srcFw 0x05B2 0
  · obtain ⟨x, n, c, hadvance⟩ := advance_eq s 0
    have hpart : part (advance s 0) p = q := by rw [hadvance]; rfl
    have hrestart := replayRestart_oneRank (s := advance s 0) (p := p) (by rw [hpart]; exact hreplaying) (by rw [hpart]; exact hranks)
    have hlt' : p < (advance s 0).parts.length := by rw [hadvance]; exact hlt
    refine ⟨replayRestart (advance s 0) p, hunit _, ?_⟩
    rw [hrestart, part_withPart _ _ _ hlt', hpart]
    exact ⟨rfl, rfl, rfl⟩

end Sys2Proof.Machine
end

section
/-! SUPPORT. A thermal trip while a job is active writes event 0x0206 to host memory, which refutes O13 and O16 (15, R525; 17, R571,
R579; 19, R635). -/

namespace Sys2Proof.Machine

/-! ## The end of every job -/

theorem foldl_jobEnd_inactive {l : List Nat} {s : State} (h : ∀ k ∈ l, jobActive (part s k) = false) (cause status : Nat) :
    l.foldl (fun u p => jobEnd u p cause status) s = s := by
  induction l with
  | nil => rfl
  | cons k ks ih =>
    rw [List.foldl_cons, jobEnd_inactive (h k List.mem_cons_self)]
    exact ih fun j hj => h j (List.mem_cons_of_mem _ hj)

theorem twJobEnd_host (s : State) (p : Nat) : (twJobEnd s p).host = s.host := by
  unfold twJobEnd
  cases htw : s.faults.tw with
  | none => rfl
  | some w =>
    simp only []
    split
    · rfl
    · cases w.phase <;> simp only [twReturn, twDone, htw]

/-- The end of a job that has no step entry in hand, in a module without queue contexts, reaches the host by its event alone. -/
theorem jobEnd_host {s : State} {p : Nat} (hactive : jobActive (part s p) = true) (hcurrent : (part s p).current = none)
    (hctxs : s.host.ctxs = []) (cause status : Nat) :
    (jobEnd s p cause status).host = (sendEvent s srcFw p 0x0206 (status + cause * 65536)).host := by
  have hnone : (sendEvent s srcFw p 0x0206 (status + cause * 65536)).host.ctxs = [] := by
    have hkeys := ctxKeys_sendEvent s srcFw p 0x0206 (status + cause * 65536)
    unfold ctxKeys at hkeys
    rw [hctxs] at hkeys
    exact List.map_eq_nil_iff.1 hkeys
  unfold jobEnd
  simp only [hactive, hcurrent, Bool.not_true, Bool.false_eq_true, if_false]
  change (twJobEnd (List.foldl _ _ _) p).host = _
  rw [twJobEnd_host]
  unfold ctxsOf
  rw [hnone]
  rfl

theorem tripNow_mem (s : State) :
    (tripNow s).host.mem = ((List.range 12).foldl (fun u p => jobEnd u p 4 0x08EB) s).host.mem := by
  unfold tripNow
  generalize (List.range 12).foldl (fun u p => jobEnd u p 4 0x08EB) s = t
  rfl

/-! ## A trip that the host hears of -/

/-- The host side of a module whose link is up, with an event ring of 16 records of the physical function at 0x1000. -/
def hotHost : HostSide :=
  { hostReset with up := true, fns := { fnReset with evtSize := 16, evtBaseEff := 0x1000 } :: List.replicate 12 fnReset }

/-- A READY module with one running job and one thermal sample above the trip value behind it. -/
def hotState : State :=
  { State.reset with
    boot := { bootReset with st := .ready, byFw := true, copy := fuseReset, planOn := true },
    parts := { partReset with st := .running } :: List.replicate 11 partReset, gov := { governorReset with tripN := 1 },
    host := hotHost }

/-- A second sample at the trip value of the junctions. -/
def hotSample : ThermalArgs := { junction := 110, stack := 0, inlet := 0, outlet := 0 }

/-- The record of the end of partition 0's job by a trip (17, R571; 19, R635). -/
def tripEvent (s : State) : EvRec := mkEvent s srcFw 0 0x0206 (0x08EB + 4 * 65536)

/-- A state with the host side and the partitions of hotState. -/
def hot (s : State) : Prop := s.host = hotHost ∧ s.parts = hotState.parts ∧ s.supplies.mainOn = true

theorem fnReceives_hotHost {s : State} (h : s.host = hotHost) :
    (List.range 13).filter (fnReceives s (tripEvent s)) = [0, 1] := by
  have hreceives : fnReceives s (tripEvent s) = fun k =>
      (k = 0 || evPart (tripEvent hotState) = 15 || evPart (tripEvent hotState) + 1 = k) &&
        decide (bits (hotHost.fns.getD k fnReset).evtFilter.toNat 0 4 ≤ evSev (tripEvent hotState)) := by
    funext k
    unfold fnReceives fnOf
    rw [h]
    rfl
  rw [hreceives]
  decide

/-- The record stands at the front of the ring of the physical function; function 1, the other receiver, has none. -/
theorem memRead_hostEvent {s : State} (h : s.host = hotHost) :
    memRead (hostEvent s (tripEvent s)).host.mem 0x1000 32 = evBytes (tripEvent s) := by
  have hup : s.host.up = true := by rw [h]; rfl
  have hlen : s.host.fns.length = 13 := by rw [h]; rfl
  have hf0 : fnOf s 0 = { fnReset with evtSize := 16, evtBaseEff := 0x1000 } := by unfold fnOf; rw [h]; rfl
  have hf1 : fnOf (ringEvent 0 (tripEvent s) s) 1 = fnReset := by
    rw [fnOf_ringEvent_ne s _ (by decide)]
    unfold fnOf
    rw [h]
    rfl
  have htook := ringTook_ringEvent (s := s) (k := 0) (by omega) (tripEvent s)
  have hlost := ringTook_ringEvent (s := ringEvent 0 (tripEvent s) s) (k := 1)
    (by rw [fns_shape, ringEvent_shape, ← fns_shape]; omega) (tripEvent s)
  unfold ringTook at htook hlost
  simp only [hf0] at htook
  simp only [hf1] at hlost
  rw [if_neg (by decide)] at htook
  rw [if_pos (by decide)] at hlost
  unfold hostEvent
  rw [fnReceives_hotHost h, List.foldl_cons, List.foldl_cons, List.foldl_nil, if_pos hup, if_pos (by rw [ringEvent_up]; exact hup)]
  obtain ⟨-, -, hmem, -⟩ := hlost
  obtain ⟨-, hrecord, -⟩ := htook
  rw [hmem]
  exact hrecord

/-- The whole trip leaves the record of the job's end in the host's memory. -/
theorem memRead_tripNow {s : State} (h : hot s) : memRead (tripNow s).host.mem 0x1000 32 = evBytes (tripEvent s) := by
  obtain ⟨hhost, hparts, hon⟩ := h
  have hactive : jobActive (part s 0) = true := by unfold part; rw [hparts]; rfl
  have hcurrent : (part s 0).current = none := by unfold part; rw [hparts]; rfl
  have hidle : ∀ k ∈ [1, 2, 3, 4, 5, 6, 7, 8, 9, 10, 11], jobActive (part (jobEnd s 0 4 0x08EB) k) = false := fun k hk => by
    have hne : k ≠ 0 := fun e => by rw [e] at hk; exact absurd hk (by decide)
    rw [part_of_apart hne (apart_jobEnd ..)]
    unfold part
    rw [hparts]
    revert k
    decide
  have hevent : (sendEvent s srcFw 0 0x0206 (0x08EB + 4 * 65536)).host = (hostEvent s (tripEvent s)).host := by
    unfold sendEvent
    rw [lifeEvent_host, mgmtEvent_host, if_pos hon]
    rfl
  rw [tripNow_mem, show List.range 12 = 0 :: [1, 2, 3, 4, 5, 6, 7, 8, 9, 10, 11] from rfl, List.foldl_cons,
    foldl_jobEnd_inactive hidle, jobEnd_host hactive hcurrent (by rw [hhost]; rfl), hevent]
  exact memRead_hostEvent hhost

/-- So the memory of the host has not stood. -/
theorem not_mainGone_tripNow {s : State} (h : hot s) {u : State} (hu : u.host = hotHost) : ¬ mainGone u (tripNow s) := by
  rintro ⟨-, -, -, hmem, -⟩
  have hread := memRead_tripNow h
  rw [hmem, hu] at hread
  have hdie : (evBytes (tripEvent s)).getD 16 0 = 0x1F := rfl
  rw [← hread] at hdie
  exact absurd hdie (by decide)

theorem hot_hotState : hot hotState := ⟨rfl, rfl, rfl⟩

theorem exec_thermalTrip_hotState : exec .thermalTrip hotState = .next (tripNow hotState) := rfl

/-- hotState after the sample, at the second one above the trip value. -/
def hotSampled : State := pwNote (cycleStep (withGov hotState (fun g => thermStep g hotSample)) 110) 18

theorem hot_hotSampled : hot hotSampled := ⟨rfl, rfl, rfl⟩

theorem exec_thermalAdjust_hotState : exec (.thermalAdjust hotSample) hotState = .next (tripNow hotSampled) := by
  show execThermalAdjust hotSample hotState = _
  unfold execThermalAdjust
  rfl

/-- Refutes O13: the clause on THERMAL_TRIP wants the host's memory to stand, but the trip ends every job, and event 0x0206 of the job of
hotState goes to the event ring of the physical function. -/
theorem not_inputs : ¬ Obligations.Inputs := by
  unfold Obligations.Inputs
  rintro ⟨-, hoff, -⟩
  obtain ⟨-, ⟨t, hnext, hgone, -⟩, -⟩ := hoff hotState rfl rfl
  rw [exec_thermalTrip_hotState] at hnext
  rw [← Host.Outcome.next.inj hnext] at hgone
  exact not_mainGone_tripNow hot_hotState rfl hgone

/-- Refutes O16: the clause on a trip by THERMAL_ADJUST wants the host's memory to stand, where the end of the job of hotState writes its
event to the event ring of the physical function. -/
theorem not_powerAndThermal : ¬ Obligations.PowerAndThermal := by
  unfold Obligations.PowerAndThermal
  rintro ⟨-, hthermal⟩
  obtain ⟨-, htrip⟩ := hthermal hotState hotSample rfl
  obtain ⟨t, hnext, hgone, -⟩ := htrip (by decide)
  rw [exec_thermalAdjust_hotState] at hnext
  rw [← Host.Outcome.next.inj hnext] at hgone
  exact not_mainGone_tripNow hot_hotSampled rfl hgone

end Sys2Proof.Machine
end

section
/-! SUPPORT. A cut whose list of results holds one that is no rank's of the job, which refutes O44 (16, R540, R541). -/

namespace Sys2Proof.Machine

/-- A cut of step 5 without sections. -/
def bareCut : CutStream := { cut := 5, head := [], sections := [], kept := [] }

/-- Partition 0 runs a job of one rank that is its own buddy. The slot of the cut is open, every byte has gone out, and the results of the
cut hold a failure of rank 1. -/
def strayResultState : State :=
  { State.reset with
    boot := { bootReset with st := .ready, byFw := true, copy := fuseReset, planOn := true },
    parts :=
      { partReset with
        st := .running, job := { jobNone with ranks := 1 },
        hbm := memWrite [] (protOff 0x1000) (ckRecBytes 0 false false 1 5 [0, 0, 0, 0]),
        ck := { ckRegsReset with areaOffEff := 0x1000, stream := some bareCut, resultCut := 5, results := [(1, false)] } } ::
        List.replicate 11 partReset }

/-- `job_cut` of partition 0 after a command that goes on. -/
def jobCutOf : Out → Word64
  | .next t => (part t 0).ck.jobCut
  | _ => 0

set_option maxRecDepth 20000 in
theorem openSlotOf_strayResultState : openSlotOf strayResultState 0 5 = some false := by decide

set_option maxRecDepth 20000 in
/-- The AND of the results is false, so `job_cut` stays. -/
theorem jobCutOf_imageCommit : jobCutOf (exec (.imageCommit 0) strayResultState) = 0 := by decide

/-- Refutes O44: the clause on IMAGE_COMMIT of a job of one rank bounds nothing in the list of results, and a failure that it holds of
another rank keeps `job_cut` as it was. -/
theorem not_checkpoints : ¬ Obligations.Checkpoints := by
  unfold Obligations.Checkpoints
  rintro ⟨hcuts, -⟩
  obtain ⟨hcommit, -⟩ := hcuts strayResultState 0 (by decide) rfl rfl (by decide) bareCut rfl
  obtain ⟨t, hnext, -, -, -, hcut, -⟩ :=
    hcommit false (by decide) (by decide) openSlotOf_strayResultState rfl (by decide) (by decide)
  have hkept := jobCutOf_imageCommit
  rw [hnext] at hkept
  exact absurd (hcut.symm.trans hkept) (by decide)

end Sys2Proof.Machine
end

section
/-! SUPPORT. Completions of host commands (17, R565, R566). -/

namespace Sys2Proof.Machine

/-! ## Vectors -/

/-- A vector that is raised shows in the function's pending bits, or among the interrupts sent, alone (17, MSIX_TABLE). -/
theorem raiseVector_shows {s : State} {k : Nat} (hk : k < s.host.fns.length) (v : Nat) :
    (raiseVector s k v).host.mem = s.host.mem ∧
      (∃ b, fnOf (raiseVector s k v) k = { fnOf s k with pba := b }) ∧
      (if (fnOf s k).msix.getLsbD (128 * v + 96) then (fnOf (raiseVector s k v) k).pba = (fnOf s k).pba ||| BitVec.ofNat 3 (2 ^ v)
       else (raiseVector s k v).host.irqs = s.host.irqs ++ [(k, v)]) := by
  unfold raiseVector
  simp only []
  by_cases hm : (fnOf s k).msix.getLsbD (128 * v + 96) = true
  · rw [if_pos hm, if_pos hm, fnOf_withFn hk]
    exact ⟨rfl, ⟨_, rfl⟩, rfl⟩
  · rw [if_neg hm, if_neg hm]
    exact ⟨rfl, ⟨(fnOf s k).pba, rfl⟩, rfl⟩

/-! ## The 16 bytes of a completion -/

theorem length_cplBytes (tag status : Nat) (phase : Bool) (value : Nat) : (cplBytes tag status phase value).length = 16 := rfl

theorem leBytes_leNat (b : List Byte) : leBytes b.length (leNat b) = b := by
  induction b with
  | nil => rfl
  | cons x xs ih =>
    have hx := x.isLt
    have hlow : BitVec.ofNat 8 (x.toNat + 256 * leNat xs) = x :=
      BitVec.eq_of_toNat_eq (by rw [BitVec.toNat_ofNat]; omega)
    have hhigh : (x.toNat + 256 * leNat xs) / 256 = leNat xs := by omega
    rw [List.length_cons, leNat, leBytes, hlow, hhigh, ih]

/-- MBOX_CPL holds the bytes written to it (17, R566). -/
theorem leBytes_mboxCpl {b : List Byte} (h : b.length = 16) : leBytes 16 (BitVec.ofNat 128 (leNat b)).toNat = b := by
  have hlt := leNat_lt b
  rw [h] at hlt
  rw [BitVec.toNat_ofNat, Nat.mod_eq_of_lt hlt, ← h, leBytes_leNat]

/-! ## A command that is taken up -/

/-- The module as it takes a command up: the ring index moves on, or MBOX_GO stands (17, R566). -/
def asked (s : State) (a : HostArgs) : State :=
  withFn s a.fn (fun x =>
    if a.mbox then { x with mboxGo := true }
    else { x with cmdHead := BitVec.ofNat 32 ((x.cmdHead.toNat + 1) % x.cmdSize.toNat) })

/-- The command as its function waits for it. -/
def askedWait (s : State) (a : HostArgs) (op : Nat) : CmdWait :=
  { op := op, tag := a.tag.toNat, mbox := a.mbox, idx := (fnOf s a.fn).cmdHead.toNat, arg := 0, val := 0 }

theorem hostCmd_eq {s : State} {a : HostArgs} (h : hostAsks s a) (op : Nat) (key : BitVec 768) (far : Far) :
    hostCmd a op key far s = .next (cmdRun (asked s a) a (askedWait s a op) key far) := by
  obtain ⟨hfn, -, hwaits, hserved, -, -, hring⟩ := h
  unfold hostCmd
  rw [onUnit_of_true (decide_eq_true hfn)]
  simp only [hwaits, hserved]
  unfold asked askedWait
  cases hm : a.mbox with
  | true => rfl
  | false =>
    obtain ⟨hsize, -⟩ := hring hm
    rw [if_neg hsize]
    rfl

theorem asked_fns (s : State) (a : HostArgs) : (asked s a).host.fns.length = s.host.fns.length := by
  rw [fns_shape]
  unfold asked
  rw [withFn_shape]
  rfl

/-- The function that asked, at its record as it stood (17, R566). -/
theorem fnOf_asked {s : State} {a : HostArgs} (h : a.fn < s.host.fns.length) :
    fnOf (asked s a) a.fn =
      if a.mbox then { fnOf s a.fn with mboxGo := true }
      else { fnOf s a.fn with cmdHead := BitVec.ofNat 32 (((fnOf s a.fn).cmdHead.toNat + 1) % (fnOf s a.fn).cmdSize.toNat) } :=
  fnOf_withFn h _

/-! ## The completion of a command -/

/-- What the completion of a command leaves: all but function records, memory, interrupts and held writes of the host. -/
theorem completeCmd_keeps {α : Type} (f : State → α)
    (hf : ∀ (t : State) x m i d, f { t with host := { t.host with fns := x, mem := m, irqs := i, held := d } } = f t)
    (s : State) (k : Nat) (w : CmdWait) (status value : Nat) : f (completeCmd s k w status value) = f s := by
  have hraise : ∀ t v, f (raiseVector t k v) = f t := fun t v => proj_ite f (hf t _ _ _ _) (hf t _ _ _ _)
  have hwith : ∀ t g, f (withFn t k g) = f t := fun t g => hf t _ _ _ _
  have hwrite : ∀ t x d, f (hostWrite t x d) = f t := fun t x d => hf t _ _ _ _
  unfold completeCmd
  simp only []
  refine proj_ite f ?_ (proj_ite f ?_ (proj_ite f ?_ ?_))
  · rw [hraise, hwith, hwith]
  · rw [hwith]
  · rw [hraise, hwrite, hwith, hwith]
  · exact (hf _ _ _ _ _).trans ((hwith _ _).trans (hwith _ _))

/-- The completion of a mailbox command (17, R566). -/
theorem completeCmd_mbox {s : State} {k : Nat} {w : CmdWait} (hm : w.mbox = true) (status value : Nat) :
    completeCmd s k w status value =
      raiseVector (withFn s k (fun x =>
        { x with
          waits := x.waits.filter (fun y => y.mbox != true), mboxGo := false,
          mboxCpl := BitVec.ofNat 128
            (leNat (cplBytes w.tag status (Config.mailboxPhase w.tag) (cplValue w.op status value))) })) k 0 := by
  unfold completeCmd
  simp only [hm, if_true, withFn_withFn]

/-- The completion of a ring command (17, R565). -/
theorem completeCmd_ring {s : State} {k : Nat} {w : CmdWait} (hm : w.mbox = false) (hsize : (fnOf s k).cmdSize.toNat ≠ 0)
    (hup : s.host.up = true) (status value : Nat) :
    completeCmd s k w status value =
      raiseVector (hostWrite (withFn s k (fun x =>
        { x with
          waits := x.waits.filter (fun y => y.mbox != false),
          cplPhase := if w.idx + 1 = (fnOf s k).cmdSize.toNat then !x.cplPhase else x.cplPhase }))
        ((fnOf s k).cplBaseEff.toNat + 16 * w.idx)
        (cplBytes w.tag status (fnOf s k).cplPhase (cplValue w.op status value))) k 0 := by
  unfold completeCmd
  simp only [hm, Bool.false_eq_true, if_false, withFn_withFn]
  rw [if_neg hsize, if_pos hup]

/-- Settled: a status, and a value where the status is 0, as the bytes of the completion have them. -/
theorem cplBytes_fields (tag status value op : Nat) (phase : Bool) :
    let b := cplBytes tag status phase (cplValue op status value)
    b.take 4 = leBytes 4 tag ∧ (b.drop 4).take 2 = leBytes 2 status ∧ (status = 0 → b.drop 8 = leBytes 8 value) ∧
      b.getD 6 0 = (if phase then 1 else 0) := by
  refine ⟨rfl, rfl, fun h => ?_, rfl⟩
  unfold cplValue
  rw [if_pos h]
  rfl

/-- The vector of a completion (17, R565, R566). -/
theorem vector_completed {v : State} {k : Nat} (hk : k < v.host.fns.length) :
    if (fnOf v k).msix.getLsbD 96 then (fnOf (raiseVector v k 0) k).pba.getLsbD 0 = true
    else (raiseVector v k 0).host.irqs.getLast? = some (k, 0) := by
  obtain ⟨-, -, hshown⟩ := raiseVector_shows hk 0
  rw [Nat.mul_zero, Nat.zero_add] at hshown
  split at hshown
  next hmasked =>
    rw [if_pos hmasked, hshown]
    simp
  next hsent =>
    rw [if_neg hsent, hshown]
    simp

/-- A command is completed by a vector once its 16 bytes and its function's record stand (17, R565, R566). -/
theorem completed_raiseVector {s v : State} {a : HostArgs} {op status value : Nat} {phase : Bool} (hk : a.fn < v.host.fns.length)
    (hcpl : (if a.mbox then leBytes 16 (fnOf v a.fn).mboxCpl.toNat
        else memRead v.host.mem ((fnOf s a.fn).cplBaseEff.toNat + 16 * (fnOf s a.fn).cmdHead.toNat) 16) =
      cplBytes a.tag.toNat status phase (cplValue op status value))
    (hring : a.mbox = false → phase = (fnOf s a.fn).cplPhase ∧
      (fnOf v a.fn).cmdHead.toNat = ((fnOf s a.fn).cmdHead.toNat + 1) % (fnOf s a.fn).cmdSize.toNat)
    (hmbox : a.mbox = true → (fnOf v a.fn).mboxGo = false ∧ (fnOf v a.fn).cmdHead = (fnOf s a.fn).cmdHead)
    (hwaits : (fnOf v a.fn).waits = []) (hmsix : (fnOf v a.fn).msix = (fnOf s a.fn).msix) :
    completed s (raiseVector v a.fn 0) a status value := by
  obtain ⟨hmem, ⟨b, hb⟩, -⟩ := raiseVector_shows hk 0
  have hcpl' : cplOf s (raiseVector v a.fn 0) a = cplBytes a.tag.toNat status phase (cplValue op status value) := by
    unfold cplOf
    rw [hmem, hb]
    exact hcpl
  obtain ⟨htag, hstatus, hvalue, hbit⟩ := cplBytes_fields a.tag.toNat status value op phase
  have hvec := vector_completed hk
  rw [hmsix] at hvec
  unfold completed
  rw [hcpl']
  refine ⟨htag, hstatus, hvalue, fun hm => ?_, fun hm => ?_, ?_, hvec⟩
  · obtain ⟨hphase, hhead⟩ := hring hm
    rw [← hphase, hb]
    exact ⟨hbit, hhead⟩
  · rw [hb]
    exact hmbox hm
  · rw [hb]
    exact hwaits

section
variable {s u : State} {a : HostArgs} (h : hostAsks s a) (hu : u.host = (asked s a).host)
include h hu

/-- The function's record while its command is performed. -/
theorem fnOf_performing :
    a.fn < u.host.fns.length ∧ fnOf u a.fn =
      if a.mbox then { fnOf s a.fn with mboxGo := true }
      else { fnOf s a.fn with cmdHead := BitVec.ofNat 32 (((fnOf s a.fn).cmdHead.toNat + 1) % (fnOf s a.fn).cmdSize.toNat) } := by
  obtain ⟨hfn, hlen, -⟩ := h
  refine ⟨by rw [hu, asked_fns, hlen]; exact hfn, ?_⟩
  have hfnu : fnOf u a.fn = fnOf (asked s a) a.fn := by unfold fnOf; rw [hu]
  rw [hfnu, fnOf_asked (hlen ▸ hfn)]

theorem completed_mbox (hm : a.mbox = true) (op status value : Nat) :
    completed s (completeCmd u a.fn (askedWait s a op) status value) a status value := by
  obtain ⟨hk, hasked⟩ := fnOf_performing h hu
  obtain ⟨-, -, hwaits, -⟩ := h
  rw [if_pos hm] at hasked
  rw [completeCmd_mbox (w := askedWait s a op) hm]
  refine completed_raiseVector (op := op) (phase := Config.mailboxPhase a.tag.toNat) (by rw [fns_shape, withFn_shape]; exact hk)
    ?_ (fun hring => absurd hm (by simp [hring])) (fun _ => ?_) ?_ ?_ <;> rw [fnOf_withFn hk, hasked]
  · rw [if_pos hm]
    exact leBytes_mboxCpl (length_cplBytes ..)
  · exact ⟨rfl, rfl⟩
  · show (fnOf s a.fn).waits.filter _ = []
    rw [hwaits]
    rfl

theorem completed_ring (hm : a.mbox = false) (op status value : Nat) :
    completed s (completeCmd u a.fn (askedWait s a op) status value) a status value := by
  obtain ⟨hk, hasked⟩ := fnOf_performing h hu
  obtain ⟨-, -, hwaits, -, hup, -, hring⟩ := h
  obtain ⟨hsize, hhead⟩ := hring hm
  rw [if_neg (by simp [hm])] at hasked
  have hsize' : (fnOf u a.fn).cmdSize.toNat ≠ 0 := by
    rw [hasked]
    exact fun e => hsize (BitVec.eq_of_toNat_eq e)
  have hup' : u.host.up = true := by rw [hu]; exact hup
  rw [completeCmd_ring (w := askedWait s a op) hm hsize' hup', hasked]
  refine completed_raiseVector (op := op) (phase := (fnOf s a.fn).cplPhase) ?_ ?_ (fun _ => ⟨rfl, ?_⟩)
    (fun hmbox => absurd hm (by simp [hmbox])) ?_ ?_
  · show a.fn < (withFn u a.fn _).host.fns.length
    rw [fns_shape, withFn_shape]
    exact hk
  · rw [if_neg (by simp [hm])]
    exact memRead_memWrite u.host.mem _ (cplBytes ..)
  · show (fnOf (withFn u a.fn _) a.fn).cmdHead.toNat = _
    rw [fnOf_withFn hk, hasked]
    show (BitVec.ofNat 32 _).toNat = _
    rw [BitVec.toNat_ofNat, Nat.mod_eq_of_lt]
    exact (Nat.mod_lt _ (Nat.pos_of_ne_zero fun e => hsize (BitVec.eq_of_toNat_eq e))).trans (fnOf s a.fn).cmdSize.isLt
  · show (fnOf (withFn u a.fn _) a.fn).waits = _
    rw [fnOf_withFn hk, hasked]
    show (fnOf s a.fn).waits.filter _ = []
    rw [hwaits]
    rfl
  · show (fnOf (withFn u a.fn _) a.fn).msix = _
    rw [fnOf_withFn hk, hasked]

/-- A command that the module completes is completed as R565 and R566 have it. -/
theorem completed_completeCmd (op status value : Nat) :
    completed s (completeCmd u a.fn (askedWait s a op) status value) a status value := by
  cases hm : a.mbox with
  | true => exact completed_mbox h hu hm op status value
  | false => exact completed_ring h hu hm op status value

end

/-- The completion of a command leaves the engine as it was. -/
theorem engineStands_completeCmd {s u : State} {a : HostArgs} (hu : engineStands s u) (op status value : Nat) :
    engineStands s (completeCmd u a.fn (askedWait s a op) status value) := by
  obtain ⟨hparts, hberyl, hctxs, hboot⟩ := hu
  refine ⟨?_, ?_, ?_, ?_⟩
  · rw [completeCmd_keeps State.parts fun _ _ _ _ _ => rfl, hparts]
  · rw [completeCmd_keeps State.beryl fun _ _ _ _ _ => rfl, hberyl]
  · rw [completeCmd_keeps (fun t => t.host.ctxs) fun _ _ _ _ _ => rfl, hctxs]
  · rw [completeCmd_keeps State.boot fun _ _ _ _ _ => rfl, hboot]

theorem engineStands_asked (s : State) (a : HostArgs) : engineStands s (asked s a) := ⟨rfl, rfl, rfl, rfl⟩

end Sys2Proof.Machine
end

section
/-! SUPPORT. FW_STAGE and PACK_INSTALL (15, R519, R520; 17, R559, R560), and O49 from them. -/

namespace Sys2Proof.Machine

/-- A function and a command that are well formed: firmware at work performs the command (17, R554, R566; 20, R654). -/
theorem hostCmd_perform {s : State} {a : HostArgs} {op : Nat} (h : hostSends s a op) (key : BitVec 768) (far : Far) :
    hostCmd a op key far s = .next (cmdPerform (asked s a) a (askedWait s a op) key far) := by
  obtain ⟨hasks, hworks, hplan, hform⟩ := h
  have hgate : cmdGate (asked s a) = none := by
    show cmdGate s = none
    unfold fwWorks at hworks
    unfold cmdGate
    cases hst : s.boot.st <;> simp_all
  have hpresent : (a.fn != 0 && decide (planCount (asked s a) < a.fn)) = false := by
    show (a.fn != 0 && decide (planCount s < a.fn)) = false
    rw [decide_eq_false (Nat.not_lt.2 hplan), Bool.and_false]
  rw [hostCmd_eq hasks]
  unfold cmdRun
  simp only [hgate]
  rw [if_neg (by rw [hpresent]; exact Bool.false_ne_true), if_neg (by rw [show (askedWait s a op).op = op from rfl, hform]; exact Bool.false_ne_true)]

/-- What FW_STAGE or PACK_INSTALL reads of its image: the bytes that its arguments name (17, R560; 15, R520). -/
def imageRead (s : State) (a : HostArgs) : List Byte := hostRead s (argAt a 8 8) (argAt a 16 8)

/-! ## FW_STAGE -/

theorem exec_fwStage {s : State} {a : HostArgs} {key : BitVec 768} (h : hostSends s a 0x60) (hlen : argAt a 16 8 ≤ 2 ^ 25) :
    exec (.fwStage a key) s =
      .next (completeCmd (fwStage (asked s a) (imageRead s a) key).2.2 a.fn (askedWait s a 0x60)
        (fwStage (asked s a) (imageRead s a) key).1 (fwStage (asked s a) (imageRead s a) key).2.1) := by
  have hmin : min (argAt a 16 8) (2 ^ 25 + 1) = argAt a 16 8 := by omega
  show hostCmd a 0x60 key farNone s = _
  rw [hostCmd_perform h]
  unfold cmdPerform askedWait
  dsimp only
  rw [hmin]
  rfl

/-- The bank that does not run takes an image, and is preferred from the next start on (17, R560). -/
def staged (s : State) (b : List Byte) : State :=
  { s with
    boot := if s.boot.runB then { s.boot with bankA := { bytes := memWrite [] 0 b, result := 1 } }
      else { s.boot with bankB := { bytes := memWrite [] 0 b, result := 1 } },
    life := { s.life with bankB := !s.boot.runB } }

theorem fwStage_passes {s : State} {b : List Byte} {key : BitVec 768} (hfree : s.host.staging = false)
    (hcheck : fwCheck s.boot.copy b key = 0) : fwStage s b key = (0, fieldAt b 8 4, staged s b) := by
  unfold fwStage
  rw [if_neg (by rw [hfree]; exact Bool.false_ne_true), hcheck]
  rfl

theorem staged_host (s : State) (b : List Byte) : (staged s b).host = s.host := rfl

theorem staged_parts (s : State) (b : List Byte) : (staged s b).parts = s.parts := rfl

theorem staged_banks (s : State) (b : List Byte) :
    (if s.boot.runB then (staged s b).boot.bankA else (staged s b).boot.bankB) = { bytes := memWrite [] 0 b, result := 1 } ∧
      (if s.boot.runB then (staged s b).boot.bankB = s.boot.bankB else (staged s b).boot.bankA = s.boot.bankA) := by
  unfold staged
  cases hrun : s.boot.runB
  · exact ⟨rfl, rfl⟩
  · exact ⟨rfl, rfl⟩

/-- An image that fails a check is refused, and nothing is staged (17, R559, R560). -/
theorem fwStage_fails {s : State} {b : List Byte} {key : BitVec 768} (hfree : s.host.staging = false)
    (hcheck : fwCheck s.boot.copy b key ≠ 0) :
    fwStage s b key = (if fwCheck s.boot.copy b key = 3 then 0x0205 else 0x0501, 0, s) := by
  unfold fwStage
  rw [if_neg (by rw [hfree]; exact Bool.false_ne_true)]
  split
  · contradiction
  next h => rw [if_pos h]
  next h3 => rw [if_neg h3]

theorem stageLeft_fwStage {s : State} {a : HostArgs} {key : BitVec 768} (hfree : s.host.staging = false) (h : hostSends s a 0x60)
    (hlen : argAt a 16 8 ≤ 2 ^ 25) :
    ∃ t, exec (.fwStage a key) s = .next t ∧ t.parts = s.parts ∧
      stageLeft s t a (imageRead s a) (fwCheck s.boot.copy (imageRead s a) key) := by
  obtain ⟨hasks, -⟩ := id h
  have hcopy : (asked s a).boot.copy = s.boot.copy := rfl
  refine ⟨_, exec_fwStage h hlen, ?_⟩
  unfold stageLeft
  by_cases hcheck : fwCheck s.boot.copy (imageRead s a) key = 0
  · rw [fwStage_passes (s := asked s a) hfree hcheck, if_pos hcheck]
    dsimp only
    have hkeeps := fun {α : Type} (f : State → α) hf => completeCmd_keeps f hf (staged (asked s a) (imageRead s a)) a.fn
      (askedWait s a 0x60) 0 (fieldAt (imageRead s a) 8 4)
    obtain ⟨hnew, hold⟩ := staged_banks (asked s a) (imageRead s a)
    refine ⟨(hkeeps State.parts fun _ _ _ _ _ => rfl).trans (staged_parts ..), completed_completeCmd hasks (staged_host ..) _ _ _, ?_⟩
    rw [hkeeps State.boot fun _ _ _ _ _ => rfl, hkeeps State.life fun _ _ _ _ _ => rfl]
    exact ⟨hnew, hold, rfl⟩
  · rw [fwStage_fails (s := asked s a) hfree hcheck, if_neg hcheck]
    dsimp only
    exact ⟨completeCmd_keeps State.parts (fun _ _ _ _ _ => rfl) .., engineStands_completeCmd (engineStands_asked s a) _ _ _,
      completed_completeCmd hasks rfl _ _ _⟩

/-! ## PACK_INSTALL -/

/-- The value of a completion says nothing where the command has failed. -/
theorem completed_of_failed {s t : State} {a : HostArgs} {status v : Nat} (w : Nat) (hne : status ≠ 0)
    (h : completed s t a status v) : completed s t a status w := by
  obtain ⟨htag, hstatus, -, hrest⟩ := h
  exact ⟨htag, hstatus, fun h0 => absurd h0 hne, hrest⟩

theorem exec_packInstall {s : State} {a : HostArgs} {key : BitVec 768} (h : hostSends s a 0x61) (hlen : argAt a 16 8 ≤ 2 ^ 22) :
    exec (.packInstall a key) s =
      .next (completeCmd (packInstall (asked s a) (imageRead s a) key).2 a.fn (askedWait s a 0x61)
        (packInstall (asked s a) (imageRead s a) key).1 (packVersion (imageRead s a))) := by
  have hmin : min (argAt a 16 8) (2 ^ 22 + 1) = argAt a 16 8 := by omega
  show hostCmd a 0x61 key farNone s = _
  rw [hostCmd_perform h]
  unfold cmdPerform askedWait
  dsimp only
  rw [hmin]
  rfl

/-- A pack that passes every check is installed (15, R520). -/
def installed (s : State) (b : List Byte) : State :=
  { s with life := { s.life with pack := some b }, faults := { s.faults with packUsed := true } }

theorem installed_host (s : State) (b : List Byte) : (installed s b).host = s.host := rfl

theorem engineStands_installed {s u : State} (h : engineStands s u) (b : List Byte) : engineStands s (installed u b) := h

theorem packInstall_eq (s : State) (b : List Byte) (key : BitVec 768) :
    packInstall s b key =
      if packOk s.boot.fw.toNat b && packSigned s.boot.copy b key && decide (packNow s < packVersion b) then (0, installed s b)
      else (if !packOk s.boot.fw.toNat b then 0x01B0 else if !packSigned s.boot.copy b key then 0x05BA else 0x02B1, s) := by
  unfold packInstall
  cases packOk s.boot.fw.toNat b with
  | false => rfl
  | true =>
    cases packSigned s.boot.copy b key with
    | false => rfl
    | true =>
      show (if packVersion b ≤ packNow s then _ else _) = _
      by_cases hnew : packNow s < packVersion b
      · rw [if_neg (Nat.not_le.2 hnew), decide_eq_true hnew]
        rfl
      · rw [if_pos (Nat.not_lt.1 hnew), decide_eq_false hnew]
        rfl

theorem packLeft_packInstall {s : State} {a : HostArgs} {key : BitVec 768} (h : hostSends s a 0x61)
    (hlen : argAt a 16 8 ≤ 2 ^ 22) :
    ∃ t, exec (.packInstall a key) s = .next t ∧ engineStands s t ∧
      packLeft s t a (imageRead s a) (packOk s.boot.fw.toNat (imageRead s a)) (packSigned s.boot.copy (imageRead s a) key) := by
  obtain ⟨hasks, -⟩ := id h
  have heq : packInstall (asked s a) (imageRead s a) key =
      if packOk s.boot.fw.toNat (imageRead s a) && packSigned s.boot.copy (imageRead s a) key &&
          decide (packNow s < packVersion (imageRead s a)) then (0, installed (asked s a) (imageRead s a))
      else (if !packOk s.boot.fw.toNat (imageRead s a) then 0x01B0
        else if !packSigned s.boot.copy (imageRead s a) key then 0x05BA else 0x02B1, asked s a) :=
    packInstall_eq (asked s a) (imageRead s a) key
  refine ⟨_, exec_packInstall h hlen, ?_⟩
  unfold packLeft
  rw [heq]
  split
  · dsimp only
    exact ⟨engineStands_completeCmd (engineStands_installed (engineStands_asked s a) _) _ _ _, completed_completeCmd hasks (installed_host ..) _ _ _,
      completeCmd_keeps (fun t => t.life.pack) (fun _ _ _ _ _ => rfl) ..⟩
  · dsimp only
    exact ⟨engineStands_completeCmd (engineStands_asked s a) _ _ _,
      completed_of_failed 0 (by split_ifs <;> decide) (completed_completeCmd hasks rfl _ _ _),
      completeCmd_keeps (fun t => t.life.pack) (fun _ _ _ _ _ => rfl) ..⟩

/-- Settles O49: each command by its checks, and its completion by the rule for completions. -/
theorem firmwareAndPacks : Obligations.FirmwareAndPacks :=
  ⟨fun _ _ _ hfree h hlen => stageLeft_fwStage hfree h hlen, fun _ _ _ _ h hlen => packLeft_packInstall h hlen⟩

end Sys2Proof.Machine
end

section
/-! SUPPORT. Queue contexts that do not stand in the order of their numbers, which refute O46 (17, R572). -/

namespace Sys2Proof.Machine

/-- A queue context without entries. -/
def emptyCtx (k : Nat) : QCtx :=
  { k := k, size := 16, ring := 0, cpl := 0, table := 0, tableN := 0, tail := 0, head := 0, cplIdx := 0, phase := true, prev := none,
    fetched := [] }

/-- A READY module of one partition whose contexts 2 and 0 are listed in this order. -/
def mixedState : State :=
  { State.reset with
    boot := { bootReset with st := .ready, byFw := true, copy := fuseReset, planOn := true },
    host := { hostReset with up := true, ctxs := [emptyCtx 2, emptyCtx 0] } }

/-- CTX_CONFIG of context 1 with 16 entries, through the mailbox of the physical function. -/
def configOne : HostArgs := { fn := 0, mbox := true, tag := 0, args := 0x1000000001 }

theorem hostSends_mixedState : hostSends mixedState configOne 0x10 :=
  ⟨⟨by decide, rfl, rfl, rfl, rfl, rfl, fun h => nomatch h⟩, rfl, Nat.zero_le _, by decide⟩

theorem exec_ctxConfig {s : State} {a : HostArgs} (h : hostSends s a 0x10) (hthere : argPart a < planCount s) :
    exec (.ctxConfig a) s =
      .next (completeCmd (ctxConfig (asked s a) a).2 a.fn (askedWait s a 0x10) (ctxConfig (asked s a) a).1 0) := by
  have habsent : (namesPart 0x10 && decide (planCount (asked s a) ≤ argPart a)) = false := by
    show (namesPart 0x10 && decide (planCount s ≤ argPart a)) = false
    rw [decide_eq_false (Nat.not_le.2 hthere), Bool.and_false]
  show hostCmd a 0x10 0 farNone s = _
  rw [hostCmd_perform h]
  unfold cmdPerform askedWait
  dsimp only
  rw [habsent]
  rfl

/-- The new context takes its place by number, and so do the two others. -/
theorem ctxs_configOne :
    ((ctxConfig (asked mixedState configOne) configOne).2.host.ctxs.filter (fun c => c.k != 1)).map (·.k) = [0, 2] := by decide

/-- Refutes O46: the clause on CTX_CONFIG wants the other contexts to stand as they are listed, where the model lists all of them by their
numbers afterwards; those of mixedState are listed otherwise. -/
theorem not_stepQueues : ¬ Obligations.StepQueues := by
  unfold Obligations.StepQueues
  rintro ⟨hctx, -⟩
  obtain ⟨hconfig, -⟩ := hctx mixedState configOne
  obtain ⟨-, -, -, hdone⟩ := hconfig hostSends_mixedState
  obtain ⟨t, hnext, -, -, hothers, -⟩ := hdone (by decide) (by decide) (by decide)
  rw [exec_ctxConfig hostSends_mixedState (by decide)] at hnext
  rw [← Host.Outcome.next.inj hnext, completeCmd_keeps (fun t => t.host.ctxs) fun _ _ _ _ _ => rfl] at hothers
  have hkeys := congrArg (List.map QCtx.k) hothers
  exact absurd (hkeys.symm.trans ctxs_configOne) (by decide)

end Sys2Proof.Machine
end

section
/-! SUPPORT. The event of the sixteenth message that fails authentication within a second, which refutes O52 (18, R587; 17, R558). -/

namespace Sys2Proof.Machine

/-- A module whose main domain is on while its PCIe link is down; fifteen messages have failed authentication at this instant. -/
def besiegedState : State := { State.reset with mgmt := { mgmtReset with authFails := List.replicate 15 0 } }

/-- A READ_REQ under slot 0, which has no key. -/
def keylessRead : MsgArgs :=
  { src := List.replicate 16 0, port := 0, dt := 0, bytes := [0x4E, 0x59, 1, 1] ++ List.replicate 44 0 }

/-- While the link is down a record waits once for each function of a list. -/
theorem held_holdEvents (e : EvRec) (ks : List Nat) {s : State} (hdown : s.host.up = false) :
    (ks.foldl (fun t k => if t.host.up then ringEvent k e t else holdWrite t (HostWrite.event k e)) s).host.held =
      s.host.held ++ ks.map (HostWrite.event · e) := by
  induction ks generalizing s with
  | nil => exact (List.append_nil _).symm
  | cons k ks ih =>
    rw [List.foldl_cons, if_neg (by simp only [hdown, Bool.false_eq_true, not_false_eq_true]), ih (s := holdWrite s (HostWrite.event k e)) hdown]
    exact List.append_assoc _ _ _

/-- An event that the physical function receives waits for the host while the link is down. -/
theorem host_sendEvent_ne {s : State} (src : EvSrc) (p code detail : Nat) (hmain : s.supplies.mainOn = true)
    (hdown : s.host.up = false) (hall : (fnOf s 0).evtFilter = 0) : (sendEvent s src p code detail).host ≠ s.host := by
  intro hsame
  have hheld := congrArg (fun h => h.held.length) hsame
  have hreceives : 0 ∈ (List.range 13).filter (fnReceives s (mkEvent s src p code detail)) := by
    refine List.mem_filter.2 ⟨by decide, ?_⟩
    unfold fnReceives
    rw [hall]
    exact (Bool.true_and _).trans (decide_eq_true (Nat.zero_le _))
  unfold sendEvent at hheld
  simp only [lifeEvent_host, mgmtEvent_host, hmain, if_true] at hheld
  unfold hostEvent at hheld
  rw [held_holdEvents _ _ hdown, List.length_append, List.length_map] at hheld
  have := List.length_pos_of_mem hreceives
  omega

theorem slotKey_besiegedState : slotKey besiegedState (fieldAt keylessRead.bytes 4 1) = none := by decide

theorem arrives_keylessRead : arrives besiegedState keylessRead 1 :=
  ⟨rfl, rfl, by decide, by decide, by decide, by decide⟩

theorem exec_keylessRead : exec (.readReq keylessRead) besiegedState = .next (authFail (advance besiegedState 0)) := by
  show Host.Outcome.next (datagram besiegedState keylessRead []) = _
  unfold datagram
  rw [show keylessRead.dt = 0 from rfl]
  simp only
  rw [if_neg (by decide), if_neg (by decide), if_neg (by decide), if_neg (by decide),
    show slotKey (advance besiegedState 0) (msgHead keylessRead.bytes).slot = none by decide]

/-- The sixteenth failure within a second sends event 0x04D1. -/
theorem authFail_besiegedState : ∃ t, authFail (advance besiegedState 0) = sendEvent t srcFw 15 0x04D1 0 ∧
    t.supplies.mainOn = true ∧ t.host = hostReset := by
  unfold authFail
  simp only
  rw [if_pos (by decide)]
  exact ⟨_, rfl, rfl, rfl⟩

/-- Refutes O52: the clause on a message that fails authentication lets it touch nothing of the host, where the sixteenth within a
second sends event 0x04D1, which waits for the physical function. -/
theorem not_managementRequests : ¬ Obligations.ManagementRequests := by
  unfold Obligations.ManagementRequests
  rintro ⟨hrows, -⟩
  obtain ⟨-, -, hfail⟩ := hrows besiegedState keylessRead rfl rfl (1, .readReq keylessRead) (List.mem_cons_self ..)
  obtain ⟨t, hnext, ⟨-, hhost, -⟩, -⟩ := hfail [] arrives_keylessRead (by decide) (.inl slotKey_besiegedState)
  obtain ⟨u, hsends, hmain, hu⟩ := authFail_besiegedState
  rw [exec_keylessRead, hsends] at hnext
  have hdown : u.host.up = false := congrArg HostSide.up hu
  have hall : (fnOf u 0).evtFilter = 0 := by
    unfold fnOf
    rw [hu]
    rfl
  refine host_sendEvent_ne srcFw 15 0x04D1 0 hmain hdown hall ?_
  rw [Host.Outcome.next.inj hnext]
  exact hhost.trans hu.symm

end Sys2Proof.Machine
end

section
/-! SUPPORT. The phases of the update queue that the state digest and the verdict are, mismatches of the update engines, and O33 from them
(11, R354, R355; 15, R489, R502, R505, R513 to R517). -/

namespace Sys2Proof.Machine

/-! ## A phase that is answered -/

/-- The head of the queue is the phase that may begin. -/
theorem phaseIs_of_waits {s : State} {p phase group w l i : Nat} (h : phaseWaits (part s p) phase group w l i) :
    ∃ x, phaseIs s p phase group = some x ∧ x.phase = phase ∧ x.group = group ∧ x.waiters = [(w, l, i)] := by
  obtain ⟨hrun, hasked, hreplaying, hhead⟩ := h
  obtain ⟨x, hx, hfields⟩ := Option.map_eq_some_iff.1 hhead
  simp only [Prod.mk.injEq] at hfields
  obtain ⟨hphase, hgroup, hwaiters, hdone⟩ := hfields
  have hready : phaseReady s p = some x := by
    unfold phaseReady
    simp only [hrun, hasked, hreplaying, hx, bne_self_eq_false, Bool.or_false, Bool.false_eq_true, if_false, Option.filter_some, hdone,
      if_true]
  refine ⟨x, ?_, hphase, hgroup, hwaiters⟩
  unfold phaseIs
  simp only [hready, Option.filter_some, hphase, hgroup, decide_true, Bool.and_true, if_true]

/-- A buffer that a phase answers: a REGREAD that is still open takes its word (06, R220; 11, R354). -/
def answeredBuf (word : Nat) (poison : Bool) (b : Buffer) : Buffer :=
  if b.kind = .regread && !b.present && b.fetched.isNone then
    { b with fetched := some ((match b.range with | some r => r.1 | none => 0), leBytes 8 word, poison) }
  else b

/-- The cluster whose buffer a phase answers. -/
def answeredCluster (i word : Nat) (poison : Bool) (c : Cluster) : Cluster :=
  { c with core := { c.core with dma := withBuf c.core.dma i (answeredBuf word poison) } }

/-- The partition of a phase that one request asked for, answered. -/
def answeredPart (x : UpdPhase) (w l i : Nat) (words : List Nat) (poison : Bool) (q : Partition) : Partition :=
  { q with
    upd := { q.upd with
             queue := q.upd.queue.drop 1,
             answers := q.upd.answers ++ [{ phase := x.phase, group := x.group, words := words, poison := poison }] },
    clusters := updAt q.clusters l (answeredCluster i (nth words w) poison) }

/-- The end of a phase that one request asked for is a matter of its partition. -/
theorem endPhase_eq (s : State) (p : Nat) {x : UpdPhase} {w l i : Nat} (hw : x.waiters = [(w, l, i)]) (words : List Nat) (poison : Bool) :
    endPhase s p x words poison = withPart s p (answeredPart x w l i words poison) := by
  unfold endPhase
  rw [hw, List.foldl_cons, List.foldl_nil]
  unfold giveAnswer answerBuf withDma withUpd
  exact withPart_withPart ..

/-- A buffer in use is one of its list. -/
theorem lt_of_busy {bufs : List Buffer} {i : Nat} (h : (bufs.getD i bufferFree).kind ≠ .free) : i < bufs.length := by
  by_contra hi
  rw [List.getD_eq_default _ _ (Nat.not_lt.1 hi)] at h
  exact h rfl

/-- A cluster of which a buffer is in use is one of its list. -/
theorem lt_of_busy_cluster {cs : List Cluster} {l i : Nat}
    (h : ((cs.getD l clusterReset).core.dma.bufs.getD i bufferFree).kind ≠ .free) : l < cs.length := by
  by_contra hl
  rw [List.getD_eq_default _ _ (Nat.not_lt.1 hl)] at h
  change ((List.replicate 64 bufferFree).getD i bufferFree).kind ≠ .free at h
  have hi : i < 64 := by simpa using lt_of_busy h
  rw [List.getD_replicate _ hi] at h
  exact h rfl

/-- What the answer of a phase leaves and what it changes. -/
theorem phaseAnswered_of_part {s t : State} {p w l i : Nat} {x : UpdPhase} {words : List Nat} {poison : Bool} {q : Partition}
    (hpart : part t p = answeredPart x w l i words poison q) (hupd : q.upd = (part s p).upd) (hclusters : q.clusters = (part s p).clusters) :
    phaseAnswered s t p x.phase x.group w l i words poison := by
  unfold phaseAnswered
  rw [hpart]
  refine ⟨congrArg (fun u => u.queue.drop 1) hupd, congrArg (fun u => u.answers ++ _) hupd, ?_⟩
  rintro ⟨hkind, hpresent, hfetched⟩
  unfold answeredPart
  simp only [hclusters]
  generalize (part s p).clusters = cs at hkind hpresent hfetched ⊢
  have hbusy : ((cs.getD l clusterReset).core.dma.bufs.getD i bufferFree).kind ≠ .free := by
    rw [hkind]
    decide
  have hl : l < cs.length := lt_of_busy_cluster hbusy
  have hi : i < (cs.getD l clusterReset).core.dma.bufs.length := lt_of_busy hbusy
  rw [updAt_getD, if_pos ⟨rfl, hl⟩]
  unfold answeredCluster withBuf answeredBuf
  simp only []
  rw [updAt_getD, if_pos ⟨rfl, hi⟩, if_pos (by simp only [hkind, hpresent, hfetched]; rfl)] <;> rfl

/-! ## The state digest -/

theorem rangesBad_clean {s : State} (h : tierClean s = true) (p : Nat) (l : List (Nat × Nat)) : rangesBad s p l = 0 := by
  unfold rangesBad
  have hzero : l.map (fun r => (hbmBad s p r.1 r.2).length) = List.replicate l.length 0 :=
    List.map_eq_replicate_iff.2 fun r _ => by rw [hbmBad, if_pos h]; rfl
  rw [hzero, ← List.sum_eq_foldl, List.sum_replicate, nsmul_zero]

theorem stateDigest_clean {s : State} (h : tierClean s = true) (p : Nat) : (stateDigest s p).2 = 0 := rangesBad_clean h ..

theorem runVerdict_clean {s : State} (h : tierClean s = true) (p : Nat) : (runVerdict s p).2 = 0 := by
  unfold runVerdict
  split
  · rfl
  · exact rangesBad_clean h ..

theorem countPoisonRead_zero (s : State) (p : Nat) : countPoisonRead s p 0 = s := rfl

/-- A change of a partition that leaves its slice, its sequencer and the clusters' SRAM leaves them in the module. -/
theorem hbmStands_withPart {s : State} {p : Nat} (hp : p < s.parts.length) {f : Partition → Partition}
    (hhbm : (f (part s p)).hbm = (part s p).hbm) (hseq : (f (part s p)).seq = (part s p).seq)
    (hsram : (f (part s p)).clusters.map (·.sram) = (part s p).clusters.map (·.sram)) : hbmStands s (withPart s p f) p := by
  unfold hbmStands
  rw [part_withPart _ _ _ hp]
  exact ⟨hhbm, hseq, hsram, fun k _ hk => part_withPart_ne s p k f hk.symm⟩

theorem sram_answeredCluster (cs : List Cluster) (l i word : Nat) (poison : Bool) :
    (updAt cs l (answeredCluster i word poison)).map (·.sram) = cs.map (·.sram) := by
  induction cs generalizing l with
  | nil => rfl
  | cons c cs ih =>
    cases l with
    | zero => rfl
    | succ l => exact congrArg (c.sram :: ·) (ih l)

/-- STATE_DIGEST of a phase that waits (15, R513, R515). -/
theorem doDigest_eq {s : State} {p w l i : Nat} (hclean : tierClean s = true) (h : phaseWaits (part s p) 2 64 w l i) :
    ∃ x : UpdPhase, x.phase = 2 ∧ x.group = 64 ∧ doDigest s p = withPart s p (fun q =>
      answeredPart x w l i (stateDigest s p).1 false
        { q with se := { q.se with digest := some ((stateDigest s p).1.map (BitVec.ofNat 64), false) } }) := by
  obtain ⟨x, hx, hphase, hgroup, hw⟩ := phaseIs_of_waits h
  refine ⟨x, hphase, hgroup, ?_⟩
  unfold doDigest
  rw [hx]
  simp only
  rw [stateDigest_clean hclean, countPoisonRead_zero, endPhase_eq _ _ hw, withSe, withPart_withPart]
  rfl

/-! ## The verdict -/

/-- VERDICT of a phase that waits (15, R515, R516). -/
theorem doVerdict_eq {s : State} {p w l i : Nat} (hclean : tierClean s = true) (h : phaseWaits (part s p) 3 64 w l i) :
    ∃ x : UpdPhase, x.phase = 3 ∧ x.group = 64 ∧
      let v := (runVerdict s p).1
      let t := withPart s p (fun q => answeredPart x w l i [v] false
        { q with se := { q.se with verdict := some (BitVec.ofNat 64 v, false), lastVerdict := BitVec.ofNat 64 v } })
      doVerdict s p = if bits v 40 8 = 1 then endAtBoundary t p 4 0x05B4 else if bits v 40 8 = 2 then endAtBoundary t p 4 0x05B5 else t := by
  obtain ⟨x, hx, hphase, hgroup, hw⟩ := phaseIs_of_waits h
  refine ⟨x, hphase, hgroup, ?_⟩
  unfold doVerdict
  rw [hx]
  simp only
  rw [runVerdict_clean hclean, countPoisonRead_zero, endPhase_eq _ _ hw, withSe, withPart_withPart]
  rfl

theorem bits_updWord {outcome norm : Nat} (ho : outcome < 256) (hn : norm < 2 ^ 40) (status : Nat) :
    bits (updWord status outcome norm) 40 8 = outcome ∧ bits (updWord status outcome norm) 32 8 = norm / 2 ^ 32 := by
  unfold bits updWord
  omega

theorem countTrue_eq (l : List Bool) : countTrue l = l.countP id := by
  unfold countTrue
  have hfold : ∀ n, l.foldl (fun n b => if b then n + 1 else n) n = n + l.countP id := by
    induction l with
    | nil => exact fun n => rfl
    | cons b l ih =>
      intro n
      rw [List.foldl_cons, ih, List.countP_cons]
      cases b <;> simp
      omega
  rw [hfold, Nat.zero_add]

/-- The greatest of some numbers is one of them, unless it is the one that the search begins with. -/
theorem foldl_max_mem (l : List Nat) (n : Nat) : l.foldl max n = n ∨ l.foldl max n ∈ l := by
  induction l generalizing n with
  | nil => exact .inl rfl
  | cons a l ih =>
    rw [List.foldl_cons]
    rcases ih (max n a) with h | h
    · rcases Nat.le_total n a with ha | ha
      · exact .inr (by rw [h, Nat.max_eq_right ha]; exact List.mem_cons_self)
      · exact .inl (by rw [h, Nat.max_eq_left ha])
    · exact .inr (List.mem_cons_of_mem _ h)

/-- Fewer than all are other than the greatest. -/
theorem countTrue_ne_max_lt {l : List Nat} (h : 0 < l.foldl max 0) : countTrue (l.map (fun v => v != l.foldl max 0)) < l.length := by
  rw [countTrue_eq, List.countP_map]
  have hmem : l.foldl max 0 ∈ l := (foldl_max_mem l 0).resolve_left (Nat.ne_of_gt h)
  refine lt_of_le_of_ne List.countP_le_length fun hall => ?_
  have hne := List.countP_eq_length.1 hall _ hmem
  simp at hne

theorem replTable_nrep {s : State} {p : Nat} {t : ReplTable} (h : replTable s p = some t) : t.nrep ≤ 16 := by
  unfold replTable at h
  simp only at h
  split at h
  · cases h
  · rename_i hbounds
    split at h
    · cases h
    · cases h
      simp only [Bool.or_eq_true, decide_eq_true_eq, not_or, Nat.not_lt] at hbounds
      obtain ⟨⟨⟨⟨⟨-, hnrep⟩, -⟩, -⟩, -⟩, -⟩ := hbounds
      exact hnrep

/-- A verdict word says ODD with the number of the replicas that stand alone, fewer than sixteen (15, R514, R516). -/
theorem runVerdict_odd {s : State} {p : Nat} {t : ReplTable} (ht : replTable s p = some t) (hodd : bits (runVerdict s p).1 40 8 = 1) :
    0 < bits (runVerdict s p).1 32 8 ∧ bits (runVerdict s p).1 32 8 < 16 := by
  have hnrep := replTable_nrep ht
  unfold runVerdict at hodd ⊢
  rw [ht] at hodd ⊢
  simp only at hodd ⊢
  generalize hds : (List.range t.nrep).map (replicaDigest s p t) = ds at hodd ⊢
  generalize hvotes : ds.map (fun d => (ds.filter (fun x => x = d)).length) = votes at hodd ⊢
  have hlen : votes.length = t.nrep := by rw [← hvotes, ← hds, List.length_map, List.length_map, List.length_range]
  split at hodd
  · rw [(bits_updWord (by decide) (by decide) 0).1] at hodd
    cases hodd
  next hone =>
  split at hodd
  · rw [(bits_updWord (by decide) (by decide) 0).1] at hodd
    cases hodd
  next hmost =>
  split at hodd
  · rw [(bits_updWord (by decide) (by decide) 0).1] at hodd
    cases hodd
  next hout =>
  have hlt := countTrue_ne_max_lt (l := votes) (by omega)
  have hidx : (votes.findIdx? (fun v => v != votes.foldl max 0)).getD 0 ≤ votes.length := by
    cases hfind : votes.findIdx? (fun v => v != votes.foldl max 0) with
    | none => exact Nat.zero_le _
    | some j => exact (List.findIdx?_eq_some_iff_findIdx_eq.1 hfind).1.le
  rw [if_neg hone, if_neg hmost, if_neg hout, (bits_updWord (by decide) (by omega) 0).2]
  omega

/-- The request for an end that a verdict leaves: an earlier one stands, ODD and SPLIT ask for one (15, R517; 17, R571). -/
def verdictEnd (v : Nat) (r : Option (Nat × Nat)) : Option (Nat × Nat) :=
  if r.isSome then r else if bits v 40 8 = 1 then some (4, 0x05B4) else if bits v 40 8 = 2 then some (4, 0x05B5) else none

/-- A partition with its verdict. -/
def judgedPart (v : Nat) (q : Partition) : Partition :=
  { q with
    se := { q.se with verdict := some (BitVec.ofNat 64 v, false), lastVerdict := BitVec.ofNat 64 v },
    endReq := verdictEnd v q.endReq }

/-- VERDICT of a phase that waits is a matter of its partition (15, R515 to R517). -/
theorem doVerdict_withPart {s : State} {p w l i : Nat} (hclean : tierClean s = true) (h : phaseWaits (part s p) 3 64 w l i) :
    ∃ x : UpdPhase, x.phase = 3 ∧ x.group = 64 ∧ doVerdict s p =
      withPart s p (fun q => answeredPart x w l i [(runVerdict s p).1] false (judgedPart (runVerdict s p).1 q)) := by
  have hactive : jobActive (part s p) = true := jobActive_of_running h.1
  obtain ⟨x, hphase, hgroup, hdo⟩ := doVerdict_eq hclean h
  refine ⟨x, hphase, hgroup, hdo.trans ?_⟩
  generalize (runVerdict s p).1 = v
  have hend : ∀ status f, jobActive (f (part s p)) = true →
      endAtBoundary (withPart s p f) p 4 status =
        withPart s p (fun q => { f q with endReq := if (f q).endReq.isSome then (f q).endReq else some (4, status) }) := by
    intro status f hf
    unfold endAtBoundary
    rw [withPart_withPart]
    refine withPart_congr _ _ _ _ ?_
    rw [hf]
    cases hreq : (f (part s p)).endReq with
    | none => rfl
    | some r => exact congrArg (fun e => { f (part s p) with endReq := e }) hreq
  unfold judgedPart verdictEnd
  split
  · rename_i hodd
    rw [hend _ _ hactive]
    rfl
  · split
    · rw [hend _ _ hactive]
      rfl
    · refine withPart_congr _ _ _ _ ?_
      cases hreq : (part s p).endReq <;> (unfold answeredPart; simp)

/-! ## A mismatch of an update engine -/

theorem ofNat_two_pow_die (die : BitVec 2) : BitVec.ofNat 4 (2 ^ die.toNat) = 1 <<< die.toNat := by
  revert die
  decide

/-- A score that reaches the warning level of its unit for the first time, below the failure level, is kept (15, R502, R503). -/
theorem addHealth_warns {s : State} {u : EvSrc} {w warn decay fail : Nat} (hlev : healthLevels u.unit = some (warn, some fail, decay))
    (hwarn : warn ≤ (satInc (healthOf s u).score w).toNat) (hfail : (satInc (healthOf s u).score w).toNat < fail)
    (hfirst : (healthOf s u).warned = false) :
    (addHealth s u w).2 = false ∧ (addHealth s u w).1.faults.health =
      (setHealth s { healthOf s u with score := satInc (healthOf s u).score w, warned := true }).faults.health := by
  have hevent : ∀ t src p code detail, (sendEvent t src p code detail).faults.health = t.faults.health := fun t src p code detail =>
    of_inward (fun t => t.faults.health) (fun _ => rfl) (inward_sendEvent ..)
  unfold addHealth
  simp only [hlev, hfirst, decide_eq_true hwarn, decide_eq_false (Nat.not_le.2 hfail), Bool.not_false, Bool.and_true, Bool.false_and,
    Bool.or_true, Bool.or_false, if_true, Bool.false_eq_true, if_false]
  exact ⟨trivial, hevent ..⟩

/-- The first mismatch of an engine where no unit has a score reaches the warning level alone (15, R502, R503). -/
theorem addHealth_engine {s : State} (hhealth : s.faults.health = []) (die : Nat) :
    (addHealth s (srcEngine die) 256).2 = false ∧ (addHealth s (srcEngine die) 256).1.parts = s.parts.map askCut ∧
      (healthOf (addHealth s (srcEngine die) 256).1 (srcEngine die)).score = 256 := by
  have hzero := healthOf_of_no_scores hhealth (srcEngine die)
  have hsum : satInc (healthOf s (srcEngine die)).score 256 = 256 := by rw [hzero]; rfl
  obtain ⟨hnofail, hkept⟩ := addHealth_warns (s := s) (u := srcEngine die) (w := 256) (warn := 256) (fail := 1024) (decay := 1) rfl
    (by rw [hsum]; decide) (by rw [hsum]; decide) (by rw [hzero])
  refine ⟨hnofail, addHealth_parts_of_warn (warn := 256) (fail := some 1024) (decay := 1) rfl (by rw [hsum]; decide) (by rw [hzero]), ?_⟩
  rw [healthOf_of_faults hkept, hsum, hzero]
  exact congrArg Health.score (healthOf_setHealth _ hhealth rfl rfl rfl (by simp))

/-- The module as an engine's mismatch is noted (15, R502, R505). -/
def engineNoted (s : State) (p die granule : Nat) : State :=
  withSe (addHealth (sendEvent s (srcEngine die) p 0x05B7 granule) (srcEngine die) 256).1 p
    (fun x => { x with engErrs := x.engErrs ++ [((part s p).seq.attempt, die, granule)] })

/-- A partition in which an engine's mismatch is noted (15, R503, R505). -/
def mismatchedPart (die granule : Nat) (q : Partition) : Partition :=
  { askCut q with se := { (askCut q).se with engErrs := q.se.engErrs ++ [(q.seq.attempt, die, granule)] } }

theorem no_scores_sendEvent {s : State} (h : s.faults.health = []) (src : EvSrc) (p code detail : Nat) :
    (sendEvent s src p code detail).faults.health = [] :=
  (of_inward (fun t => t.faults.health) (fun _ => rfl) (inward_sendEvent ..)).trans h

theorem healthOf_withSe (s : State) (p : Nat) (f : SeRegs → SeRegs) (u : EvSrc) : healthOf (withSe s p f) u = healthOf s u := rfl

theorem score_engineNoted {s : State} (hhealth : s.faults.health = []) (p die granule : Nat) :
    (healthOf (engineNoted s p die granule) (srcEngine die)).score = 256 := by
  obtain ⟨-, -, hscore⟩ := addHealth_engine (no_scores_sendEvent hhealth (srcEngine die) p 0x05B7 granule) die
  unfold engineNoted
  rw [healthOf_withSe, hscore]

theorem part_engineNoted {s : State} {p : Nat} (hp : p < s.parts.length) (hhealth : s.faults.health = []) (die granule : Nat) :
    part (engineNoted s p die granule) p = mismatchedPart die granule (part s p) := by
  obtain ⟨-, hparts, -⟩ := addHealth_engine (no_scores_sendEvent hhealth (srcEngine die) p 0x05B7 granule) die
  rw [sendEvent_parts] at hparts
  have hpart : part (addHealth (sendEvent s (srcEngine die) p 0x05B7 granule) (srcEngine die) 256).1 p = askCut (part s p) := by
    unfold part
    rw [hparts, List.getD_eq_getElem _ _ (by rwa [List.length_map]), List.getD_eq_getElem _ _ hp, List.getElem_map]
  have hse : (askCut (part s p)).se = (part s p).se := by
    unfold askCut
    split <;> rfl
  unfold engineNoted mismatchedPart
  rw [part_withSe (by rwa [hparts, List.length_map]), hpart, hse]

theorem replayable_mismatchedPart {q : Partition} (h : Replayable q) (die granule : Nat) : Replayable (mismatchedPart die granule q) := by
  unfold mismatchedPart askCut
  rw [if_pos (jobActive_of_running h.run)]
  exact ⟨h.run, h.asked, h.replaying, h.frozen, h.unreplayable, h.hj, h.room, h.attempt, h.root⟩

/-- Has the error of a granule been seen in another attempt of the step (15, R505). -/
def mismatchAgain (q : Partition) (die granule : Nat) : Bool :=
  q.se.engErrs.any (fun e => e.1 != q.seq.attempt && e.2.1 = die && e.2.2 = granule)

/-- The first mismatch of an engine asks for a replay (15, R489). -/
theorem engineMismatch_first {s : State} {p die granule : Nat} (hrun : (part s p).st = .running) (hhealth : s.faults.health = [])
    (hagain : mismatchAgain (part s p) die granule = false) :
    engineMismatch s p die granule = requestReplay (engineNoted s p die granule) p := by
  obtain ⟨hnofail, -, -⟩ := addHealth_engine (no_scores_sendEvent hhealth (srcEngine die) p 0x05B7 granule) die
  unfold mismatchAgain at hagain
  unfold engineMismatch
  simp only [hrun, hagain, hnofail, bne_self_eq_false, Bool.or_false, Bool.false_eq_true, if_false]
  rfl

/-- An engine that has failed is out of service, before any job ends by it (15, R503, R505). -/
def engineOut (s : State) (p die granule : Nat) : State :=
  let t := declareDown (engineNoted s p die granule) (srcEngine die)
  { t with faults := { t.faults with engines := t.faults.engines ||| BitVec.ofNat 4 (2 ^ die) } }

/-- A mismatch that has come before fails the engine, and every job ends (15, R505). -/
theorem engineMismatch_again {s : State} {p die granule : Nat} (hrun : (part s p).st = .running)
    (hagain : mismatchAgain (part s p) die granule = true) :
    engineMismatch s p die granule =
      (List.range 12).foldl (fun t k => faultEnd t (srcEngine die) k 0x05BD die) (engineOut s p die granule) := by
  unfold mismatchAgain at hagain
  unfold engineMismatch
  simp only [hrun, hagain, bne_self_eq_false, Bool.true_or, Bool.false_eq_true, if_false, if_true]
  unfold engineOut engineNoted
  rfl

theorem engines_sendEvent (s : State) (src : EvSrc) (p code detail : Nat) :
    (sendEvent s src p code detail).faults.engines = s.faults.engines :=
  of_inward (fun t => t.faults.engines) (fun _ => rfl) (inward_sendEvent ..)

theorem engines_addHealth (s : State) (u : EvSrc) (w : Nat) : (addHealth s u w).1.faults.engines = s.faults.engines :=
  addHealth_keeps (fun t => t.faults.engines) (fun _ _ => rfl) engines_sendEvent (fun _ _ => rfl) (fun _ => rfl) s u w

theorem engines_withSe (s : State) (p : Nat) (f : SeRegs → SeRegs) : (withSe s p f).faults.engines = s.faults.engines := rfl

theorem engines_engineNoted (s : State) (p die granule : Nat) : (engineNoted s p die granule).faults.engines = s.faults.engines := by
  unfold engineNoted
  rw [engines_withSe, engines_addHealth, engines_sendEvent]

theorem jobActive_withSe (s : State) (p k : Nat) (f : SeRegs → SeRegs) : jobActive (part (withSe s p f) k) = jobActive (part s k) := by
  unfold withSe part withPart
  rw [updAt_getD]
  split <;> rfl

theorem engines_engineOut (s : State) (p : Nat) (die : BitVec 2) (granule : Nat) :
    (engineOut s p die.toNat granule).faults.engines = s.faults.engines ||| 1 <<< die.toNat := by
  unfold engineOut
  dsimp only
  rw [declareDown_keeps (fun t => t.faults.engines) (fun _ _ _ => rfl), engines_engineNoted, ofNat_two_pow_die]

theorem part_engineOut (s : State) (p die granule k : Nat) : part (engineOut s p die granule) k = part (engineNoted s p die granule) k := by
  unfold engineOut part
  dsimp only
  rw [declareDown_parts]

theorem jobActive_engineOut (s : State) (p die granule k : Nat) :
    jobActive (part (engineOut s p die granule) k) = jobActive (part s k) := by
  rw [part_engineOut]
  unfold engineNoted
  rw [jobActive_withSe, jobActive_addHealth, part_sendEvent]

/-! ## The verdicts -/

/-- Settles O33: both phases are changes of their partition; an engine's mismatch asks for a replay, or ends the jobs one after another. -/
theorem verdicts : Obligations.Verdicts := by
  unfold Obligations.Verdicts
  refine ⟨fun s p w l i hp hlen hclean => ⟨fun hwaits => ?_, fun hwaits => ?_⟩,
    fun s p die granule hp hlen _ hhealth hrun => ⟨fun hagain hcan => ?_, fun hagain => ?_⟩⟩
  · have hlt : p < s.parts.length := hlen ▸ hp
    obtain ⟨x, hphase, hgroup, hdo⟩ := doDigest_eq hclean hwaits
    have hpart := part_withPart s p (fun q => answeredPart x w l i (stateDigest s p).1 false
      { q with se := { q.se with digest := some ((stateDigest s p).1.map (BitVec.ofNat 64), false) } }) hlt
    have hanswered := phaseAnswered_of_part hpart rfl rfl
    rw [hphase, hgroup] at hanswered
    refine ⟨_, (onUnit_of_true (decide_eq_true hp) _).trans (congrArg Host.Outcome.next hdo), hanswered,
      hbmStands_withPart hlt rfl rfl (sram_answeredCluster ..), ?_⟩
    rw [hpart]
    rfl
  · have hlt : p < s.parts.length := hlen ▸ hp
    obtain ⟨x, hphase, hgroup, hdo⟩ := doVerdict_withPart hclean hwaits
    have hpart := part_withPart s p (fun q => answeredPart x w l i [(runVerdict s p).1] false (judgedPart (runVerdict s p).1 q)) hlt
    have hanswered := phaseAnswered_of_part hpart rfl rfl
    rw [hphase, hgroup] at hanswered
    refine ⟨_, (onUnit_of_true (decide_eq_true hp) _).trans (congrArg Host.Outcome.next hdo), hanswered,
      hbmStands_withPart hlt rfl rfl (sram_answeredCluster ..), ?_, fun hnone => ?_, ?_, fun hsome c hodd hc => ?_⟩
    · rw [hpart]
      rfl
    · unfold runVerdict
      rw [hnone]
      rfl
    · rw [hpart]
      rfl
    · obtain ⟨t, ht⟩ := Option.ne_none_iff_exists'.1 hsome
      exact hc ▸ runVerdict_odd ht hodd
  · have hreplay := (canReplay_iff _).1 hcan
    have hpart := part_engineNoted (hlen ▸ hp) hhealth die.toNat granule.toNat
    have hnoted : Replayable (part (engineNoted s p die.toNat granule.toNat) p) := by
      rw [hpart]
      exact replayable_mismatchedPart hreplay ..
    have hafter := replayTaken_requestReplay hnoted
    have hask : askCut (part s p) = { part s p with ck := { (part s p).ck with pending := true } } :=
      if_pos (jobActive_of_running hrun)
    unfold mismatchedPart at hpart
    rw [hpart, hask] at hafter
    refine ⟨_, (onUnit_of_true (decide_eq_true hp) _).trans (congrArg Host.Outcome.next (engineMismatch_first hrun hhealth hagain)),
      ?_, ?_, ?_, ?_⟩
    · unfold replayTaken
      rw [hafter]
      exact ⟨rfl, hrun, rfl, rfl⟩
    · rw [of_inward (fun t => t.faults.engines) (fun _ => rfl) (inward_requestReplay hnoted), engines_withSe, engines_engineNoted]
    · rw [hafter]
    · rw [healthOf_requestReplay hnoted]
      exact score_engineNoted hhealth ..
  · have hends := fun (t : State) (k : Nat) => apart_faultEnd t (srcEngine die.toNat) k 0x05BD die.toNat
    refine ⟨_, (onUnit_of_true (decide_eq_true hp) _).trans (congrArg Host.Outcome.next (engineMismatch_again hrun hagain)), ?_,
      fun k hk hactive => ?_⟩
    · rw [foldl_of_apart hends (fun t => t.faults.engines) (fun _ _ => rfl), engines_engineOut]
    · obtain ⟨u, hu, hfold⟩ := part_foldl_of_mem hends List.nodup_range (List.mem_range.2 hk) (engineOut s p die.toNat granule.toNat)
      have hactive' : jobActive (part u k) = true := by rw [hu, jobActive_engineOut, hactive]
      rw [hfold, part_faultEnd hactive']
      exact ⟨rfl, rfl⟩

end Sys2Proof.Machine
end

section
/-! SUPPORT. The requests that Beryl serves, and O42 from them (14, R454, R456, R472 to R476, R480, R482, R484). -/

namespace Sys2Proof.Machine

/-! ## The context after an answer -/

theorem qpCtxAt_withQp {s : State} {c : Nat} (hc : c < s.beryl.ctxs.length) (f : QpCtx → QpCtx) :
    qpCtxAt (withQp s c f) c = f (qpCtxAt s c) := by
  unfold qpCtxAt withQp
  dsimp only
  rw [updAt_getD, if_pos ⟨rfl, hc⟩]

/-- A context whose request has been answered: the counts, the last status and the header (14, R484). -/
def countedCtx (run : QpRun) (d : List Byte) (x : QpCtx) : QpCtx :=
  { x with
    iters := satInc x.iters run.iters, reqs := satInc x.reqs 1, refacts := satInc x.refacts run.begun,
    deadlines := if run.status / 256 = 6 then satInc x.deadlines 1 else x.deadlines, last := BitVec.ofNat 16 run.status,
    header := BitVec.ofNat 512 (leNat (d.take 64)) }

theorem qpCtxAt_qpCount {s : State} {c : Nat} (hc : c < s.beryl.ctxs.length) (run : QpRun) (d : List Byte) :
    qpCtxAt (qpCount s c run d) c = countedCtx run d (qpCtxAt s c) := by
  unfold qpCount
  exact qpCtxAt_withQp hc _

theorem beryl_withDma (s : State) (p i : Nat) (f : DmaUnit → DmaUnit) : (withDma s p i f).beryl = s.beryl := rfl

/-- The answer of a cluster's request goes to its buffer alone. -/
theorem beryl_qpDeliver {r : QpReq} (h : (answerPlace r).isSome = true) (s : State) (d : List Byte) (poison : Bool) :
    (qpDeliver s r d poison).beryl = s.beryl := by
  unfold answerPlace at h
  unfold qpDeliver
  split at h
  · rename_i hkind
    rw [hkind]
    dsimp only
    split
    · rfl
    · exact beryl_withDma ..
  · cases h

/-- A partition of which a buffer is in use is one of the module's. -/
theorem lt_of_busy_part {s : State} {p i b : Nat}
    (h : (((part s p).clusters.getD i clusterReset).core.dma.bufs.getD b bufferFree).kind ≠ .free) : p < s.parts.length := by
  by_contra hp
  rw [part, List.getD_eq_default _ _ (Nat.not_lt.1 hp)] at h
  exact absurd (lt_of_busy_cluster h) (Nat.not_lt_zero _)

/-- An open SOLVE buffer that asked has the answer. -/
theorem fetched_qpDeliver {s : State} {r : QpReq} {p l b a n step i : Nat} (hkind : r.kind = .cluster p l b a n step)
    (hi : localOf s p l = some i) {x : Buffer} (hx : ((part s p).clusters.getD i clusterReset).core.dma.bufs.getD b bufferFree = x)
    (hopen : (x.kind = .solve && !x.present && x.fetched.isNone) = true) (d : List Byte) (poison : Bool) :
    (((part (qpDeliver s r d poison) p).clusters.getD i clusterReset).core.dma.bufs.getD b bufferFree).fetched =
      some (a, d.take n, poison) := by
  have hbusy : (((part s p).clusters.getD i clusterReset).core.dma.bufs.getD b bufferFree).kind ≠ .free := by
    rw [hx]
    intro hfree
    rw [hfree] at hopen
    exact absurd hopen (by simp)
  unfold qpDeliver
  rw [hkind]
  dsimp only
  rw [hi]
  dsimp only
  unfold withDma
  rw [part_withPart _ _ _ (lt_of_busy_part hbusy)]
  dsimp only
  rw [updAt_getD, if_pos ⟨rfl, lt_of_busy_cluster hbusy⟩]
  unfold withBuf
  dsimp only
  rw [updAt_getD, if_pos ⟨rfl, lt_of_busy hbusy⟩, hx, if_pos hopen]

/-- A request that leaves the front of its queue is answered: the counts, the header, and the buffer that asked. -/
theorem solverAnswered_count {s : State} {c : Nat} {r : QpReq} {run : QpRun} {d : List Byte} {f : QpCtx → QpCtx}
    (hc : c < s.beryl.ctxs.length) (hplace : (answerPlace r).isSome = true) (hd : leNat (d.take 2) = run.status)
    (hqueue : (f (qpCtxAt s c)).queue = (qpCtxAt s c).queue.drop 1) (hreqs : (f (qpCtxAt s c)).reqs = (qpCtxAt s c).reqs)
    (poison : Bool) :
    let t := qpDeliver (qpCount (withQp s c f) c run d) r d poison
    solverAnswered s t c r run.status d poison ∧ qpCtxAt t c = countedCtx run d (f (qpCtxAt s c)) := by
  intro t
  have hberyl : t.beryl = (qpCount (withQp s c f) c run d).beryl := beryl_qpDeliver hplace ..
  have hctx : qpCtxAt t c = countedCtx run d (f (qpCtxAt s c)) := by
    have hsame : qpCtxAt t c = qpCtxAt (qpCount (withQp s c f) c run d) c := by
      unfold qpCtxAt
      rw [hberyl]
    rw [hsame, qpCtxAt_qpCount (by unfold withQp; simpa using hc), qpCtxAt_withQp hc]
  refine ⟨?_, hctx⟩
  unfold solverAnswered
  rw [hctx]
  refine ⟨hqueue, congrArg (satInc · 1) hreqs, rfl, rfl, hd, ?_, ?_⟩
  · rw [hberyl]
    rfl
  · cases hkind : r.kind with
    | cluster p l b a n step =>
      unfold answerPlace
      rw [hkind]
      dsimp only [Option.all_some]
      cases hlocal : localOf s p l with
      | none => rfl
      | some i =>
        dsimp only
        cases hopen : ((((part s p).clusters.getD i clusterReset).core.dma.bufs.getD b bufferFree).kind = .solve &&
            !(((part s p).clusters.getD i clusterReset).core.dma.bufs.getD b bufferFree).present &&
            (((part s p).clusters.getD i clusterReset).core.dma.bufs.getD b bufferFree).fetched.isNone) with
        | false => rfl
        | true =>
          exact (Bool.false_or _).trans (decide_eq_true (fetched_qpDeliver (s := qpCount (withQp s c f) c run d) hkind hlocal rfl hopen d poison))
    | _ =>
      unfold answerPlace at hplace
      rw [hkind] at hplace
      cases hplace

/-! ## Statuses and iterations -/

theorem take_qpHeader (st iters refacts tag rp rd : Nat) (v : Option QpVals) :
    (qpHeader st iters refacts tag rp rd v).take 2 = leBytes 2 st := by
  unfold qpHeader
  simp only [List.append_assoc]
  exact List.take_left' (length_leBytes 2 st)

theorem leNat_take_of_bytes {d : List Byte} {st : Nat} (hst : st < 65536) (h : d.take 2 = leBytes 2 st) : leNat (d.take 2) = st := by
  rw [h, leNat_leBytes]
  exact Nat.mod_eq_of_lt hst

theorem take_qpAnswer (k : QpPacket) (run : QpRun) : (qpAnswer k run).take 2 = leBytes 2 run.status := by
  unfold qpAnswer
  split
  · exact take_qpHeader ..
  · rw [List.append_assoc]
    unfold qpHeader
    simp only [List.append_assoc]
    exact List.take_left' (length_leBytes 2 _)

/-- A check that ends a request ends it with one of the four statuses of 16 bits (14, R468). -/
theorem status_qpCheck (v : QpVals) (xs ys : List Nat) : ∀ st ∈ (qpCheck v xs ys).1, st < 65536 := by
  unfold qpCheck
  simp only
  repeat' split
  all_goals simp

/-- A run has a status of 16 bits and at most n iterations. -/
def runWithin (n : Nat) (run : QpRun) : Prop := run.status < 65536 ∧ run.iters ≤ n

theorem runWithin_qpEnd {n : Nat} {r : QpRun} (hr : r.iters ≤ n) {st : Nat} (hst : st < 65536) (cert : List Nat) :
    runWithin n (qpEnd r st cert) := ⟨hst, hr⟩

/-- The iterations that a request runs stay within its budget, and its status has 16 bits (14, R474, R475). -/
theorem runWithin_qpLoop (dl : WallAt) (left : Nat) {k : Nat} (xs ys : List Nat) {r : QpRun} (hr : r.iters ≤ k) :
    runWithin (k + left) (qpLoop dl left k xs ys r) := by
  induction left generalizing k xs ys r with
  | zero => exact runWithin_qpEnd hr (by decide) _
  | succ left ih =>
    have hnext : k + 1 + left = k + (left + 1) := by omega
    have hdone : k + 1 ≤ k + (left + 1) := by omega
    rw [qpLoop]
    dsimp only
    split
    · exact runWithin_qpEnd (le_trans hr (Nat.le_add_right ..)) (by decide) _
    · split
      · rename_i st hst
        refine runWithin_qpEnd hdone ?_ _
        split at hst
        · exact status_qpCheck _ _ _ _ hst
        · cases hst
      · split
        · exact runWithin_qpEnd hdone (by decide) _
        · split
          · exact runWithin_qpEnd hdone (by decide) _
          · split
            · rw [← hnext]
              exact ih _ _ (Nat.le_refl _)
            · split
              · exact runWithin_qpEnd hdone (by decide) _
              · split
                · exact runWithin_qpEnd hdone (by decide) _
                · rw [← hnext]
                  exact ih _ _ (Nat.le_refl _)

theorem runWithin_qpRunSolve (dl : WallAt) (budget : Nat) (v : QpVals) : runWithin budget (qpRunSolve dl budget v) := by
  have hloop : ∀ xs ys r, r.iters = 0 → runWithin budget (qpLoop dl budget 0 xs ys r) := fun xs ys r hr => by
    have h := runWithin_qpLoop dl budget (k := 0) xs ys (r := r) (le_of_eq hr)
    rwa [Nat.zero_add] at h
  unfold qpRunSolve
  dsimp only
  split
  · exact runWithin_qpEnd (Nat.zero_le _) (by decide) _
  · split
    · split
      · exact runWithin_qpEnd (Nat.zero_le _) (by decide) _
      · split
        · exact runWithin_qpEnd (Nat.zero_le _) (by decide) _
        · exact hloop _ _ _ rfl
    · exact hloop _ _ _ rfl

theorem status_qpRefusal (x : QpCtx) (r : QpReq) : ∀ st ∈ qpRefusal x r, st < 65536 := by
  unfold qpRefusal
  simp only
  repeat' split
  all_goals simp

/-! ## The request at the front -/

theorem qpFlush_of_empty {s : State} {c : Nat} (h : (qpCtxAt s c).queue = []) (fuel : Nat) : qpFlush fuel s c = s := by
  cases fuel with
  | zero => rfl
  | succ fuel =>
    unfold qpFlush
    dsimp only
    rw [h]
    rfl

theorem qpFront_of_queue {s : State} {c : Nat} {r : QpReq} (hqueue : (qpCtxAt s c).queue = [r]) {is : QpReq → Bool} (his : is r = true)
    (dl : WallAt) : qpFront s c is dl = qpServe s c r dl := by
  unfold qpFront
  rw [hqueue]
  dsimp only [List.head?_cons]
  rw [if_pos his]

/-- A context without the request at its front. -/
def poppedCtx (y : QpCtx) : QpCtx := { y with queue := y.queue.drop 1 }

section
variable {s : State} {c : Nat} {r : QpReq} (hc : c < s.beryl.ctxs.length) (hqueue : (qpCtxAt s c).queue = [r])
  (hplace : (answerPlace r).isSome = true)
include hc hqueue hplace

/-- Beryl refuses a request with a header alone (14, R473, R476). -/
theorem solverAnswered_qpRefuse {st : Nat} (hst : st < 65536) (poison : Bool) :
    let x := qpCtxAt s c
    let d := qpHeader st 0 0 (if r.poison then 0 else (qpPacket r.packet).tag) 0 0 (if x.enable then x.vals else none)
    let t := qpFlush 17 (qpRefuse (withQp s c poppedCtx) c r st poison) c
    solverAnswered s t c r st d poison ∧ (qpCtxAt t c).vals = x.vals := by
  intro x d t
  have hrefuse : qpRefuse (withQp s c poppedCtx) c r st poison = qpDeliver (qpCount (withQp s c poppedCtx) c (qpIdle qpEmpty st) d) r d poison := by
    unfold qpRefuse
    rw [qpCtxAt_withQp hc]
    rfl
  obtain ⟨hanswered, hctx⟩ := solverAnswered_count (d := d) (f := poppedCtx) (run := qpIdle qpEmpty st) hc hplace
    (leNat_take_of_bytes hst (take_qpHeader ..)) rfl rfl poison
  have hempty : (qpCtxAt (qpRefuse (withQp s c poppedCtx) c r st poison) c).queue = [] := by
    rw [hrefuse, hctx]
    exact congrArg (List.drop 1) hqueue
  have ht : t = qpDeliver (qpCount (withQp s c poppedCtx) c (qpIdle qpEmpty st) d) r d poison := by
    rw [← hrefuse]
    exact qpFlush_of_empty hempty 17
  rw [ht]
  refine ⟨hanswered, ?_⟩
  rw [hctx]
  rfl

/-- A context after a request that ran: the values, and the journal of a bound context (14, R474, R480). -/
def ranCtx (v : QpVals) (saved : Option (QpVals × List QpKey)) (y : QpCtx) : QpCtx :=
  { y with queue := y.queue.drop 1, vals := some v, saved := saved }

/-- Beryl answers a request that ran (14, R474, R476, R480, R484). -/
theorem solverAnswered_ran {run : QpRun} (hst : run.status < 65536) (v : QpVals) (saved : Option (QpVals × List QpKey)) :
    let d := qpAnswer (qpPacket r.packet) run
    let t := qpFlush 17 (qpDeliver (qpCount (withQp s c (ranCtx v saved)) c run d) r d false) c
    solverAnswered s t c r run.status d false ∧ qpCtxAt t c = countedCtx run d (ranCtx v saved (qpCtxAt s c)) := by
  intro d t
  obtain ⟨hanswered, hctx⟩ := solverAnswered_count (f := ranCtx v saved) hc hplace (leNat_take_of_bytes hst (take_qpAnswer ..)) rfl rfl false
  have ht : t = qpDeliver (qpCount (withQp s c (ranCtx v saved)) c run d) r d false := by
    refine qpFlush_of_empty ?_ 17
    rw [hctx]
    exact congrArg (List.drop 1) hqueue
  rw [ht]
  exact ⟨hanswered, hctx⟩

end

/-- What a request runs (14, R474, R475). -/
def servedRun (r : QpReq) (v : QpVals) (dl : WallAt) : QpRun :=
  let k := qpPacket r.packet
  if k.op = 2 then qpIdle (qpEntries v k) 0 else qpRunSolve (if r.wall then dl else .never) k.budget (qpEntries v k)

theorem servedRun_status (r : QpReq) (v : QpVals) (dl : WallAt) : (servedRun r v dl).status < 65536 := by
  unfold servedRun
  dsimp only
  split
  · exact Nat.zero_lt_succ _
  · exact (runWithin_qpRunSolve ..).1

/-- Values at the first change of the step, and the journal records used. -/
def journalOf (x : QpCtx) (v : QpVals) : QpVals × List QpKey := match x.saved with | some e => e | none => (v, [])

/-- The journal after a request that ran (14, R480). -/
def savedAfter (s : State) (c : Nat) (r : QpReq) (v w : QpVals) : Option (QpVals × List QpKey) :=
  let x := qpCtxAt s c
  let old := journalOf x v
  if ctxBoundNow s x then some (old.1, qpMerge old.2 (qpKeys (qpPacket r.packet) v w)) else none

theorem length_qpMerge_le (l new : List QpKey) : (qpMerge l new).length ≤ l.length + new.length := by
  unfold qpMerge
  induction new generalizing l with
  | nil => exact Nat.le_refl _
  | cons k new ih =>
    rw [List.foldl_cons, List.length_cons]
    refine (ih _).trans ?_
    split
    · omega
    · rw [List.length_append, List.length_singleton]
      omega

theorem withQp_withQp (s : State) (c : Nat) (f g : QpCtx → QpCtx) : withQp (withQp s c f) c g = withQp s c (fun y => g (f y)) := by
  unfold withQp
  dsimp only
  rw [updAt_updAt]

theorem qpServe_poisoned {s : State} {c : Nat} {r : QpReq} (hpoison : (qpCtxAt s c).poisoned = true) (dl : WallAt) :
    qpServe s c r dl = qpFlush 17 (qpRefuse (withQp s c poppedCtx) c r 0x05A0 true) c := by
  unfold qpServe
  dsimp only
  rw [hpoison]
  rfl

section
variable {s : State} {c : Nat} {r : QpReq} {v : QpVals} (hpoison : (qpCtxAt s c).poisoned = false)
include hpoison

theorem qpServe_refused {st : Nat} (hrefused : qpRefusal (qpCtxAt s c) r = some st) (dl : WallAt) :
    qpServe s c r dl = qpFlush 17 (qpRefuse (withQp s c poppedCtx) c r st r.poison) c := by
  unfold qpServe
  dsimp only
  rw [hpoison, hrefused]
  rfl

/-- A request that nothing refuses runs where the journal holds its changes (14, R474, R480). -/
theorem qpServe_ran (hrefused : qpRefusal (qpCtxAt s c) r = none) (hvals : (qpCtxAt s c).vals = some v) {dl : WallAt} {run : QpRun}
    (hrun : run = servedRun r v dl)
    (hroom : (qpKeys (qpPacket r.packet) v run.vals).length + (journalOf (qpCtxAt s c) v).2.length ≤ 65536) :
    qpServe s c r dl = qpFlush 17 (qpDeliver (qpCount (withQp s c (ranCtx run.vals (savedAfter s c r v run.vals))) c run
      (qpAnswer (qpPacket r.packet) run)) r (qpAnswer (qpPacket r.packet) run) false) c := by
  have hfits : (qpMerge (journalOf (qpCtxAt s c) v).2 (qpKeys (qpPacket r.packet) v run.vals)).length ≤ 65536 :=
    (length_qpMerge_le ..).trans (by rwa [Nat.add_comm])
  have hfull : decide (65536 < (qpMerge (journalOf (qpCtxAt s c) v).2 (qpKeys (qpPacket r.packet) v run.vals)).length) = false :=
    decide_eq_false (Nat.not_lt.2 hfits)
  have hkept : ¬ (ctxBoundNow s (qpCtxAt s c) &&
      decide (65536 < (qpMerge (journalOf (qpCtxAt s c) v).2 (qpKeys (qpPacket r.packet) v run.vals)).length)) = true := by
    rw [hfull, Bool.and_false]
    exact Bool.false_ne_true
  unfold servedRun at hrun
  dsimp only at hrun
  unfold qpServe
  dsimp only
  rw [hpoison, hrefused, hvals]
  dsimp only
  rw [← hrun]
  refine congrArg (qpFlush 17 · c) ((if_neg Bool.false_ne_true).trans ((if_neg hkept).trans ?_))
  rw [withQp_withQp]
  rfl

end

/-- A request that nothing refuses is answered with what it ran. -/
theorem solverAnswered_qpServe {s : State} {c : Nat} {r : QpReq} {v : QpVals} {dl : WallAt} {run : QpRun} (hc : c < s.beryl.ctxs.length)
    (hqueue : (qpCtxAt s c).queue = [r]) (hplace : (answerPlace r).isSome = true) (hpoison : (qpCtxAt s c).poisoned = false)
    (hrefused : qpRefusal (qpCtxAt s c) r = none) (hvals : (qpCtxAt s c).vals = some v) (hrun : run = servedRun r v dl)
    (hroom : (qpKeys (qpPacket r.packet) v run.vals).length + (journalOf (qpCtxAt s c) v).2.length ≤ 65536) :
    let d := qpAnswer (qpPacket r.packet) run
    solverAnswered s (qpServe s c r dl) c r run.status d false ∧
      qpCtxAt (qpServe s c r dl) c = countedCtx run d (ranCtx run.vals (savedAfter s c r v run.vals) (qpCtxAt s c)) := by
  rw [qpServe_ran hpoison hrefused hvals hrun hroom]
  exact solverAnswered_ran hc hqueue hplace (hrun ▸ servedRun_status ..) ..

theorem map_savedAfter (s : State) (c : Nat) (r : QpReq) (v w : QpVals) :
    (savedAfter s c r v w).map (·.1) = if ctxBoundNow s (qpCtxAt s c) then some (journalOf (qpCtxAt s c) v).1 else none := by
  unfold savedAfter
  dsimp only
  split <;> rfl

/-- The journal before a request, as the claims spell it. -/
theorem journalOf_eq (x : QpCtx) (v : QpVals) :
    (match x.saved with | some e => e.1 | none => v) = (journalOf x v).1 ∧
      (match x.saved with | some e => e.2.length | none => 0) = (journalOf x v).2.length := by
  unfold journalOf
  cases x.saved <;> exact ⟨rfl, rfl⟩

/-! ## The solver -/

/-- Settles O42: each request is served by its own rule, and the bounds on what a run gives fit its header. -/
theorem solver : Obligations.Solver := by
  unfold Obligations.Solver
  refine ⟨fun s c r hqueue hlen hplace => ?_, fun s c r v hqueue hlen hplace => ?_, fun s c r v d hqueue hlen hplace hwall => ?_⟩
  all_goals have hc : c.toNat < s.beryl.ctxs.length := hlen ▸ c.isLt
  · intro x k i tag plain
    have hexec : exec i s = .next (qpServe s c.toNat r .never) := by
      by_cases hop : k.op = 2
      · have happly : isApply r = true := decide_eq_true hop
        simp only [i, if_pos hop]
        exact congrArg Host.Outcome.next (qpFront_of_queue hqueue happly _)
      · have hsolve : (!isApply r) = true := by
          rw [show isApply r = false from decide_eq_false hop]
          rfl
        simp only [i, if_neg hop]
        exact congrArg Host.Outcome.next (qpFront_of_queue hqueue hsolve _)
    refine ⟨fun hpoison => ?_, fun st hpoison hrefused => ?_⟩
    · obtain ⟨hanswered, hvals⟩ := solverAnswered_qpRefuse hc hqueue hplace (st := 0x05A0) (by decide) true
      exact ⟨_, hexec.trans (congrArg Host.Outcome.next (qpServe_poisoned hpoison .never)), hanswered, hvals⟩
    · obtain ⟨hanswered, hvals⟩ := solverAnswered_qpRefuse hc hqueue hplace (status_qpRefusal _ _ _ hrefused) r.poison
      exact ⟨_, hexec.trans (congrArg Host.Outcome.next (qpServe_refused hpoison hrefused .never)), hanswered, hvals⟩
  · intro x k w run journal old hpoison hrefused hvals
    have hold : old = (journalOf x v).2.length := (journalOf_eq x v).2
    have hjournal : ∀ u, (savedAfter s c.toNat r v u).map (·.1) = journal := fun u =>
      (map_savedAfter ..).trans (congrArg (fun j => if ctxBoundNow s x then some j else none) (journalOf_eq x v).1.symm)
    refine ⟨fun hop hroom => ?_, fun hop hwall hroom => ?_⟩
    · have happly : isApply r = true := decide_eq_true hop
      have hrun : qpIdle w 0 = servedRun r v .never := (if_pos hop).symm
      obtain ⟨hanswered, hctx⟩ := solverAnswered_qpServe hc hqueue hplace hpoison hrefused hvals hrun (hold ▸ hroom)
      refine ⟨_, congrArg Host.Outcome.next (qpFront_of_queue hqueue happly _), ?_, hanswered, ?_⟩
      · rw [hctx]
        rfl
      · rw [hctx]
        exact hjournal _
    · have hop' : ¬ k.op = 2 := by omega
      have hsolve : (!isApply r) = true := by
        rw [show isApply r = false from decide_eq_false hop']
        rfl
      have hrun : run = servedRun r v .never := by
        unfold servedRun
        dsimp only
        rw [if_neg hop', hwall]
        rfl
      obtain ⟨hanswered, hctx⟩ := solverAnswered_qpServe hc hqueue hplace hpoison hrefused hvals hrun (hold ▸ hroom)
      refine ⟨_, congrArg Host.Outcome.next (qpFront_of_queue hqueue hsolve _), ?_, (runWithin_qpRunSolve ..).2, hanswered, ?_, ?_⟩
      · rw [hctx]
        rfl
      · rw [hctx]
        exact hjournal _
      · rw [hctx]
        rfl
  · intro x k run hpoison hrefused hvals hop hroom
    have hop' : ¬ k.op = 2 := by omega
    have hrun : run = servedRun r v d := by
      unfold servedRun
      dsimp only
      rw [if_neg hop', hwall]
      rfl
    have hroom' := le_of_eq_of_le (congrArg ((qpKeys k v run.vals).length + ·) (journalOf_eq x v).2.symm) hroom
    obtain ⟨hanswered, hctx⟩ := solverAnswered_qpServe hc hqueue hplace hpoison hrefused hvals hrun hroom'
    refine ⟨_, congrArg Host.Outcome.next (qpFront_of_queue hqueue hwall d), hanswered, ?_, ?_⟩
    · rw [hctx]
      rfl
    · rw [hctx]
      rfl

end Sys2Proof.Machine
end

section
/-! SUPPORT. What no command but the completion of one changes at a function: its ring, its mailbox and what waits there; and what firmware
looks at before it takes a command up (17, R566; 20, R654). -/

namespace Sys2Proof.Machine

/-- The ring, the mailbox and the waiting commands of a function. -/
def fnRing (f : Fn) : Word32 × Word32 × Word32 × Bool × List CmdWait := (f.cmdSize, f.cmdTail, f.cmdHead, f.mboxGo, f.waits)

/-- What firmware looks at before it takes a command up, and each function's ring, mailbox and waiting commands. -/
def ringView (s : State) : (Bool × BootSt × Bool × Bool) × List (Word32 × Word32 × Word32 × Bool × List CmdWait) :=
  ((s.supplies.mainOn, s.boot.st, s.boot.byFw, s.host.up), s.host.fns.map fnRing)

theorem ringView_withPart (s : State) (p : Nat) (f : Partition → Partition) : ringView (withPart s p f) = ringView s := rfl

/-- Changes of a function that give it the same ring, mailbox and waiting commands. -/
theorem ringView_withFn_congr (s : State) (k : Nat) {f g : Fn → Fn} (h : ∀ x, fnRing (f x) = fnRing (g x)) :
    ringView (withFn s k f) = ringView (withFn s k g) := by
  have hmap : ∀ (l : List Fn) n, (updAt l n f).map fnRing = (updAt l n g).map fnRing := by
    intro l
    induction l with
    | nil => exact fun _ => rfl
    | cons x l ih =>
      intro n
      cases n with
      | zero => exact congrArg (· :: l.map fnRing) (h x)
      | succ n => exact congrArg (fnRing x :: ·) (ih n)
  exact congrArg (Prod.mk _) (hmap s.host.fns k)

theorem withFn_id (s : State) (k : Nat) : withFn s k (fun x => x) = s := by
  unfold withFn
  rw [updAt_id]

theorem ringView_withFn (s : State) (k : Nat) {f : Fn → Fn} (h : ∀ x, fnRing (f x) = fnRing x) : ringView (withFn s k f) = ringView s := by
  rw [ringView_withFn_congr s k (g := fun x => x) h, withFn_id]

/-! ## Events and the host's memory -/

theorem ringView_hostWrite (s : State) (a : Nat) (d : List Byte) : ringView (hostWrite s a d) = ringView s := rfl
theorem ringView_holdWrite (s : State) (w : HostWrite) : ringView (holdWrite s w) = ringView s := rfl

theorem ringView_toHost (s : State) (a : Nat) (d : List Byte) : ringView (toHost s a d) = ringView s := proj_ite ringView rfl rfl

theorem ringView_raiseVector (s : State) (k v : Nat) : ringView (raiseVector s k v) = ringView s :=
  proj_ite ringView (ringView_withFn s k fun _ => rfl) rfl

theorem ringView_ringEvent (k : Nat) (e : EvRec) (s : State) : ringView (ringEvent k e s) = ringView s := by
  unfold ringEvent
  simp only
  refine proj_ite ringView (ringView_withFn s k fun _ => rfl) ?_
  rw [ringView_raiseVector, ringView_hostWrite]
  exact ringView_withFn s k fun _ => rfl

theorem ringView_hostEvent (s : State) (e : EvRec) : ringView (hostEvent s e) = ringView s :=
  foldl_keeps ringView _ _ s fun t k => proj_ite ringView (ringView_ringEvent k e t) rfl

theorem ringView_mgmtEvent (s : State) (e : EvRec) : ringView (mgmtEvent s e) = ringView s :=
  proj_ite ringView rfl (proj_ite ringView rfl rfl)

theorem ringView_lifeEvent (s : State) (e : EvRec) : ringView (lifeEvent s e) = ringView s := proj_ite ringView rfl rfl

theorem ringView_sendEvent (s : State) (src : EvSrc) (p code detail : Nat) : ringView (sendEvent s src p code detail) = ringView s := by
  unfold sendEvent
  rw [ringView_lifeEvent, ringView_mgmtEvent]
  exact proj_ite ringView (ringView_hostEvent ..) rfl

/-! ## Memory and ports -/

theorem ringView_storeSeg (s : State) (p : Nat) (seg : Nat × Nat × List Byte) : ringView (storeSeg s p seg) = ringView s := by
  unfold storeSeg
  simp only
  refine proj_ite ringView rfl (proj_ite ringView (proj_ite ringView (ringView_sendEvent ..) rfl)
    (proj_ite ringView rfl (proj_ite ringView rfl ?_)))
  exact foldl_keeps ringView _ _ _ fun u k => proj_ite ringView rfl rfl

theorem ringView_journalHbm (s : State) (p line : Nat) : ringView (journalHbm s p line) = ringView s := by
  unfold journalHbm
  exact ringView_withPart ..

theorem ringView_hbmStore (k : WKind) (s : State) (p off : Nat) (d : List Byte) : ringView (hbmStore k s p off d) = ringView s := by
  unfold hbmStore
  refine foldl_keeps ringView _ _ s fun t seg => ?_
  simp only
  rw [ringView_storeSeg, ringView_withPart]
  exact proj_ite ringView (ringView_journalHbm ..) rfl

theorem ringView_zeroSlice (s : State) (p : Nat) : ringView (zeroSlice s p) = ringView s := rfl

theorem ringView_routeAs (s : State) (p r epoch : Nat) (f : Flit) : ringView (routeAs s p r epoch f) = ringView s := proj_ite ringView rfl rfl

theorem ringView_sendBarrier (s : State) (p r kind step attempt arg : Nat) (d : List Byte) :
    ringView (sendBarrier s p r kind step attempt arg d) = ringView s := by
  unfold sendBarrier routeFlit
  exact ringView_routeAs ..

/-! ## Cuts -/

theorem ringView_withCk (s : State) (p : Nat) (f : CkRegs → CkRegs) : ringView (withCk s p f) = ringView s := rfl

theorem ringView_cutFails (s : State) (p reason : Nat) : ringView (cutFails s p reason) = ringView s := by
  unfold cutFails
  rw [ringView_sendEvent, ringView_withCk]

theorem ringView_drainStart (s : State) (p : Nat) : ringView (drainStart s p) = ringView s := rfl

theorem ringView_setJobCut (s : State) (p cut : Nat) : ringView (setJobCut s p cut) = ringView s :=
  proj_ite ringView rfl (proj_ite ringView (ringView_drainStart ..) rfl)

theorem ringView_cutResult (s : State) (p r cut : Nat) (ok : Bool) : ringView (cutResult s p r cut ok) = ringView s := by
  unfold cutResult
  simp only
  refine proj_ite ringView rfl (proj_ite ringView ?_ (proj_ite ringView ?_ rfl))
  · rw [ringView_sendBarrier, ringView_withCk, ringView_withCk]
  · rw [ringView_setJobCut, ringView_withCk, ringView_withCk, ringView_withCk]

theorem ringView_dropStream (s : State) (p : Nat) : ringView (dropStream s p) = ringView s := by
  unfold dropStream
  split
  · rw [ringView_cutResult, ringView_cutFails]
  · rfl

theorem ringView_restoreSection (s : State) (p : Nat) (x : CkSection) (d : List Byte) :
    ringView (restoreSection s p x d) = ringView s := by
  unfold restoreSection
  simp only
  split
  · exact ringView_hbmStore ..
  · rfl
  · rfl
  · rfl

/-! ## Queue contexts and the end of a job -/

theorem ringView_stepDone (s : State) (k : Nat) (e : StepEntry) (status attempts : Nat) :
    ringView (stepDone s k e status attempts) = ringView s := by
  unfold stepDone
  split
  · rfl
  · simp only
    exact proj_ite ringView rfl (proj_ite ringView (ringView_raiseVector ..) rfl)

theorem ringView_flushCtx (s : State) (k status : Nat) : ringView (flushCtx s k status) = ringView s := by
  unfold flushCtx
  exact foldl_keeps ringView _ _ _ fun t e => ringView_stepDone ..

theorem ringView_twReturn (s : State) : ringView (twReturn s) = ringView s := by
  unfold twReturn
  split <;> rfl

theorem ringView_twDone (s : State) (l : Nat) : ringView (twDone s l) = ringView s := rfl

theorem ringView_twJobEnd (s : State) (p : Nat) : ringView (twJobEnd s p) = ringView s := by
  unfold twJobEnd
  split
  · rfl
  · refine proj_ite ringView rfl ?_
    split
    · exact ringView_twReturn s
    · rfl
    · rw [ringView_twDone, ringView_twReturn]

theorem ringView_jobEnd (s : State) (p cause status : Nat) : ringView (jobEnd s p cause status) = ringView s := by
  unfold jobEnd
  refine proj_ite ringView rfl ?_
  change ringView (twJobEnd (List.foldl _ _ _) p) = _
  rw [ringView_twJobEnd, foldl_keeps ringView _ _ _ fun _ _ => ringView_flushCtx ..]
  cases (part s p).current with
  | none => exact ringView_sendEvent ..
  | some x => exact proj_ite ringView (ringView_sendEvent ..) ((ringView_stepDone ..).trans (ringView_sendEvent ..))

theorem ringView_endAtBoundary (s : State) (p cause status : Nat) : ringView (endAtBoundary s p cause status) = ringView s := rfl

theorem ringView_askEnd (s : State) (p cause status : Nat) : ringView (askEnd s p cause status) = ringView s := by
  unfold askEnd
  simp only
  split
  · exact proj_ite ringView ((ringView_jobEnd ..).trans (ringView_endAtBoundary ..)) (ringView_endAtBoundary ..)
  · exact ringView_endAtBoundary ..

/-! ## The start of a job -/

theorem ringView_startSlice (s : State) (p : Nat) : ringView (startSlice s p) = ringView s := by
  unfold startSlice withMem
  simp only
  rw [ringView_withPart]
  exact proj_ite ringView rfl (ringView_zeroSlice ..)

theorem ringView_loadSegments (s : State) (p : Nat) (r : Prepared) : ringView (loadSegments s p r) = ringView s := by
  have hsegs : ringView (r.imgs.foldl (fun u b => (imageSegs b).foldl (fun v e =>
      hbmStore .quiet v p e.1 ((b.drop e.2.2).take e.2.1)) u) s) = ringView s :=
    foldl_keeps ringView _ _ s fun u b => foldl_keeps ringView _ _ u fun v e => ringView_hbmStore ..
  unfold loadSegments
  simp only
  exact proj_ite ringView hsegs ((foldl_keeps ringView _ _ _ fun u e => ringView_hbmStore ..).trans hsegs)

theorem ringView_clearPrev (s : State) (p : Nat) : ringView (clearPrev s p) = ringView s := rfl

theorem ringView_startJob (s : State) (p : Nat) (r : Prepared) : ringView (startJob s p r) = ringView s := by
  have hregs : ringView (clearPrev (withPart (loadSegments (startSlice (dropStream s p) p) p r) p
      (startPart s p r)) p) = ringView s := by
    rw [ringView_clearPrev, ringView_withPart, ringView_loadSegments, ringView_startSlice, ringView_dropStream]
  unfold startJob
  simp only
  cases r.restore with
  | none => exact proj_ite ringView ((ringView_sendEvent ..).trans hregs) hregs
  | some x =>
    have hback := (foldl_keeps ringView x.parts (fun t (e : CkSection × List Byte) => restoreSection t p e.1 e.2) _
      fun t e => ringView_restoreSection t p e.1 e.2).trans hregs
    exact proj_ite ringView ((ringView_sendEvent ..).trans hback) hback

theorem ringView_noteTorn (n : Nat) (s : State) (p : Nat) : ringView (noteTorn n s p) = ringView s := by
  induction n generalizing s with
  | zero => rfl
  | succ n ih => rw [noteTorn, ih, ringView_sendEvent, ringView_withCk]

/-- The state that JOB_START leaves. -/
def StartEnd.state : StartEnd → State
  | .fails _ t => t
  | .starts t _ => t

theorem ringView_jobStart (s : State) (p addr : Nat) (far : Far) : ringView (jobStart s p addr far).state = ringView s := by
  have hite : ∀ {c : Prop} [Decidable c] {a b : StartEnd}, ringView a.state = ringView s → ringView b.state = ringView s →
      ringView (if c then a else b).state = ringView s := by
    intro c _ a b ha hb
    split <;> assumption
  unfold jobStart
  simp only
  refine hite rfl (hite rfl (hite rfl (hite rfl (hite rfl (hite rfl (hite rfl ?_))))))
  split
  · rfl
  · refine hite rfl (hite rfl (hite rfl (hite (ringView_noteTorn ..) ?_)))
    exact (ringView_startJob ..).trans (ringView_noteTorn ..)

/-! ## The other commands -/

theorem ringView_releasePart (s : State) (p : Nat) : ringView (releasePart s p) = ringView s := by
  unfold releasePart
  simp only
  rw [ringView_withPart, ringView_zeroSlice, ringView_dropStream]

theorem ringView_ctxConfig (s : State) (a : HostArgs) : ringView (ctxConfig s a).2 = ringView s := by
  unfold ctxConfig
  simp only
  split
  · rfl
  · split <;> rfl

theorem ringView_dropCtx (s : State) (k : Nat) : ringView (dropCtx s k) = ringView s := rfl

theorem ringView_ctxClear (s : State) (a : HostArgs) : ringView (ctxClear s a).2 = ringView s := by
  unfold ctxClear
  simp only
  split
  · rfl
  · split
    · rfl
    · exact (ringView_dropCtx ..).trans (ringView_flushCtx ..)

theorem ringView_jobRelease (s : State) (p : Nat) : ringView (jobRelease s p).2 = ringView s := by
  unfold jobRelease
  split
  · exact ringView_releasePart s p
  · rfl

theorem ringView_fwStage (s : State) (b : List Byte) (key : BitVec 768) : ringView (fwStage s b key).2.2 = ringView s := by
  unfold fwStage
  split
  · rfl
  · split
    · simp only
      split <;> rfl
    · rfl
    · rfl

theorem ringView_packInstall (s : State) (b : List Byte) (key : BitVec 768) : ringView (packInstall s b key).2 = ringView s := by
  unfold packInstall
  rw [apply_ite Prod.snd, apply_ite Prod.snd, apply_ite Prod.snd]
  exact proj_ite ringView rfl (proj_ite ringView rfl (proj_ite ringView rfl rfl))

theorem ringView_layAll (s : State) : ringView (layAll s) = ringView s := by
  unfold layAll
  exact foldl_keeps ringView _ _ s fun t p => proj_ite ringView rfl rfl

theorem ringView_putPlan (s : State) (e : Nat) : ringView (putPlan s e) = ringView s := by
  unfold putPlan
  simp only
  exact ringView_layAll _

end Sys2Proof.Machine
end

section
/-! SUPPORT. What a command does to its function's ring and mailbox, how firmware takes commands up one after another, and O45 from them
(17, R554, R565, R566; 20, R654). -/

namespace Sys2Proof.Machine

/-! ## A function between two commands -/

/-- Nothing stands in the mailbox, or it is a mailbox command alone that waits. -/
def mboxSettled (f : Fn) : Prop := f.mboxGo = false ∨ (f.waits ≠ [] ∧ ∀ w ∈ f.waits, w.mbox = true)

/-- From s to t, what firmware looks at before it takes a command of function k up stands, and so does the function's ring; its mailbox stays
settled. -/
def ringStands (k : Nat) (s t : State) : Prop :=
  (ringView t).1 = (ringView s).1 ∧ t.host.fns.length = s.host.fns.length ∧ (fnOf t k).cmdSize = (fnOf s k).cmdSize ∧
    (fnOf t k).cmdTail = (fnOf s k).cmdTail ∧ (fnOf t k).cmdHead = (fnOf s k).cmdHead ∧
    (mboxSettled (fnOf s k) → mboxSettled (fnOf t k))

theorem ringStands.trans {k : Nat} {s t u : State} (h : ringStands k s t) (h' : ringStands k t u) : ringStands k s u := by
  obtain ⟨hgate, hlen, hsize, htail, hhead, hmbox⟩ := h
  obtain ⟨hgate', hlen', hsize', htail', hhead', hmbox'⟩ := h'
  exact ⟨hgate'.trans hgate, hlen'.trans hlen, hsize'.trans hsize, htail'.trans htail, hhead'.trans hhead, fun hs => hmbox' (hmbox hs)⟩

theorem fnRing_of_view {s t : State} (h : ringView t = ringView s) (k : Nat) : fnRing (fnOf t k) = fnRing (fnOf s k) := by
  have hfns : t.host.fns.map fnRing = s.host.fns.map fnRing := congrArg Prod.snd h
  have hget : ∀ u : State, fnRing (fnOf u k) = (u.host.fns.map fnRing).getD k (fnRing fnReset) := fun u => (List.getD_map ..).symm
  rw [hget, hget, hfns]

theorem eqs_of_fnRing {x y : Fn} (h : fnRing x = fnRing y) :
    x.cmdSize = y.cmdSize ∧ x.cmdTail = y.cmdTail ∧ x.cmdHead = y.cmdHead ∧ x.mboxGo = y.mboxGo ∧ x.waits = y.waits := by
  unfold fnRing at h
  simpa only [Prod.mk.injEq] using h

theorem ringStands_of_view {s t : State} (h : ringView t = ringView s) (k : Nat) : ringStands k s t := by
  obtain ⟨hsize, htail, hhead, hgo, hwaits⟩ := eqs_of_fnRing (fnRing_of_view h k)
  have hlen := congrArg (fun v => v.2.length) h
  unfold ringView at hlen
  simp only [List.length_map] at hlen
  refine ⟨congrArg Prod.fst h, hlen, hsize, htail, hhead, fun hs => ?_⟩
  unfold mboxSettled at hs ⊢
  rwa [hgo, hwaits]

theorem ringStands.refl (k : Nat) (s : State) : ringStands k s s := ringStands_of_view rfl k

/-- Firmware answers by what stands. -/
theorem ringsServed_of_view {s t : State} (h : (ringView t).1 = (ringView s).1) :
    ringsServed t = ringsServed s ∧ t.host.up = s.host.up := by
  unfold ringView at h
  simp only [Prod.mk.injEq] at h
  obtain ⟨hmain, hst, hfw, hup⟩ := h
  refine ⟨?_, hup⟩
  unfold ringsServed barFull fwWorks
  rw [hmain, hst, hfw]

/-! ## Completions -/

/-- A function after a command of it has been completed: nothing of its kind waits, and a mailbox command leaves the mailbox (17, R566). -/
def closedFn (w : CmdWait) (f : Fn) : Fn :=
  { f with waits := f.waits.filter (fun y => y.mbox != w.mbox), mboxGo := f.mboxGo && !w.mbox }

theorem ringView_completeCmd (s : State) (k : Nat) (w : CmdWait) (status value : Nat) :
    ringView (completeCmd s k w status value) = ringView (withFn s k (closedFn w)) := by
  unfold completeCmd
  simp only
  cases hm : w.mbox with
  | true =>
    rw [if_pos rfl, ringView_raiseVector, withFn_withFn]
    exact ringView_withFn_congr s k fun x => by simp [fnRing, closedFn, hm]
  | false =>
    have hclosed : ∀ x, fnRing { x with waits := x.waits.filter (fun y => y.mbox != false) } = fnRing (closedFn w x) := fun x => by
      simp [fnRing, closedFn, hm]
    rw [if_neg Bool.false_ne_true]
    refine proj_ite ringView (ringView_withFn_congr s k hclosed) (proj_ite ringView ?_ ?_)
    · rw [ringView_raiseVector, ringView_hostWrite, withFn_withFn]
      exact ringView_withFn_congr s k hclosed
    · rw [ringView_holdWrite, withFn_withFn]
      exact ringView_withFn_congr s k hclosed

theorem mboxSettled_closedFn {w : CmdWait} {f : Fn} (h : w.mbox = true ∨ mboxSettled f) : mboxSettled (closedFn w f) := by
  unfold mboxSettled closedFn at *
  cases hm : w.mbox with
  | true => exact .inl (Bool.and_false _)
  | false =>
    rcases h with h | h | ⟨hwaits, hall⟩
    · exact absurd h (by rw [hm]; exact Bool.false_ne_true)
    · exact .inl (by rw [h]; rfl)
    · have hkeep : f.waits.filter (fun y => y.mbox != false) = f.waits :=
        List.filter_eq_self.2 fun y hy => by rw [hall y hy]; rfl
      refine .inr ?_
      dsimp only
      rw [hkeep]
      exact ⟨hwaits, hall⟩

/-- A change of one function that leaves its ring, and its mailbox settled, shows so at every function. -/
theorem ringStands_withFn (k : Nat) (s : State) (j : Nat) {f : Fn → Fn}
    (hring : ∀ x, (f x).cmdSize = x.cmdSize ∧ (f x).cmdTail = x.cmdTail ∧ (f x).cmdHead = x.cmdHead)
    (hsettled : mboxSettled (fnOf s k) → mboxSettled (f (fnOf s k))) : ringStands k s (withFn s j f) := by
  have hfn : fnOf (withFn s j f) k = fnOf s k ∨ fnOf (withFn s j f) k = f (fnOf s k) := by
    unfold fnOf withFn
    rw [updAt_getD]
    split
    · exact .inr rfl
    · exact .inl rfl
  have hlen : (withFn s j f).host.fns.length = s.host.fns.length := by rw [fns_shape, withFn_shape, ← fns_shape]
  refine ⟨rfl, hlen, ?_⟩
  obtain ⟨hsize, htail, hhead⟩ := hring (fnOf s k)
  rcases hfn with h | h <;> rw [h]
  · exact ⟨rfl, rfl, rfl, id⟩
  · exact ⟨hsize, htail, hhead, hsettled⟩

theorem ringStands_completeCmd (k : Nat) (s : State) (j : Nat) (w : CmdWait) (status value : Nat) :
    ringStands k s (completeCmd s j w status value) :=
  (ringStands_withFn k s j (f := closedFn w) (fun _ => ⟨rfl, rfl, rfl⟩) fun h => mboxSettled_closedFn (Or.inr h)).trans
    (ringStands_of_view (ringView_completeCmd s j w status value) k)

theorem ringStands_completeWait (k : Nat) (s : State) (j : Nat) (is : CmdWait → Bool) (status : Nat) (value : CmdWait → Nat) :
    ringStands k s (completeWait s j is status value) := by
  unfold completeWait
  split
  · exact ringStands_completeCmd ..
  · exact .refl k s

theorem ringStands_foldl {α : Type} (k : Nat) (l : List α) (g : State → α → State) (s : State) (h : ∀ t x, ringStands k t (g t x)) :
    ringStands k s (l.foldl g s) := by
  induction l generalizing s with
  | nil => exact .refl k s
  | cons x l ih => exact (h s x).trans (ih (g s x))

/-! ## Commands -/

theorem ringView_withQp (s : State) (c : Nat) (f : QpCtx → QpCtx) : ringView (withQp s c f) = ringView s := rfl

theorem ringStands_qpFlush (k fuel : Nat) (s : State) (c : Nat) : ringStands k s (qpFlush fuel s c) := by
  induction fuel generalizing s with
  | zero => exact .refl k s
  | succ fuel ih =>
    unfold qpFlush
    dsimp only
    split
    · split
      · exact (ringStands_of_view (ringView_withQp ..) k).trans ((ringStands_completeWait ..).trans (ih _))
      · split
        · exact (ringStands_of_view (ringView_withQp ..) k).trans ((ringStands_completeWait ..).trans (ih _))
        · exact (ringStands_of_view (ringView_withQp ..) k).trans ((ringStands_completeWait ..).trans (ih _))
      · exact .refl k s
    · exact .refl k s

theorem ringStands_qpDisable (k : Nat) (s : State) (c : Nat) : ringStands k s (qpDisable s c) := by
  unfold qpDisable
  exact (ringStands_of_view (ringView_withQp ..) k).trans (ringStands_foldl k _ _ _ fun t w => ringStands_completeWait ..)

/-- The plan that is put down once the solver's contexts are disabled (17, R569). -/
theorem ringStands_putPlan (k : Nat) (s : State) (e : Nat) : ringStands k s (putPlan ((List.range 8).foldl qpDisable s) e) :=
  (ringStands_foldl k (List.range 8) qpDisable s fun t c => ringStands_qpDisable k t c).trans (ringStands_of_view (ringView_putPlan ..) k)

theorem ringView_regrouped (s : State) (cs : List QCtx) (qs : List Partition) (ps : List LkPort) :
    ringView { s with host := { s.host with ctxs := cs }, parts := qs, ports := ps } = ringView s := rfl

theorem ringStands_planChange (k : Nat) (s : State) (e : Nat) : ringStands k s (planChange s e).2 := by
  have hflushed : ∀ u : State, ringView u = ringView s → ∀ cs : List QCtx,
      ringView (cs.foldl (fun t c => flushCtx t c.k 0x0207) u) = ringView s := fun u hu cs =>
    (foldl_keeps ringView cs _ u fun t c => ringView_flushCtx t c.k 0x0207).trans hu
  have hreleased : ringView ((List.range (planCount s)).foldl releasePart s) = ringView s :=
    foldl_keeps ringView _ _ s ringView_releasePart
  unfold planChange
  split
  · exact ringStands.refl k s
  · split
    · exact ringStands.refl k s
    · split
      · exact ringStands.refl k s
      · dsimp only
        refine ringStands.trans (ringStands_of_view ?_ k) (ringStands_putPlan ..)
        exact (ringView_regrouped ..).trans (hflushed _ hreleased _)

theorem ringView_answerBuf (s : State) (p l i : Nat) (kind : BufKind) (d : List Byte) (poison : Bool) :
    ringView (answerBuf s p l i kind d poison) = ringView s := rfl

theorem ringStands_seedGive (k : Nat) (s : State) (r : SeedReq) (seed : Option (List Byte)) : ringStands k s (seedGive s r seed) := by
  unfold seedGive
  split
  · split
    · exact (ringStands_of_view (ringView_toHost ..) k).trans (ringStands_completeWait ..)
    · exact ringStands_completeWait ..
  · split
    · exact ringStands_of_view (ringView_answerBuf ..) k
    · exact ringStands_of_view (ringView_answerBuf ..) k

theorem ringView_withNoise (s : State) (f : Noise → Noise) : ringView (withNoise s f) = ringView s := rfl

theorem ringStands_seedAsk (k : Nat) (s : State) (r : SeedReq) : ringStands k s (seedAsk s r) := by
  unfold seedAsk
  split
  · exact ringStands_seedGive ..
  · split
    · exact ringStands_of_view (ringView_withNoise ..) k
    · exact (ringStands_of_view (ringView_withNoise ..) k).trans (ringStands_seedGive ..)

/-- A command of function k has been performed: what stands between commands stands, and the mailbox is settled. -/
def ringRan (k : Nat) (s t : State) : Prop := ringStands k s t ∧ mboxSettled (fnOf t k)

theorem ringRan.trans {k : Nat} {s t u : State} (h : ringRan k s t) (h' : ringStands k t u) : ringRan k s u := by
  obtain ⟨hstands, hsettled⟩ := h
  obtain ⟨-, -, -, -, -, hmbox⟩ := id h'
  exact ⟨hstands.trans h', hmbox hsettled⟩

section
variable {k : Nat} {s u : State} {w : CmdWait} (hu : ringStands k s u) (hk : k < s.host.fns.length)
  (hw : w.mbox = true ∨ (fnOf s k).mboxGo = false)
include hu hk hw

/-- A command that completes. -/
theorem ringRan_completeCmd (status value : Nat) : ringRan k s (completeCmd u k w status value) := by
  obtain ⟨-, hlen, -, -, -, hmbox⟩ := id hu
  have hring := fnRing_of_view (ringView_completeCmd u k w status value) k
  rw [fnOf_withFn (by rwa [hlen])] at hring
  obtain ⟨-, -, -, hgo, hwaits⟩ := eqs_of_fnRing hring
  have hclosed : mboxSettled (closedFn w (fnOf u k)) := mboxSettled_closedFn (hw.imp_right fun h => hmbox (.inl h))
  refine ⟨hu.trans (ringStands_completeCmd ..), ?_⟩
  unfold mboxSettled at hclosed ⊢
  rwa [hgo, hwaits]

/-- A command that waits. -/
theorem ringRan_waits (hempty : (fnOf u k).waits = []) (hgo : (fnOf u k).mboxGo = (fnOf s k).mboxGo) {w' : CmdWait} (hw' : w'.mbox = w.mbox) :
    ringRan k s (withFn u k (fun f => { f with waits := f.waits ++ [w'] })) := by
  obtain ⟨-, hlen, -⟩ := id hu
  have hsettled : mboxSettled { fnOf u k with waits := (fnOf u k).waits ++ [w'] } := by
    rcases hw with h | h
    · refine .inr ⟨by simp, fun y hy => ?_⟩
      rw [hempty, List.nil_append, List.mem_singleton] at hy
      rw [hy, hw', h]
    · exact .inl (hgo.trans h)
  refine ⟨hu.trans (ringStands_withFn k u k (fun _ => ⟨rfl, rfl, rfl⟩) fun _ => hsettled), ?_⟩
  rw [fnOf_withFn (by rwa [hlen])]
  exact hsettled

end

section
variable {s : State} {a : HostArgs} {w : CmdWait} (hk : a.fn < s.host.fns.length) (hempty : (fnOf s a.fn).waits = [])
  (hw : w.mbox = true ∨ (fnOf s a.fn).mboxGo = false)
include hk hempty hw

theorem ringRan_startCmd (far : Far) : ringRan a.fn s (startCmd s a w far) := by
  have hview := ringView_jobStart s (argPart a) (argAt a 8 8) far
  unfold startCmd
  simp only
  cases hstart : jobStart s (argPart a) (argAt a 8 8) far with
  | fails st t =>
    rw [hstart] at hview
    exact ringRan_completeCmd (ringStands_of_view hview _) hk hw ..
  | starts t first =>
    rw [hstart] at hview
    obtain ⟨-, -, -, hgo, hwaits⟩ := eqs_of_fnRing (fnRing_of_view (t := t) hview a.fn)
    exact ringRan_waits (ringStands_of_view hview _) hk hw (hwaits.trans hempty) hgo rfl

theorem ringRan_seedCmd : ringRan a.fn s (seedCmd s a w) := by
  unfold seedCmd
  exact (ringRan_waits (.refl ..) hk hw hempty rfl rfl).trans (ringStands_seedAsk ..)

theorem ringRan_svPerform : ringRan a.fn s (svPerform s a w) := by
  have hdone := ringRan_completeCmd (.refl a.fn s) hk hw
  have hwait : ∀ c r, ringRan a.fn s (qpFlush 17 (withQp (withFn s a.fn (fun f => { f with waits := f.waits ++ [{ w with arg := c }] })) c
      (fun y => { y with queue := y.queue ++ [r] })) c) := by
    intro c r
    have hwaits := ringRan_waits (ringStands.refl a.fn s) hk hw hempty rfl (w' := { w with arg := c }) rfl
    exact hwaits.trans ((ringStands_of_view (ringView_withQp _ c (fun y => { y with queue := y.queue ++ [r] })) _).trans
      (ringStands_qpFlush ..))
  have hite : ∀ {c : Prop} [Decidable c] {x y : State}, ringRan a.fn s x → ringRan a.fn s y → ringRan a.fn s (if c then x else y) := by
    intro c _ x y hx hy
    split <;> assumption
  unfold svPerform
  simp only
  split
  · exact hdone ..
  · exact hite (hwait ..) (hite (hwait ..) (hite (hdone ..) (hite (hdone ..) (hwait ..))))

/-- A command that firmware performs. -/
theorem ringRan_cmdPerform (key : BitVec 768) (far : Far) : ringRan a.fn s (cmdPerform s a w key far) := by
  have hdone : ∀ {t : State} (st v : Nat), ringView t = ringView s → ringRan a.fn s (completeCmd t a.fn w st v) := fun st v h =>
    ringRan_completeCmd (ringStands_of_view h _) hk hw st v
  unfold cmdPerform
  simp only
  split
  · exact ringRan_startCmd hk hempty hw far
  · split
    · exact hdone _ _ rfl
    · split
      · exact hdone _ _ (ringView_ctxConfig ..)
      · exact hdone _ _ (ringView_ctxClear ..)
      · exact hdone _ _ (ringView_askEnd ..)
      · exact hdone _ _ (ringView_jobRelease ..)
      · exact ringRan_completeCmd (ringStands_planChange ..) hk hw ..
      · exact ringRan_seedCmd hk hempty hw
      · exact hdone _ _ (ringView_fwStage ..)
      · exact hdone _ _ (ringView_packInstall ..)
      · exact ringRan_svPerform hk hempty hw

theorem ringRan_cmdRun (key : BitVec 768) (far : Far) : ringRan a.fn s (cmdRun s a w key far) := by
  have hdone := ringRan_completeCmd (.refl a.fn s) hk hw
  unfold cmdRun
  split
  · exact hdone ..
  · split
    · exact hdone ..
    · split
      · exact hdone ..
      · exact ringRan_cmdPerform hk hempty hw key far

end

/-- A command entry of a function of which nothing waits (17, R565, R566). -/
theorem ringRan_entryRun {s : State} {k : Nat} (hk : k < s.host.fns.length) (hempty : (fnOf s k).waits = []) {mbox : Bool}
    (hw : mbox = true ∨ (fnOf s k).mboxGo = false) (b : List Byte) (idx : Nat) (key : BitVec 768) (far : Far) :
    ringRan k s (entryRun s k b mbox idx key far) := by
  unfold entryRun
  simp only
  split
  · exact ringRan_completeCmd (.refl ..) hk hw ..
  · split
    · exact ringRan_completeCmd (.refl ..) hk hw ..
    · exact ringRan_cmdRun hk hempty hw key far

/-! ## One command after another -/

/-- The state in which the ring command of function k at its head is performed. -/
def headTaken (s : State) (k : Nat) : State :=
  withFn s k (fun x => { x with cmdHead := BitVec.ofNat 32 ((x.cmdHead.toNat + 1) % x.cmdSize.toNat) })

theorem fns_headTaken (s : State) (k : Nat) : (headTaken s k).host.fns.length = s.host.fns.length := by
  unfold headTaken
  rw [fns_shape, withFn_shape, ← fns_shape]

/-- The 64 bytes of the command at the head of the ring of function k. -/
def headEntry (s : State) (k : Nat) : List Byte := hostRead s ((fnOf s k).cmdBaseEff.toNat + 64 * (fnOf s k).cmdHead.toNat) 64

section
variable (k : Nat) (key : BitVec 768) (far : Far) (fuel : Nat) {s : State}

/-- One turn of the service of function k. -/
theorem pump_succ :
    pump k key far true (fuel + 1) s =
      if !(fnOf s k).waits.isEmpty || !ringsServed s then s
      else if (fnOf s k).mboxGo then pump k key far true fuel (entryRun s k (leBytes 64 (fnOf s k).mboxCmd.toNat) true 0 key far)
      else if decide ((fnOf s k).cmdSize = 0) || decide ((fnOf s k).cmdHead = (fnOf s k).cmdTail) || !s.host.up then s
      else pump k key far true fuel (entryRun (headTaken s k) k (headEntry s k) false (fnOf s k).cmdHead.toNat key far) := rfl

theorem pump_of_waits (h : (fnOf s k).waits ≠ []) : pump k key far true fuel s = s := by
  cases fuel with
  | zero => rfl
  | succ fuel =>
    rw [pump_succ, if_pos]
    rw [show (fnOf s k).waits.isEmpty = false by simpa using h]
    rfl

theorem pump_of_unserved (h : ringsServed s = false) : pump k key far true fuel s = s := by
  cases fuel with
  | zero => rfl
  | succ fuel =>
    rw [pump_succ]
    exact if_pos (by rw [h]; exact Bool.or_true _)

variable (hempty : (fnOf s k).waits = []) (hserved : ringsServed s = true)
include hempty hserved

/-- The mailbox command comes first. -/
theorem pump_of_mbox (hgo : (fnOf s k).mboxGo = true) :
    pump k key far true (fuel + 1) s =
      pump k key far true fuel (entryRun s k (leBytes 64 (fnOf s k).mboxCmd.toNat) true 0 key far) := by
  rw [pump_succ, hempty, hserved, hgo]
  rfl

/-- An empty mailbox and no ring command. -/
theorem pump_of_idle (hgo : (fnOf s k).mboxGo = false)
    (hidle : (decide ((fnOf s k).cmdSize = 0) || decide ((fnOf s k).cmdHead = (fnOf s k).cmdTail) || !s.host.up) = true) :
    pump k key far true (fuel + 1) s = s := by
  rw [pump_succ, hempty, hserved, hgo, hidle]
  rfl

/-- The ring command at the head. -/
theorem pump_of_ring (hgo : (fnOf s k).mboxGo = false)
    (hbusy : (decide ((fnOf s k).cmdSize = 0) || decide ((fnOf s k).cmdHead = (fnOf s k).cmdTail) || !s.host.up) = false) :
    pump k key far true (fuel + 1) s =
      pump k key far true fuel (entryRun (headTaken s k) k (headEntry s k) false (fnOf s k).cmdHead.toNat key far) := by
  rw [pump_succ, hempty, hserved, hgo, hbusy]
  rfl

end

/-- Something waits, or the mailbox is empty. -/
def pumpRests (f : Fn) : Prop := f.waits ≠ [] ∨ f.mboxGo = false

theorem pumpRests_of_settled {f : Fn} (h : mboxSettled f) : pumpRests f := by
  rcases h with h | ⟨h, -⟩
  · exact .inr h
  · exact .inl h

/-- The command at the head of the ring, performed while the mailbox is empty. -/
theorem ringRan_head {s : State} {k : Nat} (hk : k < s.host.fns.length) (hempty : (fnOf s k).waits = []) (hgo : (fnOf s k).mboxGo = false)
    (key : BitVec 768) (far : Far) :
    ringRan k (headTaken s k) (entryRun (headTaken s k) k (headEntry s k) false (fnOf s k).cmdHead.toNat key far) := by
  have hfn : fnOf (headTaken s k) k = _ := fnOf_withFn hk _
  exact ringRan_entryRun (by rwa [fns_headTaken]) ((congrArg Fn.waits hfn).trans hempty) (Or.inr ((congrArg Fn.mboxGo hfn).trans hgo)) ..

theorem pumpRests_pump (k : Nat) (key : BitVec 768) (far : Far) (fuel : Nat) {s : State} (hk : k < s.host.fns.length)
    (h : pumpRests (fnOf s k)) : pumpRests (fnOf (pump k key far true fuel s) k) := by
  induction fuel generalizing s with
  | zero => exact h
  | succ fuel ih =>
    by_cases hempty : (fnOf s k).waits = []
    case neg => rwa [pump_of_waits k key far _ hempty]
    cases hserved : ringsServed s with
    | false => rwa [pump_of_unserved k key far _ hserved]
    | true =>
      have hgo : (fnOf s k).mboxGo = false := h.resolve_left (fun hne => hne hempty)
      cases hidle : (decide ((fnOf s k).cmdSize = 0) || decide ((fnOf s k).cmdHead = (fnOf s k).cmdTail) || !s.host.up) with
      | true => rwa [pump_of_idle k key far fuel hempty hserved hgo hidle]
      | false =>
        obtain ⟨⟨-, hlen, -⟩, hsettled⟩ := ringRan_head hk hempty hgo key far
        rw [pump_of_ring k key far fuel hempty hserved hgo hidle]
        refine ih ?_ (pumpRests_of_settled hsettled)
        rwa [hlen, fns_headTaken]

/-- The mailbox command is performed, or something waits. -/
theorem pumpRests_of_fuel (k : Nat) (key : BitVec 768) (far : Far) (fuel : Nat) {s : State} (hk : k < s.host.fns.length)
    (hserved : ringsServed s = true) : pumpRests (fnOf (pump k key far true (fuel + 1) s) k) := by
  by_cases hempty : (fnOf s k).waits = []
  case neg => exact pumpRests_pump k key far _ hk (.inl hempty)
  cases hgo : (fnOf s k).mboxGo with
  | false => exact pumpRests_pump k key far _ hk (.inr hgo)
  | true =>
    obtain ⟨⟨-, hlen, -⟩, hsettled⟩ := ringRan_entryRun hk hempty (.inl rfl) (leBytes 64 (fnOf s k).mboxCmd.toNat) 0 key far
    rw [pump_of_mbox k key far fuel hempty hserved hgo]
    exact pumpRests_pump k key far fuel (by rwa [hlen]) (pumpRests_of_settled hsettled)

/-- The ring commands from index h up to index v of a ring of n. -/
def ringLeft (h v n : Nat) : Nat := if h ≤ v then v - h else v + n - h

theorem ringLeft_step {h v n : Nat} (hh : h < n) (hv : v < n) (hne : h ≠ v) : ringLeft ((h + 1) % n) v n + 1 = ringLeft h v n := by
  unfold ringLeft
  by_cases hwrap : h + 1 = n
  · rw [hwrap, Nat.mod_self]
    split <;> split <;> omega
  · rw [Nat.mod_eq_of_lt (by omega)]
    split <;> split <;> omega

/-- The commands that function k has still to be served. -/
def pumpLeft (f : Fn) : Nat := (if f.mboxGo then 1 else 0) + ringLeft f.cmdHead.toNat f.cmdTail.toNat f.cmdSize.toNat

/-- The ring of function k runs up to index v. -/
def ringReady (k : Nat) (v : Word32) (s : State) : Prop :=
  k < s.host.fns.length ∧ ringsServed s = true ∧ s.host.up = true ∧ (fnOf s k).cmdTail = v ∧ v.toNat < (fnOf s k).cmdSize.toNat ∧
    (fnOf s k).cmdHead.toNat < (fnOf s k).cmdSize.toNat

theorem ringReady_of_stands {k : Nat} {v : Word32} {s t : State} (h : ringStands k s t) (hs : ringReady k v s) : ringReady k v t := by
  obtain ⟨hgate, hlen, hsize, htail, hhead, -⟩ := h
  obtain ⟨hk, hserved, hup, hv, hvlt, hhlt⟩ := hs
  obtain ⟨hserved', hup'⟩ := ringsServed_of_view hgate
  exact ⟨by rwa [hlen], hserved'.trans hserved, hup'.trans hup, htail.trans hv, by rwa [hsize], by rwa [hhead, hsize]⟩

theorem pumpLeft_of_stands {k : Nat} {s t : State} (h : ringStands k s t) (hgo : (fnOf t k).mboxGo = false) :
    pumpLeft (fnOf t k) = ringLeft (fnOf s k).cmdHead.toNat (fnOf s k).cmdTail.toNat (fnOf s k).cmdSize.toNat := by
  obtain ⟨-, -, hsize, htail, hhead, -⟩ := h
  unfold pumpLeft
  rw [hgo, hsize, htail, hhead, if_neg Bool.false_ne_true, Nat.zero_add]

/-- What the service of a ring up to index v ends with: something waits, or nothing is left. -/
def pumpServed (v : Word32) (f : Fn) : Prop := f.cmdTail = v ∧ (f.waits ≠ [] ∨ (f.cmdHead = v ∧ f.mboxGo = false))

theorem ringLeft_eq_zero {h v n : Nat} (hh : h < n) (hzero : ringLeft h v n = 0) : h = v := by
  unfold ringLeft at hzero
  split at hzero <;> omega

/-- A ring with nothing left and an empty mailbox. -/
theorem pumpServed_of_head {k : Nat} {v : Word32} {s : State} (hs : ringReady k v s) (hgo : (fnOf s k).mboxGo = false)
    (hhead : (fnOf s k).cmdHead.toNat = v.toNat) : pumpServed v (fnOf s k) := by
  obtain ⟨-, -, -, hv, -⟩ := hs
  exact ⟨hv, .inr ⟨BitVec.eq_of_toNat_eq hhead, hgo⟩⟩

theorem ringReady_headTaken {k : Nat} {v : Word32} {s : State} (hs : ringReady k v s) : ringReady k v (headTaken s k) := by
  obtain ⟨hk, hserved, hup, hv, hvlt, hhlt⟩ := hs
  have hfn : fnOf (headTaken s k) k = _ := fnOf_withFn hk _
  refine ⟨by rwa [fns_headTaken], hserved, hup, ?_, ?_, ?_⟩ <;> rw [hfn]
  · exact hv
  · exact hvlt
  · have hpos : 0 < (fnOf s k).cmdSize.toNat := Nat.lt_of_le_of_lt (Nat.zero_le _) hhlt
    show (BitVec.ofNat 32 _).toNat < _
    rw [BitVec.toNat_ofNat]
    exact (Nat.mod_le _ _).trans_lt (Nat.mod_lt _ hpos)

theorem ringLeft_headTaken {k : Nat} {v : Word32} {s : State} (hs : ringReady k v s) (hne : (fnOf s k).cmdHead ≠ v) :
    let f := fnOf (headTaken s k) k
    ringLeft f.cmdHead.toNat f.cmdTail.toNat f.cmdSize.toNat + 1 =
      ringLeft (fnOf s k).cmdHead.toNat (fnOf s k).cmdTail.toNat (fnOf s k).cmdSize.toNat := by
  obtain ⟨hk, -, -, hv, hvlt, hhlt⟩ := hs
  have hfn : fnOf (headTaken s k) k = _ := fnOf_withFn hk _
  have hmod : ((fnOf s k).cmdHead.toNat + 1) % (fnOf s k).cmdSize.toNat < 2 ^ 32 :=
    (Nat.mod_lt _ (Nat.lt_of_le_of_lt (Nat.zero_le _) hhlt)).trans (fnOf s k).cmdSize.isLt
  intro f
  show ringLeft (fnOf (headTaken s k) k).cmdHead.toNat (fnOf (headTaken s k) k).cmdTail.toNat (fnOf (headTaken s k) k).cmdSize.toNat + 1 = _
  rw [hfn]
  dsimp only
  rw [BitVec.toNat_ofNat, Nat.mod_eq_of_lt hmod]
  rw [hv]
  exact ringLeft_step hhlt hvlt fun h => hne (BitVec.eq_of_toNat_eq h)

/-- Firmware serves a ring until something waits or nothing is left. -/
theorem pump_serves (k : Nat) (key : BitVec 768) (far : Far) (v : Word32) (fuel : Nat) {s : State} (hs : ringReady k v s)
    (hfuel : pumpLeft (fnOf s k) ≤ fuel) : pumpServed v (fnOf (pump k key far true fuel s) k) := by
  induction fuel generalizing s with
  | zero =>
    show pumpServed v (fnOf s k)
    obtain ⟨hk, -, -, hv, -, hhlt⟩ := id hs
    unfold pumpLeft at hfuel
    have hgo : (fnOf s k).mboxGo = false := by
      cases h : (fnOf s k).mboxGo with
      | false => rfl
      | true =>
        rw [h, if_pos rfl] at hfuel
        omega
    exact pumpServed_of_head hs hgo (by rw [← hv]; exact ringLeft_eq_zero hhlt (by omega))
  | succ fuel ih =>
    obtain ⟨hk, hserved, hup, hv, hvlt, hhlt⟩ := id hs
    have hnext : ∀ {u t : State}, ringReady k v u → ringRan k u t →
        ringLeft (fnOf u k).cmdHead.toNat (fnOf u k).cmdTail.toNat (fnOf u k).cmdSize.toNat ≤ fuel →
        pumpServed v (fnOf (pump k key far true fuel t) k) := by
      rintro u t hu ⟨hstands, hsettled⟩ hleft
      have hready := ringReady_of_stands hstands hu
      by_cases hwaits : (fnOf t k).waits = []
      · have hgo : (fnOf t k).mboxGo = false := hsettled.resolve_right fun h => h.1 hwaits
        exact ih hready (by rwa [pumpLeft_of_stands hstands hgo])
      · obtain ⟨-, -, -, htail, -⟩ := hready
        rw [pump_of_waits k key far _ hwaits]
        exact ⟨htail, .inl hwaits⟩
    by_cases hempty : (fnOf s k).waits = []
    case neg =>
      rw [pump_of_waits k key far _ hempty]
      exact ⟨hv, .inl hempty⟩
    unfold pumpLeft at hfuel
    cases hgo : (fnOf s k).mboxGo with
    | true =>
      rw [pump_of_mbox k key far fuel hempty hserved hgo]
      rw [hgo, if_pos rfl] at hfuel
      exact hnext hs (ringRan_entryRun hk hempty (.inl rfl) ..) (by omega)
    | false =>
      have hsize : (fnOf s k).cmdSize ≠ 0 := fun h => by rw [h] at hvlt; exact absurd hvlt (Nat.not_lt_zero _)
      by_cases hhead : (fnOf s k).cmdHead = v
      · rw [pump_of_idle k key far fuel hempty hserved hgo (by rw [hv, hhead]; simp)]
        exact pumpServed_of_head hs hgo (congrArg BitVec.toNat hhead)
      · rw [pump_of_ring k key far fuel hempty hserved hgo (by rw [hv, hup, decide_eq_false hsize, decide_eq_false hhead]; rfl)]
        have hstep := ringLeft_headTaken hs hhead
        dsimp only at hstep
        exact hnext (ringReady_headTaken hs) (ringRan_head hk hempty hgo key far) (by omega)

/-! ## Host commands -/

/-- The row of a host command is that command. -/
theorem exec_hostRow {a : HostArgs} {key : BitVec 768} {far : Far} {e : Nat × Instr} (he : e ∈ hostRows a key far) (s : State) :
    ∃ key' far', exec e.2 s = hostCmd a e.1 key' far' s := by
  unfold hostRows at he
  simp only [List.mem_cons, List.not_mem_nil, or_false] at he
  rcases he with rfl | rfl | rfl | rfl | rfl | rfl | rfl | rfl | rfl | rfl | rfl | rfl | rfl <;> exact ⟨_, _, rfl⟩

theorem hostCmd_of_waits {s : State} {a : HostArgs} (hfn : a.fn < 13) (h : (fnOf s a.fn).waits ≠ []) (op : Nat) (key : BitVec 768) (far : Far) :
    hostCmd a op key far s = .next s := by
  unfold hostCmd
  rw [onUnit_of_true (decide_eq_true hfn)]
  simp only
  rw [if_pos]
  rw [show (fnOf s a.fn).waits.isEmpty = false by simpa using h]
  rfl

/-- A command that is completed with a status before it is performed (17, R554, R566; 20, R654). -/
theorem answered_hostCmd {s : State} {a : HostArgs} (h : hostAsks s a) {op status : Nat} {key : BitVec 768} {far : Far}
    (hrun : cmdRun (asked s a) a (askedWait s a op) key far = completeCmd (asked s a) a.fn (askedWait s a op) status 0) :
    ∃ t, hostCmd a op key far s = .next t ∧ engineStands s t ∧ completed s t a status 0 := by
  rw [hostCmd_eq h, hrun]
  exact ⟨_, rfl, engineStands_completeCmd (engineStands_asked s a) .., completed_completeCmd h rfl ..⟩

theorem cmdGate_of_works {s : State} (h : fwWorks s = true) : cmdGate s = none := by
  unfold fwWorks at h
  unfold cmdGate
  cases hst : s.boot.st <;> simp_all

/-- What a host command meets before it is performed: the start-up, an absent VF, its own form (17, R554, R566; 20, R654). -/
theorem hostCmd_before {s : State} {a : HostArgs} (hasks : hostAsks s a) (op : Nat) (key : BitVec 768) (far : Far) :
    let answers (status : Nat) : Prop := ∃ t, hostCmd a op key far s = .next t ∧ engineStands s t ∧ completed s t a status 0
    (s.boot.st = .failed → answers s.boot.fail.toNat) ∧ (s.boot.st = .start → answers 0x02F3) ∧
      (fwWorks s = true → planCount s < a.fn → answers 0x0202) ∧
      (fwWorks s = true → a.fn ≤ planCount s → cmdMalformed a op = true → answers 0x0101) := by
  refine ⟨fun hst => ?_, fun hst => ?_, fun hworks habsent => ?_, fun hworks hthere hform => ?_⟩ <;>
    refine answered_hostCmd hasks ?_ <;> unfold cmdRun
  · have hgate : cmdGate (asked s a) = some s.boot.fail.toNat := by
      show cmdGate s = _
      unfold cmdGate
      rw [hst]
    rw [hgate]
  · have hgate : cmdGate (asked s a) = some 0x02F3 := by
      show cmdGate s = _
      unfold cmdGate
      rw [hst]
    rw [hgate]
  · have hvf : (a.fn != 0 && decide (planCount s < a.fn)) = true := by
      have hne : a.fn ≠ 0 := by omega
      simp [hne, habsent]
    rw [show cmdGate (asked s a) = none from cmdGate_of_works (s := s) hworks]
    exact if_pos hvf
  · have hvf : ¬ (a.fn != 0 && decide (planCount s < a.fn)) = true := by
      rw [decide_eq_false (Nat.not_lt.2 hthere), Bool.and_false]
      exact Bool.false_ne_true
    rw [show cmdGate (asked s a) = none from cmdGate_of_works (s := s) hworks]
    exact (if_neg hvf).trans (if_pos hform)

/-- A new tail index is served up to it. -/
theorem pumpServed_cmdTail {s : State} {fn : Nat} {v : Word32} (hk : fn < s.host.fns.length) (hserved : ringsServed s = true)
    (hin : v.toNat < (fnOf s fn).cmdSize.toNat) (hhead : (fnOf s fn).cmdHead.toNat < (fnOf s fn).cmdSize.toNat) (hup : s.host.up = true)
    (key : BitVec 768) (far : Far) : pumpServed v (fnOf (cmdTail s fn v.toNat key far true) fn) := by
  have hfn : fnOf (withFn s fn (fun x => { x with cmdTail := BitVec.ofNat 32 v.toNat })) fn = { fnOf s fn with cmdTail := v } := by
    rw [fnOf_withFn hk, BitVec.ofNat_toNat, BitVec.setWidth_eq]
  have hready : ringReady fn v (withFn s fn (fun x => { x with cmdTail := BitVec.ofNat 32 v.toNat })) := by
    refine ⟨by rwa [fns_shape, withFn_shape, ← fns_shape], hserved, hup, ?_, ?_, ?_⟩ <;> rw [hfn]
    · exact hin
    · exact hhead
  unfold cmdTail pumpFn
  rw [if_pos hin]
  refine pump_serves fn key far v _ hready ?_
  rw [hfn]
  unfold pumpLeft ringLeft
  dsimp only
  split <;> split <;> omega

/-- Settles O45: the rows by the branches of one command, and the ring by what each command leaves of its function. -/
theorem hostCommands : Obligations.HostCommands := by
  unfold Obligations.HostCommands
  refine ⟨fun s a key far e he => ?_, fun s fn v key far hfn hlen hserved => ?_⟩
  · obtain ⟨key', far', hexec⟩ := exec_hostRow he s
    rw [hexec]
    exact ⟨fun hfn hwaits => hostCmd_of_waits hfn hwaits .., fun hasks => hostCmd_before hasks ..⟩
  · intro f
    have hk : fn < s.host.fns.length := hlen ▸ hfn
    have htail : ∀ t, (if ringsServed s then t else s) = t := fun t => if_pos hserved
    have hexec : exec (.cmdTailWrite fn v key far) s = .next (cmdTail s fn v.toNat key far true) :=
      (onUnit_of_true (decide_eq_true hfn) _).trans (congrArg Host.Outcome.next (htail _))
    have hmbox : exec (.mboxGo fn key far) s = .next (mboxGo s fn key far true) :=
      (onUnit_of_true (decide_eq_true hfn) _).trans (congrArg Host.Outcome.next (htail _))
    refine ⟨fun hout => ?_, fun hin hhead hup => ?_, fun hgo => ?_, fun hgo => ?_⟩
    · rw [hexec]
      unfold cmdTail
      rw [if_neg (Nat.not_lt.2 hout)]
    · have hfuse := (fuse_shape (cmdTail s fn v.toNat key far true)).trans
        ((congrArg Shape.fuse (cmdTail_shape s fn v.toNat key far true)).trans (fuse_shape s).symm)
      obtain ⟨hv, hends⟩ := pumpServed_cmdTail hk hserved hin hhead hup key far
      exact ⟨_, hexec, hv, hfuse, hends⟩
    · rw [hmbox]
      unfold mboxGo
      rw [if_pos hgo]
    · refine ⟨_, hmbox, ?_⟩
      unfold mboxGo pumpFn
      rw [if_neg (by rw [show (fnOf s fn).mboxGo = false from hgo]; exact Bool.false_ne_true)]
      exact pumpRests_of_fuel fn key far _ (by rwa [fns_shape, withFn_shape, ← fns_shape]) hserved

end Sys2Proof.Machine
end
